-- ==== Sys2Proof/Word.lean ====
section
/-!
DEFINITION. Sys2Proof/Word.lean: the word types of the YN80 (R2, R14).
-/
namespace Sys2Proof

/-- A 64-bit lane, uniform or special register (R14). -/
abbrev Word := BitVec 64

/-- One byte of memory. -/
abbrev Byte := BitVec 8

/-- An instruction word (R276). -/
abbrev Code := BitVec 32

/-- A register number field, 0 to 63 (R278). -/
abbrev Reg := BitVec 6

end Sys2Proof
end

