-- ==== Sys2Proof/Syntax.lean ====
section
/-!
DEFINITION. Sys2Proof/Syntax.lean: the instructions and events of the YN80, one constructor per row of
spec/opcode_table.json. An instruction word's constructor carries all the fields of its format (R278, R296),
the ones its entry leaves unused included, because a nonzero unused field is recorded (R300). An event's
constructor carries the names of the units it concerns, or the values that an outside party supplies.
-/
namespace Sys2Proof

/-! ### Word formats (R278, R296) -/

/-- Format LA. -/
structure LA where
  d : Reg
  a : Reg
  b : Reg
  t : BitVec 3
  gn : BitVec 1
  g : BitVec 3
  deriving DecidableEq, Repr

/-- Format LI. -/
structure LI where
  d : Reg
  a : Reg
  imm : BitVec 9
  gn : BitVec 1
  g : BitVec 3
  deriving DecidableEq, Repr

/-- Format LX. -/
structure LX where
  d : Reg
  a : Reg
  b : Reg
  l : BitVec 4
  g : BitVec 3
  deriving DecidableEq, Repr

/-- Format LXA. -/
structure LXA where
  d : Reg
  a : Reg
  b : Reg
  l : BitVec 4
  op : BitVec 3
  deriving DecidableEq, Repr

/-- Format LM. -/
structure LM where
  d : Reg
  a : Reg
  l : BitVec 4
  w : BitVec 3
  sp : BitVec 2
  sx : BitVec 1
  g : BitVec 3
  deriving DecidableEq, Repr

/-- Format LB. -/
structure LB where
  off : BitVec 22
  g : BitVec 3
  deriving DecidableEq, Repr

/-- Formats SA and SE, which have one layout. -/
structure SA where
  d : Reg
  a : Reg
  b : Reg
  fn : BitVec 3
  l : BitVec 4
  deriving DecidableEq, Repr

/-- Format SI. -/
structure SI where
  d : Reg
  a : Reg
  imm : BitVec 13
  deriving DecidableEq, Repr

/-- Format SW. -/
structure SW where
  d : Reg
  imm : BitVec 19
  deriving DecidableEq, Repr

/-- Format SB. -/
structure SB where
  a : Reg
  off : BitVec 19
  deriving DecidableEq, Repr

/-- The prefix word of R283. It has no mnemonic and no constructor of its own: it widens the word behind it. -/
structure Pfx where
  e : Reg
  m : BitVec 3
  z : BitVec 1
  rnd : BitVec 3
  sat : BitVec 1
  rsv : BitVec 11
  deriving DecidableEq, Repr

/-! ### Names that events carry -/

/-- A context of a thread: level 0 is the thread itself (its innermost callee while forks are open), level d is
the continuation of its open fork of depth d (R203, R212). -/
structure CtxId where
  wg : Nat
  tix : Nat
  lvl : Nat
  deriving DecidableEq, Repr

/-- The three pipes of a partition (R16). -/
inductive Pipe where
  | alu
  | long
  | uniform
  deriving DecidableEq, Repr

/-- Where a storage error arises (R154). Units are named by their memory key. -/
inductive ErrSite where
  | register (id : CtxId) (r : Reg)
  | slab (unit : Nat)
  | accum (unit : Nat)
  | l1 (core : Nat) (line : Nat)
  | icache (core part : Nat) (addr : Nat)
  | hbm (unit : Nat)
  deriving DecidableEq, Repr

/-- Threads that a debug command names (R245): every thread of a grid, of a workgroup, or one thread. -/
inductive DebugSel where
  | grid (launch : Nat)
  | workgroup (wg : Nat)
  | thread (wg tix : Nat)
  deriving DecidableEq, Repr

/-- What one-sided Span traffic asks of its home device (R23, R268): a store, a load, an atomic, a reduce-on-store
element. A store carries the poison of its data (R155). -/
inductive SpanOp where
  | store (bytes : List Byte) (poisoned : Bool := false)
  | load (size : Nat)
  | atomic (code size : Nat) (y expect : Word)
  | reduce (code size : Nat) (bytes : List Byte)
  deriving DecidableEq, Repr

/-- One-sided Span traffic: destination device, the 64-bit slab address or the HBM physical address it names,
the communicator whose channel carries it, the device it came from and the origin's name for it. -/
structure SpanPkt where
  dev : Nat
  src : Nat
  slab : Bool
  addr : Nat
  comm : Nat
  tag : Nat
  op : SpanOp
  deriving DecidableEq, Repr

/-- A collective chunk on a link (R195): it carries its operation and its size; bad holds the offsets of its 32-byte
units that are poisoned (R155). -/
structure CollMsg where
  comm : Nat
  rank : Nat
  num : Nat
  op : Nat
  size : Nat
  bytes : List Byte
  bad : List Nat
  deriving DecidableEq, Repr

/-- Span traffic that passes a device (R269): a packet, an answer to one (its channel, the device it is for, the device
that gave it, the packet's name, its bytes, and whether they are poisoned), the refusal of one with its protection cause
(R134), a chunk for a device from another, and a packet, an answer or a chunk on its way back to where it came from. -/
inductive SpanTraffic where
  | oneSided (p : SpanPkt)
  | answer (chan dev src tag : Nat) (bytes : List Byte) (bad : Bool)
  | refusal (chan dev src tag cause : Nat)
  | chunk (dev src : Nat) (m : CollMsg)
  | returned (p : SpanPkt)
  | returnedAnswer (chan dev tag : Nat)
  | returnedChunk (dev : Nat) (m : CollMsg)
  deriving DecidableEq, Repr

/-- One instruction word or one event, in the order of spec/opcode_table.json. -/
inductive Instr where
  -- lane ALU pipe (R287)
  | nop (f : LA)
  | add (f : LA)
  | sub (f : LA)
  | mul (f : LA)
  | mulh (f : LA)
  | mad (f : LA)
  | min (f : LA)
  | max (f : LA)
  | and (f : LA)
  | or (f : LA)
  | xor (f : LA)
  | shl (f : LA)
  | shr (f : LA)
  | sar (f : LA)
  | rot (f : LA)
  | clz (f : LA)
  | popc (f : LA)
  | brev (f : LA)
  | abs (f : LA)
  | neg (f : LA)
  | not (f : LA)
  | cmp (f : LA)
  | sel (f : LA)
  | bfx (f : LA)
  | bfi (f : LA)
  | bsrd (f : LA)
  | mov (f : LA)
  | movs (f : LA)
  | addi (f : LI)
  | andi (f : LI)
  | ori (f : LI)
  | xori (f : LI)
  | shli (f : LI)
  | shri (f : LI)
  | sari (f : LI)
  | roti (f : LI)
  | acq (f : LX)
  | rel (f : LX)
  | cmpi (f : LI)
  | movi (f : LI)
  | fadd (f : LA)
  | fsub (f : LA)
  | fmul (f : LA)
  | ffma (f : LA)
  | fmin (f : LA)
  | fmax (f : LA)
  | fcmp (f : LA)
  | fcvt (f : LA)
  | frnd (f : LA)
  | fscl (f : LA)
  | idp8 (f : LA)
  | idp4 (f : LA)
  | fdp8 (f : LA)
  | fdp4 (f : LA)
  -- lane long-latency pipe (R287)
  | fdiv (f : LX)
  | frcp (f : LX)
  | frsq (f : LX)
  | fsqrt (f : LX)
  | fex2 (f : LX)
  | flg2 (f : LX)
  | fsin (f : LX)
  | fcos (f : LX)
  | rnd (f : LX)
  | rndf (f : LX)
  | ld (f : LM)
  | st (f : LM)
  | atomw (f : LXA)
  | atomd (f : LXA)
  | acas (f : LXA)
  | asput (f : LA)
  | shfl (f : LX)
  | netmv (f : LX)
  | voteAll (f : LA)
  | voteAny (f : LA)
  | voteBallot (f : LA)
  | lred (f : LX)
  | bra (f : LB)
  | brx (f : LB)
  | call (f : LB)
  | callf (f : LB)
  | ret (f : LX)
  | jmpr (f : LX)
  | exit (f : LX)
  | trap (f : LX)
  | tret (f : LX)
  | yield (f : LX)
  | bkpt (f : LX)
  | bar (f : LX)
  | waitt (f : LX)
  | ffrt (f : LX)
  | waita (f : LX)
  | fenceRel (f : LX)
  | fenceAcq (f : LX)
  | fenceFull (f : LX)
  | fenceLt (f : LX)
  | fenceHv (f : LX)
  | hgive (f : LX)
  | htake (f : LX)
  | prfm (f : LX)
  | vqput (f : LX)
  | vqget (f : LX)
  | launch (f : LX)
  | cwait (f : LX)
  | halt (f : LX)
  | mfs (f : LX)
  | mts (f : LX)
  -- uniform pipe (R297)
  | snop (f : SA)
  | sadd (f : SA)
  | ssub (f : SA)
  | smul (f : SA)
  | sand (f : SA)
  | sor (f : SA)
  | sxor (f : SA)
  | sshl (f : SA)
  | sshr (f : SA)
  | ssar (f : SA)
  | smin (f : SA)
  | smax (f : SA)
  | scmp (f : SA)
  | saddi (f : SI)
  | sandi (f : SI)
  | sori (f : SI)
  | sshli (f : SI)
  | sshri (f : SI)
  | ssari (f : SI)
  | smovi (f : SW)
  | smovh (f : SW)
  | sld (f : SI)
  | sst (f : SI)
  | sbz (f : SB)
  | sbnz (f : SB)
  | srd (f : SI)
  | swr (f : SI)
  | vtos (f : SA)
  | bind (f : SA)
  | unbind (f : SA)
  | hod (f : SA)
  | loom (f : SA)
  | task (f : SA)
  | taskServe (f : SA)
  | gset (f : SA)
  | ksarm (f : SA)
  | ksdis (f : SA)
  | ksrd (f : SA)
  | qfence (f : SA)
  | asrd (f : SA)
  | asrdp (f : SA)
  | aswait (f : SA)
  | netld (f : SA)
  -- events: outstanding work of threads
  | loadComplete (id : CtxId) (num : Nat)
  | longLatencyComplete (id : CtxId) (num : Nat)
  | storeVisible (num : Nat)
  | atomicPerform (id : CtxId) (num : Nat)
  | faultRecordWrite (core : Nat)
  | faultResolved (core idx : Nat)
  | faultAbort (core idx : Nat)
  | rendezvousRelease (wg team : Nat)
  | barrierPhaseComplete (wg bar : Nat)
  | acqComplete (id : CtxId) (num : Nat)
  | waitaComplete (id : CtxId) (num : Nat)
  | waittComplete (id : CtxId) (num : Nat)
  | aswaitComplete (wg team : Nat)
  | cwaitComplete (id : CtxId) (num : Nat)
  | vqputComplete (wg team : Nat)
  | vqgetComplete (wg team : Nat)
  | hgiveComplete (id : CtxId) (num : Nat)
  | fenceHvRequest (id : CtxId) (num core : Nat)
  | threadHalt (wg tix : Nat)
  | pickerPassoverLimit (core part : Nat) (pipe : Pipe)
  | yieldExpiry (id : CtxId)
  -- events: host queues, dispatcher, assay unit
  | doorbell (q : Nat) (count : Nat)
  | packetNop (q : Nat)
  | packetLaunch (q : Nat)
  | packetOtherKind (q : Nat)
  | launchStart (l : Nat)
  | workgroupDispatch (l : Nat)
  | coresidentPlacement (l : Nat)
  | gridFinish (l : Nat)
  | assayCommit (l : Nat)
  | assayFinalisation (l : Nat)
  | deadlineRule (l : Nat)
  | energyMeasurement (energies : List Nat)
  | gridStall (l : Nat)
  | workgroupPreempt (wg : Nat)
  | workgroupRestore (wg : Nat)
  | queueRotation
  -- events: foreman and engines
  | foremanStart (core q : Nat)
  | loomWload (core : Nat)
  | loomMmul (core : Nat)
  | loomDrain (core : Nat)
  | loomZero (core : Nat)
  | loomTaskComplete (core : Nat)
  | hodChunk (core : Nat)
  | hodCopyComplete (core : Nat)
  | quarryTaskComplete (core : Nat)
  | eosComplete (core q : Nat)
  | qfenceComplete (core q : Nat)
  | teamTaskComplete (core q : Nat)
  | keystonePendingEnqueue (ctrl num : Nat)
  | idleTreeSample
  -- events: collectives, Span, host memory
  | collectiveChunkSend (tier : Nat)
  | collectiveChunkArrival (m : CollMsg)
  | spanOneSidedArrival (p : SpanPkt)
  | spanForward (t : SpanTraffic)
  | spanReturnUnreach (p : SpanPkt)
  | hostMemRead (addr size : Nat)
  | hostMemWrite (addr : Nat) (bytes : List Byte) (poisoned : Bool)
  -- events: mailbox
  | qreg (q : Nat) (desc : List Byte)
  | qabort (q : Nat)
  | invalidate (addr size : Nat)
  | invalidateComplete
  | clearbind
  | setbudget (cores : List Nat) (budget : Nat)
  | setpool (n : Nat)
  | setcap (watts : Nat)
  | commcfg (k : Nat) (rec : List Byte)
  | restore (addr : Nat)
  | debugHalt (sel : DebugSel)
  | debugResume (sel : DebugSel)
  | debugBreakpointEnable (launch : Nat)
  | debugHaltForce (wg tix : Nat)
  | errcount
  | measure (nonce : List Byte)
  | reload (image : List Byte) (startable : Bool)
  | devnum (arg : List Byte)
  | routes (arg : List Byte)
  | mailboxOtherCode (code : Nat)
  -- events: reset, power, firmware, capture
  | reset
  | powerGate (core : Nat)
  | powerUp (core : Nat)
  | frequencyChange (core mhz : Nat)
  | thermalMigration (wg core : Nat)
  | captureSessionStart (regions : List (Nat × Nat)) (area : Nat)
  | captureReplay
  | softError (site : ErrSite) (correctable : Bool)
  | powerCapping (pool grants : Nat)
  | instructionCacheFill (core part addr : Nat)
  | spanAcknowledgement (num : Nat)
  deriving DecidableEq, Repr

end Sys2Proof
end

