-- ==== Sys2Proof/WellFormed.lean ====
section
/-!
DEFINITION. Sys2Proof/WellFormed.lean: which terms of Instr are the reading of a word. The selector fields that a
constructor stands for (a function code, a kind, a form) hold that constructor's code, and a code that traps
ILLEGAL under step 1 of R298 is no well-formed instruction.
-/
namespace Sys2Proof

/-- The kind of shift of major 0x1A, imm9 bits 8:7 (R282). -/
def shiftKind (f : LI) : BitVec 2 := f.imm.extractLsb' 7 2

/-- The kind of shift of uniform major 0x10, imm13 bits 12:11 (R297). -/
def uShiftKind (f : SI) : BitVec 2 := f.imm.extractLsb' 11 2

/-- The kind of a FENCE, d bits 2:0 (R229). -/
def fenceKind (f : LX) : BitVec 3 := f.d.extractLsb' 0 3

/-- The selector fields of an instruction hold its constructor's codes (R282, R286, R290 to R297). Events carry no
word, and every event is well formed. -/
def WellFormed : Instr → Bool
  | .nop _ => true
  | .add _ => true
  | .sub _ => true
  | .mul _ => true
  | .mulh _ => true
  | .mad _ => true
  | .min _ => true
  | .max _ => true
  | .and _ => true
  | .or _ => true
  | .xor _ => true
  | .shl _ => true
  | .shr _ => true
  | .sar _ => true
  | .rot _ => true
  | .clz f => f.b == 0
  | .popc f => f.b == 1
  | .brev f => f.b == 2
  | .abs f => f.b == 3
  | .neg f => f.b == 4
  | .not f => f.b == 5
  | .cmp _ => true
  | .sel _ => true
  | .bfx _ => true
  | .bfi _ => true
  | .bsrd _ => true
  | .mov f => f.t != 1
  | .movs f => f.t == 1
  | .addi _ => true
  | .andi _ => true
  | .ori _ => true
  | .xori _ => true
  | .shli f => shiftKind f == 0
  | .shri f => shiftKind f == 1
  | .sari f => shiftKind f == 2
  | .roti f => shiftKind f == 3
  | .acq _ => true
  | .rel _ => true
  | .cmpi _ => true
  | .movi _ => true
  | .fadd _ => true
  | .fsub _ => true
  | .fmul _ => true
  | .ffma _ => true
  | .fmin _ => true
  | .fmax _ => true
  | .fcmp _ => true
  | .fcvt _ => true
  | .frnd _ => true
  | .fscl _ => true
  | .idp8 _ => true
  | .idp4 _ => true
  | .fdp8 _ => true
  | .fdp4 _ => true
  | .fdiv _ => true
  | .frcp f => f.b == 0
  | .frsq f => f.b == 1
  | .fsqrt f => f.b == 2
  | .fex2 f => f.b == 3
  | .flg2 f => f.b == 4
  | .fsin f => f.b == 5
  | .fcos f => f.b == 6
  | .rnd f => f.b == 0
  | .rndf f => f.b == 1
  | .ld f => f.w.ult 5
  | .st f => f.w.ult 5
  | .atomw _ => true
  | .atomd _ => true
  | .acas f => f.op.ult 2
  | .asput _ => true
  | .shfl _ => true
  | .netmv _ => true
  | .voteAll f => f.t != 1 && f.t != 2
  | .voteAny f => f.t == 1
  | .voteBallot f => f.t == 2
  | .lred _ => true
  | .bra _ => true
  | .brx _ => true
  | .call _ => true
  | .callf _ => true
  | .ret f => f.b == 0
  | .jmpr f => f.b == 1
  | .exit f => f.b == 2
  | .trap f => f.b == 3
  | .tret f => f.b == 4
  | .yield f => f.b == 5
  | .bkpt f => f.b == 6
  | .bar f => f.b == 7
  | .waitt f => f.b == 8
  | .ffrt f => f.b == 9
  | .waita f => f.b == 10
  | .fenceRel f => f.b == 11 && fenceKind f == 0
  | .fenceAcq f => f.b == 11 && fenceKind f == 1
  | .fenceFull f => f.b == 11 && fenceKind f != 0 && fenceKind f != 1 && fenceKind f != 3 && fenceKind f != 4
  | .fenceLt f => f.b == 11 && fenceKind f == 3
  | .fenceHv f => f.b == 11 && fenceKind f == 4
  | .hgive f => f.b == 12
  | .htake f => f.b == 13
  | .prfm f => f.b == 14
  | .vqput f => f.b == 15
  | .vqget f => f.b == 16
  | .launch f => f.b == 17
  | .cwait f => f.b == 18
  | .halt f => f.b == 19
  | .mfs f => f.b == 20 && f.a.ult 28
  | .mts f => f.b == 21 && f.a.ult 28
  | .snop _ => true
  | .sadd _ => true
  | .ssub _ => true
  | .smul _ => true
  | .sand _ => true
  | .sor _ => true
  | .sxor _ => true
  | .sshl _ => true
  | .sshr _ => true
  | .ssar _ => true
  | .smin _ => true
  | .smax _ => true
  | .scmp _ => true
  | .saddi _ => true
  | .sandi _ => true
  | .sori _ => true
  | .sshli f => uShiftKind f == 0
  | .sshri f => uShiftKind f == 1
  | .ssari f => uShiftKind f == 2
  | .smovi _ => true
  | .smovh _ => true
  | .sld _ => true
  | .sst _ => true
  | .sbz _ => true
  | .sbnz _ => true
  | .srd f => f.imm.ult 6
  | .swr f => f.imm.ult 6
  | .vtos _ => true
  | .bind f => f.fn == 0
  | .unbind f => f.fn == 1
  | .hod _ => true
  | .loom _ => true
  | .task f => f.fn == 0
  | .taskServe f => f.fn == 1
  | .gset _ => true
  | .ksarm _ => true
  | .ksdis _ => true
  | .ksrd _ => true
  | .qfence _ => true
  | .asrd _ => true
  | .asrdp _ => true
  | .aswait _ => true
  | .netld _ => true
  | .loadComplete _ _ => true
  | .longLatencyComplete _ _ => true
  | .storeVisible _ => true
  | .atomicPerform _ _ => true
  | .faultRecordWrite _ => true
  | .faultResolved _ _ => true
  | .faultAbort _ _ => true
  | .rendezvousRelease _ _ => true
  | .barrierPhaseComplete _ _ => true
  | .acqComplete _ _ => true
  | .waitaComplete _ _ => true
  | .waittComplete _ _ => true
  | .aswaitComplete _ _ => true
  | .cwaitComplete _ _ => true
  | .vqputComplete _ _ => true
  | .vqgetComplete _ _ => true
  | .hgiveComplete _ _ => true
  | .fenceHvRequest _ _ _ => true
  | .threadHalt _ _ => true
  | .pickerPassoverLimit _ _ _ => true
  | .yieldExpiry _ => true
  | .doorbell _ _ => true
  | .packetNop _ => true
  | .packetLaunch _ => true
  | .packetOtherKind _ => true
  | .launchStart _ => true
  | .workgroupDispatch _ => true
  | .coresidentPlacement _ => true
  | .gridFinish _ => true
  | .assayCommit _ => true
  | .assayFinalisation _ => true
  | .deadlineRule _ => true
  | .energyMeasurement _ => true
  | .gridStall _ => true
  | .workgroupPreempt _ => true
  | .workgroupRestore _ => true
  | .queueRotation => true
  | .foremanStart _ _ => true
  | .loomWload _ => true
  | .loomMmul _ => true
  | .loomDrain _ => true
  | .loomZero _ => true
  | .loomTaskComplete _ => true
  | .hodChunk _ => true
  | .hodCopyComplete _ => true
  | .quarryTaskComplete _ => true
  | .eosComplete _ _ => true
  | .qfenceComplete _ _ => true
  | .teamTaskComplete _ _ => true
  | .keystonePendingEnqueue _ _ => true
  | .idleTreeSample => true
  | .collectiveChunkSend _ => true
  | .collectiveChunkArrival _ => true
  | .spanOneSidedArrival _ => true
  | .spanForward _ => true
  | .spanReturnUnreach _ => true
  | .hostMemRead _ _ => true
  | .hostMemWrite _ _ _ => true
  | .qreg _ _ => true
  | .qabort _ => true
  | .invalidate _ _ => true
  | .invalidateComplete => true
  | .clearbind => true
  | .setbudget _ _ => true
  | .setpool _ => true
  | .setcap _ => true
  | .commcfg _ _ => true
  | .restore _ => true
  | .debugHalt _ => true
  | .debugResume _ => true
  | .debugBreakpointEnable _ => true
  | .debugHaltForce _ _ => true
  | .errcount => true
  | .measure _ => true
  | .reload _ _ => true
  | .devnum _ => true
  | .routes _ => true
  | .mailboxOtherCode _ => true
  | .reset => true
  | .powerGate _ => true
  | .powerUp _ => true
  | .frequencyChange _ _ => true
  | .thermalMigration _ _ => true
  | .captureSessionStart _ _ => true
  | .captureReplay => true
  | .softError _ _ => true
  | .powerCapping _ _ => true
  | .instructionCacheFill _ _ _ => true
  | .spanAcknowledgement _ => true

end Sys2Proof
end

