-- ==== Sys2Proof/Decode.lean ====
section
/-!
DEFINITION. Sys2Proof/Decode.lean: what each 32-bit word is (R276 to R298), from a word and from bytes, and the
encoder after it. The decoder decides step 1 of R298 only: register checks (R289), BAR numbers (R292) and the
register triple of FENCE.HV (R232) need the launch record or the thread and are made when the word issues.
-/
namespace Sys2Proof

/-! ### Fields of a word (R276, R278, R283, R296) -/

/-- Bits lo + n - 1 down to lo of a word. -/
def field (w : Code) (lo n : Nat) : BitVec n := w.extractLsb' lo n

/-- SET, bit 31 (R276). -/
def setOf (w : Code) : BitVec 1 := field w 31 1

/-- OPC, bits 30:25 (R276). -/
def opcOf (w : Code) : BitVec 6 := field w 25 6

/-- The fields of format LA. -/
def laOf (w : Code) : LA :=
  { d := field w 19 6, a := field w 13 6, b := field w 7 6, t := field w 4 3, gn := field w 3 1, g := field w 0 3 }

/-- The fields of format LI. -/
def liOf (w : Code) : LI :=
  { d := field w 19 6, a := field w 13 6, imm := field w 4 9, gn := field w 3 1, g := field w 0 3 }

/-- The fields of format LX. -/
def lxOf (w : Code) : LX :=
  { d := field w 19 6, a := field w 13 6, b := field w 7 6, l := field w 3 4, g := field w 0 3 }

/-- The fields of format LXA. -/
def lxaOf (w : Code) : LXA :=
  { d := field w 19 6, a := field w 13 6, b := field w 7 6, l := field w 3 4, op := field w 0 3 }

/-- The fields of format LM. -/
def lmOf (w : Code) : LM :=
  { d := field w 19 6, a := field w 13 6, l := field w 9 4, w := field w 6 3, sp := field w 4 2, sx := field w 3 1,
    g := field w 0 3 }

/-- The fields of format LB. -/
def lbOf (w : Code) : LB := { off := field w 3 22, g := field w 0 3 }

/-- The fields of formats SA and SE. -/
def saOf (w : Code) : SA :=
  { d := field w 19 6, a := field w 13 6, b := field w 7 6, fn := field w 4 3, l := field w 0 4 }

/-- The fields of format SI. -/
def siOf (w : Code) : SI := { d := field w 19 6, a := field w 13 6, imm := field w 0 13 }

/-- The fields of format SW. -/
def swOf (w : Code) : SW := { d := field w 19 6, imm := field w 0 19 }

/-- The fields of format SB. -/
def sbOf (w : Code) : SB := { a := field w 19 6, off := field w 0 19 }

/-- The fields of the prefix word (R283). -/
def pfxOf (w : Code) : Pfx :=
  { e := field w 19 6, m := field w 16 3, z := field w 15 1, rnd := field w 12 3, sat := field w 11 1,
    rsv := field w 0 11 }

/-! ### What a word is -/

/-- What a word is: an instruction, a prefix, or a word that traps ILLEGAL at step 1 of R298, with the reason. -/
inductive Decoded where
  | instr (i : Instr)
  | pfx (p : Pfx)
  | illegal (why : String)
  deriving DecidableEq, Repr

/-- The unary group, major 0x0E (R290). -/
def decodeUnary (f : LA) : Decoded :=
  match f.b.toNat with
  | 0 => .instr (.clz f)
  | 1 => .instr (.popc f)
  | 2 => .instr (.brev f)
  | 3 => .instr (.abs f)
  | 4 => .instr (.neg f)
  | 5 => .instr (.not f)
  | _ => .illegal "unary function code"

/-- The transcendental group, major 0x2E (R290). -/
def decodeTrans (f : LX) : Decoded :=
  match f.b.toNat with
  | 0 => .instr (.frcp f)
  | 1 => .instr (.frsq f)
  | 2 => .instr (.fsqrt f)
  | 3 => .instr (.fex2 f)
  | 4 => .instr (.flg2 f)
  | 5 => .instr (.fsin f)
  | 6 => .instr (.fcos f)
  | _ => .illegal "transcendental function code"

/-- Major 0x1A: imm9 bits 8:7 select the shift (R282). -/
def decodeShift (f : LI) : Decoded :=
  match (shiftKind f).toNat with
  | 0 => .instr (.shli f)
  | 1 => .instr (.shri f)
  | 2 => .instr (.sari f)
  | _ => .instr (.roti f)

/-- FENCE: d bits 2:0 select the kind, and kinds 5 to 7 execute as FULL (R229, R300). -/
def decodeFence (f : LX) : Decoded :=
  match (fenceKind f).toNat with
  | 0 => .instr (.fenceRel f)
  | 1 => .instr (.fenceAcq f)
  | 3 => .instr (.fenceLt f)
  | 4 => .instr (.fenceHv f)
  | _ => .instr (.fenceFull f)

/-- The control group, major 0x3E (R292); special numbers above 27 are unassigned (R295). -/
def decodeControl (f : LX) : Decoded :=
  match f.b.toNat with
  | 0 => .instr (.ret f)
  | 1 => .instr (.jmpr f)
  | 2 => .instr (.exit f)
  | 3 => .instr (.trap f)
  | 4 => .instr (.tret f)
  | 5 => .instr (.yield f)
  | 6 => .instr (.bkpt f)
  | 7 => .instr (.bar f)
  | 8 => .instr (.waitt f)
  | 9 => .instr (.ffrt f)
  | 10 => .instr (.waita f)
  | 11 => decodeFence f
  | 12 => .instr (.hgive f)
  | 13 => .instr (.htake f)
  | 14 => .instr (.prfm f)
  | 15 => .instr (.vqput f)
  | 16 => .instr (.vqget f)
  | 17 => .instr (.launch f)
  | 18 => .instr (.cwait f)
  | 19 => .instr (.halt f)
  | 20 => if f.a.ult 28 then .instr (.mfs f) else .illegal "lane special number"
  | 21 => if f.a.ult 28 then .instr (.mts f) else .illegal "lane special number"
  | _ => .illegal "control function code"

/-- A lane word by its major (R287). -/
def decodeLane (w : Code) : Decoded :=
  match (opcOf w).toNat with
  | 0x0 => .instr (.nop (laOf w))
  | 0x1 => .instr (.add (laOf w))
  | 0x2 => .instr (.sub (laOf w))
  | 0x3 => .instr (.mul (laOf w))
  | 0x4 => .instr (.mulh (laOf w))
  | 0x5 => .instr (.mad (laOf w))
  | 0x6 => .instr (.min (laOf w))
  | 0x7 => .instr (.max (laOf w))
  | 0x8 => .instr (.and (laOf w))
  | 0x9 => .instr (.or (laOf w))
  | 0xa => .instr (.xor (laOf w))
  | 0xb => .instr (.shl (laOf w))
  | 0xc => .instr (.shr (laOf w))
  | 0xd => .instr (.sar (laOf w))
  | 0xe => decodeUnary (laOf w)
  | 0xf => .instr (.rot (laOf w))
  | 0x10 => .instr (.cmp (laOf w))
  | 0x11 => .instr (.sel (laOf w))
  | 0x12 => .instr (.bfx (laOf w))
  | 0x13 => .instr (.bfi (laOf w))
  | 0x14 => .instr (.bsrd (laOf w))
  | 0x15 => if (laOf w).t = 1 then .instr (.movs (laOf w)) else .instr (.mov (laOf w))
  | 0x16 => .instr (.addi (liOf w))
  | 0x17 => .instr (.andi (liOf w))
  | 0x18 => .instr (.ori (liOf w))
  | 0x19 => .instr (.xori (liOf w))
  | 0x1a => decodeShift (liOf w)
  | 0x1b => .instr (.acq (lxOf w))
  | 0x1c => .instr (.rel (lxOf w))
  | 0x1d => .instr (.cmpi (liOf w))
  | 0x1e => .instr (.movi (liOf w))
  | 0x1f => .instr (.fadd (laOf w))
  | 0x20 => .instr (.fsub (laOf w))
  | 0x21 => .instr (.fmul (laOf w))
  | 0x22 => .instr (.ffma (laOf w))
  | 0x23 => .instr (.fmin (laOf w))
  | 0x24 => .instr (.fmax (laOf w))
  | 0x25 => .instr (.fcmp (laOf w))
  | 0x26 => .instr (.fcvt (laOf w))
  | 0x27 => .instr (.frnd (laOf w))
  | 0x28 => .instr (.fscl (laOf w))
  | 0x29 => .instr (.idp8 (laOf w))
  | 0x2a => .instr (.idp4 (laOf w))
  | 0x2b => .instr (.fdp8 (laOf w))
  | 0x2c => .instr (.fdp4 (laOf w))
  | 0x2d => .instr (.fdiv (lxOf w))
  | 0x2e => decodeTrans (lxOf w)
  | 0x2f => if (lxOf w).b = 0 then .instr (.rnd (lxOf w)) else if (lxOf w).b = 1 then .instr (.rndf (lxOf w))
    else .illegal "random function code"
  | 0x30 => if (lmOf w).w.ult 5 then .instr (.ld (lmOf w)) else .illegal "access width"
  | 0x31 => if (lmOf w).w.ult 5 then .instr (.st (lmOf w)) else .illegal "access width"
  | 0x32 => .instr (.atomw (lxaOf w))
  | 0x33 => .instr (.atomd (lxaOf w))
  | 0x34 => if (lxaOf w).op.ult 2 then .instr (.acas (lxaOf w)) else .illegal "compare-and-swap code"
  | 0x35 => .instr (.asput (laOf w))
  | 0x36 => .instr (.shfl (lxOf w))
  | 0x37 => .instr (.netmv (lxOf w))
  | 0x38 => if (laOf w).t = 1 then .instr (.voteAny (laOf w)) else if (laOf w).t = 2 then .instr (.voteBallot (laOf w))
    else .instr (.voteAll (laOf w))
  | 0x39 => .instr (.lred (lxOf w))
  | 0x3a => .instr (.bra (lbOf w))
  | 0x3b => .instr (.brx (lbOf w))
  | 0x3c => .instr (.call (lbOf w))
  | 0x3d => .instr (.callf (lbOf w))
  | 0x3e => decodeControl (lxOf w)
  | _ => .pfx (pfxOf w)

/-- A uniform word by its major (R297). -/
def decodeUniform (w : Code) : Decoded :=
  match (opcOf w).toNat with
  | 0x0 => .instr (.snop (saOf w))
  | 0x1 => .instr (.sadd (saOf w))
  | 0x2 => .instr (.ssub (saOf w))
  | 0x3 => .instr (.smul (saOf w))
  | 0x4 => .instr (.sand (saOf w))
  | 0x5 => .instr (.sor (saOf w))
  | 0x6 => .instr (.sxor (saOf w))
  | 0x7 => .instr (.sshl (saOf w))
  | 0x8 => .instr (.sshr (saOf w))
  | 0x9 => .instr (.ssar (saOf w))
  | 0xa => .instr (.smin (saOf w))
  | 0xb => .instr (.smax (saOf w))
  | 0xc => .instr (.scmp (saOf w))
  | 0xd => .instr (.saddi (siOf w))
  | 0xe => .instr (.sandi (siOf w))
  | 0xf => .instr (.sori (siOf w))
  | 0x10 => if uShiftKind (siOf w) = 0 then .instr (.sshli (siOf w))
    else if uShiftKind (siOf w) = 1 then .instr (.sshri (siOf w))
    else if uShiftKind (siOf w) = 2 then .instr (.ssari (siOf w)) else .illegal "uniform shift kind"
  | 0x11 => .instr (.smovi (swOf w))
  | 0x12 => .instr (.smovh (swOf w))
  | 0x13 => .instr (.sld (siOf w))
  | 0x14 => .instr (.sst (siOf w))
  | 0x15 => .instr (.sbz (sbOf w))
  | 0x16 => .instr (.sbnz (sbOf w))
  | 0x17 => if (siOf w).imm.ult 6 then .instr (.srd (siOf w)) else .illegal "team special number"
  | 0x18 => if (siOf w).imm.ult 6 then .instr (.swr (siOf w)) else .illegal "team special number"
  | 0x19 => .instr (.vtos (saOf w))
  | 0x1a => if (saOf w).fn = 0 then .instr (.bind (saOf w)) else if (saOf w).fn = 1 then .instr (.unbind (saOf w))
    else .illegal "binding function code"
  | 0x1b => .instr (.hod (saOf w))
  | 0x1c => .instr (.loom (saOf w))
  | 0x1d => if (saOf w).fn = 0 then .instr (.task (saOf w)) else if (saOf w).fn = 1 then .instr (.taskServe (saOf w))
    else .illegal "task function code"
  | 0x1e => .instr (.gset (saOf w))
  | 0x1f => .instr (.ksarm (saOf w))
  | 0x20 => .instr (.ksdis (saOf w))
  | 0x21 => .instr (.ksrd (saOf w))
  | 0x22 => .instr (.qfence (saOf w))
  | 0x23 => .instr (.asrd (saOf w))
  | 0x24 => .instr (.asrdp (saOf w))
  | 0x25 => .instr (.aswait (saOf w))
  | 0x26 => .instr (.netld (saOf w))
  | _ => .illegal "uniform major"

/-- What a word is, by SET and OPC (R276, R298). -/
def decodeWord (w : Code) : Decoded :=
  if setOf w = 1 then decodeUniform w else decodeLane w

/-! ### Bytes -/

/-- The word that four bytes store, the first byte the lowest (R3). -/
def codeOfBytes (b0 b1 b2 b3 : Byte) : Code := b3 ++ b2 ++ b1 ++ b0

/-- The four bytes of a word, the lowest first (R3). -/
def bytesOfCode (w : Code) : List Byte :=
  [w.extractLsb' 0 8, w.extractLsb' 8 8, w.extractLsb' 16 8, w.extractLsb' 24 8]

/-- What the reader of bytes finds: a word and the bytes behind it, or too few bytes for one. -/
inductive ByteDecoded where
  | word (d : Decoded) (rest : List Byte)
  | truncated
  deriving DecidableEq, Repr

/-- The decoder on any bytes: the first four are one word. -/
def decodeBytes : List Byte → ByteDecoded
  | b0 :: b1 :: b2 :: b3 :: rest => .word (decodeWord (codeOfBytes b0 b1 b2 b3)) rest
  | _ => .truncated

/-- The instruction that the decoder reads from the word w of an opcode-table row of nbits bits: 32 for the words
of R276. An event has no word. -/
def decodeTableWord (nbits w : Nat) : Option Instr :=
  if nbits = 32 then
    match decodeBytes (bytesOfCode (BitVec.ofNat 32 w)) with
    | .word (.instr i) _ => some i
    | _ => none
  else none

/-! ### The encoder -/

/-- The high seven bits of a word: SET and OPC (R276). -/
def headBits (set : BitVec 1) (opc : BitVec 6) : BitVec 7 := set ++ opc

/-- A word of format LA. -/
def packLA (opc : BitVec 6) (f : LA) : Code := headBits 0 opc ++ f.d ++ f.a ++ f.b ++ f.t ++ f.gn ++ f.g

/-- A word of format LI. -/
def packLI (opc : BitVec 6) (f : LI) : Code := headBits 0 opc ++ f.d ++ f.a ++ f.imm ++ f.gn ++ f.g

/-- A word of format LX. -/
def packLX (opc : BitVec 6) (f : LX) : Code := headBits 0 opc ++ f.d ++ f.a ++ f.b ++ f.l ++ f.g

/-- A word of format LXA. -/
def packLXA (opc : BitVec 6) (f : LXA) : Code := headBits 0 opc ++ f.d ++ f.a ++ f.b ++ f.l ++ f.op

/-- A word of format LM. -/
def packLM (opc : BitVec 6) (f : LM) : Code := headBits 0 opc ++ f.d ++ f.a ++ f.l ++ f.w ++ f.sp ++ f.sx ++ f.g

/-- A word of format LB. -/
def packLB (opc : BitVec 6) (f : LB) : Code := headBits 0 opc ++ f.off ++ f.g

/-- A word of format SA or SE. -/
def packSA (opc : BitVec 6) (f : SA) : Code := headBits 1 opc ++ f.d ++ f.a ++ f.b ++ f.fn ++ f.l

/-- A word of format SI. -/
def packSI (opc : BitVec 6) (f : SI) : Code := headBits 1 opc ++ f.d ++ f.a ++ f.imm

/-- A word of format SW. -/
def packSW (opc : BitVec 6) (f : SW) : Code := headBits 1 opc ++ f.d ++ f.imm

/-- A word of format SB. -/
def packSB (opc : BitVec 6) (f : SB) : Code := headBits 1 opc ++ f.a ++ f.off

/-- A prefix word (R283). -/
def packPfx (p : Pfx) : Code := headBits 0 0x3F ++ p.e ++ p.m ++ p.z ++ p.rnd ++ p.sat ++ p.rsv

/-- The word of an instruction (R287, R297); an event has none. -/
def encode : Instr → Option Code
  | .nop f => some (packLA 0x0 f)
  | .add f => some (packLA 0x1 f)
  | .sub f => some (packLA 0x2 f)
  | .mul f => some (packLA 0x3 f)
  | .mulh f => some (packLA 0x4 f)
  | .mad f => some (packLA 0x5 f)
  | .min f => some (packLA 0x6 f)
  | .max f => some (packLA 0x7 f)
  | .and f => some (packLA 0x8 f)
  | .or f => some (packLA 0x9 f)
  | .xor f => some (packLA 0xa f)
  | .shl f => some (packLA 0xb f)
  | .shr f => some (packLA 0xc f)
  | .sar f => some (packLA 0xd f)
  | .rot f => some (packLA 0xf f)
  | .clz f => some (packLA 0xe f)
  | .popc f => some (packLA 0xe f)
  | .brev f => some (packLA 0xe f)
  | .abs f => some (packLA 0xe f)
  | .neg f => some (packLA 0xe f)
  | .not f => some (packLA 0xe f)
  | .cmp f => some (packLA 0x10 f)
  | .sel f => some (packLA 0x11 f)
  | .bfx f => some (packLA 0x12 f)
  | .bfi f => some (packLA 0x13 f)
  | .bsrd f => some (packLA 0x14 f)
  | .mov f => some (packLA 0x15 f)
  | .movs f => some (packLA 0x15 f)
  | .addi f => some (packLI 0x16 f)
  | .andi f => some (packLI 0x17 f)
  | .ori f => some (packLI 0x18 f)
  | .xori f => some (packLI 0x19 f)
  | .shli f => some (packLI 0x1a f)
  | .shri f => some (packLI 0x1a f)
  | .sari f => some (packLI 0x1a f)
  | .roti f => some (packLI 0x1a f)
  | .acq f => some (packLX 0x1b f)
  | .rel f => some (packLX 0x1c f)
  | .cmpi f => some (packLI 0x1d f)
  | .movi f => some (packLI 0x1e f)
  | .fadd f => some (packLA 0x1f f)
  | .fsub f => some (packLA 0x20 f)
  | .fmul f => some (packLA 0x21 f)
  | .ffma f => some (packLA 0x22 f)
  | .fmin f => some (packLA 0x23 f)
  | .fmax f => some (packLA 0x24 f)
  | .fcmp f => some (packLA 0x25 f)
  | .fcvt f => some (packLA 0x26 f)
  | .frnd f => some (packLA 0x27 f)
  | .fscl f => some (packLA 0x28 f)
  | .idp8 f => some (packLA 0x29 f)
  | .idp4 f => some (packLA 0x2a f)
  | .fdp8 f => some (packLA 0x2b f)
  | .fdp4 f => some (packLA 0x2c f)
  | .fdiv f => some (packLX 0x2d f)
  | .frcp f => some (packLX 0x2e f)
  | .frsq f => some (packLX 0x2e f)
  | .fsqrt f => some (packLX 0x2e f)
  | .fex2 f => some (packLX 0x2e f)
  | .flg2 f => some (packLX 0x2e f)
  | .fsin f => some (packLX 0x2e f)
  | .fcos f => some (packLX 0x2e f)
  | .rnd f => some (packLX 0x2f f)
  | .rndf f => some (packLX 0x2f f)
  | .ld f => some (packLM 0x30 f)
  | .st f => some (packLM 0x31 f)
  | .atomw f => some (packLXA 0x32 f)
  | .atomd f => some (packLXA 0x33 f)
  | .acas f => some (packLXA 0x34 f)
  | .asput f => some (packLA 0x35 f)
  | .shfl f => some (packLX 0x36 f)
  | .netmv f => some (packLX 0x37 f)
  | .voteAll f => some (packLA 0x38 f)
  | .voteAny f => some (packLA 0x38 f)
  | .voteBallot f => some (packLA 0x38 f)
  | .lred f => some (packLX 0x39 f)
  | .bra f => some (packLB 0x3a f)
  | .brx f => some (packLB 0x3b f)
  | .call f => some (packLB 0x3c f)
  | .callf f => some (packLB 0x3d f)
  | .ret f => some (packLX 0x3e f)
  | .jmpr f => some (packLX 0x3e f)
  | .exit f => some (packLX 0x3e f)
  | .trap f => some (packLX 0x3e f)
  | .tret f => some (packLX 0x3e f)
  | .yield f => some (packLX 0x3e f)
  | .bkpt f => some (packLX 0x3e f)
  | .bar f => some (packLX 0x3e f)
  | .waitt f => some (packLX 0x3e f)
  | .ffrt f => some (packLX 0x3e f)
  | .waita f => some (packLX 0x3e f)
  | .fenceRel f => some (packLX 0x3e f)
  | .fenceAcq f => some (packLX 0x3e f)
  | .fenceFull f => some (packLX 0x3e f)
  | .fenceLt f => some (packLX 0x3e f)
  | .fenceHv f => some (packLX 0x3e f)
  | .hgive f => some (packLX 0x3e f)
  | .htake f => some (packLX 0x3e f)
  | .prfm f => some (packLX 0x3e f)
  | .vqput f => some (packLX 0x3e f)
  | .vqget f => some (packLX 0x3e f)
  | .launch f => some (packLX 0x3e f)
  | .cwait f => some (packLX 0x3e f)
  | .halt f => some (packLX 0x3e f)
  | .mfs f => some (packLX 0x3e f)
  | .mts f => some (packLX 0x3e f)
  | .snop f => some (packSA 0x0 f)
  | .sadd f => some (packSA 0x1 f)
  | .ssub f => some (packSA 0x2 f)
  | .smul f => some (packSA 0x3 f)
  | .sand f => some (packSA 0x4 f)
  | .sor f => some (packSA 0x5 f)
  | .sxor f => some (packSA 0x6 f)
  | .sshl f => some (packSA 0x7 f)
  | .sshr f => some (packSA 0x8 f)
  | .ssar f => some (packSA 0x9 f)
  | .smin f => some (packSA 0xa f)
  | .smax f => some (packSA 0xb f)
  | .scmp f => some (packSA 0xc f)
  | .saddi f => some (packSI 0xd f)
  | .sandi f => some (packSI 0xe f)
  | .sori f => some (packSI 0xf f)
  | .sshli f => some (packSI 0x10 f)
  | .sshri f => some (packSI 0x10 f)
  | .ssari f => some (packSI 0x10 f)
  | .smovi f => some (packSW 0x11 f)
  | .smovh f => some (packSW 0x12 f)
  | .sld f => some (packSI 0x13 f)
  | .sst f => some (packSI 0x14 f)
  | .sbz f => some (packSB 0x15 f)
  | .sbnz f => some (packSB 0x16 f)
  | .srd f => some (packSI 0x17 f)
  | .swr f => some (packSI 0x18 f)
  | .vtos f => some (packSA 0x19 f)
  | .bind f => some (packSA 0x1a f)
  | .unbind f => some (packSA 0x1a f)
  | .hod f => some (packSA 0x1b f)
  | .loom f => some (packSA 0x1c f)
  | .task f => some (packSA 0x1d f)
  | .taskServe f => some (packSA 0x1d f)
  | .gset f => some (packSA 0x1e f)
  | .ksarm f => some (packSA 0x1f f)
  | .ksdis f => some (packSA 0x20 f)
  | .ksrd f => some (packSA 0x21 f)
  | .qfence f => some (packSA 0x22 f)
  | .asrd f => some (packSA 0x23 f)
  | .asrdp f => some (packSA 0x24 f)
  | .aswait f => some (packSA 0x25 f)
  | .netld f => some (packSA 0x26 f)
  | .loadComplete _ _ => none
  | .longLatencyComplete _ _ => none
  | .storeVisible _ => none
  | .atomicPerform _ _ => none
  | .faultRecordWrite _ => none
  | .faultResolved _ _ => none
  | .faultAbort _ _ => none
  | .rendezvousRelease _ _ => none
  | .barrierPhaseComplete _ _ => none
  | .acqComplete _ _ => none
  | .waitaComplete _ _ => none
  | .waittComplete _ _ => none
  | .aswaitComplete _ _ => none
  | .cwaitComplete _ _ => none
  | .vqputComplete _ _ => none
  | .vqgetComplete _ _ => none
  | .hgiveComplete _ _ => none
  | .fenceHvRequest _ _ _ => none
  | .threadHalt _ _ => none
  | .pickerPassoverLimit _ _ _ => none
  | .yieldExpiry _ => none
  | .doorbell _ _ => none
  | .packetNop _ => none
  | .packetLaunch _ => none
  | .packetOtherKind _ => none
  | .launchStart _ => none
  | .workgroupDispatch _ => none
  | .coresidentPlacement _ => none
  | .gridFinish _ => none
  | .assayCommit _ => none
  | .assayFinalisation _ => none
  | .deadlineRule _ => none
  | .energyMeasurement _ => none
  | .gridStall _ => none
  | .workgroupPreempt _ => none
  | .workgroupRestore _ => none
  | .queueRotation => none
  | .foremanStart _ _ => none
  | .loomWload _ => none
  | .loomMmul _ => none
  | .loomDrain _ => none
  | .loomZero _ => none
  | .loomTaskComplete _ => none
  | .hodChunk _ => none
  | .hodCopyComplete _ => none
  | .quarryTaskComplete _ => none
  | .eosComplete _ _ => none
  | .qfenceComplete _ _ => none
  | .teamTaskComplete _ _ => none
  | .keystonePendingEnqueue _ _ => none
  | .idleTreeSample => none
  | .collectiveChunkSend _ => none
  | .collectiveChunkArrival _ => none
  | .spanOneSidedArrival _ => none
  | .spanForward _ => none
  | .spanReturnUnreach _ => none
  | .hostMemRead _ _ => none
  | .hostMemWrite _ _ _ => none
  | .qreg _ _ => none
  | .qabort _ => none
  | .invalidate _ _ => none
  | .invalidateComplete => none
  | .clearbind => none
  | .setbudget _ _ => none
  | .setpool _ => none
  | .setcap _ => none
  | .commcfg _ _ => none
  | .restore _ => none
  | .debugHalt _ => none
  | .debugResume _ => none
  | .debugBreakpointEnable _ => none
  | .debugHaltForce _ _ => none
  | .errcount => none
  | .measure _ => none
  | .reload _ _ => none
  | .devnum _ => none
  | .routes _ => none
  | .mailboxOtherCode _ => none
  | .reset => none
  | .powerGate _ => none
  | .powerUp _ => none
  | .frequencyChange _ _ => none
  | .thermalMigration _ _ => none
  | .captureSessionStart _ _ => none
  | .captureReplay => none
  | .softError _ _ => none
  | .powerCapping _ _ => none
  | .instructionCacheFill _ _ _ => none
  | .spanAcknowledgement _ => none

end Sys2Proof
end

