-- ==== Sys2Proof/Machine/Views.lean ====
section
/-!
DEFINITION. Sys2Proof/Machine/Views.lean: elements of a register under the views of R108, and bytes of numbers
under R3.
-/
namespace Sys2Proof.Machine

/-- Element i of a value in a view of width w: bits i·w + w − 1 to i·w (R108). -/
def elemAt (w x i : Nat) : Nat := x / 2 ^ (i * w) % 2 ^ w

/-- The n elements of a value from element i on. -/
def elemsFrom (w x : Nat) : Nat → Nat → List Nat
  | _, 0 => []
  | i, n + 1 => elemAt w x i :: elemsFrom w x (i + 1) n

/-- The 64/w elements of a register (R108). -/
def elems (w : Nat) (x : Word) : List Nat := elemsFrom w x.toNat 0 (64 / w)

/-- The number whose elements of width w are the list, element 0 lowest. -/
def packNat (w : Nat) : List Nat → Nat
  | [] => 0
  | e :: es => e % 2 ^ w + 2 ^ w * packNat w es

/-- The register whose elements of width w are the list, element 0 lowest. -/
def packElems (w : Nat) (es : List Nat) : Word := BitVec.ofNat 64 (packNat w es)

/-- An element-wise function of one register. -/
def mapElems (w : Nat) (f : Nat → Nat) (a : Word) : Word := packElems w ((elems w a).map f)

/-- An element-wise function of two registers. -/
def zipElems (w : Nat) (f : Nat → Nat → Nat) (a b : Word) : Word :=
  packElems w (List.zipWith f (elems w a) (elems w b))

/-- An element read as two's complement. -/
def signedOf (w n : Nat) : Int := if 2 * n < 2 ^ w then (n : Int) else (n : Int) - 2 ^ w

/-- An integer reduced to an element modulo 2^w. -/
def wrapTo (w : Nat) (z : Int) : Nat := (z % (2 ^ w : Int)).toNat

/-- An integer clamped to the signed range of w bits, as an element (R355). -/
def clampTo (w : Nat) (z : Int) : Nat :=
  if z < -(2 ^ (w - 1)) then wrapTo w (-(2 ^ (w - 1)))
  else if z > 2 ^ (w - 1) - 1 then wrapTo w (2 ^ (w - 1) - 1)
  else wrapTo w z

/-- The width of the integer view that T[1:0] selects (R286). -/
def viewWidth (t : BitVec 3) : Nat :=
  match t.toNat % 4 with
  | 0 => 64
  | 1 => 32
  | 2 => 16
  | _ => 8

/-- A value sign-extended from w bits to 64 (R281, R282). -/
def sextNat (w n : Nat) : Word := BitVec.ofInt 64 (signedOf w (n % 2 ^ w))

/-- A field sign-extended to 64 bits. -/
def sext {n : Nat} (x : BitVec n) : Word := x.signExtend 64

/-- A field zero-extended to 64 bits. -/
def zext {n : Nat} (x : BitVec n) : Word := x.zeroExtend 64

/-- The number that bytes store, the first byte the lowest (R3). -/
def leNat : List Byte → Nat
  | [] => 0
  | b :: bs => b.toNat + 256 * leNat bs

/-- The n lowest bytes of a number, the lowest first (R3). -/
def leBytes : Nat → Nat → List Byte
  | 0, _ => []
  | n + 1, x => BitVec.ofNat 8 x :: leBytes n (x / 256)

/-- A field of a record: n bytes from an offset, little-endian (R3). A record's missing bytes read as zero. -/
def fieldAt (rcd : List Byte) (off n : Nat) : Nat := leNat ((rcd.drop off).take n)

/-- One bit of a number. -/
def bitAt (x i : Nat) : Bool := x / 2 ^ i % 2 == 1

/-- Bits hi to lo of a number. -/
def bitsAt (x hi lo : Nat) : Nat := x / 2 ^ lo % 2 ^ (hi + 1 - lo)

end Sys2Proof.Machine
end

