-- ==== Sys2Proof/Machine/Flags.lean ====
section
/-!
DEFINITION. Sys2Proof/Machine/Flags.lean: the bits of %fflags (R116) and %warn (R299), and the conditions of R288
on integers. The conditions on floating values stand in Float.lean.
-/
namespace Sys2Proof.Machine

/-- The bits of %fflags (R116). -/
def flagNV : BitVec 5 := 0x01#5
def flagDZ : BitVec 5 := 0x02#5
def flagOF : BitVec 5 := 0x04#5
def flagUF : BitVec 5 := 0x08#5
def flagNX : BitVec 5 := 0x10#5

/-- The bits of %warn (R299). -/
def warnBADTYPE : BitVec 9 := 0x001#9
def warnFIELDRES : BitVec 9 := 0x002#9
def warnPFXIGN : BitVec 9 := 0x004#9
def warnRNDRES : BitVec 9 := 0x008#9
def warnLAVIOL : BitVec 9 := 0x010#9
def warnSLICEOVL : BitVec 9 := 0x020#9
def warnNANLOST : BitVec 9 := 0x040#9
def warnFORKNONE : BitVec 9 := 0x080#9
def warnOVERSHOOT : BitVec 9 := 0x100#9

/-- A flag that is raised when a test holds. -/
def flagIf (b : Bool) (f : BitVec 5) : BitVec 5 := if b then f else 0

/-- A warn bit that is recorded when a test holds. -/
def warnIf (b : Bool) (f : BitVec 9) : BitVec 9 := if b then f else 0

/-- The conditions of R288 for CMP, CMPI and SCMP, on elements of width w read signed, or unsigned. -/
def intCond (c : BitVec 3) (w : Nat) (uns : Bool) (a b : Nat) : Bool :=
  let x : Int := if uns then a else signedOf w a
  let y : Int := if uns then b else signedOf w b
  match c.toNat with
  | 0 => a == b
  | 1 => a != b
  | 2 => decide (x < y)
  | 3 => decide (x ≤ y)
  | 4 => decide (x > y)
  | 5 => decide (x ≥ y)
  | 6 => (a &&& b) != 0
  | _ => (a &&& b) == 0

end Sys2Proof.Machine
end

