-- ==== Sys2Proof/Machine/Float.lean ====
section
/-!
DEFINITION. Sys2Proof/Machine/Float.lean: the floating formats of R101, exact values, the one rounding of R110 to
R114, and the floating operations. Values are exact dyadic numbers; every operation forms its exact result and
rounds it once (R377).
-/
namespace Sys2Proof.Machine

/-- What a format does with its top codes (R101). -/
inductive FmtKind where
  | ieee                       -- infinities and NaNs in the top exponent
  | e4m3                       -- one NaN, no infinity
  | plain                      -- every code a number
  deriving DecidableEq, Repr

/-- A floating format (R101). -/
structure Fmt where
  width : Nat
  ebits : Nat
  fbits : Nat
  bias : Nat
  kind : FmtKind
  deriving DecidableEq, Repr

def fp32 : Fmt := { width := 32, ebits := 8, fbits := 23, bias := 127, kind := .ieee }
def fp16 : Fmt := { width := 16, ebits := 5, fbits := 10, bias := 15, kind := .ieee }
def bf16 : Fmt := { width := 16, ebits := 8, fbits := 7, bias := 127, kind := .ieee }
def e4m3 : Fmt := { width := 8, ebits := 4, fbits := 3, bias := 7, kind := .e4m3 }
def e5m2 : Fmt := { width := 8, ebits := 5, fbits := 2, bias := 15, kind := .ieee }
def e3m2 : Fmt := { width := 6, ebits := 3, fbits := 2, bias := 3, kind := .plain }
def e2m1 : Fmt := { width := 4, ebits := 2, fbits := 1, bias := 1, kind := .plain }
def binary64 : Fmt := { width := 64, ebits := 11, fbits := 52, bias := 1023, kind := .ieee }

/-- A format whose subnormals the flush flags act on (R114). -/
def Fmt.flushes (f : Fmt) : Bool := f == fp32 || f == fp16 || f == bf16

/-- The value of a code: a NaN (signalling or not), an infinity of a sign, or (−1)^neg · m · 2^e. -/
inductive FVal where
  | nan (signalling : Bool)
  | inf (neg : Bool)
  | fin (neg : Bool) (m : Nat) (e : Int)
  deriving DecidableEq, Repr

/-- The exponent of the least normal value (R101). -/
def Fmt.emin (f : Fmt) : Int := 1 - (f.bias : Int)

/-- What a code stands for (R101, R103). -/
def Fmt.decode (f : Fmt) (n : Nat) : FVal :=
  let frac := n % 2 ^ f.fbits
  let ex := n / 2 ^ f.fbits % 2 ^ f.ebits
  let neg := n / 2 ^ (f.fbits + f.ebits) % 2 == 1
  let top := 2 ^ f.ebits - 1
  let special := ex == top && (f.kind == .ieee || (f.kind == .e4m3 && frac == 2 ^ f.fbits - 1))
  if special then
    if f.kind == .ieee && frac == 0 then .inf neg
    else .nan (decide (f.width ≥ 16) && frac / 2 ^ (f.fbits - 1) == 0)
  else if ex == 0 then .fin neg frac (f.emin - f.fbits)
  else .fin neg (2 ^ f.fbits + frac) ((ex : Int) - f.bias - f.fbits)

/-- The canonical NaN (R103). -/
def Fmt.canonicalNaN (f : Fmt) : Nat :=
  match f.kind with
  | .ieee => (2 ^ f.ebits - 1) * 2 ^ f.fbits + 2 ^ (f.fbits - 1)
  | .e4m3 => 2 ^ (f.width - 1) - 1
  | .plain => 0

/-- The code of a sign with the other bits n. -/
def Fmt.signed (f : Fmt) (neg : Bool) (n : Nat) : Nat := if neg then 2 ^ (f.width - 1) + n else n

/-- The largest finite code without its sign (R101). -/
def Fmt.maxCode (f : Fmt) : Nat :=
  match f.kind with
  | .ieee => (2 ^ f.ebits - 1) * 2 ^ f.fbits - 1
  | .e4m3 => 2 ^ (f.width - 1) - 2
  | .plain => 2 ^ (f.width - 1) - 1

/-- The code of an infinity without its sign; formats of kind ieee only. -/
def Fmt.infCode (f : Fmt) : Nat := (2 ^ f.ebits - 1) * 2 ^ f.fbits

/-- Rounding modes (R110). Stochastic rounding carries the b bits that one draw gives the element (R111). -/
inductive RMode where
  | rne
  | rtz
  | rup
  | rdn
  | rna
  | sr (b q : Nat)
  deriving DecidableEq, Repr

/-- How an instruction rounds: its mode, its flush flags and its SAT bit (R110, R113, R114). -/
structure FEnv where
  mode : RMode
  ftzi : Bool
  ftzo : Bool
  sat : Bool
  deriving DecidableEq, Repr

/-- Round to nearest even, subnormals kept, as engines, atomics and the assay unit round (R112). -/
def FEnv.plain : FEnv := { mode := .rne, ftzi := false, ftzo := false, sat := false }

/-- A result: its code, the flags it raises, and whether it lost a NaN (R113, R116). -/
structure FOut where
  bits : Nat
  flags : BitVec 5
  nanLost : Bool
  deriving DecidableEq, Repr

/-- Whether a magnitude cut at 2^sh, whose part below is rem (and a little more, if sticky), rounds away from zero
(R110, R111). The value is never exact when this is asked. -/
def roundsAway (mode : RMode) (neg odd : Bool) (rem sh : Nat) (sticky : Bool) : Bool :=
  match mode with
  | .rne => decide (2 * rem > 2 ^ sh) || (2 * rem == 2 ^ sh && (sticky || odd))
  | .rna => decide (2 * rem ≥ 2 ^ sh)
  | .rtz => false
  | .rup => !neg
  | .rdn => neg
  | .sr b q => decide (rem * 2 ^ b / 2 ^ sh > q)

/-- The magnitude m · 2^e (a little more, if sticky) rounded to a multiple of 2^u: the multiple, and whether it is
inexact. -/
def roundAt (mode : RMode) (neg : Bool) (m : Nat) (e : Int) (sticky : Bool) (u : Int) : Nat × Bool :=
  let sh := (u - e).toNat
  let t := if u ≤ e then m * 2 ^ (e - u).toNat else m / 2 ^ sh
  let rem := if u ≤ e then 0 else m % 2 ^ sh
  let inexact := rem != 0 || sticky
  (if inexact && roundsAway mode neg (t % 2 == 1) rem sh sticky then t + 1 else t, inexact)

/-- The exponent of the leading bit of m · 2^e. -/
def leadExp (m : Nat) (e : Int) : Int := e + Nat.log2 m

/-- The code without sign of t · 2^u, for a t below 2^(fbits + 1) or equal to it (R101). -/
def Fmt.encodeMag (f : Fmt) (t : Nat) (u : Int) : Nat :=
  let norm := t == 2 ^ (f.fbits + 1)
  let t' := if norm then t / 2 else t
  let u' := if norm then u + 1 else u
  if t' < 2 ^ f.fbits then t' else (u' + f.fbits + f.bias).toNat * 2 ^ f.fbits + (t' - 2 ^ f.fbits)

/-- An overflowed result (R113). -/
def Fmt.overflow (f : Fmt) (env : FEnv) (neg : Bool) : FOut :=
  let toInf := match env.mode with
    | .rne | .rna | .sr _ _ => true
    | .rtz => false
    | .rup => !neg
    | .rdn => neg
  let bits := match f.kind with
    | .plain => f.signed neg f.maxCode
    | .e4m3 => if env.sat then f.signed neg f.maxCode else f.canonicalNaN
    | .ieee => if env.sat || !toInf then f.signed neg f.maxCode else f.signed neg f.infCode
  { bits := bits, flags := flagOF ||| flagNX, nanLost := false }

/-- A NaN result, raising NV when the operation was invalid (R103, R113). -/
def Fmt.nanOut (f : Fmt) (nv : Bool) : FOut :=
  { bits := f.canonicalNaN, flags := flagIf (nv || f.kind == .plain) flagNV, nanLost := f.kind == .plain }

/-- An infinite result (R113). -/
def Fmt.infOut (f : Fmt) (env : FEnv) (neg : Bool) : FOut :=
  match f.kind with
  | .ieee => { bits := f.signed neg f.infCode, flags := 0, nanLost := false }
  | .e4m3 =>
    if env.sat then { bits := f.signed neg f.maxCode, flags := flagOF ||| flagNX, nanLost := false }
    else f.nanOut true
  | .plain => { bits := f.signed neg f.maxCode, flags := flagOF ||| flagNX, nanLost := false }

/-- The magnitude m · 2^e (a little more, if sticky) with a sign, rounded once to a format (R110 to R114). -/
def Fmt.roundMag (f : Fmt) (env : FEnv) (neg : Bool) (m : Nat) (e : Int) (sticky : Bool) : FOut :=
  if m == 0 then { bits := f.signed neg 0, flags := 0, nanLost := false }
  else
    let uP := leadExp m e - f.fbits
    let tP := (roundAt env.mode neg m e sticky uP).1
    let big := f.encodeMag tP uP
    let tooBig := decide (leadExp m e ≥ f.emin) && decide (big > f.maxCode)
    if tooBig then f.overflow env neg
    else
      let u := max uP (f.emin - f.fbits)
      let r := roundAt env.mode neg m e sticky u
      let code := f.encodeMag r.1 u
      let tiny := decide (leadExp tP uP < f.emin)
      let sub := decide (0 < r.1) && decide (r.1 < 2 ^ f.fbits)
      if env.ftzo && f.flushes && sub then
        { bits := f.signed neg 0, flags := flagUF ||| flagNX, nanLost := false }
      else
        { bits := f.signed neg code, flags := flagIf r.2 flagNX ||| flagIf (tiny && r.2) flagUF, nanLost := false }

/-- An exact value rounded once to a format. -/
def Fmt.finish (f : Fmt) (env : FEnv) (v : FVal) : FOut :=
  match v with
  | .nan nv => f.nanOut nv
  | .inf neg => f.infOut env neg
  | .fin neg m e => f.roundMag env neg m e false

/-- An operand as a lane instruction reads it: FTZI reads a subnormal as a zero of its sign (R114). -/
def Fmt.operand (f : Fmt) (env : FEnv) (n : Nat) : FVal :=
  match f.decode n with
  | .fin neg m e => if env.ftzi && f.flushes && decide (m < 2 ^ f.fbits) then .fin neg 0 e else .fin neg m e
  | v => v

/-! ### Exact operations. A NaN carries whether it raises NV. -/

def FVal.isNaN : FVal → Bool
  | .nan _ => true
  | _ => false

/-- The value with its sign reversed. -/
def FVal.neg : FVal → FVal
  | .nan s => .nan s
  | .inf n => .inf (!n)
  | .fin n m e => .fin (!n) m e

def FVal.isNeg : FVal → Bool
  | .nan _ => false
  | .inf n => n
  | .fin n _ _ => n

def FVal.isZero : FVal → Bool
  | .fin _ m _ => m == 0
  | _ => false

def FVal.isInf : FVal → Bool
  | .inf _ => true
  | _ => false

/-- Whether the value is a NaN that raises NV. -/
def FVal.raises : FVal → Bool
  | .nan s => s
  | _ => false

/-- The exact product; an infinity times a zero is invalid (R378). A zero product takes its sign from the signs of its
factors, in an integer pass too. (DESIGN CHOICE, log entry 88.) -/
def FVal.mul (a b : FVal) : FVal :=
  if a.isNaN || b.isNaN then .nan (a.raises || b.raises)
  else if (a.isInf && b.isZero) || (a.isZero && b.isInf) then .nan true
  else if a.isInf || b.isInf then .inf (a.isNeg != b.isNeg)
  else
    match a, b with
    | .fin n m e, .fin n' m' e' => .fin (n != n') (m * m') (e + e')
    | _, _ => .nan true

/-- The least exponent among the finite values of a list, at most top. -/
def leastExp (top : Int) (l : List FVal) : Int :=
  l.foldl (fun t v => match v with | .fin _ _ e => min t e | _ => t) top

/-- The exact sum of the finite values of a list in units of 2^u, u at most every exponent. -/
def sumUnits (u : Int) (l : List FVal) : Int :=
  l.foldl (fun s v => match v with
    | .fin n m e => if n then s - (m : Int) * 2 ^ (e - u).toNat else s + (m : Int) * 2 ^ (e - u).toNat
    | _ => s) 0

/-- The exact sum of a list of terms (R117): NaNs, infinities of both signs, one infinity, or a finite sum. A quiet
NaN beside an invalid product or infinities of both signs raises NV all the same. A zero sum keeps the sign that all
its terms share and all of them are zeros; every other zero sum is +0, or −0 under RDN. (DEDUCED, log entry 14.) -/
def FVal.sum (rdn : Bool) (l : List FVal) : FVal :=
  let pinf := l.any (fun v => v.isInf && !v.isNeg)
  let ninf := l.any (fun v => v.isInf && v.isNeg)
  if l.any FVal.isNaN then .nan (l.any FVal.raises || (pinf && ninf))
  else if pinf && ninf then .nan true
  else if pinf then .inf false
  else if ninf then .inf true
  else
    let u := leastExp 0 l
    let s := sumUnits u l
    if s == 0 then
      if l.all (fun v => v.isZero && !v.isNeg) then .fin false 0 0
      else if l.all (fun v => v.isZero && v.isNeg) then .fin true 0 0
      else .fin rdn 0 0
    else .fin (decide (s < 0)) s.natAbs u

/-- Whether an environment rounds toward minus infinity. -/
def FEnv.rdn (env : FEnv) : Bool := env.mode == .rdn

/-- a ≤ b for values that are no NaNs, −0 and +0 equal. -/
def FVal.le (a b : FVal) : Bool :=
  match a, b with
  | .inf true, _ => true
  | _, .inf false => true
  | .inf false, _ => false
  | _, .inf true => false
  | .fin n m e, .fin n' m' e' =>
    let u := min e e'
    let x : Int := (if n then -1 else 1) * ((m : Int) * 2 ^ (e - u).toNat)
    let y : Int := (if n' then -1 else 1) * ((m' : Int) * 2 ^ (e' - u).toNat)
    decide (x ≤ y)
  | _, _ => false

/-- a < b with −0 below +0, as minima and maxima order them (R120, R379). -/
def FVal.below (a b : FVal) : Bool :=
  if a.isZero && b.isZero then a.isNeg && !b.isNeg else a.le b && !b.le a

/-- The conditions of R288 for FCMP, with the flags of R380. -/
def floatCond (c : BitVec 3) (a b : FVal) : Bool × BitVec 5 :=
  let un := a.isNaN || b.isNaN
  let quiet := flagIf (a.raises || b.raises) flagNV
  let loud := flagIf un flagNV
  match c.toNat with
  | 0 => (!un && a.le b && b.le a, quiet)
  | 1 => (un || !(a.le b && b.le a), quiet)
  | 2 => (!un && !b.le a, loud)
  | 3 => (!un && a.le b, loud)
  | 4 => (!un && !a.le b, loud)
  | 5 => (!un && b.le a, loud)
  | 6 => (un, quiet)
  | _ => (!un, quiet)

/-- A code chosen by FMIN and FMAX, passed on unchanged but for the flush flags (R114, R379). -/
def Fmt.pass (f : Fmt) (env : FEnv) (n : Nat) (flags : BitVec 5) : FOut :=
  let sub := match f.decode n with
    | .fin _ m _ => m != 0 && decide (m < 2 ^ f.fbits)
    | _ => false
  let neg := n / 2 ^ (f.width - 1) % 2 == 1
  if f.flushes && sub && env.ftzi then { bits := f.signed neg 0, flags := flags, nanLost := false }
  else if f.flushes && sub && env.ftzo then
    { bits := f.signed neg 0, flags := flags ||| flagUF ||| flagNX, nanLost := false }
  else { bits := n, flags := flags, nanLost := false }

/-- FMIN (or FMAX) of two codes (R379). -/
def Fmt.minMax (f : Fmt) (env : FEnv) (max : Bool) (a b : Nat) : FOut :=
  let x := f.operand env a
  let y := f.operand env b
  let fl := flagIf (x.raises || y.raises) flagNV
  if x.isNaN && y.isNaN then { bits := f.canonicalNaN, flags := fl, nanLost := false }
  else if x.isNaN then f.pass env b fl
  else if y.isNaN then f.pass env a fl
  else if max then (if x.below y then f.pass env b fl else f.pass env a fl)
  else if y.below x then f.pass env b fl else f.pass env a fl

def Fmt.add (f : Fmt) (env : FEnv) (a b : Nat) : FOut :=
  f.finish env (.sum env.rdn [f.operand env a, f.operand env b])

def Fmt.sub (f : Fmt) (env : FEnv) (a b : Nat) : FOut :=
  f.finish env (.sum env.rdn [f.operand env a, (f.operand env b).neg])

def Fmt.mul (f : Fmt) (env : FEnv) (a b : Nat) : FOut :=
  f.finish env ((f.operand env a).mul (f.operand env b))

/-- a · b + c with one rounding (R378). -/
def Fmt.fma (f : Fmt) (env : FEnv) (a b c : Nat) : FOut :=
  f.finish env (.sum env.rdn [(f.operand env a).mul (f.operand env b), f.operand env c])

/-- The quotient of two magnitudes to 256 bits, with what is left over as sticky. -/
def divMag (m : Nat) (e : Int) (m' : Nat) (e' : Int) : Nat × Int × Bool :=
  (m * 2 ^ 256 / m', e - e' - 256, m * 2 ^ 256 % m' != 0)

/-- a / b, correctly rounded (R383). -/
def Fmt.div (f : Fmt) (env : FEnv) (a b : Nat) : FOut :=
  let x := f.operand env a
  let y := f.operand env b
  let neg := x.isNeg != y.isNeg
  if x.isNaN || y.isNaN then f.nanOut (x.raises || y.raises)
  else if (x.isZero && y.isZero) || (x.isInf && y.isInf) then f.nanOut true
  else if x.isInf then f.infOut env neg
  else if y.isInf then { bits := f.signed neg 0, flags := 0, nanLost := false }
  else
    match x, y with
    | .fin _ m e, .fin _ m' e' =>
      if m' == 0 then
        let o := f.infOut env neg
        { o with flags := o.flags ||| flagDZ }
      else
        let q := divMag m e m' e'
        f.roundMag env neg q.1 q.2.1 q.2.2
    | _, _ => f.nanOut true

/-- The scale of a KS24 (R105): zero, a NaN block, or a value. -/
def ks24 (n : Nat) : FVal :=
  let ex : Nat := n / 2 ^ 16 % 256
  if ex == 0 then .fin false 0 0
  else if ex == 255 then .nan false
  else .fin false (65536 + n % 65536) ((ex : Int) - 127 - 16)

/-- An element under a block scale (R107): a zero scale stands for +0, a NaN block for a NaN. -/
def scaled (scale v : FVal) : FVal :=
  match scale with
  | .nan _ => .nan false
  | .inf _ => .nan false
  | .fin _ 0 _ => .fin false 0 0
  | s => s.mul v

/-- FSCL of one element (R389). -/
def Fmt.scale (f : Fmt) (env : FEnv) (a ks : Nat) : FOut :=
  match ks24 ks with
  | .nan _ => { bits := f.canonicalNaN, flags := 0, nanLost := false }
  | .fin _ 0 _ => { bits := 0, flags := 0, nanLost := false }
  | s => f.finish env ((f.operand env a).mul s)

/-- FRND of one element: to an integral value in its own format (R388). -/
def Fmt.toIntegral (f : Fmt) (env : FEnv) (a : Nat) : FOut :=
  match f.operand env a with
  | .nan s => f.nanOut s
  | .inf n => { bits := f.signed n f.infCode, flags := 0, nanLost := false }
  | .fin n m e =>
    let r := roundAt env.mode n m e false (max e 0)
    let o := f.roundMag { env with mode := .rne, sat := false, ftzo := false } n r.1 (max e 0) false
    { o with flags := flagIf r.2 flagNX }

/-- A floating value fitted to a 32-bit integer (R115): signed or unsigned. -/
def toInt32 (env : FEnv) (signed : Bool) (v : FVal) : FOut :=
  let lo : Int := if signed then -(2 ^ 31) else 0
  let hi : Int := if signed then 2 ^ 31 - 1 else 2 ^ 32 - 1
  let out (z : Int) (fl : BitVec 5) : FOut := { bits := wrapTo 32 z, flags := fl, nanLost := false }
  match v with
  | .nan _ => out 0 flagNV
  | .inf n => out (if n then lo else hi) flagNV
  | .fin n m e =>
    let r := roundAt env.mode n m e false 0
    let z : Int := if n then -(r.1 : Int) else r.1
    if z < lo then out lo flagNV
    else if z > hi then out hi flagNV
    else out z (flagIf r.2 flagNX)

/-- The formats of FCVT by code (R291), the integers apart. -/
def fcvtFmt : Nat → Option Fmt
  | 0 => some fp32
  | 1 => some bf16
  | 2 => some fp16
  | 3 => some e4m3
  | 4 => some e5m2
  | 5 => some e2m1
  | _ => none

/-- The element width of an FCVT code (R381). -/
def fcvtWidth (c : Nat) : Nat :=
  match fcvtFmt c with
  | some f => f.width
  | none => 32

/-- One element of FCVT from source code sc to destination code dc (R382); a signalling source raises NV (R103). (DEDUCED, log entry 114.) -/
def fcvtElem (env : FEnv) (sc dc x : Nat) : FOut :=
  let v := match fcvtFmt sc with
    | some f => f.operand env x
    | none =>
      let z : Int := if sc == 6 then signedOf 32 x else x
      .fin (decide (z < 0)) z.natAbs 0
  match fcvtFmt dc with
  | some f => f.finish env v
  | none => toInt32 env (dc == 6) v

/-- The floating view that T selects (R286): f32x2, bf16x4 or f16x4; reserved codes execute as f32x2 (R300). -/
def floatView (t : BitVec 3) : Fmt :=
  match t.toNat with
  | 1 => bf16
  | 2 => fp16
  | _ => fp32

/-- The mode of element i out of k when one draw z serves an instruction under SR (R111). -/
def RMode.elem (mode : RMode) (z : Word) (k i : Nat) : RMode :=
  match mode with
  | .sr _ _ => .sr (64 / k) (elemAt (64 / k) z.toNat i)
  | m => m

end Sys2Proof.Machine
end

