-- ==== Sys2Proof/Config.lean ====
section
/-!
DEFINITION. Sys2Proof/Config.lean: what the part fixes (counts and sizes of chapter 01), and the values that the
spec leaves to each device, which have no body here.
-/
namespace Sys2Proof.Config

/-- Cores of the device (R20). -/
def cores : Nat := 192

/-- Partitions per core, and team slots per partition (R14). -/
def partitions : Nat := 4
def teamSlots : Nat := 16

/-- Outstanding request entries per core (R15). -/
def requestEntries : Nat := 1024

/-- Lines of the L1 data cache, 128 KiB of 64 bytes (R14). -/
def l1Lines : Nat := 2048

/-- Words of an instruction cache, 64 KiB (R14). -/
def icacheWords : Nat := 16384

/-- Bytes of a slab slice, and the offset of its system area and of its fault record queue (R127). -/
def sliceBytes : Nat := 0x800000
def systemArea : Nat := 0x7F0000
def faultRing : Nat := 0x7FF000

/-- Bytes of one HBM stack (R140). -/
def stackBytes : Nat := 48000000000

/-- Bytes of a core's accumulator memory (R129). -/
def accBytes : Nat := 0x100000

/-- Records of one foreman queue (R159), entries of a vertical FIFO (R12), of the commit window (R78). -/
def queueRecords : Nat := 64
def fifoEntries : Nat := 16
def window : Nat := 256

/-- Retirement records of the dispatcher (R57). -/
def retirementRecords : Nat := 4096

/-- Synchronisation objects that may hold bindings, and regions of one object (R224). -/
def objects : Nat := 4096
def regionsPerObject : Nat := 16

/-- Power tokens (R20) and the admission budget that stands unless firmware sets another (R49). -/
def tokens : Nat := 768
def budget : Nat := 64

/-- Hardware queue slots and host queues (R20, R63). -/
def queueSlots : Nat := 128
def hostQueues : Nat := 4096

/-- The part's serial number (R273): each part has its own. -/
opaque serial : BitVec 64

/-- The SHA-512 digest of the firmware image that the part is shipped with (R273). -/
opaque firmwareDigest : BitVec 512

/-- The device identity key (R273), an Ed25519 private key: each part has its own. -/
opaque identityKey : BitVec 256

/-- A correctly rounded transcendental result (R387) that no enclosure of the model has decided: function code,
operand, rounding mode. Nothing constrains it (log entry 8). -/
opaque undecided : Nat → BitVec 32 → Nat → BitVec 32

/-- A byte of a collective chunk that no row sent to the streaming port has filled (R194): workgroup and offset.
Nothing constrains it (log entry 9). -/
opaque unfilled : Nat → Nat → Byte

/-- A core's energy of the 1024 dispatcher cycles that end in a given one (R85), in units of 2^-32 millijoule: what the
clerk measures. Nothing constrains it (log entry 98). -/
opaque energy : Nat → Nat → Nat

end Sys2Proof.Config
end

