-- ==== Sys2Proof/Machine/State.lean ====
section
/-!
DEFINITION. Sys2Proof/Machine/State.lean: the state of the YN80 as plain data. INVENTORY.md lists every field
with the rule that names it.
-/
namespace Sys2Proof.Machine

/-- A table keyed by numbers. An unlisted key reads as the table's default, which its reader names. -/
abbrev Table (α : Type) := List (Nat × α)

/-! ### Threads -/

/-- The register frame of a context: what a fork's checkpoint and a pending-return frame hold (R31, R203, R252). -/
structure Regs where
  v : Vector Word 64
  p : BitVec 8
  lr : Word
  mode : BitVec 5
  fflags : BitVec 5
  warn : BitVec 9
  bcur : BitVec 6
  acc : Word
  rngk : Word
  rngc : Word
  poison : BitVec 64
  deriving DecidableEq, Repr

/-- What an access does at its home (R128, R142, R353). -/
inductive AccessOp where
  | load (sx : Bool)
  | store (bytes : List Byte)
  | atomic (code : Nat) (y expect : Word)
  | acq (threshold : Word)
  | waita (old : Word)
  deriving DecidableEq, Repr

/-- One access of a thread or team after checks 1 to 6 of R142: its address and its memory key once translated. Of a
register pair's load, half is the half that has been read, the upper one for true (R219); of an access to another
device, asked is the name of the packet that is on its way (R268). -/
structure Access where
  addr : Word
  key : Nat
  size : Nat
  op : AccessOp
  half : Option (Bool × List Byte) := none
  asked : Option Nat := none
  deriving DecidableEq, Repr

/-- What an outstanding long-latency instruction waits for. -/
inductive FlightKind where
  | result                                        -- its result is computed and arrives (R38)
  | access (a : Access) (uniform : Bool)          -- a load or atomic on its way to its home
  | parked (a : Access) (uniform : Bool)          -- an access whose translation faulted (R147)
  | retry                                         -- an instruction that issues again once a fault is resolved
  | launch (addr : Word) (parked : Bool) (at_ : Nat)   -- a LAUNCH whose record is yet to be copied (R56), issued in a
                                                       -- dispatcher cycle
  | launched (x cyc : Word)                       -- a LAUNCH that the dispatcher has answered in a cycle of its core (R24)
  | trap (cause : Nat) (addr : Word)              -- a trap that the thread takes where it waits (R150)
  | rel (num : Nat)                               -- a REL whose write is on its way
  | waitt (mask : Word) (any : Bool)
  | aswait (obj : Nat) (threshold : Word)
  | cwait (launch : Nat)
  | bar (n : Nat) (got : List Nat)                -- with the writes that its thread had acquired as it arrived (R234)
  | vqput (value : Word)
  | vqget
  | hgive (core entry seq dst : Nat)
  | fence (kind scope : Nat) (writes acks : List Nat)
  | hv (writes : List Nat) (cores : List Nat)     -- the cores that have not acknowledged
  deriving DecidableEq, Repr

/-- An outstanding long-latency instruction of a context: its lookahead L, the instructions issued since, the
destinations that are pending, the word and its address (R38, R39). -/
structure Flight where
  num : Nat
  look : Nat
  since : Nat
  vdst : List Reg
  pdst : List (BitVec 3)
  sdst : List Reg
  pc : Word
  word : Code
  what : FlightKind
  deriving DecidableEq, Repr

/-- Where a context stands (R36, R165, R245, R252, R444). -/
inductive Status where
  | running
  | rendezvous (i : Instr) (pfx : Option Pfx) (warn : BitVec 9) (pc : Word) (word : Code)
  | serving
  | yielding (others : List CtxId) (left : Nat)
  | exited
  | halted (resume : Word)                        -- where it goes on once the debug interface resumes it
  deriving DecidableEq, Repr

/-- The trap shadow (R242, R252). -/
structure Shadow where
  v : List Word
  mode : BitVec 5
  fpc : Word
  rpc : Word
  deriving DecidableEq, Repr

/-- A pending-return frame (R213): the checkpoint of a collapsed fork and its return point. -/
structure Frame where
  regs : Regs
  ret : Word
  callPc : Word
  deriving DecidableEq, Repr

/-- A CALLF whose callee has not returned: its address, return point and v63 (R202). -/
structure CallRec where
  pc : Word
  ret : Word
  sp : Word
  deriving DecidableEq, Repr

/-- A context: a thread, or the continuation of one of its forks (R203). -/
structure Ctx where
  id : CtxId
  team : Nat
  lane : Nat
  regs : Regs
  pc : Word
  fdepth : Nat
  status : Status
  inflight : List Flight
  shadow : Shadow
  inHandler : Bool
  nested : Bool
  heldHalt : Bool
  haltReq : Bool
  forced : Bool := false       -- the halt request is a HALT.force, which a handler does not hold (R245)
  frames : List Frame
  calls : List CallRec
  lastAlu : Nat
  lastLong : Nat
  lastUni : Nat
  passed : Nat
  count : Nat := 0             -- the instructions that it has issued, by which the age of its stores is told (R148)
  deriving DecidableEq, Repr

/-- A store in a fork store buffer (R206), with its place in the continuation's program order. -/
structure BufStore where
  num : Nat
  addr : Word
  ins : Word × Code
  key : Nat
  bytes : List Byte
  count : Nat := 0             -- the continuation's count of instructions behind it
  deriving DecidableEq, Repr

/-- An open fork of a thread (R203 to R210). -/
structure Fork where
  wg : Nat
  tix : Nat
  depth : Nat
  checkpoint : Regs
  ret : Word
  callPc : Word
  preds : List Word
  lines : List Nat
  hit : Bool
  buffer : List BufStore
  slot : Nat                   -- the borrowed thread slot: team slot of the partition (R200)
  trains : List (Word × List Word)   -- returns in its continuation that train the predictor at commit (R202)
  issued : List (Nat × Nat)    -- issue slots that its continuation took: the slot's stamp and its top-down leaf (R216)
  deriving DecidableEq, Repr

/-- A team at TASK.serve, or in a task taken there (R165, R436). -/
structure Serve where
  queue : Nat
  idle : Bool
  d : Reg
  pc : Word
  inTask : Bool
  ending : Bool := false       -- the idle tree has ended it since the last edge of its core's clock (R24, R167)
  deriving DecidableEq, Repr

/-- A team: its place, its uniform registers, its count of HODs (R29, R30, R31, R253). -/
structure Team where
  wg : Nat
  idx : Nat
  part : Nat
  slot : Nat
  s : Vector Word 64
  hodSeq : Nat
  vqOff : List (Nat × Nat × Bool)    -- arrivals at VQPUT (true) and VQGET of threads for which it is off: number, thread
  serve : Option Serve
  deriving DecidableEq, Repr

/-! ### Workgroups and launches -/

/-- One barrier of a workgroup (R253, R362). -/
structure Barrier where
  arrived : List Nat
  firings : Nat
  phase : Nat
  deriving DecidableEq, Repr

/-- A pending assay sum in units of 2^-149 with its special marks (R77, R253). -/
structure Pending where
  sum : Int
  nan : Bool
  pinf : Bool
  ninf : Bool
  deriving DecidableEq, Repr

/-- One team's entry of a workgroup-collective Hod copy (R172). -/
structure HodEntry where
  team : Nat
  addr : Word
  first : Nat
  last : Nat
  refused : Nat
  ring : Option (Nat × Nat)    -- the ring's key and RINGN, where the descriptor's ring passes R449
  tag : Nat                    -- TAG of its descriptor (R177)
  lost : Bool                  -- a byte of it was permitted only as the workgroup's scratch (R192)
  writes : List Nat            -- what its HOD releases (R236)
  deriving DecidableEq, Repr

/-- The workgroup's k-th copy while its teams' HODs arrive (R172). -/
structure CopyAsm where
  k : Nat
  desc : List Byte             -- the descriptor as the first arrival read it (R394)
  entries : List HodEntry
  deriving DecidableEq, Repr

/-! ### Task records -/

/-- A ring that a record's end is reported to: its key and RINGN, the address of the descriptor or operand record that
names it, and that record's TAG (R177, R449). -/
structure RingRef where
  key : Nat
  size : Nat
  desc : Nat
  tag : Nat
  deriving DecidableEq, Repr

/-- A record in a foreman queue: its 64 bytes, the descriptor or operand record it names, its owner, and for a
workgroup-collective copy its slices (R158, R159, R172). -/
structure QRec where
  num : Nat
  rcd : List Byte
  desc : List Byte
  owner : Option Nat
  launch : Nat
  slices : List (Nat × Nat)    -- HOD: the slices; LOOM: KVALID and NVALID of the tile it was checked against;
                               -- QGEMV: the memory ranges of the matrix
  rings : List RingRef         -- the rings that its end is reported to
  fence : List Nat
  lostScratch : Bool
  fired : Bool
  fail : Nat                   -- for a collective copy, the status it ends with when it writes nothing (R172)
  lead : Option Nat            -- for a collective copy, its lowest-numbered team (R144)
  after : List Nat             -- the issuing threads' earlier writes, which it is released (R236)
  seq : Option Nat := none     -- for a workgroup's copy, its number: the HODSEQ of its HODs (R253, R394)
  deriving DecidableEq, Repr

/-- A started task (R160, R175, R182): its progress in elements or rows, the bytes written and how it ends. -/
structure Running where
  rcd : QRec
  progress : Nat               -- HOD: elements of finished chunks; LOOM: rows; QGEMV: the set of written chunks
  dest : Nat                   -- HOD: the destinations of the current chunk that have it (R174)
  bytes : Nat
  status : Nat
  fcode : Nat
  faddr : Nat
  done : Bool
  parked : Bool
  team : Nat
  teamWg : Nat
  tokens : Nat
  vector : List Byte           -- QGEMV: the bytes of the vector, which is read once (R185)
  vecPoison : Option Nat       -- the address of the vector's first poisoned unit (R177)
  asked : List (Nat × Nat) := []   -- the loads that its chunk or row has sent to other devices: packet and address (R268)
  deriving DecidableEq, Repr

/-- A keystone counter (R186 to R191). -/
structure Keystone where
  armed : Bool
  base : Nat
  len : Nat
  total : Nat
  kind : Nat
  target : Nat
  rearm : Bool
  count : Nat
  overshot : Bool
  pending : Bool
  late : Bool                  -- the record of its next ENQUEUE action is to spend some time on its way (R342)
  fired : Bool                 -- it has fired without REARM and waits for its pending action
  owner : Option Nat
  launch : Nat
  core : Nat
  rcd : Option QRec
  ringN : Nat
  descAddr : Word
  deriving DecidableEq, Repr

/-! ### Workgroups on cores -/

/-- Where a workgroup is: on its core, saved at an address of its queue's save area, or retired. -/
inductive Place where
  | resident
  | saved (addr : Nat)
  | retired
  deriving DecidableEq, Repr

/-- A workgroup (R29, R46, R253). -/
structure Workgroup where
  num : Nat
  launch : Nat
  core : Nat
  lin : Nat
  visit : Nat
  order : Nat
  teams : Nat
  scrOff : Nat
  scrSize : Nat
  place : Place
  arriving : Bool              -- sent out to its core, whose clock has not had an edge since (R24)
  leftAt : Nat                 -- the dispatcher cycle in which it left its core (R24)
  seats : List (Nat × Nat)     -- the partitions and slots that its teams left
  stream : List Byte           -- DRAIN rows that its collective chunk has taken from the streaming port (R181, R194)
  streamBad : List Nat         -- the offsets in them of bytes of poisoned accumulators (R155, R181)
  tags : BitVec 64
  guards : Table Bool          -- resolved guard slots; unlisted slots are unresolved
  guardAfter : Table (List Nat)    -- the writes that the GSETs of a slot release (R390)
  bars : Table Barrier
  sums : Table Pending
  gmin : Nat
  gmax : Nat
  loomHolding : Bool
  bound : Bool
  copies : List CopyAsm
  heldFirings : List (Nat × Keystone)   -- handle, and the counter as it fired (R247)
  ordered : Bool := false      -- the dispatcher has ordered it off its core, whose clock has not had an edge since (R24)
  leaving : Bool               -- a pre-emption is under way: its threads issue nothing more (R66, R247)
  ousted : Bool                -- pre-empted by the stall rule, it waits for a retirement of its grid (R62)
  called : Bool                -- such a retirement has come, and it waits for its turn (R62)
  savedRecs : List (Nat × QRec)    -- its task records with their queues, in queue order (R247)
  paused : Option Running      -- its Hod copy in progress (R247)
  deriving DecidableEq, Repr

/-- A retired position of the commit window with its samples and producer generations (R78, R79, R98). -/
structure Sample where
  visit : Nat
  ready : Nat                  -- the dispatcher cycle of its retirement (R448)
  values : List (BitVec 64)    -- binary64, one for each slot
  nans : List Bool
  gmin : Nat
  gmax : Nat
  deriving DecidableEq, Repr

/-- A slab grant (R131): memory key of the base, length, rights RD, WR, AT. -/
structure Grant where
  base : Nat
  len : Nat
  rd : Bool
  wr : Bool
  at_ : Bool
  deriving DecidableEq, Repr

/-- The life of a launch (R64, R75, R58). -/
inductive Phase where
  | waiting
  | started
  | finished
  deriving DecidableEq, Repr

/-- A launch (R28, R43, R45, R59, R78 to R90). -/
structure Launch where
  num : Nat                    -- %launch
  recAddr : Word
  rcd : List Byte              -- the 512 bytes of the launch record
  hdr : List Byte              -- the 64 bytes of the chosen kernel header
  entry : Word                 -- the chosen kernel's entry
  bucket : Nat
  dimx : Nat
  dimy : Nat
  queue : Nat
  depth : Nat
  parent : Option Nat
  parentWg : Option Nat
  grants : List Grant
  phase : Phase
  status : Nat
  counter : Nat                -- the j of R68 that the dispatcher steps next
  sent : Nat
  retired : Nat
  committed : Nat              -- positions committed
  discarded : Nat              -- positions discarded under CUT
  samples : List Sample
  lastCommit : Nat             -- the dispatcher cycle up to which the next commit waits (R448)
  nanSlots : List Nat
  stop : Option Nat            -- the assay status that a stop records
  startCycle : Nat
  energy : Nat                 -- metered energy in units of 2^-32 millijoule
  pinned : List Byte           -- the producer's bytes at the start of a PINNED launch
  stall : Nat
  lastCore : Nat
  chunks : Nat                 -- chunks contributed and not yet taken by the collective engine
  bkptHalt : Bool
  finalised : Bool
  after : List Nat             -- the launching thread's earlier writes (R56)
  tests : List (Nat × Bool)    -- the last tests of its PRODUCER: the dispatcher cycle from which each counts, and whether it
                               -- found the start condition met (R95, R24)
  failing : Option (Nat × Nat) := none   -- a status with which a core has made it fail, and the dispatcher cycle of that
                                         -- (R24, R60)
  words : List (Nat × List Byte)   -- its code as it stood at its start, by address (R301)
  deriving DecidableEq, Repr

/-! ### Engines -/

/-- The tile latched by a WLOAD (R179): its record and the bytes of its columns. -/
structure Tile where
  rcd : List Byte
  cols : List (List Byte)
  poisoned : Option Nat        -- the address of the first poisoned unit that a fetched byte lay in (R177)
  deriving DecidableEq, Repr

/-- The last writer of a byte: a release event (R237), or a thread that had released writes before (R230), with the
number of the write. -/
structure Mark where
  key : Nat
  author : Option CtxId
  num : Nat
  deriving DecidableEq, Repr

/-- A line of a core's L1 (R218): its key and its bytes. -/
structure L1Line where
  key : Nat
  bytes : List Byte
  marks : List Mark := []      -- who wrote its bytes, where that may matter for a pairing (R230)
  deriving DecidableEq, Repr

/-- A translation fault that waits for a record or stands in one (R143 to R147). -/
structure FaultReq where
  addr : Word
  pc : Word
  mask : BitVec 32
  reason : Nat
  agent : Nat
  teamSlot : Nat
  access : Nat
  level : Nat
  launch : Nat
  who : List (CtxId × Nat)     -- the outstanding instructions it parks
  hod : Bool                   -- it parks the core's Hod copy
  resolved : Bool              -- answered RESOLVED, and not every replay has completed (R146)
  deriving DecidableEq, Repr

/-- A handle entry of a slab controller (R133): state 0 FREE, 1 HELD, 2 GIVEN. -/
structure Handle where
  state : Nat
  seq : Nat
  base : Nat
  len : Nat
  holder : Nat
  dst : Nat
  deriving DecidableEq, Repr

/-- An entry of a vertical FIFO: its 32 lanes, and the writes that its VQPUT released (R197, R440). -/
structure FifoEntry where
  lanes : List Word
  writes : List Nat
  deriving DecidableEq, Repr

/-- A core. -/
structure Core where
  cyc : Word
  gated : Bool
  mhz : Nat
  lead : Nat                   -- how far its clock is ahead of the dispatcher's, in units of 1/(1000·mhz) µs (log entry 6)
  grantsG : Nat
  budget : Nat
  queues : Table (List QRec)
  coming : List QRec           -- records that firings have copied and that are on their way into their queues (R190)
  running : Table Running
  tile : Option Tile
  lastTile : Option (List Byte)
  l1 : List L1Line
  faultNext : Nat
  faultSeq : Nat
  faultsWaiting : List FaultReq
  faultsOut : Table FaultReq   -- by place in the ring
  traceSeq : Nat
  handles : Table Handle
  fifo : List FifoEntry        -- entries on their way from this core to its partner, oldest first
  spill : List FifoEntry       -- entries of that FIFO held in the save area (R198)
  newEnds : List Nat           -- launches that have finished since the last edge of its clock (R24)
  newStates : List Nat         -- assay objects written since the last edge of its clock (R24)
  stops : List Nat := []       -- launches that the dispatcher has stopped since the last edge of its clock (R24, R60)
  deriving DecidableEq, Repr

/-- A network configuration register (R415, R416). -/
structure NetCfg where
  word : BitVec 256
  wg : Nat
  deriving DecidableEq, Repr

/-- An entry of the call predictor (R202). -/
structure PredEntry where
  tag : Nat
  last : List Word
  stride : List Word
  conf : Nat
  deriving DecidableEq, Repr

/-- A partition. -/
structure Part where
  net : Table NetCfg
  preds : Table PredEntry
  topdown : Table Nat
  icache : List (Nat × Nat × Code)   -- launch, address, word
  used : List Pipe                   -- pipes that have issued in the current cycle
  tried : List (Nat × Nat) := []     -- teams whose uniform instruction has found in the current cycle that it waits
  granted : Nat                      -- operand reads granted in the current cycle (R272)
  owed : List (Pipe × Nat)           -- operand reads that issued courses are yet to gather
  gathering : List Pipe              -- pipes that gather such operands in the current cycle
  forced : List (Pipe × Word)        -- program counters taken under R35
  clock : Nat                        -- issue stamps
  deriving DecidableEq, Repr

/-! ### Memory traffic -/

/-- A scope inside which a pending write is visible (R229, R230). -/
inductive ScopeSet where
  | team (wg team : Nat)
  | wg (wg : Nat)
  | core (core : Nat)
  | pair (pair : Nat)
  deriving DecidableEq, Repr

/-- What a write does at its home controller (R18, R162, R171). -/
inductive HomeOp where
  | put (bytes : List Byte) (poisoned : Bool)
  | add (width : Nat) (delta : Nat)
  | reduce (code size : Nat) (bytes : List Byte)
  | split (code : Nat) (bytes : List Byte) (other first : Nat)   -- a reduction of one element of two pages: where its
                                                                 -- second part lies, and the length of its first
  deriving DecidableEq, Repr

/-- A write that has entered a store path and is not yet visible (R218, R232); to another device it has been sent
once its packet is on a link (R268). -/
structure PendingWrite where
  num : Nat
  core : Nat
  src : Option CtxId           -- the thread, at level 1 the whole team of that thread (R431); none for an engine
  addr : Word                  -- a thread's store: the address that it named (R144)
  ins : Word × Code            -- its instruction's address and word (R242)
  issuers : List (CtxId × Nat) := []   -- the threads that issued it, each with its count of instructions behind it (R148)
  event : Bool := false        -- it is a release event of R237
  key : Nat
  op : HomeOp
  after : List Nat             -- writes that become visible first
  vis : List ScopeSet
  parked : Option (CtxId × Nat)          -- the faulted access whose replay gives it its place (R147)
  sent : Bool
  regions : Option (List (Nat × Nat))    -- for a REL's write, the regions whose writes come first (R226)
  deriving DecidableEq, Repr

/-- A chunk that the Hod (engine 5) or a row that the Loom (engine 4) has written and that is not yet visible (R174,
R181): its parts, which lie in the 512 bytes from the address base on: of a chunk its block, of a row its first byte. -/
structure HodChunk where
  num : Nat
  core : Nat
  engine : Nat
  base : Nat
  parts : List (Nat × HomeOp)
  deriving DecidableEq, Repr

/-- A write of an engine (4 the Loom, 5 the Hod, 6 the Quarry) to another device that is not acknowledged (R238, R268): its
name, its address and key, its operation, and whether it is yet to be sent, because it found no route or came back
(R269). -/
structure HodSent where
  num : Nat
  core : Nat
  engine : Nat
  addr : Nat
  key : Nat
  op : HomeOp
  lost : Bool
  deriving DecidableEq, Repr

/-- A FENCE.REL that has completed at a narrow scope and whose writes are yet to become visible at their homes (R230): its
thread, the number from which on that thread's writes follow it, its scope, and what it made visible there. -/
structure Release where
  author : CtxId
  since : Nat
  scope : ScopeSet
  writes : List Nat
  deriving DecidableEq, Repr

/-- A context has read, by an instruction of a number, a write that followed a release of its author (R230). -/
structure Seen where
  id : CtxId
  num : Nat
  author : CtxId
  write : Nat
  deriving DecidableEq, Repr

/-- A cached translation (R141): page-table root, virtual page base and size, the leaf entry. -/
structure Cached where
  root : Nat
  page : Nat
  size : Nat
  leaf : Word
  level : Nat
  deriving DecidableEq, Repr

/-- A bound region of a synchronisation object (R224): the object's memory key; the object's place and the region's
base and length, as slab keys or virtual addresses. -/
structure Binding where
  obj : Nat
  at_ : Nat
  base : Nat
  len : Nat
  deriving DecidableEq, Repr

/-! ### Host, Span, collectives -/

/-- A host queue (R263 to R265). -/
structure HostQueue where
  reg : Option (List Byte)     -- as registered
  desc : Option (List Byte)    -- as copied when the queue was last mapped to a slot
  doorbell : Nat
  head : Nat
  qerr : Nat
  trace : Bool
  deriving DecidableEq, Repr

/-- A hardware queue slot (R63). -/
structure QSlot where
  queue : Nat
  passed : Bool
  full : Bool
  deriving DecidableEq, Repr

/-- A configured communicator (R271). -/
structure Comm where
  members : List Nat
  priority : Nat
  root : Nat
  buffer : Nat
  result : Nat
  resultLen : Nat
  deriving DecidableEq, Repr

/-- A chunk that waits in a tier's collective engine until it is taken (R194, R195): its workgroup and the key of its
source bytes; or a chunk on its way to a device over a link that the other tier's engine serves (R23). -/
structure CollChunk where
  hop : Option (Nat × Nat)     -- link and device
  tier : Nat
  launch : Nat
  wg : Nat
  src : Nat
  msg : CollMsg
  deriving DecidableEq, Repr

/-- Traffic that leaves on a link (R268, R269): dev is the device it is for, src the one it came from. -/
inductive LinkOut where
  | oneSided (link chan : Nat) (p : SpanPkt)
  | answer (link chan dev src tag : Nat) (bytes : List Byte) (bad : Bool)
  | refusal (link chan dev src tag cause : Nat)
  | unreach (link chan : Nat) (p : SpanPkt)
  | chunk (link chan dev src : Nat) (m : CollMsg)
  | backAnswer (link chan dev tag : Nat)
  | backChunk (link chan dev : Nat) (m : CollMsg)
  deriving DecidableEq, Repr

/-- A capture session (R262): its regions and the address in HBM of the capture area that holds their bytes as they
stood at its start, the recorded packets, the digests in order of finish, and the result of the last replay: the
index of the first launch whose digest differs, if there is one. -/
structure Capture where
  area : Nat
  regions : List (Nat × Nat)
  packets : List (Nat × List Byte)
  digests : List (Nat × BitVec 512)
  replay : Option (Option Nat)
  starts : List (Nat × Nat × Word)   -- the launches in the order in which they started: number, queue, record
  stage : Option (Nat × Option Nat)  -- a replay: the index of the launch to run next, the launch that runs
  deriving DecidableEq, Repr

/-! ### The order of moves -/

/-- One move: an event of the opcode table, one issue of a partition's pipe, a cycle of a clock, or a choice that
the spec leaves to the part (what leaves a cache, which half of a register pair is read first), and what others write
into memory of their own. -/
inductive Move where
  | event (i : Instr)
  | issue (core part : Nat) (pipe : Pipe) (defer : Bool)
  | coreCycle (core : Nat)
  | dispCycle
  | evictLine (core key : Nat)
  | evictTranslation (root page : Nat)
  | evictWord (core part addr : Nat)
  | freshWord (core part addr : Nat)             -- a word enters an instruction cache as it stands (R301)
  | quarryChunk (core chunk : Nat)
  | hostStore (addr : Nat) (bytes : List Byte)   -- the host writes its own memory
  | remoteStore (dev : Nat) (slab : Bool) (addr : Nat) (bytes : List Byte) (bad : Bool)   -- another device's memory
                                                 -- changes, or is poisoned (R155)
  | loadHalf (id : CtxId) (num : Nat) (high : Bool)
  | holdChunk (core : Nat)                       -- the next chunk of a copy is written, and becomes visible later
  | lateAction (ctrl num : Nat)                  -- a counter's next ENQUEUE record takes some time on its way
  | enterQueue (core idx : Nat)                  -- a record on its way enters its queue
  | holdCommit (launch : Nat)                    -- a launch's next commit waits (R448)
  | holdRow (core : Nat)                         -- the next row of a DRAIN is written, and becomes visible later
  | refuseRemote (tag : Nat) (handle : Bool)     -- the home device of an access refuses it: HANDLE, or else SLAB
  | sample (id : CtxId)                          -- a core writes a trace record of a sample (R260)
  deriving DecidableEq, Repr

/-- What is issuing: the pipe's place, the course of contexts or the team, the word and its prefix. -/
structure Issue where
  core : Nat
  part : Nat
  course : List CtxId
  wg : Nat
  team : Nat
  start : Word                 -- the address of the first word of the pair: the prefix, where there is one
  pc : Word                    -- the address of the instruction word
  pfx : Option Pfx
  word : Code
  warn : BitVec 9              -- what the prefix words themselves recorded
  defer : Bool
  deriving DecidableEq, Repr

/-! ### The machine -/

/-- The state of the device. -/
structure State where
  ctxs : List Ctx
  forks : List Fork
  teams : List Team
  wgs : List Workgroup
  launches : List Launch
  cores : Table Core
  parts : Table Part
  keystones : Table Keystone
  mem : List Host.Cell
  poison : List Nat
  stores : List PendingWrite
  chunks : List HodChunk
  hodSent : List HodSent
  fits : List (CtxId × Nat × Word)   -- values that waiting ACQs and ASWAITs have read and found fitting (R227, R360)
  got : List (CtxId × Nat)           -- the pending writes that acquires have made visible to a thread, by number (R230)
  releases : List Release
  marks : List Mark
  seen : List Seen
  acks : List PendingWrite      -- writes performed at other devices that have not acknowledged them (R238)
  tlb : List Cached
  bindings : List Binding
  dcycle : Nat
  metered : Nat                -- the dispatcher cycle of the last energy measurement (R85)
  nextLaunch : Nat
  nextWg : Nat
  queues : Table HostQueue
  slots : Table QSlot
  rotLast : Nat
  pool : Nat
  cap : Nat
  alert : Bool
  idleSample : Option (Nat × Nat)
  enqueued : Nat
  completed : Nat
  comms : Table Comm
  collOut : List CollChunk
  collIn : List CollMsg
  collLast : Table Nat          -- the communicator that each tier's engine served last (R193)
  devnum : Option Nat
  routes : Table (Nat × Nat)
  linkOut : List LinkOut
  mailbox : Option Nat
  mboxStatus : Nat
  mboxData : List Byte
  invalidating : Option (Nat × Nat)
  hostData : List Byte
  hostPoison : Bool
  corrected : Table Nat
  clerk : Table Nat
  firmware : Option (List Byte)
  running : Bool
  capture : Option Capture
  agenda : List Move
  cur : Issue
  nextNum : Nat
  deriving DecidableEq, Repr

/-- Why the machine stops. No rule of the spec describes an event that ends the device's operation, so the one
reason is the model's own. -/
inductive Fault where
  /-- Raised by no meaning: a word that reached a meaning and fits none of its forms. Safe: it stops where the
  hardware goes on. -/
  | unreachable
  deriving DecidableEq, Repr

/-- Why the model gives an instruction no meaning. -/
inductive Refusal where
  /-- Raised by an arm of exec that has no meaning yet, with the instruction's mnemonic. Safe: the model stops. -/
  | notModelled (mnemonic : String)
  deriving DecidableEq, Repr

/-- A core as reset leaves it (R202, R249, R259; log entry 3). -/
def Core.init : Core :=
  { cyc := 0, gated := false, mhz := 1700, lead := 0, grantsG := 12, budget := Config.budget, queues := [],
    coming := [], running := [],
    tile := none, lastTile := none, l1 := [], faultNext := 0, faultSeq := 0, faultsWaiting := [], faultsOut := [],
    traceSeq := 0, handles := [], fifo := [], spill := [], newEnds := [], newStates := [] }

/-- A partition as reset leaves it (R202, R416; log entry 3). -/
def Part.init : Part :=
  { net := [], preds := [], topdown := [], icache := [], used := [], granted := 0, owed := [], gathering := [], forced := [], clock := 0 }

/-- A keystone counter that is free and has never been armed (log entry 3). -/
def Keystone.init : Keystone :=
  { armed := false, base := 0, len := 0, total := 0, kind := 0, target := 0, rearm := false, count := 0,
    overshot := false, pending := false, late := false, fired := false, owner := none, launch := 0, core := 0, rcd := none,
    ringN := 0, descAddr := 0 }

/-- Nothing issues. -/
def Issue.idle : Issue :=
  { core := 0, part := 0, course := [], wg := 0, team := 0, start := 0, pc := 0, pfx := none, word := 0,
    warn := 0, defer := false }

/-- The machine right after reset: no work is resident, no queue is registered, every accumulator is +0 and no
tile is latched (R249), the predictors are invalid (R202), the core cycle counters are zero (R259), the device
number and the routes are cleared (R269). -/
def State.reset : State :=
  { ctxs := [], forks := [], teams := [], wgs := [], launches := [], cores := [], parts := [], keystones := [],
    mem := [], poison := [], stores := [], chunks := [], hodSent := [], fits := [], got := [], releases := [], marks := [],
    seen := [], acks := [], tlb := [], bindings := [], dcycle := 0, metered := 0, nextLaunch := 1,
    nextWg := 0, queues := [], slots := [], rotLast := Config.hostQueues - 1,
    pool := Config.tokens, cap := 2800, alert := false, idleSample := none, enqueued := 0, completed := 0,
    comms := [], collOut := [], collIn := [], collLast := [], devnum := none, routes := [], linkOut := [], mailbox := none,
    mboxStatus := 0, mboxData := [], invalidating := none, hostData := [], hostPoison := false, corrected := [],
    clerk := [], firmware := none, running := true, capture := none, agenda := [], cur := Issue.idle,
    nextNum := 0 }

end Sys2Proof.Machine
end

