-- ==== Sys2Proof/Machine/Memory.lean ====
section
/-!
DEFINITION. Sys2Proof/Machine/Memory.lean: memory as a canonical list of cells, and the keys of its bytes.

The key of a byte names its place once: a slab byte of this device by its slab address with device number 0xFFF
(R126), HBM from 2^64 on by physical address (R140), host memory from 2^65 on, accumulator memory from 2^68 on
(R129), memory of another device from 2^72 on. An unlisted byte reads as zero (log entry 2).
-/
namespace Sys2Proof.Machine

/-! ### Cells -/

/-- What an unlisted address reads as (log entry 2). -/
def unlistedByte : Byte := 0

/-- The byte at a key. (DESIGN CHOICE, log entry 2.) -/
def cellRead : List Host.Cell → Nat → Byte
  | [], _ => unlistedByte
  | (a, b) :: cs, k => if a = k then b else cellRead cs k

/-- The cells with one byte written: an entry that equals what an unlisted address reads as is not kept. -/
def cellWrite : List Host.Cell → Nat → Byte → List Host.Cell
  | [], k, v => if v = unlistedByte then [] else [(k, v)]
  | (a, b) :: cs, k, v =>
    if k < a then (if v = unlistedByte then (a, b) :: cs else (k, v) :: (a, b) :: cs)
    else if k = a then (if v = unlistedByte then cs else (a, v) :: cs)
    else (a, b) :: cellWrite cs k v

/-- Every key of the list lies above a bound, keys rise strictly, and no entry reads as an unlisted address. -/
def cellsAbove : Option Nat → List Host.Cell → Bool
  | _, [] => true
  | lo, (a, b) :: cs =>
    (match lo with
      | none => true
      | some l => decide (l < a)) && b != unlistedByte && cellsAbove (some a) cs

/-- The canonical form of memory. -/
def Memory.wf (m : List Host.Cell) : Bool := cellsAbove none m

/-- n bytes from a key on, the lowest first. -/
def cellsRead (m : List Host.Cell) (k : Nat) : Nat → List Byte
  | 0 => []
  | n + 1 => cellRead m k :: cellsRead m (k + 1) n

/-- Bytes written from a key on. -/
def cellsWrite (m : List Host.Cell) (k : Nat) : List Byte → List Host.Cell
  | [] => m
  | b :: bs => cellsWrite (cellWrite m k b) (k + 1) bs

/-! ### Keys -/

def slabBase : Nat := 0x00F00FFF00000000
def hbmBase : Nat := 2 ^ 64
def hostBase : Nat := 2 ^ 65
def accBase : Nat := 2 ^ 68
def remoteBase : Nat := 2 ^ 72

/-- The key of a slab byte of this device. -/
def slabKey (core off : Nat) : Nat := slabBase + core * 2 ^ 23 + off

/-- The key of a byte of a core's accumulator memory (R129). -/
def accKey (core x : Nat) : Nat := accBase + core * 2 ^ 20 + x

/-- The key of a byte of another device: its number and 64-bit slab address, or HBM physical address. -/
def remoteKey (dev : Nat) (slab : Bool) (addr : Nat) : Nat :=
  remoteBase + (dev * 2 + (if slab then 1 else 0)) * 2 ^ 64 + addr

def isSlabKey (k : Nat) : Bool := decide (slabBase ≤ k) && decide (k < slabBase + 2 ^ 32)
def isHbmKey (k : Nat) : Bool := decide (hbmBase ≤ k) && decide (k < hostBase)
def isHostKey (k : Nat) : Bool := decide (hostBase ≤ k) && decide (k < accBase)
def isAccKey (k : Nat) : Bool := decide (accBase ≤ k) && decide (k < remoteBase)
def isRemoteKey (k : Nat) : Bool := decide (remoteBase ≤ k)

/-- The core of a slab key's slice, and the offset in it (R126). -/
def slabCore (k : Nat) : Nat := (k - slabBase) / 2 ^ 23
def slabOff (k : Nat) : Nat := (k - slabBase) % 2 ^ 23

/-- The device and the address of a remote key. -/
def remoteDev (k : Nat) : Nat := (k - remoteBase) / 2 ^ 65
def remoteIsSlab (k : Nat) : Bool := (k - remoteBase) / 2 ^ 64 % 2 == 1
def remoteAddr (k : Nat) : Nat := (k - remoteBase) % 2 ^ 64

/-- A line that a core's L1 may hold: HBM, host memory, memory of other devices, and slab of other cores (R14, R218). -/
def l1Cacheable (core k : Nat) : Bool :=
  isHbmKey k || isHostKey k || isRemoteKey k || (isSlabKey k && slabCore k != core)

/-- The controller that is a byte's home (R18): slab controllers 0 to 191, HBM stacks from 192 on. -/
def homeOf (k : Nat) : Option Nat :=
  if isSlabKey k then some (slabCore k)
  else if isHbmKey k then some (Config.cores + (k - hbmBase) / 2 ^ 36)
  else none

/-- The size of the unit that an uncorrectable error poisons (R154): 32 bytes of slab or accumulator memory, 64 of HBM, on
this device or another. -/
def poisonUnitSize (k : Nat) : Nat := if isHbmKey k || isHostKey k || (isRemoteKey k && !remoteIsSlab k) then 64 else 32

/-- The unit that holds a byte. -/
def poisonUnit (k : Nat) : Nat := k / poisonUnitSize k * poisonUnitSize k

/-- The keys of the n bytes from k on that lie in poisoned units, if there is one. -/
def firstPoison (poison : List Nat) (k : Nat) : Nat → Option Nat
  | 0 => none
  | n + 1 => if poison.contains (poisonUnit k) then some (poisonUnit k) else firstPoison poison (k + 1) n

/-- The units that n bytes from k on touch. -/
def unitsOf (k n : Nat) : List Nat :=
  if n = 0 then []
  else ((List.range ((k + n - 1) / 32 - k / 32 + 1)).map (fun i => poisonUnit (k / 32 * 32 + 32 * i))).eraseDups

/-- Every byte of a unit lies in one of a list of ranges. -/
def unitWithin (u : Nat) (ranges : List (Nat × Nat)) : Bool :=
  (List.range (poisonUnitSize u)).all (fun i => ranges.any (fun r => decide (r.1 ≤ u + i) && decide (u + i < r.1 + r.2)))

/-- The poisoned units after one write of n bytes from k on: a unit wholly written is clean, a partial store leaves it
poisoned (R155), and a poisoned write poisons its units. (DEDUCED, log entry 74.) -/
def poisonAfter (poison : List Nat) (k n : Nat) (poisoned : Bool) : List Nat :=
  if poisoned then (unitsOf k n).foldl (fun p u => if p.contains u then p else u :: p) poison
  else poison.filter (fun u => !(decide (k ≤ u) && decide (u + poisonUnitSize u ≤ k + n)))

/-- Two ranges of bytes that share one. -/
def overlaps (k n k' n' : Nat) : Bool := decide (k < k' + n') && decide (k' < k + n) && decide (0 < n) && decide (0 < n')

/-- A range inside another. -/
def inside (k n k' n' : Nat) : Bool := decide (k' ≤ k) && decide (k + n ≤ k' + n')

end Sys2Proof.Machine
end

