-- ==== Sys2Proof/Machine/Lookup.lean ====
section
/-!
DEFINITION. Sys2Proof/Machine/Lookup.lean: finding and changing the parts of the state, and the fields of launch
records (R43) and kernel headers (R45).
-/
namespace Sys2Proof.Machine

/-! ### Tables -/

/-- The entry of a key. -/
def Table.find {α : Type} : Table α → Nat → Option α
  | [], _ => none
  | (a, v) :: t, k => if a = k then some v else Table.find t k

/-- The entry of a key, or the default of an unlisted key. -/
def Table.get {α : Type} (t : Table α) (d : α) (k : Nat) : α := (Table.find t k).getD d

/-- The table with one entry written, keys rising. -/
def Table.set {α : Type} : Table α → Nat → α → Table α
  | [], k, v => [(k, v)]
  | (a, w) :: t, k, v =>
    if k < a then (k, v) :: (a, w) :: t
    else if k = a then (k, v) :: t
    else (a, w) :: Table.set t k v

/-- The table without a key. -/
def Table.erase {α : Type} (t : Table α) (k : Nat) : Table α := t.filter (fun e => e.1 != k)

/-! ### Parts of the state -/

def State.ctx? (s : State) (id : CtxId) : Option Ctx := s.ctxs.find? (fun c => c.id == id)

/-- One function applied to every context. -/
def State.mapCtx (s : State) (g : Ctx → Ctx) : State := { s with ctxs := s.ctxs.map g }

/-- One function applied to the context of a name. -/
def State.onCtx (s : State) (id : CtxId) (g : Ctx → Ctx) : State :=
  s.mapCtx (fun c => if c.id = id then g c else c)

def State.team? (s : State) (wg idx : Nat) : Option Team := s.teams.find? (fun t => t.wg == wg && t.idx == idx)

def State.onTeam (s : State) (wg idx : Nat) (g : Team → Team) : State :=
  { s with teams := s.teams.map (fun t => if t.wg = wg ∧ t.idx = idx then g t else t) }

def State.wg? (s : State) (n : Nat) : Option Workgroup := s.wgs.find? (fun w => w.num == n)

def State.onWg (s : State) (n : Nat) (g : Workgroup → Workgroup) : State :=
  { s with wgs := s.wgs.map (fun w => if w.num = n then g w else w) }

def State.launch? (s : State) (n : Nat) : Option Launch := s.launches.find? (fun l => l.num == n)

def State.onLaunch (s : State) (n : Nat) (g : Launch → Launch) : State :=
  { s with launches := s.launches.map (fun l => if l.num = n then g l else l) }

def State.core (s : State) (n : Nat) : Core := Table.get s.cores Core.init n

def State.onCore (s : State) (n : Nat) (g : Core → Core) : State :=
  { s with cores := Table.set s.cores n (g (s.core n)) }

/-- The key of a partition in the table of partitions. -/
def partKey (core part : Nat) : Nat := core * Config.partitions + part

def State.part (s : State) (core part : Nat) : Part := Table.get s.parts Part.init (partKey core part)

def State.onPart (s : State) (core part : Nat) (g : Part → Part) : State :=
  { s with parts := Table.set s.parts (partKey core part) (g (s.part core part)) }

/-- The key of a keystone counter: its controller and its number (R186, R187). -/
def keystoneKey (ctrl num : Nat) : Nat := ctrl * 512 + num

def State.keystone (s : State) (ctrl num : Nat) : Keystone :=
  Table.get s.keystones Keystone.init (keystoneKey ctrl num)

def State.onKeystone (s : State) (ctrl num : Nat) (g : Keystone → Keystone) : State :=
  { s with keystones := Table.set s.keystones (keystoneKey ctrl num) (g (s.keystone ctrl num)) }

/-- The launch of a workgroup. -/
def State.launchOf? (s : State) (wg : Nat) : Option Launch := (s.wg? wg).bind (fun w => s.launch? w.launch)

/-! ### Fields of the launch record (R43) and the kernel header (R45) -/

def Launch.field (l : Launch) (off n : Nat) : Nat := fieldAt l.rcd off n
def Launch.code (l : Launch) : Nat := l.field 0x000 8
def Launch.dimz (l : Launch) : Nat := l.field 0x010 4
def Launch.teams (l : Launch) : Nat := l.field 0x014 1
def Launch.sampled (l : Launch) : Bool := l.field 0x015 1 == 1
def Launch.spread (l : Launch) : Bool := l.field 0x016 1 == 1
def Launch.cut (l : Launch) : Bool := l.field 0x017 1 == 1
def Launch.seed (l : Launch) : Nat := l.field 0x018 8
def Launch.coresident (l : Launch) : Bool := bitAt (l.field 0x020 2) 0
def Launch.yieldok (l : Launch) : Bool := bitAt (l.field 0x020 2) 1
def Launch.legacy (l : Launch) : Bool := bitAt (l.field 0x020 2) 2
def Launch.stopslot (l : Launch) : Nat := l.field 0x022 1
def Launch.consume (l : Launch) : Nat := l.field 0x023 1
def Launch.nmin (l : Launch) : Nat := l.field 0x024 4
def Launch.maxres (l : Launch) : Nat := l.field 0x028 4
def Launch.nbuckets (l : Launch) : Nat := l.field 0x02C 1
def Launch.deadline (l : Launch) : Nat := l.field 0x030 8
def Launch.energyLimit (l : Launch) : Nat := l.field 0x038 8
def Launch.arg (l : Launch) (i : Nat) : Nat := l.field (0x040 + 8 * i) 8
def Launch.producer (l : Launch) : Nat := l.field 0x0B8 8
def Launch.nstart (l : Launch) : Nat := l.field 0x0C0 8
def Launch.startwidth (l : Launch) : Nat := l.field 0x0C8 8
def Launch.assay (l : Launch) (k : Nat) : Nat := l.field (0x0D0 + 8 * k) 8
def Launch.winbase (l : Launch) : Nat := l.field 0x110 8
def Launch.winstride (l : Launch) : Nat := l.field 0x118 8
def Launch.traph (l : Launch) : Nat := l.field 0x120 8
def Launch.complete (l : Launch) : Nat := l.field 0x128 8
def Launch.communicator (l : Launch) : Nat := l.field 0x130 1
def Launch.collOp (l : Launch) : Nat := l.field 0x131 1
def Launch.chunkBytes (l : Launch) : Nat := l.field 0x134 4
def Launch.chunkMap (l : Launch) : Nat := l.field 0x138 8
def Launch.shape (l : Launch) (i : Nat) : Nat := l.field (0x140 + 4 * i) 4
def Launch.bucketEntry (l : Launch) (i : Nat) : Nat := l.field (0x150 + 20 * i) 4
def Launch.bucketHi (l : Launch) (i j : Nat) : Nat := l.field (0x154 + 20 * i + 2 * j) 2
def Launch.bucketPdx (l : Launch) (i : Nat) : Nat := l.field (0x15C + 20 * i) 4
def Launch.bucketPdy (l : Launch) (i : Nat) : Nat := l.field (0x160 + 20 * i) 4

/-- The workgroups of the grid (R28, R53). -/
def Launch.total (l : Launch) : Nat := l.dimx * l.dimy * l.dimz

def Launch.hfield (l : Launch) (off n : Nat) : Nat := fieldAt l.hdr off n
def Launch.regs (l : Launch) : Nat := l.hfield 0x02 1
def Launch.energyClass (l : Launch) : Nat := l.hfield 0x03 1 % 8
def Launch.effects (l : Launch) : Bool := bitAt (l.hfield 0x03 1) 7
def Launch.scratch (l : Launch) : Nat := l.hfield 0x04 4
def Launch.tags (l : Launch) : Nat := l.hfield 0x08 1
def Launch.barriers (l : Launch) : Nat := l.hfield 0x09 1
def Launch.guards (l : Launch) : Nat := l.hfield 0x0A 1
def Launch.karr (l : Launch) (i : Nat) : Nat := l.hfield (0x0C + i) 1
def Launch.stack (l : Launch) : Nat := l.hfield 0x1C 4
def Launch.trapoff (l : Launch) : Nat := l.hfield 0x20 4
def Launch.codesize (l : Launch) : Nat := l.hfield 0x24 4

/-- The trap handler of R48, none when there is neither TRAPH nor TRAPOFF. TRAPOFF counts from the entry of the kernel
that runs. (DEDUCED, log entry 13.) -/
def Launch.handler (l : Launch) : Option Word :=
  if l.traph ≠ 0 then some (BitVec.ofNat 64 l.traph)
  else if l.trapoff ≠ 0 then some (l.entry + sextNat 32 l.trapoff)
  else none

/-- Bytes of a workgroup's scratch allocation (R46). -/
def Launch.scratchBytes (l : Launch) : Nat := l.scratch + l.stack * 32 * l.teams

/-- The coordinates of a workgroup (R28). -/
def Launch.wgx (l : Launch) (lin : Nat) : Nat := lin % l.dimx
def Launch.wgy (l : Launch) (lin : Nat) : Nat := lin / l.dimx % l.dimy
def Launch.wgz (l : Launch) (lin : Nat) : Nat := lin / l.dimx / l.dimy

/-! ### Derived places -/

/-- The device number that this device's own addresses carry: its assigned number, or 0xFFF while it has none
(R126, R269). -/
def State.ownDev (s : State) : Nat := s.devnum.getD 0xFFF

/-- The slab address of a byte with the issuing device's own number (R128). -/
def State.slabAddr (s : State) (core off : Nat) : Word :=
  BitVec.ofNat 64 (0x00F0000000000000 + s.ownDev * 2 ^ 32 + core * 2 ^ 23 + off)

/-- %scr of a workgroup (R46, R128). -/
def State.scr (s : State) (w : Workgroup) : Word := s.slabAddr w.core w.scrOff

/-- %win of a workgroup (R93). -/
def Launch.win (l : Launch) (lin : Nat) : Word := BitVec.ofNat 64 (l.winbase + lin * l.winstride)

/-- The core and partition of a context. -/
def State.coreOf (s : State) (c : Ctx) : Nat := ((s.wg? c.id.wg).map Workgroup.core).getD 0
def State.partOf (s : State) (c : Ctx) : Nat := ((s.team? c.id.wg c.team).map Team.part).getD 0

/-- Whether a context is a thread that has not exited: level 0, so that each thread counts once. -/
def Ctx.live (c : Ctx) : Bool := c.id.lvl == 0 && c.status != .exited

/-- The live threads of a team, and of a workgroup, in order of %tix. -/
def State.liveOfTeam (s : State) (wg team : Nat) : List Ctx :=
  s.ctxs.filter (fun c => c.live && c.id.wg == wg && c.team == team)
def State.liveOfWg (s : State) (wg : Nat) : List Ctx :=
  s.ctxs.filter (fun c => c.live && c.id.wg == wg)

/-- The workgroups of a launch that are on a core. -/
def State.residentOf (s : State) (l : Nat) : List Workgroup :=
  s.wgs.filter (fun w => w.launch == l && w.place == .resident)

/-- The seats of a workgroup's teams: partition and slot. -/
def State.seatsOf (s : State) (n : Nat) : List (Nat × Nat) :=
  (s.teams.filter (fun t => t.wg == n)).map (fun t => (t.part, t.slot))

/-- The dispatcher has not had an edge of its clock since a workgroup left its core (R24). (DEDUCED, log entry 96.) -/
def State.leftNow (s : State) (w : Workgroup) : Bool := w.place != .resident && w.leftAt == s.dcycle

/-- BARRIERS and KARR of a workgroup's launch. -/
def State.barriersOf (s : State) (wg : Nat) : Nat := ((s.launchOf? wg).map Launch.barriers).getD 0
def State.karrOf (s : State) (wg n : Nat) : Nat := ((s.launchOf? wg).map (fun l => l.karr n)).getD 0

/-- A fresh number for an outstanding instruction, a pending write or a record. (DESIGN CHOICE, log entry 5.) -/
def State.fresh (s : State) : Nat × State := (s.nextNum, { s with nextNum := s.nextNum + 1 })

end Sys2Proof.Machine
end

