-- ==== Sys2Proof/Machine/Translate.lean ====
section
/-!
DEFINITION. Sys2Proof/Machine/Translate.lean: the address map (R125, R126), page tables (R137 to R141), slab grants
(R131, R132), owned buffers (R133, R134), and the checks of R142 in their order.
-/
namespace Sys2Proof.Machine

/-! ### Causes and reasons -/

/-- Trap causes (R239). -/
def causeILLEGAL : Nat := 1
def causePRIVILEGED : Nat := 2
def causeMISALIGNED : Nat := 3
def causeWINDOW : Nat := 4
def causeHANDLE : Nat := 5
def causeSLAB : Nat := 6
def causeMEMERR : Nat := 7
def causeBKPT : Nat := 8
def causeTRAP : Nat := 9
def causeSTACKOVF : Nat := 10

/-- Reasons of a fault record (R144). -/
def reasonNOTVALID : Nat := 0
def reasonNOREAD : Nat := 1
def reasonNOWRITE : Nat := 2
def reasonBADENTRY : Nat := 3
def reasonUNREACH : Nat := 4

/-- Accesses as the ACCESS field of R144 numbers them. -/
def accLoad : Nat := 0
def accStore : Nat := 1
def accAtomic : Nat := 2
def accEngineRead : Nat := 3
def accEngineWrite : Nat := 4

/-- A walk that asks where a page lies and needs no right. -/
def accNone : Nat := 5

/-! ### Host queues and page-table roots -/

def State.queue (s : State) (q : Nat) : HostQueue :=
  Table.get s.queues { reg := none, desc := none, doorbell := 0, head := 0, qerr := 0, trace := false } q

def State.onQueue (s : State) (q : Nat) (g : HostQueue → HostQueue) : State :=
  { s with queues := Table.set s.queues q (g (s.queue q)) }

/-- A field of a queue's descriptor (R263). -/
def State.queueField (s : State) (q off n : Nat) : Nat := fieldAt ((s.queue q).desc.getD []) off n

/-- The key of a physical address in host memory, or in local HBM when the flag is set. -/
def physKey (hbm : Bool) (a : Nat) : Nat := if hbm then hbmBase + a else hostBase + a

/-- The key of a queue's level-0 page table (R137, R263). -/
def State.ptRoot (s : State) (q : Nat) : Nat := physKey (bitAt (s.queueField q 0x0C 4) 1) (s.queueField q 0x10 8)

/-! ### Walks -/

/-- A little-endian number in memory, as the home controllers hold it. -/
def State.memNat (s : State) (k n : Nat) : Nat := leNat (cellsRead s.mem k n)

/-- How a walk ends: at a leaf with its level, or in a translation fault with the level and reason. -/
inductive Walk where
  | leaf (entry : Nat) (level : Nat)
  | fault (reason level : Nat)
  deriving DecidableEq, Repr

/-- Bits of the address that a level indexes: their low end and count (R137). -/
def levelLow : Nat → Nat
  | 0 => 48
  | 1 => 39
  | 2 => 30
  | 3 => 21
  | _ => 16

def levelBits : Nat → Nat
  | 0 => 8
  | 4 => 5
  | _ => 9

/-- A local HBM physical address that lies in its stack (R140). -/
def hbmValid (pa : Nat) : Bool := decide (pa < 2 ^ 39) && decide (pa % 2 ^ 36 < Config.stackBytes)

/-- A leaf that R138 and R139 allow at its level. -/
def leafValid (e level : Nat) : Bool :=
  let mt := bitsAt e 7 6
  let pa := bitsAt e 51 16 * 2 ^ 16
  mt != 3 && bitsAt e 15 8 == 0 && pa % 2 ^ levelLow level == 0 && (mt == 1 || bitsAt e 63 52 == 0) &&
    (mt != 0 || hbmValid pa)

/-- The key of the entry of a table that a level's bits of an address index. -/
def entryKey (addr level table : Nat) : Nat := table + 8 * (addr / 2 ^ levelLow level % 2 ^ levelBits level)

/-- A table entry lies outside its stack (R139, R140). (DEDUCED, log entry 19.) -/
def entryLost (k : Nat) : Bool := !isHostKey k && !hbmValid (k - hbmBase)

/-- The walk from a table on: fuel is the count of levels left (R137 to R139). A table is read where NEXT or the root names it,
whatever its alignment. (DESIGN CHOICE, log entry 126.) -/
def walkFrom (s : State) (addr : Nat) : Nat → Nat → Walk
  | 0, _ => .fault reasonBADENTRY 4
  | fuel + 1, table =>
    let level := 4 - fuel
    let e := s.memNat (entryKey addr level table) 8
    if entryLost (entryKey addr level table) then .fault reasonBADENTRY level
    else if !bitAt e 0 then .fault reasonNOTVALID level
    else if bitAt e 1 then
      if level < 2 || !leafValid e level then .fault reasonBADENTRY level else .leaf e level
    else if level == 4 then .fault reasonBADENTRY level
    else walkFrom s addr fuel ((if isHostKey table then hostBase else hbmBase) + bitsAt e 51 8 * 2 ^ 8)

/-- A cached translation of an address (R141). -/
def State.cached (s : State) (root addr : Nat) : Option Cached :=
  s.tlb.find? (fun t => t.root == root && decide (t.page ≤ addr) && decide (addr < t.page + t.size))

/-- What a leaf says of one address of its page: a local HBM address outside its stack ends the walk (R139, R140).
(DEDUCED, log entry 19.) -/
def leafAt (e level addr : Nat) : Walk :=
  if bitsAt e 7 6 == 0 && !hbmValid (bitsAt e 51 16 * 2 ^ 16 + addr % 2 ^ levelLow level) then
    .fault reasonBADENTRY level
  else .leaf e level

/-- The leaf that maps an address: the cached one where there is one, else the walk's (R139, R141). (DEDUCED, log
entry 19.) -/
def State.leafOf (s : State) (root addr : Nat) : Walk :=
  match s.cached root addr with
  | some t => leafAt t.leaf.toNat t.level addr
  | none =>
    match walkFrom s addr 5 root with
    | .leaf e level => leafAt e level addr
    | .fault reason level => .fault reason level

/-- A device that Span routing reaches (R268, R269). (DEDUCED, log entry 20.) -/
def State.reaches (s : State) (dev : Nat) : Bool := s.devnum.isSome && (Table.find s.routes dev).isSome

/-- What becomes of an access that has been addressed. -/
inductive Verdict where
  | trap (cause : Nat)
  | key (k : Nat)
  | fault (reason level : Nat)
  deriving DecidableEq, Repr

/-- Check 7 of R142: the walk, the rights of R139, and the place that the leaf names (R140, R144). (DEDUCED, log entry
20.) -/
def State.translate (s : State) (root addr acc : Nat) : Verdict :=
  match s.leafOf root addr with
  | .fault r l => .fault r l
  | .leaf e level =>
    let needR := acc == accLoad || acc == accAtomic || acc == accEngineRead
    let needW := acc == accStore || acc == accAtomic || acc == accEngineWrite
    let pa := bitsAt e 51 16 * 2 ^ 16 + addr % 2 ^ levelLow level
    let dev := bitsAt e 63 52
    if needR && !bitAt e 2 then .fault reasonNOREAD level
    else if needW && !bitAt e 3 then .fault reasonNOWRITE level
    else
      match bitsAt e 7 6 with
      | 0 => .key (hbmBase + pa)
      | 1 =>
        if s.devnum = some dev then .key (hbmBase + pa)
        else if !s.reaches dev then .fault reasonUNREACH level
        else .key (remoteKey dev false pa)
      | _ => .key (hostBase + pa)

/-- The translation of an address is cached from its use on (R141). (DEDUCED, log entry 21.) -/
def State.cacheLeaf (s : State) (root addr : Nat) : State :=
  match s.cached root addr with
  | some _ => s
  | none =>
    match walkFrom s addr 5 root with
    | .leaf e level =>
      let size := 2 ^ levelLow level
      { s with tlb := { root := root, page := addr / size * size, size := size, leaf := BitVec.ofNat 64 e,
                        level := level } :: s.tlb }
    | .fault _ _ => s

/-! ### The address map -/

/-- The first address of slab, and the first above it (R125). -/
def slabLow : Nat := 0x00F0000000000000
def slabHigh : Nat := 0x00F0100000000000

def isTranslated (addr : Nat) : Bool := decide (addr < slabLow)

/-- The key of a slab address, none where it names nothing (R125, R126). -/
def State.slabDecode (s : State) (addr : Nat) : Option Nat :=
  if addr < slabLow || addr ≥ slabHigh then none
  else
    let dev := bitsAt addr 43 32
    let core := bitsAt addr 30 23
    if bitAt addr 31 || core ≥ Config.cores then none
    else if dev == 0xFFF || some dev == s.devnum then some (slabKey core (bitsAt addr 22 0))
    else some (remoteKey dev true addr)

/-- The key of a slab address of the issuing device. -/
def State.localSlab (s : State) (addr : Nat) : Option Nat := (s.slabDecode addr).filter isSlabKey

/-- The offset in its slice of a slab byte, local or remote. -/
def anySlabOff (k : Nat) : Nat := if isRemoteKey k then remoteAddr k % 2 ^ 23 else slabOff k

/-- A range that stays in one slice and below its system area (R127). -/
def slabRangeFree (k n : Nat) : Bool := decide (anySlabOff k + n ≤ Config.systemArea)

/-! ### Slab rights -/

/-- The key of a workgroup's scratch allocation (R46). -/
def Workgroup.scrKey (w : Workgroup) : Nat := slabKey w.core w.scrOff

/-- The bytes of a range lie in the workgroup's own window, where that lies in slab (R93, R132). -/
def State.inOwnWindow (s : State) (l : Launch) (w : Workgroup) (k n : Nat) : Bool :=
  match s.slabDecode (l.win w.lin).toNat with
  | some b => inside k n b l.winstride
  | none => false

/-- Grants that include an access (R132): a load needs RD, a store WR, an atomic AT. -/
def Grant.allows (g : Grant) (acc : Nat) : Bool :=
  if acc == accLoad || acc == accEngineRead then g.rd
  else if acc == accAtomic then g.at_
  else g.wr

def Launch.granted (l : Launch) (k n acc : Nat) : Bool :=
  l.grants.any (fun g => inside k n g.base g.len && g.allows acc)

/-- The 128-byte slot objects that started launches hold (R74), by key. -/
def State.heldObjects (s : State) : List Nat :=
  (s.launches.filter (fun l => l.phase == .started && !l.finalised)).flatMap
    (fun l => (List.range 8).filterMap (fun k => if l.assay k = 0 then none else s.localSlab (l.assay k)))

/-- A write that would touch a held object (R74). -/
def State.touchesHeld (s : State) (k n : Nat) : Bool := s.heldObjects.any (fun o => overlaps k n o 128)

/-- The owned buffer that a range touches: its handle entry (R133). -/
def State.ownedAt (s : State) (k n : Nat) : Option Handle :=
  if isSlabKey k then
    ((s.core (slabCore k)).handles.map Prod.snd).find?
      (fun h => h.state != 0 && overlaps k n (slabKey (slabCore k) h.base) h.len)
  else none

/-- A range touches an owned buffer that the workgroup does not hold (R134); none names no workgroup. -/
def State.handleBars (s : State) (wg : Option Nat) (k n : Nat) : Bool :=
  if isSlabKey k then
    ((s.core (slabCore k)).handles.map Prod.snd).any
      (fun h => h.state != 0 && overlaps k n (slabKey (slabCore k) h.base) h.len &&
        !(h.state == 1 && some h.holder == wg))
  else false

/-- Checks 5 and 6 of R142 on a slab range: the trap cause of the first that fails. -/
def State.slabCheck (s : State) (l : Launch) (w : Option Workgroup) (k n acc : Nat) : Option Nat :=
  let own := match w with
    | some w => inside k n w.scrKey w.scrSize || s.inOwnWindow l w k n
    | none => false
  let write := acc == accStore || acc == accAtomic || acc == accEngineWrite
  if !slabRangeFree k n then some causeSLAB
  else if !(own || l.granted k n acc) then some causeSLAB
  else if write && s.touchesHeld k n then some causeSLAB
  else if s.handleBars (w.map Workgroup.num) k n then some causeHANDLE
  else none

/-! ### The checks of R142 -/

/-- One number for an address, whichever of the two device numbers of R126 it carries: the form with 0xFFF. -/
def State.canon (s : State) (addr : Nat) : Nat := (s.localSlab addr).getD addr

/-- The launch's window area and the workgroup's own window, as address ranges (R91, R93). -/
def State.touchesWindows (s : State) (l : Launch) (addr n : Nat) : Bool :=
  overlaps (s.canon addr) n (s.canon l.winbase) (l.total * l.winstride)
def State.inWindow (s : State) (l : Launch) (lin addr n : Nat) : Bool :=
  inside (s.canon addr) n (s.canon l.winbase + lin * l.winstride) l.winstride

/-- Check 4 of R142: the sampled-order rules on a lane access (R91). -/
def State.sampledBars (s : State) (l : Launch) (lin sp addr n acc : Nat) : Bool :=
  l.sampled &&
    (if acc == accLoad then s.touchesWindows l addr n && !s.inWindow l lin addr n
     else if acc == accAtomic then true
     else sp == 0)

/-- The launch as the checks see it that R91 takes no part in. -/
def Launch.unordered (l : Launch) : Launch := { l with rcd := l.rcd.set 0x015 0 }

/-- The key of a thread's stack range (R46). -/
def State.stackKey (l : Launch) (w : Workgroup) (tix : Nat) : Nat := w.scrKey + l.scratch + tix * l.stack

/-- The stack check of R241, for an access whose a field is 62 or 63 and whose space is global or scratch. -/
def State.stackBars (s : State) (l : Launch) (w : Workgroup) (tix addr n : Nat) : Bool :=
  match s.slabDecode addr with
  | some k => overlaps k n w.scrKey w.scrSize && !inside k n (State.stackKey l w tix) l.stack
  | none => false

/-- Checks 2 to 7 of R142 on an address, the stack check of R241 among them. -/
def State.checkAddr (s : State) (l : Launch) (w : Workgroup) (tix sp addr n acc : Nat) (stack : Bool) : Verdict :=
  if !isTranslated addr && (s.slabDecode addr).isNone then .trap causeSLAB
  else if addr % n ≠ 0 then .trap causeMISALIGNED
  else if s.sampledBars l w.lin sp addr n acc then .trap causeWINDOW
  else if stack && s.stackBars l w tix addr n then .trap causeSTACKOVF
  else
    match s.slabDecode addr with
    | some k =>
      match s.slabCheck l (some w) k n acc with
      | some c => .trap c
      | none =>
        if isRemoteKey k && !s.reaches (bitsAt addr 43 32) then .fault reasonUNREACH 0 else .key k
    | none => s.translate (s.ptRoot l.queue) addr acc

/-- Where a lane access lies and what becomes of it: check 1 (R128, R129) and then the others. -/
def State.checkLane (s : State) (l : Launch) (w : Workgroup) (tix : Nat) (accBase' x : Word) (sp n acc : Nat)
    (stack : Bool) : Word × Verdict :=
  match sp with
  | 0 => (x, s.checkAddr l w tix 0 x.toNat n acc stack)
  | 1 =>
    let a := s.scr w + x
    (a, if x.toNat + n ≤ w.scrSize then s.checkAddr l w tix 1 a.toNat n acc stack else .trap causeSLAB)
  | 2 =>
    let a := l.win w.lin + x
    (a, if x.toNat + n ≤ l.winstride then s.checkAddr l w tix 2 a.toNat n acc false else .trap causeWINDOW)
  | _ =>
    let a := accBase' + x
    (a, if acc ≠ accLoad || accBase'.toNat + x.toNat + n > Config.accBytes then .trap causeSLAB
        else if a.toNat % n ≠ 0 then .trap causeMISALIGNED
        else .key (accKey w.core a.toNat))

/-- The checks of R142 on a read of n bytes that an instruction makes for its whole team, or the dispatcher for a
launch: SP global, aligned to a number of its own. -/
def State.checkRead (s : State) (l : Launch) (w : Option Workgroup) (addr n align : Nat) : Verdict :=
  if !isTranslated addr && (s.slabDecode addr).isNone then .trap causeSLAB
  else if addr % align ≠ 0 then .trap causeMISALIGNED
  else if l.sampled && (match w with
      | some w => s.touchesWindows l addr n && !s.inWindow l w.lin addr n
      | none => false) then .trap causeWINDOW
  else
    match s.slabDecode addr with
    | some k =>
      match s.slabCheck l w k n accLoad with
      | some c => .trap c
      | none =>
        if isRemoteKey k && !s.reaches (bitsAt addr 43 32) then .fault reasonUNREACH 0 else .key k
    | none => s.translate (s.ptRoot l.queue) addr accLoad

/-! ### Ranges that may reach a second page -/

/-- The memory that an address range names: its keys in pieces, or a translation fault. -/
inductive Pieces where
  | at_ (l : List (Nat × Nat))
  | fault (addr reason level : Nat)
  deriving DecidableEq, Repr

/-- The ranges that pieces give; a fault gives none. -/
def Pieces.ranges : Pieces → List (Nat × Nat)
  | .at_ l => l
  | .fault _ _ _ => []

/-- One piece of a range, inside one page. A local HBM page may reach past the end of its stack (R139, R140): the fault
is then at the first byte outside it. -/
def State.enginePiece (s : State) (root addr n acc : Nat) : Pieces :=
  if isTranslated addr then
    match s.translate root addr acc with
    | .key k =>
      (match s.translate root (addr + (n - 1)) acc with
       | .fault reason level => .fault (addr + (Config.stackBytes - (k - hbmBase) % 2 ^ 36)) reason level
       | _ => .at_ [(k, n)])
    | .fault reason level => .fault addr reason level
    | .trap _ => .fault addr reasonNOTVALID 0
  else
    match s.slabDecode addr with
    | some k => if isRemoteKey k && !s.reaches (bitsAt addr 43 32) then .fault addr reasonUNREACH 0 else .at_ [(k, n)]
    | none => .fault addr reasonNOTVALID 0

/-- The pieces of a range of at most one page. -/
def State.enginePieces (s : State) (root addr n acc : Nat) : Pieces :=
  let m := min n (65536 - addr % 65536)
  match s.enginePiece root addr m acc with
  | .fault a r l => .fault a r l
  | .at_ l =>
    if m = n then .at_ l
    else
      match s.enginePiece root ((addr + m) % 2 ^ 64) (n - m) acc with
      | .fault a r l => .fault a r l
      | .at_ l' => .at_ (l ++ l')

/-- The bytes of pieces, as the home controllers hold them. -/
def State.readPieces (s : State) (l : List (Nat × Nat)) : List Byte := l.flatMap (fun p => cellsRead s.mem p.1 p.2)

/-- The first poisoned unit that pieces touch, by the offset of the unit's start from the range's. -/
def State.piecesPoison (s : State) : Nat → List (Nat × Nat) → Option Int
  | _, [] => none
  | off, p :: ps =>
    match firstPoison s.poison p.1 p.2 with
    | some u => some ((off : Int) + (u : Int) - (p.1 : Int))
    | none => s.piecesPoison (off + p.2) ps

end Sys2Proof.Machine
end

