-- ==== Sys2Proof/Machine/Objects.lean ====
section
/-!
DEFINITION. Sys2Proof/Machine/Objects.lean: the assay object (R70), and the dispatcher's test of the PRODUCER of a
waiting launch after each write of that object (R95).
-/
namespace Sys2Proof.Machine

/-! ### The assay object (R70) -/

/-- The fields of an object that the assay unit reads and writes. -/
structure Assay where
  n : Nat
  mean : Nat
  m2 : Nat
  halfwidth : Nat
  target : Nat
  confidence : Nat
  status : Nat
  reserved : Nat
  nmin : Nat
  population : Nat
  generation : Nat
  gmin : Nat
  gmax : Nat
  producer : Nat
  dispatched : Nat
  deriving DecidableEq, Repr

/-- An object's fields. -/
def Assay.read (r : List Byte) : Assay :=
  { n := fieldAt r 0x00 8, mean := fieldAt r 0x08 8, m2 := fieldAt r 0x10 8, halfwidth := fieldAt r 0x18 8,
    target := fieldAt r 0x20 8, confidence := fieldAt r 0x28 1, status := fieldAt r 0x29 1, reserved := fieldAt r 0x2A 2,
    nmin := fieldAt r 0x2C 4, population := fieldAt r 0x30 8, generation := fieldAt r 0x38 8, gmin := fieldAt r 0x40 8,
    gmax := fieldAt r 0x48 8, producer := fieldAt r 0x50 8, dispatched := fieldAt r 0x58 8 }

/-- Bytes 0x00 to 0x5F of an object. -/
def Assay.bytes (a : Assay) : List Byte :=
  leBytes 8 a.n ++ leBytes 8 a.mean ++ leBytes 8 a.m2 ++ leBytes 8 a.halfwidth ++ leBytes 8 a.target ++
    leBytes 1 a.confidence ++ leBytes 1 a.status ++ leBytes 2 a.reserved ++ leBytes 4 a.nmin ++ leBytes 8 a.population ++
    leBytes 8 a.generation ++ leBytes 8 a.gmin ++ leBytes 8 a.gmax ++ leBytes 8 a.producer ++ leBytes 8 a.dispatched

/-- The object at a key. -/
def State.assayAt (s : State) (key : Nat) : Assay := Assay.read (cellsRead s.mem key 128)

/-! ### Order of binary64 codes -/

/-- A binary64 code is a NaN. -/
def isNaN64 (x : Nat) : Bool := (binary64.decode x).isNaN

/-- a ≤ b, false when either is a NaN (R83, R95). -/
def le64 (a b : Nat) : Bool :=
  !isNaN64 a && !isNaN64 b && (binary64.decode a).le (binary64.decode b)

/-! ### The start condition (R95) -/

/-- The start condition on a launch's PRODUCER (R95). An object in an owned buffer the dispatcher cannot read (R134).
(DEDUCED, log entry 125.) -/
def State.producerReady (s : State) (l : Launch) : Bool :=
  if l.producer = 0 then true
  else
    match s.localSlab l.producer with
    | none => false
    | some k =>
      let a := s.assayAt k
      !s.handleBars none k 128 &&
        (a.status != 0 || (l.consume != 0 && (decide (a.n ≥ l.nstart) || le64 a.halfwidth l.startwidth)))

/-- A launch after a test of its PRODUCER that counts from a dispatcher cycle on: of the tests before it only the last
that counts now is kept, until then. -/
def Launch.tested (l : Launch) (now from_ : Nat) (met : Bool) : Launch :=
  { l with tests := (if from_ ≤ now then [] else (l.tests.filter (fun e => decide (e.1 ≤ now))).getLast?.toList) ++ [(from_, met)] }

/-- The last test of a launch's PRODUCER that counts in a dispatcher cycle has found the start condition met (R95).
(DEDUCED, log entry 118.) -/
def Launch.due (l : Launch) (now : Nat) : Bool :=
  ((l.tests.filter (fun e => decide (e.1 ≤ now))).getLast?.map Prod.snd).getD false

/-- A launch that waits for its PRODUCER, which a range of bytes touches, is tested: the start condition holds or does not
as the object stands now, from a dispatcher cycle on (R95, R24). (DEDUCED, log entry 118.) -/
def State.testStart (s : State) (from_ key n : Nat) (l : Launch) : Launch :=
  match (if l.phase == .waiting && l.producer != 0 then s.localSlab l.producer else none) with
  | some k => if overlaps key n k 128 then l.tested s.dcycle from_ (s.producerReady l) else l
  | none => l

/-- The dispatcher tests the launches that wait for an object after a write of n bytes from a key on (R95). A write by
another clock's agent is seen at the next edge of its own (R24). -/
def State.testStarts (s : State) (key n : Nat) : State :=
  { s with launches := s.launches.map (s.testStart (s.dcycle + 1) key n) }

/-- The same after a write by the assay unit, which runs from the dispatcher's clock (R24). -/
def State.testNow (s : State) (key n : Nat) : State := { s with launches := s.launches.map (s.testStart s.dcycle key n) }

/-- What an event of the dispatcher's clock leaves for the cores: those with workgroups do not see it before the next edge
of their own clock (R24). (DEDUCED, log entry 96.) -/
def State.crossing (s : State) (g : Core → Core) : State :=
  (((s.wgs.filter (fun w => w.place == .resident)).map Workgroup.core).eraseDups).foldl (fun s k => s.onCore k g) s

end Sys2Proof.Machine
end

