-- ==== Sys2Proof/Machine/Home.lean ====
section
/-!
DEFINITION. Sys2Proof/Machine/Home.lean: what happens at home controllers (R18, R218): writes, reduce-on-store
(R120, R171), atomics (R361, R352), keystone counting and firing (R186 to R192), and what a reader sees (R218 to
R223, R230).
-/
namespace Sys2Proof.Machine

/-! ### Tags, barriers and queues that firings reach -/

/-- Sets a tag of a workgroup (R175, R190); tags at or above TAGS do not exist. -/
def State.setTag (s : State) (wg t : Nat) : State :=
  s.onWg wg (fun w => { w with tags := w.tags ||| BitVec.ofNat 64 (2 ^ t) })

def Workgroup.bar (w : Workgroup) (n : Nat) : Barrier :=
  Table.get w.bars { arrived := [], firings := 0, phase := 0 } n

def Workgroup.onBar (w : Workgroup) (n : Nat) (g : Barrier → Barrier) : Workgroup :=
  { w with bars := Table.set w.bars n (g (w.bar n)) }

/-- The records of a foreman queue, the head first; a running record has left its list. -/
def State.queueRecs (s : State) (core q : Nat) : List QRec := Table.get (s.core core).queues [] q

/-- The queue that a record names. -/
def QRec.queue (r : QRec) : Nat := fieldAt r.rcd 0x2A 1

/-- The records that a queue holds, a started one and those on their way included (R159). -/
def State.queueCount (s : State) (core q : Nat) : Nat :=
  (s.queueRecs core q).length + ((s.core core).coming.filter (fun r => r.queue == q)).length +
    (if (Table.find (s.core core).running q).isSome then 1 else 0)

/-- The numbers of the records that stand in the queues of a mask (R164), queue q itself apart. -/
def State.recsIn (s : State) (core mask q : Nat) : List Nat :=
  (List.range 7).flatMap (fun i =>
    if bitAt mask i && i != q then
      (s.queueRecs core i).map QRec.num ++
        (match Table.find (s.core core).running i with
          | some r => [r.rcd.num]
          | none => [])
    else [])

/-- A record is a WLOAD of the Loom. -/
def QRec.isWload (r : QRec) : Bool := fieldAt r.rcd 0x28 1 == 1 && fieldAt r.desc 0 1 == 0

/-- A record enters a queue behind every record already there (R158, R159); a QFENCE notes what it waits for
(R164), and a WLOAD is the tile that later checks at issue see (R180). -/
def State.enqueue (s : State) (core q : Nat) (r : QRec) : State :=
  let fence := if fieldAt r.rcd 0x28 1 == 5 then s.recsIn core (fieldAt r.rcd 0x30 1) q else []
  let r := { r with num := s.nextNum, fence := fence }
  let s := s.onCore core (fun c =>
    { c with queues := Table.set c.queues q (Table.get c.queues [] q ++ [r]),
             lastTile := if r.isWload then some r.desc else c.lastTile })
  { s with nextNum := s.nextNum + 1, enqueued := s.enqueued + 1 }

/-! ### Pending writes -/

/-- A write enters a store path. -/
def State.pushWrite (s : State) (core : Nat) (src : Option CtxId) (key : Nat) (op : HomeOp) (after : List Nat)
    (vis : List ScopeSet) : State :=
  { s with
    stores := s.stores ++ [{ num := s.nextNum, core := core, src := src, addr := 0, ins := (0, 0), key := key, op := op,
                             after := after, vis := vis, parked := none, sent := false, regions := none }],
    nextNum := s.nextNum + 1 }

/-- A write of a core's engines or foreman that is a release event enters a store path (R237). -/
def State.pushEvent (s : State) (core key : Nat) (op : HomeOp) (after : List Nat) : State :=
  { s with
    stores := s.stores ++ [{ num := s.nextNum, core := core, src := none, addr := 0, ins := (0, 0), event := true, key := key,
                             op := op, after := after, vis := [], parked := none, sent := false, regions := none }],
    nextNum := s.nextNum + 1 }

/-- A pending write has its place in memory: every one but a store whose translation faulted at its issue and has not
been replayed (R147); one that was lost on its way to another device keeps its place (R221, R269). -/
def PendingWrite.placed (p : PendingWrite) : Bool := p.parked.isNone || isRemoteKey p.key

/-- A number names a pending write. -/
def State.pends (s : State) (n : Nat) : Bool := s.stores.any (fun p => p.num == n)

/-- The bytes that a write covers. -/
def HomeOp.size : HomeOp → Nat
  | .put bytes _ => bytes.length
  | .add width _ => width
  | .reduce _ _ bytes => bytes.length
  | .split _ _ _ first => first

/-- The ranges that a write at a key covers. -/
def HomeOp.runs (key : Nat) : HomeOp → List (Nat × Nat)
  | .split _ bytes other first => [(key, first), (other, bytes.length - first)]
  | op => [(key, op.size)]

/-! ### Pending writes as a core's engines see them -/

/-- A pending write that a core's engines see as they run a record: one released to the core or its tier pair, or to
the workgroup that issued the record (R229, R230). -/
def engineSees (core : Nat) (owner : Option Nat) (p : PendingWrite) : Bool :=
  p.parked.isNone && p.vis.any (fun v => match v with
    | .team _ _ => false
    | .wg w => owner == some w
    | .core c => c == core
    | .pair k => k == core % 96)

/-- The pending writes to a range that a core's engines see: what they write there comes after them (R223, R230). -/
def State.engineAfter (s : State) (core : Nat) (owner : Option Nat) (key n : Nat) : List Nat :=
  (s.stores.filter (fun p => engineSees core owner p && overlaps p.key p.op.size key n)).map PendingWrite.num

/-- An engine reads and writes at home: it waits for the pending writes to ranges that it sees (R223, R230). -/
def State.engineBars (s : State) (core : Nat) (owner : Option Nat) (l : List (Nat × Nat)) : Bool :=
  l.any (fun r => !(s.engineAfter core owner r.1 r.2).isEmpty)

/-- The byte of the latest pending write that a core's engines see. -/
def engineByte (core : Nat) (owner : Option Nat) (key : Nat) : List PendingWrite → Option Byte → Option Byte
  | [], acc => acc
  | p :: ps, acc =>
    match p.op with
    | .put bytes _ =>
      if engineSees core owner p && decide (p.key ≤ key) && decide (key < p.key + bytes.length) then
        engineByte core owner key ps (some (bytes.getD (key - p.key) 0))
      else engineByte core owner key ps acc
    | _ => engineByte core owner key ps acc

/-- A number in memory as a core's engines see it (R230). -/
def State.engineNat (s : State) (core : Nat) (owner : Option Nat) (key n : Nat) : Nat :=
  leNat ((List.range n).map (fun i =>
    (engineByte core owner (key + i) s.stores none).getD (cellRead s.mem (key + i))))

/-- An engine completion record (R177). -/
def engineRecord (status fcode tag bytes faddr desc : Nat) : List Byte :=
  leBytes 2 status ++ leBytes 1 fcode ++ leBytes 1 tag ++ leBytes 4 0 ++ leBytes 8 bytes ++ leBytes 8 faddr ++
    leBytes 8 desc

/-- The engine's place in a ring: HEAD as it sees it, with the updates on their way (R176, R230). -/
def State.ringHead (s : State) (core : Nat) (owner : Option Nat) (ring : Nat) : Nat :=
  (s.engineNat core owner ring 8 + (s.stores.filter (fun p => p.key == ring && p.op == .add 8 1)).length) % 2 ^ 64

/-- The updates of a ring's HEAD that are on their way. -/
def State.headAdds (s : State) (ring : Nat) : List Nat :=
  (s.stores.filter (fun p => p.key == ring && p.op == .add 8 1)).map PendingWrite.num

/-- An engine writes its record into a ring and then adds 1 to HEAD, both after the writes that they release; HEAD
counts the records in the order of their slots, so that each is written before HEAD counts it (R176, R449). Both follow
the writes to their bytes that the engine sees for the record's owner (R223, R230). -/
def State.writeRing (s : State) (core : Nat) (owner : Option Nat) (ring ringN : Nat) (rcd : List Byte) (after : List Nat) :
    State :=
  let slot := ring + 32 + 32 * (s.ringHead core owner ring % ringN)
  let s1 := s.pushEvent core slot (.put rcd false) (after ++ s.engineAfter core owner slot 32)
  s1.pushEvent core ring (.add 8 1) (s.nextNum :: (s.headAdds ring ++ after ++ s.engineAfter core owner ring 8))

/-! ### Keystones -/

/-- The key of the ring that a keystone's record writes, and the kinds of actions (R186). -/
def ksSETTAG : Nat := 0
def ksBARRIER : Nat := 1
def ksENQUEUE : Nat := 2
def ksRECORD : Nat := 3

/-- The handle of a counter (R187). -/
def ksHandle (ctrl num : Nat) : Nat := ctrl * 2 ^ 16 + num

/-- The owner of a record that a firing copies: the arming workgroup while it is resident (R159, R192). -/
def State.ksOwner (s : State) (k : Keystone) : Option Nat :=
  k.owner.filter (fun n => match s.wg? n with
    | some w => w.place != .retired
    | none => false)

/-- A firing is held: its workgroup is saved, or firings that were held before it have not acted (R247). -/
def State.ksHolds (s : State) (k : Keystone) : Bool :=
  match k.owner.bind s.wg? with
  | some w => (match w.place with
    | .saved _ => true
    | _ => !w.heldFirings.isEmpty)
  | none => false

/-- The action of a firing (R190). Nothing orders two ENQUEUE actions: the record of a late one is still on its way
(R342). -/
def State.ksAct (s : State) (ctrl num : Nat) (k : Keystone) : State :=
  match k.kind with
  | 0 => match k.owner with
    | some n => s.setTag n k.target
    | none => s
  | 1 => match k.owner with
    | some n => s.onWg n (fun w => w.onBar k.target (fun b => { b with firings := b.firings + 1 }))
    | none => s
  | 2 =>
    match k.rcd with
    | some r =>
      let r := { r with owner := s.ksOwner k, fired := true }
      if k.late then
        (s.onCore k.core (fun c => { c with coming := c.coming ++ [r] })).onKeystone ctrl num (fun k => { k with late := false })
      else s.enqueue k.core r.queue r
    | none => s
  | _ =>
    s.writeRing k.core k.owner k.target k.ringN
      (engineRecord 4 (if k.overshot then 3 else 0) 0xFF k.count 0 k.descAddr.toNat) []

/-- One firing takes its action, or is held (R190, R247). -/
def State.ksAction (s : State) (ctrl num : Nat) (k : Keystone) : State :=
  if s.ksHolds k then
    s.onWg (k.owner.getD 0) (fun w => { w with heldFirings := w.heldFirings ++ [(ksHandle ctrl num, k)] })
  else s.ksAct ctrl num k

/-- Whether an ENQUEUE action finds its queue full (R190). -/
def State.ksBlocked (s : State) (k : Keystone) : Bool :=
  k.kind == ksENQUEUE && (match k.rcd with
    | some r => decide (s.queueCount k.core r.queue ≥ Config.queueRecords)
    | none => false)

/-- Fires a counter while its count is at or above TOTAL, at most fuel times (R189, R190). (DEDUCED, log entry 42.) -/
def State.ksFire (s : State) (ctrl num : Nat) : Nat → State
  | 0 => s
  | fuel + 1 =>
    let k := s.keystone ctrl num
    if !k.armed || k.pending || k.fired || k.count < k.total then s
    else if s.ksBlocked k then
      s.onKeystone ctrl num (fun k =>
        { k with pending := true, fired := !k.rearm, count := if k.rearm then k.count - k.total else k.count })
    else
      let s := s.ksAction ctrl num k
      if k.rearm then
        (s.onKeystone ctrl num (fun k => { k with count := k.count - k.total })).ksFire ctrl num fuel
      else s.onKeystone ctrl num (fun k => { k with armed := false })

/-- n bytes of a counter's range become visible (R188, R189). -/
def State.ksCount (s : State) (ctrl num n : Nat) : State :=
  let k := s.keystone ctrl num
  let before := k.count
  let count := k.count + n
  let fires := !k.pending && !k.fired && decide (before < k.total) && decide (count ≥ k.total)
  let s := s.onKeystone ctrl num (fun k =>
    { k with count := count, overshot := k.overshot || (fires && decide (count > k.total)) })
  if fires then s.ksFire ctrl num (count / k.total + 1) else s

/-- The counters that are armed over bytes of a range, with the bytes that fall into each. -/
def State.ksOver (s : State) (key n : Nat) : List (Nat × Nat × Nat) :=
  s.keystones.filterMap (fun e =>
    let k := e.2
    if k.armed && overlaps key n k.base k.len then
      some (e.1 / 512, e.1 % 512, min (key + n) (k.base + k.len) - max key k.base)
    else none)

/-- n bytes from a key on become visible at their home: every armed counter over them counts them (R188). -/
def State.count (s : State) (key n : Nat) : State :=
  (s.ksOver key n).foldl (fun s e => s.ksCount e.1 e.2.1 e.2.2) s

/-! ### Writes performed at home -/

/-- The format in which a reduction of an element size acts (R120, R171). -/
def redFmt (size : Nat) : Fmt := if size == 2 then bf16 else fp32

/-- A reduction of two elements: 1 ADD.F32, 2 ADD.BF16, 3 MAX, 4 MIN (R120, R171). -/
def redElem (code size old new : Nat) : Nat :=
  match code with
  | 1 => (fp32.add FEnv.plain old new).bits
  | 2 => (bf16.add FEnv.plain old new).bits
  | 3 => ((redFmt size).minMax FEnv.plain true old new).bits
  | 4 => ((redFmt size).minMax FEnv.plain false old new).bits
  | _ => new

/-- The bytes of a list combined element by element with what memory holds. -/
def redBytes (m : List Host.Cell) (code size : Nat) : Nat → Nat → List Byte → List Byte
  | 0, _, _ => []
  | n + 1, key, bytes =>
    leBytes size (redElem code size (leNat (cellsRead m key size)) (leNat (bytes.take size))) ++
      redBytes m code size n (key + size) (bytes.drop size)

/-- The combined bytes of an element that lies in two places: first bytes at a key, the rest at another (R171). -/
def splitBytes (m : List Host.Cell) (code key other first : Nat) (bytes : List Byte) : List Byte :=
  let n := bytes.length
  leBytes n (redElem code n (leNat (cellsRead m key first ++ cellsRead m other (n - first))) (leNat bytes))

/-- The bytes that a write leaves in memory from its key on. -/
def homeBytes (m : List Host.Cell) (key : Nat) : HomeOp → List Byte
  | .put bytes _ => bytes
  | .add width delta => leBytes width (leNat (cellsRead m key width) + delta)
  | .reduce code size bytes => redBytes m code size (bytes.length / size) key bytes
  | .split code bytes other first => (splitBytes m code key other first bytes).take first

/-- The second place of a write in two places, and the bytes that it leaves there. -/
def homeRest (m : List Host.Cell) (key : Nat) : HomeOp → Option (Nat × List Byte)
  | .split code bytes other first => some (other, (splitBytes m code key other first bytes).drop first)
  | _ => none

def HomeOp.poisoned : HomeOp → Bool
  | .put _ p => p
  | _ => false

/-! ### Who wrote a byte (R230, R237) -/

/-- The marks of bytes when n bytes from a key on are written: theirs go, and new ones take their place. -/
def remark (l : List Mark) (key n : Nat) (new : List Mark) : List Mark :=
  l.filter (fun m => !(decide (key ≤ m.key) && decide (m.key < key + n))) ++ new

/-- n bytes from a key on, each marked with an author and a number. -/
def marksOf (key n : Nat) (author : Option CtxId) (num : Nat) : List Mark :=
  (List.range n).map (fun i => { key := key + i, author := author, num := num })

/-- n bytes from a key on carry no mark any more. -/
def State.unmark (s : State) (key n : Nat) : State :=
  if s.marks.isEmpty then s else { s with marks := remark s.marks key n [] }

/-- n bytes from a key on were written by a release event (R237). -/
def State.markEvent (s : State) (key n : Nat) : State :=
  { s with marks := remark s.marks key n (marksOf key n none 0) }

/-- A release event was the last to write some of n bytes from a key on (R237). -/
def State.eventAt (s : State) (key n : Nat) : Bool :=
  s.marks.any (fun m => decide (key ≤ m.key) && decide (m.key < key + n) && m.author.isNone)

/-- A line within which n bytes from a key on were written: their marks are those of memory now. -/
def remarkLine (marks : List Mark) (key n : Nat) (line : L1Line) : L1Line :=
  { line with marks := remark line.marks key n (marks.filter (fun m =>
      decide (key ≤ m.key) && decide (m.key < key + n) && decide (line.key ≤ m.key) && decide (m.key < line.key + 64))) }

/-- A list of bytes written over part of a line. -/
def patchLine (line : L1Line) (key : Nat) (bytes : List Byte) : L1Line :=
  { line with bytes := (List.range 64).map (fun i =>
      let k := line.key + i
      if decide (key ≤ k) && decide (k < key + bytes.length) then bytes.getD (k - key) 0 else line.bytes.getD i 0) }

/-- A core's L1 copies of written bytes follow the write (R434). -/
def State.patchL1 (s : State) (core key : Nat) (bytes : List Byte) : State :=
  if (Table.find s.cores core).isSome then
    s.onCore core (fun c =>
      { c with l1 := c.l1.map (fun l =>
          if overlaps key bytes.length l.key 64 then remarkLine s.marks key bytes.length (patchLine l key bytes) else l) })
  else s

/-! ### What a reader sees -/

/-- Who reads: a thread, or a team as a whole when tix is none (R431). Of its own writes it sees those that came
before a number, the number of the read (R221). -/
structure Viewer where
  wg : Nat
  tix : Option Nat
  team : Nat
  core : Nat
  upto : Nat
  deriving DecidableEq, Repr

/-- A write's source is a thread: the thread itself, or its whole team (R431). -/
def covers (src : CtxId) (wg tix : Nat) : Bool :=
  src.wg == wg && (if src.lvl = 0 then src.tix == tix else src.tix / 32 == tix / 32)

/-- A scope that holds a reader (R229). -/
def ScopeSet.holds (v : ScopeSet) (r : Viewer) : Bool :=
  match v with
  | .team w t => w == r.wg && t == r.team
  | .wg w => w == r.wg
  | .core c => c == r.core
  | .pair k => k == r.core % 96

/-- A pending write that a reader sees: its own (R221), or one released to a scope that holds it (R230). -/
def Viewer.sees (r : Viewer) (p : PendingWrite) : Bool :=
  p.placed && ((match p.src with
    | some id => decide (p.num < r.upto) && id.wg == r.wg && (match r.tix with
      | some t => covers id r.wg t
      | none => id.tix / 32 == r.team)
    | none => false) || p.vis.any (fun v => v.holds r))

/-- A context as a reader of what came before a number. -/
def State.viewer (s : State) (c : Ctx) (upto : Nat) : Viewer :=
  { wg := c.id.wg, tix := some c.id.tix, team := c.team, core := s.coreOf c, upto := upto }

/-- Outstanding instructions of a context that came before a number and touch a range (R220, R221); one that was lost on
its way to another device keeps its place (R269). -/
def Ctx.olderOver (c : Ctx) (num key n : Nat) : Bool :=
  c.inflight.any (fun f => decide (f.num < num) && (match f.what with
    | .access a _ => overlaps a.key a.size key n
    | .parked a _ => isRemoteKey a.key && overlaps a.key a.size key n
    | _ => false))

/-- A read at home of a range by an outstanding instruction of a context waits for the thread's earlier accesses to
it and for the pending writes that the thread sees there (R220, R221). -/
def State.homeReadWaits (s : State) (c : Ctx) (num key n : Nat) : Bool :=
  c.olderOver num key n || s.stores.any (fun p => (s.viewer c num).sees p && overlaps p.key p.op.size key n)

/-- A workgroup is on a core. -/
def State.resident (s : State) (wg : Nat) : Bool := ((s.wg? wg).map (fun w => w.place == .resident)).getD false

/-- The name under which a team's ASWAITs are kept. -/
def teamName (wg team : Nat) : CtxId := { wg := wg, tix := 32 * team, lvl := 1 }

/-- A team's read of n bytes by an instruction waits for the team's earlier writes there (R221). -/
def State.teamReadWaits (s : State) (wg team core num key n : Nat) : Bool :=
  let r : Viewer := { wg := wg, tix := none, team := team, core := core, upto := num }
  s.stores.any (fun p => r.sees p && overlaps p.key p.op.size key n)

/-- The generation that an ASWAIT on an object finds, where the object has moved on (R360). -/
def State.movedOn (s : State) (obj : Nat) (threshold : Word) : Option Word :=
  let gen := s.memNat (obj + 0x38) 8
  if decide (gen > threshold.toNat) || s.memNat (obj + 0x29) 1 != 0 then some (BitVec.ofNat 64 gen) else none

/-- The ACQs and ASWAITs of a context that read an object in a range now and find a fitting value (R227, R360). -/
def State.fitsOf (s : State) (key n : Nat) (c : Ctx) : List (CtxId × Nat × Word) :=
  if c.inflight.isEmpty then []
  else
    c.inflight.filterMap (fun f =>
      match f.what with
      | .access a _ =>
        (match a.op with
          | .acq threshold =>
            let x := s.memNat a.key 8
            if overlaps key n a.key 8 && s.resident c.id.wg && !s.homeReadWaits c f.num a.key 8 &&
                (firstPoison s.poison a.key 8).isNone && decide (x ≥ threshold.toNat) then
              some (c.id, f.num, BitVec.ofNat 64 x)
            else none
          | _ => none)
      | .aswait obj threshold =>
        if overlaps key n obj 64 && !s.teamReadWaits c.id.wg c.team (s.coreOf c) f.num obj 64 &&
            (firstPoison s.poison obj 64).isNone then
          (s.movedOn obj threshold).map (fun x => (teamName c.id.wg c.team, f.num, x))
        else none
      | _ => none)

/-- Waiting ACQs and ASWAITs read again after a write of n bytes from a key on has reached its home (R227, R360): the first
fitting value that each finds is kept for its completion. -/
def State.noteFits (s : State) (key n : Nat) : State :=
  let found := s.ctxs.flatMap (s.fitsOf key n)
  if found.isEmpty then s
  else
    { s with fits := s.fits ++ found.filter (fun e => !s.fits.any (fun o => o.1 == e.1 && o.2.1 == e.2.1)) }

/-- The fitting value that a waiting ACQ, or under its team's name an ASWAIT, has found. -/
def State.fitOf (s : State) (id : CtxId) (num : Nat) : Option Word :=
  (s.fits.find? (fun e => e.1 == id && e.2.1 == num)).map (fun e => e.2.2)

/-- Memory, poison and counters after bytes were written at home (R155, R188, R218), what waiting ACQs then read, and the
launches whose start condition the write meets (R95). -/
def State.homeStore (s : State) (key : Nat) (bytes : List Byte) (poisoned : Bool) : State :=
  (((({ s with mem := cellsWrite s.mem key bytes,
               poison := poisonAfter s.poison key bytes.length poisoned } : State).unmark key bytes.length).noteFits key
    bytes.length).testStarts key bytes.length).count key bytes.length

/-- The traffic that an access to another device puts on its link (R268); a device without a number sends none (R269). -/
def State.spanOut (s : State) (key : Nat) (num : Nat) (op : SpanOp) : State :=
  if isRemoteKey key && s.devnum.isSome then
    let dev := remoteDev key
    match Table.find s.routes dev with
    | some (link, comm) =>
      { s with linkOut := s.linkOut ++ [.oneSided link comm
          { dev := dev, src := s.ownDev, slab := remoteIsSlab key, addr := remoteAddr key, comm := comm, tag := num,
            op := op }] }
    | none => s
  else s

/-- The Span operation of a write; the poison of its bytes travels with them (R155). -/
def HomeOp.span (m : List Host.Cell) (key : Nat) : HomeOp → SpanOp
  | .put bytes p => .store bytes p
  | .add width delta => .store (homeBytes m key (.add width delta))
  | .reduce code size bytes => .reduce code size bytes
  | .split code bytes other first => .store (homeBytes m key (.split code bytes other first))

/-- A pending write to another device goes out on its link (R268). -/
def State.sendWrite (s : State) (p : PendingWrite) : State :=
  { s.spanOut p.key p.num (p.op.span s.mem p.key) with
    stores := s.stores.map (fun q => if q.num = p.num then { q with sent := true } else q) }

/-- A release of a thread is still to be passed on: some of its writes are pending. -/
def State.releaseLives (s : State) (r : Release) : Bool := r.writes.any s.pends

/-- A write of a thread, or of its team, follows a release of the thread (R230). -/
def Release.before (r : Release) (author : CtxId) (num : Nat) : Bool :=
  covers author r.author.wg r.author.tix && decide (r.since ≤ num)

/-- A write of an author and a number follows a release that is still to be passed on. -/
def State.follows (s : State) (author : CtxId) (num : Nat) : Bool :=
  s.releases.any (fun r => r.before author num && s.releaseLives r)

/-- n bytes from a key on were written by a thread, by a write of a number: where that follows a release of its own, a later
read of them may matter (R230). -/
def State.markBy (s : State) (author : CtxId) (num key n : Nat) : State :=
  if s.follows author num then { s with marks := remark s.marks key n (marksOf key n (some author) num) } else s

/-- Who has written the n bytes of a performed write, where a later read of them may matter: a release event (R237), or a
thread after a release of its own (R230). -/
def State.markWrite (s : State) (p : PendingWrite) (n : Nat) : State :=
  if p.event then s.markEvent p.key n
  else
    match p.src with
    | some a => s.markBy a p.num p.key n
    | none => s

/-- A pending write is performed at its home controller (R218, R232), and the copy in the L1 of the storing thread's core
follows it (R434); a write to another device then waits for its acknowledgement (R238). -/
def State.perform (s : State) (p : PendingWrite) : State :=
  let bytes := homeBytes s.mem p.key p.op
  let s1 := { s with stores := s.stores.filter (fun q => q.num != p.num) }
  let s2 := if isRemoteKey p.key then { s1 with acks := s1.acks ++ [p] } else s1
  let s3 := (s2.homeStore p.key bytes p.op.poisoned).markWrite p bytes.length
  if p.src.isSome then s3.patchL1 p.core p.key bytes else s3

/-- The byte of the latest pending write that a reader sees. -/
def pendingByte (r : Viewer) (key : Nat) : List PendingWrite → Option Byte → Option Byte
  | [], acc => acc
  | p :: ps, acc =>
    match p.op with
    | .put bytes _ =>
      if r.sees p && decide (p.key ≤ key) && decide (key < p.key + bytes.length) then
        pendingByte r key ps (some (bytes.getD (key - p.key) 0))
      else pendingByte r key ps acc
    | _ => pendingByte r key ps acc

/-- The line of a core's L1 that holds a byte. -/
def State.l1Line (s : State) (core key : Nat) : Option L1Line :=
  (s.core core).l1.find? (fun l => l.key == key / 64 * 64)

/-- The byte that a reader gets: a pending write that it sees, its core's L1 copy, or the home's (R218, R221). A copy in
L1 comes before a write of the tier pair's other core, which does not change it (R434). -/
def State.viewByte (s : State) (r : Viewer) (l1 : Bool) (key : Nat) : Byte :=
  match (if l1 && l1Cacheable r.core key then s.l1Line r.core key else none) with
  | some l => (pendingByte r key (s.stores.filter (fun p => p.core == r.core)) none).getD (l.bytes.getD (key % 64) 0)
  | none => (pendingByte r key s.stores none).getD (cellRead s.mem key)

/-- The author and number of the latest pending write to a byte that a reader sees, else what it would be without. -/
def pendingAuthor (r : Viewer) (key : Nat) : List PendingWrite → Option (CtxId × Nat) → Option (CtxId × Nat)
  | [], acc => acc
  | p :: ps, acc =>
    if r.sees p && decide (p.key ≤ key) && decide (key < p.key + p.op.size) then
      pendingAuthor r key ps (p.src.map (fun a => (a, p.num)))
    else pendingAuthor r key ps acc

/-- The thread that a list of marks names for a byte. -/
def markedBy (l : List Mark) (key : Nat) : Option (CtxId × Nat) :=
  (l.find? (fun m => m.key == key)).bind (fun m => m.author.map (fun a => (a, m.num)))

/-- The thread whose write a reader gets at a byte, where that is known, and the number of the write (R230). -/
def State.authorOf (s : State) (r : Viewer) (l1 : Bool) (key : Nat) : Option (CtxId × Nat) :=
  match (if l1 && l1Cacheable r.core key then s.l1Line r.core key else none) with
  | some l => pendingAuthor r key (s.stores.filter (fun p => p.core == r.core)) (markedBy l.marks key)
  | none => pendingAuthor r key s.stores (markedBy s.marks key)

/-- A context reads n bytes by an instruction of a number: the writes after releases that it gets are kept for its later
acquires (R230). -/
def State.noteRead (s : State) (id : CtxId) (num : Nat) (r : Viewer) (l1 : Bool) (key n : Nat) : State :=
  if s.releases.isEmpty then s
  else
    let found := ((List.range n).filterMap (fun i => s.authorOf r l1 (key + i))).eraseDups.filter (fun a => s.follows a.1 a.2)
    { s with seen := s.seen ++ found.map (fun a => { id := id, num := num, author := a.1, write := a.2 }) }

/-- n bytes that a reader gets. -/
def State.viewBytes (s : State) (r : Viewer) (l1 : Bool) (key : Nat) : Nat → List Byte
  | 0 => []
  | n + 1 => s.viewByte r l1 key :: s.viewBytes r l1 (key + 1) n

/-- A line does not enter a core's L1: it is there, it holds a poisoned unit (R154), or a write of the tier pair's other
core that the core's threads may see is on its way to it. -/
def State.fillBars (s : State) (core line : Nat) : Bool :=
  (s.l1Line core line).isSome || (firstPoison s.poison line 64).isSome ||
    s.stores.any (fun p => p.core != core && p.vis.contains (.pair (core % 96)) && overlaps p.key p.op.size line 64)

/-- A load's line enters L1, the oldest line leaving a full cache (R14, R218). (DESIGN CHOICE, log entry 25.) -/
def State.fillL1 (s : State) (core key : Nat) : State :=
  let line := key / 64 * 64
  if l1Cacheable core key && !s.fillBars core line then
    s.onCore core (fun c =>
      { c with l1 := (if c.l1.length ≥ Config.l1Lines then c.l1.drop 1 else c.l1) ++
          [{ key := line, bytes := cellsRead s.mem line 64,
             marks := s.marks.filter (fun m => decide (line ≤ m.key) && decide (m.key < line + 64)) }] })
  else s

/-- Lines leave a core's L1: those that touch a range. -/
def State.dropL1 (s : State) (core key n : Nat) : State :=
  if (Table.find s.cores core).isSome then
    s.onCore core (fun c => { c with l1 := c.l1.filter (fun l => !overlaps key n l.key 64) })
  else s

/-- A core's whole L1 is discarded (R230). -/
def State.flushL1 (s : State) (core : Nat) : State :=
  if (Table.find s.cores core).isSome then s.onCore core (fun c => { c with l1 := [] }) else s

/-! ### Releases and acquires (R229, R230) -/

/-- A thread as a reader of what others have written. -/
def State.threadViewer (s : State) (id : CtxId) : Viewer :=
  { wg := id.wg, tix := some id.tix, team := id.tix / 32, core := ((s.wg? id.wg).map Workgroup.core).getD 0, upto := 0 }

/-- The pending writes that stand visible to a thread because they were released to a scope that holds it (R229). -/
def State.shownTo (s : State) (id : CtxId) : List Nat :=
  (s.stores.filter (fun p => p.vis.any (fun v => v.holds (s.threadViewer id)))).map PendingWrite.num

/-- Threads acquire writes: those that are still pending they pass on with their later releases (R230). (DEDUCED, log
entry 24.) -/
def State.takeOver (s : State) (ids : List CtxId) (writes : List Nat) : State :=
  let found := ids.flatMap (fun id => ((writes.filter s.pends).eraseDups).map (fun n => (id, n)))
  if found.isEmpty then s
  else { s with got := s.got.filter (fun e => s.pends e.2) ++ found.filter (fun e => !s.got.contains e) }

/-- A thread's release of writes at a narrow scope stands until they are visible at their homes (R230): what the thread
issues from now on follows it. -/
def State.noteRelease (s : State) (id : CtxId) (v : ScopeSet) (writes : List Nat) : State :=
  let left := writes.filter s.pends
  if left.isEmpty then s
  else
    let kept := s.releases.filter s.releaseLives
    { s with
      releases := kept ++ [{ author := id, since := s.nextNum, scope := v, writes := left }]
      seen := s.seen.filter (fun e => kept.any (fun r => r.before e.author e.write)) }

/-- A fence of a thread is paired with a release (R230): an instruction before the fence has read a write that followed the
release, and each thread lies inside the other's scope; scope none holds every agent of the device. -/
def State.paired (s : State) (id : CtxId) (num : Nat) (scope : Option ScopeSet) (r : Release) : Bool :=
  s.seen.any (fun e => e.id == id && decide (e.num < num) && r.before e.author e.write) &&
    r.scope.holds (s.threadViewer id) && scope.all (fun v => v.holds (s.threadViewer r.author))

/-- The writes that a fence of a thread acquires (R230). -/
def State.fenceGets (s : State) (id : CtxId) (num : Nat) (scope : Option ScopeSet) : List Nat :=
  (s.releases.filter (s.paired id num scope)).flatMap Release.writes

/-! ### Atomics -/

/-- The function of an atomic of n bytes (R361), and compare and swap as code 8 (R352). -/
def atomicFn (code n old y expect : Nat) : Nat :=
  let w := 8 * n
  match code with
  | 0 => (old + y) % 2 ^ w
  | 1 => if signedOf w old ≤ signedOf w y then old else y
  | 2 => if signedOf w old ≥ signedOf w y then old else y
  | 3 => old &&& y
  | 4 => old ||| y
  | 5 => old ^^^ y
  | 6 => y
  | 7 => packNat 32 ((List.range (n / 4)).map (fun i =>
      (fp32.add FEnv.plain (elemAt 32 old i) (elemAt 32 y i)).bits))
  | _ => if old = expect then y else old

end Sys2Proof.Machine
end

