-- ==== Sys2Proof/Machine/Operands.lean ====
section
/-!
DEFINITION. Sys2Proof/Machine/Operands.lean: for every instruction its pipe (R287, R297), its guard (R279), what a
prefix does to it (R283 to R285, R419), the registers and predicates that it reads and writes (R289), its lookahead
(R38, R280), and the bits of %warn that its word records by itself (R300). Events have an empty shape.
-/
namespace Sys2Proof.Machine

/-- What an instruction word says of itself. Register lists may name numbers above 63, which R289 refuses. -/
structure Shape where
  pipe : Pipe
  guard : BitVec 3
  invert : Bool
  pfx : Bool                   -- the format lets a prefix act (R285)
  eCount : Nat                 -- registers that the prefix field e names: 0 none, 1, or 4 for CALLF
  reads : List Nat             -- lane registers read, the one that e names apart
  writes : List Nat            -- lane registers written
  pReads : List (BitVec 3)
  pWrite : Option (BitVec 3)   -- the destination predicate that stands for a destination register (R350)
  pAlso : Option (BitVec 3)    -- a predicate written beside the destination register (R369)
  sReads : List Nat
  sWrites : List Nat
  look : Option Nat            -- the lookahead; none for an instruction that is not outstanding after its issue
  drains : Bool                -- it waits until every earlier long-latency instruction has completed (R41)
  rounds : Bool                -- RND acts (R300)
  sats : Bool                  -- SAT acts or records nothing (R300, R379)
  held : Bool                  -- a continuation holds it (R204)
  warn : BitVec 9              -- the bits of R300 that the word alone decides
  deriving DecidableEq, Repr

/-- The shape of an event, and the blank from which the others are made. -/
def Shape.blank : Shape :=
  { pipe := .uniform, guard := 0, invert := false, pfx := false, eCount := 0, reads := [], writes := [], pReads := [],
    pWrite := none, pAlso := none, sReads := [], sWrites := [], look := none, drains := false, rounds := false,
    sats := false, held := false, warn := 0 }

/-- The predicate that bits 2:0 of a field name. -/
def predField (r : Reg) : BitVec 3 := r.extractLsb' 0 3

def withE (n : Nat) (x : Shape) : Shape := { x with eCount := n }
def withPred (p : BitVec 3) (x : Shape) : Shape := { x with pWrite := some p }
def alsoPred (p : BitVec 3) (x : Shape) : Shape := { x with pAlso := some p }
def readsPred (p : BitVec 3) (x : Shape) : Shape := { x with pReads := p :: x.pReads }
def readsS (l : List Nat) (x : Shape) : Shape := { x with sReads := l }
def readsV (l : List Nat) (x : Shape) : Shape := { x with reads := l }
def rounding (x : Shape) : Shape := { x with rounds := true, sats := true }
def saturating (x : Shape) : Shape := { x with sats := true }
def heldInFork (x : Shape) : Shape := { x with held := true }
def draining (x : Shape) : Shape := { x with drains := true }

def aluLA (f : LA) (reads writes : List Nat) (warn : BitVec 9) : Shape :=
  { Shape.blank with pipe := .alu, guard := f.g, invert := f.gn == 1, pfx := true, reads := reads, writes := writes,
                     warn := warn }

/-- A lane instruction of format LA in the long-latency pipe: it acts as if L were 0 (R280). -/
def longLA (f : LA) (reads writes : List Nat) (warn : BitVec 9) : Shape :=
  { aluLA f reads writes warn with pipe := .long, look := some 0 }

def aluLI (f : LI) (reads writes : List Nat) (warn : BitVec 9) : Shape :=
  { Shape.blank with pipe := .alu, guard := f.g, invert := f.gn == 1, reads := reads, writes := writes, warn := warn }

def longLX (f : LX) (reads writes : List Nat) (warn : BitVec 9) : Shape :=
  { Shape.blank with pipe := .long, guard := f.g, pfx := true, reads := reads, writes := writes,
                     look := some f.l.toNat, warn := warn }

/-- A short function of the control group: a nonzero L is recorded (R292, R300). -/
def shortLX (f : LX) (reads writes : List Nat) (warn : BitVec 9) : Shape :=
  { Shape.blank with pipe := .long, guard := f.g, pfx := true, reads := reads, writes := writes,
                     warn := warn ||| warnIf (f.l != 0) warnFIELDRES }

def longLM (f : LM) (reads writes : List Nat) (warn : BitVec 9) : Shape :=
  { Shape.blank with pipe := .long, guard := f.g, pfx := true, eCount := 1, reads := reads, writes := writes,
                     look := some f.l.toNat, warn := warn }

def longLXA (f : LXA) (reads writes : List Nat) : Shape :=
  { Shape.blank with pipe := .long, pfx := true, reads := reads, writes := writes, look := some f.l.toNat }

/-- A branch or call: it completes when it issues (R280), and takes no prefix but CALLF's (R285). -/
def branchLB (f : LB) : Shape := { Shape.blank with pipe := .long, guard := f.g }

def longU (look : Nat) (reads writes : List Nat) (warn : BitVec 9) : Shape :=
  { Shape.blank with sReads := reads, sWrites := writes, look := some look, held := true, warn := warn }

def shortU (reads writes : List Nat) (warn : BitVec 9) : Shape :=
  { Shape.blank with sReads := reads, sWrites := writes, held := true, warn := warn }

/-- A short uniform instruction of format SA: a nonzero L is recorded (R300). -/
def shortSA (f : SA) (reads writes : List Nat) (warn : BitVec 9) : Shape :=
  shortU reads writes (warn ||| warnIf (f.l != 0) warnFIELDRES)

/-! ### FCVT (R291, R381) -/

def fcvtSrc (f : LA) : Nat := f.b.toNat / 8
def fcvtDst (f : LA) : Nat := f.b.toNat % 8

/-- A conversion that copies: equal codes, or between the integers (R291). (DEDUCED, log entry 15.) -/
def fcvtCopies (f : LA) : Bool := fcvtSrc f == fcvtDst f || (decide (fcvtSrc f ≥ 6) && decide (fcvtDst f ≥ 6))

/-- The parts of v(a) that a widening conversion chooses from: m/k. -/
def fcvtParts (f : LA) : Nat := fcvtWidth (fcvtDst f) / fcvtWidth (fcvtSrc f)

/-- The registers that FCVT reads, from v(a) upward (R381). -/
def fcvtReads (f : LA) : List Nat :=
  if fcvtCopies f then [f.a.toNat]
  else (List.range (max 1 (fcvtWidth (fcvtSrc f) / fcvtWidth (fcvtDst f)))).map (fun i => f.a.toNat + i)

def fcvtWarn (f : LA) : BitVec 9 :=
  let bad :=
    if fcvtCopies f then true
    else if fcvtWidth (fcvtSrc f) < fcvtWidth (fcvtDst f) then decide (f.t.toNat ≥ fcvtParts f)
    else f.t != 0
  warnIf bad warnBADTYPE

/-! ### LRED (R294, R300) -/

/-- An operation that acts on floating views. (DEDUCED, log entry 16.) -/
def lredFloat (f : LX) : Bool := decide (f.b.toNat % 8 ≥ 6)

/-- A view that fits the operation's kind. -/
def lredFits (f : LX) : Bool :=
  let v := f.b.toNat / 8
  if lredFloat f then decide (4 ≤ v) && decide (v ≤ 6) else decide (v < 4)

def lredWarn (f : LX) : BitVec 9 := warnIf (!lredFits f) warnBADTYPE

/-! ### The table -/

/-- The prefix of a word that has none: every field zero. -/
def Pfx.none : Pfx := { e := 0, m := 0, z := 0, rnd := 0, sat := 0, rsv := 0 }

/-- The shape of an instruction under a prefix p. (DEDUCED, log entry 18.) -/
def shape (i : Instr) (p : Pfx) : Shape :=
  match i with
  | .nop f => aluLA f [] [] (warnIf (f.t != 0) warnBADTYPE ||| warnIf (f.d != 0 || f.a != 0 || f.b != 0) warnFIELDRES)
  | .add f => aluLA f [f.a.toNat, f.b.toNat] [f.d.toNat] (0)
  | .sub f => aluLA f [f.a.toNat, f.b.toNat] [f.d.toNat] (0)
  | .mul f => aluLA f [f.a.toNat, f.b.toNat] [f.d.toNat] (warnIf (f.t.getLsbD 2) warnBADTYPE)
  | .mulh f => aluLA f [f.a.toNat, f.b.toNat] [f.d.toNat] (0)
  | .mad f => aluLA f (if p.e = 0 then [f.a.toNat, f.b.toNat, f.d.toNat] else [f.a.toNat, f.b.toNat]) [f.d.toNat] (warnIf (f.t.getLsbD 2) warnBADTYPE) |> withE 1
  | .min f => aluLA f [f.a.toNat, f.b.toNat] [f.d.toNat] (0)
  | .max f => aluLA f [f.a.toNat, f.b.toNat] [f.d.toNat] (0)
  | .and f => aluLA f [f.a.toNat, f.b.toNat] [f.d.toNat] (warnIf (f.t.getLsbD 2) warnBADTYPE)
  | .or f => aluLA f [f.a.toNat, f.b.toNat] [f.d.toNat] (warnIf (f.t.getLsbD 2) warnBADTYPE)
  | .xor f => aluLA f [f.a.toNat, f.b.toNat] [f.d.toNat] (warnIf (f.t.getLsbD 2) warnBADTYPE)
  | .shl f => aluLA f [f.a.toNat, f.b.toNat] [f.d.toNat] (warnIf (f.t.getLsbD 2) warnBADTYPE)
  | .shr f => aluLA f [f.a.toNat, f.b.toNat] [f.d.toNat] (warnIf (f.t.getLsbD 2) warnBADTYPE)
  | .sar f => aluLA f [f.a.toNat, f.b.toNat] [f.d.toNat] (warnIf (f.t.getLsbD 2) warnBADTYPE)
  | .rot f => aluLA f [f.a.toNat, f.b.toNat] [f.d.toNat] (warnIf (f.t.getLsbD 2) warnBADTYPE)
  | .clz f => aluLA f [f.a.toNat] [f.d.toNat] (warnIf (f.t.getLsbD 2) warnBADTYPE)
  | .popc f => aluLA f [f.a.toNat] [f.d.toNat] (warnIf (f.t.getLsbD 2) warnBADTYPE)
  | .brev f => aluLA f [f.a.toNat] [f.d.toNat] (warnIf (f.t.getLsbD 2) warnBADTYPE)
  | .not f => aluLA f [f.a.toNat] [f.d.toNat] (warnIf (f.t.getLsbD 2) warnBADTYPE)
  | .abs f => aluLA f [f.a.toNat] [f.d.toNat] (0)
  | .neg f => aluLA f [f.a.toNat] [f.d.toNat] (0)
  | .cmp f => aluLA f [f.a.toNat, f.b.toNat] [] (warnIf (predField f.d == 0) warnFIELDRES) |> withPred (predField f.d)
  | .sel f => aluLA f [f.a.toNat, f.b.toNat] [f.d.toNat] 0 |> readsPred f.t
  | .bfx f => aluLA f [f.a.toNat, f.b.toNat] [f.d.toNat] (warnIf (f.t != 0) warnBADTYPE)
  | .bfi f => aluLA f [f.a.toNat, f.b.toNat, f.d.toNat] [f.d.toNat] (warnIf (f.t != 0) warnBADTYPE)
  | .bsrd f => aluLA f [f.a.toNat, f.b.toNat, f.b.toNat + 1] [f.d.toNat, f.b.toNat, f.b.toNat + 1] (warnIf (f.t != 0) warnBADTYPE) |> alsoPred 7
  | .mov f => aluLA f [f.a.toNat] [f.d.toNat] (warnIf (f.t != 0) warnBADTYPE ||| warnIf (f.b != 0) warnFIELDRES)
  | .movs f => aluLA f [] [f.d.toNat] (warnIf (f.b != 0) warnFIELDRES) |> readsS [f.a.toNat]
  | .addi f => aluLI f [f.a.toNat] [f.d.toNat] 0
  | .andi f => aluLI f [f.a.toNat] [f.d.toNat] 0
  | .ori f => aluLI f [f.a.toNat] [f.d.toNat] 0
  | .xori f => aluLI f [f.a.toNat] [f.d.toNat] 0
  | .shli f => aluLI f [f.a.toNat] [f.d.toNat] (warnIf (f.imm.getLsbD 6) warnFIELDRES)
  | .shri f => aluLI f [f.a.toNat] [f.d.toNat] (warnIf (f.imm.getLsbD 6) warnFIELDRES)
  | .sari f => aluLI f [f.a.toNat] [f.d.toNat] (warnIf (f.imm.getLsbD 6) warnFIELDRES)
  | .roti f => aluLI f [f.a.toNat] [f.d.toNat] (warnIf (f.imm.getLsbD 6) warnFIELDRES)
  | .acq f => longLX f [f.a.toNat, f.b.toNat] [f.d.toNat] (0) |> heldInFork
  | .rel f => longLX f [f.a.toNat, f.b.toNat] [] (warnIf (f.d != 0) warnFIELDRES) |> heldInFork
  | .cmpi f => aluLI f [f.a.toNat] [] (warnIf (predField f.d == 0) warnFIELDRES) |> withPred (predField f.d)
  | .movi f => aluLI f [] [f.d.toNat] 0
  | .fadd f => aluLA f [f.a.toNat, f.b.toNat] [f.d.toNat] (warnIf (decide (f.t.toNat ≥ 3)) warnBADTYPE) |> rounding
  | .fsub f => aluLA f [f.a.toNat, f.b.toNat] [f.d.toNat] (warnIf (decide (f.t.toNat ≥ 3)) warnBADTYPE) |> rounding
  | .fmul f => aluLA f [f.a.toNat, f.b.toNat] [f.d.toNat] (warnIf (decide (f.t.toNat ≥ 3)) warnBADTYPE) |> rounding
  | .ffma f => aluLA f (if p.e = 0 then [f.a.toNat, f.b.toNat, f.d.toNat] else [f.a.toNat, f.b.toNat]) [f.d.toNat] (warnIf (decide (f.t.toNat ≥ 3)) warnBADTYPE) |> withE 1 |> rounding
  | .fmin f => aluLA f [f.a.toNat, f.b.toNat] [f.d.toNat] (warnIf (decide (f.t.toNat ≥ 3)) warnBADTYPE) |> saturating
  | .fmax f => aluLA f [f.a.toNat, f.b.toNat] [f.d.toNat] (warnIf (decide (f.t.toNat ≥ 3)) warnBADTYPE) |> saturating
  | .fcmp f => aluLA f [f.a.toNat, f.b.toNat] [] (warnIf (decide (f.t.toNat ≥ 3)) warnBADTYPE ||| warnIf (predField f.d == 0) warnFIELDRES) |> withPred (predField f.d)
  | .fcvt f => aluLA f (fcvtReads f) [f.d.toNat] (fcvtWarn f) |> rounding
  | .frnd f => aluLA f [f.a.toNat] [f.d.toNat] (warnIf (decide (f.t.toNat ≥ 3)) warnBADTYPE ||| warnIf (f.b != 0) warnFIELDRES) |> rounding
  | .fscl f => aluLA f [f.a.toNat, f.b.toNat] [f.d.toNat] (warnIf (decide (f.t.toNat ≥ 3)) warnBADTYPE) |> rounding
  | .idp8 f => aluLA f [f.a.toNat, f.b.toNat, f.d.toNat] [f.d.toNat] (warnIf (f.t != 0) warnBADTYPE) |> saturating
  | .idp4 f => aluLA f [f.a.toNat, f.b.toNat, f.d.toNat] [f.d.toNat] (warnIf (f.t != 0) warnBADTYPE) |> saturating
  | .fdp8 f => aluLA f [f.a.toNat, f.b.toNat, f.d.toNat] [f.d.toNat] (warnIf (f.t.getLsbD 2) warnBADTYPE) |> rounding
  | .fdp4 f => aluLA f [f.a.toNat, f.b.toNat, f.d.toNat] [f.d.toNat] (warnIf (f.t != 0) warnBADTYPE) |> rounding
  | .fdiv f => longLX f [f.a.toNat, f.b.toNat] [f.d.toNat] (0) |> rounding
  | .frcp f => longLX f [f.a.toNat] [f.d.toNat] (0) |> rounding
  | .frsq f => longLX f [f.a.toNat] [f.d.toNat] (0) |> rounding
  | .fsqrt f => longLX f [f.a.toNat] [f.d.toNat] (0) |> rounding
  | .fex2 f => longLX f [f.a.toNat] [f.d.toNat] (0) |> rounding
  | .flg2 f => longLX f [f.a.toNat] [f.d.toNat] (0) |> rounding
  | .fsin f => longLX f [f.a.toNat] [f.d.toNat] (0) |> rounding
  | .fcos f => longLX f [f.a.toNat] [f.d.toNat] (0) |> rounding
  | .rnd f => longLX f [] [f.d.toNat] (warnIf (f.a != 0) warnFIELDRES) |> heldInFork
  | .rndf f => longLX f [] [f.d.toNat] (warnIf (f.a != 0) warnFIELDRES) |> heldInFork
  | .ld f => longLM f [f.a.toNat] (if f.w = 4 then [f.d.toNat, f.d.toNat + 1] else [f.d.toNat]) (warnIf (f.sx == 1 && decide (f.w.toNat ≥ 3)) warnFIELDRES)
  | .st f => longLM f (if f.w = 4 then [f.a.toNat, f.d.toNat, f.d.toNat + 1] else [f.a.toNat, f.d.toNat]) [] (warnIf (f.sx == 1) warnFIELDRES)
  | .atomw f => longLXA f [f.a.toNat, f.b.toNat] [f.d.toNat] |> heldInFork
  | .atomd f => longLXA f [f.a.toNat, f.b.toNat] [f.d.toNat] |> heldInFork
  | .acas f => longLXA f [f.a.toNat, f.b.toNat, f.d.toNat] [f.d.toNat] |> heldInFork
  | .asput f => longLA f [f.a.toNat] [] (warnIf (decide (f.t.toNat ≥ 2)) warnBADTYPE ||| warnIf (f.b != 0) warnFIELDRES) |> heldInFork
  | .shfl f => longLX f [f.a.toNat, f.b.toNat] [f.d.toNat] (0) |> heldInFork
  | .netmv f => longLX f [f.a.toNat] [f.d.toNat] (warnIf (decide (f.b.toNat ≥ 16)) warnFIELDRES) |> heldInFork
  | .voteAll f => longLA f [] [] (warnIf (f.b != 0 || decide (f.a.toNat ≥ 8)) warnFIELDRES ||| warnIf (f.t != 0) warnBADTYPE ||| warnIf (decide (f.d.toNat ≥ 8) || predField f.d == 0) warnFIELDRES) |> withPred (predField f.d) |> readsPred (predField f.a) |> heldInFork
  | .voteAny f => longLA f [] [] (warnIf (f.b != 0 || decide (f.a.toNat ≥ 8)) warnFIELDRES ||| warnIf (decide (f.d.toNat ≥ 8) || predField f.d == 0) warnFIELDRES) |> withPred (predField f.d) |> readsPred (predField f.a) |> heldInFork
  | .voteBallot f => longLA f [] [f.d.toNat] (warnIf (f.b != 0 || decide (f.a.toNat ≥ 8)) warnFIELDRES) |> readsPred (predField f.a) |> heldInFork
  | .lred f => longLX f [f.a.toNat] [f.d.toNat] (lredWarn f) |> (if decide (f.b.toNat % 8 ≥ 6) then rounding else id) |> heldInFork
  | .bra f => branchLB f
  | .brx f => branchLB f |> heldInFork
  | .call f => branchLB f |> draining
  | .callf f => branchLB f |> draining |> heldInFork |> withE 4
  | .ret f => shortLX f [] [] (warnIf (f.d != 0 || f.a != 0) warnFIELDRES) |> draining
  | .jmpr f => shortLX f [f.a.toNat] [] (warnIf (f.d != 0) warnFIELDRES)
  | .exit f => shortLX f [] [] (warnIf (f.d != 0 || f.a != 0) warnFIELDRES) |> draining |> heldInFork
  | .trap f => shortLX f [f.a.toNat] [] (warnIf (f.d != 0) warnFIELDRES) |> draining |> heldInFork
  | .tret f => shortLX f [] [] (warnIf (f.d != 0 || f.a != 0) warnFIELDRES) |> draining |> heldInFork
  | .yield f => shortLX f [] [] (warnIf (f.d != 0 || f.a != 0) warnFIELDRES) |> heldInFork
  | .bkpt f => shortLX f [] [] (warnIf (f.d != 0 || f.a != 0) warnFIELDRES) |> draining |> heldInFork
  | .bar f => longLX f [] [] (warnIf (f.a != 0) warnFIELDRES) |> heldInFork
  | .waitt f => longLX f [f.a.toNat] [] (warnIf (decide (f.d.toNat ≥ 2)) warnFIELDRES) |> heldInFork
  | .ffrt f => longLX f [f.a.toNat] [f.d.toNat] (0)
  | .waita f => longLX f [f.a.toNat, f.d.toNat] [f.d.toNat] (0) |> heldInFork
  | .fenceRel f => longLX f [] [] (warnIf (f.a != 0 || f.d.extractLsb' 3 3 == 7#3) warnFIELDRES) |> heldInFork
  | .fenceAcq f => longLX f [] [] (warnIf (f.a != 0 || f.d.extractLsb' 3 3 == 7#3) warnFIELDRES) |> heldInFork
  | .fenceFull f => longLX f [] [] (warnIf (f.a != 0 || f.d.extractLsb' 3 3 == 7#3) warnFIELDRES ||| warnIf (decide (f.d.toNat % 8 ≥ 5)) warnFIELDRES) |> heldInFork
  | .fenceLt f => longLX f [] [] (warnIf (f.a != 0) warnFIELDRES) |> heldInFork
  | .fenceHv f => longLX f [f.a.toNat, f.a.toNat + 1, f.a.toNat + 2] [] (0) |> heldInFork
  | .hgive f => longLX f [f.a.toNat, f.a.toNat + 1] [f.d.toNat] (0) |> heldInFork
  | .htake f => longLX f [f.a.toNat, f.a.toNat + 1] [f.d.toNat] (0) |> heldInFork
  | .prfm f => longLX f [f.a.toNat] [] (warnIf (f.d != 0) warnFIELDRES)
  | .vqput f => longLX f [f.a.toNat] [] (warnIf (f.d != 0) warnFIELDRES) |> heldInFork
  | .vqget f => longLX f [] [f.d.toNat] (warnIf (f.a != 0) warnFIELDRES) |> heldInFork
  | .launch f => longLX f [f.a.toNat] [f.d.toNat] (0) |> heldInFork
  | .cwait f => longLX f [f.a.toNat] [f.d.toNat] (0) |> heldInFork
  | .halt f => shortLX f [f.a.toNat] [] (warnIf (decide (f.d.toNat ≥ 2)) warnFIELDRES) |> heldInFork
  | .mfs f => shortLX f [] [f.d.toNat] (0) |> (if f.a.toNat ∈ [9, 10, 13, 14, 15] then heldInFork else id)
  | .mts f => shortLX f [f.d.toNat] [] (0) |> (if f.a.toNat ∈ [9, 10, 13, 14] then heldInFork else id)
  | .snop f => shortSA f [] [] (warnIf (f.d != 0 || f.a != 0 || f.b != 0 || f.fn != 0) warnFIELDRES)
  | .sadd f => shortSA f [f.a.toNat, f.b.toNat] [f.d.toNat] (warnIf (f.fn != 0) warnFIELDRES)
  | .ssub f => shortSA f [f.a.toNat, f.b.toNat] [f.d.toNat] (warnIf (f.fn != 0) warnFIELDRES)
  | .smul f => shortSA f [f.a.toNat, f.b.toNat] [f.d.toNat] (warnIf (f.fn != 0) warnFIELDRES)
  | .sand f => shortSA f [f.a.toNat, f.b.toNat] [f.d.toNat] (warnIf (f.fn != 0) warnFIELDRES)
  | .sor f => shortSA f [f.a.toNat, f.b.toNat] [f.d.toNat] (warnIf (f.fn != 0) warnFIELDRES)
  | .sxor f => shortSA f [f.a.toNat, f.b.toNat] [f.d.toNat] (warnIf (f.fn != 0) warnFIELDRES)
  | .sshl f => shortSA f [f.a.toNat, f.b.toNat] [f.d.toNat] (warnIf (f.fn != 0) warnFIELDRES)
  | .sshr f => shortSA f [f.a.toNat, f.b.toNat] [f.d.toNat] (warnIf (f.fn != 0) warnFIELDRES)
  | .ssar f => shortSA f [f.a.toNat, f.b.toNat] [f.d.toNat] (warnIf (f.fn != 0) warnFIELDRES)
  | .smin f => shortSA f [f.a.toNat, f.b.toNat] [f.d.toNat] (warnIf (decide (f.fn.toNat ≥ 2)) warnFIELDRES)
  | .smax f => shortSA f [f.a.toNat, f.b.toNat] [f.d.toNat] (warnIf (decide (f.fn.toNat ≥ 2)) warnFIELDRES)
  | .scmp f => shortSA f [f.a.toNat, f.b.toNat] [f.d.toNat] (0)
  | .saddi f => shortU [f.a.toNat] [f.d.toNat] (0)
  | .sandi f => shortU [f.a.toNat] [f.d.toNat] (0)
  | .sori f => shortU [f.a.toNat] [f.d.toNat] (0)
  | .sshli f => shortU [f.a.toNat] [f.d.toNat] (warnIf (f.imm.extractLsb' 6 5 != 0#5) warnFIELDRES)
  | .sshri f => shortU [f.a.toNat] [f.d.toNat] (warnIf (f.imm.extractLsb' 6 5 != 0#5) warnFIELDRES)
  | .ssari f => shortU [f.a.toNat] [f.d.toNat] (warnIf (f.imm.extractLsb' 6 5 != 0#5) warnFIELDRES)
  | .smovi f => shortU [] [f.d.toNat] (0)
  | .smovh f => shortU [f.d.toNat] [f.d.toNat] (0)
  | .sld f => longU 0 [f.a.toNat] [f.d.toNat] 0
  | .sst f => longU 0 [f.a.toNat, f.d.toNat] [] 0
  | .sbz f => shortU [f.a.toNat] [] (0)
  | .sbnz f => shortU [f.a.toNat] [] (0)
  | .srd f => shortU [] [f.d.toNat] (warnIf (f.a != 0) warnFIELDRES)
  | .swr f => shortU [f.a.toNat] [] (warnIf (f.d != 0) warnFIELDRES)
  | .vtos f => shortSA f [] [f.d.toNat] (warnIf (f.fn != 0) warnFIELDRES ||| warnIf (decide (f.b.toNat ≥ 32)) warnFIELDRES) |> readsV [f.a.toNat]
  | .bind f => longU f.l.toNat [f.a.toNat, f.b.toNat, f.b.toNat + 1] [f.d.toNat] (0)
  | .unbind f => longU f.l.toNat [f.a.toNat, f.b.toNat] [f.d.toNat] (0)
  | .hod f => longU f.l.toNat [f.a.toNat, f.b.toNat] [f.d.toNat] (warnIf (f.fn != 0) warnFIELDRES)
  | .loom f => longU f.l.toNat [f.a.toNat] [f.d.toNat] (warnIf (f.fn != 0) warnFIELDRES ||| warnIf (f.b != 0) warnFIELDRES)
  | .task f => longU f.l.toNat [f.a.toNat] [f.d.toNat] (warnIf (f.b != 0) warnFIELDRES)
  | .taskServe f => longU f.l.toNat [f.a.toNat] [f.d.toNat] (warnIf (f.b != 0) warnFIELDRES)
  | .gset f => longU f.l.toNat [f.a.toNat, f.b.toNat] [] (warnIf (f.fn != 0) warnFIELDRES ||| warnIf (f.d != 0) warnFIELDRES)
  | .ksarm f => longU f.l.toNat [f.a.toNat] [f.d.toNat] (warnIf (f.fn != 0) warnFIELDRES ||| warnIf (f.b != 0) warnFIELDRES)
  | .ksdis f => longU f.l.toNat [f.a.toNat] [f.d.toNat] (warnIf (f.fn != 0) warnFIELDRES ||| warnIf (f.b != 0) warnFIELDRES)
  | .ksrd f => longU f.l.toNat [f.a.toNat] [f.d.toNat] (warnIf (f.fn != 0) warnFIELDRES ||| warnIf (f.b != 0) warnFIELDRES)
  | .qfence f => longU f.l.toNat [f.a.toNat, f.b.toNat] [f.d.toNat] (warnIf (f.fn != 0) warnFIELDRES)
  | .asrd f => longU f.l.toNat [f.a.toNat, f.b.toNat] [f.d.toNat] (warnIf (f.fn != 0) warnFIELDRES)
  | .asrdp f => longU f.l.toNat [f.a.toNat, f.b.toNat] [f.d.toNat] (warnIf (f.fn != 0) warnFIELDRES)
  | .aswait f => longU f.l.toNat [f.a.toNat, f.b.toNat] [f.d.toNat] (warnIf (f.fn != 0) warnFIELDRES)
  | .netld f => longU f.l.toNat [f.a.toNat] [] (warnIf (f.fn != 0) warnFIELDRES ||| warnIf (f.b != 0) warnFIELDRES ||| warnIf (decide (f.d.toNat ≥ 16)) warnFIELDRES)
  | _ => Shape.blank

/-- The lane registers that the prefix field e names for an instruction (R283); CALLF has them where it has a prefix
(R199). -/
def eRegs (x : Shape) (p : Pfx) : List Nat :=
  match x.eCount with
  | 0 => []
  | 1 => if p.e = 0 then [] else [p.e.toNat]
  | n => if p.rsv = 0 then [] else (List.range n).map (fun i => p.e.toNat + i)

/-- A prefix acts on the word: its format lets it, or the word is CALLF (R285). -/
def pfxActs (x : Shape) : Bool := x.pfx || x.eCount == 4

/-- The fields that a prefix gives the word behind it; for CALLF only e acts (R199), and a nonzero rsv says that
there is a prefix. -/
def effPfx (x : Shape) (p : Option Pfx) : Pfx :=
  match p with
  | .none => Pfx.none
  | .some p => if x.pfx then p else if x.eCount == 4 then { Pfx.none with e := p.e, rsv := 1 } else Pfx.none

/-- A destination that Z can clear: a register, or a predicate that stands for one (R350). -/
def hasDest (x : Shape) : Bool := !x.writes.isEmpty || x.pWrite.isSome

/-- The bits of R300 that a prefix records on a word. -/
def pfxWarn (x : Shape) (p : Option Pfx) : BitVec 9 :=
  match p with
  | .none => 0
  | .some p =>
    if x.pfx then
      warnIf (p.e != 0 && x.eCount == 0) warnPFXIGN ||| warnIf (p.rnd != 0 && !x.rounds) warnPFXIGN |||
        warnIf (p.sat == 1 && !x.sats) warnPFXIGN ||| warnIf (p.z == 1 && (p.m == 0 || !hasDest x)) warnPFXIGN |||
        warnIf (p.rnd == 7 && x.rounds) warnRNDRES
    else if x.eCount == 4 then
      warnIf (p.m != 0 || p.z == 1 || p.rnd != 0 || p.sat == 1) warnPFXIGN
    else warnPFXIGN

end Sys2Proof.Machine
end

