-- ==== Sys2Proof/Machine/Ops.lean ====
section
/-!
DEFINITION. Sys2Proof/Machine/Ops.lean: the named operations over registers and contexts: reading and writing
registers, guards and masks (R42, R279, R283), advancing, draws (R122), taking a trap and returning from one
(R150 to R153, R239 to R244), stopping a thread or a launch (R60, R375), trace records (R260), and the one shape
that every lane instruction has (R350).
-/
namespace Sys2Proof.Machine

/-! ### Registers -/

/-- A lane register. -/
def Regs.get (r : Regs) (n : Reg) : Word := r.v[n.toNat]'n.isLt

/-- A lane register written whole, which clears its poison (R156). -/
def Regs.put (r : Regs) (n : Reg) (x : Word) : Regs :=
  { r with v := r.v.set n.toNat x n.isLt, poison := r.poison &&& ~~~(1#64 <<< n.toNat) }

/-- A lane register by number; a number above 63 names none and reads as zero (R289 refuses it before). -/
def Regs.getN (r : Regs) (n : Nat) : Word := if h : n < 64 then r.v[n] else 0

def Regs.putN (r : Regs) (n : Nat) (x : Word) : Regs := r.put (BitVec.ofNat 6 n) x

/-- A predicate; p0 reads as true (R42). -/
def Regs.pred (r : Regs) (n : BitVec 3) : Bool := n == 0 || r.p.getLsbD n.toNat

/-- A predicate written; p0 is not written (R300). -/
def Regs.putPred (r : Regs) (n : BitVec 3) (b : Bool) : Regs :=
  if n = 0 then r
  else { r with p := if b then r.p ||| (1#8 <<< n.toNat) else r.p &&& ~~~(1#8 <<< n.toNat) }

/-- An s-register of a team; s0 reads as zero (R425). -/
def Team.get (t : Team) (n : Reg) : Word := if n = 0 then 0 else t.s[n.toNat]'n.isLt

/-- An s-register written; a write to s0 is discarded (R425). -/
def Team.put (t : Team) (n : Reg) (x : Word) : Team := if n = 0 then t else { t with s := t.s.set n.toNat x n.isLt }

/-- The s-register that a thread's team holds (R412). -/
def State.sregOf (s : State) (c : Ctx) (n : Reg) : Word :=
  match s.team? c.id.wg c.team with
  | some t => t.get n
  | none => 0

/-- One draw of the generator (R122): the value drawn, and the registers after it. -/
def Regs.draw (r : Regs) : Word × Regs :=
  let c := r.rngc + 1
  let z0 := r.rngk + c * 0x9E3779B97F4A7C15#64
  let z1 := (z0 ^^^ (z0 >>> 30)) * 0xBF58476D1CE4E5B9#64
  let z2 := (z1 ^^^ (z1 >>> 27)) * 0x94D049BB133111EB#64
  (z2 ^^^ (z2 >>> 31), { r with rngc := c })

/-! ### Guards, masks and checks on the word -/

/-- What an instruction does for a thread: it acts, it is off, or the mask clears its destination (R283, R419). -/
inductive Fate where
  | acts
  | off
  | zeroed
  deriving DecidableEq, Repr

/-- The fate of a thread under a shape and a prefix (R42, R279, R283). -/
def fate (x : Shape) (p : Pfx) (r : Regs) : Fate :=
  if r.pred x.guard == x.invert then .off
  else if p.m != 0 && !r.pred p.m then (if p.z == 1 && hasDest x then .zeroed else .off)
  else .acts

/-- The registers that Z clears: the destination, and for a load pair both of it (R283, R369, R404). -/
def zeroRegs (x : Shape) : List Nat := if x.pAlso.isSome then x.writes.take 1 else x.writes

/-- A register that the launch's threads have (R47, R289). -/
def regAllowed (regs n : Nat) : Bool := decide (n < regs) || n == 62 || n == 63

/-- Step 2 of R298 on the register fields of a word (R289). (DEDUCED, log entry 18.) -/
def regsOk (regs : Nat) (x : Shape) (p : Pfx) : Bool :=
  (x.reads ++ x.writes ++ eRegs x p).all (fun n => decide (n ≤ 63) && regAllowed regs n)

/-- The REGS of a context's launch. -/
def State.regsOf (s : State) (c : Ctx) : Nat :=
  match s.launchOf? c.id.wg with
  | some l => l.regs
  | none => 64

/-- The first poisoned register that a thread would read (R154). -/
def readsPoison (x : Shape) (p : Pfx) (r : Regs) : Bool :=
  (x.reads ++ eRegs x p).any (fun n => r.poison.getLsbD n)

/-! ### Flights -/

/-- Every outstanding instruction counts one more instruction issued after it (R38), and so does the context (R148). -/
def Ctx.tick (c : Ctx) : Ctx :=
  { c with inflight := c.inflight.map (fun f => { f with since := f.since + 1 }), count := c.count + 1 }

/-- A context goes on at an address. -/
def Ctx.goto (c : Ctx) (pc : Word) : Ctx := { c.tick with pc := pc }

/-- An outstanding instruction of a context. -/
def Ctx.flight? (c : Ctx) (num : Nat) : Option Flight := c.inflight.find? (fun f => f.num == num)

/-- An outstanding instruction has completed. -/
def Ctx.land (c : Ctx) (num : Nat) : Ctx := { c with inflight := c.inflight.filter (fun f => f.num != num) }

/-! ### Trace records (R260) -/

/-- A trace record of an event kind at an address, for a context, while its queue is traced. (DEDUCED, log entry 23.)
(DEDUCED, log entry 81.) -/
def State.trace (s : State) (c : Ctx) (kind : Nat) (pc : Word) : State :=
  match s.launchOf? c.id.wg with
  | none => s
  | some l =>
    if !(s.queue l.queue).trace then s
    else
      let base := hbmBase + s.queueField l.queue 0x30 8
      let len := s.queueField l.queue 0x38 8
      let core := s.coreOf c
      let slot := ((s.team? c.id.wg c.team).map Team.slot).getD 0
      let rcd := leBytes 8 (s.core core).cyc.toNat ++ leBytes 4 (s.core core).traceSeq ++
        leBytes 4 (s.partOf c + slot * 16 + c.lane * 256) ++ leBytes 1 kind ++
        leBytes 1 (if c.id.lvl = 0 then 0 else 1) ++ leBytes 6 0 ++ leBytes 8 pc.toNat
      if len < 64 then s
      else
        let n := s.memNat base 8
        let at_ := base + 32 + 32 * (n % ((len - 32) / 32))
        let s := s.homeStore base (leBytes 8 (n + 1)) false
        let s := s.onCore core (fun k => { k with traceSeq := k.traceSeq + 1 })
        if (firstPoison s.poison at_ 32).isSome || !hbmValid (at_ - hbmBase) then
          s.homeStore (base + 8) (leBytes 8 (s.memNat (base + 8) 8 + 1)) false
        else s.homeStore at_ rcd false

/-! ### Squashing forks; stopping threads and launches -/

/-- One more cycle slot is charged to a leaf. -/
def Part.charge (p : Part) (leaf n : Nat) : Part :=
  { p with topdown := Table.set p.topdown leaf ((Table.get p.topdown 0 leaf + n) % 2 ^ 64) }

/-- A fork is no longer open, and its continuation's context is gone, with what it has read (R210). -/
def State.closeFork (s : State) (f : Fork) : State :=
  { s with forks := s.forks.filter (fun g => !(g.wg == f.wg && g.tix == f.tix && g.depth == f.depth))
           ctxs := s.ctxs.filter (fun c => !(c.id.wg == f.wg && c.id.tix == f.tix && c.id.lvl == f.depth))
           seen := s.seen.filter (fun e => !(e.id.wg == f.wg && e.id.tix == f.tix && e.id.lvl == f.depth)) }

/-- The issue slots of a squashed continuation move to the leaf of squashed speculation (R216). (DEDUCED, log entry
85.) -/
def Part.moveSlots (p : Part) (issued : List (Nat × Nat)) : Part :=
  issued.foldl (fun p e =>
    let had := Table.get p.topdown 0 e.2
    ({ p with topdown := Table.set p.topdown e.2 ((had + 2 ^ 64 - 1) % 2 ^ 64) }).charge 12 1) p

/-- Slots that have moved are no longer those of the other continuations of their courses, which issued on the same
partition (R216). (DEDUCED, log entry 85.) -/
def State.slotsMoved (s : State) (core part : Nat) (issued : List (Nat × Nat)) : State :=
  { s with forks := s.forks.map (fun g =>
      let here := match s.ctx? { wg := g.wg, tix := g.tix, lvl := 0 } with
        | some c => s.coreOf c == core && s.partOf c == part
        | none => false
      if here then { g with issued := g.issued.filter (fun e => !issued.contains e) } else g) }

/-- A continuation is squashed: its trace record at the return point, its issue slots, its fork (R210, R216, R260). -/
def State.squashFork (s : State) (f : Fork) : State :=
  let id : CtxId := { wg := f.wg, tix := f.tix, lvl := f.depth }
  let s := match s.ctx? id with
    | some c =>
      ((s.trace c 6 f.ret).onPart (s.coreOf c) (s.partOf c) (fun p => p.moveSlots f.issued)).slotsMoved (s.coreOf c)
        (s.partOf c) f.issued
    | none => s
  s.closeFork f

/-- Every fork of a thread is squashed (R210). -/
def State.dropForks (s : State) (wg tix : Nat) : State :=
  (s.forks.filter (fun f => f.wg == wg && f.tix == tix)).foldl State.squashFork s

/-- The faulted stores of contexts that a test selects are discarded with nothing performed (R146, R151). -/
def State.dropParked (s : State) (sel : CtxId → Bool) : State :=
  { s with stores := s.stores.filter (fun p => (match p.parked with
      | some e => !sel e.1
      | none => true)) }

/-- A thread exits: it issues nothing more (R375). -/
def State.exitThread (s : State) (id : CtxId) : State :=
  (s.dropForks id.wg id.tix).onCtx id (fun c =>
    { c with status := .exited, inflight := [], inHandler := false, nested := false, heldHalt := false,
             haltReq := false, forced := false, frames := [], calls := [] })

/-- The key of a fault record (R145). -/
def faultKey (core idx : Nat) : Nat := slabKey core (Config.faultRing + 32 * idx)

/-- The core writes FREE into a fault record (R146). -/
def State.freeFault (s : State) (core idx : Nat) : State :=
  (s.homeStore (faultKey core idx + 0x14) [0] false).onCore core
    (fun c => { c with faultsOut := Table.erase c.faultsOut idx })

/-- A launch is a descendant of another, or itself: fuel bounds the depth (R55, R60). -/
def State.descends (s : State) (root : Nat) : Nat → Nat → Bool
  | 0, n => n == root
  | fuel + 1, n => n == root || (match s.launch? n with
    | some l => (match l.parent with
      | some p => s.descends root fuel p
      | none => false)
    | none => false)

/-- A running Hod copy ends ABORTED at an address whose translation was refused (R175, R177). -/
def abortHod (addr : Nat) (e : Nat × Running) : Nat × Running :=
  if e.1 = 5 then (5, { e.2 with done := true, parked := false, status := 3, fcode := 1, faddr := addr }) else e

/-- The writes of a core's copy that are yet to be sent again are discarded with it (R146). -/
def State.dropLost (s : State) (core : Nat) : State :=
  { s with hodSent := s.hodSent.filter (fun e => !(e.core == core && e.engine == 5 && e.lost)) }

/-- A core's faults of stopped launches are discarded, and their records are freed (R146). -/
def State.dropFaults (s : State) (core : Nat) (dead : Nat → Bool) : State :=
  let idxs := ((s.core core).faultsOut.filter (fun e => dead e.2.launch)).map Prod.fst
  let hods := (((s.core core).faultsOut.map Prod.snd) ++ (s.core core).faultsWaiting).filter (fun r => r.hod && dead r.launch)
  let s := hods.foldl (fun s r =>
    (s.onCore core (fun c => { c with running := c.running.map (abortHod r.addr.toNat) })).dropLost core) s
  let s := s.onCore core (fun c => { c with faultsWaiting := c.faultsWaiting.filter (fun r => !dead r.launch) })
  idxs.foldl (fun s i => s.freeFault core i) s

/-- The threads of workgroups that a test selects stop (R60). -/
def State.stopThreads (s : State) (sel : Nat → Bool) : State :=
  let stopC (c : Ctx) : Ctx :=
    if sel c.id.wg then { c with status := .exited, inflight := [], frames := [], calls := [] } else c
  let s0 := (s.forks.filter (fun f => sel f.wg)).foldl State.squashFork s
  ({ s0 with ctxs := s0.ctxs.map stopC } : State).dropParked (fun id => sel id.wg)

/-- A core meets what the dispatcher has stopped since the last edge of its clock: the threads of those launches that it
holds stop, and their faults are discarded (R24, R60, R146). (DEDUCED, log entry 96.) -/
def State.meetStops (s : State) (core : Nat) : State :=
  let dead (n : Nat) : Bool := (s.core core).stops.contains n
  if (s.core core).stops.isEmpty then s
  else
    let here (g : Nat) : Bool := (match s.wg? g with
      | some w => w.core == core && dead w.launch
      | none => false)
    ((s.stopThreads here).dropFaults core dead).onCore core (fun c => { c with stops := [] })

/-- The cores that hold a workgroup, or something that has been used. -/
def State.coresInUse (s : State) : List Nat :=
  (s.cores.map Prod.fst ++ (s.wgs.filter (fun w => w.place == .resident)).map Workgroup.core).eraseDups

/-- A launch ends after placement with a status, and every unfinished descendant with ABORTED (R60): the dispatcher sends
them out no more; the threads of saved workgroups stop, and each core stops its own at the next edge of its clock (R24).
The grid's end itself is the event of R58. (DEDUCED, log entry 96.) -/
def State.failLaunch (s : State) (n status : Nat) : State :=
  let dead (m : Nat) : Bool :=
    s.descends n 12 m && (match s.launch? m with
      | some l => l.phase != .finished && l.status == 0
      | none => false)
  let away (g : Nat) : Bool := (match s.wg? g with
    | some w => w.place != .resident && dead w.launch
    | none => false)
  let gone := (s.launches.filter (fun l => dead l.num)).map Launch.num
  let stopL (l : Launch) : Launch := if gone.contains l.num then { l with status := if l.num == n then status else 7 } else l
  let s1 := s.stopThreads away
  let s2 := { s1 with launches := s1.launches.map stopL }
  s2.coresInUse.foldl (fun s k => s.onCore k (fun c => { c with stops := c.stops ++ gone })) s2

/-- A core makes a launch fail with a status: the dispatcher sees it at the next edge of its clock (R24, R60). (DEDUCED,
log entry 96.) -/
def State.reportFailure (s : State) (n status : Nat) : State :=
  s.onLaunch n (fun l => if l.failing.isNone then { l with failing := some (status, s.dcycle) } else l)

/-- The dispatcher meets the failures that cores have reported before this edge of its clock (R24, R60). -/
def State.meetFailures (s : State) : State :=
  s.launches.foldl (fun s l => match l.failing with
    | some e => if l.phase != .finished && l.status == 0 && decide (e.2 ≤ s.dcycle) then s.failLaunch l.num e.1 else s
    | none => s) s

/-- Launch statuses (R59). -/
def statusOK : Nat := 0
def statusDEPTH : Nat := 1
def statusGRID_STALL : Nat := 2
def statusREJECT_EFFECTS : Nat := 3
def statusDOUBLETRAP : Nat := 4
def statusBADLAUNCH : Nat := 5
def statusNOFIT : Nat := 6
def statusABORTED : Nat := 7

/-! ### Taking a trap and returning from one -/

/-- A context that enters its handler (R242). fpc is the trapping word's address, word what it holds. A halt that was to
take effect behind the trap is held; a forced one takes effect in the handler (R245). -/
def Ctx.enter (c : Ctx) (handler : Word) (cause : Nat) (addr fpc : Word) (word : Code) : Ctx :=
  { c with
    shadow := { v := [c.regs.get 0, c.regs.get 1, c.regs.get 2, c.regs.get 3], mode := c.regs.mode, fpc := fpc,
                rpc := c.pc },
    regs := { (((c.regs.put 0 (BitVec.ofNat 64 cause)).put 1 fpc).put 2 addr).put 3 (zext word) with mode := 0 },
    inHandler := true, haltReq := c.haltReq && c.forced, nested := c.haltReq && c.forced,
    heldHalt := c.heldHalt || (c.haltReq && !c.forced), pc := handler, inflight := [] }

/-- A trap is taken (R242, R244): the resume point is the context's program counter. In a handler, or with no handler,
the thread is killed and its launch fails with DOUBLETRAP, which the dispatcher sees at its next edge (R24). (DEDUCED, log
entry 12.) (DEDUCED, log entry 23.) -/
def State.takeTrap (s : State) (id : CtxId) (cause : Nat) (addr fpc : Word) (word : Code) : State :=
  match s.ctx? id with
  | none => s
  | some c =>
    match s.launchOf? id.wg with
    | none => s
    | some l =>
      match (if c.inHandler then none else l.handler) with
      | some h => ((s.trace c 0 fpc).dropParked (fun e => e == id)).onCtx id (fun c => c.enter h cause addr fpc word)
      | none => (s.exitThread id).reportFailure l.num statusDOUBLETRAP

/-- A context that leaves its handler (R243); a halt held for it takes effect here (R245). -/
def Ctx.leave (c : Ctx) : Ctx :=
  { c with
    regs := { (((c.regs.put 0 (c.shadow.v.getD 0 0)).put 1 (c.shadow.v.getD 1 0)).put 2 (c.shadow.v.getD 2 0)).put 3
                (c.shadow.v.getD 3 0) with mode := c.shadow.mode },
    inHandler := false, nested := false, pc := c.shadow.rpc, haltReq := c.haltReq || c.heldHalt, heldHalt := false }

/-- The return from a trap (R243, R438); its trace record names the resume point. (DEDUCED, log entry 23.) -/
def State.trapReturn (s : State) (id : CtxId) : State :=
  match s.ctx? id with
  | none => s
  | some c => (s.trace c 1 c.shadow.rpc).onCtx id Ctx.leave

/-- An outstanding access that never performs anything when an older trap discards it (R151). -/
def Flight.faulted (f : Flight) : Bool :=
  match f.what with
  | .trap _ _ => true
  | .parked _ _ => true
  | .retry => true
  | _ => false

/-- The trap that a context takes once it waits for it: its oldest outstanding instruction is a failed access, and
all the others are faulted ones, which are discarded (R150, R151). -/
def Ctx.trapNow (c : Ctx) : Option Flight :=
  match c.inflight with
  | [] => none
  | f :: fs => (match f.what with
    | .trap _ _ => if fs.all Flight.faulted then some f else none
    | _ => none)

/-- A context takes a trap that it waits for: the trap is the oldest of its outstanding instructions, and the next
instruction stands outside its window. -/
def State.settle (s : State) (id : CtxId) : State :=
  match s.ctx? id with
  | none => s
  | some c =>
    match c.trapNow with
    | none => s
    | some f =>
      if c.status = .running && decide (f.since ≥ f.look) && c.id.lvl == 0 then
        match f.what with
        | .trap cause addr => s.takeTrap id cause addr f.pc f.word
        | _ => s
      else s

/-- The word at which a context stands raises a trap of its own (R298, R350): the context goes on to the next word,
which is the resume point, and takes the trap when its earlier instructions have completed (R153, R243). (DEDUCED, log
entry 12.) -/
def State.raise (s : State) (id : CtxId) (cause : Nat) (addr : Word) : State :=
  let f : Flight := { num := s.nextNum, look := 0, since := 0, vdst := [], pdst := [], sdst := [], pc := s.cur.pc,
                      word := s.cur.word, what := .trap cause addr }
  let s1 := s.onCtx id (fun c => { c.goto (s.cur.pc + 4) with inflight := (c.goto (s.cur.pc + 4)).inflight ++ [f] })
  ({ s1 with nextNum := s1.nextNum + 1 }).settle id

/-! ### The shape of every lane instruction (R350) -/

/-- What a lane instruction does for one thread: a check of its word, a trap of the thread's own, its registers
after it, where it goes on, and what remains outstanding. -/
structure LaneDo where
  word : Ctx → Bool
  fault : Ctx → Option (Nat × Word)
  eff : Ctx → Regs
  next : Ctx → Option Word
  flight : Ctx → Option FlightKind

/-- A lane instruction that only changes registers. -/
def LaneDo.regs (eff : Ctx → Regs) : LaneDo :=
  { word := fun _ => true, fault := fun _ => none, eff := eff, next := fun _ => none, flight := fun _ => none }

/-- The prefix fields that act on the instruction that issues. -/
def State.pfx (s : State) (i : Instr) : Pfx := effPfx (shape i (s.cur.pfx.getD Pfx.none)) s.cur.pfx

/-- The shape of the instruction that issues. -/
def State.shp (s : State) (i : Instr) : Shape := shape i (s.pfx i)

/-- The bits of %warn that the word that issues records in each thread for which it acts (R299, R300). (DEDUCED, log
entry 17.) -/
def State.wordWarn (s : State) (i : Instr) : BitVec 9 :=
  (s.shp i).warn ||| pfxWarn (s.shp i) s.cur.pfx ||| s.cur.warn

/-- What a course's thread meets before its instruction has an effect: the checks on the word (R289), a poisoned
register (R154), whose trap names no address (v2 = 0), a trap of its own. (DEDUCED, log entry 22.) -/
def laneFault (s : State) (i : Instr) (d : LaneDo) (c : Ctx) : Option (Nat × Word) :=
  if !(regsOk (s.regsOf c) (s.shp i) (s.pfx i) && d.word c) then some (causeILLEGAL, 0)
  else if fate (s.shp i) (s.pfx i) c.regs = .acts then
    if readsPoison (s.shp i) (s.pfx i) c.regs then some (causeMEMERR, 0) else d.fault c
  else none

/-- The registers that Z leaves (R283, R350). -/
def zeroDest (x : Shape) (r : Regs) : Regs :=
  let r := (zeroRegs x).foldl (fun r n => r.putN n 0) r
  match x.pWrite with
  | some p => r.putPred p false
  | none => r

/-- What an instruction leaves outstanding (R38). -/
def newFlight (s : State) (x : Shape) (k : FlightKind) : Flight :=
  { num := s.nextNum, look := x.look.getD 0, since := 0, vdst := x.writes.map (BitVec.ofNat 6), pdst := x.pWrite.toList,
    sdst := x.sWrites.map (BitVec.ofNat 6), pc := s.cur.pc, word := s.cur.word, what := k }

/-- Bits of %warn recorded, before the instruction has its effect (R298). -/
def Ctx.warned (c : Ctx) (w : BitVec 9) : Ctx := { c with regs := { c.regs with warn := c.regs.warn ||| w } }

/-- A thread of the course for which the instruction acts. -/
def laneActs (s : State) (i : Instr) (d : LaneDo) (c : Ctx) : Ctx :=
  let c' := c.goto ((d.next c).getD (s.cur.pc + 4))
  { c' with regs := d.eff (c.warned (s.wordWarn i)),
            inflight := c'.inflight ++ (match d.flight c with
              | some k => [newFlight s (s.shp i) k]
              | none => []) }

/-- A thread of the course that meets no trap. -/
def laneCtx (s : State) (i : Instr) (d : LaneDo) (c : Ctx) : Ctx :=
  match fate (s.shp i) (s.pfx i) c.regs with
  | .acts => laneActs s i d c
  | .off => c.goto (s.cur.pc + 4)
  | .zeroed => { c.goto (s.cur.pc + 4) with regs := zeroDest (s.shp i) c.regs }

/-- The threads of the course that meet a trap, with what they meet. -/
def laneFaults (s : State) (i : Instr) (d : LaneDo) : List (CtxId × Nat × Word) :=
  s.cur.course.filterMap (fun id => (s.ctx? id).bind (fun c => (laneFault s i d c).map (fun e => (id, e.1, e.2))))

/-- Every context after the course has issued, traps apart. -/
def laneMap (s : State) (i : Instr) (d : LaneDo) : State :=
  { s with
    ctxs := s.ctxs.map (fun c =>
      if s.cur.course.contains c.id && (laneFault s i d c).isNone then laneCtx s i d c else c)
    nextNum := s.nextNum + 1 }

/-- A thread of the course meets a trap: the fallback bits of its word are recorded unless the word itself trapped
(R298). -/
def laneTrap (i : Instr) (s : State) (e : CtxId × Nat × Word) : State :=
  (if e.2.1 = causeILLEGAL then s
   else s.onCtx e.1 (fun c => c.warned (s.wordWarn i))).raise
    e.1 e.2.1 e.2.2

/-- A lane instruction for its course. -/
def lane (i : Instr) (d : LaneDo) (s : State) : State := (laneFaults s i d).foldl (laneTrap i) (laneMap s i d)

/-- The threads of the course for which the instruction acts and meets no trap. -/
def acting (s : State) (i : Instr) (d : LaneDo) : List Ctx :=
  s.cur.course.filterMap (fun id => (s.ctx? id).filter (fun c =>
    (laneFault s i d c).isNone && fate (s.shp i) (s.pfx i) c.regs = .acts))

/-- The outcome of every meaning: the machine goes on. -/
abbrev Out := Host.Outcome State Fault Refusal

/-- A lane instruction that only changes registers and is not outstanding afterwards. -/
def laneAlu (i : Instr) (eff : Ctx → Regs) (s : State) : Out := .next (lane i (LaneDo.regs eff) s)

/-- A lane instruction whose result is computed at issue and arrives later (R38, R39). -/
def laneLong (i : Instr) (eff : Ctx → Regs) (s : State) : Out :=
  .next (lane i { LaneDo.regs eff with flight := fun _ => some .result } s)

end Sys2Proof.Machine
end

