-- ==== Sys2Proof/Machine/IntAlu.lean ====
section
/-!
DEFINITION. Sys2Proof/Machine/IntAlu.lean: the integer instructions of the lane ALU pipe (R351, R355, R356, R363,
R369, R372, R396, R410, R412, R413, R418, R427, R430).
-/
namespace Sys2Proof.Machine

/-! ### Elements (R351, R355) -/

def addElem (w : Nat) (sat : Bool) (a b : Nat) : Nat :=
  if sat then clampTo w (signedOf w a + signedOf w b) else (a + b) % 2 ^ w

def subElem (w : Nat) (sat : Bool) (a b : Nat) : Nat :=
  if sat then clampTo w (signedOf w a - signedOf w b) else wrapTo w ((a : Int) - b)

def mulElem (w a b : Nat) : Nat := a * b % 2 ^ w

/-- Bits 2w − 1 to w of the exact product. -/
def mulhElem (w : Nat) (uns : Bool) (a b : Nat) : Nat :=
  if uns then a * b / 2 ^ w else wrapTo w (signedOf w a * signedOf w b / 2 ^ w)

/-- a ≤ b, read signed or unsigned. -/
def leElem (w : Nat) (uns : Bool) (a b : Nat) : Bool :=
  if uns then decide (a ≤ b) else decide (signedOf w a ≤ signedOf w b)

def minElem (w : Nat) (uns : Bool) (a b : Nat) : Nat := if leElem w uns a b then a else b
def maxElem (w : Nat) (uns : Bool) (a b : Nat) : Nat := if leElem w uns a b then b else a
def shlElem (w a b : Nat) : Nat := a * 2 ^ (b % w) % 2 ^ w
def shrElem (w a b : Nat) : Nat := a / 2 ^ (b % w)
def sarElem (w a b : Nat) : Nat := wrapTo w (signedOf w a / 2 ^ (b % w))
def rotElem (w a b : Nat) : Nat := (a * 2 ^ (b % w) + a / 2 ^ (w - b % w)) % 2 ^ w

/-- The number of one bits among the lowest n bits. -/
def popCount : Nat → Nat → Nat
  | 0, _ => 0
  | n + 1, x => x % 2 + popCount n (x / 2)

/-- The lowest n bits in reverse order. -/
def revBits : Nat → Nat → Nat
  | 0, _ => 0
  | n + 1, x => x % 2 * 2 ^ n + revBits n (x / 2)

def clzElem (w a : Nat) : Nat := if a = 0 then w else w - 1 - Nat.log2 a
def popcElem (w a : Nat) : Nat := popCount w a
def brevElem (w a : Nat) : Nat := revBits w a

def absElem (w : Nat) (sat : Bool) (a : Nat) : Nat :=
  if sat then clampTo w (signedOf w a).natAbs else wrapTo w (signedOf w a).natAbs

def negElem (w : Nat) (sat : Bool) (a : Nat) : Nat :=
  if sat then clampTo w (-signedOf w a) else wrapTo w (-signedOf w a)

def notElem (w a : Nat) : Nat := 2 ^ w - 1 - a % 2 ^ w

/-! ### The common forms -/

/-- v(d) from v(a) and v(b). -/
def put2 (f : LA) (g : Word → Word → Word) (c : Ctx) : Regs := c.regs.put f.d (g (c.regs.get f.a) (c.regs.get f.b))

/-- v(d) from v(a). -/
def put1 (f : LA) (g : Word → Word) (c : Ctx) : Regs := c.regs.put f.d (g (c.regs.get f.a))

/-- v(d) from v(a) and an immediate (R356). -/
def putImm (f : LI) (g : Word → Word → Word) (c : Ctx) : Regs := c.regs.put f.d (g (c.regs.get f.a) (sext f.imm))

/-- v(d) from v(a) by imm9[5:0] (R430). -/
def putShift (f : LI) (g : Word → Nat → Word) (c : Ctx) : Regs :=
  c.regs.put f.d (g (c.regs.get f.a) (f.imm.extractLsb' 0 6).toNat)

/-- The modifier T[2] (R286). -/
def tmod (f : LA) : Bool := f.t.getLsbD 2

/-! ### Meanings, in the order of the opcode table -/

/-- NOP (R418). -/
def execNop (f : LA) (s : State) : Out := laneAlu (.nop f) Ctx.regs s

/-- ADD (R355). -/
def execAdd (f : LA) (s : State) : Out :=
  laneAlu (.add f) (put2 f (zipElems (viewWidth f.t) (addElem (viewWidth f.t) (tmod f)))) s

/-- SUB (R355). -/
def execSub (f : LA) (s : State) : Out :=
  laneAlu (.sub f) (put2 f (zipElems (viewWidth f.t) (subElem (viewWidth f.t) (tmod f)))) s

/-- MUL (R355). -/
def execMul (f : LA) (s : State) : Out :=
  laneAlu (.mul f) (put2 f (zipElems (viewWidth f.t) (mulElem (viewWidth f.t)))) s

/-- MULH (R355). -/
def execMulh (f : LA) (s : State) : Out :=
  laneAlu (.mulh f) (put2 f (zipElems (viewWidth f.t) (mulhElem (viewWidth f.t) (tmod f)))) s

/-- The addend of MAD and FFMA: v(e) where the prefix supplies it, else v(d) (R283). -/
def addend (p : Pfx) (d : Reg) (r : Regs) : Word := if p.e = 0 then r.get d else r.get p.e

/-- The sum of a product element and an addend element, modulo 2^w (R410). -/
def madElems (w : Nat) (a b c : Word) : Word := zipElems w (addElem w false) (zipElems w (mulElem w) a b) c

/-- MAD (R410). -/
def execMad (f : LA) (s : State) : Out :=
  laneAlu (.mad f) (fun c => c.regs.put f.d (madElems (viewWidth f.t) (c.regs.get f.a) (c.regs.get f.b)
    (addend (s.pfx (.mad f)) f.d c.regs))) s

/-- MIN (R355). -/
def execMin (f : LA) (s : State) : Out :=
  laneAlu (.min f) (put2 f (zipElems (viewWidth f.t) (minElem (viewWidth f.t) (tmod f)))) s

/-- MAX (R355). -/
def execMax (f : LA) (s : State) : Out :=
  laneAlu (.max f) (put2 f (zipElems (viewWidth f.t) (maxElem (viewWidth f.t) (tmod f)))) s

/-- AND (R355). -/
def execAnd (f : LA) (s : State) : Out := laneAlu (.and f) (put2 f (fun a b => a &&& b)) s

/-- OR (R355). -/
def execOr (f : LA) (s : State) : Out := laneAlu (.or f) (put2 f (fun a b => a ||| b)) s

/-- XOR (R355). -/
def execXor (f : LA) (s : State) : Out := laneAlu (.xor f) (put2 f (fun a b => a ^^^ b)) s

/-- SHL (R355). -/
def execShl (f : LA) (s : State) : Out :=
  laneAlu (.shl f) (put2 f (zipElems (viewWidth f.t) (shlElem (viewWidth f.t)))) s

/-- SHR (R355). -/
def execShr (f : LA) (s : State) : Out :=
  laneAlu (.shr f) (put2 f (zipElems (viewWidth f.t) (shrElem (viewWidth f.t)))) s

/-- SAR (R355). -/
def execSar (f : LA) (s : State) : Out :=
  laneAlu (.sar f) (put2 f (zipElems (viewWidth f.t) (sarElem (viewWidth f.t)))) s

/-- ROT (R355). -/
def execRot (f : LA) (s : State) : Out :=
  laneAlu (.rot f) (put2 f (zipElems (viewWidth f.t) (rotElem (viewWidth f.t)))) s

/-- CLZ (R351). -/
def execClz (f : LA) (s : State) : Out :=
  laneAlu (.clz f) (put1 f (mapElems (viewWidth f.t) (clzElem (viewWidth f.t)))) s

/-- POPC (R351). -/
def execPopc (f : LA) (s : State) : Out :=
  laneAlu (.popc f) (put1 f (mapElems (viewWidth f.t) (popcElem (viewWidth f.t)))) s

/-- BREV (R351). -/
def execBrev (f : LA) (s : State) : Out :=
  laneAlu (.brev f) (put1 f (mapElems (viewWidth f.t) (brevElem (viewWidth f.t)))) s

/-- ABS (R351). -/
def execAbs (f : LA) (s : State) : Out :=
  laneAlu (.abs f) (put1 f (mapElems (viewWidth f.t) (absElem (viewWidth f.t) (tmod f)))) s

/-- NEG (R351). -/
def execNeg (f : LA) (s : State) : Out :=
  laneAlu (.neg f) (put1 f (mapElems (viewWidth f.t) (negElem (viewWidth f.t) (tmod f)))) s

/-- NOT (R351). -/
def execNot (f : LA) (s : State) : Out :=
  laneAlu (.not f) (put1 f (mapElems (viewWidth f.t) (notElem (viewWidth f.t)))) s

/-- The condition that d[5:3] selects (R288). -/
def condField (d : Reg) : BitVec 3 := d.extractLsb' 3 3

/-- CMP (R372): element 0 of the view, signed, or unsigned when T[2] is set. -/
def execCmp (f : LA) (s : State) : Out :=
  laneAlu (.cmp f) (fun c => c.regs.putPred (predField f.d)
    (intCond (condField f.d) (viewWidth f.t) (tmod f) (elemAt (viewWidth f.t) (c.regs.get f.a).toNat 0)
      (elemAt (viewWidth f.t) (c.regs.get f.b).toNat 0))) s

/-- SEL (R427). -/
def execSel (f : LA) (s : State) : Out :=
  laneAlu (.sel f) (fun c => c.regs.put f.d (if c.regs.pred f.t then c.regs.get f.a else c.regs.get f.b)) s

/-- The width of a bit field that v(b) describes, cut at bit 63 (R363). -/
def fieldWidth (b : Word) : Nat := min (b.extractLsb' 8 7).toNat (64 - (b.extractLsb' 0 6).toNat)

/-- BFX's result (R363). -/
def bfxWord (a b : Word) : Word :=
  let pos := (b.extractLsb' 0 6).toNat
  let wid := fieldWidth b
  let x := a.toNat / 2 ^ pos % 2 ^ wid
  if b.getLsbD 16 && decide (wid > 0) then sextNat wid x else BitVec.ofNat 64 x

/-- BFI's result (R363). -/
def bfiWord (d a b : Word) : Word :=
  let pos := (b.extractLsb' 0 6).toNat
  let m : Word := BitVec.ofNat 64 ((2 ^ fieldWidth b - 1) * 2 ^ pos)
  (d &&& ~~~m) ||| ((a <<< pos) &&& m)

/-- BFX (R363). -/
def execBfx (f : LA) (s : State) : Out := laneAlu (.bfx f) (put2 f bfxWord) s

/-- BFI (R363). -/
def execBfi (f : LA) (s : State) : Out :=
  laneAlu (.bfi f) (fun c => c.regs.put f.d (bfiWord (c.regs.get f.d) (c.regs.get f.a) (c.regs.get f.b))) s

/-- BSRD's registers (R369): the field, the cursor, the refill after the field, and p7. The refill takes v(b+1) as it stood at
the issue, also where that is v(d). (DESIGN CHOICE, log entry 133.) -/
def bsrdRegs (f : LA) (r : Regs) : Regs :=
  let n := (r.get f.a).toNat % 64
  let hi := r.getN (f.b.toNat + 1)
  let w := (r.get f.b).toNat + hi.toNat * 2 ^ 64
  let c := r.bcur.toNat
  let r1 := r.put f.d (BitVec.ofNat 64 (w / 2 ^ c % 2 ^ n))
  if c + n ≥ 64 then
    let r2 := (r1.put f.b hi).putN (f.b.toNat + 1) 0
    { r2.putPred 7 true with bcur := BitVec.ofNat 6 (c + n - 64) }
  else { r1.putPred 7 false with bcur := BitVec.ofNat 6 (c + n) }

/-- BSRD (R369). -/
def execBsrd (f : LA) (s : State) : Out := laneAlu (.bsrd f) (fun c => bsrdRegs f c.regs) s

/-- MOV (R412). -/
def execMov (f : LA) (s : State) : Out := laneAlu (.mov f) (put1 f (fun a => a)) s

/-- MOVS (R412). -/
def execMovs (f : LA) (s : State) : Out := laneAlu (.movs f) (fun c => c.regs.put f.d (s.sregOf c f.a)) s

/-- ADDI (R356). -/
def execAddi (f : LI) (s : State) : Out := laneAlu (.addi f) (putImm f (fun a b => a + b)) s

/-- ANDI (R356). -/
def execAndi (f : LI) (s : State) : Out := laneAlu (.andi f) (putImm f (fun a b => a &&& b)) s

/-- ORI (R356). -/
def execOri (f : LI) (s : State) : Out := laneAlu (.ori f) (putImm f (fun a b => a ||| b)) s

/-- XORI (R356). -/
def execXori (f : LI) (s : State) : Out := laneAlu (.xori f) (putImm f (fun a b => a ^^^ b)) s

/-- SHLI (R430). -/
def execShli (f : LI) (s : State) : Out := laneAlu (.shli f) (putShift f (fun a n => a <<< n)) s

/-- SHRI (R430). -/
def execShri (f : LI) (s : State) : Out := laneAlu (.shri f) (putShift f (fun a n => a >>> n)) s

/-- SARI (R430). -/
def execSari (f : LI) (s : State) : Out := laneAlu (.sari f) (putShift f (fun a n => a.sshiftRight n)) s

/-- ROTI (R430). -/
def execRoti (f : LI) (s : State) : Out := laneAlu (.roti f) (putShift f (fun a n => a.rotateLeft n)) s

/-- CMPI (R372): the whole register, signed. -/
def execCmpi (f : LI) (s : State) : Out :=
  laneAlu (.cmpi f) (fun c => c.regs.putPred (predField f.d)
    (intCond (condField f.d) 64 false (c.regs.get f.a).toNat (sext f.imm).toNat)) s

/-- The 15-bit value of MOVI, sign-extended (R282). -/
def moviValue (f : LI) : Word := sext (f.a ++ f.imm)

/-- MOVI (R413). -/
def execMovi (f : LI) (s : State) : Out := laneAlu (.movi f) (fun c => c.regs.put f.d (moviValue f)) s

/-- One accumulator of IDP8 or IDP4: the exact sum of n signed products of width w from element i on (R396). -/
def idpElem (w n j : Nat) (sat : Bool) (acc a b : Word) : Nat :=
  let sum : Int := (List.zipWith (fun x y => signedOf w x * signedOf w y) (elemsFrom w a.toNat (n * j) n)
    (elemsFrom w b.toNat (n * j) n)).foldl (· + ·) (signedOf 32 (elemAt 32 acc.toNat j))
  if sat then clampTo 32 sum else wrapTo 32 sum

/-- Both accumulators of IDP8 or IDP4 (R396). -/
def idpWord (w n : Nat) (sat : Bool) (acc a b : Word) : Word :=
  packElems 32 [idpElem w n 0 sat acc a b, idpElem w n 1 sat acc a b]

/-- IDP8 (R396). -/
def execIdp8 (f : LA) (s : State) : Out :=
  laneAlu (.idp8 f) (fun c => c.regs.put f.d (idpWord 8 4 ((s.pfx (.idp8 f)).sat == 1) (c.regs.get f.d)
    (c.regs.get f.a) (c.regs.get f.b))) s

/-- IDP4 (R396). -/
def execIdp4 (f : LA) (s : State) : Out :=
  laneAlu (.idp4 f) (fun c => c.regs.put f.d (idpWord 4 8 ((s.pfx (.idp4 f)).sat == 1) (c.regs.get f.d)
    (c.regs.get f.a) (c.regs.get f.b))) s

end Sys2Proof.Machine
end

