-- ==== Sys2Proof/Machine/Trans.lean ====
section
/-!
DEFINITION. Sys2Proof/Machine/Trans.lean: the transcendental group (R387). FRCP, FRSQ and FSQRT are exact with a
sticky remainder. FEX2, FLG2, FSIN and FCOS are enclosed between two fixed-point numbers that round alike; the
value of the function lies strictly between them, so the result is the correctly rounded one.
-/
namespace Sys2Proof.Machine

/-- The integer square root, rounded down, by bits: bit k − 1 first. -/
def isqrtLoop (n : Nat) : Nat → Nat → Nat
  | 0, r => r
  | k + 1, r => if (r + 2 ^ k) * (r + 2 ^ k) ≤ n then isqrtLoop n k (r + 2 ^ k) else isqrtLoop n k r

/-- The integer square root, rounded down. -/
def isqrt (n : Nat) : Nat := isqrtLoop n (Nat.log2 n / 2 + 1) 0

/-- The square root of m · 2^e to about 128 bits, with what is left over as sticky. -/
def sqrtMag (m : Nat) (e : Int) : Nat × Int × Bool :=
  let e0 := if e % 2 == 0 then e - 256 else e - 257
  let n := m * 2 ^ (e - e0).toNat
  let r := isqrt n
  (r, e0 / 2, r * r != n)

/-- The reciprocal square root of m · 2^e to about 128 bits, with what is left over as sticky. -/
def rsqrtMag (m : Nat) (e : Int) : Nat × Int × Bool :=
  let k : Nat := if e % 2 == 0 then 320 else 321
  let n := 2 ^ k / m
  let r := isqrt n
  (r, (-e - (k : Int)) / 2, 2 ^ k % m != 0 || r * r != n)

/-! ### Enclosures: a pair (lo, hi) of integers in units of 2^−p with lo ≤ value ≤ hi -/

/-- An enclosure. -/
abbrev Encl := Int × Int

/-- Division rounded up. -/
def cdiv (a b : Int) : Int := -((-a) / b)

def Encl.add (x y : Encl) : Encl := (x.1 + y.1, x.2 + y.2)
def Encl.sub (x y : Encl) : Encl := (x.1 - y.2, x.2 - y.1)
def Encl.scale (k : Int) (x : Encl) : Encl := if k < 0 then (k * x.2, k * x.1) else (k * x.1, k * x.2)

/-- The product, in units of 2^−p. -/
def Encl.mul (p : Nat) (x y : Encl) : Encl :=
  let a := x.1 * y.1
  let b := x.1 * y.2
  let c := x.2 * y.1
  let d := x.2 * y.2
  (min (min a b) (min c d) / 2 ^ p, cdiv (max (max a b) (max c d)) (2 ^ p))

/-- The quotient by a positive integer. -/
def Encl.divNat (x : Encl) (n : Nat) : Encl := (x.1 / n, cdiv x.2 n)

/-- Widened by r on both sides. -/
def Encl.widen (x : Encl) (r : Int) : Encl := (x.1 - r, x.2 + r)

/-- The sum of t/(j) over the odd j from j on, each next t multiplied by z2: the tail of an arctangent (z2 < 0) or
of its hyperbolic twin. -/
def oddSeries (p : Nat) (z2 : Encl) : Nat → Nat → Encl → Encl → Encl
  | 0, _, _, acc => acc
  | n + 1, j, t, acc => oddSeries p z2 n (j + 2) (t.mul p z2) (acc.add (t.divNat j))

/-- The enclosure of artanh z for 0 ≤ z ≤ 1/3, from n terms; the terms left out sum to less than 3^−(2n). -/
def artanhEncl (p n : Nat) (z : Encl) : Encl :=
  (oddSeries p (z.mul p z) n 1 z (0, 0)).widen (2 ^ p / 3 ^ (2 * n) + 1)

/-- ln 2 = 2 artanh(1/3). -/
def ln2Encl (p n : Nat) : Encl :=
  let third : Encl := (2 ^ p / 3, cdiv (2 ^ p) 3)
  (artanhEncl p n third).scale 2

/-- The enclosure of arctan(1/k), from n terms. -/
def arctanInvEncl (p n k : Nat) : Encl :=
  let z : Encl := (2 ^ p / k, cdiv (2 ^ p) k)
  (oddSeries p ((z.mul p z).scale (-1)) n 1 z (0, 0)).widen (2 ^ p / k ^ (2 * n) + 1)

/-- π/2 = 8 arctan(1/5) − 2 arctan(1/239). -/
def halfPiEncl (p n : Nat) : Encl :=
  ((arctanInvEncl p n 5).scale 8).sub ((arctanInvEncl p n 239).scale 2)

/-- The sum of a factorial series: term t, next term t · y / (j · (j + 1)) when two is set, else t · y / j. -/
def factSeries (p : Nat) (y : Encl) (two : Bool) : Nat → Nat → Encl → Encl → Encl
  | 0, _, t, acc => acc.widen (2 * max t.1.natAbs t.2.natAbs + 1)
  | n + 1, j, t, acc =>
    let t' := (t.mul p y).divNat (if two then j * (j + 1) else j)
    factSeries p y two n (if two then j + 2 else j + 1) t' (acc.add t)

/-- e^y for 0 ≤ y < 1, from n terms. -/
def expEncl (p n : Nat) (y : Encl) : Encl := factSeries p y false n 1 (2 ^ p, 2 ^ p) (0, 0)

/-- sin y for |y| < 1, from n terms. -/
def sinEncl (p n : Nat) (y : Encl) : Encl := factSeries p ((y.mul p y).scale (-1)) true n 2 y (0, 0)

/-- cos y for |y| < 1, from n terms. -/
def cosEncl (p n : Nat) (y : Encl) : Encl := factSeries p ((y.mul p y).scale (-1)) true n 1 (2 ^ p, 2 ^ p) (0, 0)

/-- A nonzero value strictly inside an enclosure of one sign, times 2^k, rounded, when both ends round alike. -/
def Encl.round (env : FEnv) (p : Nat) (x : Encl) (k : Int) : Option FOut :=
  let neg := decide (x.1 < 0)
  if decide (x.1 < 0) && decide (x.2 > 0) || decide (x.1 == x.2) then none
  else
    let a := if neg then (-x.2).toNat else x.1.toNat
    let b := if neg then (-x.1).toNat - 1 else x.2.toNat - 1
    if a == 0 then none
    else
      let lo := fp32.roundMag env neg a (k - p) true
      let hi := fp32.roundMag env neg b (k - p) true
      if lo == hi then some lo else none

/-- 2^x for x = ±m · 2^e with |x| < 512, as an enclosure and a power of two. -/
def exp2Encl (p n : Nat) (neg : Bool) (m : Nat) (e : Int) : Encl × Int :=
  let u := min e 0
  let mag : Int := (m : Int) * 2 ^ (e - u).toNat
  let x : Int := if neg then -mag else mag
  let d : Int := 2 ^ (-u).toNat
  let k := x / d
  let f := x % d
  let fx : Encl := (f * 2 ^ p / d, cdiv (f * 2 ^ p) d)
  (expEncl p n (fx.mul p (ln2Encl p n)), k)

/-- log2 of m · 2^e, m not a power of two. -/
def log2Encl (p n : Nat) (m : Nat) (e : Int) : Encl :=
  let k := Nat.log2 m
  let z : Encl := (((m : Int) - 2 ^ k) * 2 ^ p / (m + 2 ^ k), cdiv (((m : Int) - 2 ^ k) * 2 ^ p) (m + 2 ^ k))
  let ln := (artanhEncl p n z).scale 2
  let l2 := ln2Encl p n
  let q : Encl := (ln.1 * 2 ^ p / l2.2, cdiv (ln.2 * 2 ^ p) l2.1)
  q.add ((e + k) * 2 ^ p, (e + k) * 2 ^ p)

/-- sin (or cos) of ±m · 2^e. The argument is reduced exactly to r + j·π/2 with |r| at most about π/4. -/
def sinCosEncl (p n : Nat) (cos neg : Bool) (m : Nat) (e : Int) : Encl :=
  let g := p + 160
  let hp := halfPiEncl g n
  let sh := e + (g : Int)
  let mag : Encl := if 0 ≤ sh then ((m : Int) * 2 ^ sh.toNat, (m : Int) * 2 ^ sh.toNat)
    else ((m : Int) / 2 ^ (-sh).toNat, cdiv m (2 ^ (-sh).toNat))
  let j := (mag.1 + hp.1 / 2) / hp.1
  let r0 := mag.sub (hp.scale j)
  let r : Encl := (r0.1 / 2 ^ 160, cdiv r0.2 (2 ^ 160))
  let quad := ((if cos then j + 1 else j) % 4).toNat
  let v := if quad % 2 == 0 then sinEncl p n r else cosEncl p n r
  let flip := (quad ≥ 2) != (neg && !cos)
  if flip then v.scale (-1) else v

/-- A number for each rounding mode. -/
def RMode.code : RMode → Nat
  | .rne => 0
  | .rtz => 1
  | .rup => 2
  | .rdn => 3
  | .rna => 4
  | .sr b q => 5 + 2 ^ b + q

/-- The first of two precisions that decides; otherwise the value that Config leaves open (log entry 8). -/
def decideTrans (env : FEnv) (code x : Nat) (f : Nat → Nat → Encl × Int) : FOut :=
  let tryAt (p n : Nat) : Option FOut := let r := f p n; r.1.round env p r.2
  match tryAt 520 200 with
  | some o => o
  | none =>
    match tryAt 1100 400 with
    | some o => o
    | none =>
      { bits := (Config.undecided code (BitVec.ofNat 32 x) env.mode.code).toNat, flags := flagNX,
        nanLost := false }

/-- A zero result of a sign, exact. -/
def zeroOut (neg : Bool) : FOut := { bits := fp32.signed neg 0, flags := 0, nanLost := false }

/-- An infinity that raises DZ (R387). -/
def dzOut (env : FEnv) (neg : Bool) : FOut :=
  let o := fp32.infOut env neg
  { o with flags := o.flags ||| flagDZ }

/-- One FP32 element of the transcendental group, by function code (R387). -/
def transElem (env : FEnv) (code x : Nat) : FOut :=
  match fp32.operand env x with
  | .nan s => fp32.nanOut s
  | .inf n =>
    match code with
    | 0 => zeroOut n
    | 1 => if n then fp32.nanOut true else zeroOut false
    | 2 => if n then fp32.nanOut true else fp32.infOut env false
    | 3 => if n then zeroOut false else fp32.infOut env false
    | 4 => if n then fp32.nanOut true else fp32.infOut env false
    | _ => fp32.nanOut true
  | .fin n m e =>
    if m == 0 then
      match code with
      | 0 => dzOut env n
      | 1 => dzOut env n
      | 2 => zeroOut n
      | 3 => fp32.roundMag env false 1 0 false
      | 4 => dzOut env true
      | 5 => zeroOut n
      | _ => fp32.roundMag env false 1 0 false
    else
      match code with
      | 0 => let q := divMag 1 0 m e; fp32.roundMag env n q.1 q.2.1 q.2.2
      | 1 => if n then fp32.nanOut true else let q := rsqrtMag m e; fp32.roundMag env false q.1 q.2.1 q.2.2
      | 2 => if n then fp32.nanOut true else let q := sqrtMag m e; fp32.roundMag env false q.1 q.2.1 q.2.2
      | 3 =>
        if leadExp m e ≥ 9 then
          -- beyond every finite result: the magnitude overflows, or is far below every subnormal
          fp32.roundMag env false (2 ^ 200) (if n then -1200 else 1000) true
        else if 0 ≤ e then
          fp32.roundMag env false 1 (if n then -((m : Int) * 2 ^ e.toNat) else (m : Int) * 2 ^ e.toNat) false
        else if m % 2 ^ (-e).toNat == 0 then
          let k : Int := (m : Int) / 2 ^ (-e).toNat
          fp32.roundMag env false 1 (if n then -k else k) false
        else decideTrans env 3 x (fun p t => exp2Encl p t n m e)
      | 4 =>
        if n then fp32.nanOut true
        else if m == 2 ^ Nat.log2 m then
          let k := leadExp m e
          fp32.roundMag env (decide (k < 0)) k.natAbs 0 false
        else decideTrans env 4 x (fun p t => (log2Encl p t m e, 0))
      | 5 => decideTrans env 5 x (fun p t => (sinCosEncl p t false n m e, 0))
      | _ => decideTrans env 6 x (fun p t => (sinCosEncl p t true n m e, 0))

end Sys2Proof.Machine
end

