-- ==== Sys2Proof/Machine/FloatOps.lean ====
section
/-!
DEFINITION. Sys2Proof/Machine/FloatOps.lean: the floating instructions of the lanes (R377 to R384, R387 to R389)
and the generator's (R424).
-/
namespace Sys2Proof.Machine

/-! ### Modes, draws and flags -/

/-- The rounding code that %mode.RM gives, reserved codes rounding RNE (R110). -/
def modeCode (r : Regs) : Nat := if (r.mode.toNat % 8) ≤ 5 then r.mode.toNat % 8 else 0

/-- The rounding code of an instruction: its prefix's, or %mode's (R110). -/
def roundCode (p : Pfx) (r : Regs) : Nat :=
  if p.rnd.toNat = 0 ∨ p.rnd.toNat = 7 then modeCode r else p.rnd.toNat - 1

/-- A reserved %mode.RM that an instruction uses (R110, R300). -/
def roundWarn (p : Pfx) (r : Regs) : BitVec 9 :=
  warnIf ((p.rnd == 0 || p.rnd == 7) && decide (r.mode.toNat % 8 ≥ 6)) warnRNDRES

/-- A rounding mode by its code; SR carries the bits that element i of k takes from the draw (R111). -/
def modeOf (code : Nat) (z : Word) (k i : Nat) : RMode :=
  match code with
  | 0 => .rne
  | 1 => .rtz
  | 2 => .rup
  | 3 => .rdn
  | 4 => .rna
  | _ => RMode.elem (.sr 0 0) z k i

/-- How element i of k rounds (R110, R111, R114). -/
def fenv (p : Pfx) (r : Regs) (z : Word) (k i : Nat) : FEnv :=
  { mode := modeOf (roundCode p r) z k i, ftzi := r.mode.getLsbD 3, ftzo := r.mode.getLsbD 4, sat := p.sat == 1 }

/-- The draw of an instruction that rounds under SR, one for all its elements (R111). -/
def roundDraw (p : Pfx) (r : Regs) : Word × Regs := if roundCode p r = 5 then r.draw else (0, r)

/-- The flags and the lost NaNs of a list of results. -/
def outFlags (l : List FOut) : BitVec 5 := l.foldl (fun a o => a ||| o.flags) 0
def outLost (l : List FOut) : Bool := l.any FOut.nanLost

/-- A register of results with their flags (R116). -/
def putOuts (r : Regs) (d : Reg) (w : Nat) (l : List FOut) : Regs :=
  { r.put d (packElems w (l.map FOut.bits)) with
    fflags := r.fflags ||| outFlags l, warn := r.warn ||| warnIf (outLost l) warnNANLOST }

/-- A rounding instruction that writes k elements of width w into v(d), element i by op (R377). -/
def roundInto (p : Pfx) (r : Regs) (d : Reg) (w : Nat) (op : FEnv → Nat → FOut) : Regs :=
  let k := 64 / w
  let z := roundDraw p r
  let outs := (List.range k).map (fun i => op (fenv p r z.1 k i) i)
  let r' := putOuts z.2 d w outs
  { r' with warn := r'.warn ||| roundWarn p r }

/-- Element i of a register in a floating format's view. -/
def felem (f : Fmt) (x : Word) (i : Nat) : Nat := elemAt f.width x.toNat i

/-- A rounding instruction of two sources in the view of T (R377, R378). -/
def float2 (p : Pfx) (f : LA) (op : Fmt → FEnv → Nat → Nat → FOut) (c : Ctx) : Regs :=
  let v := floatView f.t
  roundInto p c.regs f.d v.width (fun env i => op v env (felem v (c.regs.get f.a) i) (felem v (c.regs.get f.b) i))

/-! ### Lane ALU pipe -/

/-- FADD (R378). -/
def execFadd (f : LA) (s : State) : Out := laneAlu (.fadd f) (float2 (s.pfx (.fadd f)) f Fmt.add) s

/-- FSUB (R378). -/
def execFsub (f : LA) (s : State) : Out := laneAlu (.fsub f) (float2 (s.pfx (.fsub f)) f Fmt.sub) s

/-- FMUL (R378). -/
def execFmul (f : LA) (s : State) : Out := laneAlu (.fmul f) (float2 (s.pfx (.fmul f)) f Fmt.mul) s

/-- FFMA's registers (R378). -/
def ffmaRegs (p : Pfx) (f : LA) (c : Ctx) : Regs :=
  let v := floatView f.t
  roundInto p c.regs f.d v.width (fun env i =>
    v.fma env (felem v (c.regs.get f.a) i) (felem v (c.regs.get f.b) i) (felem v (addend p f.d c.regs) i))

/-- FFMA (R378). -/
def execFfma (f : LA) (s : State) : Out := laneAlu (.ffma f) (ffmaRegs (s.pfx (.ffma f)) f) s

/-- FMIN or FMAX (R379): nothing is rounded. -/
def minMaxRegs (max : Bool) (f : LA) (c : Ctx) : Regs :=
  let v := floatView f.t
  let env := fenv Pfx.none c.regs 0 1 0
  putOuts c.regs f.d v.width ((List.range (64 / v.width)).map (fun i =>
    v.minMax env max (felem v (c.regs.get f.a) i) (felem v (c.regs.get f.b) i)))

/-- FMIN (R379). -/
def execFmin (f : LA) (s : State) : Out := laneAlu (.fmin f) (minMaxRegs false f) s

/-- FMAX (R379). -/
def execFmax (f : LA) (s : State) : Out := laneAlu (.fmax f) (minMaxRegs true f) s

/-- FCMP's registers (R380): element 0 of its view. -/
def fcmpRegs (f : LA) (c : Ctx) : Regs :=
  let v := floatView f.t
  let env := fenv Pfx.none c.regs 0 1 0
  let o := floatCond (condField f.d) (v.operand env (felem v (c.regs.get f.a) 0))
    (v.operand env (felem v (c.regs.get f.b) 0))
  { c.regs.putPred (predField f.d) o.1 with fflags := c.regs.fflags ||| o.2 }

/-- FCMP (R380). -/
def execFcmp (f : LA) (s : State) : Out := laneAlu (.fcmp f) (fcmpRegs f) s

/-- Source element i of FCVT (R381). -/
def fcvtElemAt (f : LA) (r : Regs) (i : Nat) : Nat :=
  let sw := fcvtWidth (fcvtSrc f)
  let dw := fcvtWidth (fcvtDst f)
  if sw < dw then elemAt sw (r.get f.a).toNat (f.t.toNat % fcvtParts f * (64 / dw) + i)
  else elemAt sw (r.getN (f.a.toNat + i / (64 / sw))).toNat (i % (64 / sw))

/-- FCVT's registers (R291, R381, R382). (DEDUCED, log entry 15.) -/
def fcvtRegs (p : Pfx) (f : LA) (c : Ctx) : Regs :=
  if fcvtCopies f then
    { c.regs.put f.d (c.regs.get f.a) with warn := (c.regs.put f.d (c.regs.get f.a)).warn ||| roundWarn p c.regs }
  else roundInto p c.regs f.d (fcvtWidth (fcvtDst f)) (fun env i =>
    fcvtElem env (fcvtSrc f) (fcvtDst f) (fcvtElemAt f c.regs i))

/-- FCVT (R381, R382). -/
def execFcvt (f : LA) (s : State) : Out := laneAlu (.fcvt f) (fcvtRegs (s.pfx (.fcvt f)) f) s

/-- FRND (R388). -/
def execFrnd (f : LA) (s : State) : Out :=
  laneAlu (.frnd f) (fun c => roundInto (s.pfx (.frnd f)) c.regs f.d (floatView f.t).width (fun env i =>
    (floatView f.t).toIntegral env (felem (floatView f.t) (c.regs.get f.a) i))) s

/-- The KS24 that scales element i (R389). -/
def scaleOf (v : Fmt) (b : Word) (i : Nat) : Nat := (if v = fp32 then elemAt 32 b.toNat i else b.toNat) % 2 ^ 24

/-- FSCL (R389). -/
def execFscl (f : LA) (s : State) : Out :=
  laneAlu (.fscl f) (fun c => roundInto (s.pfx (.fscl f)) c.regs f.d (floatView f.t).width (fun env i =>
    (floatView f.t).scale env (felem (floatView f.t) (c.regs.get f.a) i) (scaleOf (floatView f.t) (c.regs.get f.b) i))) s

/-- One accumulator of a dot product: n products of elements of two formats from element n·j on (R117, R384).
(DEDUCED, log entry 14.) -/
def dotElem (fa fb : Fmt) (n : Nat) (env : FEnv) (acc a b : Word) (j : Nat) : FOut :=
  let prods := List.zipWith (fun x y => (fa.decode x).mul (fb.decode y)) (elemsFrom fa.width a.toNat (n * j) n)
    (elemsFrom fb.width b.toNat (n * j) n)
  fp32.finish env (.sum env.rdn (fp32.operand env (elemAt 32 acc.toNat j) :: prods))

/-- The element format of FDP8 (R286). -/
def dp8Fmt (t : Bool) : Fmt := if t then e5m2 else e4m3

/-- FDP8 (R384). -/
def execFdp8 (f : LA) (s : State) : Out :=
  laneAlu (.fdp8 f) (fun c => roundInto (s.pfx (.fdp8 f)) c.regs f.d 32 (fun env j =>
    dotElem (dp8Fmt (f.t.getLsbD 0)) (dp8Fmt (f.t.getLsbD 1)) 4 env (c.regs.get f.d) (c.regs.get f.a)
      (c.regs.get f.b) j)) s

/-- FDP4 (R384). -/
def execFdp4 (f : LA) (s : State) : Out :=
  laneAlu (.fdp4 f) (fun c => roundInto (s.pfx (.fdp4 f)) c.regs f.d 32 (fun env j =>
    dotElem e2m1 e2m1 8 env (c.regs.get f.d) (c.regs.get f.a) (c.regs.get f.b) j)) s

/-! ### Lane long-latency pipe -/

/-- FDIV (R383). -/
def execFdiv (f : LX) (s : State) : Out :=
  laneLong (.fdiv f) (fun c => roundInto (s.pfx (.fdiv f)) c.regs f.d 32 (fun env i =>
    fp32.div env (felem fp32 (c.regs.get f.a) i) (felem fp32 (c.regs.get f.b) i))) s

/-- A function of the transcendental group on both FP32 elements (R387). -/
def transRegs (p : Pfx) (code : Nat) (f : LX) (c : Ctx) : Regs :=
  roundInto p c.regs f.d 32 (fun env i => transElem env code (felem fp32 (c.regs.get f.a) i))

/-- FRCP (R387). -/
def execFrcp (f : LX) (s : State) : Out := laneLong (.frcp f) (transRegs (s.pfx (.frcp f)) 0 f) s

/-- FRSQ (R387). -/
def execFrsq (f : LX) (s : State) : Out := laneLong (.frsq f) (transRegs (s.pfx (.frsq f)) 1 f) s

/-- FSQRT (R387). -/
def execFsqrt (f : LX) (s : State) : Out := laneLong (.fsqrt f) (transRegs (s.pfx (.fsqrt f)) 2 f) s

/-- FEX2 (R387). -/
def execFex2 (f : LX) (s : State) : Out := laneLong (.fex2 f) (transRegs (s.pfx (.fex2 f)) 3 f) s

/-- FLG2 (R387). -/
def execFlg2 (f : LX) (s : State) : Out := laneLong (.flg2 f) (transRegs (s.pfx (.flg2 f)) 4 f) s

/-- FSIN (R387). -/
def execFsin (f : LX) (s : State) : Out := laneLong (.fsin f) (transRegs (s.pfx (.fsin f)) 5 f) s

/-- FCOS (R387). -/
def execFcos (f : LX) (s : State) : Out := laneLong (.fcos f) (transRegs (s.pfx (.fcos f)) 6 f) s

/-- RND (R424). -/
def execRnd (f : LX) (s : State) : Out := laneLong (.rnd f) (fun c => c.regs.draw.2.put f.d c.regs.draw.1) s

/-- The FP32 code of n · 2^−24 for n below 2^24 (R122). -/
def unitFloat (n : Nat) : Nat := (fp32.roundMag FEnv.plain false n (-24) false).bits

/-- RNDF (R122, R424). -/
def execRndf (f : LX) (s : State) : Out :=
  laneLong (.rndf f) (fun c =>
    let z := c.regs.draw.1.toNat
    c.regs.draw.2.put f.d (packElems 32 [unitFloat (elemAt 32 z 0 / 256), unitFloat (elemAt 32 z 1 / 256)])) s

end Sys2Proof.Machine
end

