-- ==== Sys2Proof/Machine/Access.lean ====
section
/-!
DEFINITION. Sys2Proof/Machine/Access.lean: loads, stores and atomics (R352, R353, R361, R404, R405, R420, R431,
R433, R434), their completion, and translation faults from record to replay (R143 to R149).
-/
namespace Sys2Proof.Machine

/-! ### Threads as readers -/

/-- The launch and workgroup of a context. -/
def State.home? (s : State) (c : Ctx) : Option (Launch × Workgroup) :=
  (s.wg? c.id.wg).bind (fun w => (s.launch? w.launch).map (fun l => (l, w)))

/-- The fork that a continuation belongs to (R203). -/
def State.forkOf (s : State) (id : CtxId) : Option Fork :=
  s.forks.find? (fun f => f.wg == id.wg && f.tix == id.tix && f.depth == id.lvl)

/-- The byte of a continuation's own fork buffer, from its stores before a number (R205, R221). -/
def bufferByte (upto key : Nat) : List BufStore → Option Byte → Option Byte
  | [], acc => acc
  | b :: bs, acc =>
    if decide (b.num < upto) && decide (b.key ≤ key) && decide (key < b.key + b.bytes.length) then
      bufferByte upto key bs (some (b.bytes.getD (key - b.key) 0))
    else bufferByte upto key bs acc

/-- The byte that a context's own fork buffer holds for it: the thread itself has none (R205, R206). -/
def State.ownBuffer (s : State) (c : Ctx) (upto key : Nat) : Option Byte :=
  if c.id.lvl = 0 then none else (s.forkOf c.id).bind (fun f => bufferByte upto key f.buffer none)

/-- The bytes that a context reads: a continuation looks into its fork buffer first (R205). -/
def State.ctxBytes (s : State) (c : Ctx) (upto key n : Nat) : List Byte :=
  let plain := s.viewBytes (s.viewer c upto) true key n
  if c.id.lvl = 0 then plain
  else (List.range n).map (fun i => (s.ownBuffer c upto (key + i)).getD (plain.getD i 0))

/-- A byte that its home serves, not L1 or a write on its way. -/
def State.fromHome (s : State) (r : Viewer) (key : Nat) : Bool :=
  (pendingByte r key s.stores none).isNone && !(l1Cacheable r.core key && (s.l1Line r.core key).isSome)

/-- The first poisoned unit that a read of n bytes takes a byte from (R155). (DEDUCED, log entry 74.) -/
def State.readPoison (s : State) (r : Viewer) (key : Nat) : Nat → Option Nat
  | 0 => none
  | n + 1 =>
    if s.fromHome r key && s.poison.contains (poisonUnit key) then some (poisonUnit key)
    else s.readPoison r (key + 1) n

/-- The first poisoned unit that a context's read of n bytes takes a byte from; its fork buffer holds no poison. -/
def State.ctxPoison (s : State) (c : Ctx) (upto key : Nat) : Nat → Option Nat
  | 0 => none
  | n + 1 =>
    if (s.ownBuffer c upto key).isNone && s.fromHome (s.viewer c upto) key && s.poison.contains (poisonUnit key) then
      some (poisonUnit key)
    else s.ctxPoison c upto (key + 1) n

/-- The 64-byte lines of a range. -/
def linesOf (key n : Nat) : List Nat :=
  if key / 64 = (key + n - 1) / 64 then [key / 64 * 64] else [key / 64 * 64, (key + n - 1) / 64 * 64]

/-- A store or atomic of the callee side: open forks of the thread that track its lines are hit (R209). -/
def State.hitForks (s : State) (id : CtxId) (key n : Nat) : State :=
  if s.forks.isEmpty then s
  else
    { s with forks := s.forks.map (fun f =>
        if f.wg = id.wg ∧ f.tix = id.tix ∧ (linesOf key n).any f.lines.contains then { f with hit := true } else f) }

/-- The lines of a continuation's load are tracked (R205). -/
def State.trackLines (s : State) (id : CtxId) (key n : Nat) : State :=
  { s with forks := s.forks.map (fun f =>
      if f.wg = id.wg ∧ f.tix = id.tix ∧ f.depth = id.lvl then
        { f with lines := (linesOf key n).foldl (fun l k => if l.contains k then l else k :: l) f.lines }
      else f) }

/-! ### Addresses of lane accesses -/

/-- x of R128: v(a), plus v(e) when the prefix supplies it. -/
def lmAddr (p : Pfx) (f : LM) (r : Regs) : Word := if p.e = 0 then r.get f.a else r.get f.a + r.get p.e

/-- The bytes of a width code (R281). -/
def lmSize (f : LM) : Nat := 2 ^ f.w.toNat

/-- Where a lane load or store lies and what the checks say (R128, R142, R241). -/
def State.lmCheck (s : State) (p : Pfx) (f : LM) (acc : Nat) (c : Ctx) : Word × Verdict :=
  match s.home? c with
  | none => (0, .trap causeSLAB)
  | some (l, w) =>
    s.checkLane l w c.id.tix c.regs.acc (lmAddr p f c.regs) f.sp.toNat (lmSize f) acc
      (decide (f.a.toNat ≥ 62) && decide (f.sp.toNat ≤ 1))

/-- What remains outstanding of an access (R147, R150). -/
def accessFlight (op : AccessOp) (n : Nat) (v : Word × Verdict) : FlightKind :=
  match v.2 with
  | .trap c => .trap c v.1
  | .key k => .access { addr := v.1, key := k, size := n, op := op } false
  | .fault _ _ => .parked { addr := v.1, key := 0, size := n, op := op } false

/-! ### Translation faults -/

/-- The requests that a list of faulting lanes makes: one for each team and 64 KiB page (R143). -/
def groupFaults : List FaultReq → List FaultReq → List FaultReq
  | [], acc => acc
  | r :: rs, acc =>
    let same (q : FaultReq) : Bool := q.teamSlot == r.teamSlot && q.addr.toNat / 65536 == r.addr.toNat / 65536
    if acc.any same then
      groupFaults rs (acc.map (fun q =>
        if same q then
          { q with mask := q.mask ||| r.mask, who := q.who ++ r.who,
                   addr := if r.mask < q.mask then r.addr else q.addr }
        else q))
    else groupFaults rs (acc ++ [r])

/-- TEAMSLOT of a fault record (R144). -/
def State.teamSlot (s : State) (wg team : Nat) : Nat :=
  match s.team? wg team with
  | some t => t.part * 16 + t.slot
  | none => 0

/-- The request of one lane whose walk fails (R143, R144). -/
def State.laneFaultReq (s : State) (c : Ctx) (num acc : Nat) (v : Word × Verdict) : Option FaultReq :=
  match v.2 with
  | .fault reason level =>
    some { addr := v.1, pc := s.cur.pc, mask := 1#32 <<< c.lane, reason := reason, agent := 0,
           teamSlot := s.teamSlot c.id.wg c.team, access := acc, level := level,
           launch := ((s.wg? c.id.wg).map Workgroup.launch).getD 0, who := [(c.id, num)], hod := false,
           resolved := false }
  | _ => none

/-- A context holds an outstanding instruction; after a stop of its launch it holds none (R60). -/
def State.holds (s : State) (id : CtxId) (num : Nat) : Bool := ((s.ctx? id).bind (fun c => c.flight? num)).isSome

/-- Requests wait for records of a core (R145); those of instructions that a stop has discarded are gone (R60). -/
def State.postFaults (s : State) (core : Nat) (l : List FaultReq) : State :=
  let l := l.filter (fun r => r.who.isEmpty || r.who.any (fun w => s.holds w.1 w.2))
  if l.isEmpty then s else s.onCore core (fun c => { c with faultsWaiting := c.faultsWaiting ++ l })

/-- A translated address that an access used stays cached (R141). -/
def State.noteLeaf (s : State) (c : Ctx) (addr : Word) : State :=
  if isTranslated addr.toNat then
    match s.launchOf? c.id.wg with
    | some l => s.cacheLeaf (s.ptRoot l.queue) addr.toNat
    | none => s
  else s

/-- The translation that an access which passed its checks has used stays cached (R141). (DEDUCED, log entry 21.) -/
def State.noteVerdict (s : State) (c : Ctx) (v : Word × Verdict) : State :=
  match v.2 with
  | .key _ => s.noteLeaf c v.1
  | _ => s

/-! ### LD and ST -/

/-- What LD does for a thread (R404). -/
def ldDo (s : State) (f : LM) : LaneDo :=
  { LaneDo.regs Ctx.regs with
    flight := fun c => some (accessFlight (.load (f.sx == 1)) (lmSize f)
      (s.lmCheck (s.pfx (.ld f)) f accLoad c)) }

/-- What becomes of a lane access besides its thread: its translation is cached, its lines are tracked in a
continuation (R205), and a load with SP accumulator makes the workgroup Loom-holding (R249). -/
def noteLoad (f : LM) (v : Word × Verdict) (s : State) (c : Ctx) : State :=
  let s := s.noteVerdict c v
  let s := match v.2 with
    | .key k => if c.id.lvl = 0 then s else s.trackLines c.id k (lmSize f)
    | _ => s
  if f.sp = 3 then s.onWg c.id.wg (fun w => { w with loomHolding := true }) else s

/-- LD (R404, R405). -/
def execLd (f : LM) (s : State) : Out :=
  let act := acting s (.ld f) (ldDo s f)
  let check (c : Ctx) : Word × Verdict := s.lmCheck (s.pfx (.ld f)) f accLoad c
  let s1 := lane (.ld f) (ldDo s f) s
  let s2 := act.foldl (fun t c => noteLoad f (check c) t c) s1
  .next (s2.postFaults s.cur.core (groupFaults (act.filterMap (fun c => s.laneFaultReq c s.nextNum accLoad (check c))) []))

/-- The data of a store: bytes of v(d), and of v(d+1) for a pair (R433). -/
def stData (f : LM) (r : Regs) : List Byte :=
  if f.w = 4 then leBytes 8 (r.get f.d).toNat ++ leBytes 8 (r.getN (f.d.toNat + 1)).toNat
  else leBytes (lmSize f) (r.get f.d).toNat

/-- What ST does for a thread: only a store that fails its checks remains outstanding (R38, R433). -/
def stDo (s : State) (f : LM) : LaneDo :=
  { LaneDo.regs Ctx.regs with
    flight := fun c =>
      let v := s.lmCheck (s.pfx (.st f)) f accStore c
      match v.2 with
      | .key _ => none
      | _ => some (accessFlight (.store (stData f c.regs)) (lmSize f) v) }

/-- The address and the word of the instruction that issues. -/
def State.ins (s : State) : Word × Code := (s.cur.pc, s.cur.word)

/-- The lookahead of the instruction that a word encodes (R38). -/
def lookOf (w : Code) : Nat :=
  match decodeWord w with
  | .instr i => (shape i Pfx.none).look.getD 0
  | _ => 0

/-- The live threads that a store stands for at its source: its thread, or every thread of its team (R431). -/
def State.storers (s : State) (id : CtxId) : List Ctx :=
  s.ctxs.filter (fun c => c.live && covers id c.id.wg c.id.tix)

/-- Those threads, each with its count of instructions (R148). -/
def State.issuersOf (s : State) (id : CtxId) : List (CtxId × Nat) :=
  (s.storers id).map (fun c => (c.id, c.count))

/-- The address and the instruction of a store that has just entered a store path, and who issued it; a pair's halves lie
8 bytes apart. -/
def nameStore (num : Nat) (addr : Word) (ins : Word × Code) (who : List (CtxId × Nat)) (p : PendingWrite) : PendingWrite :=
  { p with addr := addr + BitVec.ofNat 64 (8 * (p.num - num)), ins := ins, issuers := who }

/-- Bytes enter a core's store path as stores of a thread at an address: a pair is two of 8 bytes (R219, R434). -/
def State.pushStore (s : State) (core : Nat) (id : CtxId) (addr : Word) (ins : Word × Code) (key : Nat)
    (bytes : List Byte) : State :=
  let t :=
    if bytes.length = 16 then
      (s.pushWrite core (some id) key (.put (bytes.take 8) false) [] []).pushWrite core (some id) (key + 8)
        (.put (bytes.drop 8) false) [] []
    else s.pushWrite core (some id) key (.put bytes false) [] []
  { t with stores := s.stores ++
      (t.stores.drop s.stores.length).map (nameStore s.nextNum addr ins (s.issuersOf id)) }

/-- A store whose translation faulted waits in the store path for its replay (R147): num is its flight. Where a trap of
its course has stopped the launch it is gone (R60). -/
def State.parkStore (s : State) (core : Nat) (id : CtxId) (num : Nat) (addr : Word) (ins : Word × Code)
    (bytes : List Byte) : State :=
  let s' := s.pushStore core id addr ins 0 bytes
  if !s.holds id num then s
  else { s' with stores := s.stores ++
      (s'.stores.drop s.stores.length).map (fun p => { p with parked := some (id, num) }) }

/-- The keys of a replayed store's writes: the second half of a pair lies 8 bytes on. -/
def placeParked (id : CtxId) (num key : Nat) : List PendingWrite → List PendingWrite
  | [] => []
  | p :: ps =>
    if p.parked = some (id, num) then
      { p with key := key, parked := none } :: placeParked id num (key + p.op.size) ps
    else p :: placeParked id num key ps

/-- A faulted store is replayed: its writes go on to their place (R147). -/
def State.unparkStore (s : State) (id : CtxId) (num key n : Nat) : State :=
  ({ s with stores := placeParked id num key s.stores }).hitForks id key n

/-- A store of a context whose checks passed, at its place in program order: the thread's enters the store path, a
continuation's its fork buffer (R206). -/
def State.ctxStore (s : State) (c : Ctx) (num : Nat) (addr : Word) (ins : Word × Code) (key : Nat)
    (bytes : List Byte) : State :=
  if c.id.lvl = 0 then
    (s.pushStore (s.coreOf c) { c.id with lvl := 0 } addr ins key bytes).hitForks c.id key bytes.length
  else
    { s with forks := s.forks.map (fun f =>
        if f.wg = c.id.wg ∧ f.tix = c.id.tix ∧ f.depth = c.id.lvl then
          { f with buffer := f.buffer ++ [{ num := num, addr := addr, ins := ins, key := key, bytes := bytes,
                                            count := ((s.ctx? c.id).map Ctx.count).getD 0 }] }
        else f) }

/-- What becomes of a store besides its thread; num is its flight. -/
def noteStore (f : LM) (num : Nat) (v : Word × Verdict) (s : State) (c : Ctx) : State :=
  let s := s.noteVerdict c v
  match v.2 with
  | .key k => s.ctxStore c num v.1 s.ins k (stData f c.regs)
  | .fault _ _ => s.parkStore (s.coreOf c) c.id num v.1 s.ins (stData f c.regs)
  | .trap _ => s

/-- ST (R433, R434). -/
def execSt (f : LM) (s : State) : Out :=
  let act := acting s (.st f) (stDo s f)
  let check (c : Ctx) : Word × Verdict := s.lmCheck (s.pfx (.st f)) f accStore c
  let s1 := lane (.st f) (stDo s f) s
  let s2 := act.foldl (fun t c => noteStore f s.nextNum (check c) t c) s1
  .next (s2.postFaults s.cur.core (groupFaults (act.filterMap (fun c => s.laneFaultReq c s.nextNum accStore (check c))) []))

/-! ### Atomics -/

/-- Where an atomic of n bytes lies and what the checks say (R353). -/
def State.lxaCheck (s : State) (f : LXA) (n : Nat) (c : Ctx) : Word × Verdict :=
  match s.home? c with
  | none => (0, .trap causeSLAB)
  | some (l, w) => s.checkLane l w c.id.tix c.regs.acc (c.regs.get f.a) 0 n accAtomic false

/-- What an atomic does for a thread: it is outstanding until its home controller performs it. -/
def atomDo (s : State) (f : LXA) (n code : Nat) : LaneDo :=
  { LaneDo.regs Ctx.regs with
    flight := fun c => some (accessFlight
      (.atomic code (BitVec.ofNat 64 ((c.regs.get f.b).toNat % 2 ^ (8 * n)))
        (BitVec.ofNat 64 ((c.regs.get f.d).toNat % 2 ^ (8 * n)))) n (s.lxaCheck f n c)) }

/-- An atomic for its course (R353). -/
def execAtomic (i : Instr) (f : LXA) (n code : Nat) (s : State) : Out :=
  let act := acting s i (atomDo s f n code)
  let s1 := lane i (atomDo s f n code) s
  let s2 := act.foldl (fun t c => t.noteVerdict c (s.lxaCheck f n c)) s1
  .next (s2.postFaults s.cur.core (groupFaults (act.filterMap (fun c =>
    s.laneFaultReq c s.nextNum accAtomic (s.lxaCheck f n c))) []))

/-- ATOMW (R361). -/
def execAtomw (f : LXA) (s : State) : Out := execAtomic (.atomw f) f 4 f.op.toNat s

/-- ATOMD (R361). -/
def execAtomd (f : LXA) (s : State) : Out := execAtomic (.atomd f) f 8 f.op.toNat s

/-- ACAS (R352). -/
def execAcas (f : LXA) (s : State) : Out := execAtomic (.acas f) f (if f.op = 0 then 4 else 8) 8 s

/-! ### Reads of another device's memory besides loads (R268) -/

/-- The parts of a read of n bytes that lie on other devices are asked for on their routes (R268). (DESIGN CHOICE, log entry
83.) -/
def State.fetchFar (s : State) (root addr n : Nat) : State :=
  ((s.enginePieces root addr n accNone).ranges.filter (fun r => isRemoteKey r.1 && r.2 != 0)).foldl
    (fun s r => { s.spanOut r.1 s.nextNum (.load r.2) with nextNum := s.nextNum + 1 }) s

/-- A record that an instruction of a thread has had read: what it asks of other devices (R268), and whose writes it has
got (R230). -/
def State.threadFetched (s : State) (c : Ctx) (num addr n : Nat) : State :=
  let root := ((s.launchOf? c.id.wg).map (fun l => s.ptRoot l.queue)).getD 0
  let t := (s.enginePieces root addr n accNone).ranges.foldl
    (fun t r => t.noteRead c.id num (s.viewer c num) true r.1 r.2) s
  t.fetchFar root addr n

/-! ### PRFM (R420) -/

/-- PRFM brings the line of v(a) into the issuing core's L1 when every check on v(a) passes and the translation is cached;
another index's window is no bar to it (R420). A line of another device is asked for on its route (R268). -/
def prefetch (f : LX) (s : State) (c : Ctx) : State :=
  match s.home? c with
  | none => s
  | some (l, w) =>
    let x := c.regs.get f.a
    match s.checkAddr l.unordered w c.id.tix 0 x.toNat 1 accLoad false with
    | .key k =>
      if (isTranslated x.toNat && (s.cached (s.ptRoot l.queue) x.toNat).isNone) ||
          (firstPoison s.poison (k / 64 * 64) 64).isSome then s
      else
        let s := if isRemoteKey k then { s.spanOut (k / 64 * 64) s.nextNum (.load 64) with nextNum := s.nextNum + 1 } else s
        s.fillL1 (s.coreOf c) k
    | _ => s

/-- PRFM (R420). -/
def execPrfm (f : LX) (s : State) : Out :=
  let d := LaneDo.regs Ctx.regs
  .next ((acting s (.prfm f) d).foldl (prefetch f) (lane (.prfm f) d s))

/-! ### Completion -/

/-- An outstanding instruction of a context. -/
def State.flight? (s : State) (id : CtxId) (num : Nat) : Option Flight := (s.ctx? id).bind (fun c => c.flight? num)

/-- A replay has completed: the records that wait for it alone are freed (R146). -/
def State.replayDone (s : State) (core : Nat) (id : CtxId) (num : Nat) : State :=
  if (s.core core).faultsOut.isEmpty then s
  else
    let s1 := s.onCore core (fun c => { c with faultsOut := c.faultsOut.map (fun e =>
      (e.1, if e.2.resolved then { e.2 with who := e.2.who.filter (fun w => w != (id, num)) } else e.2)) })
    (((s1.core core).faultsOut.filter (fun e => e.2.resolved && e.2.who.isEmpty && !e.2.hod)).map Prod.fst).foldl
      (fun s i => s.freeFault core i) s1

/-- The instructions that issued again after their faults have issued, or faulted again: the records that wait for them
alone are freed (R146). -/
def State.reissued (s : State) (core : Nat) (ids : List CtxId) : State :=
  if (s.core core).faultsOut.isEmpty then s
  else
    let done (w : CtxId × Nat) : Bool := ids.contains w.1 && (s.flight? w.1 w.2).isNone
    let s1 := s.onCore core (fun c => { c with faultsOut := c.faultsOut.map (fun e =>
      (e.1, if e.2.resolved then { e.2 with who := e.2.who.filter (fun w => !done w) } else e.2)) })
    (((s1.core core).faultsOut.filter (fun e => e.2.resolved && e.2.who.isEmpty && !e.2.hod)).map Prod.fst).foldl
      (fun s i => s.freeFault core i) s1

/-- The replay of a Hod copy has completed, or has faulted again (R146, R147). -/
def State.hodReplayed (s : State) (core : Nat) : State :=
  (((s.core core).faultsOut.filter (fun e => e.2.resolved && e.2.hod)).map Prod.fst).foldl (fun s i => s.freeFault core i) s

/-- A value loaded, as its destination takes it (R404). -/
def loadValue (sx : Bool) (n : Nat) (bytes : List Byte) : Word :=
  if sx && decide (n ≤ 4) then sextNat (8 * n) (leNat bytes) else BitVec.ofNat 64 (leNat bytes)

/-- The registers of a load's destinations: one, or a pair (R404). -/
def loadRegs (f : Flight) (sx : Bool) (n : Nat) (bytes : List Byte) (r : Regs) : Regs :=
  match f.vdst with
  | [d] => r.put d (loadValue sx n bytes)
  | [d, e] => (r.put d (BitVec.ofNat 64 (leNat (bytes.take 8)))).put e (BitVec.ofNat 64 (leNat (bytes.drop 8)))
  | _ => r

/-- The first address of the unit that holds a byte, as the access named it (R156). -/
def unitAddr (a : Access) (unit : Nat) : Word :=
  BitVec.ofNat 64 (if unit ≤ a.key then a.addr.toNat - (a.key - unit) else a.addr.toNat + (unit - a.key))

/-- What an outstanding instruction waits for changes. -/
def State.setKind (s : State) (id : CtxId) (num : Nat) (k : FlightKind) : State :=
  s.onCtx id (fun c => { c with inflight := c.inflight.map (fun f => if f.num = num then { f with what := k } else f) })

/-- An outstanding access turns into a failed one (R150). -/
def State.failFlight (s : State) (id : CtxId) (num cause : Nat) (addr : Word) : State :=
  s.setKind id num (.trap cause addr)

/-- An access of an outstanding instruction changes. -/
def State.setAccess (s : State) (id : CtxId) (num : Nat) (g : Access → Access) : State :=
  s.onCtx id (fun c => { c with inflight := c.inflight.map (fun f =>
    if f.num = num then (match f.what with
      | .access a u => { f with what := .access (g a) u }
      | _ => f) else f) })

/-- The contexts that hold an outstanding access: the context, or the live threads of its team (R431). -/
def State.holders (s : State) (c : Ctx) (uniform : Bool) : List CtxId :=
  if uniform then (s.liveOfTeam c.id.wg c.team).map Ctx.id else [c.id]

/-- An access to another device whose packet has not been sent. -/
def Access.unsent (a : Access) : Bool := isRemoteKey a.key && a.asked.isNone

/-- The level at which the walk of an address ended (R144); an untranslated address has none. -/
def State.walkLevel (s : State) (root addr : Nat) : Nat :=
  if !isTranslated addr then 0
  else match s.leafOf root addr with
    | .leaf _ level => level
    | .fault _ level => level

/-- The same for an address that a workgroup's threads name. -/
def State.levelOf (s : State) (wg addr : Nat) : Nat :=
  s.walkLevel (((s.launchOf? wg).map (fun l => s.ptRoot l.queue)).getD 0) addr

/-- An access that meets no route completes as a translation fault with reason UNREACH, which is recorded; it waits for
its replay (R144, R147, R269), and keeps its place before the later accesses to its bytes (R221). The record of a fault that
it was a replay of is freed (R146). -/
def State.loseAccess (s : State) (c : Ctx) (f : Flight) (a : Access) (uniform : Bool) (acc : Nat) : State :=
  let ids := s.holders c uniform
  let s := ids.foldl (fun s id => s.replayDone (s.coreOf c) id f.num) s
  let s1 := ids.foldl (fun s id => s.setKind id f.num (.parked { addr := a.addr, key := a.key, size := a.size, op := a.op } uniform)) s
  s1.postFaults (s.coreOf c)
    [{ addr := a.addr, pc := f.pc, mask := if uniform then 0 else 1#32 <<< c.lane, reason := reasonUNREACH,
       agent := if uniform then 1 else 0, teamSlot := s.teamSlot c.id.wg c.team, access := acc, level := s.levelOf c.id.wg a.addr.toNat,
       launch := ((s.wg? c.id.wg).map Workgroup.launch).getD 0, who := ids.map (fun id => (id, f.num)), hod := false,
       resolved := false }]

/-- A load or atomic at another device: its packet goes out (R268), or it finds the route gone; that of a continuation
then waits for the fork's end (R207). -/
def State.ask (s : State) (c : Ctx) (f : Flight) (a : Access) (uniform : Bool) (acc : Nat) (op : SpanOp) : State :=
  if s.reaches (remoteDev a.key) then
    let n := s.nextNum
    let s1 := { s.spanOut a.key n op with nextNum := n + 1 }
    (s.holders c uniform).foldl (fun s id => s.setAccess id f.num (fun a => { a with asked := some n })) s1
  else if c.id.lvl ≠ 0 then s
  else s.loseAccess c f a uniform acc

/-- What a read of n bytes at its home finds wrong: a buffer that the reader's workgroup does not hold (R134), else poison
at a unit (R155). -/
def State.readFault (s : State) (wg : Nat) (a : Access) (part : Nat × Nat) (poison : Option Nat) : Option (Nat × Word) :=
  if s.handleBars (some wg) part.1 part.2 then some (causeHANDLE, a.addr)
  else poison.map (fun u => (causeMEMERR, unitAddr a u))

/-- The load of an SLD for its team: it waits for the team's writes to its bytes (R431). -/
def State.completeSld (s : State) (c : Ctx) (f : Flight) (a : Access) : State :=
  let r : Viewer := { wg := c.id.wg, tix := none, team := c.team, core := s.coreOf c, upto := f.num }
  if s.stores.any (fun p => r.sees p && overlaps p.key p.op.size a.key a.size) ||
      (s.liveOfTeam c.id.wg c.team).any (fun k => k.olderOver f.num a.key a.size) then s
  else if a.unsent && (List.range a.size).any (fun i => s.fromHome r (a.key + i)) then
    s.ask c f a true accLoad (.load a.size)
  else
    match s.readFault c.id.wg a (a.key, a.size) (s.readPoison r a.key a.size) with
    | some e =>
      (s.liveOfTeam c.id.wg c.team).foldl (fun s k =>
        ((s.failFlight k.id f.num e.1 e.2).replayDone r.core k.id f.num).settle k.id) s
    | none =>
      let s := (s.liveOfTeam c.id.wg c.team).foldl (fun s k => s.noteRead k.id f.num r true a.key a.size) s
      let s := s.fillL1 r.core a.key
      let x := BitVec.ofNat 64 (leNat (s.viewBytes r true a.key a.size))
      let s := s.onTeam c.id.wg c.team (fun t => f.sdst.foldl (fun t d => t.put d x) t)
      let s := s.mapCtx (fun k => k.land f.num)
      (s.liveOfTeam c.id.wg c.team).foldl (fun s k => (s.replayDone r.core k.id f.num).settle k.id) s

/-- The part of a load's range that is yet to be read (R219): its start and its length. -/
def Access.rest (a : Access) : Nat × Nat :=
  match a.half with
  | none => (a.key, a.size)
  | some (true, _) => (a.key, 8)
  | some (false, _) => (a.key + 8, 8)

/-- The bytes of a load when the rest of its range has these. -/
def Access.joined (a : Access) (bytes : List Byte) : List Byte :=
  match a.half with
  | none => bytes
  | some (true, high) => bytes ++ high
  | some (false, low) => low ++ bytes

/-- A load reads a part of its range: it sends its packet first, where its home is another device; a buffer of another
workgroup or poison fails it, but leaves that of a continuation to the fork's end (R207); else it goes on with the bytes
(R38, R134, R155, R268). -/
def State.readPart (s : State) (c : Ctx) (f : Flight) (a : Access) (part : Nat × Nat) (go : List Byte → State → State) :
    State :=
  let r := s.viewer c f.num
  if c.olderOver f.num part.1 part.2 then s
  else if a.unsent && (List.range part.2).any (fun i => s.fromHome r (part.1 + i)) then
    s.ask c f a false accLoad (.load a.size)
  else
    match s.readFault c.id.wg a part (s.ctxPoison c f.num part.1 part.2) with
    | some e =>
      if c.id.lvl ≠ 0 then s else ((s.failFlight c.id f.num e.1 e.2).replayDone r.core c.id f.num).settle c.id
    | none =>
      let s := (s.noteRead c.id f.num r true part.1 part.2).fillL1 r.core part.1
      go (s.ctxBytes c f.num part.1 part.2) s

/-- A load reads what is left of its range, and completes. -/
def State.completeLoad (s : State) (c : Ctx) (f : Flight) (a : Access) (sx : Bool) : State :=
  s.readPart c f a a.rest (fun bytes s =>
    let s := s.onCtx c.id (fun c => { c.land f.num with regs := loadRegs f sx a.size (a.joined bytes) c.regs })
    (s.replayDone (s.coreOf c) c.id f.num).settle c.id)

/-- LOAD_COMPLETE: the load reads its bytes and writes its destination (R38, R404, R405). A load waits for the
thread's earlier outstanding accesses to its bytes (R220, R221). -/
def execLoadComplete (id : CtxId) (num : Nat) (s : State) : Out :=
  .next (match s.ctx? id with
    | none => s
    | some c =>
      match c.flight? num with
      | none => s
      | some f =>
        match f.what with
        | .access a uniform =>
          match a.op with
          | .load sx => if uniform then s.completeSld c f a else s.completeLoad c f a sx
          | _ => s
        | _ => s)

/-- One half of a register pair's load is read before the other (R219). -/
def State.loadHalf (s : State) (id : CtxId) (num : Nat) (high : Bool) : State :=
  match s.ctx? id with
  | none => s
  | some c =>
    match c.flight? num with
    | none => s
    | some f =>
      match f.what with
      | .access a false =>
        (match a.op with
          | .load _ =>
            if a.size = 16 ∧ a.half = none then
              s.readPart c f a (if high then a.key + 8 else a.key, 8) (fun bytes s =>
                s.setAccess id num (fun a => { a with half := some (high, bytes) }))
            else s
          | _ => s)
      | _ => s

/-- The agent of a write as a reader of everything. -/
def PendingWrite.reader (p : PendingWrite) : Option Viewer :=
  p.src.map (fun id => { wg := id.wg, tix := some id.tix, team := id.tix / 32, core := p.core, upto := p.num })

/-- Two writes of which one's agent sees the other: they are performed in the order of their numbers (R221, R230).
(DESIGN CHOICE, log entry 26.) -/
def writesTied (p q : PendingWrite) : Bool :=
  (match p.src, q.src with
    | some a, some b => covers a b.wg b.tix || covers b a.wg a.tix
    | _, _ => false) ||
  (match p.reader with
    | some r => q.vis.any (fun v => v.holds r)
    | none => false) ||
  (match q.reader with
    | some r => p.vis.any (fun v => v.holds r)
    | none => false)

/-- The access of an outstanding atomic; a faulted one has size 0 here, because its place is not known. -/
def Flight.atomic? (f : Flight) : Option Access :=
  match f.what with
  | .access a _ => (match a.op with
    | .atomic _ _ _ => some a
    | _ => none)
  | .parked a _ => (match a.op with
    | .atomic _ _ _ => some { a with size := 0 }
    | _ => none)
  | _ => none

/-- A context's outstanding atomics that came before a number. -/
def Ctx.olderAtomics (c : Ctx) (num : Nat) : List Access :=
  (c.inflight.filter (fun f => decide (f.num < num))).filterMap Flight.atomic?

/-! ### Regions of synchronisation objects (R224) -/

/-- The keys of a range of virtual addresses, page by page; pages that nothing maps have none. Fuel counts pages. -/
def State.rangeKeys (s : State) (root : Nat) : Nat → Nat → Nat → List (Nat × Nat)
  | 0, _, _ => []
  | fuel + 1, addr, n =>
    if n = 0 then []
    else
      let m := min n (65536 - addr % 65536)
      (match s.translate root addr accNone with
        | .key k => [(k, m)]
        | _ => []) ++ s.rangeKeys root fuel (addr + m) (n - m)

/-- The ranges of keys that the regions of an object cover in an address space. -/
def State.regionsOf (s : State) (root obj : Nat) : List (Nat × Nat) :=
  (s.bindings.filter (fun b => b.obj == obj)).flatMap (fun b =>
    if isTranslated b.base then s.rangeKeys root (b.len / 65536 + 2) b.base b.len else [(b.base, b.len)])

/-- The regions that a REL's write waits for (R226). -/
def State.setRegions (s : State) (num : Nat) (regions : List (Nat × Nat)) : State :=
  { s with stores := s.stores.map (fun q => if q.num = num then { q with regions := some regions } else q) }

/-- The regions that govern a REL: those bound to its object as it issued, and those bound as its write reaches the object's
home (R225, R226, R364). (DEDUCED, log entry 105.) -/
def State.relRegions (s : State) (p : PendingWrite) (id : CtxId) (issued : List (Nat × Nat)) : List (Nat × Nat) :=
  issued ++ s.regionsOf (((s.launchOf? id.wg).map (fun l => s.ptRoot l.queue)).getD 0) p.key

/-- For a REL's write: the thread's earlier writes to the regions are visible, the faulted ones are replayed (R226). -/
def State.regionsDone (s : State) (p : PendingWrite) : Bool :=
  match p.regions, p.src with
  | some issued, some id =>
    let regions := s.relRegions p id issued
    let hits (key n : Nat) : Bool := regions.any (fun r => overlaps key n r.1 r.2)
    !(s.stores.any (fun q => decide (q.num < p.num) && (match q.src with
        | some i => covers i id.wg id.tix
        | none => false) && (q.parked.isSome || hits q.key q.op.size))) &&
      !(s.ctxs.any (fun c => c.id.wg == id.wg && c.id.tix == id.tix &&
        (c.olderAtomics p.num).any (fun a => a.size == 0 || hits a.key a.size)))
  | _, _ => true

/-- A pending write may be performed: what it follows is visible, earlier tied writes to its bytes are performed, those that
wait for their replay after they were lost on their way among them, and its thread's earlier loads of its bytes have
completed (R220, R221, R269). (DESIGN CHOICE, log entry 26.) -/
def State.writeReady (s : State) (p : PendingWrite) : Bool :=
  p.parked.isNone && !(s.stores.any (fun q => p.after.contains q.num)) && s.regionsDone p &&
  !(s.stores.any (fun q => decide (q.num < p.num) && q.placed && overlaps q.key q.op.size p.key p.op.size &&
      writesTied q p)) &&
  (match p.src with
    | some id => !(s.ctxs.any (fun c => covers id c.id.wg c.id.tix && c.olderOver p.num p.key p.op.size))
    | none => true)

/-- An outstanding instruction takes its place in program order. -/
def insertFlight (t : Flight) (l : List Flight) : List Flight :=
  l.takeWhile (fun f => decide (f.num < t.num)) ++ t :: l.dropWhile (fun f => decide (f.num < t.num))

/-- The count of instructions that a thread had when it issued a store (R148). -/
def PendingWrite.countOf (p : PendingWrite) (c : Ctx) : Nat :=
  ((p.issuers.find? (fun e => e.1 == c.id)).map Prod.snd).getD c.count

/-- A store that is on its way turns into an outstanding instruction of its thread: the instructions that the thread has
issued since stand in its window (R148). -/
def PendingWrite.flight (p : PendingWrite) (c : Ctx) (what : FlightKind) : Flight :=
  { num := p.num, look := lookOf p.ins.2, since := c.count - p.countOf c, vdst := [], pdst := [],
    sdst := [], pc := p.ins.1, word := p.ins.2, what := what }

/-- A store of a thread or team turns into an outstanding instruction of each of its threads, in its place in program order
(R151). -/
def State.holdStore (s : State) (p : PendingWrite) (id : CtxId) (what : FlightKind) : State :=
  s.mapCtx (fun c =>
    if c.live && covers id c.id.wg c.id.tix then
      { c with inflight := insertFlight (p.flight c what) (c.inflight.filter (fun f => f.what != .rel p.num)) }
    else c)

/-- A store that meets no route, or is returned, completes as a translation fault with reason UNREACH, which is recorded:
it waits for its replay at its thread, or at the live threads of its team (R148, R431), keeps its place before later accesses
to its bytes (R221), and is dropped where no thread is left (R144, R269). (DESIGN CHOICE, log entry 63.) -/
def State.loseWrite (s : State) (p : PendingWrite) : State :=
  let gone := { s with stores := s.stores.filter (fun q => q.num != p.num) }
  match p.src, p.op with
  | some id, .put bytes _ =>
    let team := decide (id.lvl = 1)
    match s.storers id with
    | [] => gone
    | c :: cs =>
      let what : FlightKind := .parked { addr := p.addr, key := p.key, size := bytes.length, op := .store bytes } team
      let wait (q : PendingWrite) : PendingWrite :=
        if q.num = p.num then { q with parked := some (c.id, p.num), sent := false } else q
      ({ s.holdStore p id what with stores := s.stores.map wait } : State).postFaults (s.coreOf c)
        [{ addr := p.addr, pc := p.ins.1, mask := if team then 0 else 1#32 <<< c.lane, reason := reasonUNREACH,
           agent := if team then 1 else 0, teamSlot := s.teamSlot c.id.wg c.team, access := accStore,
           level := s.levelOf id.wg p.addr.toNat, launch := ((s.wg? c.id.wg).map Workgroup.launch).getD 0,
           who := (c :: cs).map (fun k => (k.id, p.num)), hod := false, resolved := false }]
  | _, _ => gone

/-- A store that may not be performed at its home is not, and its thread, or the live threads of its team, trap with the
cause where they wait (R148), in its place in program order (R151); nothing is told of an engine's write (R134, R150). -/
def State.trapWrite (s : State) (p : PendingWrite) (cause : Nat) : State :=
  let gone := { s with stores := s.stores.filter (fun q => q.num != p.num) }
  match p.src with
  | none => gone
  | some id => gone.holdStore p id (.trap cause p.addr)

/-- A store that reaches an object which a launch has come to hold traps SLAB (R74). (DEDUCED, log entry 89.) -/
def State.barWrite (s : State) (p : PendingWrite) : State := s.trapWrite p causeSLAB

/-- A thread's store reaches a buffer that its workgroup does not hold (R134). -/
def State.handleHolds (s : State) (p : PendingWrite) : Bool :=
  p.src.any (fun id => s.handleBars (some id.wg) p.key p.op.size)

/-- A pending write that may go on does so: it meets no held object (R74) and no buffer that another workgroup has come to
hold (R134), and to another device it is first sent over the link of its route (R268). -/
def State.advanceWrite (s : State) (p : PendingWrite) : State :=
  if s.touchesHeld p.key p.op.size then s.barWrite p
  else if s.handleHolds p then s.trapWrite p causeHANDLE
  else if isRemoteKey p.key && !p.sent then
    if s.reaches (remoteDev p.key) then s.sendWrite p else s.loseWrite p
  else s.perform p

/-! ### Engine writes -/

/-- The bytes of a range that fall into armed counters, each counter once: a chunk is one arrival (R174, R188).
(DEDUCED, log entry 42.) -/
def State.countRuns (s : State) (runs : List (Nat × Nat)) : State :=
  let all := runs.flatMap (fun r => s.ksOver r.1 r.2)
  let names := (all.map (fun e => (e.1, e.2.1))).eraseDups
  names.foldl (fun s n =>
    s.ksCount n.1 n.2 ((all.filter (fun e => e.1 == n.1 && e.2.1 == n.2)).map (fun e => e.2.2)).sum) s

/-- The ranges of a chunk. -/
def chunkRuns (l : List (Nat × HomeOp)) : List (Nat × Nat) := l.flatMap (fun w => w.2.runs w.1)

/-- The ranges of a chunk that plain bytes are written to. -/
def chunkPuts (l : List (Nat × HomeOp)) : List (Nat × Nat) :=
  (l.filter (fun w => match w.2 with
    | .put _ p => !p
    | _ => false)).map (fun w => (w.1, w.2.size))

/-- The address of a part of a chunk: its parts lie in the 512 bytes from base on, and addresses and keys agree in their low
bits. -/
def chunkAddr (base key : Nat) : Nat := base + (key % 512 + 512 - base % 512) % 512

/-- A write of an engine goes out to another device on its route (R268); where the route is gone it stays (R269). -/
def State.sendHod (s : State) (e : HodSent) (op : SpanOp) : State :=
  let ok := s.reaches (remoteDev e.key)
  let s1 := if ok then s.spanOut e.key e.num op else s
  { s1 with hodSent := s1.hodSent.filter (fun x => x.num != e.num) ++ [{ e with lost := !ok }] }

/-- Bytes that an engine writes reach their home: memory and poison, or another device: a write there stands once it is
acknowledged (R238, R268). The two parts of an element of two pages go there as two stores. (DESIGN CHOICE, log entry
109.) -/
def State.enginePut (s : State) (core engine base key : Nat) (op : HomeOp) (bytes : List Byte) : State :=
  let s1 := { s with nextNum := s.nextNum + 1 }
  if isRemoteKey key then
    let sent : HomeOp := match op with
      | .split _ _ _ _ => .put bytes false
      | o => o
    s1.sendHod { num := s.nextNum, core := core, engine := engine, addr := chunkAddr base key, key := key, op := sent,
                 lost := false } (op.span s.mem key)
  else
    ({ s1 with mem := cellsWrite s.mem key bytes, poison := poisonAfter s.poison key bytes.length op.poisoned } : State).unmark
      key bytes.length

/-- One element or row of a chunk reaches its home, or its two homes (R171). -/
def State.engineWrite (s : State) (core engine base key : Nat) (op : HomeOp) : State :=
  let s1 := s.enginePut core engine base key op (homeBytes s.mem key op)
  match homeRest s.mem key op with
  | some r => s1.enginePut core engine base r.1 (.put r.2 false) r.2
  | none => s1

/-- The first byte of a chunk that would touch a held object: the chunk is not performed (R74). (DEDUCED, log entry
89.) -/
def State.chunkHeld (s : State) (l : List (Nat × HomeOp)) : Option Nat :=
  ((chunkRuns l).find? (fun r => s.touchesHeld r.1 r.2)).map Prod.fst

/-- A chunk becomes visible as a whole (R174), and clears the poison of the units that it writes whole (R155). -/
def State.chunkWrite (s : State) (core engine base : Nat) (l : List (Nat × HomeOp)) : State :=
  let s1 := l.foldl (fun s w => s.engineWrite core engine base w.1 w.2) s
  let s2 := { s1 with poison := s1.poison.filter (fun u => !unitWithin u (chunkPuts l)) }
  ((chunkRuns l).foldl (fun s r => (s.noteFits r.1 r.2).testStarts r.1 r.2) s2).countRuns (chunkRuns l)

/-- The running task of a core's queue changes. -/
def State.onRunning (s : State) (core q : Nat) (g : Running → Running) : State :=
  s.onCore core (fun c => { c with running := c.running.map (fun e => if e.1 = q then (q, g e.2) else e) })

/-- A task whose write meets an object that a launch holds, or a refusal of the other device, ends REFUSED with the
address; a copy stops, a Loom or Quarry task goes on (R74, R134, R177). (DEDUCED, log entry 89.) -/
def Running.refused (x : Running) (addr lost : Nat) (stop : Bool) : Running :=
  let y := { x with bytes := x.bytes - lost, done := x.done || stop }
  if x.status = 0 then { y with status := 5, faddr := addr } else y

/-- A chunk becomes visible, or meets a held object and its task is refused. -/
def State.landParts (s : State) (h : HodChunk) : State :=
  match s.chunkHeld h.parts with
  | some k =>
    s.onRunning h.core h.engine (fun x =>
      x.refused (chunkAddr h.base k) ((chunkRuns h.parts).map Prod.snd).sum (h.engine == 5))
  | none => s.chunkWrite h.core h.engine h.base h.parts

/-- A chunk that has been on its way becomes visible: chunks come in any order (R174). -/
def State.landChunk (s : State) (h : HodChunk) : State :=
  ({ s with chunks := s.chunks.filter (fun g => g.num != h.num) } : State).landParts h

/-- STORE_VISIBLE: a pending write is performed at its home controller (R218, R434), or a chunk of a copy that has been
on its way becomes visible (R174). -/
def execStoreVisible (num : Nat) (s : State) : Out :=
  .next (match s.stores.find? (fun p => p.num == num) with
    | some p => if s.writeReady p then s.advanceWrite p else s
    | none => (match s.chunks.find? (fun h => h.num == num) with
      | some h => s.landChunk h
      | none => s))

/-- A home controller performs an atomic: the bytes that it leaves, and whether it writes them (R352, R353, R361). -/
def atomicNew (code n old : Nat) (y expect : Word) : Nat × Bool :=
  (atomicFn code n old y.toNat expect.toNat, code != 8 || old == expect.toNat)

/-- An atomic of a context is performed. -/
def State.performAtomic (s : State) (c : Ctx) (f : Flight) (a : Access) (code : Nat) (y expect : Word) : State :=
  let core := s.coreOf c
  match (if s.touchesHeld a.key a.size then some (causeSLAB, a.addr)
    else if s.handleBars (some c.id.wg) a.key a.size then some (causeHANDLE, a.addr)
    else (firstPoison s.poison a.key a.size).map (fun u => (causeMEMERR, unitAddr a u))) with
  | some e => ((s.failFlight c.id f.num e.1 e.2).replayDone core c.id f.num).settle c.id
  | none =>
    let old := s.memNat a.key a.size
    let new := atomicNew code a.size old y expect
    let s := s.noteRead c.id f.num (s.viewer c f.num) false a.key a.size
    let s := (s.homeStore a.key (leBytes a.size new.1) false).markBy c.id f.num a.key a.size
    let s := s.dropL1 core a.key a.size
    let s := if new.2 then s.hitForks c.id a.key a.size else s
    let s := s.onCtx c.id (fun c => { c.land f.num with
      regs := f.vdst.foldl (fun g d => g.put d (BitVec.ofNat 64 old)) c.regs })
    (s.replayDone core c.id f.num).settle c.id

/-- ATOMIC_PERFORM: the home controller performs an atomic as one step (R353); it follows the thread's earlier
accesses to the same bytes, and the writes that the thread sees. To another device its packet is sent first, and that
device's memory is the model's image of it. (DESIGN CHOICE, log entry 83.) -/
def execAtomicPerform (id : CtxId) (num : Nat) (s : State) : Out :=
  .next (match s.ctx? id with
    | none => s
    | some c =>
      match c.flight? num with
      | none => s
      | some f =>
        match f.what with
        | .access a _ =>
          match a.op with
          | .atomic code y expect =>
            if s.homeReadWaits c num a.key a.size then s
            else if a.unsent then s.ask c f a false accAtomic (.atomic code a.size y expect)
            else s.performAtomic c f a code y expect
          | _ => s
        | _ => s)

/-! ### Fault records -/

/-- The 32 bytes of a fault record, PENDING (R144). -/
def FaultReq.bytes (r : FaultReq) (seq : Nat) : List Byte :=
  leBytes 8 r.addr.toNat ++ leBytes 8 r.pc.toNat ++ leBytes 4 r.mask.toNat ++ leBytes 1 1 ++ leBytes 1 r.reason ++
    leBytes 1 r.agent ++ leBytes 1 r.teamSlot ++ leBytes 1 r.access ++ leBytes 1 r.level ++ leBytes 2 seq ++
    leBytes 4 r.launch

/-- FAULT_RECORD_WRITE: the oldest waiting fault of a core takes the next record in ring order, when that is FREE
(R145). -/
def execFaultRecordWrite (core : Nat) (s : State) : Out :=
  .next (
    let k := s.core core
    match k.faultsWaiting with
    | [] => s
    | r :: rs =>
      if (Table.find k.faultsOut k.faultNext).isSome then s
      else
        (s.homeStore (faultKey core k.faultNext) (r.bytes k.faultSeq) false).onCore core (fun c =>
          { c with faultsWaiting := rs, faultsOut := Table.set c.faultsOut k.faultNext r,
                   faultNext := (k.faultNext + 1) % 128, faultSeq := (k.faultSeq + 1) % 65536 }))

/-- A parked instruction of a context is replayed (R147): its access goes on its way, a store enters the store path,
an instruction that was to issue again may do so. The answer says whether it faulted again. -/
def State.replay (s : State) (id : CtxId) (num : Nat) : State × Option FaultReq :=
  match s.ctx? id with
  | none => (s, none)
  | some c =>
    match c.flight? num, s.home? c with
    | some f, some (l, _) =>
      match f.what with
      | .retry => (s.onCtx id (fun c => c.land num), none)
      | .launch addr true _ => (s.setKind id num (.launch addr false s.dcycle), none)
      | .parked a uniform =>
        let acc := match a.op with
          | .load _ => accLoad
          | .store _ => accStore
          | .atomic _ _ _ => accAtomic
          | .acq _ => accLoad
          | .waita _ => accLoad
        let v := if isTranslated a.addr.toNat then s.translate (s.ptRoot l.queue) a.addr.toNat acc
          else match s.slabDecode a.addr.toNat with
            | some k => if s.reaches (bitsAt a.addr.toNat 43 32) then .key k else .fault reasonUNREACH 0
            | none => .trap causeSLAB
        match v with
        | .key k =>
          let s := s.noteLeaf c a.addr
          (match a.op with
            | .store bytes =>
              let rel := s.stores.find? (fun p => p.parked == some (id, num) && p.regions.isSome)
              let s := s.unparkStore id num k bytes.length
              (match rel with
                | some p =>
                  let regions := s.regionsOf (s.ptRoot l.queue) k
                  ((s.setRegions p.num regions).setKind id num (.rel p.num), none)
                | none => ((s.onCtx id (fun c => c.land num)).settle id, none))
            | _ =>
              (s.setKind id num (.access { a with key := k } uniform), none))
        | .fault reason level =>
          (s, some { addr := a.addr, pc := f.pc, mask := if uniform then 0 else 1#32 <<< c.lane, reason := reason,
                     agent := if uniform then 1 else 0, teamSlot := s.teamSlot c.id.wg c.team, access := acc,
                     level := level, launch := l.num, who := [(id, num)], hod := false, resolved := false })
        | .trap cause => ((s.failFlight id num cause a.addr).settle id, none)
      | _ => (s, none)
    | _, _ => (s, none)

/-- The parked instructions of a record are replayed one by one; the faults they meet again are gathered. -/
def replayAll : List (CtxId × Nat) → State → List FaultReq → State × List FaultReq
  | [], s, acc => (s, acc)
  | w :: ws, s, acc =>
    let r := s.replay w.1 w.2
    replayAll ws r.1 (match r.2 with
      | some q => acc ++ [q]
      | none => acc)

/-- The replays of a record that go on after it was answered RESOLVED: accesses on their way, and instructions that
issue again (R146). -/
def State.replaysOn (s : State) (r : FaultReq) (again : List (CtxId × Nat)) : List (CtxId × Nat) :=
  r.who.filter (fun w => again.contains w || (match s.flight? w.1 w.2 with
    | some f => (match f.what with
      | .access _ _ => true
      | .launch _ _ _ => true
      | _ => false)
    | none => false))

/-- The parked instructions of a record that issue again. -/
def State.retries (s : State) (r : FaultReq) : List (CtxId × Nat) :=
  r.who.filter (fun w => (match s.flight? w.1 w.2 with
    | some f => f.what == .retry
    | none => false))

/-- The Hod's running copy goes on. -/
def unparkHod (e : Nat × Running) : Nat × Running := if e.1 = 5 then (e.1, { e.2 with parked := false }) else e

/-- Cached translations of an address are dropped: a replay walks the page tables, which now map the access (R146). -/
def State.dropLeaf (s : State) (addr : Nat) : State :=
  { s with tlb := s.tlb.filter (fun t => !(decide (t.page ≤ addr) && decide (addr < t.page + t.size))) }

/-- A fault record has been answered: it is being replayed, or it is aborted (R146). -/
def State.answered (s : State) (core idx : Nat) (r : FaultReq) : Bool :=
  r.resolved || s.memNat (faultKey core idx + 0x14) 1 == 3

/-- FAULT_RESOLVED: the clerk has answered a record RESOLVED, and the core replays what it parked (R146, R147). When
a replay faults again the core writes a new record and frees the old one; else the record is freed once the last of its
replays has completed. -/
def execFaultResolved (core idx : Nat) (s : State) : Out :=
  .next (match Table.find (s.core core).faultsOut idx with
    | none => s
    | some r =>
      if s.answered core idx r then s
      else
        let again := s.retries r
        let s := (s.homeStore (faultKey core idx + 0x14) [2] false).dropLeaf r.addr.toNat
        let s := s.onCore core (fun c =>
          { c with faultsOut := Table.set c.faultsOut idx { r with resolved := true },
                   running := if r.hod then c.running.map unparkHod else c.running })
        let p := replayAll r.who s []
        let s := p.1
        if !p.2.isEmpty then
          let g := groupFaults p.2 []
          let g := g.map (fun q => if q.agent = 1 then { q with mask := 0 } else q)
          (s.postFaults core g).freeFault core idx
        else
          let left := s.replaysOn r again
          if left.isEmpty && !r.hod then s.freeFault core idx
          else
            let r' := { r with resolved := true, who := left }
            s.onCore core (fun c => { c with faultsOut := Table.set c.faultsOut idx r' }))

/-- FAULT_ABORT: the host refuses; the launch ends ABORTED, once the dispatcher sees what the core has met (R24), and the
access is discarded with its thread (R146). -/
def execFaultAbort (core idx : Nat) (s : State) : Out :=
  .next (match Table.find (s.core core).faultsOut idx with
    | none => s
    | some r =>
      if s.answered core idx r then s else
      let s := s.homeStore (faultKey core idx + 0x14) [3] false
      let s := if r.hod then (s.onCore core (fun c => { c with running := c.running.map (abortHod r.addr.toNat) })).dropLost core
        else s
      let s := s.reportFailure r.launch statusABORTED
      if r.hod then s.freeFault core idx else s)

end Sys2Proof.Machine
end

