-- ==== Sys2Proof/Machine/Cross.lean ====
section
/-!
DEFINITION. Sys2Proof/Machine/Cross.lean: team rendezvous (R36, R37): SHFL, NETMV, VOTE, LRED and BRX, and the
branch targets that BRX shares with the other branches (R277, R367).
-/
namespace Sys2Proof.Machine

/-! ### Branch targets -/

/-- What a branching instruction meets at its target: a misaligned target (R277), or a fetch that fails a protection
check (R367). A translation fault is met by the fetch at the target. -/
def State.branchFault (s : State) (c : Ctx) (t : Word) : Option (Nat × Word) :=
  if t.toNat % 4 ≠ 0 then some (causeMISALIGNED, t)
  else
    match s.home? c with
    | none => none
    | some (l, w) =>
      match s.checkAddr l w c.id.tix 0 t.toNat 4 accLoad false with
      | .trap cause => some (cause, t)
      | .key k => (match firstPoison s.poison k 4 with
        | some u => some (causeMEMERR, BitVec.ofNat 64 (t.toNat - (k - u)))
        | none => none)
      | .fault _ _ => none

/-- The target of a branch of format LB: the next word plus 4·off22 (R282, R366). -/
def lbTarget (s : State) (f : LB) : Word := s.cur.pc + 4 + (sext f.off <<< 2)

/-- A lane branch to a target that each thread names. -/
def branchDo (s : State) (target : Ctx → Word) : LaneDo :=
  { LaneDo.regs Ctx.regs with fault := fun c => s.branchFault c (target c), next := fun c => some (target c) }

/-! ### Values across a group -/

/-- The value that home lane h supplies: zero unless a thread of the group acts there (R36, R408, R417). -/
def laneVal (l : List Ctx) (g : Ctx → Word) (h : Nat) : Word :=
  match l.find? (fun c => c.lane == h) with
  | some c => g c
  | none => 0

/-- The values of the 32 home lanes. -/
def laneVals (l : List Ctx) (g : Ctx → Word) : List Word := (List.range 32).map (laneVal l g)

/-- The width of a SHFL selector's view; codes 5 to 7 read as .d (R428). -/
def selWidth (n : Nat) : Nat :=
  match n with
  | 1 => 32
  | 2 => 16
  | 3 => 8
  | 4 => 4
  | _ => 64

/-- What a thread receives from SHFL, with the bits that its selector records (R428, R429). -/
def shflRegs (f : LX) (vals : List Word) (r : Regs) : Regs :=
  let sel := (r.get f.b).toNat
  let wid := bitsAt sel 12 10
  let w := selWidth wid
  let e := bitsAt sel 9 5
  let x := elemAt w (vals.getD (sel % 32) 0).toNat (e % (64 / w))
  let r' := r.put f.d (BitVec.ofNat 64 x)
  { r' with warn := r'.warn ||| warnIf (decide (sel / 2 ^ 13 ≠ 0) || decide (e ≥ 64 / w)) warnFIELDRES |||
              warnIf (decide (wid ≥ 5)) warnBADTYPE }

/-- One stage of the Beneš network: switch j exchanges p and p + 2^k (R417). -/
def netStage (sw : Nat) (x : List Word) (st : Nat) : List Word :=
  let k := (4 - (st : Int)).natAbs
  (List.range 32).map (fun q =>
    let p := if bitAt q k then q - 2 ^ k else q
    let j := p / 2 ^ (k + 1) * 2 ^ k + p % 2 ^ k
    if bitAt sw (16 * st + j) then x.getD (if bitAt q k then q - 2 ^ k else q + 2 ^ k) 0 else x.getD q 0)

/-- The network's outputs for a configuration word (R415, R417). -/
def netRoute (cfg : BitVec 256) (x : List Word) : List Word :=
  let out := (List.range 9).foldl (netStage (cfg.toNat % 2 ^ 144)) x
  (List.range 32).map (fun h => if cfg.getLsbD (144 + h) then 0 else out.getD h 0)

/-- An integer operation of LRED on two elements (R408). -/
def lredInt (op w a b : Nat) : Nat :=
  match op with
  | 0 => (a + b) % 2 ^ w
  | 1 => minElem w false a b
  | 2 => maxElem w false a b
  | 3 => a &&& b
  | 4 => a ||| b
  | _ => a ^^^ b

/-- A fold over a list that has a first element. -/
def foldFirst (g : Nat → Nat → Nat) : List Nat → Nat
  | [] => 0
  | x :: xs => xs.foldl g x

/-- The greatest of a list of codes with −0 below +0, under the NaN rule of R120. -/
def maxCodes (v : Fmt) (env : FEnv) (l : List Nat) : FOut :=
  let e := { env with ftzo := false }
  match l with
  | [] => { bits := 0, flags := 0, nanLost := false }
  | x :: xs =>
    let o := xs.foldl (fun (a : FOut) y => let m := v.minMax e true a.bits y
      { m with flags := a.flags ||| m.flags }) { bits := x, flags := 0, nanLost := false }
    v.pass env o.bits o.flags

/-- The floating view of LRED; a view of another kind is taken as f32x2 (R294, R300). (DEDUCED, log entry 76.) -/
def lredFmt (f : LX) : Fmt :=
  match f.b.toNat / 8 with
  | 5 => bf16
  | 6 => fp16
  | _ => fp32

/-- The integer view of LRED; a view of another kind is taken as .d (R294, R300). (DEDUCED, log entry 76.) -/
def lredWidth (f : LX) : Nat :=
  match f.b.toNat / 8 with
  | 1 => 32
  | 2 => 16
  | 3 => 8
  | _ => 64

/-- What each receiving thread gets from LRED (R408, R409). (DEDUCED, log entry 16.) -/
def lredRegs (p : Pfx) (f : LX) (vals : List Word) (r : Regs) : Regs :=
  let op := f.b.toNat % 8
  let v := lredFmt f
  let w := lredWidth f
  match op with
  | 6 => roundInto p r f.d v.width (fun env i =>
      v.finish env (.sum env.rdn (vals.map (fun x => v.operand env (felem v x i)))))
  | 7 => roundInto p r f.d v.width (fun env i => maxCodes v env (vals.map (fun x => felem v x i)))
  | _ => r.put f.d (packElems w ((List.range (64 / w)).map (fun i =>
      foldFirst (lredInt op w) (vals.map (fun x => elemAt w x.toNat i)))))

/-! ### What each instruction does for a released group -/

/-- The partition registers that NETMV uses (R416, R417). -/
def State.netCfg (s : State) (c : Ctx) (n : Nat) : Option (BitVec 256) :=
  ((Table.find (s.part (s.coreOf c) (s.partOf c)).net n).filter (fun g => g.wg == c.id.wg)).map NetCfg.word

def shflDo (s : State) (f : LX) : LaneDo :=
  let vals := laneVals (acting s (.shfl f) (LaneDo.regs Ctx.regs)) (fun c => c.regs.get f.a)
  { LaneDo.regs (fun c => shflRegs f vals c.regs) with flight := fun _ => some .result }

def netmvDo (s : State) (f : LX) : LaneDo :=
  let vals := laneVals (acting s (.netmv f) (LaneDo.regs Ctx.regs)) (fun c => c.regs.get f.a)
  { LaneDo.regs (fun c =>
      match s.netCfg c (f.b.toNat % 16) with
      | some cfg => c.regs.put f.d ((netRoute cfg vals).getD c.lane 0)
      | none =>
        let r := c.regs.put f.d 0
        { r with warn := r.warn ||| warnFIELDRES }) with
    flight := fun _ => some .result }

/-- The predicates that the 32 home lanes supply to VOTE (R439). -/
def voteLanes (s : State) (i : Instr) (f : LA) : List Bool :=
  (laneVals (acting s i (LaneDo.regs Ctx.regs))
    (fun c => if c.regs.pred (predField f.a) then 1 else 0)).map (fun x => x == 1)

def voteAllDo (s : State) (f : LA) : LaneDo :=
  let q := voteLanes s (.voteAll f) f
  { LaneDo.regs (fun c => c.regs.putPred (predField f.d) (q.all id)) with flight := fun _ => some .result }

def voteAnyDo (s : State) (f : LA) : LaneDo :=
  let q := voteLanes s (.voteAny f) f
  { LaneDo.regs (fun c => c.regs.putPred (predField f.d) (q.any id)) with flight := fun _ => some .result }

def voteBallotDo (s : State) (f : LA) : LaneDo :=
  let q := voteLanes s (.voteBallot f) f
  { LaneDo.regs (fun c => c.regs.put f.d (packElems 1 (q.map (fun b => if b then 1 else 0)))) with
    flight := fun _ => some .result }

def lredDo (s : State) (f : LX) : LaneDo :=
  let vals := laneVals (acting s (.lred f) (LaneDo.regs Ctx.regs)) (fun c => c.regs.get f.a)
  { LaneDo.regs (fun c => lredRegs (s.pfx (.lred f)) f vals c.regs) with flight := fun _ => some .result }

def brxDo (s : State) (f : LB) : LaneDo := branchDo s (fun _ => lbTarget s f)

/-- What a rendezvous instruction does for the group that issues. -/
def rendezvousDo (s : State) (i : Instr) : LaneDo :=
  match i with
  | .shfl f => shflDo s f
  | .netmv f => netmvDo s f
  | .voteAll f => voteAllDo s f
  | .voteAny f => voteAnyDo s f
  | .voteBallot f => voteBallotDo s f
  | .lred f => lredDo s f
  | .brx f => brxDo s f
  | _ => LaneDo.regs Ctx.regs

/-! ### Arrival and release -/

/-- A context that waits at a rendezvous (R36). -/
def Ctx.atRendezvous (c : Ctx) : Bool :=
  match c.status with
  | .rendezvous _ _ _ _ _ => true
  | _ => false

/-- Every non-exited thread of the team waits at a rendezvous, and there is one (R36). -/
def State.teamGathered (s : State) (wg team : Nat) : Bool :=
  let l := s.liveOfTeam wg team
  !l.isEmpty && l.all Ctx.atRendezvous

/-- One group executes its rendezvous as one step (R36, R66). -/
def State.releaseGroup (s : State) (group : List Ctx) : State :=
  match group with
  | [] => s
  | c :: _ =>
    match c.status with
    | .rendezvous i pfx warn pc word =>
      let ids := group.map Ctx.id
      let s1 := s.mapCtx (fun c => if ids.contains c.id then { c with status := .running } else c)
      let cur := s.cur
      let s2 := { s1 with cur := { cur with course := ids, start := c.pc, pc := pc, pfx := pfx, word := word, warn := warn } }
      let s3 := lane i (rendezvousDo s2 i) s2
      { s3 with cur := cur }
    | _ => s

/-- The lowest program counter of a list of contexts. -/
def lowestPc : List Ctx → Option Word
  | [] => none
  | c :: cs => match lowestPc cs with
    | none => some c.pc
    | some p => some (if p.ult c.pc then p else c.pc)

/-- The groups of equal program counter of a team's threads are released in ascending order (R36), those that still wait: a
trap of one group may have ended the launch (R60). Fuel bounds their number. -/
def State.releaseGroups (s : State) (wg team : Nat) : Nat → List CtxId → State
  | 0, _ => s
  | fuel + 1, ids =>
    let l := (s.liveOfTeam wg team).filter (fun c => c.atRendezvous && ids.contains c.id)
    match lowestPc l with
    | none => s
    | some p =>
      (s.releaseGroup (l.filter (fun c => c.pc == p))).releaseGroups wg team fuel
        ((l.filter (fun c => c.pc != p)).map Ctx.id)

/-- A team's waiting threads are released together once all of them wait (R36). -/
def State.releaseTeam (s : State) (wg team : Nat) : State :=
  if s.teamGathered wg team then s.releaseGroups wg team 32 ((s.liveOfTeam wg team).map Ctx.id) else s

/-- The teams of a course, each once. -/
def courseTeams (ids : List CtxId) : List (Nat × Nat) :=
  ids.foldl (fun l id => if l.contains (id.wg, id.tix / 32) then l else l ++ [(id.wg, id.tix / 32)]) []

/-- The threads of the course that arrive at a rendezvous wait there. -/
def State.gather (s : State) (i : Instr) : State :=
  s.mapCtx (fun c =>
    if s.cur.course.contains c.id && (laneFault s i (LaneDo.regs Ctx.regs) c).isNone then
      { c with status := .rendezvous i s.cur.pfx s.cur.warn s.cur.pc s.cur.word }
    else c)

/-- A rendezvous instruction issues: its threads wait, and each team that is then gathered is released (R36). -/
def arrive (i : Instr) (s : State) : Out :=
  .next ((courseTeams s.cur.course).foldl (fun t w => t.releaseTeam w.1 w.2)
    ((laneFaults s i (LaneDo.regs Ctx.regs)).foldl (laneTrap i) (s.gather i)))

/-- SHFL (R428, R429). -/
def execShfl (f : LX) (s : State) : Out := arrive (.shfl f) s

/-- NETMV (R417). -/
def execNetmv (f : LX) (s : State) : Out := arrive (.netmv f) s

/-- VOTE.all (R439). -/
def execVoteAll (f : LA) (s : State) : Out := arrive (.voteAll f) s

/-- VOTE.any (R439). -/
def execVoteAny (f : LA) (s : State) : Out := arrive (.voteAny f) s

/-- VOTE.ballot (R439). -/
def execVoteBallot (f : LA) (s : State) : Out := arrive (.voteBallot f) s

/-- LRED (R408, R409). -/
def execLred (f : LX) (s : State) : Out := arrive (.lred f) s

/-- BRX (R368). -/
def execBrx (f : LB) (s : State) : Out := arrive (.brx f) s

/-- RENDEZVOUS_RELEASE: a gathered team is released (R36, R376). -/
def execRendezvousRelease (wg team : Nat) (s : State) : Out :=
  .next (if s.resident wg then s.releaseTeam wg team else s)

end Sys2Proof.Machine
end

