-- ==== Sys2Proof/Machine/Pick.lean ====
section
/-!
DEFINITION. Sys2Proof/Machine/Pick.lean: fetching (R284, R301, R367), readiness (R32, R33, R38, R39, R41, R148,
R204 to R207), and the picker (R32 to R35, R215): from a partition and a pipe to the instruction that issues there
and the threads or team that issue it.
-/
namespace Sys2Proof.Machine

/-! ### Fetching -/

/-- What a word of code reads as. -/
inductive CodeRead where
  | word (w : Code)
  | miss
  | trap (cause : Nat) (addr : Word)
  | fault (reason level : Nat)
  deriving DecidableEq, Repr

/-- An instruction fetched: the address where it starts, its own address, its prefix, what the prefix words record,
its word, and the instruction; none where the word traps ILLEGAL at step 1 of R298. -/
structure Fetched where
  start : Word
  pc : Word
  pfx : Option Pfx
  warn : BitVec 9
  word : Code
  what : Option Instr
  deriving DecidableEq, Repr

/-- How a fetch ends. A failed fetch names the word that was being fetched; a miss names the word that the instruction
cache lacks (R32). -/
inductive Fetch where
  | got (f : Fetched)
  | miss (addr : Word)
  | trap (cause : Nat) (addr pc : Word)
  | fault (reason level : Nat) (pc : Word)
  deriving DecidableEq, Repr

/-- The page-table root under which a context's code is fetched. -/
def State.codeRoot (s : State) (c : Ctx) : Nat :=
  match s.launchOf? c.id.wg with
  | some l => s.ptRoot l.queue
  | none => 0

/-- A word held in a partition's instruction cache. -/
def State.cachedWord (s : State) (c : Ctx) (addr : Word) : Option Code :=
  let l := ((s.wg? c.id.wg).map Workgroup.launch).getD 0
  ((s.part (s.coreOf c) (s.partOf c)).icache.find? (fun e => e.1 == l && e.2.1 == addr.toNat)).map (fun e => e.2.2)

/-- The bytes of a launch's code from an address on, as they stood when it started (R301). (DEDUCED, log entry 51.) -/
def Launch.oldWord (l : Launch) (addr : Nat) : Option Code :=
  (l.words.find? (fun e => decide (e.1 ≤ addr) && decide (addr + 4 ≤ e.1 + e.2.length))).map (fun e =>
    BitVec.ofNat 32 (fieldAt e.2 (addr - e.1) 4))

/-- The word that a fetch of a context reads from memory, under the checks of a 4-byte load with SP global (R367): the
word as the launch's start left it, or, when fresh is set, as it stands (R301). Where a fetch that no branch led to
meets poison, the trap names the word. (DEDUCED, log entry 51.) -/
def State.memoryWord (s : State) (c : Ctx) (addr : Word) (fresh : Bool) : CodeRead :=
  match s.home? c with
  | none => .fault reasonNOTVALID 0
  | some (l, w) =>
    match s.checkAddr l w c.id.tix 0 addr.toNat 4 accLoad false with
    | .trap cause => .trap cause addr
    | .fault reason level => .fault reason level
    | .key k =>
      if (firstPoison s.poison k 4).isSome then .trap causeMEMERR addr
      else
        let now := BitVec.ofNat 32 (s.memNat k 4)
        .word (if fresh then now else (l.oldWord addr.toNat).getD now)

/-- The word at an address: the instruction cache's; a word that it lacks is a miss, where memory's may be fetched
(R32, R301). -/
def State.codeWord (s : State) (c : Ctx) (addr : Word) : CodeRead :=
  match s.cachedWord c addr with
  | some w => .word w
  | none =>
    match s.memoryWord c addr false with
    | .word _ => .miss
    | r => r

/-- The word at an address, cached or not. -/
def State.anyWord (s : State) (c : Ctx) (addr : Word) : CodeRead :=
  match s.cachedWord c addr with
  | some w => .word w
  | none => s.memoryWord c addr false

/-- A fetch from an address on: prefixes are taken up until an instruction word comes (R283 to R285). Fuel counts
words. -/
def fetchFrom (read : Word → CodeRead) (start : Word) : Nat → Word → Option Pfx → BitVec 9 → Fetch
  | 0, addr, _, _ => .fault reasonNOTVALID 0 addr
  | fuel + 1, addr, pfx, warn =>
    match read addr with
    | .miss => .miss addr
    | .trap cause a => .trap cause a addr
    | .fault reason level => .fault reason level addr
    | .word w =>
      match decodeWord w with
      | .instr i => .got { start := start, pc := addr, pfx := pfx, warn := warn, word := w, what := some i }
      | .illegal _ => .got { start := start, pc := addr, pfx := pfx, warn := warn, word := w, what := none }
      | .pfx p =>
        fetchFrom read start fuel (addr + 4) (some p)
          (warn ||| warnIf pfx.isSome warnPFXIGN ||| warnIf (p.rsv != 0) warnFIELDRES)

/-- The words that a fetch may read: as many as 64-bit addresses name. -/
def fetchFuel : Nat := 2 ^ 62

/-- The instruction at which a context stands. (DEDUCED, log entry 52.) -/
def State.fetch (s : State) (c : Ctx) : Fetch := fetchFrom (s.codeWord c) c.pc fetchFuel c.pc none 0

/-- The instruction at which a context stands, whether or not the instruction cache holds it. -/
def State.ahead (s : State) (c : Ctx) : Fetch := fetchFrom (s.anyWord c) c.pc fetchFuel c.pc none 0

/-- The pipe to which a fetched instruction belongs (R16, R276). -/
def Fetched.pipe (f : Fetched) : Pipe :=
  match f.what with
  | some i => (shape i (effPfx (shape i (f.pfx.getD Pfx.none)) f.pfx)).pipe
  | none => if setOf f.word = 1 then .uniform else .alu

/-! ### Readiness -/

/-- The next instruction lies inside every lookahead window (R38). -/
def Ctx.windowOk (c : Ctx) : Bool := c.inflight.all (fun f => decide (f.since < f.look))

/-- A halt waits for the next instruction boundary of a context (R245). -/
def Ctx.halting (c : Ctx) : Bool := c.haltReq && (!c.inHandler || c.nested)

/-- The lane registers that an instruction reads of a thread; VTOS reads one lane only (R441). (DEDUCED, log entry
27.) -/
def readsOf (i : Instr) (x : Shape) (p : Pfx) (c : Ctx) : List Nat :=
  match i with
  | .vtos f => if f.b.toNat % 32 = c.lane then x.reads else []
  | _ => x.reads ++ eRegs x p

/-- An instruction reads or writes a pending destination of an outstanding one (R39). A thread for which the
instruction is off reads its guard and mask alone. (DEDUCED, log entry 27.) -/
def touches (i : Instr) (x : Shape) (p : Pfx) (c : Ctx) (f : Flight) : Bool :=
  let hitsV (l : List Nat) : Bool := f.vdst.any (fun r => l.contains r.toNat)
  let hitsP (q : BitVec 3) : Bool := q != 0 && f.pdst.contains q
  hitsP x.guard ||
    (!(c.regs.pred x.guard == x.invert) &&
      (hitsP p.m ||
        (match fate x p c.regs with
          | .off => false
          | .zeroed => hitsV x.writes || (match x.pWrite with
            | some q => hitsP q
            | none => false)
          | .acts =>
            hitsV (readsOf i x p c) || hitsV x.writes || x.pReads.any hitsP ||
              (match x.pWrite with
                | some q => hitsP q
                | none => false) ||
              (match x.pAlso with
                | some q => hitsP q
                | none => false) ||
              f.sdst.any (fun r => (x.sReads ++ x.sWrites).contains r.toNat))))

/-- The address of a load or store; an accumulator access has none. -/
def State.lmAddress (s : State) (f : LM) (p : Pfx) (c : Ctx) : Option Word :=
  match s.home? c with
  | none => none
  | some (l, w) =>
    match f.sp.toNat with
    | 0 => some (lmAddr p f c.regs)
    | 1 => some (s.scr w + lmAddr p f c.regs)
    | 2 => some (l.win w.lin + lmAddr p f c.regs)
    | _ => none

/-- The address of an access of a thread, where the instruction makes one (R148): that of an SLD or SST stands as an access
of each thread of its team (R431). -/
def State.laneAddr (s : State) (i : Instr) (p : Pfx) (c : Ctx) : Option Word :=
  match i with
  | .ld f => s.lmAddress f p c
  | .st f => s.lmAddress f p c
  | .atomw f => some (c.regs.get f.a)
  | .atomd f => some (c.regs.get f.a)
  | .acas f => some (c.regs.get f.a)
  | .acq f => some (c.regs.get f.a)
  | .rel f => some (c.regs.get f.a)
  | .waita f => some (c.regs.get f.a)
  | .launch f => some (c.regs.get f.a)
  | .sld f => some (s.sregOf c f.a + sext f.imm)
  | .sst f => some (s.sregOf c f.a + sext f.imm)
  | _ => none

/-- An access whose translation faulted and has not been replayed (R147). -/
def Flight.isParked (f : Flight) : Bool :=
  match f.what with
  | .parked _ _ => true
  | .retry => true
  | .launch _ parked _ => parked
  | _ => false

/-- A faulted access of a context is being replayed (R146). -/
def State.replaying (s : State) (c : Ctx) : Bool :=
  (s.core (s.coreOf c)).faultsOut.any (fun e => e.2.resolved &&
    e.2.who.any (fun w => w.1 == c.id && (c.flight? w.2).isSome))

/-- A faulted access of a context lies in the 64 bytes that hold an address. -/
def Ctx.parkedAt (c : Ctx) (a : Nat) : Bool :=
  c.inflight.any (fun f => match f.what with
    | .parked x _ => x.addr.toNat / 64 == a / 64
    | _ => false)

/-- A later access to translated space, or to the bytes of a faulted one, waits until that has been replayed (R148, R221).
-/
def State.parkBars (s : State) (i : Instr) (p : Pfx) (c : Ctx) : Bool :=
  (c.inflight.any Flight.isParked || s.replaying c) && (match s.laneAddr i p c with
    | some a => isTranslated a.toNat || c.parkedAt a.toNat
    | none => false)

/-- An outstanding lane access that holds a request entry: a load or an atomic, on its way or parked; a parked store's
entry is that of its writes in the store path. -/
def Flight.holdsEntry (f : Flight) : Bool :=
  match f.what with
  | .access _ u => !u
  | .parked a u => !u && (match a.op with
    | .store _ => false
    | _ => true)
  | _ => false

/-- The request entries of a core in use (R15): loads and atomics on their way or parked, and stores on their way or
parked. (DEDUCED, log entry 77.) -/
def State.requests (s : State) (core : Nat) : Nat :=
  ((s.ctxs.filter (fun c => s.coreOf c == core)).map (fun c => (c.inflight.filter Flight.holdsEntry).length)).sum +
  (s.stores.filter (fun p => p.core == core && (match p.src with
    | some id => id.lvl == 0
    | none => false))).length

/-- A lane instruction takes request entries of its core (R15). (DEDUCED, log entry 77.) -/
def takesEntry (i : Instr) : Bool :=
  match i with
  | .ld _ => true
  | .st _ => true
  | .atomw _ => true
  | .atomd _ => true
  | .acas _ => true
  | .acq _ => true
  | .rel _ => true
  | .waita _ => true
  | _ => false

/-- The entry of a list that comes first under an order. -/
def firstBy {α : Type} (before : α → α → Bool) : List α → Option α
  | [] => none
  | x :: xs =>
    match firstBy before xs with
    | none => some x
    | some y => if before y x then some y else some x

/-- The innermost open fork of a thread. -/
def State.innermost (s : State) (wg tix : Nat) : Option Fork :=
  firstBy (fun f g => decide (f.depth > g.depth)) (s.forks.filter (fun f => f.wg == wg && f.tix == tix))

/-- v0 to v3. -/
def Regs.four (r : Regs) : List Word := [r.get 0, r.get 1, r.get 2, r.get 3]

/-- The fork that a RET of a context is to commit: the innermost, whose call it returns from, where the predictions are
right and nothing has touched its lines (R208, R209). -/
def State.commits (s : State) (c : Ctx) : Option Fork :=
  if c.id.lvl ≠ 0 then none
  else
    (s.innermost c.id.wg c.id.tix).filter (fun f =>
      f.ret == c.regs.lr && f.checkpoint.get 63 == c.regs.get 63 && c.regs.four == f.preds && !f.hit)

/-- The stores that a fork's buffer holds: a pair's store is two (R219). -/
def Fork.entries (f : Fork) : Nat := (f.buffer.map (fun b => if b.bytes.length = 16 then 2 else 1)).sum

/-- The request entries that an instruction takes for a thread: a pair's store is two stores (R219), and a RET that
commits a fork sends the stores of its buffer on their way (R209). -/
def State.entriesOf (s : State) (i : Instr) (c : Ctx) : Nat :=
  match i with
  | .st f => if f.w = 4 then 2 else 1
  | .ret _ => ((s.commits c).map Fork.entries).getD 0
  | _ => if takesEntry i then 1 else 0

/-- The request entries of a core that are free. -/
def State.freeEntries (s : State) (core : Nat) : Nat := Config.requestEntries - s.requests core

/-- An instruction that needs request entries finds too few free (R15). (DEDUCED, log entry 77.) -/
def State.requestBars (s : State) (i : Instr) (c : Ctx) : Bool :=
  decide (s.freeEntries (s.coreOf c) < s.entriesOf i c)

/-- The specials that MTS writes (R240, R414). -/
def mtsWrites (n : Nat) : Bool := n ∈ [8, 9, 10, 11, 12, 13, 14, 19]

/-- The return points that a continuation may not return to by itself (R204, R213). (DEDUCED, log entry 72.) -/
def State.enclosing (s : State) (id : CtxId) : List Word :=
  (s.forks.filter (fun f => f.wg == id.wg && f.tix == id.tix && decide (f.depth < id.lvl))).map Fork.ret ++
    (match s.ctx? { id with lvl := 0 } with
      | some c => c.frames.map Frame.ret
      | none => [])

/-- A continuation would be trapped or faulted by its own control transfer or special write (R207). (DEDUCED, log
entry 72.) -/
def State.contFault (s : State) (i : Instr) (f : Fetched) (c : Ctx) : Bool :=
  let goes (t : Word) : Bool := (s.branchFault c t).isSome
  match i with
  | .bra b => goes (f.pc + 4 + (sext b.off <<< 2))
  | .call b => goes (f.pc + 4 + (sext b.off <<< 2))
  | .jmpr x => goes (c.regs.get x.a)
  | .ret _ => goes c.regs.lr
  | .mts x => !mtsWrites x.a.toNat
  | _ => false

/-- The instruction at which a context stands raises a trap of its own as it issues, rather than one of an access
(R153, R240, R298, R350): it waits until every earlier instruction has completed. -/
def State.trapsAtIssue (s : State) (i : Instr) (x : Shape) (p : Pfx) (f : Fetched) (c : Ctx) : Bool :=
  !regsOk (s.regsOf c) x p ||
    (match i with
      | .bar b => decide (b.d.toNat ≥ s.barriersOf c.id.wg)
      | .fenceHv b => decide (b.a.toNat > 61)
      | .swr b => b.imm != 0
      | _ => false) ||
    (fate x p c.regs == .acts &&
      (readsPoison x p c.regs || s.contFault i f c ||
        (match i with
          | .tret _ => !c.inHandler
          | .halt h => h.d.getLsbD 0
          | _ => false)))

/-- The access of a continuation goes through: every check passes, no byte is poisoned, its lines can be tracked, its
store has room (R205 to R207). -/
def State.contAccess (s : State) (i : Instr) (p : Pfx) (c : Ctx) : Bool :=
  match i with
  | .ld f =>
    match (s.lmCheck p f accLoad c).2 with
    | .key k =>
      (s.ctxPoison c s.nextNum k (lmSize f)).isNone &&
        (match s.forkOf c.id with
          | some g => decide (((linesOf k (lmSize f)).filter (fun l => !g.lines.contains l)).length + g.lines.length ≤ 64)
          | none => false)
    | _ => false
  | .st f =>
    match (s.lmCheck p f accStore c).2 with
    | .key _ => (match s.forkOf c.id with
      | some g => decide (g.buffer.length < 32)
      | none => false)
    | _ => false
  | _ => true

/-- The access of a continuation waits for its fork: its lines would be more than are tracked, or its buffer is full
(R205, R206). -/
def State.forkFull (s : State) (i : Instr) (p : Pfx) (c : Ctx) : Bool :=
  match s.forkOf c.id with
  | none => false
  | some g =>
    match i with
    | .ld f => (match (s.lmCheck p f accLoad c).2 with
      | .key k => decide (((linesOf k (lmSize f)).filter (fun l => !g.lines.contains l)).length + g.lines.length > 64)
      | _ => false)
    | .st _ => decide (g.buffer.length ≥ 32)
    | _ => false

/-- An instruction rounds under SR, and draws for it (R111); a FCVT that copies does neither (R291). -/
def roundsSR (i : Instr) (x : Shape) (p : Pfx) (c : Ctx) : Bool :=
  x.rounds && roundCode p c.regs == 5 && (match i with
    | .fcvt f => !fcvtCopies f
    | _ => true)

/-- A continuation may issue an instruction (R204 to R207). -/
def State.contOk (s : State) (i : Instr) (x : Shape) (p : Pfx) (f : Fetched) (c : Ctx) : Bool :=
  !x.held && x.pipe != .uniform && !roundsSR i x p c &&
    !(match i with
      | .ret _ => (s.enclosing c.id).contains c.regs.lr
      | _ => false) &&
    regsOk (s.regsOf c) x p &&
    (fate x p c.regs != .acts ||
      (!readsPoison x p c.regs && !s.contFault i f c && s.contAccess i p c))

/-- A context may issue what it has fetched, apart from the choice of the picker (R32, R38, R39, R41, R148). -/
def State.ready (s : State) (c : Ctx) (f : Fetched) : Bool :=
  c.status == .running && !c.halting && c.windowOk &&
    (match f.what with
      | none => c.id.lvl == 0 && c.inflight.isEmpty
      | some i =>
        let p := effPfx (shape i (f.pfx.getD Pfx.none)) f.pfx
        let x := shape i p
        !c.inflight.any (touches i x p c) && (c.inflight.isEmpty || !s.trapsAtIssue i x p f c) &&
          (fate x p c.regs != .acts ||
            (!(x.drains && !c.inflight.isEmpty) && !s.parkBars i p c && !s.requestBars i c)) &&
          !(x.pipe == .uniform && x.look.isSome && c.inflight.any (fun g => g.atomic?.isSome)) &&
          (c.id.lvl == 0 || s.contOk i x p f c))

/-- A context stands inside all windows at an instruction that touches a pending destination (R39). -/
def stallsOn (c : Ctx) (f : Fetched) : Bool :=
  c.status == .running && !c.halting && c.windowOk &&
    (match f.what with
      | none => false
      | some i =>
        let p := effPfx (shape i (f.pfx.getD Pfx.none)) f.pfx
        c.inflight.any (touches i (shape i p) p c))

/-! ### What a context does without issuing -/

/-- The trap that a context waits for is due: its window is used up, or the next instruction touches its destination
or waits under R41 (R148, R150). -/
def State.trapDue (s : State) (c : Ctx) (f : Fetch) (t : Flight) : Bool :=
  decide (t.since ≥ t.look) ||
    (match f with
      | .got g => (match g.what with
        | some i =>
          let p := effPfx (shape i (g.pfx.getD Pfx.none)) g.pfx
          let x := shape i p
          touches i x p c t || (x.drains && fate x p c.regs == .acts) || s.trapsAtIssue i x p g c
        | none => true)
      | _ => false)

/-- A context whose fetch cannot pass a protection check traps at that word, and resumes at it (R367). -/
def State.raiseFetch (s : State) (id : CtxId) (cause : Nat) (addr pc : Word) : State :=
  let t : Flight := { num := s.nextNum, look := 0, since := 0, vdst := [], pdst := [], sdst := [], pc := pc, word := 0,
                      what := .trap cause addr }
  match s.ctx? id with
  | none => s
  | some c =>
    let s := s.reissued (s.coreOf c) [id]
    ({ s.onCtx id (fun c => { c with inflight := c.inflight ++ [t] }) with nextNum := s.nextNum + 1 }).settle id

/-- A context whose fetch meets a translation fault parks until it is replayed (R148, R367). (DEDUCED, log entry 52.)
-/
def State.parkFetch (s : State) (c : Ctx) (pc : Word) (reason level : Nat) : State :=
  let t : Flight := { num := s.nextNum, look := 0, since := 0, vdst := [], pdst := [], sdst := [], pc := pc, word := 0,
                      what := .retry }
  let s := s.reissued (s.coreOf c) [c.id]
  let s1 := { s.onCtx c.id (fun c => { c with inflight := c.inflight ++ [t] }) with nextNum := s.nextNum + 1 }
  let r : FaultReq :=
    { addr := pc, pc := pc, mask := 1#32 <<< c.lane, reason := reason, agent := 0,
      teamSlot := s.teamSlot c.id.wg c.team, access := accLoad, level := level,
      launch := ((s.wg? c.id.wg).map Workgroup.launch).getD 0, who := [(c.id, s.nextNum)], hod := false,
      resolved := false }
  s1.onCore (s.coreOf c) (fun k =>
    let merge (q : FaultReq) : Bool :=
      q.addr == r.addr && q.pc == r.pc && q.teamSlot == r.teamSlot && q.launch == r.launch && q.agent == 0
    if k.faultsWaiting.any merge then
      { k with faultsWaiting := k.faultsWaiting.map (fun q =>
          if merge q then { q with mask := q.mask ||| r.mask, who := q.who ++ r.who } else q) }
    else { k with faultsWaiting := k.faultsWaiting ++ [r] })

/-- A thread that is to halt first completes what is outstanding: a failed access traps (R245). -/
def State.tendHalting (s : State) (c : Ctx) : State :=
  match (if c.id.lvl = 0 then c.trapNow else none) with
  | some t => (match t.what with
    | .trap cause addr => s.takeTrap c.id cause addr t.pc t.word
    | _ => s)
  | none => s

/-- What becomes of one context before its partition picks: a stall is recorded (R39), a trap that is due is taken,
a failed fetch traps or parks. -/
def State.tend (s : State) (id : CtxId) : State :=
  match s.ctx? id with
  | none => s
  | some c =>
    if c.status != .running then s
    else if c.halting then s.tendHalting c
    else
      let f := s.fetch c
      let stalls := match f with
        | .got g => stallsOn c g
        | _ => false
      let s := if stalls then
          s.onCtx id (fun c => { c with regs := { c.regs with warn := c.regs.warn ||| warnLAVIOL } })
        else s
      if c.id.lvl != 0 then s
      else
        match c.trapNow with
        | some t =>
          if s.trapDue c f t then
            (match t.what with
              | .trap cause addr => s.takeTrap id cause addr t.pc t.word
              | _ => s)
          else s
        | none =>
          match f with
          | .got _ => s
          | .miss _ => s
          | .trap cause addr pc => if c.windowOk then s.raiseFetch id cause addr pc else s
          | .fault reason level pc => if c.windowOk then s.parkFetch c pc reason level else s

/-- A context that tending would change. -/
def State.needsTending (s : State) (c : Ctx) : Bool :=
  c.status == .running &&
    (if c.halting then c.id.lvl == 0 && c.trapNow.isSome
     else
       let f := s.fetch c
       (match f with
        | .got g => stallsOn c g && (c.regs.warn &&& warnLAVIOL) == 0
        | _ => false) ||
       (c.id.lvl == 0 && (match c.trapNow with
        | some t => s.trapDue c f t
        | none => (match f with
          | .got _ => false
          | .miss _ => false
          | _ => c.windowOk))))

/-! ### The picker -/

/-- An instruction of a context is to issue again after its fault, which its record waits for (R146). -/
def State.reissueDue (s : State) (c : Ctx) : Bool :=
  (s.core (s.coreOf c)).faultsOut.any (fun e => e.2.resolved &&
    e.2.who.any (fun w => w.1 == c.id && (c.flight? w.2).isNone))

/-- The contexts of a partition that may issue: one of a workgroup that leaves only to replay what has faulted (R149,
R247). -/
def State.partCtxs (s : State) (core part : Nat) : List Ctx :=
  s.ctxs.filter (fun c => (match s.wg? c.id.wg with
    | some w => w.place == .resident && !w.arriving && w.core == core && s.partOf c == part &&
        (!w.leaving || s.reissueDue c)
    | none => false))

/-- What a context has fetched. -/
def State.got? (s : State) (c : Ctx) : Option Fetched :=
  match s.fetch c with
  | .got f => some f
  | _ => none

/-- The ready contexts of a pipe with what they have fetched (R32). -/
def State.readyFor (s : State) (core part : Nat) (pipe : Pipe) : List (Ctx × Fetched) :=
  (s.partCtxs core part).filterMap (fun c =>
    match s.got? c with
    | some f => if f.pipe = pipe ∧ s.ready c f then some (c, f) else none
    | none => none)

/-- When a context last issued to a pipe. -/
def Ctx.last (c : Ctx) (pipe : Pipe) : Nat :=
  match pipe with
  | .alu => c.lastAlu
  | .long => c.lastLong
  | .uniform => c.lastUni

/-- When a context last issued at all. -/
def Ctx.lastAny (c : Ctx) : Nat := max c.lastAlu (max c.lastLong c.lastUni)

/-- A context has issued in this cycle of its core. In a cycle a thread has one next instruction, so it issues once
(R16, R32; DEDUCED, log entry 10). -/
def State.issuedNow (s : State) (core part : Nat) (c : Ctx) : Bool :=
  let p := s.part core part
  decide (p.clock < c.lastAny + p.used.length) && decide (c.lastAny ≤ p.clock)

/-- The ready contexts that a pipe may pick in this cycle. (DEDUCED, log entry 10.) -/
def State.readyNow (s : State) (core part : Nat) (pipe : Pipe) : List (Ctx × Fetched) :=
  (s.readyFor core part pipe).filter (fun e => !s.issuedNow core part e.1)

/-- The age of a context's team: the order of admission of its workgroup, then its number (R32). -/
def State.ageOf (s : State) (c : Ctx) : Nat := ((s.wg? c.id.wg).map Workgroup.order).getD 0 * 16 + c.team

/-- Of two contexts, the one that has gone longer without issuing to a pipe; then the older team, the lower thread,
the callee (R34, R215). -/
def State.longer (s : State) (pipe : Pipe) (c d : Ctx) : Bool :=
  if c.last pipe ≠ d.last pipe then decide (c.last pipe < d.last pipe)
  else if s.ageOf c ≠ s.ageOf d then decide (s.ageOf c < s.ageOf d)
  else if c.id.tix ≠ d.id.tix then decide (c.id.tix < d.id.tix)
  else decide (c.id.lvl < d.id.lvl)

/-- The home lanes that a course at a program counter would fill. -/
def courseSize (l : List (Ctx × Fetched)) (pc : Word) : Nat :=
  ((List.range 32).filter (fun h => l.any (fun e => e.1.pc == pc && e.1.lane == h))).length

/-- The program counter that MASS ranks first (R34). -/
def massPc (l : List (Ctx × Fetched)) : Option Word :=
  firstBy (fun p q =>
    let m := courseSize l p
    let n := courseSize l q
    if m ≠ n then decide (m > n) else p.ult q) (l.map (fun e => e.1.pc))

/-- The program counter that SPREAD ranks first (R34). -/
def State.spreadPc (s : State) (pipe : Pipe) (l : List (Ctx × Fetched)) : Option Word :=
  (firstBy (s.longer pipe) (l.map Prod.fst)).map Ctx.pc

/-- The program counter that R35 takes: of the threads passed over 64 times, the one passed over longest. (DEDUCED,
log entry 29.) -/
def overduePc (l : List (Ctx × Fetched)) : Option Word :=
  (firstBy (fun c d => if c.passed ≠ d.passed then decide (c.passed > d.passed) else c.pc.ult d.pc)
    ((l.map Prod.fst).filter (fun c => decide (c.passed ≥ 64)))).map Ctx.pc

/-- The policy of a pick: that of the launch of the ready thread that has gone longest (R34). -/
def State.spreads (s : State) (pipe : Pipe) (l : List (Ctx × Fetched)) : Bool :=
  match firstBy (s.longer pipe) (l.map Prod.fst) with
  | some c => ((s.launchOf? c.id.wg).map Launch.spread).getD false
  | none => false

/-- The program counter that a pipe takes (R34, R35). -/
def State.pickPc (s : State) (core part : Nat) (pipe : Pipe) (l : List (Ctx × Fetched)) : Option Word :=
  let forced := ((s.part core part).forced.filter (fun e => e.1 == pipe && l.any (fun r => r.1.pc == e.2))).map Prod.snd
  match forced with
  | p :: _ => some p
  | [] =>
    match overduePc l with
    | some p => some p
    | none => if s.spreads pipe l then s.spreadPc pipe l else massPc l

/-- The threads of a course whose accesses find request entries free, one after another (R15). -/
def State.withEntries (s : State) : Nat → List (Ctx × Fetched) → List (Ctx × Fetched)
  | _, [] => []
  | free, e :: es =>
    let need := match e.2.what with
      | some i =>
        let p := effPfx (shape i (e.2.pfx.getD Pfx.none)) e.2.pfx
        if fate (shape i p) p e.1.regs = .acts then s.entriesOf i e.1 else 0
      | none => 0
    if need ≤ free then e :: s.withEntries (free - need) es else s.withEntries free es

/-- The course at a program counter: one ready thread for each home lane, the older team first, the callee before
its continuation (R215), all with the word of the oldest team's thread where cached words differ (R32; DESIGN CHOICE, log
entry 106). Of several continuations of one thread the one of the lower level goes first. (DESIGN CHOICE, log entry
107.) -/
def State.courseAt (s : State) (l : List (Ctx × Fetched)) (pc : Word) : List (Ctx × Fetched) :=
  let at_ := l.filter (fun e => e.1.pc == pc)
  let older (a b : Ctx × Fetched) : Bool :=
    if s.ageOf a.1 ≠ s.ageOf b.1 then decide (s.ageOf a.1 < s.ageOf b.1) else decide (a.1.id.lvl < b.1.id.lvl)
  let lanes := (List.range 32).filterMap (fun h => firstBy older (at_.filter (fun e => e.1.lane == h)))
  match firstBy older lanes with
  | none => []
  | some e => s.withEntries (s.freeEntries (s.coreOf e.1)) (lanes.filter (fun x => x.2 == e.2))

/-- The teams whose uniform instruction is ready, with it (R33); not one that has found in this cycle that it waits at issue
(R159). -/
def State.uniformReady (s : State) (core part : Nat) : List (Team × Fetched) :=
  (s.teams.filter (fun t => (match s.wg? t.wg with
    | some w => w.place == .resident && !w.arriving && w.core == core && t.part == part &&
        (!w.leaving || (s.liveOfTeam t.wg t.idx).any s.reissueDue) && !(s.part core part).tried.contains (t.wg, t.idx)
    | none => false))).filterMap (fun t =>
      let live := s.liveOfTeam t.wg t.idx
      match live with
      | [] => none
      | c :: _ =>
        match s.got? c with
        | none => none
        | some f =>
          if f.pipe = .uniform ∧ live.all (fun d => d.pc == c.pc && s.got? d == some f && s.ready d f) then some (t, f)
          else none)

/-- When a team's uniform instruction began to wait: when the last of its threads issued. (DESIGN CHOICE, log entry
84.) -/
def State.waitFrom (s : State) (t : Team) : Nat :=
  ((s.liveOfTeam t.wg t.idx).map Ctx.lastAny).foldl max 0

def State.teamAge (s : State) (t : Team) : Nat := ((s.wg? t.wg).map Workgroup.order).getD 0 * 16 + t.idx

/-- The team whose uniform instruction has waited longest (R33); of two that have waited equally long, the older team.
(DESIGN CHOICE, log entry 84.) -/
def State.pickTeam (s : State) (l : List (Team × Fetched)) : Option (Team × Fetched) :=
  firstBy (fun a b =>
    if s.waitFrom a.1 ≠ s.waitFrom b.1 then decide (s.waitFrom a.1 < s.waitFrom b.1)
    else decide (s.teamAge a.1 < s.teamAge b.1)) l

/-- The ready contexts of a partition, in any pipe. -/
def State.readyIds (s : State) (core part : Nat) : List CtxId :=
  ((s.readyFor core part .alu).map (fun e => e.1.id)) ++ ((s.readyFor core part .long).map (fun e => e.1.id)) ++
    (s.uniformReady core part).flatMap (fun e => (s.liveOfTeam e.1.wg e.1.idx).map Ctx.id)

/-! ### Issuing -/

/-- The top-down leaf of an issued slot (R261). -/
def retiredLeaf (i : Option Instr) (pipe : Pipe) : Nat :=
  if pipe ≠ .uniform then 0
  else
    match i with
    | some (.hod _) => 2
    | some (.loom _) => 2
    | some (.task _) => 2
    | some (.taskServe _) => 2
    | some (.ksarm _) => 2
    | some (.ksdis _) => 2
    | some (.qfence _) => 2
    | some (.gset _) => 2
    | _ => 1

/-- The operand reads of a course: the lane registers that its instruction reads (R272). (DEDUCED, log entry 86.) -/
def operandReads (f : Fetched) : Nat :=
  match f.what with
  | some i =>
    let p := effPfx (shape i (f.pfx.getD Pfx.none)) f.pfx
    let x := shape i p
    (x.reads ++ eRegs x p).length
  | none => 0

/-- A course takes its operand reads from the grants left in the cycle, and gathers the rest in the cycles that follow
(R272). (DEDUCED, log entry 86.) -/
def Part.gather (p : Part) (pipe : Pipe) (limit reads : Nat) : Part :=
  let left := limit - p.granted
  { p with granted := p.granted + min left reads,
           owed := if reads ≤ left then p.owed else p.owed ++ [(pipe, reads - left)] }

/-- The grants of a new cycle go first to what courses still gather; their pipes issue nothing in it (R272). -/
def Part.gatherOn (limit : Nat) (p : Part) : Part :=
  p.owed.foldl (fun p e =>
    let m := min (limit - p.granted) e.2
    { p with granted := p.granted + m, gathering := e.1 :: p.gathering,
             owed := if e.2 ≤ m then p.owed else p.owed ++ [(e.1, e.2 - m)] })
    { p with granted := 0, gathering := [], owed := [] }

/-- A pipe issues no more in the current cycle. -/
def Part.busy (p : Part) (pipe : Pipe) : Bool := p.used.contains pipe || p.gathering.contains pipe

/-- The stamps of an issued context. -/
def Ctx.stamp (c : Ctx) (pipe : Pipe) (t : Nat) : Ctx :=
  match pipe with
  | .alu => { c with lastAlu := t, passed := 0 }
  | .long => { c with lastLong := t, passed := 0 }
  | .uniform => { c with lastUni := t, passed := 0 }

/-- A thread that stepped aside has seen others issue (R444). -/
def Ctx.sawIssue (c : Ctx) (ids : List CtxId) : Ctx :=
  match c.status with
  | .yielding others left => { c with status := .yielding (others.filter (fun o => !ids.contains o)) left }
  | _ => c

/-- What an issue leaves behind in its partition and threads, besides its effect: stamps and passed-over counts (R34,
R35), the pipe used in this cycle (R16), the top-down leaf (R261, R216), the operand reads (R272), the replays that it
completes (R146), and the stall count of its launches (R61). (DEDUCED, log entry 29.) -/
def State.noteIssue (s : State) (core part : Nat) (pipe : Pipe) (f : Fetched) (ready ids : List CtxId) : State :=
  let t := (s.part core part).clock + 1
  let leaf := retiredLeaf f.what pipe
  let launches := ids.map (fun id => ((s.wg? id.wg).map Workgroup.launch).getD 0)
  let s := s.reissued core ids
  let s := s.mapCtx (fun c =>
    let c := c.sawIssue ids
    if ids.contains c.id then c.stamp pipe t
    else if ready.contains c.id then { c with passed := c.passed + 1 }
    else c)
  let s := s.onPart core part (fun p =>
    { p.charge leaf 1 with
      clock := t, used := pipe :: p.used, forced := p.forced.filter (fun e => e.1 != pipe) }.gather pipe
        (s.core core).grantsG (operandReads f))
  let mark (g : Fork) : Fork :=
    if ids.any (fun id => id.wg == g.wg && id.tix == g.tix && id.lvl == g.depth) then
      { g with issued := (t, leaf) :: g.issued }
    else g
  { s with
    forks := s.forks.map mark
    launches := s.launches.map (fun l => if launches.contains l.num then { l with stall := 0 } else l) }

/-- The context of an issue. -/
def issueOf (core part wg team : Nat) (ids : List CtxId) (f : Fetched) (defer : Bool) : Issue :=
  { core := core, part := part, course := ids, wg := wg, team := team, start := f.start, pc := f.pc, pfx := f.pfx,
    word := f.word, warn := f.warn, defer := defer }

/-- The issue that a pipe makes: what it fetched, its threads, and for a uniform instruction its team. -/
def State.pick (s : State) (core part : Nat) (pipe : Pipe) : Option (Fetched × List CtxId × Nat × Nat) :=
  match pipe with
  | .uniform =>
    match s.pickTeam ((s.uniformReady core part).filter (fun e =>
        (s.liveOfTeam e.1.wg e.1.idx).all (fun c => !s.issuedNow core part c))) with
    | none => none
    | some (t, f) => some (f, (s.liveOfTeam t.wg t.idx).map Ctx.id, t.wg, t.idx)
  | _ =>
    let l := s.readyNow core part pipe
    match s.pickPc core part pipe l with
    | none => none
    | some pc =>
      match s.courseAt l pc with
      | [] => none
      | e :: es => some (e.2, (e :: es).map (fun x => x.1.id), e.1.id.wg, e.1.team)

/-- The contexts of a partition before it picks. -/
def State.tendAll (s : State) (core part : Nat) : State := ((s.partCtxs core part).map Ctx.id).foldl State.tend s

/-- What a partition's pipe picks when its contexts have been tended. -/
def State.pickIssue (s : State) (core part : Nat) (pipe : Pipe) (defer : Bool) : State × Option Instr :=
  if (s.part core part).busy pipe then (s, none)
  else
    match s.pick core part pipe with
    | none => (s, none)
    | some (f, ids, wg, team) =>
      let ready := (s.readyNow core part pipe).map (fun e => e.1.id)
      let s := s.noteIssue core part pipe f ready ids
      let s := { s with cur := issueOf core part wg team ids f defer }
      match f.what with
      | some i => (s, some i)
      | none => (ids.foldl (fun s id => s.raise id causeILLEGAL 0) s, none)

/-- A partition's pipe issues (R32 to R35): the state from which the instruction acts, and the instruction. There is
none where nothing is ready, where the pipe has issued in this cycle (R16), and where the word traps ILLEGAL. -/
def State.prepare (s : State) (core part : Nat) (pipe : Pipe) (defer : Bool) : State × Option Instr :=
  (s.tendAll core part).pickIssue core part pipe defer

/-- A uniform instruction of a team has found that it waits at issue: it has not issued, and is not tried again in this cycle
(R159). (DEDUCED, log entry 69.) -/
def State.stood (s : State) (core part wg team : Nat) : State :=
  s.onPart core part (fun p => { p with tried := (wg, team) :: p.tried })

end Sys2Proof.Machine
end

