-- ==== Sys2Proof/Machine/Forks.lean ====
section
/-!
DEFINITION. Sys2Proof/Machine/Forks.lean: forked calls (R199 to R217): the call predictor, forking, commit, squash
and collapse.
-/
namespace Sys2Proof.Machine

/-! ### The call predictor (R202) -/

/-- The entry of a CALLF's address. -/
def predIndex (pc : Word) : Nat := pc.toNat / 4 % 256

/-- The tag of a CALLF's address: bits 55:10. -/
def predTag (pc : Word) : Nat := bitsAt pc.toNat 55 10

/-- The valid entry of an address. -/
def Part.entry (p : Part) (pc : Word) : Option PredEntry :=
  (Table.find p.preds (predIndex pc)).filter (fun e => e.tag == predTag pc)

/-- The values that the predictor offers for a CALLF. -/
def Part.predict (p : Part) (pc : Word) : Option (List Word) :=
  match p.entry pc with
  | some e => if e.conf ≥ 2 then some (List.zipWith (· + ·) e.last e.stride) else none
  | none => none

/-- Training of the entry of a CALLF with the returned v0 to v3. -/
def Part.train (p : Part) (pc : Word) (a : List Word) : Part :=
  let e' : PredEntry :=
    match p.entry pc with
    | none => { tag := predTag pc, last := a, stride := [0, 0, 0, 0], conf := 0 }
    | some e =>
      let new := List.zipWith (· - ·) a e.last
      { e with conf := if new = e.stride then min (e.conf + 1) 3 else e.conf - 1, stride := new, last := a }
  { p with preds := Table.set p.preds (predIndex pc) e' }

/-- v0 to v3 written. -/
def Regs.putFour (r : Regs) (l : List Word) : Regs :=
  (((r.put 0 (l.getD 0 0)).put 1 (l.getD 1 0)).put 2 (l.getD 2 0)).put 3 (l.getD 3 0)

/-- A CALLF of a list returns at a RET: its target and its v63 are those of the call (R202, R208). -/
def CallRec.matches (target sp : Word) (r : CallRec) : Bool := r.ret == target && r.sp == sp

/-- The list without its first entry that satisfies a test. -/
def dropFirst {α : Type} (p : α → Bool) : List α → List α
  | [] => []
  | x :: xs => if p x then xs else x :: dropFirst p xs

/-- The innermost call that a RET returns from trains the predictor; a continuation's training waits for its commit
(R202). (DEDUCED, log entry 30.) -/
def State.trainReturn (s : State) (c : Ctx) : State :=
  let m := CallRec.matches c.regs.lr (c.regs.get 63)
  match c.calls.find? m with
  | none => s
  | some r =>
    let s := s.onCtx c.id (fun c => { c with calls := dropFirst m c.calls })
    if c.id.lvl = 0 then s.onPart (s.coreOf c) (s.partOf c) (fun p => p.train r.pc c.regs.four)
    else
      { s with forks := s.forks.map (fun f =>
          if f.wg = c.id.wg ∧ f.tix = c.id.tix ∧ f.depth = c.id.lvl then
            { f with trains := f.trains ++ [(r.pc, c.regs.four)] }
          else f) }

/-! ### Forking (R200, R203) -/

/-- The team slots of a partition that hold a team. -/
def State.heldSlots (s : State) (core part : Nat) : List Nat :=
  (s.teams.filter (fun t => t.part == part && (match s.wg? t.wg with
    | some w => w.core == core && w.place == .resident
    | none => false))).map Team.slot

/-- The team slots of a partition in which forks borrow the thread slot of a home lane, or of any lane. -/
def State.borrowed (s : State) (core part : Nat) (lane : Option Nat) : List Nat :=
  (s.forks.filter (fun f => (match s.ctx? { wg := f.wg, tix := f.tix, lvl := 0 } with
    | some c => s.coreOf c == core && s.partOf c == part && (match lane with
      | some h => c.lane == h
      | none => true)
    | none => false))).map Fork.slot

/-- A free thread slot for a thread's home lane (R200). -/
def State.freeSlot (s : State) (c : Ctx) : Option Nat :=
  let core := s.coreOf c
  let part := s.partOf c
  (List.range Config.teamSlots).find? (fun i =>
    !(s.heldSlots core part).contains i && !(s.borrowed core part (some c.lane)).contains i)

/-- The prediction of a CALLF: its prefix's registers, or the predictor's (R201, R202). -/
def State.prediction (s : State) (p : Pfx) (c : Ctx) : Option (List Word) :=
  if p.rsv ≠ 0 then some ((List.range 4).map (fun i => c.regs.getN (p.e.toNat + i)))
  else (s.part (s.coreOf c) (s.partOf c)).predict s.cur.pc

/-- The callee context of a fork (R203). -/
def Ctx.callee (c : Ctx) (ret target : Word) : Ctx :=
  { c with regs := { c.regs with lr := ret }, pc := target, fdepth := c.fdepth + 1 }

/-- The continuation of a fork (R203). -/
def Ctx.continuation (c : Ctx) (ret : Word) (preds : List Word) : Ctx :=
  { c with id := { c.id with lvl := c.fdepth + 1 }, regs := { c.regs.putFour preds with lr := ret }, pc := ret,
           fdepth := c.fdepth + 1, inflight := [], frames := [], count := 0 }

/-- A thread forks at the CALLF that issues (R203). The thread stands at its target already. -/
def State.fork (s : State) (before : Ctx) (slot : Nat) (preds : List Word) (target : Word) : State :=
  let ret := s.cur.pc + 4
  let f : Fork :=
    { wg := before.id.wg, tix := before.id.tix, depth := before.fdepth + 1, checkpoint := before.regs, ret := ret,
      callPc := s.cur.pc, preds := preds, lines := [], hit := false, buffer := [], slot := slot, trains := [],
      issued := [] }
  let s1 := s.onCtx before.id (fun c => c.callee ret target)
  match s1.ctx? before.id with
  | none => s
  | some b =>
    { s1 with forks := s1.forks ++ [f],
              ctxs := s1.ctxs ++ [{ before.continuation ret preds with
                lastAlu := b.lastAlu, lastLong := b.lastLong, lastUni := b.lastUni, passed := 0 }] }

/-! ### Resolution (R208 to R211) -/

/-- The thread after a squash at its callee's return (R211). -/
def Ctx.squashed (c : Ctx) (checkpoint : Regs) (ret : Word) : Ctx :=
  { c with
    regs := { checkpoint.putFour c.regs.four with
      poison := (checkpoint.poison &&& ~~~0xF#64) ||| (c.regs.poison &&& 0xF#64)
      lr := ret
      fflags := checkpoint.fflags ||| c.regs.fflags
      warn := checkpoint.warn ||| c.regs.warn
      rngk := c.regs.rngk
      rngc := c.regs.rngc }
    fdepth := c.fdepth - 1
    pc := ret }

/-- The thread after a commit: the continuation's context with the callee's generator, flags and trap state (R211); the
continuation's instructions come after the callee's. -/
def Ctx.committed (callee cont : Ctx) : Ctx :=
  { cont with
    id := callee.id
    regs := { cont.regs with
      fflags := cont.regs.fflags ||| callee.regs.fflags
      warn := cont.regs.warn ||| callee.regs.warn
      rngk := callee.regs.rngk
      rngc := callee.regs.rngc }
    fdepth := callee.fdepth - 1
    shadow := callee.shadow
    inHandler := callee.inHandler
    nested := callee.nested
    heldHalt := callee.heldHalt
    haltReq := callee.haltReq
    forced := callee.forced
    frames := callee.frames
    count := callee.count + cont.count }

/-- The place of a number among the outstanding instructions and the buffered stores of a continuation. -/
def forkRank (f : Fork) (cont : Ctx) (n : Nat) : Nat :=
  (cont.inflight.filter (fun g => decide (g.num < n))).length + (f.buffer.filter (fun b => decide (b.num < n))).length

/-- The numbers of a continuation's outstanding instructions behind everything that the thread has done, in the
continuation's program order (R209, R221): two for each, since a pair's store is two. -/
def Ctx.renumbered (cont : Ctx) (f : Fork) (base : Nat) : Ctx :=
  { cont with inflight := cont.inflight.map (fun g => { g with num := base + 2 * forkRank f cont g.num }) }

/-- A store of a fork's buffer goes on as its thread's, at a place in program order; in a buffer that another workgroup
has come to hold it traps HANDLE (R134, R209). -/
def State.commitStore (s : State) (callee : Ctx) (num : Nat) (b : BufStore) : State :=
  let at_ := callee.count + b.count
  if s.handleBars (some callee.id.wg) b.key b.bytes.length then
    s.onCtx callee.id (fun c =>
      let t : Flight := { num := num, look := lookOf b.ins.2, since := c.count - at_, vdst := [], pdst := [], sdst := [],
                          pc := b.ins.1, word := b.ins.2, what := .trap causeHANDLE b.addr }
      { c with inflight := insertFlight t c.inflight })
  else
    let t := ({ s with nextNum := num } : State).ctxStore callee b.num b.addr b.ins b.key b.bytes
    { t with stores := t.stores.map (fun p => if p.num ≥ num then { p with issuers := [(callee.id, at_)] } else p) }

/-- What a continuation has read, its thread has read (R217, R230). -/
def State.takeSeen (s : State) (callee cont : Ctx) : State :=
  { s with seen := s.seen.map (fun e => if e.id = cont.id then { e with id := callee.id } else e) }

/-- A fork commits (R209): the continuation becomes the thread, its stores enter the store path in program order, and
its returns train the predictor. (DEDUCED, log entry 30.) (DEDUCED, log entry 115.) -/
def State.commitFork (s : State) (f : Fork) (callee cont : Ctx) : State :=
  let base := s.nextNum
  let s1 := (s.takeSeen callee cont).closeFork f
  let s2 := s1.onCtx callee.id (fun c => c.committed (cont.renumbered f base))
  let s3 := f.buffer.foldl (fun s b => s.commitStore callee (base + 2 * forkRank f cont b.num) b) s2
  let s4 := { s3 with nextNum := base + 2 * (cont.inflight.length + f.buffer.length) }
  f.trains.foldl (fun s t => s.onPart (s.coreOf callee) (s.partOf callee) (fun p => p.train t.1 t.2)) s4

/-- A callee returns under R208: the fork commits, or is squashed at its return (R209, R210). (DEDUCED, log entry 115.)
Whether v0 to v3 are as predicted is told by their values alone; poison that the callee left in them goes at a commit. (DESIGN
CHOICE, log entry 130.) -/
def State.resolve (s : State) (f : Fork) (callee : Ctx) : State :=
  match s.ctx? { callee.id with lvl := f.depth } with
  | none => s
  | some cont =>
    if callee.regs.four = f.preds ∧ !f.hit then s.commitFork f callee cont
    else (s.squashFork f).onCtx callee.id (fun c => c.squashed f.checkpoint f.ret)

/-- The forks of a thread are resolved for a halt or a save: each continuation is squashed, each fork leaves a
pending-return frame, the innermost first (R213). -/
def State.collapseFuel (s : State) (wg tix : Nat) : Nat → State
  | 0 => s
  | fuel + 1 =>
    match firstBy (fun f g => decide (f.depth < g.depth)) (s.forks.filter (fun f => f.wg == wg && f.tix == tix)) with
    | none => s
    | some f =>
      ((s.squashFork f).onCtx { wg := wg, tix := tix, lvl := 0 } (fun c =>
        { c with frames := { regs := f.checkpoint, ret := f.ret, callPc := f.callPc } :: c.frames })).collapseFuel
          wg tix fuel

/-- The forks of a thread collapse (R213); at most four are open (R212). -/
def State.collapse (s : State) (wg tix : Nat) : State := s.collapseFuel wg tix 4

/-- What a RET of a thread ends: its innermost open fork, or its innermost pending-return frame (R208, R213). The
context is the one before the RET; the thread stands at the target already. -/
def State.endCall (s : State) (c : Ctx) : State :=
  if c.id.lvl ≠ 0 then s
  else
    match s.innermost c.id.wg c.id.tix with
    | some f => if f.ret = c.regs.lr ∧ f.checkpoint.get 63 = c.regs.get 63 then s.resolve f c else s
    | none =>
      match c.frames with
      | [] => s
      | g :: gs =>
        if g.ret = c.regs.lr ∧ g.regs.get 63 = c.regs.get 63 then
          s.onCtx c.id (fun c => { c.squashed g.regs g.ret with frames := gs })
        else s

end Sys2Proof.Machine
end

