-- ==== Sys2Proof/Machine/Control.lean ====
section
/-!
DEFINITION. Sys2Proof/Machine/Control.lean: branches, calls and returns (R366, R370, R371, R397, R423), traps,
breakpoints, halts and YIELD (R365, R391, R437, R438, R444, R245, R246), and the lane specials (R411, R414).
-/
namespace Sys2Proof.Machine

/-! ### Branches -/

/-- BRA (R366). -/
def execBra (f : LB) (s : State) : Out := .next (lane (.bra f) (branchDo s (fun _ => lbTarget s f)) s)

/-- JMPR (R397). -/
def execJmpr (f : LX) (s : State) : Out := .next (lane (.jmpr f) (branchDo s (fun c => c.regs.get f.a)) s)

/-! ### Calls -/

/-- What CALL does for a thread (R370). -/
def callDo (s : State) (f : LB) : LaneDo :=
  { branchDo s (fun _ => lbTarget s f) with eff := fun c => { c.regs with lr := s.cur.pc + 4 } }

/-- CALL (R370). -/
def execCall (f : LB) (s : State) : Out := .next (lane (.call f) (callDo s f) s)

/-- A CALLF that the thread has issued as a CALL forks, or records that it does not (R200, R202). The context is the
one before the CALLF. -/
def callfThread (p : Pfx) (f : LB) (s : State) (c : Ctx) : State :=
  let rec_ : CallRec := { pc := s.cur.pc, ret := s.cur.pc + 4, sp := c.regs.get 63 }
  let s := s.onCtx c.id (fun c => { c with calls := rec_ :: c.calls })
  let plain := s.onCtx c.id (fun c => { c with regs := { c.regs with warn := c.regs.warn ||| warnFORKNONE } })
  if c.fdepth ≥ 4 then plain
  else
    match s.freeSlot c, s.prediction p c with
    | some slot, some preds =>
      s.fork { c with regs := { c.regs with warn := ((s.ctx? c.id).map (fun d => d.regs.warn)).getD c.regs.warn } } slot
        preds (lbTarget s f)
    | _, _ => plain

/-- CALLF (R199 to R203, R371). -/
def execCallf (f : LB) (s : State) : Out :=
  let act := acting s (.callf f) (callDo s f)
  .next (act.foldl (callfThread (s.pfx (.callf f)) f) (lane (.callf f) (callDo s f) s))

/-- A thread that has issued a RET: training, and the fork or frame that it ends (R202, R208). -/
def retThread (s : State) (c : Ctx) : State := (s.trainReturn c).endCall c

/-- RET (R423). -/
def execRet (f : LX) (s : State) : Out :=
  let d := branchDo s (fun c => c.regs.lr)
  .next ((acting s (.ret f) d).foldl retThread (lane (.ret f) d s))

/-! ### Traps -/

/-- TRAP (R437). -/
def execTrap (f : LX) (s : State) : Out :=
  .next (lane (.trap f)
    { LaneDo.regs Ctx.regs with fault := fun c => some (causeTRAP, c.regs.get f.a) } s)

/-- What TRET meets outside a handler (R240, R438). -/
def tretDo : LaneDo :=
  { LaneDo.regs Ctx.regs with fault := fun c => if c.inHandler then none else some (causePRIVILEGED, 0) }

/-- TRET (R243, R438). -/
def execTret (f : LX) (s : State) : Out :=
  .next ((acting s (.tret f) tretDo).foldl (fun s c => s.trapReturn c.id) (lane (.tret f) tretDo s))

/-! ### Halts -/

/-- A context's launch halts its threads at BKPT (R246). -/
def State.bkptHalts (s : State) (c : Ctx) : Bool := ((s.launchOf? c.id.wg).map Launch.bkptHalt).getD false

/-- What BKPT does for a thread (R365). -/
def bkptDo (s : State) : LaneDo :=
  { LaneDo.regs Ctx.regs with fault := fun c => if s.bkptHalts c then none else some (causeBKPT, 0) }

/-- A thread halts with its program counter at an address and goes on at another one when it is resumed; its forks
collapse (R213, R245, R246), and no fault record waits for what it is to issue (R146). -/
def State.haltThread (s : State) (wg tix : Nat) (at_ resume : Word) : State :=
  let s := s.collapse wg tix
  match s.ctx? { wg := wg, tix := tix, lvl := 0 } with
  | none => s
  | some c =>
    ((s.reissued (s.coreOf c) [c.id]).trace c 2 at_).onCtx c.id (fun c =>
      { c with status := .halted resume, pc := at_, haltReq := false, forced := false, nested := c.inHandler })

/-- BKPT where it halts: a thread in a handler has its halt held (R245, R246). (DEDUCED, log entry 32.) -/
def bkptThread (s : State) (c : Ctx) : State :=
  if c.inHandler then s.onCtx c.id (fun c => { c with heldHalt := true })
  else s.haltThread c.id.wg c.id.tix s.cur.start (s.cur.pc + 4)

/-- BKPT (R246, R365). -/
def execBkpt (f : LX) (s : State) : Out :=
  .next ((acting s (.bkpt f) (bkptDo s)).foldl bkptThread (lane (.bkpt f) (bkptDo s) s))

/-- A halt request for a thread (R245): inside a handler it is held, unless it is forced. One for a thread that is halted
already stays, and halts it again once it is resumed. (DEDUCED, log entry 32.) (DESIGN CHOICE, log entry 117.) -/
def Ctx.request (c : Ctx) (force : Bool) : Ctx :=
  if c.status == .exited then c
  else if !c.inHandler then { c with haltReq := true, forced := c.forced || force }
  else if force then { c with haltReq := true, nested := true }
  else { c with heldHalt := true }

/-- The key of a saved thread's record in its workgroup's image (R251). -/
def State.savedThread (s : State) (id : CtxId) : Option Nat :=
  match (s.wg? id.wg).map Workgroup.place with
  | some (.saved a) =>
    some (hbmBase + a + s.memNat (hbmBase + a + 0x20) 8 + id.tix * s.memNat (hbmBase + a + 0x1C) 4)
  | _ => none

/-- The state and flag bytes of a saved thread change in its image, from which it returns (R252, R254). -/
def State.patchSaved (s : State) (id : CtxId) (g : Nat × Nat → Nat × Nat) : State :=
  match s.savedThread id with
  | some k =>
    let x := g (s.memNat (k + 0x48) 1, s.memNat (k + 0x49) 1)
    s.homeStore (k + 0x48) (leBytes 1 x.1 ++ leBytes 1 x.2) false
  | none => s

/-- Halt requests for the threads that a test selects; the image of a saved one says that its halt is held or forced
(R245, R252). -/
def State.requestHalts (s : State) (force : Bool) (sel : CtxId → Bool) : State :=
  let saved := s.ctxs.filter (fun c => c.live && sel c.id && (s.savedThread c.id).isSome)
  let flags (x : Nat × Nat) : Nat × Nat := (x.1, if bitAt x.2 0 then x.2 ||| (if force then 2 else 4) else x.2)
  saved.foldl (fun s c => s.patchSaved c.id flags)
    (s.mapCtx (fun c => if c.id.lvl = 0 ∧ sel c.id then c.request force else c))

/-- The threads that the operand of HALT selects (R391). -/
def haltSel (c : Ctx) (x : Word) (id : CtxId) : Bool :=
  id.wg == c.id.wg && (x.getLsbD 63 || id.tix == x.toNat % 2 ^ 16)

/-- The operand of HALT names a thread that does not exist (R391). -/
def State.haltWarn (s : State) (c : Ctx) (x : Word) : BitVec 9 :=
  warnIf (!x.getLsbD 63 && decide (x.toNat % 2 ^ 16 ≥ 32 * ((s.wg? c.id.wg).map Workgroup.teams).getD 0)) warnFIELDRES

/-- What HALT does for a thread (R240, R391). -/
def haltDo (s : State) (f : LX) : LaneDo :=
  { LaneDo.regs (fun c => { c.regs with warn := c.regs.warn ||| s.haltWarn c (c.regs.get f.a) }) with
    fault := fun _ => if f.d.getLsbD 0 then some (causePRIVILEGED, 0) else none }

/-- HALT (R391). -/
def execHalt (f : LX) (s : State) : Out :=
  .next ((acting s (.halt f) (haltDo s f)).foldl
    (fun s c => s.requestHalts false (haltSel c (c.regs.get f.a))) (lane (.halt f) (haltDo s f) s))

/-- THREAD_HALT: a requested halt of a thread on a core takes effect at an instruction boundary once the thread's outstanding instructions
have completed (R245). -/
def execThreadHalt (wg tix : Nat) (s : State) : Out :=
  .next (match s.ctx? { wg := wg, tix := tix, lvl := 0 } with
    | none => s
    | some c =>
      let idle := match c.status with
        | .running => true
        | .yielding _ _ => true
        | _ => false
      if s.resident wg && c.halting && idle && c.inflight.isEmpty then s.haltThread wg tix c.pc c.pc else s)

/-! ### Stepping aside -/

/-- YIELD (R444): the thread steps aside for the others of its partition that are ready. -/
def execYield (f : LX) (s : State) : Out :=
  let d := LaneDo.regs Ctx.regs
  let act := (acting s (.yield f) d).map Ctx.id
  let others := (s.readyIds s.cur.core s.cur.part).filter (fun id => !s.cur.course.contains id)
  .next ((lane (.yield f) d s).mapCtx (fun c => if act.contains c.id then { c with status := .yielding others 64 } else c))

/-- YIELD_EXPIRY: every thread that was ready has issued, or 64 cycles have passed (R444). -/
def execYieldExpiry (id : CtxId) (s : State) : Out :=
  .next (s.onCtx id (fun c => match c.status with
    | .yielding others left => if others.isEmpty || left == 0 then { c with status := .running } else c
    | _ => c))

/-- PICKER_PASSOVER_LIMIT: the program counter of the thread passed over longest is taken at the next pick of its
pipe (R35). -/
def execPickerPassoverLimit (core part : Nat) (pipe : Pipe) (s : State) : Out :=
  .next (if pipe = .uniform then s
    else
      match overduePc (s.readyFor core part pipe) with
      | none => s
      | some pc =>
        if (s.part core part).forced.contains (pipe, pc) then s
        else s.onPart core part (fun p => { p with forced := p.forced ++ [(pipe, pc)] }))

/-! ### Lane specials -/

/-- The core that a core's vertical FIFO leads to (R12). -/
def partnerOf (core : Nat) : Nat := if core < 96 then core + 96 else core - 96

/-- %vqfree of a core (R197, R198): while the upper partner is gated, the entries held in the save area count. -/
def State.vqfree (s : State) (core : Nat) : Nat :=
  let gated := (s.core (partnerOf core)).gated
  let out := if gated then (s.core core).spill.length else (s.core core).fifo.length
  let inc := if gated then (s.core (partnerOf core)).spill.length else (s.core (partnerOf core)).fifo.length
  (Config.fifoEntries - out) + 256 * inc

/-- The contents of a special (R411); a number above 27 traps before (R295). -/
def State.special (s : State) (c : Ctx) (n : Nat) : Word :=
  match s.home? c with
  | none => 0
  | some (l, w) =>
    match n with
    | 0 => BitVec.ofNat 64 c.lane
    | 1 => BitVec.ofNat 64 c.id.tix
    | 2 => BitVec.ofNat 64 c.team
    | 3 => BitVec.ofNat 64 (l.wgx w.lin)
    | 4 => BitVec.ofNat 64 (l.wgy w.lin)
    | 5 => BitVec.ofNat 64 (l.wgz w.lin)
    | 6 => BitVec.ofNat 64 w.lin
    | 7 => BitVec.ofNat 64 w.visit
    | 8 => zext c.regs.mode
    | 9 => zext c.regs.fflags
    | 10 => zext c.regs.warn
    | 11 => zext c.regs.bcur
    | 12 => c.regs.lr
    | 13 => c.regs.rngk
    | 14 => c.regs.rngc
    | 15 => BitVec.ofNat 64 c.fdepth
    | 16 => s.scr w
    | 17 => BitVec.ofNat 64 w.scrSize
    | 18 => l.win w.lin
    | 19 => c.regs.acc
    | 20 => (s.core w.core).cyc
    | 21 => BitVec.ofNat 64 w.core
    | 22 => BitVec.ofNat 64 (w.core / 96)
    | 23 => BitVec.ofNat 64 (s.vqfree w.core)
    | _ => BitVec.ofNat 64 (l.shape (n - 24))

/-- The specials whose reading makes a workgroup placement-bound (R250): %scr, %core, %tier. -/
def bindsPlacement (n : Nat) : Bool := n ∈ [16, 21, 22]

/-- Workgroups become placement-bound (R250). -/
def State.bindPlaces (s : State) (wgs : List Nat) : State :=
  { s with wgs := s.wgs.map (fun w => if wgs.contains w.num then { w with bound := true } else w) }

/-- What MFS does for a thread (R411). (DEDUCED, log entry 31.) -/
def mfsDo (s : State) (f : LX) : LaneDo := LaneDo.regs (fun c => c.regs.put f.d (s.special c f.a.toNat))

/-- MFS (R411). -/
def execMfs (f : LX) (s : State) : Out :=
  let wgs := (acting s (.mfs f) (mfsDo s f)).map (fun c => c.id.wg)
  .next ((lane (.mfs f) (mfsDo s f) s).bindPlaces (if bindsPlacement f.a.toNat then wgs else []))

/-- A special written (R414). -/
def Regs.putSpecial (r : Regs) (n : Nat) (x : Word) : Regs :=
  match n with
  | 8 => { r with mode := x.setWidth 5 }
  | 9 => { r with fflags := x.setWidth 5 }
  | 10 => { r with warn := x.setWidth 9 }
  | 11 => { r with bcur := x.setWidth 6 }
  | 12 => { r with lr := x }
  | 13 => { r with rngk := x }
  | 14 => { r with rngc := x }
  | 19 => if x.toNat % 512 = 0 ∧ x.toNat < Config.accBytes then { r with acc := x }
          else { r with warn := r.warn ||| warnFIELDRES }
  | _ => r

/-- What MTS does for a thread (R240, R414). (DEDUCED, log entry 31.) -/
def mtsDo (f : LX) : LaneDo :=
  { LaneDo.regs (fun c => c.regs.putSpecial f.a.toNat (c.regs.get f.d)) with
    fault := fun _ => if mtsWrites f.a.toNat then none else some (causePRIVILEGED, 0) }

/-- MTS (R414). -/
def execMts (f : LX) (s : State) : Out := .next (lane (.mts f) (mtsDo f) s)

end Sys2Proof.Machine
end

