-- ==== Sys2Proof/Machine/Sync.lean ====
section
/-!
DEFINITION. Sys2Proof/Machine/Sync.lean: synchronisation objects (R226 to R228, R354, R422), waits on words and tags
(R386, R442, R443), barriers (R234, R362), fences (R229 to R233, R385) and vertical FIFOs (R197, R198, R440), with
the events that complete them.
-/
namespace Sys2Proof.Machine

/-! ### What a thread has outstanding -/

/-- A number names a write that is not yet visible: in a store path, or an atomic on its way. -/
def State.outstanding (s : State) (n : Nat) : Bool :=
  s.stores.any (fun p => p.num == n) ||
    s.ctxs.any (fun c => c.inflight.any (fun f => f.num == n && f.atomic?.isSome))

/-- A number names a write that has not entered a store path: a faulted store, or an atomic. (DEDUCED, log entry 34.)
-/
def State.stuck (s : State) (n : Nat) : Bool :=
  s.outstanding n && !(s.stores.any (fun p => p.num == n && p.parked.isNone))

/-- A pending write of a thread. -/
def PendingWrite.ofThread (p : PendingWrite) (id : CtxId) : Bool :=
  match p.src with
  | some i => covers i id.wg id.tix
  | none => false

/-- The numbers of a thread's own writes that are not yet visible and came before a number (R230, R236). -/
def State.ownWrites (s : State) (c : Ctx) (upto : Nat) : List Nat :=
  (s.stores.filter (fun p => decide (p.num < upto) && p.ofThread c.id)).map PendingWrite.num ++
    (c.inflight.filter (fun f => decide (f.num < upto) && s.stuck f.num)).map Flight.num

/-- The writes that a thread's acquires have made visible to it and that are yet to become visible at their homes (R230), as
State.got names them. -/
def State.acquired (s : State) (id : CtxId) : List Nat := (s.shownTo id).filter (fun n => s.got.contains (id, n))

/-- The numbers of the writes that a thread releases: its own, and those that its acquires made visible to it (R230). -/
def State.releasedWrites (s : State) (c : Ctx) (upto : Nat) : List Nat := s.ownWrites c upto ++ s.acquired c.id

/-- Pending writes become visible inside a scope. -/
def State.showWrites (s : State) (nums : List Nat) (v : ScopeSet) : State :=
  { s with stores := s.stores.map (fun p =>
      if nums.contains p.num ∧ !p.vis.contains v then { p with vis := p.vis ++ [v] } else p) }

/-- An outstanding access or wait, as FENCE.ACQ and FENCE.FULL wait for it (R230). -/
def Flight.accesses (f : Flight) : Bool :=
  match f.what with
  | .result => false
  | .trap _ _ => false
  | .fence _ _ _ _ => false
  | .hv _ _ => false
  | .bar _ _ => false
  | .hgive _ _ _ _ => false
  | _ => true

/-- A context has no outstanding access from before a number. -/
def Ctx.accessesDone (c : Ctx) (num : Nat) : Bool := c.inflight.all (fun f => decide (f.num ≥ num) || !f.accesses)

/-- An outstanding instruction of a context completes with a value for its destination. -/
def State.landWith (s : State) (id : CtxId) (num : Nat) (x : Word) : State :=
  (s.onCtx id (fun c =>
    match c.flight? num with
    | some f => { c.land num with regs := f.vdst.foldl (fun r d => r.put d x) c.regs }
    | none => c)).settle id

/-- An outstanding instruction without a destination completes. -/
def State.landPlain (s : State) (id : CtxId) (num : Nat) : State := (s.onCtx id (fun c => c.land num)).settle id

/-- What an instruction does for a thread when all that matters is what remains outstanding. -/
def waitDo (flight : Ctx → FlightKind) : LaneDo := { LaneDo.regs Ctx.regs with flight := fun c => some (flight c) }

/-- A wait is tested as soon as it has issued, unless the issue is to leave it for its event. -/
def State.tryAll (s : State) (defer : Bool) (ids : List CtxId) (num : Nat) (try_ : State → CtxId → Nat → State) : State :=
  if defer then s else ids.foldl (fun s id => try_ s id num) s

/-- Launches of ORDER SAMPLED forbid an operation (R91): the trap of a thread that reaches it. (DEDUCED, log entry
22.) -/
def State.sampledFault (s : State) (c : Ctx) (addr : Word) : Option (Nat × Word) :=
  if ((s.launchOf? c.id.wg).map Launch.sampled).getD false then some (causeWINDOW, addr) else none

/-! ### ACQ and WAITA -/

/-- Where a lane instruction that names its word by v(a) lies (R226, R227, R442). -/
def State.wordCheck (s : State) (f : LX) (acc : Nat) (c : Ctx) : Word × Verdict :=
  match s.home? c with
  | none => (0, .trap causeSLAB)
  | some (l, w) => s.checkLane l w c.id.tix c.regs.acc (c.regs.get f.a) 0 8 acc false

/-- Lines of ranges leave a core's L1. -/
def State.dropRanges (s : State) (core : Nat) (l : List (Nat × Nat)) : State :=
  l.foldl (fun s r => s.dropL1 core r.1 r.2) s

/-- An ACQ completes with a value: the issuing core's L1 copies of the object's regions are discarded (R227). -/
def State.completeAcq (s : State) (c : Ctx) (num : Nat) (a : Access) (x : Word) : State :=
  let core := s.coreOf c
  let regions := s.regionsOf (s.codeRoot c) a.key
  let s := ((s.dropRanges core regions).dropL1 core a.key 8).replayDone core c.id num
  let s := s.noteRead c.id num (s.viewer c num) false a.key 8
  ({ s with fits := s.fits.filter (fun e => !(e.1 == c.id && e.2.1 == num)) } : State).landWith c.id num x

/-- A WAITA completes with a value: where a release event has written of it, it acquires that (R237, R442). -/
def State.completeWaita (s : State) (c : Ctx) (num : Nat) (a : Access) (x : Word) : State :=
  let core := s.coreOf c
  let s1 := s.noteRead c.id num (s.viewer c num) false a.key 8
  ((if s.eventAt a.key 8 then s1.flushL1 core else s1).replayDone core c.id num).landWith c.id num x

/-- A waiting ACQ or WAITA reads its word at the home controller; where the word satisfies it, or for an ACQ a reading
since its issue has, it completes (R227, R442); one that was replayed has been replayed once it has read (R146). Both wait for
the thread's earlier accesses to the word, and for their workgroup's return while it is saved (R247). -/
def State.tryWord (s : State) (id : CtxId) (num : Nat) : State :=
  match s.ctx? id with
  | none => s
  | some c =>
    match c.flight? num with
    | none => s
    | some f =>
      match f.what with
      | .access a _ =>
        let core := s.coreOf c
        let x := BitVec.ofNat 64 (s.memNat a.key 8)
        let fail (cause : Nat) (addr : Word) : State := ((s.failFlight id num cause addr).replayDone core id num).settle id
        if !s.resident id.wg || s.homeReadWaits c num a.key 8 then s
        else if a.unsent then s.ask c f a false accLoad (.load 8)
        else if s.handleBars (some id.wg) a.key 8 then fail causeHANDLE a.addr
        else
          match a.op with
          | .acq threshold =>
            (match s.fitOf id num with
              | some y => s.completeAcq c num a y
              | none =>
                (match firstPoison s.poison a.key 8 with
                  | some u => fail causeMEMERR (unitAddr a u)
                  | none => if x.toNat < threshold.toNat then s.replayDone core id num else s.completeAcq c num a x))
          | .waita old =>
            (match firstPoison s.poison a.key 8 with
              | some u => fail causeMEMERR (unitAddr a u)
              | none => if x = old then s.replayDone core id num else s.completeWaita c num a x)
          | _ => s
      | _ => s

/-- An ACQ or WAITA for its course. -/
def execWordWait (i : Instr) (f : LX) (op : Ctx → AccessOp) (s : State) : Out :=
  let d := waitDo (fun c => accessFlight (op c) 8 (s.wordCheck f accLoad c))
  let act := acting s i d
  let s1 := lane i d s
  let s2 := act.foldl (fun t c => t.noteVerdict c (s.wordCheck f accLoad c)) s1
  let s3 := s2.postFaults s.cur.core (groupFaults (act.filterMap (fun c =>
    s.laneFaultReq c s.nextNum accLoad (s.wordCheck f accLoad c))) [])
  .next (s3.tryAll s.cur.defer (act.map Ctx.id) s.nextNum State.tryWord)

/-- ACQ (R227, R354). -/
def execAcq (f : LX) (s : State) : Out := execWordWait (.acq f) f (fun c => .acq (c.regs.get f.b)) s

/-- WAITA (R442). -/
def execWaita (f : LX) (s : State) : Out := execWordWait (.waita f) f (fun c => .waita (c.regs.get f.d)) s

/-- ACQ_COMPLETE (R227). -/
def execAcqComplete (id : CtxId) (num : Nat) (s : State) : Out :=
  .next (match s.flight? id num with
    | some f => (match f.what with
      | .access a _ => (match a.op with
        | .acq _ => s.tryWord id num
        | _ => s)
      | _ => s)
    | none => s)

/-- WAITA_COMPLETE (R442). -/
def execWaitaComplete (id : CtxId) (num : Nat) (s : State) : Out :=
  .next (match s.flight? id num with
    | some f => (match f.what with
      | .access a _ => (match a.op with
        | .waita _ => s.tryWord id num
        | _ => s)
      | _ => s)
    | none => s)

/-! ### REL -/

/-- What REL does for a thread: its write is on its way, named once it has entered the store path, or it failed a check
(R226). -/
def relDo (s : State) (f : LX) : LaneDo :=
  waitDo (fun c =>
    let v := s.wordCheck f accStore c
    match v.2 with
    | .key _ => .rel 0
    | _ => accessFlight (.store (leBytes 8 (c.regs.get f.b).toNat)) 8 v)

/-- The write of a thread's REL enters the store path behind the writes to the object's regions (R226), those that are bound
now among them; the instruction, which num names, waits for it. (DEDUCED, log entry 105.) -/
def relThread (f : LX) (num : Nat) (v : Word × Verdict) (s : State) (c : Ctx) : State :=
  let s := s.noteVerdict c v
  let bytes := leBytes 8 (c.regs.get f.b).toNat
  let mine := s.nextNum
  match v.2 with
  | .key k =>
    (((s.pushStore (s.coreOf c) c.id v.1 s.ins k bytes).setRegions mine (s.regionsOf (s.codeRoot c) k)).hitForks c.id k
      8).setKind c.id num (.rel mine)
  | .fault _ _ => (s.parkStore (s.coreOf c) c.id num v.1 s.ins bytes).setRegions mine []
  | .trap _ => s

/-- REL (R226, R422). -/
def execRel (f : LX) (s : State) : Out :=
  let act := acting s (.rel f) (relDo s f)
  let s1 := lane (.rel f) (relDo s f) s
  let s2 := act.foldl (fun t c => relThread f s.nextNum (s.wordCheck f accStore c) t c) s1
  .next (s2.postFaults s.cur.core (groupFaults (act.filterMap (fun c =>
    s.laneFaultReq c s.nextNum accStore (s.wordCheck f accStore c))) []))

/-! ### Tags -/

/-- The tags of a workgroup that exist and are set (R386, R443). -/
def State.tagsOf (s : State) (wg : Nat) : BitVec 64 × BitVec 64 :=
  match s.wg? wg, s.launchOf? wg with
  | some w, some l => (w.tags, BitVec.ofNat 64 (2 ^ l.tags - 1))
  | _, _ => (0, 0)

/-- WAITT's condition (R443). -/
def State.tagsReady (s : State) (wg : Nat) (mask : Word) (any : Bool) : Bool :=
  let t := s.tagsOf wg
  let m := mask &&& t.2
  m == 0 || (if any then (t.1 &&& m) != 0 else (t.1 &&& m) == m)

/-- A waiting WAITT completes once its tags are set, and acquires from the setting of those that it waited for (R237, R443);
an empty mask selects none. -/
def State.tryTags (s : State) (id : CtxId) (num : Nat) : State :=
  match s.ctx? id with
  | none => s
  | some c =>
    match c.flight? num with
    | none => s
    | some f =>
      match f.what with
      | .waitt mask any =>
        if s.resident id.wg && s.tagsReady id.wg mask any then
          (if mask &&& (s.tagsOf id.wg).2 = 0 then s else s.flushL1 (s.coreOf c)).landPlain id num
        else s
      | _ => s

/-- WAITT (R443). -/
def execWaitt (f : LX) (s : State) : Out :=
  let d := waitDo (fun c => .waitt (c.regs.get f.a) (f.d.getLsbD 0))
  let act := (acting s (.waitt f) d).map Ctx.id
  .next ((lane (.waitt f) d s).tryAll s.cur.defer act s.nextNum State.tryTags)

/-- WAITT_COMPLETE (R443). -/
def execWaittComplete (id : CtxId) (num : Nat) (s : State) : Out := .next (s.tryTags id num)

/-- The number of the lowest set bit, or 64. -/
def lowestBit (x : Word) : Nat := ((List.range 64).find? (fun i => x.getLsbD i)).getD 64

/-- FFRT's value for a thread (R386). -/
def State.firstReady (s : State) (c : Ctx) (x : Word) : Nat :=
  let t := s.tagsOf c.id.wg
  lowestBit (x &&& t.1 &&& t.2)

/-- FFRT (R386). A tag that is returned is acquired. -/
def execFfrt (f : LX) (s : State) : Out :=
  let d : LaneDo :=
    { LaneDo.regs (fun c => c.regs.put f.d (BitVec.ofNat 64 (s.firstReady c (c.regs.get f.a)))) with
      flight := fun _ => some .result }
  let seen := (acting s (.ffrt f) d).filter (fun c => s.firstReady c (c.regs.get f.a) != 64)
  let s1 := lane (.ffrt f) d s
  .next (if seen.isEmpty then s1 else s1.flushL1 s.cur.core)

/-! ### Barriers -/

/-- What BAR does for a thread (R292, R362): what the thread has acquired before its arrival it passes on (R234). -/
def barDo (s : State) (f : LX) : LaneDo :=
  { waitDo (fun c => .bar f.d.toNat (s.acquired c.id)) with word := fun c => decide (f.d.toNat < s.barriersOf c.id.wg) }

/-- The oldest wait of a context at a barrier. -/
def Ctx.barFlight (c : Ctx) (n : Nat) : Option Flight := c.inflight.find? (fun f => match f.what with
  | .bar m _ => m == n
  | _ => false)

/-- What a thread's arrival at a barrier releases: its own writes from before it, and those that it had acquired (R234). -/
def State.barWrites (s : State) (c : Ctx) (n : Nat) : List Nat :=
  match c.barFlight n with
  | some f => s.ownWrites c f.num ++ (match f.what with
    | .bar _ got => got
    | _ => [])
  | none => []

/-- A participant's writes from before its arrival are in the store path or visible. (DEDUCED, log entry 33.) -/
def State.arrivalDone (s : State) (c : Ctx) (n : Nat) : Bool :=
  match c.barFlight n with
  | some f => (s.ownWrites c f.num).all (fun m => !s.stuck m)
  | none => true

/-- A phase may complete (R362). (DEDUCED, log entry 33.) -/
def State.phaseReady (s : State) (wg n : Nat) : Bool :=
  match s.wg? wg with
  | none => false
  | some w =>
    let live := s.liveOfWg wg
    w.place == .resident && !live.isEmpty && live.all (fun c => (w.bar n).arrived.contains c.id.tix && s.arrivalDone c n) &&
      decide ((w.bar n).firings ≥ s.karrOf wg n)

/-- Each of a list of numbers leaves another list once. -/
def removeEach (gone : List Nat) (l : List Nat) : List Nat := gone.foldl (fun l x => dropFirst (fun y => y == x) l) l

/-- A phase completes where it may: arrivals release to the workgroup, departures acquire (R234, R362). -/
def State.tryPhase (s : State) (wg n : Nat) : State :=
  if !s.phaseReady wg n then s
  else
    let live := s.liveOfWg wg
    let karr := s.karrOf wg n
    let released := live.flatMap (fun c => s.barWrites c n)
    let s := s.showWrites released (.wg wg)
    let s := s.onWg wg (fun w => w.onBar n (fun b =>
      { arrived := (removeEach (live.map (fun c => c.id.tix)) b.arrived).filter (fun t => live.any (fun c => c.id.tix == t)),
        firings := b.firings - karr, phase := (b.phase + 1) % 2 ^ 32 }))
    let core := ((s.wg? wg).map Workgroup.core).getD 0
    let s := (if karr = 0 then s else s.flushL1 core).takeOver (live.map Ctx.id) released
    live.foldl (fun s c => match c.barFlight n with
      | some f => s.landPlain c.id f.num
      | none => s) s

/-- BAR (R362). -/
def execBar (f : LX) (s : State) : Out :=
  let n := f.d.toNat
  let act := acting s (.bar f) (barDo s f)
  let wgs := (act.map (fun c => c.id.wg)).eraseDups
  let s1 := lane (.bar f) (barDo s f) s
  let s2 := act.foldl (fun t c => t.onWg c.id.wg (fun w => w.onBar n (fun b =>
    { b with arrived := b.arrived ++ [c.id.tix] }))) s1
  .next (if s.cur.defer then s2 else wgs.foldl (fun t w => t.tryPhase w n) s2)

/-- BARRIER_PHASE_COMPLETE (R362). -/
def execBarrierPhaseComplete (wg bar : Nat) (s : State) : Out := .next (s.tryPhase wg bar)

/-! ### Fences -/

/-- The kinds of fences (R229). -/
def fenceREL : Nat := 0
def fenceACQ : Nat := 1
def fenceFULL : Nat := 2
def fenceLT : Nat := 3

/-- The scope that a narrow fence names, relative to a thread; none for .thr, .dev and .sys (R229). -/
def State.scopeOf (s : State) (c : Ctx) (scope : Nat) : Option ScopeSet :=
  match scope with
  | 1 => some (.team c.id.wg c.team)
  | 2 => some (.wg c.id.wg)
  | 3 => some (.core (s.coreOf c))
  | 4 => some (.pair (s.coreOf c % 96))
  | _ => none

/-- A store of a context is faulted and has not been replayed (R148). -/
def State.parkedStore (s : State) (n : Nat) : Bool := s.stores.any (fun p => p.num == n && p.parked.isSome)

/-- A fence of a context may complete (R230, R231, R385). Scope .thr orders nothing towards others, but a FENCE.FULL lets
no later access issue before the earlier ones have completed, and faulted stores are replayed first. (DEDUCED, log
entry 24.) -/
def State.fenceReady (s : State) (c : Ctx) (f : Flight) (kind scope : Nat) (writes acks : List Nat) : Bool :=
  let rel := kind == fenceREL || kind == fenceFULL
  let acq := kind == fenceACQ || kind == fenceFULL
  (if rel then
    (if scope == 0 then writes.all (fun n => !s.parkedStore n)
     else if scope ≤ 4 then writes.all (fun n => !s.stuck n)
     else writes.all (fun n => !s.outstanding n) &&
       (scope == 5 || s.acks.all (fun e => !acks.contains e.num && !writes.contains e.num)))
   else if kind == fenceLT then writes.all (fun n => !s.parkedStore n)
   else true) &&
  (!acq || (scope == 0 && kind == fenceACQ) || c.accessesDone f.num)

/-- FENCE.HV's first step is done: it is a FENCE.full.dev (R232). -/
def State.hvStepOne (s : State) (c : Ctx) (f : Flight) (writes : List Nat) : Bool :=
  s.fenceReady c f fenceFULL 5 writes []

/-- A waiting fence completes where it may. (DEDUCED, log entry 87.) -/
def State.tryFence (s : State) (id : CtxId) (num : Nat) : State :=
  match s.ctx? id with
  | none => s
  | some c =>
    match c.flight? num with
    | none => s
    | some f =>
      match f.what with
      | .fence kind scope writes acks =>
        if !s.fenceReady c f kind scope writes acks then s
        else
          let s := match (if kind = fenceREL ∨ kind = fenceFULL then s.scopeOf c scope else none) with
            | some v => (s.showWrites writes v).noteRelease id v writes
            | none => s
          let s := if (kind = fenceACQ ∨ kind = fenceFULL) ∧ scope ≥ 4 then s.flushL1 (s.coreOf c) else s
          let s := if (kind = fenceACQ ∨ kind = fenceFULL) ∧ scope ≥ 1 then s.takeOver [id] (s.fenceGets id num (s.scopeOf c scope)) else s
          s.landPlain id num
      | .hv writes cores =>
        if cores.isEmpty && s.hvStepOne c f writes then
          ((s.flushL1 (s.coreOf c)).takeOver [id] (s.fenceGets id num none)).landPlain id num
        else s
      | _ => s

/-- The scope code of a fence; 7 acts as .sys (R229). (DEDUCED, log entry 24.) -/
def fenceScope (f : LX) : Nat := if f.d.toNat / 8 = 7 then 6 else f.d.toNat / 8

/-- A fence for its course. (DEDUCED, log entry 17.) -/
def execFence (i : Instr) (kind scope : Nat) (s : State) : Out :=
  let d := waitDo (fun c => .fence kind scope (s.releasedWrites c s.nextNum) (s.acks.map PendingWrite.num))
  let act := (acting s i d).map Ctx.id
  .next ((lane i d s).tryAll s.cur.defer act s.nextNum State.tryFence)

/-- FENCE.rel (R230). -/
def execFenceRel (f : LX) (s : State) : Out := execFence (.fenceRel f) fenceREL (fenceScope f) s

/-- FENCE.acq (R230). -/
def execFenceAcq (f : LX) (s : State) : Out := execFence (.fenceAcq f) fenceACQ (fenceScope f) s

/-- FENCE.full (R230). -/
def execFenceFull (f : LX) (s : State) : Out := execFence (.fenceFull f) fenceFULL (fenceScope f) s

/-- FENCE.lt (R231). -/
def execFenceLt (f : LX) (s : State) : Out := execFence (.fenceLt f) fenceLT 0 s

/-- The cores of a mask in v(a), v(a+1) and v(a+2) (R232). -/
def hvCores (f : LX) (r : Regs) : List Nat :=
  (List.range Config.cores).filter (fun k => (r.getN (f.a.toNat + k / 64)).getLsbD (k % 64))

/-- FENCE.hv (R232). -/
def execFenceHv (f : LX) (s : State) : Out :=
  let d := waitDo (fun c => .hv (s.releasedWrites c s.nextNum) (hvCores f c.regs))
  let act := (acting s (.fenceHv f) d).map Ctx.id
  .next ((lane (.fenceHv f) d s).tryAll s.cur.defer act s.nextNum State.tryFence)

/-- The stores of a core's threads that have entered its store path, oldest first. -/
def State.pathOf (s : State) (core : Nat) : List PendingWrite :=
  s.stores.filter (fun p => p.core == core && p.src.isSome && p.parked.isNone)

/-- A core makes visible the stores in its store path that may be performed, oldest first. -/
def State.drainCore (s : State) (core : Nat) : State :=
  (s.pathOf core).foldl (fun s p => if s.writeReady p then s.advanceWrite p else s) s

/-- FENCE_HV_REQUEST: a masked core drains its store path and acknowledges (R232). It acknowledges once nothing that
was there remains. Its L1 copies are discarded: what its threads read after the request is not from before it (R233).
(DEDUCED, log entry 87.) -/
def execFenceHvRequest (id : CtxId) (num core : Nat) (s : State) : Out :=
  .next (match s.ctx? id with
    | none => s
    | some c =>
      match c.flight? num with
      | none => s
      | some f =>
        match f.what with
        | .hv writes cores =>
          if cores.contains core && s.hvStepOne c f writes then
            let s := (s.drainCore core).flushL1 core
            if (s.pathOf core).isEmpty then s.setKind id num (.hv writes (cores.filter (fun k => k != core))) else s
          else s
        | _ => s)

/-! ### Vertical FIFOs -/

/-- The upper core of a core's tier pair is gated (R198). -/
def State.partnerGated (s : State) (core : Nat) : Bool := (s.core (partnerOf core)).gated

/-- What a thread has reached first of VQPUT and VQGET: its oldest outstanding one, or its oldest arrival at one that
is off for it. -/
inductive VqHead where
  | put (flight : Option (Nat × Word)) (num : Nat)
  | get (flight : Option Nat) (num : Nat)
  deriving DecidableEq, Repr

/-- The number of a head. -/
def VqHead.num : VqHead → Nat
  | .put _ n => n
  | .get _ n => n

/-- The heads of a thread in any order. -/
def vqHeads (t : Team) (c : Ctx) : List VqHead :=
  c.inflight.filterMap (fun f => match f.what with
    | .vqput v => some (.put (some (f.num, v)) f.num)
    | .vqget => some (.get (some f.num) f.num)
    | _ => none) ++
  t.vqOff.filterMap (fun e => if e.2.1 = c.id.tix then some (if e.2.2 then .put none e.1 else .get none e.1) else none)

/-- What a thread has reached first. -/
def vqHead (t : Team) (c : Ctx) : Option VqHead := firstBy (fun a b => decide (a.num < b.num)) (vqHeads t c)

/-- What each live thread of a team has reached, where each has reached one: threads of a divergent team join with their
heads, whichever words they stand at. (DESIGN CHOICE, log entry 94.) -/
def State.vqGathered (s : State) (wg team : Nat) : Option (List (Ctx × VqHead)) :=
  match s.team? wg team with
  | none => none
  | some t =>
    let live := s.liveOfTeam wg team
    let heads := live.filterMap (fun c => (vqHead t c).map (fun h => (c, h)))
    if !live.isEmpty && heads.length == live.length then some heads else none

def VqHead.isPut : VqHead → Bool
  | .put _ _ => true
  | .get _ _ => false

/-- The arrivals that a completed VQPUT or VQGET used up. -/
def State.vqDone (s : State) (wg team : Nat) (heads : List (Ctx × VqHead)) : State :=
  s.onTeam wg team (fun t => { t with vqOff := t.vqOff.filter (fun e =>
    !heads.any (fun h => h.1.id.tix == e.2.1 && h.2.num == e.1)) })

/-- The 32 lanes of an entry (R440). -/
def vqEntry (heads : List (Ctx × VqHead)) : List Word :=
  (List.range 32).map (fun h => match heads.find? (fun e => e.1.lane == h) with
    | some (_, .put (some (_, v)) _) => v
    | _ => 0)

/-- A gathered VQPUT finds room and places its entry, which releases the team's earlier writes (R197, R440). (DEDUCED,
log entry 34.) -/
def State.tryVqput (s : State) (wg team : Nat) : State :=
  match s.vqGathered wg team, s.wg? wg with
  | some heads, some w =>
    let core := w.core
    let gated := s.partnerGated core
    let held := if gated then (s.core core).spill.length else (s.core core).fifo.length
    let writes := heads.flatMap (fun e => s.ownWrites e.1 e.2.num)
    if w.place != .resident || !heads.all (fun e => e.2.isPut) || held ≥ Config.fifoEntries || writes.any s.stuck then s
    else
      let entry : FifoEntry := { lanes := vqEntry heads, writes := writes }
      let s := s.showWrites writes (.pair (core % 96))
      let s := s.onCore core (fun k => if gated then { k with spill := k.spill ++ [entry] }
        else { k with fifo := k.fifo ++ [entry] })
      heads.foldl (fun s e => match e.2 with
        | .put (some (n, _)) _ => s.landPlain e.1.id n
        | _ => s) (s.vqDone wg team heads)
  | _, _ => s

/-- A gathered VQGET finds an entry and takes it, and its threads acquire what the entry released (R197, R440). -/
def State.tryVqget (s : State) (wg team : Nat) : State :=
  match s.vqGathered wg team, s.wg? wg with
  | some heads, some w =>
    let core := w.core
    let from_ := partnerOf core
    let gated := s.partnerGated core
    let entries := if gated then (s.core from_).spill else (s.core from_).fifo
    match entries with
    | [] => s
    | entry :: rest =>
      if w.place != .resident || heads.any (fun e => e.2.isPut) then s
      else
        let s := s.onCore from_ (fun k => if gated then { k with spill := rest } else { k with fifo := rest })
        heads.foldl (fun s e => match e.2 with
          | .get (some n) _ => s.landWith e.1.id n (entry.lanes.getD e.1.lane 0)
          | _ => s) (((s.flushL1 core).takeOver (heads.map (fun e => e.1.id)) entry.writes).vqDone wg team heads)
  | _, _ => s

/-- The threads of the course for which an instruction issues and is off. -/
def offIds (s : State) (i : Instr) (d : LaneDo) : List CtxId :=
  s.cur.course.filter (fun id => match s.ctx? id with
    | some c => (laneFault s i d c).isNone && fate (s.shp i) (s.pfx i) c.regs != .acts
    | none => false)

/-- A VQPUT or VQGET issues: its threads arrive, the off ones too (R440). In a sampled launch no VQPUT comes about, and
nobody arrives at one (R91). -/
def vqArrive (i : Instr) (d : LaneDo) (put : Bool) (s : State) : State :=
  let act := acting s i d
  let off := (offIds s i d).filter (fun id => !put || ((s.ctx? id).bind (fun c => s.sampledFault c 0)).isNone)
  let s1 := (lane i d s).bindPlaces (act.map (fun c => c.id.wg))
  let teams := courseTeams s.cur.course
  let here (t : Team) : List CtxId := off.filter (fun id => id.wg == t.wg && id.tix / 32 == t.idx)
  let mark (t : Team) : Team := { t with vqOff := t.vqOff ++ (here t).map (fun id => (s.nextNum, id.tix, put)) }
  let s2 := { s1 with teams := s1.teams.map mark }
  if s.cur.defer then s2
  else teams.foldl (fun s w => if put then s.tryVqput w.1 w.2 else s.tryVqget w.1 w.2) s2

/-- VQPUT (R440). -/
def execVqput (f : LX) (s : State) : Out :=
  .next (vqArrive (.vqput f) { waitDo (fun c => .vqput (c.regs.get f.a)) with fault := fun c => s.sampledFault c 0 } true s)

/-- VQGET (R440). -/
def execVqget (f : LX) (s : State) : Out := .next (vqArrive (.vqget f) (waitDo (fun _ => .vqget)) false s)

/-- VQPUT_COMPLETE (R440). -/
def execVqputComplete (wg team : Nat) (s : State) : Out := .next (s.tryVqput wg team)

/-- VQGET_COMPLETE (R440). -/
def execVqgetComplete (wg team : Nat) (s : State) : Out := .next (s.tryVqget wg team)

end Sys2Proof.Machine
end

