-- ==== Sys2Proof/Machine/Uniform.lean ====
section
/-!
DEFINITION. Sys2Proof/Machine/Uniform.lean: the uniform pipe (R33, R425, R426, R431, R432, R441), bindings (R224,
R225, R364), guards (R390) and network configurations (R415, R416).
-/
namespace Sys2Proof.Machine

/-! ### The shape of every uniform instruction -/

/-- The team that issues. -/
def State.curTeam (s : State) : Option Team := s.team? s.cur.wg s.cur.team

/-- An s-register of the team that issues. -/
def State.sreg (s : State) (n : Reg) : Word := (s.curTeam.map (fun t => t.get n)).getD 0

/-- The launch and workgroup of the team that issues. -/
def State.curHome (s : State) : Option (Launch × Workgroup) :=
  (s.wg? s.cur.wg).bind (fun w => (s.launch? w.launch).map (fun l => (l, w)))

/-- The live threads of the team that issues. -/
def State.curLive (s : State) : List Ctx := s.cur.course.filterMap s.ctx?

/-- How a uniform instruction ends at its issue: a trap of every live thread (R431), a translation fault on what it
reads, which parks the team until the instruction issues again, or its effect on the team, what it records, where
the threads go on and what remains outstanding. -/
inductive TeamDo where
  | trap (cause : Nat) (addr : Word)
  | park (acc : Nat) (addr : Word) (reason level : Nat)
  | run (eff : Team → Team) (warn : BitVec 9) (next : Word) (flight : Option FlightKind)

/-- The word after the one that issues. -/
def State.after (s : State) : Word := s.cur.pc + 4

/-- Every live thread of the team meets a trap. -/
def teamTrap (i : Instr) (cause : Nat) (addr : Word) (s : State) : State :=
  s.cur.course.foldl (fun s id => laneTrap i s (id, cause, addr)) s

/-- The team parks: each of its threads holds the instruction until the fault is resolved (R148, R431). -/
def teamPark (acc : Nat) (addr : Word) (reason level : Nat) (s : State) : State :=
  let num := s.nextNum
  let f : Flight := { num := num, look := 0, since := 0, vdst := [], pdst := [], sdst := [], pc := s.cur.pc,
                      word := s.cur.word, what := .retry }
  let stay (c : Ctx) : Ctx :=
    if s.cur.course.contains c.id then { c with pc := s.cur.start, inflight := c.inflight ++ [f] } else c
  let r : FaultReq :=
    { addr := addr, pc := s.cur.pc, mask := 0, reason := reason, agent := 1, teamSlot := s.teamSlot s.cur.wg s.cur.team,
      access := acc, level := level, launch := ((s.wg? s.cur.wg).map Workgroup.launch).getD 0,
      who := s.cur.course.map (fun id => (id, num)), hod := false, resolved := false }
  ({ s.mapCtx stay with nextNum := num + 1 }).postFaults s.cur.core [r]

/-- The team goes on. -/
def teamRun (i : Instr) (eff : Team → Team) (warn : BitVec 9) (next : Word) (flight : Option FlightKind)
    (s : State) : State :=
  let w := s.wordWarn i ||| warn
  let move (c : Ctx) : Ctx :=
    if s.cur.course.contains c.id then
      let c' := (c.goto next).warned w
      { c' with inflight := c'.inflight ++ (match flight with
          | some k => [newFlight s (s.shp i) k]
          | none => []) }
    else c
  { (s.onTeam s.cur.wg s.cur.team eff).mapCtx move with nextNum := s.nextNum + 1 }

/-- A thread of the team that a uniform instruction reads a lane register of (R441). -/
def uniformWordBad (s : State) (i : Instr) : Bool :=
  s.curLive.any (fun c => !regsOk (s.regsOf c) (s.shp i) (s.pfx i))

/-- The lane register that VTOS reads is poisoned (R154). -/
def uniformPoison (s : State) (i : Instr) : Bool :=
  s.curLive.any (fun c => (readsOf i (s.shp i) (s.pfx i) c).any (fun n => c.regs.poison.getLsbD n))

/-- A uniform instruction for its team. -/
def uniform (i : Instr) (d : TeamDo) (s : State) : State :=
  if uniformWordBad s i then teamTrap i causeILLEGAL 0 s
  else if uniformPoison s i then teamTrap i causeMEMERR 0 s
  else
    match d with
    | .trap cause addr => teamTrap i cause addr s
    | .park acc addr reason level => teamPark acc addr reason level s
    | .run eff warn next flight => teamRun i eff warn next flight s

/-- A short uniform instruction that writes one s-register. -/
def uniPut (i : Instr) (d : Reg) (x : Word) (s : State) : Out :=
  .next (uniform i (.run (fun t => t.put d x) 0 s.after none) s)

/-- A long uniform instruction that writes one s-register, with what its result records. -/
def longPut (d : Reg) (x : Word) (warn : BitVec 9) (s : State) : TeamDo :=
  .run (fun t => t.put d x) warn s.after (some .result)

/-! ### Short operations (R425) -/

/-- SNOP. -/
def execSnop (f : SA) (s : State) : Out := .next (uniform (.snop f) (.run id 0 s.after none) s)

/-- SADD. -/
def execSadd (f : SA) (s : State) : Out := uniPut (.sadd f) f.d (s.sreg f.a + s.sreg f.b) s

/-- SSUB. -/
def execSsub (f : SA) (s : State) : Out := uniPut (.ssub f) f.d (s.sreg f.a - s.sreg f.b) s

/-- SMUL. -/
def execSmul (f : SA) (s : State) : Out := uniPut (.smul f) f.d (s.sreg f.a * s.sreg f.b) s

/-- SAND. -/
def execSand (f : SA) (s : State) : Out := uniPut (.sand f) f.d (s.sreg f.a &&& s.sreg f.b) s

/-- SOR. -/
def execSor (f : SA) (s : State) : Out := uniPut (.sor f) f.d (s.sreg f.a ||| s.sreg f.b) s

/-- SXOR. -/
def execSxor (f : SA) (s : State) : Out := uniPut (.sxor f) f.d (s.sreg f.a ^^^ s.sreg f.b) s

/-- SSHL. -/
def execSshl (f : SA) (s : State) : Out := uniPut (.sshl f) f.d (s.sreg f.a <<< ((s.sreg f.b).toNat % 64)) s

/-- SSHR. -/
def execSshr (f : SA) (s : State) : Out := uniPut (.sshr f) f.d (s.sreg f.a >>> ((s.sreg f.b).toNat % 64)) s

/-- SSAR. -/
def execSsar (f : SA) (s : State) : Out :=
  uniPut (.ssar f) f.d ((s.sreg f.a).sshiftRight ((s.sreg f.b).toNat % 64)) s

/-- The lesser or greater of two s-registers: FN 1 compares unsigned. -/
def uniMin (f : SA) (less : Bool) (a b : Word) : Word :=
  let lt := if f.fn = 1 then a.ult b else a.slt b
  if lt == less then a else b

/-- SMIN. -/
def execSmin (f : SA) (s : State) : Out := uniPut (.smin f) f.d (uniMin f true (s.sreg f.a) (s.sreg f.b)) s

/-- SMAX. -/
def execSmax (f : SA) (s : State) : Out := uniPut (.smax f) f.d (uniMin f false (s.sreg f.a) (s.sreg f.b)) s

/-- SCMP. -/
def execScmp (f : SA) (s : State) : Out :=
  uniPut (.scmp f) f.d (if intCond f.fn 64 false (s.sreg f.a).toNat (s.sreg f.b).toNat then 1 else 0) s

/-- SADDI. -/
def execSaddi (f : SI) (s : State) : Out := uniPut (.saddi f) f.d (s.sreg f.a + sext f.imm) s

/-- SANDI. -/
def execSandi (f : SI) (s : State) : Out := uniPut (.sandi f) f.d (s.sreg f.a &&& sext f.imm) s

/-- SORI. -/
def execSori (f : SI) (s : State) : Out := uniPut (.sori f) f.d (s.sreg f.a ||| sext f.imm) s

/-- The amount of an immediate shift: imm13[5:0]. -/
def uniAmount (f : SI) : Nat := f.imm.toNat % 64

/-- SSHLI. -/
def execSshli (f : SI) (s : State) : Out := uniPut (.sshli f) f.d (s.sreg f.a <<< uniAmount f) s

/-- SSHRI. -/
def execSshri (f : SI) (s : State) : Out := uniPut (.sshri f) f.d (s.sreg f.a >>> uniAmount f) s

/-- SSARI. -/
def execSsari (f : SI) (s : State) : Out := uniPut (.ssari f) f.d ((s.sreg f.a).sshiftRight (uniAmount f)) s

/-- SMOVI. -/
def execSmovi (f : SW) (s : State) : Out := uniPut (.smovi f) f.d (sext f.imm) s

/-- SMOVH. -/
def execSmovh (f : SW) (s : State) : Out := uniPut (.smovh f) f.d ((s.sreg f.d <<< 19) ||| zext f.imm) s

/-- VTOS (R441). -/
def execVtos (f : SA) (s : State) : Out :=
  uniPut (.vtos f) f.d (laneVal s.curLive (fun c => c.regs.get f.a) (f.b.toNat % 32)) s

/-! ### Branches (R426) -/

/-- What a uniform branch does. -/
def uniBranch (f : SB) (taken : Bool) (s : State) : TeamDo :=
  let t := s.after + (sext f.off <<< 2)
  if !taken then .run id 0 s.after none
  else
    match (match s.curLive with
      | c :: _ => s.branchFault c t
      | [] => none) with
    | some (cause, addr) => .trap cause addr
    | none => .run id 0 t none

/-- SBZ. -/
def execSbz (f : SB) (s : State) : Out := .next (uniform (.sbz f) (uniBranch f (s.sreg f.a == 0) s) s)

/-- SBNZ. -/
def execSbnz (f : SB) (s : State) : Out := .next (uniform (.sbnz f) (uniBranch f (s.sreg f.a != 0) s) s)

/-! ### SLD and SST (R431) -/

/-- The address of an SLD or SST. -/
def uniAddr (f : SI) (s : State) : Word := s.sreg f.a + sext f.imm

/-- What the checks say of an SLD or SST. -/
def uniCheck (f : SI) (acc : Nat) (s : State) : Verdict :=
  match s.curHome with
  | none => .trap causeSLAB
  | some (l, w) => s.checkAddr l w 0 0 (uniAddr f s).toNat 8 acc false

/-- The request of a uniform access whose walk fails (R144, R431). -/
def uniFault (f : SI) (acc reason level : Nat) (s : State) : FaultReq :=
  { addr := uniAddr f s, pc := s.cur.pc, mask := 0, reason := reason, agent := 1,
    teamSlot := s.teamSlot s.cur.wg s.cur.team, access := acc, level := level,
    launch := ((s.wg? s.cur.wg).map Workgroup.launch).getD 0,
    who := s.cur.course.map (fun id => (id, s.nextNum)), hod := false, resolved := false }

/-- A team's translated address stays cached (R141). -/
def State.noteTeamLeaf (s : State) (addr : Word) : State :=
  match s.curLive with
  | c :: _ => s.noteLeaf c addr
  | [] => s

/-- An SLD or SST at its issue. -/
def uniAccess (f : SI) (op : AccessOp) (acc : Nat) (s : State) : TeamDo :=
  match uniCheck f acc s with
  | .trap cause => .trap cause (uniAddr f s)
  | .key k => .run id 0 s.after (match op with
    | .store _ => none
    | _ => some (.access { addr := uniAddr f s, key := k, size := 8, op := op } true))
  | .fault _ _ => .run id 0 s.after (some (.parked { addr := uniAddr f s, key := 0, size := 8, op := op } true))

/-- SLD. -/
def execSld (f : SI) (s : State) : Out :=
  let s1 := uniform (.sld f) (uniAccess f (.load false) accLoad s) s
  .next (match uniCheck f accLoad s with
    | .fault r l => s1.postFaults s.cur.core [uniFault f accLoad r l s]
    | .key _ => s1.noteTeamLeaf (uniAddr f s)
    | .trap _ => s1)

/-- The source of a team's store: its first thread's name at level 1. -/
def State.teamSrc (s : State) : CtxId := { wg := s.cur.wg, tix := 32 * s.cur.team, lvl := 1 }

/-- SST. -/
def execSst (f : SI) (s : State) : Out :=
  let bytes := leBytes 8 (s.sreg f.d).toNat
  let s1 := uniform (.sst f) (uniAccess f (.store bytes) accStore s) s
  .next (match uniCheck f accStore s with
    | .key k =>
      let s2 := s1.noteTeamLeaf (uniAddr f s)
      s.cur.course.foldl (fun t id => t.hitForks id k 8) (s2.pushStore s.cur.core s.teamSrc (uniAddr f s) s.ins k bytes)
    | .fault r l =>
      let first := s.cur.course.headD s.teamSrc
      let s2 := s1.parkStore s.cur.core first s.nextNum (uniAddr f s) s.ins bytes
      let name (p : PendingWrite) : PendingWrite :=
        if p.parked = some (first, s.nextNum) then { p with src := some s.teamSrc, issuers := s1.issuersOf s.teamSrc } else p
      ({ s2 with stores := s2.stores.map name }).postFaults s.cur.core [uniFault f accStore r l s]
    | .trap _ => s1)

/-! ### Team specials (R432) -/

/-- A team special. -/
def State.teamSpecial (s : State) (n : Nat) : Word :=
  match s.curHome with
  | none => 0
  | some (l, w) =>
    match n with
    | 0 => w.tags &&& BitVec.ofNat 64 (2 ^ l.tags - 1)
    | 1 => BitVec.ofNat 64 (l.dimx + 2 ^ 32 * l.dimy)
    | 2 => BitVec.ofNat 64 l.total
    | 3 => BitVec.ofNat 64 l.num
    | 4 => BitVec.ofNat 64 l.seed
    | _ => BitVec.ofNat 64 l.bucket

/-- SRD. -/
def execSrd (f : SI) (s : State) : Out := uniPut (.srd f) f.d (s.teamSpecial f.imm.toNat) s

/-- SWR: it clears the tags of a mask; any other special traps PRIVILEGED (R240). -/
def execSwr (f : SI) (s : State) : Out :=
  if f.imm = 0 then
    let x := s.sreg f.a
    .next ((uniform (.swr f) (.run id 0 s.after none) s).onWg s.cur.wg (fun w => { w with tags := w.tags &&& ~~~x }))
  else .next (uniform (.swr f) (.trap causePRIVILEGED 0) s)

/-! ### Reads of a team -/

/-- The team that issues as a reader of what came before. -/
def State.teamViewer (s : State) : Viewer :=
  { wg := s.cur.wg, tix := none, team := s.cur.team, core := s.cur.core, upto := s.nextNum }

/-- What a team reads as one read of n bytes, under the checks of R142. -/
inductive TeamRead where
  | got (bytes : List Byte)
  | trap (cause : Nat) (addr : Word)
  | park (addr : Word) (reason level : Nat)
  deriving DecidableEq, Repr

/-- A read of n bytes for the team that issues. -/
def State.teamRead (s : State) (addr : Word) (n align : Nat) : TeamRead :=
  match s.curHome with
  | none => .trap causeSLAB addr
  | some (l, w) =>
    match s.checkRead l (some w) addr.toNat n align with
    | .trap cause => .trap cause addr
    | .fault reason level => .park addr reason level
    | .key k =>
      match s.readPoison s.teamViewer k n with
      | some u => .trap causeMEMERR (BitVec.ofNat 64 (if u ≤ k then addr.toNat - (k - u) else addr.toNat + (u - k)))
      | none => .got (s.viewBytes s.teamViewer true k n)

/-- Launches of ORDER SAMPLED. -/
def State.curSampled (s : State) : Bool := (s.curHome.map (fun h => h.1.sampled)).getD false

/-- The page-table root of the team that issues. -/
def State.curRoot (s : State) : Nat := (s.curHome.map (fun h => s.ptRoot h.1.queue)).getD 0

/-- A record that the team that issues has read: what it asks of other devices (R268), and whose writes its threads have
got (R230). -/
def State.teamFetched (s : State) (t : State) (addr n : Nat) : State :=
  let reads := (s.enginePieces s.curRoot addr n accNone).ranges.flatMap (fun r => s.cur.course.map (fun id => (id, r)))
  (reads.foldl (fun t e => t.noteRead e.1 s.nextNum s.teamViewer true e.2.1 e.2.2) t).fetchFar s.curRoot addr n

/-! ### Network configurations (R415, R416) -/

/-- A register of the issuing team's partition takes a configuration word. -/
def State.setNet (s : State) (n : Nat) (word : BitVec 256) : State :=
  s.onPart s.cur.core s.cur.part (fun p => { p with net := Table.set p.net n { word := word, wg := s.cur.wg } })

/-- NETLD. -/
def execNetld (f : SA) (s : State) : Out :=
  let addr := s.sreg f.a
  .next (match s.teamRead addr 32 32 with
    | .trap cause a => uniform (.netld f) (.trap cause a) s
    | .park a reason level => uniform (.netld f) (.park accLoad a reason level) s
    | .got bytes =>
      let word : BitVec 256 := BitVec.ofNat 256 (leNat bytes)
      let s1 := uniform (.netld f) (.run id (warnIf (decide (word.toNat ≥ 2 ^ 176)) warnFIELDRES) s.after
        (some .result)) s
      s.teamFetched ((s1.setNet (f.d.toNat % 16) word).noteTeamLeaf addr) addr.toNat 32)

/-! ### Bindings (R224, R225, R364) -/

/-- Binding statuses (R225). -/
def bindOK : Nat := 0
def bindBADFIELD : Nat := 1
def bindCONFLICT : Nat := 2
def bindFULL : Nat := 3
def bindNOSPACE : Nat := 4
def bindNOTBOUND : Nat := 5

/-- A place as bindings name it: a slab key of this device, or a virtual address; none elsewhere. -/
def State.bindPlace (s : State) (addr : Nat) : Option Nat := if isTranslated addr then some addr else s.localSlab addr

/-- The memory key of an object on this device. -/
def State.objectKey (s : State) (addr : Nat) : Option Nat :=
  if isTranslated addr then
    match s.translate s.curRoot addr accNone with
    | .key k => if isHbmKey k then some k else none
    | _ => none
  else s.localSlab addr

/-- The place of a region that lies wholly in slab or wholly in translated space of this device. -/
def State.regionPlace (s : State) (base len : Nat) : Option Nat :=
  match s.bindPlace base, s.bindPlace (base + len - 1) with
  | some p, some q =>
    if q != p + len - 1 then none
    else if isTranslated base &&
        (s.rangeKeys s.curRoot (len / 65536 + 2) base len).any (fun r => isRemoteKey r.1 || isHostKey r.1) then none
    else some p
  | _, _ => none

/-- BIND's status, and the bindings after it. (DEDUCED, log entry 70.) -/
def State.bindResult (s : State) (obj base len : Nat) : Nat × List Binding :=
  if obj % 8 ≠ 0 ∨ base % 64 ≠ 0 ∨ len % 64 ≠ 0 ∨ len < 64 ∨ len > 2 ^ 40 then (bindBADFIELD, s.bindings)
  else
    match s.objectKey obj, s.bindPlace obj, s.regionPlace base len with
    | some key, some place, some p =>
      let b : Binding := { obj := key, at_ := place, base := p, len := len }
      if s.bindings.any (fun x => x.obj == key && x.base == p && x.len == len) then (bindOK, s.bindings)
      else if s.bindings.any (fun x => overlaps x.base x.len p len || overlaps place 8 x.base x.len ||
          overlaps x.at_ 8 p len) || overlaps place 8 p len then (bindCONFLICT, s.bindings)
      else if (s.bindings.filter (fun x => x.obj == key)).length ≥ Config.regionsPerObject then (bindFULL, s.bindings)
      else if !(s.bindings.any (fun x => x.obj == key)) &&
          decide ((s.bindings.map Binding.obj).eraseDups.length ≥ Config.objects) then (bindNOSPACE, s.bindings)
      else (bindOK, s.bindings ++ [b])
    | _, _, _ => (bindBADFIELD, s.bindings)

/-- UNBIND's status, and the bindings after it. (DEDUCED, log entry 70.) -/
def State.unbindResult (s : State) (obj base : Nat) : Nat × List Binding :=
  if obj % 8 ≠ 0 ∨ base % 64 ≠ 0 then (bindBADFIELD, s.bindings)
  else
    match s.objectKey obj with
    | none => (bindBADFIELD, s.bindings)
    | some key =>
      if base = 0 then (bindOK, s.bindings.filter (fun x => x.obj != key))
      else
        match s.bindPlace base with
        | none => (bindBADFIELD, s.bindings)
        | some p =>
          if s.bindings.any (fun x => x.obj == key && x.base == p) then
            (bindOK, s.bindings.filter (fun x => !(x.obj == key && x.base == p)))
          else (bindNOTBOUND, s.bindings)

/-- BIND or UNBIND with its result. -/
def execBinding (i : Instr) (f : SA) (r : Nat × List Binding) (s : State) : Out :=
  if s.curSampled then .next (uniform i (.trap causeWINDOW 0) s)
  else
    let r := if f.b = 63 then (bindBADFIELD, s.bindings) else r
    .next { uniform i (longPut f.d (BitVec.ofNat 64 r.1) 0 s) s with bindings := r.2 }

/-- BIND (R364). -/
def execBind (f : SA) (s : State) : Out :=
  execBinding (.bind f) f (s.bindResult (s.sreg f.a).toNat (s.sreg f.b).toNat (s.sreg (f.b + 1)).toNat) s

/-- UNBIND (R364). -/
def execUnbind (f : SA) (s : State) : Out :=
  execBinding (.unbind f) f (s.unbindResult (s.sreg f.a).toNat (s.sreg f.b).toNat) s

/-! ### Guards (R163, R390) -/

/-- The numbers of the writes that the team that issues releases: its threads' own earlier ones (R236, R446). -/
def State.teamWrites (s : State) : List Nat := s.curLive.flatMap (fun c => s.ownWrites c s.nextNum)

/-- The writes that the GSETs of a workgroup's guard slot release to the records that name it (R390). -/
def Workgroup.guardWrites (w : Workgroup) (slot : Nat) : List Nat := Table.get w.guardAfter [] slot

/-- A GSET of a slot releases the team's writes to every record that names the slot, also one that comes later (R390). -/
def State.guardRelease (s : State) (wg slot : Nat) (writes : List Nat) : State :=
  s.onWg wg (fun w => { w with guardAfter := Table.set w.guardAfter slot (w.guardWrites slot ++ writes) })

/-- GSET. -/
def execGset (f : SA) (s : State) : Out :=
  let slot := (s.sreg f.a).toNat
  let known := match s.curHome with
    | some (l, _) => decide (slot < l.guards)
    | none => false
  let s1 := uniform (.gset f) (.run id (warnIf (!known) warnFIELDRES) s.after (some .result)) s
  let value := s.sreg f.b != 0
  .next (if !known then s1
    else
      if ((s.wg? s.cur.wg).map (fun w => (Table.find w.guards slot).isSome)).getD true then s1
      else
        (s1.onWg s.cur.wg (fun w => { w with guards := Table.set w.guards slot value })).guardRelease s.cur.wg slot
          s.teamWrites)

end Sys2Proof.Machine
end

