-- ==== Sys2Proof/Machine/Place.lean ====
section
/-!
DEFINITION. Sys2Proof/Machine/Place.lean: a state in which a given instruction issues next: one launch with one
workgroup of one team, placed on core 0, its code in slab (log entry 7 says how a program comes to run from reset).
-/
namespace Sys2Proof.Machine

/-- Where the placed instruction stands: offset 0x10040 of core 0's slice, behind its kernel header. -/
def placedPc : Word := 0x00F00FFF00010040

/-- The launch record of the placed launch (R43): CODE, one workgroup of one team, no communicator. -/
def placedRecord : List Byte :=
  leBytes 8 placedPc.toNat ++ leBytes 4 1 ++ leBytes 4 1 ++ leBytes 4 1 ++ leBytes 1 1 ++ List.replicate 283 0 ++
    leBytes 1 0xFF ++ List.replicate 207 0

/-- The kernel header of the placed launch (R45): all 64 registers, 64 tags, 16 barriers, 64 guard slots. -/
def placedHeader : List Byte :=
  leBytes 2 1 ++ leBytes 1 64 ++ leBytes 1 0 ++ leBytes 4 0 ++ leBytes 1 64 ++ leBytes 1 16 ++ leBytes 1 64 ++
    List.replicate 53 0

/-- The placed launch, under queue 0, with a grant over the whole of core 0's slice. -/
def placedLaunch : Launch :=
  { num := 1, recAddr := 0, rcd := placedRecord, hdr := placedHeader, entry := placedPc, bucket := 8, dimx := 1, dimy := 1,
    queue := 0, depth := 1, parent := none, parentWg := none,
    grants := [{ base := slabKey 0 0, len := Config.systemArea, rd := true, wr := true, at_ := true }],
    phase := .started, status := 0, counter := 1, sent := 1, retired := 0, committed := 0, discarded := 0, samples := [],
    lastCommit := 0, nanSlots := [], stop := none, startCycle := 0, energy := 0, pinned := [], stall := 0, lastCore := 0,
    chunks := 0, bkptHalt := false, finalised := false, after := [], tests := [], words := [] }

/-- A workgroup as admission leaves it (R46, R253). -/
def freshWorkgroup (num launch core lin visit order teams scrOff scrSize : Nat) : Workgroup :=
  { num := num, launch := launch, core := core, lin := lin, visit := visit, order := order, teams := teams,
    scrOff := scrOff, scrSize := scrSize, place := .resident, arriving := false, leftAt := 0, seats := [], stream := [], streamBad := [],
    tags := 0, guards := [], guardAfter := [], bars := [],
    sums := [], gmin := 2 ^ 64 - 1, gmax := 0, loomHolding := false, bound := false, copies := [], heldFirings := [],
    leaving := false, ousted := false, called := false, savedRecs := [], paused := none }

/-- A register frame of zeros with a stack top and a generator key (R31, R46, R121). -/
def freshRegs (top key : Word) : Regs :=
  { v := (Vector.replicate 64 0).set 63 top, p := 0, lr := 0, mode := 0, fflags := 0, warn := 0, bcur := 0, acc := 0,
    rngk := key, rngc := 0, poison := 0 }

/-- The generator key of a thread (R121). -/
def rngKey (seed lin tix : Nat) : Word :=
  BitVec.ofNat 64 (seed + lin * 0x9E3779B97F4A7C15 + tix * 0xD1B54A32D192ED03)

/-- A thread as it starts at an entry (R31). -/
def freshCtx (wg tix : Nat) (entry top key : Word) : Ctx :=
  { id := { wg := wg, tix := tix, lvl := 0 }, team := tix / 32, lane := tix % 32, regs := freshRegs top key, pc := entry,
    fdepth := 0, status := .running, inflight := [], shadow := { v := [0, 0, 0, 0], mode := 0, fpc := 0, rpc := 0 },
    inHandler := false, nested := false, heldHalt := false, haltReq := false, frames := [], calls := [], lastAlu := 0,
    lastLong := 0, lastUni := 0, passed := 0 }

/-- A team as it starts, with its s-registers (R31). -/
def freshTeam (wg idx part slot : Nat) (regs : Vector Word 64) : Team :=
  { wg := wg, idx := idx, part := part, slot := slot, s := regs, hodSeq := 0, vqOff := [], serve := none }

/-- The bytes of the placed code. -/
def placedCode (nbits w : Nat) : List Byte := leBytes (nbits / 8) w

/-- The placed code as the instruction cache of its partition holds it: launch 1, address, word (R32). -/
def placedWords (nbits w : Nat) : List (Nat × Nat × Code) :=
  (List.range (nbits / 32)).map (fun i => (1, placedPc.toNat + 4 * i, BitVec.ofNat 32 (w / 2 ^ (32 * i))))

/-- A state whose next step issues the instruction of the bits w. (DESIGN CHOICE, log entry 7.) -/
def State.place (s : State) (nbits w : Nat) : State :=
  { s with
    ctxs := (List.range 32).map (fun t =>
      { freshCtx 0 t placedPc 0 (rngKey 0 0 t) with status := if t = 0 then .running else .exited }), forks := [],
    teams := [freshTeam 0 0 0 0 (Vector.replicate 64 0)],
    wgs := [freshWorkgroup 0 1 0 0 0 0 1 0 0], launches := [placedLaunch], cores := [],
    parts := [(0, { Part.init with icache := placedWords nbits w })],
    mem := cellsWrite s.mem (slabKey 0 0x10040) (placedCode nbits w), poison := [], devnum := none, agenda := [] }

end Sys2Proof.Machine
end

