-- ==== Sys2Proof/Machine/Descs.lean ====
section
/-!
DEFINITION. Sys2Proof/Machine/Descs.lean: the records that engines take (R158, R168, R178, R183, R186), the ranges
that a task reads and writes, and the checks at issue (R157, R395, R399, R407, R435, R449).
-/
namespace Sys2Proof.Machine

/-! ### Checks -/

/-- Issue statuses (R157). -/
def engBADKIND : Nat := 1
def engBADQUEUE : Nat := 2
def engBADFIELD : Nat := 3
def engFORMAT : Nat := 4
def engRANGE : Nat := 5
def engNOTPINNED : Nat := 6
def engNOCOUNTER : Nat := 7
def engSPLIT : Nat := 8

/-- Kinds of task records (R158). -/
def kindTEAM : Nat := 0
def kindLOOM : Nat := 1
def kindHOD : Nat := 2
def kindQGEMV : Nat := 3
def kindEOS : Nat := 4
def kindQFENCE : Nat := 5

/-- What a check says: it passes, it refuses with a status, it traps, or it meets a translation fault. -/
inductive Chk where
  | ok
  | refuse (status : Nat)
  | trap (cause addr : Nat)
  | park (addr acc reason level : Nat)
  deriving DecidableEq, Repr

/-- The first check of a list that does not pass. -/
def Chk.first : List Chk → Chk
  | [] => .ok
  | .ok :: cs => Chk.first cs
  | c :: _ => c

/-- A refusal where a test holds. -/
def refuseIf (b : Bool) (status : Nat) : Chk := if b then .refuse status else .ok

/-- A trap where a test holds. -/
def trapIf (b : Bool) (cause addr : Nat) : Chk := if b then .trap cause addr else .ok

/-- The first check of 0 to n − 1 that does not pass. -/
def Chk.each (n : Nat) (f : Nat → Chk) : Chk :=
  ((List.range n).findSome? (fun i => match f i with
    | .ok => none
    | c => some c)).getD .ok

/-- For whom a record is checked: its launch, its workgroup where it has one, whose writes are seen, the core. -/
structure Desk where
  launch : Launch
  wg : Option Workgroup
  viewer : Option Viewer
  core : Nat
  deriving DecidableEq, Repr

/-- A number modulo 2^64. -/
def mod64 (z : Int) : Nat := (z % 2 ^ 64).toNat

/-- Bytes as those of a desk see them. -/
def State.peek (s : State) (v : Option Viewer) (k n : Nat) : List Byte :=
  match v with
  | some r => s.viewBytes r true k n
  | none => cellsRead s.mem k n

/-- The first poisoned unit of pieces that a desk would read, by its offset from the range's start. -/
def State.deskPoison (s : State) (v : Option Viewer) : Nat → List (Nat × Nat) → Option Int
  | _, [] => none
  | off, p :: ps =>
    match (match v with
      | some r => s.readPoison r p.1 p.2
      | none => firstPoison s.poison p.1 p.2) with
    | some u => some ((off : Int) + (u : Int) - (p.1 : Int))
    | none => s.deskPoison v (off + p.2) ps

/-- The bytes of pieces for a desk, unless one is poisoned. -/
def State.deskBytes (s : State) (v : Option Viewer) (addr : Nat) (l : List (Nat × Nat)) : TeamRead :=
  match s.deskPoison v 0 l with
  | some u => .trap causeMEMERR (BitVec.ofInt 64 ((addr : Int) + u))
  | none => .got (l.flatMap (fun p => s.peek v p.1 p.2))

/-- A record of n bytes read for a desk (R142); it may reach a second page. -/
def State.deskRead (s : State) (d : Desk) (addr n align : Nat) : TeamRead :=
  match s.checkRead d.launch d.wg addr n align with
  | .trap cause => .trap cause (BitVec.ofNat 64 addr)
  | .fault reason level => .park (BitVec.ofNat 64 addr) reason level
  | .key k =>
    if isTranslated addr then
      match s.enginePieces (s.ptRoot d.launch.queue) addr n accLoad with
      | .fault a reason level => .park (BitVec.ofNat 64 a) reason level
      | .at_ l => s.deskBytes d.viewer addr l
    else s.deskBytes d.viewer addr [(k, n)]

/-- The check of a slab range for a desk (R132, R134): an address that names no slab byte traps SLAB. -/
def State.slabChk (s : State) (d : Desk) (addr n acc : Nat) : Chk :=
  match s.slabDecode addr with
  | none => .trap causeSLAB addr
  | some k => (match s.slabCheck d.launch d.wg k n acc with
    | some cause => .trap cause addr
    | none => .ok)

/-- A key that stands in the desk's scratch. -/
def Desk.inScratch (d : Desk) (k n : Nat) : Bool :=
  match d.wg with
  | some w => inside k n w.scrKey w.scrSize
  | none => false

/-- What is left of ranges, given by their bounds, outside n bytes from k on. -/
def cutOut (k n : Nat) (l : List (Nat × Nat)) : List (Nat × Nat) :=
  l.flatMap (fun r => [(r.1, min r.2 k), (max r.1 (k + n), r.2)].filter (fun r => decide (r.1 < r.2)))

/-- A byte of a slab range is permitted only as the workgroup's scratch: it lies in the scratch, and no grant covers it
with the right that the access needs (R192). -/
def Desk.scratchOnly (d : Desk) (k n acc : Nat) : Bool :=
  match d.wg with
  | none => false
  | some w =>
    !((d.launch.grants.filter (fun g => g.allows acc)).foldl (fun l g => cutOut g.base g.len l)
      ([(max k w.scrKey, min (k + n) (w.scrKey + w.scrSize))].filter (fun r => decide (r.1 < r.2)))).isEmpty

/-- The same of an address. -/
def State.onlyScratch (s : State) (d : Desk) (addr n acc : Nat) : Bool :=
  match s.slabDecode addr with
  | some k => d.scratchOnly k n acc
  | none => false

/-- A write of a sampled launch that would reach outside its scratch (R91). -/
def State.windowBars (s : State) (d : Desk) (addr n : Nat) : Bool :=
  d.launch.sampled && !(match s.slabDecode addr with
    | some k => d.inScratch k n
    | none => false)

/-! ### Completion rings (R449) -/

/-- The key and RINGN of a ring that has the form that R449 asks for. -/
def State.ringForm (s : State) (v : Option Viewer) (addr : Nat) : Option (Nat × Nat) :=
  if addr % 32 ≠ 0 then none
  else
    match s.localSlab addr with
    | none => none
    | some k =>
      let n := leNat (s.peek v (k + 8) 4)
      if n = 0 ∨ n > 65535 then none else some (k, n)

/-- The protection check of a ring. -/
def State.ringChk (s : State) (d : Desk) (addr : Nat) (ring : Option (Nat × Nat)) : Chk :=
  match ring with
  | some r => s.slabChk d addr (32 + 32 * r.2) accEngineWrite
  | none => .ok

/-! ### Hod descriptors (R168 to R173) -/

/-- Bytes of a source element, and of a destination element (R169). -/
def hodESize (d : List Byte) : Nat := 2 ^ (fieldAt d 0x11 1)
def hodConv (d : List Byte) : Nat := fieldAt d 0x12 1 % 8
def hodDSize (d : List Byte) : Nat := if hodConv d = 0 then hodESize d else if hodConv d ≤ 2 then 1 else 2
def hodNdim (d : List Byte) : Nat := fieldAt d 0x10 1
def hodDsp (d : List Byte) : Nat := fieldAt d 0x15 1
def hodSwz (d : List Byte) : Nat := fieldAt d 0x14 1
def hodStore (d : List Byte) : Nat := fieldAt d 0x16 1 % 16
def hodInline (d : List Byte) : Nat := fieldAt d 0x16 1 / 16
def hodTag (d : List Byte) : Nat := fieldAt d 0x17 1

/-- A dimension entry. -/
structure Dim where
  extent : Nat
  ss : Int
  ds : Int
  org : Int
  lim : Nat
  deriving DecidableEq, Repr

/-- Entry k of a descriptor. -/
def hodDim (d : List Byte) (k : Nat) : Dim :=
  let o := 0x60 + 16 * k
  { extent := fieldAt d o 4, ss := signedOf 32 (fieldAt d (o + 4) 4), ds := signedOf 32 (fieldAt d (o + 8) 4),
    org := signedOf 16 (fieldAt d (o + 12) 2), lim := fieldAt d (o + 14) 2 }

/-- The dimensions in use, dimension 0 first. -/
def hodDims (d : List Byte) : List Dim := (List.range (hodNdim d)).map (hodDim d)

/-- The extent of the outermost dimension. -/
def hodOuter (d : List Byte) : Nat := (hodDim d (hodNdim d - 1)).extent

/-- The elements of one index of the outermost dimension. -/
def hodInner (d : List Byte) : Nat := ((hodDims d).dropLast.map Dim.extent).foldl (· * ·) 1

/-- The elements of a list of slices. -/
def hodCount (d : List Byte) (slices : List (Nat × Nat)) : Nat := (slices.map (fun b => (b.2 - b.1) * hodInner d)).sum

/-- The offsets of one element: from DST before the swizzle, and from SRC where it is in bounds (R169). n counts
elements, dimension 0 fastest, the outermost index from first on. -/
def dimsOffsets (first : Nat) : List Dim → Nat → Int × Option Int
  | [], _ => (0, some 0)
  | [x], n =>
    let i : Int := (first + n : Nat)
    let c := i + x.org
    (i * x.ds, if x.lim = 0 ∨ (0 ≤ c ∧ c < x.lim) then some (c * x.ss) else none)
  | x :: xs, n =>
    let i : Int := (n % x.extent : Nat)
    let c := i + x.org
    let r := dimsOffsets first xs (n / x.extent)
    (i * x.ds + r.1, if x.lim = 0 ∨ (0 ≤ c ∧ c < x.lim) then r.2.map (fun z => z + c * x.ss) else none)

/-- The offsets of element n of a copy, slice by slice (R174). -/
def copyOffsets (d : List Byte) : List (Nat × Nat) → Nat → Int × Option Int
  | [], _ => (0, none)
  | b :: bs, n =>
    let m := (b.2 - b.1) * hodInner d
    if n < m then dimsOffsets b.1 (hodDims d) n else copyOffsets d bs (n - m)

/-- The swizzle of an offset (R170). (DEDUCED, log entry 40.) -/
def swizzle (kind : Nat) (o : Nat) : Nat :=
  match kind with
  | 1 => o ^^^ (bitsAt o 14 10 * 2 ^ 5)
  | 2 => o ^^^ (bitsAt o 13 10 * 2 ^ 6)
  | 3 => o ^^^ (bitsAt o 12 10 * 2 ^ 7)
  | _ => o

/-- The cores of MCAST. -/
def hodCores (d : List Byte) : List Nat := (List.range Config.cores).filter (fun c => bitAt (fieldAt d 0x38 24) c)

/-- Where destination elements lie: at an address, or at keys. -/
inductive HodDest where
  | addr (a : Nat)
  | key (k : Nat)
  deriving DecidableEq, Repr

/-- The destination offset of an element for DSP 1 and 2, before the swizzle. -/
def hodOffset (d : List Byte) (off : Int) : Int := signedOf 64 (fieldAt d 8 8) + off

/-- The destinations of an element at an offset: one, or one in each core of MCAST (R168, R174). scr is the key of the
owner's scratch. -/
def hodDests (d : List Byte) (scr : Nat) (off : Int) : List HodDest :=
  let o := swizzle (hodSwz d) (hodOffset d off).toNat
  match hodDsp d with
  | 0 => [.addr (mod64 ((fieldAt d 8 8 : Nat) + off))]
  | 1 => [.key (scr + o)]
  | _ => (hodCores d).map (fun c => .key (slabKey c o))

/-- The address of the inline stream's element: the offset that the dimension entries give, from LOCAL; DST has no part in
it (R171). (DEDUCED, log entry 40.) -/
def hodLocal (d : List Byte) (off : Int) : Nat := mod64 ((fieldAt d 0x28 8 : Nat) + off)

/-- The address of a source element. -/
def hodSource (d : List Byte) (off : Int) : Nat := mod64 ((fieldAt d 0 8 : Nat) + off)

/-- A reduction code that does not take elements of a size (R171). -/
def redSizeBad (code size : Nat) : Bool :=
  match code with
  | 0 => false
  | 1 => size != 4
  | 2 => size != 2
  | _ => size != 4 && size != 2

/-- A reserved byte of a range is not zero. -/
def nonzero (d : List Byte) (off n : Nat) : Bool := fieldAt d off n != 0

/-- A dimension entry outside its limits. -/
def dimBad (d : List Byte) (k : Nat) : Bool :=
  if k < hodNdim d then (hodDim d k).extent == 0 || decide ((hodDim d k).extent > 2 ^ 24)
  else nonzero d (0x60 + 16 * k) 16

/-- Step 2 of R395: the fields of a descriptor. -/
def State.hodFieldsBad (s : State) (core : Nat) (ring : Option (Nat × Nat)) (d : List Byte) : Bool :=
  let conv := fieldAt d 0x12 1
  hodNdim d == 0 || decide (hodNdim d > 9) || decide (fieldAt d 0x11 1 > 3) || decide (conv % 8 > 4) || bitAt conv 3 ||
    decide (bitsAt conv 6 4 > 4) || decide (fieldAt d 0x13 1 > 1) || decide (hodSwz d > 3) || decide (hodDsp d > 2) ||
    decide (hodStore d > 4) || decide (hodInline d > 4) || decide (fieldAt d 0x18 2 > 1) || nonzero d 0x1A 6 ||
    nonzero d 0x30 8 || nonzero d 0x50 16 || nonzero d 0xF0 16 || (List.range 9).any (dimBad d) || ring.isNone ||
    (hodSwz d != 0 && hodDsp d == 0) ||
    ((conv % 8 == 1 || conv % 8 == 2) && hodESize d != 2) || ((conv % 8 == 3 || conv % 8 == 4) && hodESize d != 1) ||
    redSizeBad (hodStore d) (hodDSize d) || redSizeBad (hodInline d) (hodDSize d) ||
    (hodInline d != 0 && !((s.localSlab (fieldAt d 0x28 8)).any (fun k => slabCore k == core)))

/-- The right that a copy needs at its destination (R132). -/
def hodAcc (d : List Byte) : Nat := if hodStore d = 0 then accEngineWrite else accAtomic

/-- A destination of an element as an address; keys of this device are slab addresses of it. -/
def HodDest.address : HodDest → Nat
  | .addr a => a
  | .key k => k

/-- The check of one destination under R132 and R134; translated ones are checked as the copy runs. -/
def State.destChk (s : State) (d : Desk) (desc : List Byte) (x : HodDest) : Chk :=
  match x with
  | .addr a => if isTranslated a then .ok else s.slabChk d a (hodDSize desc) (hodAcc desc)
  | .key k => (match s.slabCheck d.launch d.wg k (hodDSize desc) (hodAcc desc) with
    | some cause => .trap cause k
    | none => .ok)

/-- A destination lies in the workgroup's scratch. -/
def State.destScratch (s : State) (d : Desk) (desc : List Byte) (x : HodDest) : Bool :=
  match x with
  | .addr a => (match s.slabDecode a with
    | some k => d.inScratch k (hodDSize desc)
    | none => false)
  | .key k => d.inScratch k (hodDSize desc)

/-- The scratch key of a desk's workgroup. -/
def Desk.scr (d : Desk) : Nat := (d.wg.map Workgroup.scrKey).getD 0
def Desk.scrSize (d : Desk) : Nat := (d.wg.map Workgroup.scrSize).getD 0

/-- An element of DSP 1 lies outside the scratch, one of DSP 2 outside a slice. -/
def hodOutside (d : Desk) (desc : List Byte) (off : Int) : Bool :=
  let o := hodOffset desc off
  let size := if hodDsp desc = 1 then d.scrSize else Config.sliceBytes
  decide (o < 0) || decide (swizzle (hodSwz desc) o.toNat + hodDSize desc > size)

/-- Step 6 of R395 and step 5 of R435: the destinations of a sampled launch. For a HOD those of DSP 1 have passed step 5
of R395. -/
def State.hodWindow (s : State) (d : Desk) (desc : List Byte) (slices : List (Nat × Nat)) : Chk :=
  if !d.launch.sampled then .ok
  else
    Chk.each (hodCount desc slices) (fun n =>
      let off := (copyOffsets desc slices n).1
      if hodDsp desc = 1 then trapIf (hodOutside d desc off) causeWINDOW (mod64 ((d.scr : Int) + hodOffset desc off))
      else
        match (hodDests desc d.scr off).find? (fun x => !s.destScratch d desc x) with
        | some x => .trap causeWINDOW x.address
        | none => .ok)

/-- Step 7 of R395 and the reads of R132: one element. -/
def State.hodElemChk (s : State) (d : Desk) (desc : List Byte) (off : Int × Option Int) : Chk :=
  Chk.first
    ([if hodDsp desc = 2 ∧ hodOutside d desc off.1 then .trap causeSLAB (mod64 (hodOffset desc off.1)) else .ok] ++
      (hodDests desc d.scr off.1).map (s.destChk d desc) ++
      [match off.2 with
        | some o =>
          let a := hodSource desc o
          if isTranslated a then .ok else s.slabChk d a (hodESize desc) accEngineRead
        | none => .ok,
       if hodInline desc = 0 then .ok else s.slabChk d (hodLocal desc off.1) (hodDSize desc) accEngineRead])

/-- An element touches a byte permitted only as scratch (R192). -/
def State.hodElemLost (s : State) (d : Desk) (desc : List Byte) (off : Int × Option Int) : Bool :=
  (hodDests desc d.scr off.1).any (fun x => match x with
    | .addr a => s.onlyScratch d a (hodDSize desc) (hodAcc desc)
    | .key k => d.scratchOnly k (hodDSize desc) (hodAcc desc)) ||
  (match off.2 with
    | some o => s.onlyScratch d (hodSource desc o) (hodESize desc) accEngineRead
    | none => false) ||
  (hodInline desc != 0 && s.onlyScratch d (hodLocal desc off.1) (hodDSize desc) accEngineRead)

/-- The refusals of a copy: steps 2 to 5 of R395. -/
def State.hodRefusal (s : State) (d : Desk) (desc : List Byte) (ring : Option (Nat × Nat)) (b e : Nat) : Chk :=
  Chk.first
    [refuseIf (s.hodFieldsBad d.core ring desc) engBADFIELD,
     refuseIf (decide (e < b) || decide (e > hodOuter desc)) engBADFIELD,
     refuseIf (hodTag desc != 0xFF && decide (hodTag desc ≥ d.launch.tags)) engBADFIELD,
     if hodDsp desc = 1 then
       Chk.each (hodCount desc [(b, e)]) (fun n =>
         refuseIf (hodOutside d desc (copyOffsets desc [(b, e)] n).1) engRANGE)
     else .ok]

/-- Step 7 of R395. -/
def State.hodRights (s : State) (d : Desk) (desc : List Byte) (ring : Option (Nat × Nat)) (b e : Nat) : Chk :=
  Chk.first
    [Chk.each (hodCount desc [(b, e)]) (fun n => s.hodElemChk d desc (copyOffsets desc [(b, e)] n)),
     s.ringChk d (fieldAt desc 0x20 8) ring]

/-- Steps 2 to 7 of R395; window says whether step 6 is made here. (DEDUCED, log entry 36.) -/
def State.hodCheck (s : State) (d : Desk) (desc : List Byte) (b e : Nat) (window : Bool) : Chk :=
  let ring := s.ringForm d.viewer (fieldAt desc 0x20 8)
  match s.hodRefusal d desc ring b e with
  | .ok => (match (if window then s.hodWindow d desc [(b, e)] else .ok) with
    | .ok => s.hodRights d desc ring b e
    | c => c)
  | c => c

/-- A copy that a record without owner may not make (R192). -/
def State.hodLost (s : State) (d : Desk) (desc : List Byte) (b e : Nat) : Bool :=
  hodDsp desc == 1 || (List.range (hodCount desc [(b, e)])).any (fun n => s.hodElemLost d desc (copyOffsets desc [(b, e)] n))

/-! ### Loom records (R178 to R182) -/

/-- Bits of an element of a format code (R178). -/
def fmtBits (code : Nat) : Nat :=
  match code with
  | 0 => 16
  | 3 => 6
  | 4 => 4
  | 6 => 4
  | _ => 8

/-- Bytes of a block record (R106). -/
def blkBytes (code : Nat) : Nat := 3 + 4 * fmtBits code

/-- A format field has BLK, its code, whether it is an integer format (R178, R180). -/
def fmtBlk (f : Nat) : Bool := bitAt f 7
def fmtCode (f : Nat) : Nat := f % 128
def fmtInt (f : Nat) : Bool := decide (fmtCode f ≥ 5)

/-- A format field outside R178. -/
def fmtBad (f : Nat) : Bool :=
  decide (fmtCode f > 6) || (fmtBlk f && fmtCode f == 0) || (fmtCode f == 3 && !fmtBlk f)

/-- The byte range of elements lo to hi − 1 of a row, lo a multiple of 32: offset and length. -/
def elemsRange (f lo hi : Nat) : Nat × Nat :=
  if fmtBlk f then (lo / 32 * blkBytes (fmtCode f), (hi - lo + 31) / 32 * blkBytes (fmtCode f))
  else (lo * fmtBits (fmtCode f) / 8, ((hi - lo) * fmtBits (fmtCode f) + 7) / 8)

/-- The byte ranges of a row of kvalid elements that a mask of bands leaves (R179). -/
def bandRanges (f kvalid bands : Nat) : List (Nat × Nat) :=
  (List.range 4).filterMap (fun b =>
    if bitAt bands b && decide (32 * b < kvalid) then some (elemsRange f (32 * b) (min (32 * b + 32) kvalid)) else none)

def loomOp (r : List Byte) : Nat := fieldAt r 0 1
def loomFmt (r : List Byte) : Nat := fieldAt r 1 1
def loomBands (r : List Byte) : Nat := fieldAt r 2 1 % 16
def loomKvalid (r : List Byte) : Nat := fieldAt r 4 1
def loomNvalid (r : List Byte) : Nat := fieldAt r 5 1
def loomRows (r : List Byte) : Nat := fieldAt r 6 2
def loomAccRow (r : List Byte) : Nat := fieldAt r 0x18 2
def loomTag (r : List Byte) : Nat := fieldAt r 0x2C 1

/-- Bytes of a DRAIN's destination element, and its format (R181). -/
def drainFmt (r : List Byte) : Fmt :=
  match fieldAt r 3 1 % 4 with
  | 0 => fp32
  | 1 => bf16
  | 2 => e4m3
  | _ => e5m2
def drainSize (r : List Byte) : Nat := (drainFmt r).width / 8

/-- The address of MMUL row r (R180). -/
def mmulRow (r : List Byte) (i : Nat) : Nat :=
  let ring := fieldAt r 0x14 4
  let k := if ring = 0 then i else (fieldAt r 0x38 4 + i) % ring
  (fieldAt r 8 8 + k * fieldAt r 0x10 4) % 2 ^ 64

/-- The address of DRAIN row r. -/
def drainRow (r : List Byte) (i : Nat) : Nat := (fieldAt r 0x20 8 + i * fieldAt r 0x28 4) % 2 ^ 64

/-- A range that a task reaches: its address and length, and whether it is a write. -/
structure Reach where
  addr : Nat
  len : Nat
  write : Bool
  deriving DecidableEq, Repr

/-- The slab ranges that a task reaches, with the row lengths of a tile (R180, R182). (DEDUCED, log entry 37.) -/
def loomReach (r : List Byte) (kvalid nvalid : Nat) : List Reach :=
  match loomOp r with
  | 0 =>
    (List.range (loomNvalid r)).flatMap (fun n =>
      (bandRanges (loomFmt r) (loomKvalid r) (loomBands r)).map (fun o =>
        { addr := (fieldAt r 8 8 + n * fieldAt r 0x10 4 + o.1) % 2 ^ 64, len := o.2, write := false }))
  | 1 => (List.range (loomRows r)).map (fun i =>
      { addr := mmulRow r i, len := (elemsRange (loomFmt r) 0 kvalid).2, write := false })
  | 2 =>
    if fieldAt r 0x20 8 = 0 then []
    else (List.range (loomRows r)).map (fun i => { addr := drainRow r i, len := nvalid * drainSize r, write := true })
  | _ => []

/-- Step 3 of R407: the fields that an operation uses. -/
def loomFieldsBad (tags : Nat) (ringBad : Bool) (r : List Byte) : Bool :=
  let op := loomOp r
  nonzero r 0x1B 1 || nonzero r 0x2D 3 || nonzero r 0x3C 4 || ringBad ||
    (loomTag r != 0xFF && decide (loomTag r ≥ tags)) ||
    (decide (op ≤ 1) && fmtBad (loomFmt r)) ||
    (op == 0 && (loomBands r == 0 || decide (fieldAt r 2 1 ≥ 16) || loomKvalid r == 0 || decide (loomKvalid r > 128) ||
      (fmtBlk (loomFmt r) && loomKvalid r % 32 != 0) || loomNvalid r == 0 || decide (loomNvalid r > 128))) ||
    (op != 0 && (loomRows r == 0 || decide (loomRows r > 2048))) ||
    (op == 1 && decide (fieldAt r 0x1A 1 > 1)) ||
    (op == 2 && (decide (fieldAt r 0x1A 1 > 1) || bitsAt (fieldAt r 3 1) 3 2 != 0 || decide (bitsAt (fieldAt r 3 1) 6 4 > 4)))

/-- KVALID and NVALID of the tile that a record is checked against (R180, R399): that of the last WLOAD entered, or
the longest when a keystone holds the record. -/
def State.loomTile (s : State) (core : Nat) (armed : Bool) : Nat × Nat :=
  if armed then (128, 128)
  else
    match (s.core core).lastTile with
    | some t => (loomKvalid t, loomNvalid t)
    | none => (128, 128)

/-- Step 5 of R407. -/
def State.loomFormatBad (s : State) (core : Nat) (r : List Byte) : Bool :=
  match (s.core core).lastTile with
  | none => loomOp r == 1 || loomOp r == 2
  | some t => loomOp r == 1 && fmtInt (loomFmt t) != fmtInt (loomFmt r)

/-- The ring of a Loom or Quarry record: none named, or its form. -/
def State.optRing (s : State) (v : Option Viewer) (addr : Nat) : Option (Nat × Nat) :=
  if addr = 0 then none else s.ringForm v addr

/-- A range checked for a desk; the Loom and the Quarry reach slab only (R182). -/
def State.reachChk (s : State) (d : Desk) (x : Reach) : Chk :=
  s.slabChk d x.addr x.len (if x.write then accEngineWrite else accEngineRead)

/-- A range on a device that Span routing does not reach faults a command that names it (R144, R268); the foreman's own
checks let it pass, and the task then waits for a route. (DESIGN CHOICE, log entry 116.) -/
def State.routeChk (s : State) (d : Desk) (x : Reach) : Chk :=
  match s.slabDecode x.addr with
  | some k =>
    if d.viewer.isSome && isRemoteKey k && !s.reaches (remoteDev k) then
      .park x.addr (if x.write then accEngineWrite else accEngineRead) reasonUNREACH 0
    else .ok
  | none => .ok

/-- A range permitted only as scratch (R192). -/
def State.reachLost (s : State) (d : Desk) (x : Reach) : Bool :=
  s.onlyScratch d x.addr x.len (if x.write then accEngineWrite else accEngineRead)

/-- The first check of a list of ranges that does not pass. -/
def firstReach (l : List Reach) (f : Reach → Chk) : Chk := Chk.first (l.map f)

/-- Steps 2 to 5 of R407. -/
def State.loomRefusal (s : State) (d : Desk) (armed : Bool) (r : List Byte) : Chk :=
  let ring := fieldAt r 0x30 8
  Chk.first
    [refuseIf (decide (loomOp r > 3)) engBADKIND,
     refuseIf (loomFieldsBad d.launch.tags (ring != 0 && (s.ringForm d.viewer ring).isNone) r) engBADFIELD,
     refuseIf (loomOp r != 0 && decide (loomAccRow r + loomRows r > 2048)) engRANGE,
     refuseIf (!armed && s.loomFormatBad d.core r) engFORMAT]

/-- Step 6 of R407: the writes of a sampled launch. -/
def State.loomWindow (s : State) (d : Desk) (armed : Bool) (r : List Byte) : Chk :=
  let ring := fieldAt r 0x30 8
  if !d.launch.sampled then .ok
  else
    Chk.first
      [trapIf (loomOp r == 2 && fieldAt r 0x20 8 == 0) causeWINDOW 0,
       firstReach ((loomReach r (s.loomTile d.core armed).1 (s.loomTile d.core armed).2).filter Reach.write)
         (fun x => trapIf (s.windowBars d x.addr x.len) causeWINDOW x.addr),
       match s.optRing d.viewer ring with
        | some q => trapIf (s.windowBars d ring (32 + 32 * q.2)) causeWINDOW ring
        | none => .ok]

/-- Step 7 of R407. -/
def State.loomRights (s : State) (d : Desk) (armed : Bool) (r : List Byte) : Chk :=
  let ring := fieldAt r 0x30 8
  Chk.first
    [firstReach (loomReach r (s.loomTile d.core armed).1 (s.loomTile d.core armed).2) (s.reachChk d),
     s.ringChk d ring (s.optRing d.viewer ring),
     firstReach (loomReach r (s.loomTile d.core armed).1 (s.loomTile d.core armed).2) (s.routeChk d)]

/-- Steps 2 to 7 of R407. (DEDUCED, log entry 36.) -/
def State.loomCheck (s : State) (d : Desk) (armed window : Bool) (r : List Byte) : Chk :=
  match s.loomRefusal d armed r with
  | .ok => (match (if window then s.loomWindow d armed r else .ok) with
    | .ok => s.loomRights d armed r
    | c => c)
  | c => c

/-- A Loom task that a record without owner may not run (R192). -/
def State.loomLost (s : State) (d : Desk) (armed : Bool) (r : List Byte) : Bool :=
  (loomOp r == 2 && fieldAt r 0x20 8 == 0) ||
    (loomReach r (s.loomTile d.core armed).1 (s.loomTile d.core armed).2).any (s.reachLost d)

/-! ### Quarry records (R183 to R185) -/

def quarryM (r : List Byte) : Nat := fieldAt r 0x18 4
def quarryK (r : List Byte) : Nat := fieldAt r 0x1C 4

/-- Bytes from one matrix row to the next (R184). -/
def quarryRow (r : List Byte) : Nat := (blkBytes (fieldAt r 0x20 1) * (quarryK r / 32) + 63) / 64 * 64

/-- Bytes of the vector. -/
def quarryVec (r : List Byte) : Nat := if fieldAt r 0x21 1 = 0 then 2 * quarryK r else 35 * (quarryK r / 32)

/-- Bytes of the matrix. -/
def quarryBytes (r : List Byte) : Nat := quarryM r * quarryRow r

/-- The memory ranges of the matrix's pages, when each has PIN, QL and R and all lie in one stack of this device
(R184). Fuel counts pages of 64 KiB. -/
def State.quarryPages (s : State) (root : Nat) : Nat → Nat → Nat → Option (List (Nat × Nat))
  | 0, _, _ => some []
  | fuel + 1, addr, n =>
    if n = 0 then some []
    else
      match s.leafOf root addr with
      | .fault _ _ => none
      | .leaf e level =>
        let m := min n (65536 - addr % 65536)
        let pa := bitsAt e 51 16 * 2 ^ 16 + addr % 2 ^ levelLow level
        if bitAt e 4 && bitAt e 5 && bitAt e 2 && bitsAt e 7 6 == 0 && s.leafOf root (addr + (m - 1)) == .leaf e level then
          (s.quarryPages root fuel (addr + m) (n - m)).map (fun l => (hbmBase + pa, m) :: l)
        else none

/-- The matrix of a record, where its pages pass. -/
def State.quarryMatrix (s : State) (d : Desk) (r : List Byte) : Option (List (Nat × Nat)) :=
  match s.quarryPages (s.ptRoot d.launch.queue) (quarryBytes r / 65536 + 2) (fieldAt r 0 8) (quarryBytes r) with
  | some l => if l.all (fun p => homeOf p.1 == (l.head?.bind (fun q => homeOf q.1))) then some l else none
  | none => none

/-- The fields of a Quarry record outside their limits. -/
def quarryFieldsBad (tags : Nat) (ringBad : Bool) (r : List Byte) : Bool :=
  !isTranslated (fieldAt r 0 8) || fieldAt r 0 8 % 64 != 0 || fieldAt r 0x10 8 % 256 != 0 || quarryM r == 0 ||
    decide (quarryM r > 2 ^ 20) || quarryK r == 0 || quarryK r % 32 != 0 || decide (quarryK r > 65536) ||
    fieldAt r 0x20 1 == 0 || decide (fieldAt r 0x20 1 > 6) || decide (fieldAt r 0x21 1 > 2) ||
    (fieldAt r 0x22 1 != 0xFF && decide (fieldAt r 0x22 1 ≥ tags)) || nonzero r 0x23 5 || nonzero r 0x30 16 || ringBad

/-- The slab ranges of a Quarry task. -/
def quarryReach (r : List Byte) : List Reach :=
  [{ addr := fieldAt r 8 8, len := quarryVec r, write := false },
   { addr := fieldAt r 0x10 8, len := 4 * quarryM r, write := true }]

/-- The refusals of a Quarry record (R183, R184). -/
def State.quarryRefusal (s : State) (d : Desk) (r : List Byte) : Chk :=
  let ring := fieldAt r 0x28 8
  Chk.first
    [refuseIf (quarryFieldsBad d.launch.tags (ring != 0 && (s.ringForm d.viewer ring).isNone) r) engBADFIELD,
     refuseIf (s.quarryMatrix d r).isNone engNOTPINNED]

/-- The writes of a Quarry task of a sampled launch (R91). -/
def State.quarryWindow (s : State) (d : Desk) (r : List Byte) : Chk :=
  let ring := fieldAt r 0x28 8
  Chk.first
    [firstReach ((quarryReach r).filter Reach.write) (fun x => trapIf (s.windowBars d x.addr x.len) causeWINDOW x.addr),
     match s.optRing d.viewer ring with
      | some q => trapIf (s.windowBars d ring (32 + 32 * q.2)) causeWINDOW ring
      | none => .ok]

/-- The protection checks of a Quarry record (R132, R184, R449). -/
def State.quarryRights (s : State) (d : Desk) (r : List Byte) : Chk :=
  let ring := fieldAt r 0x28 8
  Chk.first
    [firstReach (quarryReach r) (s.reachChk d), s.ringChk d ring (s.optRing d.viewer ring),
     firstReach (quarryReach r) (s.routeChk d)]

/-- The checks of a Quarry record (R435). -/
def State.quarryCheck (s : State) (d : Desk) (r : List Byte) : Chk :=
  Chk.first [s.quarryRefusal d r, s.quarryRights d r]

/-! ### Task records (R158, R159, R435) -/

def taskEntry (r : List Byte) : Nat := fieldAt r 0 8
def taskKind (r : List Byte) : Nat := fieldAt r 0x28 1
def taskGuard (r : List Byte) : Nat := fieldAt r 0x29 1
def taskQueue (r : List Byte) : Nat := fieldAt r 0x2A 1
def taskSucc (r : List Byte) : Nat := fieldAt r 0x18 8
def taskWait (r : List Byte) : Nat := fieldAt r 0x20 8
def eosNext (r : List Byte) : Nat := fieldAt r 0x30 8
def eosWord (r : List Byte) : Nat := fieldAt r 0x38 8

/-- A queue that serves a kind (R159). -/
def queueServes (kind q : Nat) : Bool :=
  match kind with
  | 0 => decide (q ≤ 3)
  | 1 => q == 4
  | 2 => q == 5
  | 3 => q == 6
  | _ => decide (q ≤ 6)

/-- An address that is neither zero nor an aligned slab address of this device. -/
def State.slabFieldBad (s : State) (addr align : Nat) : Bool :=
  addr != 0 && (addr % align != 0 || (s.localSlab addr).isNone)

/-- The payload of a record is not that of its kind (R158). -/
def State.payloadBad (s : State) (r : List Byte) : Bool :=
  match taskKind r with
  | 2 => nonzero r 0x38 8
  | 4 => s.slabFieldBad (eosNext r) 64 || s.slabFieldBad (eosWord r) 4
  | 5 => decide (fieldAt r 0x30 1 ≥ 128) || nonzero r 0x31 15
  | _ => nonzero r 0x30 16

/-- Step 4 of R435; a record without owner names no guard slot of anyone. -/
def State.taskFieldsBad (s : State) (d : Desk) (r : List Byte) : Bool :=
  nonzero r 0x2C 4 || decide (fieldAt r 0x2B 1 > 1) ||
    (d.wg.isSome && taskGuard r != 0xFF && decide (taskGuard r ≥ d.launch.guards)) || s.payloadBad r ||
    (decide (taskKind r ≥ 4) && taskEntry r != 0) || (taskKind r != 0 && nonzero r 8 8) ||
    (taskKind r == 0 && taskEntry r % 4 != 0) || s.slabFieldBad (taskSucc r) 4 || s.slabFieldBad (taskWait r) 4

/-- Bytes of the descriptor or operand record that ENTRY names. -/
def entryBytes (kind : Nat) : Nat :=
  match kind with
  | 1 => 64
  | 2 => 256
  | 3 => 64
  | _ => 0

/-- The slice of a HOD record. -/
def taskSlice (r : List Byte) : Nat × Nat := (fieldAt r 0x30 4, fieldAt r 0x34 4)

/-- The refusals of what a record names, for step 6 of R435. -/
def State.entryRefusal (s : State) (d : Desk) (armed : Bool) (r e : List Byte) : Chk :=
  match taskKind r with
  | 1 => s.loomRefusal d armed e
  | 2 => s.hodRefusal d e (s.ringForm d.viewer (fieldAt e 0x20 8)) (taskSlice r).1 (taskSlice r).2
  | 3 => s.quarryRefusal d e
  | _ => .ok

/-- Its protection checks. -/
def State.entryRights (s : State) (d : Desk) (armed : Bool) (r e : List Byte) : Chk :=
  match taskKind r with
  | 1 => s.loomRights d armed e
  | 2 => s.hodRights d e (s.ringForm d.viewer (fieldAt e 0x20 8)) (taskSlice r).1 (taskSlice r).2
  | 3 => s.quarryRights d e
  | 4 => Chk.first
      [if eosNext r = 0 then .ok else s.slabChk d (eosNext r) 64 accEngineRead,
       if eosWord r = 0 then .ok else s.slabChk d (eosWord r) 4 accEngineWrite]
  | _ => .ok

/-- The words that a record names: the foreman writes the successor counter and reads the wait counter; both lie
where the workgroup may write or read (R127, R132, R134). (DEDUCED, log entry 36.) -/
def State.wordRights (s : State) (d : Desk) (r : List Byte) : Chk :=
  Chk.first
    [if taskSucc r = 0 then .ok else s.slabChk d (taskSucc r) 4 accEngineWrite,
     if taskWait r = 0 then .ok else s.slabChk d (taskWait r) 4 accEngineRead]

/-- Step 5 of R435: what a task of a sampled launch would write outside its scratch, as its record names it, whatever
step 6 says of the record. (DEDUCED, log entry 36.) -/
def State.entryWindow (s : State) (d : Desk) (armed : Bool) (r e : List Byte) : Chk :=
  if !d.launch.sampled then .ok
  else
    let word (a : Nat) : Chk := trapIf (a != 0 && s.windowBars d a 4) causeWINDOW a
    Chk.first
      [word (taskSucc r), if taskKind r = 4 then word (eosWord r) else .ok,
       match taskKind r with
        | 1 => s.loomWindow d armed e
        | 2 => Chk.first [s.hodWindow d e [taskSlice r],
            match s.ringForm d.viewer (fieldAt e 0x20 8) with
            | some q => trapIf (s.windowBars d (fieldAt e 0x20 8) (32 + 32 * q.2)) causeWINDOW (fieldAt e 0x20 8)
            | none => .ok]
        | 3 => s.quarryWindow d e
        | _ => .ok]

/-- What a record may not do without its owner (R192): the words that SUCC and WAIT name and the bytes of its ring are no
part of it. (DEDUCED, log entry 104.) -/
def State.entryLost (s : State) (d : Desk) (armed : Bool) (r e : List Byte) : Bool :=
  match taskKind r with
  | 1 => s.loomLost d armed e
  | 2 => s.hodLost d e (taskSlice r).1 (taskSlice r).2
  | 3 => (quarryReach e).any (s.reachLost d)
  | 4 => (eosNext r != 0 && s.onlyScratch d (eosNext r) 64 accEngineRead) ||
      (eosWord r != 0 && s.onlyScratch d (eosWord r) 4 accEngineWrite)
  | _ => false

/-- The ring that a record's work names. -/
def entryRing (kind : Nat) (e : List Byte) : Nat :=
  match kind with
  | 1 => fieldAt e 0x30 8
  | 2 => fieldAt e 0x20 8
  | 3 => fieldAt e 0x28 8
  | _ => 0

/-- The tag that a record's work names, 0xFF for none. -/
def entryTag (kind : Nat) (e : List Byte) : Nat :=
  match kind with
  | 1 => loomTag e
  | 2 => hodTag e
  | 3 => fieldAt e 0x22 1
  | _ => 0xFF

/-- A queue record made from a checked task record (R158). -/
def State.queueRec (s : State) (d : Desk) (armed : Bool) (r e : List Byte) (after : List Nat) : QRec :=
  { num := 0, rcd := r, desc := e, owner := d.wg.map Workgroup.num, launch := d.launch.num,
    slices := match taskKind r with
      | 1 => [s.loomTile d.core armed]
      | 2 => [taskSlice r]
      | 3 => (s.quarryMatrix d e).getD []
      | _ => [],
    rings := match s.optRing d.viewer (entryRing (taskKind r) e) with
      | some q => [{ key := q.1, size := q.2, desc := taskEntry r, tag := entryTag (taskKind r) e }]
      | none => [],
    fence := [], lostScratch := s.entryLost d armed r e, fired := armed, fail := 0, lead := none, after := after }

/-- A check of a whole task record, with the queue record when it passes. -/
inductive TaskChk where
  | bad (c : Chk)
  | good (r : QRec)
  deriving DecidableEq, Repr

/-- Steps 2 to 4 of R435 on the bytes of a record, before what its ENTRY names is read. -/
def State.taskForm (s : State) (d : Desk) (r : List Byte) : Chk :=
  Chk.first
    [refuseIf (decide (taskKind r > 5)) engBADKIND,
     refuseIf (decide (taskQueue r > 6) || !queueServes (taskKind r) (taskQueue r)) engBADQUEUE,
     refuseIf (s.taskFieldsBad d r) engBADFIELD]

/-- The bytes that the check of a record reads where its ENTRY points. -/
def State.entryRead (s : State) (d : Desk) (r : List Byte) : Nat := if s.taskForm d r = .ok then entryBytes (taskKind r) else 0

/-- Steps 2 to 6 of R435 on the bytes of a record. window says whether step 5 is made, armed that a keystone holds the
record (R399). (DEDUCED, log entry 46.) -/
def State.taskCheck (s : State) (d : Desk) (armed window : Bool) (after : List Nat) (r : List Byte) : TaskChk :=
  match s.taskForm d r with
  | .ok =>
    let n := entryBytes (taskKind r)
    (match (if n = 0 then .got [] else s.deskRead d (taskEntry r) n 64) with
      | .trap cause addr => .bad (.trap cause addr.toNat)
      | .park a reason level => .bad (.park a.toNat accLoad reason level)
      | .got e =>
        (match Chk.first
          [if window then s.entryWindow d armed r e else .ok, s.entryRefusal d armed r e, s.entryRights d armed r e,
           s.wordRights d r] with
          | .ok => .good (s.queueRec d armed r e after)
          | c => .bad c))
  | c => .bad c

end Sys2Proof.Machine
end

