-- ==== Sys2Proof/Machine/Assay.lean ====
section
/-!
DEFINITION. Sys2Proof/Machine/Assay.lean: assays (R70 to R100): posting samples with ASPUT (R76, R77, R357), reading
and waiting with ASRD, ASRDP and ASWAIT (R96 to R98, R358 to R360), and the assay unit's writes: initialisation
(R75), commits (R78 to R82, R448), the width rule (R83, R86) and finalisation (R88, R89).
-/
namespace Sys2Proof.Machine

/-! ### Posting -/

/-- The pending sum of a slot. -/
def Workgroup.sum (w : Workgroup) (k : Nat) : Pending :=
  Table.get w.sums { sum := 0, nan := false, pinf := false, ninf := false } k

/-- A pending sum with one FP32 value more, in units of 2^-149 (R77). -/
def Pending.post (p : Pending) (x : Nat) : Pending :=
  match fp32.decode x with
  | .nan _ => { p with nan := true }
  | .inf neg => if neg then { p with ninf := true } else { p with pinf := true }
  | .fin neg m e =>
    let z : Int := (m : Int) * 2 ^ (e + 149).toNat
    { p with sum := if neg then p.sum - z else p.sum + z }

/-- The FP32 values that ASPUT adds: one, or two in form .f32x2. -/
def asputValues (f : LA) (r : Regs) : List Nat :=
  let x := (r.get f.a).toNat
  if f.t = 1 then [x % 2 ^ 32, x / 2 ^ 32] else [x % 2 ^ 32]

/-- The slot of an ASPUT is one that the thread's launch has. -/
def State.slotKnown (s : State) (c : Ctx) (k : Nat) : Bool :=
  decide (k ≤ 7) && (match s.launchOf? c.id.wg with
    | some l => l.assay k != 0
    | none => false)

/-- What ASPUT does for a thread. -/
def asputDo (s : State) (f : LA) : LaneDo :=
  { LaneDo.regs (fun c => { c.regs with warn := c.regs.warn ||| warnIf (!s.slotKnown c f.d.toNat) warnFIELDRES }) with
    flight := fun _ => some .result }

/-- A thread's values enter its workgroup's pending sum. -/
def asputThread (f : LA) (s : State) (c : Ctx) : State :=
  if s.slotKnown c f.d.toNat then
    s.onWg c.id.wg (fun w =>
      { w with sums := Table.set w.sums f.d.toNat ((asputValues f c.regs).foldl Pending.post (w.sum f.d.toNat)) })
  else s

/-- ASPUT (R76, R357). -/
def execAsput (f : LA) (s : State) : Out :=
  .next ((acting s (.asput f) (asputDo s f)).foldl (asputThread f) (lane (.asput f) (asputDo s f) s))

/-! ### Samples -/

/-- A pending sum rounded once to binary64 (R77). -/
def Pending.sample (p : Pending) : Nat :=
  if p.nan || (p.pinf && p.ninf) then binary64.canonicalNaN
  else if p.pinf then binary64.infCode
  else if p.ninf then binary64.signed true binary64.infCode
  else (binary64.roundMag FEnv.plain (decide (p.sum < 0)) p.sum.natAbs (-149) false).bits

/-- The sample of a workgroup that retires in a dispatcher cycle. -/
def Workgroup.sampleAt (w : Workgroup) (cycle : Nat) : Sample :=
  let xs := (List.range 8).map (fun k => (w.sum k).sample)
  { visit := w.visit, ready := cycle, values := xs.map (BitVec.ofNat 64), nans := xs.map isNaN64, gmin := w.gmin,
    gmax := w.gmax }

/-! ### The assay unit's writes -/

/-- The assay unit writes an object: 96 bytes as one write (R79), a release event (R237) that the cores see at the next
edges of their clocks (R24). A write into an owned buffer is not performed (R134). (DEDUCED, log entry 125.) -/
def State.putAssay (s : State) (key : Nat) (a : Assay) : State :=
  if s.handleBars none key 96 then s
  else
    (((s.crossing (fun c => { c with newStates := c.newStates ++ [key] })).homeStore key a.bytes false).markEvent key
      96).testNow key 96

/-- A core does not see yet what the assay unit has last written to an object (R24). -/
def State.unseenState (s : State) (core key : Nat) : Bool := (s.core core).newStates.contains key

/-- The slots that a launch has, with the keys of their objects. -/
def State.slotsOf (s : State) (l : Launch) : List (Nat × Nat) :=
  (List.range 8).filterMap (fun k => if l.assay k = 0 then none else (s.localSlab (l.assay k)).map (fun o => (k, o)))

/-- A launch has a slot. -/
def Launch.hasSlots (l : Launch) : Bool := (List.range 8).any (fun k => l.assay k != 0)

/-- An object as a launch's start leaves it (R75). -/
def Assay.opened (a : Assay) (l : Launch) : Assay :=
  { a with n := 0, mean := 0, m2 := 0, generation := 0, gmax := 0, halfwidth := binary64.infCode, status := 0, nmin := l.nmin,
           population := l.total, producer := l.producer, gmin := 2 ^ 64 - 1, dispatched := 0 }

/-- The slot objects of a launch as it starts (R75). -/
def State.openSlots (s : State) (l : Launch) : State :=
  (s.slotsOf l).foldl (fun s e => s.putAssay e.2 ((s.assayAt e.2).opened l)) s

/-! ### binary64 arithmetic, round to nearest even, without flags -/

def add64 (a b : Nat) : Nat := (binary64.add FEnv.plain a b).bits
def sub64 (a b : Nat) : Nat := (binary64.sub FEnv.plain a b).bits
def mul64 (a b : Nat) : Nat := (binary64.mul FEnv.plain a b).bits
def div64 (a b : Nat) : Nat := (binary64.div FEnv.plain a b).bits
def nat64 (n : Nat) : Nat := (binary64.roundMag FEnv.plain false n 0 false).bits

/-- The correctly rounded square root. -/
def sqrt64 (a : Nat) : Nat :=
  match binary64.decode a with
  | .nan _ => binary64.canonicalNaN
  | .inf neg => if neg then binary64.canonicalNaN else binary64.infCode
  | .fin neg m e =>
    if m = 0 then a
    else if neg then binary64.canonicalNaN
    else
      let r := sqrtMag m e
      (binary64.roundMag FEnv.plain false r.1 r.2.1 r.2.2).bits

/-- The quantile z of a confidence code (R72), the binary64 value nearest to the decimal shown. A code above 4, which a plain
store can leave behind R73's check, has the quantile of code 4. (DESIGN CHOICE, log entry 101.) -/
def quantile (code : Nat) : Nat :=
  match code with
  | 0 => 0x3FF4813C36E26D32
  | 1 => 0x3FFA515209676ABB
  | 2 => 0x3FFF5C0331EEFF84
  | 3 => 0x40049B4C64D69160
  | _ => 0x400A52FFADD2F906

/-! ### Commits -/

/-- The half-width after a commit (R81): nan says whether a NaN sample has been committed to the slot. -/
def Assay.width (a : Assay) (nan : Bool) : Nat :=
  if nan then binary64.canonicalNaN
  else if a.n = a.population then 0
  else if a.n < 2 then binary64.infCode
  else
    let t1 := div64 a.m2 (nat64 (a.n - 1))
    let t2 := div64 t1 (nat64 a.n)
    let t3 := div64 (nat64 (a.population - a.n)) (nat64 (a.population - 1))
    mul64 (quantile a.confidence) (sqrt64 (mul64 t2 t3))

/-- A sample committed to a slot (R80 to R82, R98). -/
def Assay.commit (a : Assay) (x : Nat) (nan : Bool) (gmin gmax sent : Nat) : Assay :=
  let n := a.n + 1
  let delta := sub64 x a.mean
  let mean := add64 a.mean (div64 delta (nat64 n))
  let m2 := add64 a.m2 (mul64 delta (sub64 x mean))
  let b := { a with n := n, mean := mean, m2 := m2, generation := (a.generation + 1) % 2 ^ 64,
                    gmin := min a.gmin gmin, gmax := max a.gmax gmax, dispatched := sent }
  { b with halfwidth := b.width nan }

/-- The writes that a commit releases (R99): the workgroup's own, and those that it acquired. (DEDUCED, log entry 71.)
-/
def PendingWrite.heldBy (p : PendingWrite) (w : Workgroup) : Bool :=
  (match p.src with
    | some id => id.wg == w.num
    | none => false) ||
  p.vis.any (fun v => match v with
    | .team g _ => g == w.num
    | .wg g => g == w.num
    | .core c => c == w.core
    | .pair k => k == w.core % 96)

/-- The sample that commits next in a dispatcher cycle, if there is one (R79, R448): the next position's, in a later
cycle than its retirement and the last commit, once what it releases is visible (R99). (DEDUCED, log entry 71.) -/
def State.nextSample (s : State) (l : Launch) : Option Sample :=
  if !l.hasSlots || l.finalised || l.phase != .started || l.status != 0 || (l.cut && l.stop.isSome) then none
  else
    (l.samples.find? (fun x => x.visit == l.committed)).filter (fun x =>
      decide (s.dcycle > max x.ready l.lastCommit) &&
        (match s.wgs.find? (fun w => w.launch == l.num && w.visit == x.visit) with
          | some w => !s.stores.any (fun p => p.heldBy w)
          | none => true))

/-- Every slot of a launch takes its part of a sample, in ascending order (R79). -/
def State.commitSlots (s : State) (l : Launch) (x : Sample) : State :=
  (s.slotsOf l).foldl (fun s e =>
    let value := (x.values.getD e.1 0).toNat
    let nan := x.nans.getD e.1 false || l.nanSlots.contains e.1
    s.putAssay e.2 ((s.assayAt e.2).commit value nan x.gmin x.gmax l.sent)) s

/-- The width rule's test (R83). -/
def State.widthStops (s : State) (l : Launch) : Bool :=
  l.assay l.stopslot != 0 && (match s.localSlab (l.assay l.stopslot) with
    | some o => let a := s.assayAt o; decide (a.n ≥ l.nmin) && le64 a.halfwidth a.target
    | none => false)

/-- Samples that will never commit are discarded once a CUT launch has stopped (R87). -/
def Launch.cutSamples (l : Launch) : Launch :=
  if l.cut && l.stop.isSome then { l with discarded := l.discarded + l.samples.length, samples := [] } else l

/-- A launch after the commit of a sample: its stop (R83, R86), its window (R78). -/
def Launch.afterCommit (l : Launch) (x : Sample) (cycle : Nat) (width : Bool) : Launch :=
  let slots := (List.range 8).filter (fun k => x.nans.getD k false && !l.nanSlots.contains k)
  let n := l.committed + 1
  Launch.cutSamples
    { l with committed := n, lastCommit := cycle, samples := l.samples.filter (fun y => y.visit != x.visit),
             nanSlots := l.nanSlots ++ slots,
             stop := match l.stop with
              | some r => some r
              | none => if n = l.total then some 4 else if width then some 1 else none }

/-- The commit that a launch's assay unit may make in this dispatcher cycle is made. -/
def State.commitDue (s : State) (n : Nat) : State :=
  match s.launch? n with
  | none => s
  | some l =>
    match s.nextSample l with
    | none => s
    | some x =>
      let s := s.commitSlots l x
      let width := s.widthStops l
      s.onLaunch n (fun l => l.afterCommit x s.dcycle width)

/-- ASSAY_COMMIT. -/
def execAssayCommit (n : Nat) (s : State) : Out := .next (s.commitDue n)

/-- The next commit of a launch waits some cycles more (R448): not in this one. (DEDUCED, log entry 71.) -/
def State.holdCommit (s : State) (n : Nat) : State := s.onLaunch n (fun l => { l with lastCommit := s.dcycle })

/-! ### Finalisation -/

/-- The workgroups that a launch has sent out have retired (R57); a stopped launch's have left their cores (R60). -/
def State.allRetired (s : State) (l : Launch) : Bool :=
  !(s.wgs.any (fun w => w.launch == l.num && s.leftNow w)) &&
    (if l.status = 0 then l.retired == l.sent else s.wgs.all (fun w => w.launch != l.num || w.place == .retired))

/-- The assay unit may finalise a launch's slots (R88, R89): a failed launch's once its workgroups have retired, also where
it has failed before it started. -/
def State.mayFinalise (s : State) (l : Launch) : Bool :=
  l.hasSlots && !l.finalised && s.allRetired l &&
    (match l.phase with
      | .waiting => l.status != 0
      | .started => l.status != 0 || (l.stop.isSome && (l.cut || l.committed == l.sent))
      | .finished => false)

/-- The slots that a finalisation writes: of a launch that never started, those which no running launch holds (R74, R89).
(DEDUCED, log entry 89.) -/
def State.finalSlots (s : State) (l : Launch) : List (Nat × Nat) :=
  if l.phase = .waiting then (s.slotsOf l).filter (fun e => !s.touchesHeld e.2 128) else s.slotsOf l

/-- ASSAY_FINALISATION. -/
def execAssayFinalisation (n : Nat) (s : State) : Out :=
  .next (match s.launch? n with
    | none => s
    | some l =>
      if !s.mayFinalise l then s
      else
        let status := if l.status ≠ 0 then 5 else l.stop.getD 0
        let s := (s.finalSlots l).foldl (fun s e =>
          let a := s.assayAt e.2
          s.putAssay e.2 { a with status := status, generation := (a.generation + 1) % 2 ^ 64, dispatched := l.sent }) s
        s.onLaunch n (fun l => { l with finalised := true, samples := [], discarded := l.discarded + l.samples.length }))

/-! ### ASRD, ASRDP and ASWAIT -/

/-- The object that an assay instruction names in an s-register; 0 names the launch's PRODUCER. -/
def State.assayObj (s : State) (r : Reg) : Nat :=
  let x := (s.sreg r).toNat
  if x = 0 then ((s.curHome.map (fun h => h.1.producer)).getD 0) else x

/-- An object is a slot or the PRODUCER of a launch. -/
def State.ownAssay (s : State) (l : Launch) (key : Nat) : Bool :=
  (s.slotsOf l).any (fun e => e.2 == key) || (l.producer != 0 && s.localSlab l.producer == some key)

/-- An object is the PRODUCER of a launch. -/
def State.isProducer (s : State) (l : Launch) (key : Nat) : Bool := l.producer != 0 && s.localSlab l.producer == some key

/-- Steps 2 to 4 of R359. The launch's own objects need no grant (R132), but an owned buffer bars those that do not hold
it (R134). -/
def State.objCheck (s : State) (l : Launch) (w : Workgroup) (obj : Nat) : Chk ⊕ Nat :=
  match s.localSlab obj with
  | none => .inl (if l.sampled then .trap causeWINDOW obj else .trap causeSLAB obj)
  | some k =>
    if l.sampled && !s.isProducer l k then .inl (.trap causeWINDOW obj)
    else if s.ownAssay l k then (if s.handleBars (some w.num) k 64 then .inl (.trap causeHANDLE obj) else .inr k)
    else match s.slabCheck l (some w) k 64 accLoad with
      | some cause => .inl (.trap cause obj)
      | none => .inr k

/-- Step 5 of R359: the key of the copy's place. -/
def State.copyCheck (s : State) (l : Launch) (w : Workgroup) (addr : Nat) : Chk ⊕ Nat :=
  let bad : Nat := if s.touchesWindows l addr 64 then causeWINDOW else causeSLAB
  match s.slabDecode addr with
  | some k =>
    if inside k 64 w.scrKey w.scrSize || s.inOwnWindow l w k 64 then
      (match s.slabCheck l (some w) k 64 accStore with
        | some cause => .inl (.trap cause addr)
        | none => if isRemoteKey k && !s.reaches (bitsAt addr 43 32) then .inl (.park addr accStore reasonUNREACH 0) else .inr k)
    else .inl (.trap bad addr)
  | none =>
    if isTranslated addr && s.inWindow l w.lin addr 64 then
      (match s.translate (s.ptRoot l.queue) addr accStore with
        | .trap cause => .inl (.trap cause addr)
        | .fault reason level => .inl (.park addr accStore reason level)
        | .key k => .inr k)
    else .inl (.trap bad addr)

/-- A workgroup has read a generation of its launch's PRODUCER (R98). -/
def State.foldGen (s : State) (l : Launch) (key gen : Nat) : State :=
  if s.isProducer l key then s.onWg s.cur.wg (fun w => { w with gmin := min w.gmin gen, gmax := max w.gmax gen }) else s

/-- The first poisoned unit of an object's first 64 bytes, as an address. -/
def State.objPoison (s : State) (obj key : Nat) : Option Word :=
  (firstPoison s.poison key 64).map (fun u => BitVec.ofNat 64 (if u ≤ key then obj - (key - u) else obj + (u - key)))

/-- ASRDP reads what was captured of a PINNED producer, not the object (R96). -/
def State.readsPinned (s : State) (l : Launch) (key : Nat) (pinned : Bool) : Bool :=
  pinned && s.isProducer l key && l.consume == 2

/-- A read of an object waits: a write of the team to it is on its way (R221), or the core does not see its last state yet
(R24). -/
def State.objWaits (s : State) (key : Nat) : Bool :=
  s.stores.any (fun p => s.teamViewer.sees p && overlaps p.key p.op.size key 64) || s.unseenState s.cur.core key

/-- What ASRD or ASRDP does once its operands have passed. -/
def assayCopy (i : Instr) (f : SA) (l : Launch) (key at_ : Nat) (pinned : Bool) (s : State) : State :=
  let bytes := if s.readsPinned l key pinned then l.pinned.take 64 else cellsRead s.mem key 64
  let gen := fieldAt bytes 0x38 8
  let s1 := uniform i (longPut f.d (BitVec.ofNat 64 gen) 0 s) s
  let s2 := (s1.pushStore s.cur.core s.teamSrc (s.sreg f.a) s.ins at_ bytes).foldGen l key gen
  (s.cur.course.foldl (fun t id => t.hitForks id at_ 64) s2).flushL1 s.cur.core

/-- ASRD and ASRDP (R96, R358, R359). A team's own writes to the object come first (R221): it stays at issue.
(DEDUCED, log entry 43.) -/
def execAssayRead (i : Instr) (f : SA) (pinned : Bool) (s : State) : State :=
  match s.curHome with
  | none => s
  | some (l, w) =>
    let obj := s.assayObj f.b
    let addr := (s.sreg f.a).toNat
    if obj = 0 then uniform i (longPut f.d 0 warnFIELDRES s) s
    else if addr % 64 ≠ 0 then uniform i (.trap causeMISALIGNED (s.sreg f.a)) s
    else if obj % 128 ≠ 0 then uniform i (.trap causeMISALIGNED (BitVec.ofNat 64 obj)) s
    else
      match s.objCheck l w obj with
      | .inl (.trap cause a) => uniform i (.trap cause (BitVec.ofNat 64 a)) s
      | .inl _ => s
      | .inr key =>
        match s.copyCheck l w addr with
        | .inl (.trap cause a) => uniform i (.trap cause (BitVec.ofNat 64 a)) s
        | .inl (.park a acc reason level) => uniform i (.park acc (BitVec.ofNat 64 a) reason level) s
        | .inl _ => s
        | .inr at_ =>
          match (if s.readsPinned l key pinned then none else s.objPoison obj key) with
          | some u => uniform i (.trap causeMEMERR u) s
          | none =>
            if !s.readsPinned l key pinned && s.objWaits key then s
            else (assayCopy i f l key at_ pinned s).noteTeamLeaf (s.sreg f.a)

/-- ASRD. -/
def execAsrd (f : SA) (s : State) : Out := .next (execAssayRead (.asrd f) f false s)

/-- ASRDP. -/
def execAsrdp (f : SA) (s : State) : Out := .next (execAssayRead (.asrdp f) f true s)

/-- What a waiting ASWAIT's read says. -/
inductive AswaitRead where
  | waits
  | fails (cause : Nat) (addr : Word)
  | moved (generation : Word)
  deriving DecidableEq, Repr

/-- A waiting ASWAIT takes a fitting generation that it has found at a write of the object, so that no commit is missed, else
it reads the object as it stands (R360). It follows the team's own writes to the object (R221). -/
def State.aswaitRead (s : State) (wg team num key : Nat) (threshold : Word) : AswaitRead :=
  match s.fitOf (teamName wg team) num with
  | some x => .moved x
  | none =>
    if s.teamReadWaits wg team (((s.wg? wg).map Workgroup.core).getD 0) num key 64 then .waits
    else if s.handleBars (some wg) key 64 then .fails causeHANDLE (BitVec.ofNat 64 key)
    else
      match firstPoison s.poison key 64 with
      | some u => .fails causeMEMERR (BitVec.ofNat 64 u)
      | none => (match s.movedOn key threshold with
        | some x => .moved x
        | none => .waits)

/-- One waiting ASWAIT of a team on an object completes once that has moved on (R360), as far as its core sees (R24). -/
def State.tryAswaitOf (s : State) (wg team : Nat) (f : Flight) (key : Nat) (threshold : Word) : State :=
  let live := s.liveOfTeam wg team
  match s.aswaitRead wg team f.num key threshold with
  | .waits => s
  | .fails cause addr => live.foldl (fun s c => (s.failFlight c.id f.num cause addr).settle c.id) s
  | .moved x =>
    let s := s.onTeam wg team (fun t => f.sdst.foldl (fun t d => t.put d x) t)
    let fold (w : Workgroup) : Workgroup := { w with gmin := min w.gmin x.toNat, gmax := max w.gmax x.toNat }
    let s := match s.launchOf? wg with
      | some l => if s.isProducer l key then s.onWg wg fold else s
      | none => s
    let s := s.flushL1 (((s.wg? wg).map Workgroup.core).getD 0)
    let s := { s with fits := s.fits.filter (fun e => !(e.1 == teamName wg team && e.2.1 == f.num)) }
    live.foldl (fun s c => s.landPlain c.id f.num) s

/-- The waiting ASWAITs of a team are tested, each by itself (R360). -/
def State.tryAswait (s : State) (wg team : Nat) : State :=
  match s.wg? wg, (s.liveOfTeam wg team).head? with
  | some w, some c =>
    if w.place != .resident then s
    else
      c.inflight.foldl (fun s f => match f.what with
        | .aswait key threshold =>
          if s.unseenState w.core key || (s.flight? c.id f.num).isNone then s else s.tryAswaitOf wg team f key threshold
        | _ => s) s
  | _, _ => s

/-- ASWAIT (R97, R360): it reads the object as it issues, and again after every write of it. -/
def execAswait (f : SA) (s : State) : Out :=
  .next (match s.curHome with
    | none => s
    | some (l, w) =>
      let obj := s.assayObj f.a
      if obj = 0 then uniform (.aswait f) (longPut f.d 0 warnFIELDRES s) s
      else if obj % 128 ≠ 0 then uniform (.aswait f) (.trap causeMISALIGNED (BitVec.ofNat 64 obj)) s
      else
        match s.objCheck l w obj with
        | .inl (.trap cause a) => uniform (.aswait f) (.trap cause (BitVec.ofNat 64 a)) s
        | .inl _ => s
        | .inr key =>
          let s1 := (uniform (.aswait f) (.run id 0 s.after (some (.aswait key (s.sreg f.b)))) s).noteFits key 64
          if s.cur.defer then s1 else s1.tryAswait s.cur.wg s.cur.team)

/-- ASWAIT_COMPLETE (R360). -/
def execAswaitComplete (wg team : Nat) (s : State) : Out := .next (s.tryAswait wg team)

end Sys2Proof.Machine
end

