-- ==== Sys2Proof/Machine/Engines.lean ====
section
/-!
DEFINITION. Sys2Proof/Machine/Engines.lean: the engine commands (R157, R236): HOD (R172, R394, R395), LOOM (R406,
R407), TASK and TASK.serve (R435, R436), KSARM, KSDIS and KSRD (R398 to R401), QFENCE (R421).
-/
namespace Sys2Proof.Machine

/-! ### The shape of every engine command -/

/-- The desk of the team that issues. -/
def State.curDesk (s : State) : Option Desk :=
  s.curHome.map (fun h => { launch := h.1, wg := some h.2, viewer := some s.teamViewer, core := s.cur.core })

/-- How a check ends a uniform instruction: a status in s(d), a trap, or a park. -/
def Chk.teamDo (c : Chk) (d : Reg) (s : State) : TeamDo :=
  match c with
  | .ok => longPut d 0 0 s
  | .refuse n => longPut d (BitVec.ofNat 64 n) 0 s
  | .trap cause addr => .trap cause (BitVec.ofNat 64 addr)
  | .park addr acc reason level => .park acc (BitVec.ofNat 64 addr) reason level

/-- A record read for a command: its bytes go on to a check; a failed read traps or parks (R152). -/
def withRecord (i : Instr) (d : Desk) (addr : Word) (n align : Nat) (k : List Byte → State) (s : State) : State :=
  match s.deskRead d addr.toNat n align with
  | .trap cause a => uniform i (.trap cause a) s
  | .park a reason level => uniform i (.park accLoad a reason level) s
  | .got bytes => k bytes

/-- The bytes of the task record that stands for a command of its own: ENTRY, KIND and QUEUE, no guard (R158). -/
def plainRecord (entry kind queue : Nat) : List Byte :=
  leBytes 8 entry ++ List.replicate 32 0 ++ leBytes 1 kind ++ leBytes 1 0xFF ++ leBytes 1 queue ++ leBytes 1 0 ++
    List.replicate 20 0

/-- A queue of the issuing core is full: the command waits at issue (R159). -/
def State.queueFull (s : State) (core q : Nat) : Bool := decide (s.queueCount core q ≥ Config.queueRecords)

/-- A task record and what its ENTRY names have been read by the team that issues. -/
def State.taskFetched (s : State) (d : Desk) (addr : Nat) (r : List Byte) (t : State) : State :=
  s.teamFetched (s.teamFetched t addr 64) (taskEntry r) (s.entryRead d r)

/-! ### TASK (R435) -/

/-- TASK. (DEDUCED, log entry 35.) -/
def execTask (f : SA) (s : State) : Out :=
  .next (match s.curDesk with
    | none => s
    | some d =>
      let addr := s.sreg f.a
      withRecord (.task f) d addr 64 64 (fun r =>
        match s.taskCheck d false true s.teamWrites r with
        | .bad c => s.taskFetched d addr.toNat r (uniform (.task f) (c.teamDo f.d s) s)
        | .good q =>
          if s.queueFull d.core (taskQueue r) then s
          else
            s.taskFetched d addr.toNat r
              (((uniform (.task f) (longPut f.d 0 0 s) s).enqueue d.core (taskQueue r) q).noteTeamLeaf addr)) s)

/-! ### TASK.serve (R436) -/

/-- TASK.serve: the team stands there until the foreman gives it a record, or an end. -/
def execTaskServe (f : SA) (s : State) : Out :=
  let m := (s.sreg f.a).toNat
  let serve : Serve := { queue := bitsAt m 2 1, idle := bitAt m 0, d := f.d, pc := s.cur.pc, inTask := false }
  let stand (c : Ctx) : Ctx := if s.cur.course.contains c.id then { c with status := .serving } else c
  let s1 := uniform (.taskServe f) (.run (fun t => { t with serve := some serve }) (warnIf (decide (m ≥ 8)) warnFIELDRES)
    s.after none) s
  .next (s1.mapCtx stand)

/-! ### LOOM (R406, R407) -/

/-- The workgroup that issues is Loom-holding (R249). -/
def State.holdLoom (s : State) : State := s.onWg s.cur.wg (fun w => { w with loomHolding := true })

/-- LOOM: one that traps or is refused has issued, and makes its workgroup Loom-holding too (R249). (DEDUCED, log entry
35.) -/
def execLoom (f : SA) (s : State) : Out :=
  .next (match s.curDesk with
    | none => s
    | some d =>
      let addr := s.sreg f.a
      match s.deskRead d addr.toNat 64 64 with
      | .got r =>
        (match s.loomCheck d false true r with
          | .ok =>
            if s.queueFull d.core 4 then s
            else
              let q := s.queueRec d false (plainRecord addr.toNat kindLOOM 4) r s.teamWrites
              s.teamFetched (((uniform (.loom f) (longPut f.d 0 0 s) s).enqueue d.core 4 q).holdLoom.noteTeamLeaf addr)
                addr.toNat 64
          | c => s.teamFetched (uniform (.loom f) (c.teamDo f.d s) s).holdLoom addr.toNat 64)
      | .trap cause a => (uniform (.loom f) (.trap cause a) s).holdLoom
      | .park a reason level => (uniform (.loom f) (.park accLoad a reason level) s).holdLoom)

/-! ### HOD (R172, R394) -/

/-- The k-th copy of a workgroup has every team that still has live threads (R172, R376). -/
def State.copyReady (s : State) (w : Workgroup) (a : CopyAsm) : Bool :=
  (List.range w.teams).all (fun t => (s.liveOfTeam w.num t).isEmpty || a.entries.any (fun e => e.team == t))

/-- The entries of a copy in team order. -/
def CopyAsm.sorted (a : CopyAsm) : List HodEntry :=
  (List.range 16).filterMap (fun t => a.entries.find? (fun e => e.team == t))

/-- The entries that name each descriptor address first. -/
def firstOfAddr : List HodEntry → List HodEntry → List HodEntry
  | [], acc => acc
  | e :: es, acc => firstOfAddr es (if acc.any (fun x => x.addr == e.addr) then acc else acc ++ [e])

/-- The ring of an entry as a queue record names it. -/
def HodEntry.ringOf (e : HodEntry) : Option RingRef :=
  e.ring.map (fun q => { key := q.1, size := q.2, desc := e.addr.toNat, tag := e.tag })

/-- The queue record of a whole copy (R172). -/
def copyRec (w : Workgroup) (a : CopyAsm) : QRec :=
  let es := a.sorted
  let named := firstOfAddr es []
  let fail := if named.length > 1 then 1 else if es.any (fun e => e.refused != 0) then 5 else 0
  { num := 0, rcd := plainRecord ((es.head?.map (fun e => e.addr.toNat)).getD 0) kindHOD 5, desc := a.desc,
    owner := some w.num, launch := w.launch,
    slices := (es.filter (fun e => e.refused == 0)).map (fun e => (e.first, e.last)),
    rings := named.filterMap HodEntry.ringOf, fence := [], lostScratch := es.any HodEntry.lost, fired := false, fail := fail,
    lead := es.head?.map HodEntry.team, after := es.flatMap HodEntry.writes, seq := some a.k }

/-- Two slices of a list share an index (R172). -/
def slicesOverlap : List (Nat × Nat) → Bool
  | [] => false
  | x :: xs => xs.any (fun y => decide (max x.1 y.1 < min x.2 y.2)) || slicesOverlap xs

/-- The copies of a workgroup that are complete enter the Hod queue in order while it has room (R159, R172). Slices that
overlap are recorded for a copy that runs. (DEDUCED, log entry 102.) -/
def State.startCopiesFrom (s : State) (wg : Nat) : Nat → State
  | 0 => s
  | fuel + 1 =>
    match s.wg? wg with
    | none => s
    | some w =>
      match w.copies with
      | [] => s
      | a :: rest =>
        if !s.copyReady w a || s.queueFull w.core 5 then s
        else
          let r := copyRec w a
          let s := s.onWg wg (fun w => { w with copies := rest })
          let s := if r.fail = 0 ∧ slicesOverlap r.slices then
              s.mapCtx (fun c => if c.live && c.id.wg == wg then c.warned warnSLICEOVL else c)
            else s
          (s.enqueue w.core 5 r).startCopiesFrom wg fuel

/-- The complete copies of a workgroup enter the Hod queue. -/
def State.startCopies (s : State) (wg : Nat) : State :=
  s.startCopiesFrom wg (((s.wg? wg).map (fun w => w.copies.length)).getD 0 + 1)

/-- A copy with one more entry; copies stand in the order of their numbers. -/
def addEntry (k : Nat) (desc : List Byte) (e : HodEntry) : List CopyAsm → List CopyAsm
  | [] => [{ k := k, desc := desc, entries := [e] }]
  | a :: as =>
    if a.k = k then { a with entries := a.entries ++ [e] } :: as
    else a :: addEntry k desc e as

/-- A team's HOD has arrived. -/
def State.hodArrive (s : State) (wg team k : Nat) (desc : List Byte) (e : HodEntry) : State :=
  let s := s.onTeam wg team (fun t => { t with hodSeq := k + 1 })
  let s := s.onWg wg (fun w => { w with copies := addEntry k desc e w.copies })
  s.startCopies wg

/-- The descriptor that the first arrival at a team's copy has read, where that named the same address. -/
def Desk.copyDesc (d : Desk) (k : Nat) (addr : Word) : Option (List Byte) :=
  (d.wg.bind (fun w => w.copies.find? (fun a => a.k == k))).bind (fun a =>
    if (a.entries.head?).any (fun e => e.addr == addr) then some a.desc else none)

/-- The descriptor that a team's HOD names: what the copy's first arrival read when that named the same address. -/
def State.hodDesc (s : State) (d : Desk) (k : Nat) (addr : Word) : TeamRead :=
  match d.copyDesc k addr with
  | some desc => .got desc
  | none => s.deskRead d addr.toNat 256 64

/-- HOD. -/
def execHod (f : SA) (s : State) : Out :=
  .next (match s.curDesk, s.curTeam with
    | some d, some t =>
      let addr := s.sreg f.a
      let b := bitsAt (s.sreg f.b).toNat 31 0
      let e := bitsAt (s.sreg f.b).toNat 63 32
      (match s.hodDesc d t.hodSeq addr with
        | .trap cause a => uniform (.hod f) (.trap cause a) s
        | .park a reason level => uniform (.hod f) (.park accLoad a reason level) s
        | .got desc =>
          let ringAddr := fieldAt desc 0x20 8
          let form := s.ringForm d.viewer ringAddr
          let entry (refused : Nat) : HodEntry :=
            { team := t.idx, addr := addr, first := b, last := e, refused := refused,
              ring := if s.ringChk d ringAddr form = .ok then form else none,
              tag := hodTag desc, lost := refused == 0 && s.hodLost d desc b e, writes := s.teamWrites }
          let fetched (u : State) : State := s.teamFetched u addr.toNat (if (d.copyDesc t.hodSeq addr).isSome then 0 else 256)
          (match s.hodCheck d desc b e true with
            | .ok =>
              if s.queueFull d.core 5 then s
              else
                fetched (((uniform (.hod f) (longPut f.d 0 0 s) s).hodArrive t.wg t.idx t.hodSeq desc (entry 0)).noteTeamLeaf
                  addr)
            | .refuse n =>
              fetched ((uniform (.hod f) (Chk.teamDo (.refuse n) f.d s) s).hodArrive t.wg t.idx t.hodSeq desc (entry n))
            | c => fetched (uniform (.hod f) (c.teamDo f.d s) s)))
    | _, _ => s)

/-! ### Keystones (R398 to R401) -/

/-- Where a range lies wholly at one home controller of this device: the controller and its key (R187, R399). -/
inductive KsPlace where
  | at_ (ctrl key : Nat)
  | split
  | fault (reason level : Nat)
  deriving DecidableEq, Repr

/-- The place of a keystone range. -/
def State.ksPlace (s : State) (root base len : Nat) : KsPlace :=
  if isTranslated base then
    match s.leafOf root base with
    | .fault reason level => .fault reason level
    | .leaf e level =>
      let size := 2 ^ levelLow level
      let pa := bitsAt e 51 16 * 2 ^ 16 + base % size
      let mine := bitsAt e 7 6 == 0 || (bitsAt e 7 6 == 1 && some (bitsAt e 63 52) == s.devnum)
      if !mine || base % size + len > size then .split
      else
        (match s.leafOf root (base + (len - 1)) with
         | .fault reason level => .fault reason level
         | .leaf _ _ =>
           if !bitAt e 2 then .fault reasonNOREAD level else .at_ (Config.cores + pa / 2 ^ 36) (hbmBase + pa))
  else
    match s.localSlab base, s.localSlab (base + len - 1) with
    | some k, some k' => if slabCore k = slabCore k' ∧ k' = k + len - 1 then .at_ (slabCore k) k else .split
    | _, _ => .split

/-- The counters of a controller (R186). -/
def ksCounters (ctrl : Nat) : Nat := if ctrl < Config.cores then 64 else 512

/-- The action word of a keystone descriptor. -/
def ksKind (r : List Byte) : Nat := fieldAt r 0x18 8 % 8
def ksTarget (r : List Byte) : Nat := bitsAt (fieldAt r 0x18 8) 55 6
def ksRearm (r : List Byte) : Bool := bitAt (fieldAt r 0x18 8) 3

/-- Step 3 of R399. -/
def ksFieldsBad (l : Launch) (r : List Byte) : Bool :=
  let act := fieldAt r 0x18 8
  fieldAt r 0 8 % 256 != 0 || fieldAt r 8 4 % 256 != 0 || fieldAt r 8 4 == 0 || nonzero r 0x0C 4 ||
    fieldAt r 0x10 8 == 0 || decide (fieldAt r 0x10 8 > 2 ^ 48) || bitsAt act 63 56 != 0 || bitsAt act 5 4 != 0 ||
    (decide (ksKind r ≤ 1) && bitsAt act 55 12 != 0) ||
    (ksKind r == 0 && decide (ksTarget r % 64 ≥ l.tags)) || (ksKind r == 1 && decide (ksTarget r % 64 ≥ l.barriers))

/-- What an ENQUEUE action copies: a queue record, none for the other kinds (R399 step 6). -/
def State.ksRecord (s : State) (d : Desk) (r : List Byte) : TaskChk :=
  let addr := 64 * ksTarget r
  match s.deskRead d addr 64 64 with
  | .trap cause a => .bad (.trap cause a.toNat)
  | .park a reason level => .bad (.park a.toNat accLoad reason level)
  | .got t => s.taskCheck d true false s.teamWrites t

/-- Steps 2 to 5 of R399, before a record to be copied is read. -/
def State.ksForm (s : State) (d : Desk) (r : List Byte) : Chk :=
  let base := fieldAt r 0 8
  let len := fieldAt r 8 4
  Chk.first
    [refuseIf (decide (ksKind r ≥ 4)) engBADKIND, refuseIf (ksFieldsBad d.launch r) engBADFIELD,
     match s.ksPlace (s.ptRoot d.launch.queue) base len with
      | .split => .refuse engSPLIT
      | .fault reason level => .park base accLoad reason level
      | .at_ _ _ => if isTranslated base then .ok else s.slabChk d base len accEngineRead]

/-- A keystone descriptor, and the record that it copies, have been read by the team that issues. -/
def State.ksFetched (s : State) (d : Desk) (addr : Nat) (r : List Byte) (t : State) : State :=
  let t1 := s.teamFetched t addr 32
  if ksKind r = 2 ∧ s.ksForm d r = .ok then
    match s.deskRead d (64 * ksTarget r) 64 64 with
    | .got x => s.taskFetched d (64 * ksTarget r) x t1
    | _ => t1
  else t1

/-- Steps 2 to 5 and 7 of R399. -/
def State.ksCheck (s : State) (d : Desk) (r : List Byte) : Chk :=
  let ring := 64 * ksTarget r
  Chk.first
    [s.ksForm d r,
     if ksKind r = 2 then (match s.ksRecord d r with
        | .bad c => c
        | .good _ => .ok) else .ok,
     if ksKind r = 3 then (match s.ringForm d.viewer ring with
        | some q => s.ringChk d ring (some q)
        | none => .refuse engBADFIELD) else .ok]

/-- The lowest free counter of a controller (R398). -/
def State.freeCounter (s : State) (ctrl : Nat) : Option Nat :=
  (List.range (ksCounters ctrl)).find? (fun n => !(s.keystone ctrl n).armed)

/-- The counter as KSARM arms it. -/
def State.ksArmed (s : State) (d : Desk) (addr : Word) (r : List Byte) (key : Nat) : Keystone :=
  let ring := if ksKind r = 3 then s.ringForm d.viewer (64 * ksTarget r) else none
  { armed := true, base := key, len := fieldAt r 8 4, total := fieldAt r 0x10 8, kind := ksKind r,
    target := match ring with
      | some q => q.1
      | none => ksTarget r % 64,
    rearm := ksRearm r, count := 0, overshot := false, pending := false, late := false, fired := false,
    owner := d.wg.map Workgroup.num, launch := d.launch.num, core := d.core,
    rcd := if ksKind r = 2 then (match s.ksRecord d r with
        | .good q => some q
        | .bad _ => none) else none,
    ringN := (ring.map Prod.snd).getD 0, descAddr := addr }

/-- KSARM: it waits at issue until the team's earlier writes are visible, which it releases (R236). (DEDUCED, log
entry 43.) -/
def execKsarm (f : SA) (s : State) : Out :=
  let addr := s.sreg f.a
  if s.curSampled then .next (uniform (.ksarm f) (.trap causeWINDOW addr) s)
  else
    .next (match s.curDesk with
      | none => s
      | some d =>
        withRecord (.ksarm f) d addr 32 32 (fun r =>
          let fetched (t : State) : State := s.ksFetched d addr.toNat r t
          let refuse (n : Nat) : State := fetched (uniform (.ksarm f) (longPut f.d (BitVec.ofNat 64 (2 ^ 63 + n)) 0 s) s)
          match s.ksCheck d r with
          | .refuse n => refuse n
          | .ok =>
            (match s.ksPlace (s.ptRoot d.launch.queue) (fieldAt r 0 8) (fieldAt r 8 4) with
              | .at_ ctrl key =>
                (match s.freeCounter ctrl with
                  | none => refuse engNOCOUNTER
                  | some n =>
                    if s.teamWrites.any s.outstanding then s
                    else
                      let k := s.ksArmed d addr r key
                      let s1 := uniform (.ksarm f) (longPut f.d (BitVec.ofNat 64 (ksHandle ctrl n)) 0 s) s
                      fetched (((s1.onKeystone ctrl n (fun _ => k)).noteTeamLeaf addr).noteTeamLeaf
                        (BitVec.ofNat 64 (fieldAt r 0 8))))
              | _ => refuse engSPLIT)
          | c => fetched (uniform (.ksarm f) (c.teamDo f.d s) s)) s)

/-- The counter that a handle names (R187, R400). -/
def ksNamed (h : Word) : Option (Nat × Nat) :=
  let ctrl := bitsAt h.toNat 27 16
  let n := bitsAt h.toNat 15 0
  if h.getLsbD 63 || decide (ctrl ≥ Config.cores + 8) || decide (n ≥ ksCounters ctrl) then none else some (ctrl, n)

/-- KSDIS's status. -/
def State.ksdisStatus (s : State) (wg : Nat) (h : Word) : Nat :=
  match ksNamed h with
  | none => engBADFIELD
  | some (ctrl, n) =>
    let k := s.keystone ctrl n
    if !k.armed then 9 else if k.kind ≤ 1 ∧ k.owner ≠ some wg then 10 else 0

/-- A counter freed by KSDIS; one whose action waits is freed after it (R400). -/
def Keystone.disarm (k : Keystone) : Keystone :=
  if k.pending then { k with rearm := false, fired := true } else { k with armed := false }

/-- KSDIS (R400). -/
def execKsdis (f : SA) (s : State) : Out :=
  let h := s.sreg f.a
  if s.curSampled then .next (uniform (.ksdis f) (.trap causeWINDOW 0) s)
  else
    let st := s.ksdisStatus s.cur.wg h
    let s1 := uniform (.ksdis f) (longPut f.d (BitVec.ofNat 64 st) 0 s) s
    .next (match ksNamed h with
      | some (ctrl, n) => if st = 0 then s1.onKeystone ctrl n Keystone.disarm else s1
      | none => s1)

/-- What KSRD reads (R401). -/
def Keystone.word (k : Keystone) : Word :=
  BitVec.ofNat 64 (k.count % 2 ^ 49 + (if k.pending then 2 ^ 61 else 0) + (if k.overshot then 2 ^ 62 else 0) +
    (if k.armed then 2 ^ 63 else 0))

/-- KSRD (R189, R401). -/
def execKsrd (f : SA) (s : State) : Out :=
  .next (match ksNamed (s.sreg f.a) with
    | none => uniform (.ksrd f) (longPut f.d 0 warnFIELDRES s) s
    | some (ctrl, n) =>
      let k := s.keystone ctrl n
      uniform (.ksrd f) (longPut f.d k.word (warnIf k.overshot warnOVERSHOOT) s) s)

/-! ### QFENCE (R421) -/

/-- The record of a QFENCE: its queue and its mask. -/
def qfenceRecord (q mask : Nat) : List Byte :=
  List.replicate 40 0 ++ leBytes 1 kindQFENCE ++ leBytes 1 0xFF ++ leBytes 1 q ++ List.replicate 5 0 ++ leBytes 1 mask ++
    List.replicate 15 0

/-- QFENCE. -/
def execQfence (f : SA) (s : State) : Out :=
  let mask := (s.sreg f.a).toNat
  let q := (s.sreg f.b).toNat
  .next (match s.curDesk with
    | none => s
    | some d =>
      if q > 6 then uniform (.qfence f) (longPut f.d (BitVec.ofNat 64 engBADQUEUE) 0 s) s
      else if mask ≥ 128 then uniform (.qfence f) (longPut f.d (BitVec.ofNat 64 engBADFIELD) 0 s) s
      else if s.queueFull d.core q then s
      else
        let r := s.queueRec d false (qfenceRecord q mask) [] s.teamWrites
        (uniform (.qfence f) (longPut f.d 0 0 s) s).enqueue d.core q r)

end Sys2Proof.Machine
end

