-- ==== Sys2Proof/Machine/Foreman.lean ====
section
/-!
DEFINITION. Sys2Proof/Machine/Foreman.lean: the foreman (R160 to R167, R192): how records start, end and are
discarded, team tasks, EOS and QFENCE records, pending keystone actions (R190) and the idle tree.
-/
namespace Sys2Proof.Machine

/-! ### Counters of the clerk -/

/-- What the clerk counts besides storage errors: completion records not written (R60), EOS records not enqueued
(R166), collective chunks discarded (R195), accesses of the host to bytes that no stack holds (R266). -/
def clerkRecord : Nat := 0
def clerkEos : Nat := 1
def clerkChunk : Nat := 2
def clerkHole : Nat := 3

/-- The clerk counts one more. -/
def State.clerkCount (s : State) (kind : Nat) : State :=
  { s with clerk := Table.set s.clerk kind (Table.get s.clerk 0 kind + 1) }

/-! ### How a record ends -/

/-- The successor update of a record (R162), after the writes to the counter that the foreman sees (R223, R230). -/
def State.updateSucc (s : State) (core : Nat) (r : QRec) (after : List Nat) : State :=
  match (if taskSucc r.rcd = 0 then none else s.localSlab (taskSucc r.rcd)) with
  | some k =>
    s.pushEvent core k (.add 4 (if fieldAt r.rcd 0x2B 1 = 1 then 1 else 2 ^ 32 - 1)) (after ++ s.engineAfter core r.owner k 4)
  | none => s

/-- The tag that a record's work names, 0xFF for none. -/
def QRec.tag (r : QRec) : Nat := entryTag (taskKind r.rcd) r.desc

/-- The tag of a record's owner is set; a record without owner sets none (R192). -/
def State.setRecTag (s : State) (r : QRec) : State :=
  match r.owner with
  | some n => if r.tag = 0xFF then s else s.setTag n r.tag
  | none => s

/-- The completion records of a record's rings, each with the tag of the descriptor that names it (R172, R177). (DEDUCED,
log entry 39.) -/
def State.reportRec (s : State) (core : Nat) (r : QRec) (status fcode bytes faddr : Nat) : State :=
  r.rings.foldl (fun s q =>
    s.writeRing core r.owner q.key q.size (engineRecord status fcode q.tag bytes faddr q.desc) []) s

/-- A record counts as completed (R167). -/
def State.countDone (s : State) : State := { s with completed := s.completed + 1 }

/-- The head of a queue leaves it. -/
def State.popQueue (s : State) (core q : Nat) : State :=
  s.onCore core (fun c => { c with queues := Table.set c.queues q ((Table.get c.queues [] q).drop 1) })

/-- A record is discarded without starting: for its successor counter as a completion (R160, R192, R399). -/
def State.discard (s : State) (core q : Nat) (r : QRec) : State := ((s.popQueue core q).updateSucc core r []).countDone

/-- A record is discarded with status REFUSED in its rings (R192, R399). -/
def State.refuseRec (s : State) (core q : Nat) (r : QRec) : State := (s.reportRec core r 5 0 0 0).discard core q r

/-- The QFENCE records that wait for a record wait for what its completion releases too, on whichever core they are, or
saved (R164, R247). -/
def State.fenceAfter (s : State) (num : Nat) (after : List Nat) : State :=
  let add (f : QRec) : QRec := if f.fence.contains num then { f with after := f.after ++ after } else f
  let onCore (c : Core) : Core := { c with queues := c.queues.map (fun e => (e.1, e.2.map add)) }
  if after.isEmpty then s
  else
    { s with cores := s.cores.map (fun (e : Nat × Core) => (e.1, onCore e.2))
             wgs := s.wgs.map (fun w => { w with savedRecs := w.savedRecs.map (fun e => (e.1, add e.2)) }) }

/-- A started task ends: its running place frees, its successor counter follows, and the fences that wait for it take
over what it releases (R162, R164). -/
def State.endTask (s : State) (core q : Nat) (r : QRec) (after : List Nat) : State :=
  (((s.onCore core (fun c => { c with running := Table.erase c.running q })).fenceAfter r.num after).updateSucc core r
    after).countDone

/-! ### How a record starts -/

/-- Whether the head of a queue may start (R160). -/
inductive Start where
  | wait
  | go
  | drop
  deriving DecidableEq, Repr

/-- The wait counter of a record is not zero, or a write to it that the foreman sees is on its way (R160). -/
def State.waitHolds (s : State) (core : Nat) (r : QRec) : Bool :=
  match (if taskWait r.rcd = 0 then none else s.localSlab (taskWait r.rcd)) with
  | some k => s.memNat k 4 != 0 || s.engineBars core r.owner [(k, 4)]
  | none => false

/-- The conditions of R160 on the wait counter and the guard slot. What the record was released must be visible (R236), and
what the resolution of its slot released (R390). (DEDUCED, log entry 44.) -/
def State.mayStart (s : State) (core : Nat) (r : QRec) : Start :=
  if r.after.any s.outstanding then .wait
  else if s.waitHolds core r then .wait
  else
    match r.owner.bind s.wg? with
    | none => .go
    | some w =>
      if taskGuard r.rcd = 0xFF then .go
      else if (w.guardWrites (taskGuard r.rcd)).any s.outstanding then .wait
      else
        match Table.find w.guards (taskGuard r.rcd) with
        | none => .wait
        | some true => .go
        | some false => .drop

/-- A task as it starts. -/
def startOf (r : QRec) (tokens : Nat) : Running :=
  { rcd := r, progress := 0, dest := 0, bytes := 0, status := r.fail, fcode := 0, faddr := 0, done := r.fail != 0,
    parked := false, team := 0, teamWg := 0, tokens := tokens, vector := [], vecPoison := none }

/-- The vector of a QGEMV, as keys. -/
def State.quarryVecKeys (s : State) (r : QRec) : List (Nat × Nat) :=
  ((s.slabDecode (fieldAt r.desc 8 8)).map (fun k => (k, quarryVec r.desc))).toList

/-- A QGEMV task reads its vector at a key, once (R185), and notes its first poisoned unit (R177). -/
def State.vectorRead (s : State) (k : Nat) (x : Running) : Running :=
  let n := quarryVec x.rcd.desc
  { x with
    vector := cellsRead s.mem k n
    vecPoison := (firstPoison s.poison k n).map (fun u => mod64 ((fieldAt x.rcd.desc 8 8 : Int) + u - k))
    asked := [] }

/-- A QGEMV task as it starts: the vector is read once (R185; DEDUCED, log entry 82); one on another device is asked for
first (R268). -/
def State.quarryStart (s : State) (r : QRec) : Running :=
  match (s.slabDecode (fieldAt r.desc 8 8)).filter (fun k => !isRemoteKey k) with
  | some k => s.vectorRead k (startOf r 0)
  | none => startOf r 0

/-- The head of a queue starts on its engine. -/
def State.begin (s : State) (core q : Nat) (x : Running) : State :=
  (s.popQueue core q).onCore core (fun c => { c with running := Table.set c.running q x })

/-- The tokens that running Loom tasks hold (R26). -/
def State.tokensUsed (s : State) : Nat :=
  (s.cores.map (fun e => ((Table.find e.2.running 4).map Running.tokens).getD 0)).sum

/-- The number of bits set in a band mask. -/
def bandCount (mask : Nat) : Nat := ((List.range 4).filter (fun b => bitAt mask b)).length

/-- The tokens of a Loom task (R26, R182): of its own record for a WLOAD, else of the latched tile. -/
def loomTokens (tile : Option Tile) (r : List Byte) : Nat :=
  if loomOp r = 0 then bandCount (loomBands r) else ((tile.map (fun t => bandCount (loomBands t.rcd))).getD 0)

/-- A Loom task at the head of the queue does not meet the latched tile (R180, R181). (DEDUCED, log entry 37.) -/
def loomHeadBad (tile : Option Tile) (q : QRec) : Bool :=
  let was := (q.slices.head?).getD (128, 128)
  match loomOp q.desc, tile with
  | 1, none => true
  | 2, none => true
  | 1, some t => fmtInt (loomFmt t.rcd) != fmtInt (loomFmt q.desc) || decide (loomKvalid t.rcd > was.1)
  | 2, some t => decide (loomNvalid t.rcd > was.2)
  | _, _ => false

/-- A team's last task has not been completed, on whichever core it took it (R165). -/
def State.inTask (s : State) (t : Team) : Bool :=
  s.cores.any (fun c => c.2.running.any (fun e =>
    taskKind e.2.rcd.rcd == kindTEAM && e.2.teamWg == t.wg && e.2.team == t.idx))

/-- A team that stands at TASK.serve on a queue of a core with all its live threads, and whose last task has been
completed (R165), in whichever mode it serves: an EOS record may end an idle-mode role too (R166). (DESIGN CHOICE, log entry
45.) (DESIGN CHOICE, log entry 134.) -/
def State.serverOf (s : State) (core q : Nat) : Option Team :=
  s.teams.find? (fun t =>
    (match t.serve with
      | some v => v.queue == q && !v.inTask && !v.ending
      | none => false) &&
    (match s.wg? t.wg with
      | some w => w.place == .resident && w.core == core
      | none => false) &&
    !s.inTask t &&
    !(s.liveOfTeam t.wg t.idx).isEmpty && (s.liveOfTeam t.wg t.idx).all (fun c => c.status == .serving))

/-- The threads of a team that stand at TASK.serve go on. -/
def State.leaveServe (s : State) (t : Team) (g : Ctx → Ctx) : State :=
  s.mapCtx (fun c => if c.live && c.id.wg == t.wg && c.team == t.idx && c.status == .serving then
    g { c with status := .running } else c)

/-- A team takes a TEAM record (R165); it acquires what the start acquires: its core's L1 copies go (R237). (DESIGN CHOICE, log
entry 45.) -/
def State.takeTask (s : State) (core q : Nat) (t : Team) (r : QRec) : State :=
  let pc := (t.serve.map Serve.pc).getD 0
  let s := s.begin core q { startOf r 0 with team := t.idx, teamWg := t.wg }
  let s := s.onTeam t.wg t.idx (fun t =>
    { (t.put 1 (BitVec.ofNat 64 (fieldAt r.rcd 8 8))).put 2 (BitVec.ofNat 64 (fieldAt r.rcd 0x10 8)) with
      serve := t.serve.map (fun v => { v with inTask := true }) })
  (s.leaveServe t (fun c =>
    { c with regs := { c.regs with lr := pc }, pc := BitVec.ofNat 64 (taskEntry r.rcd) })).flushL1 core

/-- A team's TASK.serve ends with a value (R166, R167). -/
def State.endServe (s : State) (t : Team) (core value : Nat) : State :=
  let d := (t.serve.map Serve.d).getD 0
  ((s.onTeam t.wg t.idx (fun t => { t.put d (BitVec.ofNat 64 value) with serve := none })).leaveServe t id).flushL1 core

/-- The head record of a queue that nothing of the queue runs before. -/
def State.headOf (s : State) (core q : Nat) : Option QRec :=
  if (Table.find (s.core core).running q).isSome then none else (s.queueRecs core q).head?

/-- The head of a queue whose start conditions hold. -/
def State.startHead (s : State) (core q : Nat) (r : QRec) : State :=
  match taskKind r.rcd with
  | 0 =>
    (match s.serverOf core q with
      | some t => s.takeTask core q t r
      | none => s)
  | 1 =>
    let tile := (s.core core).tile
    if loomHeadBad tile r then (s.setRecTag r).refuseRec core q r
    else
      let n := loomTokens tile r.desc
      if n = 0 ∨ s.tokensUsed + n ≤ s.pool then s.begin core q (startOf r n) else s
  | 2 => s.begin core q (startOf r 0)
  | 3 => if s.engineBars core r.owner (s.quarryVecKeys r) then s else s.begin core q (s.quarryStart r)
  | _ => s

/-- The complete copies of every workgroup of a core enter its Hod queue. -/
def State.startCoreCopies (s : State) (core : Nat) : State :=
  (s.wgs.filter (fun w => w.core == core && w.place == .resident && !w.copies.isEmpty)).foldl
    (fun s w => s.startCopies w.num) s

/-- FOREMAN_START (R160, R192). EOS and QFENCE records have events of their own, but are discarded here: a record that must be
discarded goes as soon as it heads its queue, whatever its wait counter holds. (DESIGN CHOICE, log entry 128.) -/
def execForemanStart (core q : Nat) (s : State) : Out :=
  let s := if q = 5 then s.startCoreCopies core else s
  .next (match s.headOf core q with
    | none => s
    | some r =>
      if r.owner.isNone && r.lostScratch then s.refuseRec core q r
      else
        match s.mayStart core r with
        | .wait => s
        | .drop => s.discard core q r
        | .go => s.startHead core q r)

/-! ### Team tasks -/

/-- The writes of a team that are not yet visible. -/
def State.teamPending (s : State) (wg team : Nat) : List Nat :=
  (s.stores.filter (fun p => match p.src with
    | some id => id.wg == wg && id.tix / 32 == team
    | none => false)).map PendingWrite.num ++
  (s.liveOfTeam wg team).flatMap (fun c => (c.inflight.filter (fun f => s.stuck f.num)).map Flight.num)

/-- A running team task completes once every live thread of its team stands at TASK.serve (R165, R376). -/
def State.tryTeamTask (s : State) (core q : Nat) : State :=
  match Table.find (s.core core).running q with
  | none => s
  | some x =>
    if taskKind x.rcd.rcd = 0 && (s.liveOfTeam x.teamWg x.team).all (fun c => c.status == .serving) then
      s.endTask core q x.rcd (s.teamPending x.teamWg x.team)
    else s

/-- TEAM_TASK_COMPLETE. -/
def execTeamTaskComplete (core q : Nat) (s : State) : Out := .next (s.tryTeamTask core q)

/-! ### EOS and QFENCE -/

/-- A record that a QFENCE waits for has not completed: it stands in a queue or runs, on whichever core, or is saved with
its workgroup (R164, R247). -/
def State.recOpen (s : State) (num : Nat) : Bool :=
  s.cores.any (fun c => c.2.queues.any (fun e => e.2.any (fun r => r.num == num)) ||
    c.2.running.any (fun e => e.2.rcd.num == num)) ||
  s.wgs.any (fun w => w.savedRecs.any (fun e => e.2.num == num) || w.paused.any (fun x => x.rcd.num == num))

/-- QFENCE_COMPLETE (R164). -/
def execQfenceComplete (core q : Nat) (s : State) : Out :=
  .next (match s.headOf core q with
    | none => s
    | some r =>
      if taskKind r.rcd = kindQFENCE && s.mayStart core r == .go && !r.fence.any s.recOpen then s.discard core q r
      else s)

/-- What becomes of the task record that an EOS record names (R166). -/
inductive EosNext where
  | nothing
  | dropped
  | full
  | waits                      -- for writes to what it reads that the foreman sees (R223, R230)
  | enters (r : QRec)
  deriving DecidableEq, Repr

/-- The ranges that the foreman reads for the check of an EOS record's task record at a key: the record, and what its ENTRY
names. -/
def State.eosReads (s : State) (l : Launch) (k : Nat) : List (Nat × Nat) :=
  let r := cellsRead s.mem k 64
  (k, 64) :: (s.enginePieces (s.ptRoot l.queue) (taskEntry r) (entryBytes (taskKind r)) accNone).ranges

/-- The check of R166: R435, steps 2 to 4 and 6, without trapping. The 64 bytes of the record are taken as they stand,
poisoned or not. (DEDUCED, log entry 46.) (DEDUCED, log entry 103.) -/
def State.eosCheck (s : State) (core : Nat) (r : QRec) : EosNext :=
  if eosNext r.rcd = 0 then .nothing
  else
    match s.launch? r.launch, s.localSlab (eosNext r.rcd) with
    | some l, some k =>
      let d : Desk := { launch := l, wg := r.owner.bind s.wg?, viewer := none, core := core }
      if s.engineBars core r.owner (s.eosReads l k) then .waits else
      (match s.taskCheck d false false [] (cellsRead s.mem k 64) with
        | .bad _ => .dropped
        | .good q => if s.queueFull core (taskQueue q.rcd) then .full else .enters q)
    | _, _ => .dropped

/-- The end of an EOS record: its record enters a queue, its word is written, its successor counter is updated, and the
fences that wait for it take over its word (R164). -/
def State.endEos (s : State) (core q : Nat) (r : QRec) (next : EosNext) : State :=
  let s := s.popQueue core q
  let s := match next with
    | .enters x => s.enqueue core (taskQueue x.rcd) x
    | .dropped => s.clerkCount clerkEos
    | _ => s
  match (if eosWord r.rcd = 0 then none else s.localSlab (eosWord r.rcd)) with
  | some k =>
    (((s.pushWrite core none k (.put (leBytes 4 1) false) (s.engineAfter core r.owner k 4) []).fenceAfter r.num
      [s.nextNum]).updateSucc core r [s.nextNum]).countDone
  | none => (s.updateSucc core r []).countDone

/-- What the task record of an EOS record names in another device's memory is asked for on its route (R166, R268). -/
def State.eosFetch (s : State) (core : Nat) (r : QRec) : State :=
  match (if eosNext r.rcd = 0 then none else s.localSlab (eosNext r.rcd)), s.launch? r.launch with
  | some k, some l =>
    let x := cellsRead s.mem k 64
    s.fetchFar (s.ptRoot l.queue) (taskEntry x)
      (s.entryRead { launch := l, wg := r.owner.bind s.wg?, viewer := none, core := core } x)
  | _, _ => s

/-- EOS_COMPLETE (R166). In a team-task queue a serving team takes the record and goes on. -/
def execEosComplete (core q : Nat) (s : State) : Out :=
  .next (match s.headOf core q with
    | none => s
    | some r =>
      if taskKind r.rcd != kindEOS || s.mayStart core r != .go || (r.owner.isNone && r.lostScratch) then s
      else
        let next := s.eosCheck core r
        if next = .full ∨ next = .waits then s
        else if q ≥ 4 then (s.eosFetch core r).endEos core q r next
        else
          match s.serverOf core q with
          | some t => ((s.eosFetch core r).endEos core q r next).endServe t core 1
          | none => s)

/-! ### Pending keystone actions (R190) -/

/-- The next record of a counter's ENQUEUE action is to spend some time on its way: nothing orders two such actions
(R342). -/
def State.lateAction (s : State) (ctrl num : Nat) : State :=
  let k := s.keystone ctrl num
  if k.armed && k.kind == ksENQUEUE then s.onKeystone ctrl num (fun k => { k with late := true }) else s

/-- A record that was on its way enters its queue (R190). -/
def State.enterQueue (s : State) (core idx : Nat) : State :=
  match (s.core core).coming[idx]? with
  | some r => (s.onCore core (fun c => { c with coming := c.coming.eraseIdx idx })).enqueue core r.queue r
  | none => s

/-- A counter after its waiting action has been taken: it is freed, or, since it subtracted TOTAL as it fired, goes on and
may fire again (R189). -/
def State.ksAfter (s : State) (ctrl num : Nat) (k : Keystone) : State :=
  if k.fired then s.onKeystone ctrl num (fun k => { k with armed := false, pending := false, fired := false })
  else
    (s.onKeystone ctrl num (fun k => { k with pending := false })).ksFire ctrl num (k.count / k.total + 1)

/-- The firings of a workgroup that were held act in firing order, each once its queue has room (R159, R247); fuel bounds
their number. -/
def State.drainHeldFuel (s : State) (wg : Nat) : Nat → State
  | 0 => s
  | fuel + 1 =>
    match (s.wg? wg).map Workgroup.heldFirings with
    | some (h :: rest) =>
      if s.ksBlocked h.2 then s
      else
        ((s.onWg wg (fun w => { w with heldFirings := rest })).ksAct (h.1 / 2 ^ 16) (h.1 % 2 ^ 16) h.2).drainHeldFuel wg fuel
    | _ => s

/-- The held firings of a workgroup act. -/
def State.drainHeld (s : State) (wg : Nat) : State :=
  s.drainHeldFuel wg (((s.wg? wg).map (fun w => w.heldFirings.length)).getD 0)

/-- The firings of a counter's workgroup that were held act, where it is on a core (R247). -/
def State.drainOwner (s : State) (k : Keystone) : State :=
  match k.owner with
  | some n => if s.resident n then s.drainHeld n else s
  | none => s

/-- KEYSTONE_PENDING_ENQUEUE: the firings that were held before come first (R247). -/
def execKeystonePendingEnqueue (ctrl num : Nat) (s : State) : Out :=
  let s := s.drainOwner (s.keystone ctrl num)
  let k := s.keystone ctrl num
  .next (if k.pending && !s.ksBlocked k then (s.ksAction ctrl num k).ksAfter ctrl num k else s)

/-! ### The idle tree (R167) -/

/-- The foreman of a core reports idle (R167); a firing that is held for a saved workgroup does not count. (DESIGN
CHOICE, log entry 123.) -/
def State.foremanIdle (s : State) (core : Nat) : Bool :=
  ((s.core core).queues.all (fun e => e.2.isEmpty)) && (s.core core).coming.isEmpty && (s.core core).running.isEmpty &&
    !(s.keystones.any (fun e => e.2.pending && e.2.core == core))

/-- Every foreman reports idle. -/
def State.allIdle (s : State) : Bool := (s.cores.map Prod.fst).all s.foremanIdle

/-- The teams on a core that wait at TASK.serve in idle mode; a saved one is sampled once it is back (R247). -/
def State.idleServers (s : State) : List Team :=
  s.teams.filter (fun t => (match t.serve with
    | some v => v.idle && !v.inTask && !v.ending
    | none => false) && s.resident t.wg && !(s.liveOfTeam t.wg t.idx).isEmpty &&
    (s.liveOfTeam t.wg t.idx).all (fun c => c.status == .serving))

/-- The idle tree ends the wait of a team, which sees it at the next edge of its core's clock (R24, R167). (DEDUCED,
log entry 96.) -/
def State.markEnd (s : State) (t : Team) : State :=
  s.onTeam t.wg t.idx (fun t => { t with serve := t.serve.map (fun v => { v with ending := true }) })

/-- The teams of a core whose wait the idle tree has ended go on with 2. -/
def State.endServes (s : State) (core : Nat) : State :=
  (s.teams.filter (fun t => t.serve.any Serve.ending && s.resident t.wg &&
    (s.wg? t.wg).any (fun w => w.core == core))).foldl (fun s t => s.endServe t core 2) s

/-- IDLE_TREE_SAMPLE: a sample 1024 dispatcher cycles after one that showed the same ends the idle-mode servers. -/
def execIdleTreeSample (s : State) : Out :=
  .next (
    if !s.allIdle || s.enqueued != s.completed then { s with idleSample := none }
    else
      match s.idleSample with
      | none => { s with idleSample := some (s.dcycle, s.enqueued) }
      | some (t, n) =>
        if s.dcycle < t + 1024 then s
        else if n = s.enqueued then
          s.idleServers.foldl State.markEnd { s with idleSample := none }
        else { s with idleSample := some (s.dcycle, s.enqueued) })

end Sys2Proof.Machine
end

