-- ==== Sys2Proof/Machine/Hod.lean ====
section
/-!
DEFINITION. Sys2Proof/Machine/Hod.lean: the Hod at work (R169 to R175): chunks, fills, conversions, reductions,
faults, poison and the end of a copy.
-/
namespace Sys2Proof.Machine

/-! ### Elements -/

/-- The rounding of CONV and DCONV (R168, R178). -/
def engineMode (n : Nat) : RMode :=
  match n with
  | 1 => .rtz
  | 2 => .rup
  | 3 => .rdn
  | 4 => .rna
  | _ => .rne

/-- The environment of a conversion field: its mode and its SAT bit. -/
def engineEnv (x : Nat) : FEnv := { mode := engineMode (bitsAt x 6 4), ftzi := false, ftzo := false, sat := bitAt x 7 }

/-- A source element converted (R169). -/
def hodConvert (d : List Byte) (x : Nat) : Nat :=
  let env := engineEnv (fieldAt d 0x12 1)
  match hodConv d with
  | 1 => (e4m3.finish env (bf16.decode x)).bits
  | 2 => (e5m2.finish env (bf16.decode x)).bits
  | 3 => (bf16.finish env (e4m3.decode x)).bits
  | 4 => (bf16.finish env (e5m2.decode x)).bits
  | _ => x

/-- The fill of an element out of bounds (R169). -/
def hodFill (d : List Byte) : Nat :=
  if fieldAt d 0x13 1 = 0 then 0
  else
    match hodConv d with
    | 1 => e4m3.canonicalNaN
    | 2 => e5m2.canonicalNaN
    | 3 => bf16.canonicalNaN
    | 4 => bf16.canonicalNaN
    | _ => match hodESize d with
      | 1 => e4m3.canonicalNaN
      | 2 => bf16.canonicalNaN
      | 4 => fp32.canonicalNaN
      | _ => binary64.canonicalNaN

/-- What reading an element for a copy gives. -/
inductive HodGot where
  | bytes (l : List Byte)
  | fault (addr acc reason level : Nat)
  | poison (addr : Nat)
  deriving DecidableEq, Repr

/-- A read of the Hod. -/
def State.hodRead (s : State) (root addr n : Nat) : HodGot :=
  match s.enginePieces root addr n accEngineRead with
  | .fault a r l => .fault a accEngineRead r l
  | .at_ l => (match s.piecesPoison 0 l with
    | some o => .poison (mod64 ((addr : Int) + o))
    | none => .bytes (s.readPieces l))

/-- The destination value of an element: read or filled, converted, and combined with the inline stream (R169,
R171). -/
def State.hodValue (s : State) (root : Nat) (d : List Byte) (off : Int × Option Int) : HodGot :=
  let n := hodDSize d
  let e : HodGot := match off.2 with
    | none => .bytes (leBytes n (hodFill d))
    | some o => (match s.hodRead root (hodSource d o) (hodESize d) with
      | .bytes l => .bytes (leBytes n (hodConvert d (leNat l)))
      | g => g)
  match e with
  | .bytes l =>
    if hodInline d = 0 then .bytes l
    else
      (match s.hodRead root (hodLocal d off.1) n with
        | .bytes m => .bytes (leBytes n (redElem (hodInline d) n (leNat m) (leNat l)))
        | g => g)
  | g => g

/-! ### Chunks -/

/-- The block of 256 bytes of a destination. -/
def HodDest.block (x : HodDest) : Nat := x.address / 256

/-- The destination number j of an element. -/
def destAt (d : List Byte) (scr : Nat) (slices : List (Nat × Nat)) (j n : Nat) : Option HodDest :=
  (hodDests d scr (copyOffsets d slices n).1)[j]?

/-- The elements of the chunk that begins at an element: consecutive ones of one block (R174), where an element that
straddles two blocks belongs whole to that of its first byte; fuel bounds their count. (DESIGN CHOICE, log entry 119.)
-/
def chunkElems (d : List Byte) (scr : Nat) (slices : List (Nat × Nat)) (total : Nat) (b : Option Nat) : Nat → Nat → Nat
  | 0, _ => 0
  | fuel + 1, n =>
    if n < total ∧ (destAt d scr slices 0 n).map HodDest.block = b then 1 + chunkElems d scr slices total b fuel (n + 1) else 0

/-- What a chunk writes to one of its destinations, or what stops it. -/
inductive ChunkGot where
  | writes (l : List (Nat × HomeOp))
  | fault (addr acc reason level : Nat)
  | poison (addr : Nat)
  deriving DecidableEq, Repr

/-- The operation that an element's bytes perform at a piece of their destination (R171). -/
def hodOp (d : List Byte) (bytes : List Byte) : HomeOp :=
  if hodStore d = 0 then .put bytes false else .reduce (hodStore d) (hodDSize d) bytes

/-- The bytes of one element spread over its pieces; a reduction of an element that lies in two places is one operation
(R171). -/
def spread (d : List Byte) (l : List (Nat × Nat)) (bytes : List Byte) : List (Nat × HomeOp) :=
  match l with
  | [p] => [(p.1, hodOp d bytes)]
  | [p, q] =>
    if hodStore d = 0 then [(p.1, hodOp d (bytes.take p.2)), (q.1, hodOp d (bytes.drop p.2))]
    else [(p.1, .split (hodStore d) bytes q.1 p.2)]
  | _ => []

/-- The ranges that an element of a copy reads: of its source, and of the inline stream. -/
def State.hodReads (s : State) (root : Nat) (d : List Byte) (off : Int × Option Int) : List (Nat × Nat) :=
  (match off.2 with
    | some o => (s.enginePieces root (hodSource d o) (hodESize d) accEngineRead).ranges
    | none => []) ++
  (if hodInline d = 0 then []
   else (s.enginePieces root (hodLocal d off.1) (hodDSize d) accEngineRead).ranges)

/-- The values of m elements from n on, one after another: the bytes that their chunk carries to each destination. -/
def State.hodValues (s : State) (root : Nat) (d : List Byte) (slices : List (Nat × Nat)) : Nat → Nat → List Byte → HodGot
  | 0, _, acc => .bytes acc
  | m + 1, n, acc =>
    match s.hodValue root d (copyOffsets d slices n) with
    | .bytes l => s.hodValues root d slices m (n + 1) (acc ++ l)
    | g => g

/-- The writes of one element's bytes at its destination j. -/
def State.hodElem (s : State) (root : Nat) (d : List Byte) (scr : Nat) (slices : List (Nat × Nat)) (j n : Nat)
    (bytes : List Byte) : ChunkGot :=
  match destAt d scr slices j n with
  | none => .writes []
  | some (.key k) => .writes [(k, hodOp d bytes)]
  | some (.addr a) =>
    (match s.enginePieces root a (hodDSize d) accEngineWrite with
      | .fault a r l => .fault a accEngineWrite r l
      | .at_ l => .writes (spread d l bytes))

/-- The writes of m elements' bytes from n on at their destination j. -/
def State.hodChunkOf (s : State) (root : Nat) (d : List Byte) (scr : Nat) (slices : List (Nat × Nat)) (j : Nat) :
    Nat → Nat → List Byte → List (Nat × HomeOp) → ChunkGot
  | 0, _, _, acc => .writes acc
  | m + 1, n, bytes, acc =>
    match s.hodElem root d scr slices j n (bytes.take (hodDSize d)) with
    | .writes l => s.hodChunkOf root d scr slices j m (n + 1) (bytes.drop (hodDSize d)) (acc ++ l)
    | g => g

/-- The key of the scratch of a record's owner. -/
def State.ownerScr (s : State) (r : QRec) : Nat := ((r.owner.bind s.wg?).map Workgroup.scrKey).getD 0

/-- The page-table root of a record's launch. -/
def State.recRoot (s : State) (r : QRec) : Nat := ((s.launch? r.launch).map (fun l => s.ptRoot l.queue)).getD 0

/-- TEAMSLOT of a copy's fault record (R144). -/
def State.hodTeamSlot (s : State) (r : QRec) : Nat :=
  match r.owner with
  | none => 0
  | some n =>
    match r.lead with
    | some t => s.teamSlot n t
    | none => s.teamSlot n (((List.range 16).find? (fun t => !(s.liveOfTeam n t).isEmpty)).getD 0)

/-- A copy stops at a translation fault (R143, R175). -/
def State.hodFault (s : State) (core : Nat) (x : Running) (addr acc reason level : Nat) : State :=
  let r : FaultReq :=
    { addr := BitVec.ofNat 64 addr, pc := BitVec.ofNat 64 (taskEntry x.rcd.rcd), mask := 0, reason := reason, agent := 2,
      teamSlot := s.hodTeamSlot x.rcd, access := acc, level := level, launch := x.rcd.launch, who := [], hod := true,
      resolved := false }
  (s.onRunning core 5 (fun x => { x with parked := true })).postFaults core [r]

/-- The elements of the running copy's next chunk (R174); none where nothing is left. -/
def State.nextChunkSize (s : State) (x : Running) : Option Nat :=
  let d := x.rcd.desc
  let scr := s.ownerScr x.rcd
  let total := hodCount d x.rcd.slices
  (destAt d scr x.rcd.slices 0 x.progress).map (fun first =>
    chunkElems d scr x.rcd.slices total (some first.block) total x.progress)

/-- The bytes that the next chunk carries: those read for its first destination go to every destination (R174). -/
def State.chunkBytes (s : State) (x : Running) (m : Nat) : HodGot :=
  if x.dest = 0 then s.hodValues (s.recRoot x.rcd) x.rcd.desc x.rcd.slices m x.progress []
  else .bytes x.vector

/-- The reads of the next chunk. -/
def State.chunkReads (s : State) (x : Running) (m : Nat) : List (Nat × Nat) :=
  if x.dest = 0 then
    (List.range m).flatMap (fun i => s.hodReads (s.recRoot x.rcd) x.rcd.desc (copyOffsets x.rcd.desc x.rcd.slices (x.progress + i)))
  else []

/-- The places of another device that a range lies in: their addresses, keys and sizes. -/
def farPlaces (addr : Nat) : List (Nat × Nat) → List (Nat × Nat × Nat)
  | [] => []
  | p :: ps => if isRemoteKey p.1 then (addr, p) :: farPlaces (addr + p.2) ps else farPlaces (addr + p.2) ps

/-- What the next chunk reads of other devices. -/
def State.farReads (s : State) (x : Running) (m : Nat) : List (Nat × Nat × Nat) :=
  let d := x.rcd.desc
  let root := s.recRoot x.rcd
  if x.dest ≠ 0 then []
  else (List.range m).flatMap (fun i =>
    match (copyOffsets d x.rcd.slices (x.progress + i)).2 with
    | some o => farPlaces (hodSource d o) (s.enginePieces root (hodSource d o) (hodESize d) accEngineRead).ranges
    | none => [])

/-- The loads of an engine's reads of other devices go out on their routes (R268). (DESIGN CHOICE, log entry 83.) -/
def State.askFar (s : State) (core engine : Nat) (l : List (Nat × Nat × Nat)) : State :=
  l.foldl (fun s r =>
    ({ s.spanOut r.2.1 s.nextNum (.load r.2.2) with nextNum := s.nextNum + 1 } : State).onRunning core engine (fun x =>
      { x with asked := x.asked ++ [(s.nextNum, r.1)] })) s

/-- The copy after a chunk of m elements has gone to a destination. -/
def State.chunkDone (s : State) (x : Running) (m : Nat) (bytes : List Byte) : Running :=
  let dests := (hodDests x.rcd.desc (s.ownerScr x.rcd) (copyOffsets x.rcd.desc x.rcd.slices x.progress).1).length
  let y := { x with bytes := x.bytes + m * hodDSize x.rcd.desc, asked := [] }
  if x.dest + 1 < dests then { y with dest := x.dest + 1, vector := bytes }
  else { y with dest := 0, progress := x.progress + m, vector := [] }

/-- The writes of a core's engine to other devices that found no route, or came back (R269). -/
def State.lostSent (s : State) (core engine : Nat) : List HodSent :=
  s.hodSent.filter (fun e => e.core == core && e.engine == engine && e.lost)

/-- Those writes are sent again, each where it finds a route. -/
def State.resend (s : State) (core engine : Nat) : State :=
  (s.lostSent core engine).foldl (fun s e => s.sendHod e (e.op.span s.mem e.key)) s

/-- Where one of a copy still finds no route, the copy stops at a fault with reason UNREACH (R144, R175, R269). -/
def State.resendHod (s : State) (core : Nat) (x : Running) : State :=
  let t := s.resend core 5
  match t.lostSent core 5 with
  | [] => t.hodReplayed core
  | e :: _ => (t.hodReplayed core).hodFault core x e.addr accEngineWrite reasonUNREACH 0

/-- A chunk of a copy goes to its destination: it becomes visible, or is held on its way. -/
def State.putChunk (s : State) (core base : Nat) (l : List (Nat × HomeOp)) (hold : Bool) : State :=
  let h : HodChunk := { num := s.nextNum, core := core, engine := 5, base := base, parts := l }
  if hold then { s with chunks := s.chunks ++ [h], nextNum := s.nextNum + 1 } else s.landParts h

/-- The next chunk of m elements of a running copy, which stands at destination x.dest: its bytes are read, and go there
(R174). It waits for the writes to its ranges that the Hod sees. -/
def State.moveChunk (s : State) (core : Nat) (x : Running) (m base : Nat) (hold : Bool) : State :=
  let d := x.rcd.desc
  let again (s : State) (g : Running → Running) : State := (s.hodReplayed core).onRunning core 5 g
  let far := s.farReads x m
  if s.engineBars core x.rcd.owner (s.chunkReads x m) then s
  else
    match s.chunkBytes x m with
    | .fault addr acc reason level => (again s (fun x => { x with asked := [] })).hodFault core x addr acc reason level
    | .poison addr => again s (fun x => { x with done := true, status := 2, fcode := 2, faddr := addr })
    | .bytes bytes =>
      if x.asked.isEmpty && !far.isEmpty then s.askFar core 5 far
      else
        match s.hodChunkOf (s.recRoot x.rcd) d (s.ownerScr x.rcd) x.rcd.slices x.dest m x.progress bytes [] with
        | .fault addr acc reason level =>
          (again s (fun y => { y with vector := if x.dest = 0 then [] else bytes, asked := [] })).hodFault core x addr acc
            reason level
        | .poison _ => s
        | .writes l =>
          if s.engineBars core x.rcd.owner (chunkRuns l) then s
          else (again s (fun x => s.chunkDone x m bytes)).putChunk core base l hold

/-- The next chunk of a running copy goes to one of its destinations (R174): it becomes visible, or is held on its way. What
the copy has written to another device and not got rid of is sent first. -/
def State.stepChunk (s : State) (core : Nat) (hold : Bool) : State :=
  match Table.find (s.core core).running 5 with
  | none => s
  | some x =>
    let total := hodCount x.rcd.desc x.rcd.slices
    if x.parked || taskKind x.rcd.rcd != kindHOD then s
    else if !(s.lostSent core 5).isEmpty then (if hold then s else s.resendHod core x)
    else if x.done || x.progress ≥ total then s
    else
      match s.nextChunkSize x, destAt x.rcd.desc (s.ownerScr x.rcd) x.rcd.slices x.dest x.progress with
      | some m, some first => s.moveChunk core x m (first.block * 256) hold
      | _, _ => s.onRunning core 5 (fun x => { x with progress := total })

/-- HOD_CHUNK: the next chunk of the running copy becomes visible at one of its destinations (R174). (DESIGN CHOICE, log
entry 41.) -/
def execHodChunk (core : Nat) (s : State) : Out := .next (s.stepChunk core false)

/-- The next chunk of the running copy is written, and becomes visible later (R174). (DESIGN CHOICE, log entry 41.) -/
def State.holdChunk (s : State) (core : Nat) : State := s.stepChunk core true

/-- No chunk or row of an engine of a core is on its way. -/
def State.chunksLanded (s : State) (core engine : Nat) : Bool := s.chunks.all (fun h => h.core != core || h.engine != engine)

/-- Everything that an engine of a core has written is visible: no chunk or row is on its way, and other devices have
acknowledged theirs (R175, R182, R185, R238). -/
def State.settled (s : State) (core engine : Nat) : Bool :=
  s.chunksLanded core engine && s.hodSent.all (fun e => e.core != core || e.engine != engine)

/-- HOD_COPY_COMPLETE: a copy that has written everything, or has stopped, ends (R172, R175, R177). -/
def execHodCopyComplete (core : Nat) (s : State) : Out :=
  .next (match Table.find (s.core core).running 5 with
    | none => s
    | some x =>
      if taskKind x.rcd.rcd != kindHOD || x.parked || !(x.done || decide (x.progress ≥ hodCount x.rcd.desc x.rcd.slices)) ||
          !s.settled core 5 then s
      else
        let ok := x.status == 0
        let s := s.hodReplayed core
        let s := if ok then s.setRecTag x.rcd else s
        let s := if !ok || bitAt (fieldAt x.rcd.desc 0x18 2) 0 then s.reportRec core x.rcd x.status x.fcode x.bytes x.faddr
          else s
        s.endTask core 5 x.rcd [])

end Sys2Proof.Machine
end

