-- ==== Sys2Proof/Machine/Loom.lean ====
section
/-!
DEFINITION. Sys2Proof/Machine/Loom.lean: the Loom (R119, R179 to R182) and the Quarry (R184, R185) at work.
-/
namespace Sys2Proof.Machine

/-! ### Elements (R106, R107, R179) -/

/-- The value of an element code of a format (R178). -/
def elemValue (code x : Nat) : FVal :=
  match code with
  | 0 => bf16.decode x
  | 1 => e4m3.decode x
  | 2 => e5m2.decode x
  | 3 => e3m2.decode x
  | 4 => e2m1.decode x
  | 5 => .fin (decide (signedOf 8 x < 0)) (signedOf 8 x).natAbs 0
  | _ => .fin (decide (signedOf 4 x < 0)) (signedOf 4 x).natAbs 0

/-- Exact zero, as masked elements enter. -/
def zeroVal : FVal := .fin false 0 0

/-- Element i of a row in a format field: a packed string, or block records (R106, R179). -/
def rowElem (f : Nat) (row : List Byte) (i : Nat) : FVal :=
  let code := fmtCode f
  let w := fmtBits code
  if fmtBlk f then
    let r := (row.drop (i / 32 * blkBytes code)).take (blkBytes code)
    scaled (ks24 (leNat (r.take 3))) (elemValue code (leNat (r.drop 3) / 2 ^ (i % 32 * w) % 2 ^ w))
  else elemValue code (leNat row / 2 ^ (i * w) % 2 ^ w)

/-- The 128 elements of K that a row supplies, under a mask of bands (R179). -/
def rowVals (f kvalid bands : Nat) (row : List Byte) : List FVal :=
  (List.range 128).map (fun i => if i < kvalid && bitAt bands (i / 32) then rowElem f row i else zeroVal)

/-- One pass: the accumulator plus the exact sum of products, rounded once to FP32 (R119). -/
def loomPass (acc : Nat) (a w : List FVal) : Nat :=
  (fp32.finish FEnv.plain (.sum false (fp32.decode acc :: List.zipWith FVal.mul a w))).bits

/-! ### Accumulator rows (R129) -/

/-- The key of an accumulator row, and the 128 codes of a row. -/
def accRow (core row : Nat) : Nat := accKey core (512 * row)
def State.accCodes (s : State) (core row : Nat) : List Nat :=
  (List.range 128).map (fun n => s.memNat (accRow core row + 4 * n) 4)

/-- The columns of an accumulator row whose unit is poisoned. -/
def State.accPoison (s : State) (core row n : Nat) : Bool := s.poison.contains (poisonUnit (accRow core row + 4 * n))

/-- An accumulator row is written whole; bad columns poison their units. -/
def State.setAccRow (s : State) (core row : Nat) (codes : List Nat) (bad : Nat → Bool) : State :=
  let s := { s with mem := cellsWrite s.mem (accRow core row) (codes.flatMap (leBytes 4)),
                    poison := poisonAfter s.poison (accRow core row) 512 false }
  (List.range 16).foldl (fun s u =>
    if (List.range 8).any (fun i => bad (8 * u + i)) then
      { s with poison := poisonAfter s.poison (accRow core row + 32 * u) 32 true }
    else s) s

/-! ### The running task -/

/-- The running Loom task of a core, when it is one of an operation and has not ended. -/
def State.loomTask (s : State) (core op : Nat) : Option Running :=
  (Table.find (s.core core).running 4).filter (fun x => !x.done && taskKind x.rcd.rcd == kindLOOM && loomOp x.rcd.desc == op)

/-- A row's bytes, and the address of a poisoned unit among the bytes that a mask leaves. -/
def State.loomRow (s : State) (addr f kvalid bands : Nat) : List Byte × Option Nat :=
  match s.slabDecode addr with
  | none => ([], none)
  | some k =>
    (cellsRead s.mem k (elemsRange f 0 kvalid).2,
     (bandRanges f kvalid bands).findSome? (fun o =>
       (firstPoison s.poison (k + o.1) o.2).map (fun u => mod64 ((addr : Int) + u - k))))

/-- The task has read a poisoned unit, or written one: status MEMERR with its address (R155, R177). -/
def Running.memerr (x : Running) (addr : Option Nat) : Running :=
  match addr with
  | none => x
  | some a => if x.status = 0 then { x with status := 2, fcode := 2, faddr := a } else x

/-- The task has done one more row. -/
def Running.row (x : Running) : Running :=
  { x with progress := x.progress + 1, done := decide (x.progress + 1 ≥ loomRows x.rcd.desc) }

/-- The slab bytes of a row, as a Loom task reads them. -/
def State.loomKeys (s : State) (addr f kvalid : Nat) : List (Nat × Nat) :=
  ((s.slabDecode addr).map (fun k => (k, (elemsRange f 0 kvalid).2))).toList

/-- What a Loom or Quarry task is to read of other devices is asked for on its routes before it goes on; while one of them
is not reached the task waits (R182, R268): the state in which it does so, none once it has asked. (DESIGN CHOICE, log
entry 83.) (DESIGN CHOICE, log entry 116.) -/
def State.farFirst (s : State) (core engine : Nat) (x : Running) (l : List (Nat × Nat)) : Option State :=
  let far := (l.filter (fun p => isRemoteKey p.1)).map (fun p => (remoteAddr p.1, p))
  if far.isEmpty || !x.asked.isEmpty then none
  else if far.all (fun r => s.reaches (remoteDev r.2.1)) then some (s.askFar core engine far)
  else some s

/-- The slab bytes of a WLOAD's columns. -/
def State.tileKeys (s : State) (r : List Byte) : List (Nat × Nat) :=
  (List.range (loomNvalid r)).flatMap (fun n =>
    s.loomKeys ((fieldAt r 8 8 + n * fieldAt r 0x10 4) % 2 ^ 64) (loomFmt r) (loomKvalid r))

/-- LOOM_WLOAD: the tile is latched (R179). (DEDUCED, log entry 38.) -/
def execLoomWload (core : Nat) (s : State) : Out :=
  .next (match s.loomTask core 0 with
    | none => s
    | some x =>
      let r := x.rcd.desc
      if s.engineBars core x.rcd.owner (s.tileKeys r) then s else
      match s.farFirst core 4 x (s.tileKeys r) with
      | some t => t
      | none =>
      let rows := (List.range (loomNvalid r)).map (fun n =>
        s.loomRow ((fieldAt r 8 8 + n * fieldAt r 0x10 4) % 2 ^ 64) (loomFmt r) (loomKvalid r) (loomBands r))
      let bad := rows.findSome? Prod.snd
      let s := s.onCore core (fun c =>
        { c with tile := some { rcd := r, cols := rows.map Prod.fst, poisoned := bad } })
      s.onRunning core 4 (fun x => { x.memerr bad with done := true, asked := [] }))

/-- The columns of the latched tile. -/
def tileCol (t : Tile) (n : Nat) : List FVal :=
  match t.cols[n]? with
  | some col => rowVals (loomFmt t.rcd) (loomKvalid t.rcd) (loomBands t.rcd) col
  | none => List.replicate 128 zeroVal

/-- LOOM_MMUL: one row of the stream meets the tile (R119, R180). (DEDUCED, log entry 38.) -/
def execLoomMmul (core : Nat) (s : State) : Out :=
  .next (match s.loomTask core 1, (s.core core).tile with
    | some x, some t =>
      let r := x.rcd.desc
      let addr := mmulRow r x.progress
      if s.engineBars core x.rcd.owner (s.loomKeys addr (loomFmt r) (loomKvalid t.rcd)) then s else
      match s.farFirst core 4 x (s.loomKeys addr (loomFmt r) (loomKvalid t.rcd)) with
      | some t => t
      | none =>
      let got := s.loomRow addr (loomFmt r) (loomKvalid t.rcd) (loomBands t.rcd)
      let a := rowVals (loomFmt r) (loomKvalid t.rcd) (loomBands t.rcd) got.1
      let row := loomAccRow r + x.progress
      let anew := fieldAt r 0x1A 1 == 1
      let old := s.accCodes core row
      let codes := (List.range 128).map (fun n => loomPass (if anew then 0 else old.getD n 0) a (tileCol t n))
      let bad := got.2.or t.poisoned
      let s := s.setAccRow core row codes (fun n => bad.isSome || (!anew && s.accPoison core row n))
      s.onRunning core 4 (fun x => { (x.memerr bad).row with asked := [] })
    | _, _ => s)

/-- The code of a drained accumulator (R181). -/
def drainElem (r : List Byte) (acc : Nat) : Nat :=
  ((drainFmt r).finish (engineEnv (fieldAt r 3 1)) ((fp32.decode acc).mul (fp32.decode (fieldAt r 0x1C 4)))).bits

/-- The parts of a row of n elements at a key, those of poisoned accumulators or inputs poisoned (R155). -/
def rowParts (key size n : Nat) (bytes : List Byte) (bad : Nat → Bool) : List (Nat × HomeOp) :=
  (List.range n).map (fun i => (key + size * i, .put ((bytes.drop (size * i)).take size) (bad i)))

/-- A row of results at an address reaches its destination as one chunk, or is held on its way (R181, R185); in an object
that a launch holds its task is refused (R74). -/
def State.putRow (s : State) (core engine addr : Nat) (l : List (Nat × HomeOp)) (hold : Bool) : State :=
  let h : HodChunk := { num := s.nextNum, core := core, engine := engine, base := addr, parts := l }
  if hold then { s with chunks := s.chunks ++ [h], nextNum := s.nextNum + 1 } else s.landParts h

/-- A drained row goes to the streaming port, with the offsets of poisoned accumulators (R155, R181). -/
def Workgroup.streamRow (w : Workgroup) (size n : Nat) (bytes : List Byte) (bad : Nat → Bool) : Workgroup :=
  { w with
    stream := w.stream ++ bytes
    streamBad := w.streamBad ++ ((List.range n).filter bad).flatMap (fun i =>
      (List.range size).map (fun j => w.stream.length + size * i + j)) }

/-- One row of accumulators is scaled, rounded and written (R181). FADDR is the first poisoned accumulator's unit (R177).
(DEDUCED, log entry 39.) -/
def State.drainStep (s : State) (core : Nat) (hold : Bool) : State :=
  match s.loomTask core 2, (s.core core).tile with
  | some x, some t =>
    let r := x.rcd.desc
    let row := loomAccRow r + x.progress
    let n := loomNvalid t.rcd
    let size := drainSize r
    let codes := s.accCodes core row
    let bad (i : Nat) : Bool := s.accPoison core row i
    let firstBad := ((List.range n).find? bad).map (fun i => 512 * row + 4 * i / 32 * 32)
    let bytes := (List.range n).flatMap (fun i => leBytes size (drainElem r (codes.getD i 0)))
    let addr := drainRow r x.progress
    let place := if fieldAt r 0x20 8 = 0 then none else s.slabDecode addr
    if s.engineBars core x.rcd.owner (place.toList.map (fun k => (k, bytes.length))) then s
    else
      let s1 := if bitAt (fieldAt r 0x1A 1) 0 then s.setAccRow core row (List.replicate 128 0) (fun _ => false) else s
      let s2 := s1.onRunning core 4 (fun x => { (x.memerr firstBad).row with bytes := x.bytes + bytes.length })
      match place, x.rcd.owner with
      | some k, _ => s2.putRow core 4 addr (rowParts k size n bytes bad) hold
      | none, some w => s2.onWg w (fun w => w.streamRow size n bytes bad)
      | none, none => s2
  | _, _ => s

/-- LOOM_DRAIN: one row becomes visible (R181). (DESIGN CHOICE, log entry 41.) (DEDUCED, log entry 39.) -/
def execLoomDrain (core : Nat) (s : State) : Out := .next (s.drainStep core false)

/-- The next row of a DRAIN is written, and becomes visible later (R181). (DESIGN CHOICE, log entry 41.) -/
def State.holdRow (s : State) (core : Nat) : State := s.drainStep core true

/-- LOOM_ZERO: one row of accumulators takes +0 (R181). -/
def execLoomZero (core : Nat) (s : State) : Out :=
  .next (match s.loomTask core 3 with
    | none => s
    | some x =>
      (s.setAccRow core (loomAccRow x.rcd.desc + x.progress) (List.replicate 128 0) (fun _ => false)).onRunning core 4
        Running.row)

/-- LOOM_TASK_COMPLETE: the tag is set however the task ended, a ring takes its record, its tokens return (R26,
R182). -/
def execLoomTaskComplete (core : Nat) (s : State) : Out :=
  .next (match Table.find (s.core core).running 4 with
    | none => s
    | some x =>
      if !x.done then s
      else if !s.settled core 4 then s.resend core 4
      else ((s.setRecTag x.rcd).reportRec core x.rcd x.status x.fcode x.bytes x.faddr).endTask core 4 x.rcd [])

/-! ### The Quarry (R183 to R185) -/

/-- n bytes of the matrix from an offset on. -/
def State.matrixBytes (s : State) (l : List (Nat × Nat)) (off n : Nat) : List Byte :=
  match l with
  | [] => []
  | p :: ps =>
    if off ≥ p.2 then s.matrixBytes ps (off - p.2) n
    else
      let m := min n (p.2 - off)
      cellsRead s.mem (p.1 + off) m ++ (if m = n then [] else s.matrixBytes ps 0 (n - m))

/-- A poisoned unit among n bytes of the matrix from an offset on: where it begins, counted from MAT. -/
def State.matrixPoison (s : State) (at_ : Nat) (l : List (Nat × Nat)) (off n : Nat) : Option Int :=
  match l with
  | [] => none
  | p :: ps =>
    if off ≥ p.2 then s.matrixPoison (at_ + p.2) ps (off - p.2) n
    else
      let m := min n (p.2 - off)
      match firstPoison s.poison (p.1 + off) m with
      | some u => some ((at_ : Int) + u - p.1)
      | none => if m = n then none else s.matrixPoison (at_ + p.2) ps 0 (n - m)

/-- The vector's elements (R183): BF16 elements or block records. -/
def quarryVector (r : List Byte) (bytes : List Byte) : List FVal :=
  let f := match fieldAt r 0x21 1 with
    | 0 => 0
    | 1 => 128 + 1
    | _ => 128 + 2
  (List.range (quarryK r)).map (rowElem f bytes)

/-- Result element m: the exact sum of a row times the vector, rounded once (R119, R185); a row of -0 products alone
gives -0. (DESIGN CHOICE, log entry 88.) -/
def State.quarryElem (s : State) (q : QRec) (vec : List FVal) (m : Nat) : Nat :=
  let r := q.desc
  let row := s.matrixBytes q.slices (m * quarryRow r) (quarryRow r)
  (fp32.finish FEnv.plain
    (.sum false (List.zipWith FVal.mul ((List.range (quarryK r)).map (rowElem (128 + fieldAt r 0x20 1) row)) vec))).bits

/-- The chunks of 64 results of a task. -/
def quarryChunks (r : List Byte) : Nat := (quarryM r + 63) / 64

/-- One chunk of results becomes visible (R185). (DEDUCED, log entry 82.) -/
def State.quarryWrite (s : State) (core chunk : Nat) : State :=
  match Table.find (s.core core).running 6 with
  | none => s
  | some x =>
    let q := x.rcd
    let r := q.desc
    if taskKind q.rcd != kindQGEMV || chunk ≥ quarryChunks r || bitAt x.progress chunk || x.vector.isEmpty then s
    else
      match s.slabDecode (fieldAt r 0x10 8) with
      | none => s
      | some k =>
        let n := min 64 (quarryM r - 64 * chunk)
        let runs := [(k + 256 * chunk, 4 * n)]
        if s.engineBars core q.owner (q.slices ++ runs) then s else
        let vec := quarryVector r x.vector
        let poison (i : Nat) : Option Nat :=
          x.vecPoison.or ((s.matrixPoison 0 q.slices ((64 * chunk + i) * quarryRow r) (blkBytes (fieldAt r 0x20 1) * (quarryK r / 32))).map
            (fun o => mod64 ((fieldAt r 0 8 : Nat) + o)))
        let bytes := (List.range n).flatMap (fun i => leBytes 4 (s.quarryElem q vec (64 * chunk + i)))
        (s.onRunning core 6 (fun x =>
          { x.memerr ((List.range n).findSome? poison) with
            progress := x.progress + 2 ^ chunk, bytes := x.bytes + bytes.length })).putRow core 6
              (fieldAt r 0x10 8 + 256 * chunk) (rowParts (k + 256 * chunk) 4 n bytes (fun i => (poison i).isSome)) false

/-- The vector of a QGEMV task that has not read it at its start: it stands on another device (R185, R268). -/
def State.quarryFetch (s : State) (core : Nat) (x : Running) : State :=
  match s.quarryVecKeys x.rcd with
  | p :: _ =>
    if s.engineBars core x.rcd.owner [p] then s
    else (s.farFirst core 6 x [p]).getD (s.onRunning core 6 (s.vectorRead p.1))
  | [] => s

/-- QUARRY_TASK_COMPLETE: a vector of another device is read; the chunks that are left become visible, and the tag and the
record follow them (R185). -/
def execQuarryTaskComplete (core : Nat) (s : State) : Out :=
  .next (match Table.find (s.core core).running 6 with
    | none => s
    | some x =>
      if taskKind x.rcd.rcd != kindQGEMV then s
      else if x.vector.isEmpty then s.quarryFetch core x
      else
        let s := (List.range (quarryChunks x.rcd.desc)).foldl (fun s c => s.quarryWrite core c) s
        match Table.find (s.core core).running 6 with
        | none => s
        | some x =>
          if !(List.range (quarryChunks x.rcd.desc)).all (fun c => bitAt x.progress c) then s
          else if !s.settled core 6 then s.resend core 6
          else ((s.setRecTag x.rcd).reportRec core x.rcd x.status x.fcode x.bytes x.faddr).endTask core 6 x.rcd [])

end Sys2Proof.Machine
end

