-- ==== Sys2Proof/Machine/Owned.lean ====
section
/-!
DEFINITION. Sys2Proof/Machine/Owned.lean: owned buffers (R133 to R136): HGIVE and HTAKE (R392, R393).
-/
namespace Sys2Proof.Machine

/-! ### Handles (R133, R392) -/

/-- Handle statuses. -/
def hdlNOTHOLDER : Nat := 1
def hdlSTALE : Nat := 2
def hdlNOTGIVEN : Nat := 3
def hdlNOENTRY : Nat := 4
def hdlBADRANGE : Nat := 5
def hdlBADCORE : Nat := 6

/-- The fields of a handle: core, entry, sequence count. -/
def handleCore (h : Nat) : Nat := bitsAt h 31 24
def handleEntry (h : Nat) : Nat := bitsAt h 23 18
def handleSeq (h : Nat) : Nat := bitsAt h 17 0

/-- An entry of a slab controller; one never used is FREE with sequence count 0 (log entry 3). -/
def State.handle (s : State) (core entry : Nat) : Handle :=
  Table.get (s.core core).handles { state := 0, seq := 0, base := 0, len := 0, holder := 0, dst := 0 } entry

def State.setHandle (s : State) (core entry : Nat) (h : Handle) : State :=
  s.onCore core (fun c => { c with handles := Table.set c.handles entry h })

/-! ### What touches a buffer (R135) -/

/-- The slab ranges that a queued or running record reaches, as keys: those of its work, the words and the ring that it names,
and what its end reads (R162, R166). -/
def State.recRanges (s : State) (r : QRec) : List (Nat × Nat) :=
  let ofReach (l : List Reach) : List (Nat × Nat) := l.filterMap (fun x => (s.slabDecode x.addr).map (fun k => (k, x.len)))
  let word (a : Nat) : List (Nat × Nat) := if a = 0 then [] else ((s.slabDecode a).map (fun k => (k, 4))).toList
  let d := r.desc
  (match taskKind r.rcd with
    | 1 => let t := (r.slices.head?).getD (128, 128); ofReach (loomReach d t.1 t.2)
    | 2 =>
      (List.range (hodCount d r.slices)).flatMap (fun n =>
        let off := copyOffsets d r.slices n
        (hodDests d (s.ownerScr r) off.1).filterMap (fun x => match x with
          | .addr a => (s.slabDecode a).map (fun k => (k, hodDSize d))
          | .key k => some (k, hodDSize d)) ++
        (match off.2 with
          | some o => ((s.slabDecode (hodSource d o)).map (fun k => (k, hodESize d))).toList
          | none => []) ++
        (if hodInline d = 0 then [] else ((s.slabDecode (hodLocal d off.1)).map (fun k => (k, hodDSize d))).toList))
    | 3 => ofReach (quarryReach d)
    | 4 =>
      word (eosWord r.rcd) ++
        (match (if eosNext r.rcd = 0 then none else s.localSlab (eosNext r.rcd)), s.launch? r.launch with
          | some k, some l => s.eosReads l k
          | _, _ => [])
    | _ => []) ++
  word (taskSucc r.rcd) ++ word (taskWait r.rcd) ++ r.rings.map (fun q => (q.key, 32 + 32 * q.size))

/-- The records of a workgroup that have not completed: in queues, running, or still being assembled. -/
def State.recsOf (s : State) (wg : Nat) : List QRec :=
  (s.cores.flatMap (fun e => e.2.queues.flatMap Prod.snd ++ e.2.coming ++ e.2.running.map (fun x => x.2.rcd)) |>.filter
    (fun r => r.owner == some wg)) ++
  (match s.wg? wg with
    | some w => w.copies.map (copyRec w)
    | none => [])

/-- A store in a fork buffer of a workgroup's threads, which its commit performs, touches a range (R206, R209). -/
def State.bufferedOver (s : State) (wg key n : Nat) : Bool :=
  s.forks.any (fun f => f.wg == wg && f.buffer.any (fun b => overlaps b.key b.bytes.length key n))

/-- An access or engine task of a workgroup touches a slab range (R135); a LAUNCH reads the 512 bytes of its record, an
ASWAIT its object after every write (R360). -/
def State.touchedBy (s : State) (wg key n : Nat) : Bool :=
  s.stores.any (fun p => overlaps p.key p.op.size key n && (match p.src with
    | some id => id.wg == wg
    | none => true)) ||
  s.ctxs.any (fun c => c.id.wg == wg && c.inflight.any (fun f => match f.what with
    | .access a _ => overlaps a.key a.size key n
    | .launch addr _ _ => (s.slabDecode addr.toNat).any (fun k => overlaps k 512 key n)
    | .aswait obj _ => overlaps obj 64 key n
    | _ => false)) ||
  s.bufferedOver wg key n || (s.recsOf wg).any (fun r => (s.recRanges r).any (fun x => overlaps x.1 x.2 key n))

/-! ### HGIVE (R392) -/

/-- The status of an HGIVE: BADCORE, STALE, NOTHOLDER in that order. -/
def State.hgiveStatus (s : State) (wg : Nat) (h dst : Nat) : Nat :=
  let e := s.handle (handleCore h) (handleEntry h)
  if handleCore h ≥ Config.cores ∨ (dst ≠ 0xFF ∧ dst ≥ Config.cores) then hdlBADCORE
  else if e.seq ≠ handleSeq h then hdlSTALE
  else if e.state ≠ 1 ∨ e.holder ≠ wg then hdlNOTHOLDER
  else 0

/-- The operands of HGIVE and HTAKE: v(a)[31:0] and v(a+1). -/
def hdlArg (f : LX) (r : Regs) : Nat := (r.get f.a).toNat % 2 ^ 32
def hdlArg2 (f : LX) (r : Regs) : Nat := (r.getN (f.a.toNat + 1)).toNat

/-- What HGIVE does for a thread. -/
def hgiveDo (s : State) (f : LX) : LaneDo :=
  { LaneDo.regs (fun c => c.regs.put f.d (BitVec.ofNat 64 (s.hgiveStatus c.id.wg (hdlArg f c.regs) (hdlArg2 f c.regs % 256)))) with
    fault := fun c => s.sampledFault c 0,
    flight := fun c =>
      let h := hdlArg f c.regs
      let dst := hdlArg2 f c.regs % 256
      some (if s.hgiveStatus c.id.wg h dst = 0 then .hgive (handleCore h) (handleEntry h) (handleSeq h) dst else .result) }

/-- A waiting HGIVE completes once nothing of the holder touches the buffer; another thread may have given it first, or
freed it, so that its handle names another buffer by now. -/
def State.tryHgive (s : State) (id : CtxId) (num : Nat) : State :=
  match s.flight? id num with
  | none => s
  | some f =>
    match f.what with
    | .hgive core entry seq dst =>
      let e := s.handle core entry
      if !s.resident id.wg then s
      else if e.seq ≠ seq ∨ e.state ≠ 1 ∨ e.holder ≠ id.wg then s.landWith id num (BitVec.ofNat 64 hdlNOTHOLDER)
      else if s.touchedBy id.wg (slabKey core e.base) e.len then s
      else
        let e' : Handle :=
          if dst = 0xFF then { e with state := 0, seq := (e.seq + 1) % 2 ^ 18 } else { e with state := 2, dst := dst }
        (s.setHandle core entry e').landWith id num 0
    | _ => s

/-- HGIVE. -/
def execHgive (f : LX) (s : State) : Out :=
  let act := (acting s (.hgive f) (hgiveDo s f)).map Ctx.id
  .next ((lane (.hgive f) (hgiveDo s f) s).tryAll s.cur.defer act s.nextNum State.tryHgive)

/-- HGIVE_COMPLETE. -/
def execHgiveComplete (id : CtxId) (num : Nat) (s : State) : Out := .next (s.tryHgive id num)

/-! ### HTAKE (R393) -/

/-- A range that HTAKE may not make an owned buffer of. -/
def State.htakeRangeBad (s : State) (l : Launch) (core x : Nat) : Bool :=
  let off := bitsAt x 22 0
  let len := bitsAt x 55 32
  off % 256 != 0 || len % 256 != 0 || len == 0 || decide (off + len > Config.systemArea) ||
    !(l.grants.any (fun g => g.rd && g.wr && inside (slabKey core off) len g.base g.len)) ||
    (s.ownedAt (slabKey core off) len).isSome || bitsAt x 31 23 != 0 || bitsAt x 63 56 != 0

/-- HTAKE for one thread: its result, and the handle entry that it changes. (DEDUCED, log entry 47.) -/
def State.htake (s : State) (wg h x : Nat) : Word × Option (Nat × Nat × Handle) :=
  let bad (n : Nat) : Word × Option (Nat × Nat × Handle) := (BitVec.ofNat 64 n, none)
  let core := handleCore h
  match s.wg? wg, s.launchOf? wg with
  | some w, some l =>
    if core ≥ Config.cores then bad hdlBADCORE
    else if x = 0 then
      let e := s.handle core (handleEntry h)
      if e.seq ≠ handleSeq h then bad hdlSTALE
      else if e.state ≠ 2 ∨ e.dst ≠ w.core then bad hdlNOTGIVEN
      else (0, some (core, handleEntry h, { e with state := 1, holder := wg }))
    else if s.htakeRangeBad l core x then bad hdlBADRANGE
    else
      match (List.range 64).find? (fun n => (s.handle core n).state == 0) with
      | none => bad hdlNOENTRY
      | some n =>
        let e := s.handle core n
        (BitVec.ofNat 64 ((core * 2 ^ 24 + n * 2 ^ 18 + e.seq) * 2 ^ 32),
         some (core, n, { e with state := 1, base := bitsAt x 22 0, len := bitsAt x 55 32, holder := wg }))
  | _, _ => bad hdlBADCORE

/-- The threads of a course take one after another; a taker's core keeps no L1 line from before (R135, R393). (DEDUCED, log
entry 47.) -/
def htakeThread (f : LX) (s : State) (c : Ctx) : State :=
  let r := s.htake c.id.wg (hdlArg f c.regs) (hdlArg2 f c.regs)
  let s := match r.2 with
    | some (core, n, h) => (s.setHandle core n h).flushL1 (s.coreOf c)
    | none => s
  s.onCtx c.id (fun k => { k with regs := k.regs.put f.d r.1 })

/-- HTAKE. -/
def execHtake (f : LX) (s : State) : Out :=
  let d : LaneDo := { LaneDo.regs Ctx.regs with flight := fun _ => some .result }
  .next ((acting s (.htake f) d).foldl (htakeThread f) (lane (.htake f) d s))

/-- The buffers that a workgroup holds pass to GIVEN, addressed to its own core, at its retirement (R136). -/
def State.dropHandles (s : State) (wg core : Nat) : State :=
  let pass (e : Nat × Handle) : Nat × Handle :=
    if e.2.state = 1 ∧ e.2.holder = wg then (e.1, { e.2 with state := 2, dst := core }) else e
  { s with cores := s.cores.map (fun e => (e.1, { e.2 with handles := e.2.handles.map pass })) }

end Sys2Proof.Machine
end

