-- ==== Sys2Proof/Machine/Retire.lean ====
section
/-!
DEFINITION. Sys2Proof/Machine/Retire.lean: EXIT (R375, R376) and the retirement of workgroups (R57, R77, R87, R136,
R159, R191, R194).
-/
namespace Sys2Proof.Machine

/-! ### What retirement takes along -/

/-- The unfinished grids that the threads of a workgroup launched (R57). -/
def State.childrenOf (s : State) (wg : Nat) : List Launch :=
  s.launches.filter (fun l => l.parentWg == some wg && l.phase != .finished)

/-- The retirement records in use: one for each retired workgroup with unfinished children (R57). -/
def State.retirementsUsed (s : State) : Nat :=
  (s.wgs.filter (fun w => w.place == .retired && !(s.childrenOf w.num).isEmpty)).length

/-- The records of a workgroup that wait in queues lose their owner (R159); what was released to the workgroup and its
tasks stays ordered before them, and before those that its counters fire later (R229, R236). -/
def State.loseOwner (s : State) (wg : Nat) : State :=
  let shown := (s.stores.filter (fun p => p.vis.contains (.wg wg))).map PendingWrite.num
  let later (r : QRec) : QRec := { r with after := r.after ++ shown }
  let lose (r : QRec) : QRec := if r.owner = some wg then { later r with owner := none } else r
  let keep (k : Keystone) : Keystone := if k.armed ∧ k.owner = some wg then { k with rcd := k.rcd.map later } else k
  { s with
    cores := s.cores.map (fun e =>
      (e.1, { e.2 with queues := e.2.queues.map (fun q => (q.1, q.2.map lose)), coming := e.2.coming.map lose }))
    keystones := s.keystones.map (fun e => (e.1, keep e.2)) }

/-- The SETTAG and BARRIER counters of a workgroup are freed (R191). -/
def State.freeCounters (s : State) (wg : Nat) : State :=
  let free (k : Keystone) : Keystone :=
    if k.armed ∧ k.kind ≤ 1 ∧ k.owner = some wg then { k with armed := false, pending := false, fired := false } else k
  { s with keystones := s.keystones.map (fun e => (e.1, free e.2)) }

/-- The chunk that a workgroup contributes to its launch's collective (R194). A map entry that cannot be read, or that
names no chunk, contributes none, and the clerk counts it; rows that the workgroup has streamed go with it. (DESIGN
CHOICE, log entry 129.) -/
def State.chunkOf (s : State) (l : Launch) (w : Workgroup) : Option CollChunk :=
  let d : Desk := { launch := l, wg := none, viewer := none, core := w.core }
  match s.deskRead d (l.chunkMap + 16 * w.lin) 16 1 with
  | .got e =>
    (match s.localSlab (fieldAt e 0 8) with
      | some k =>
        if fieldAt e 12 4 = 0 ∧ slabRangeFree k l.chunkBytes then
          some { hop := none, tier := w.core / 96, launch := l.num, wg := w.num, src := k,
                 msg := { comm := l.communicator, rank := 0, num := fieldAt e 8 4, op := l.collOp, size := l.chunkBytes,
                          bytes := [], bad := [] } }
        else none
      | none => none)
  | _ => none

/-- The collective engine of a workgroup's tier is given its chunk. -/
def State.contribute (s : State) (l : Launch) (w : Workgroup) : State :=
  if l.communicator = 0xFF ∨ l.status ≠ 0 then s
  else
    match s.chunkOf l w with
    | some c =>
      let s1 := s.fetchFar (s.ptRoot l.queue) (l.chunkMap + 16 * w.lin) 16
      { s1 with collOut := s.collOut ++ [c] }.onLaunch l.num (fun l => { l with chunks := l.chunks + 1 })
    | none => s.clerkCount clerkChunk

/-- A launch after one of its workgroups has retired (R57, R77, R87, R89). A workgroup whose threads a stop has ended
leaves its core without having retired (R60). (DEDUCED, log entry 60.) -/
def Launch.retire (l : Launch) (x : Sample) : Launch :=
  let l' := if l.status = 0 then { l with retired := l.retired + 1 } else l
  if !l.hasSlots then l'
  else if l.status ≠ 0 ∨ (l.cut ∧ l.stop.isSome) then { l' with discarded := l.discarded + 1 }
  else { l' with samples := l.samples ++ [x] }

/-- An image is freed (R255). -/
def State.freeImage (s : State) (addr : Nat) : State := s.homeStore (hbmBase + addr) [0, 0] false

/-- A retirement lets the earliest workgroup in dispatch order that waits for one return (R62). (DESIGN CHOICE, log
entry 75.) -/
def State.letReturn (s : State) (launch : Nat) : State :=
  match firstBy (fun a b => decide (a.visit < b.visit)) (s.wgs.filter (fun w => w.launch == launch && w.ousted &&
      w.place != .retired && w.place != .resident)) with
  | some w => s.onWg w.num (fun w => { w with ousted := false, called := true })
  | none => s

/-- A workgroup retires (R57). -/
def State.retireWg (s : State) (n : Nat) : State :=
  match s.wg? n, s.launchOf? n with
  | some w, some l =>
    let s := s.loseOwner n
    let s := (s.freeCounters n).dropHandles n w.core
    let s := s.contribute l w
    let s := match w.place with
      | .saved a => s.freeImage a
      | _ => s
    let s := s.onLaunch l.num (fun l => l.retire (w.sampleAt s.dcycle))
    let s := s.onWg n (fun w => { w with place := .retired, leftAt := s.dcycle, seats := s.seatsOf n, ordered := false, leaving := false, ousted := false, called := false, savedRecs := [], paused := none })
    { s with ctxs := s.ctxs.filter (fun c => c.id.wg != n), teams := s.teams.filter (fun t => t.wg != n) }.letReturn l.num
  | _, _ => s

/-- A workgroup whose threads have all exited retires where it may: with unfinished children it needs a retirement record
(R57), and its complete copies and its held firings must have found room in their queues (R159, R172, R247). (DEDUCED, log entry 60.) -/
def State.tryRetire (s : State) (n : Nat) : State :=
  match s.wg? n with
  | some w =>
    if w.place == .retired || !(s.liveOfWg n).isEmpty then s
    else
      let s := (s.startCopies n).drainHeld n
      if ((s.wg? n).map (fun w => w.copies.isEmpty && w.heldFirings.isEmpty)).getD true &&
          ((s.childrenOf n).isEmpty || decide (s.retirementsUsed < Config.retirementRecords)) then s.retireWg n
      else s
  | none => s

/-! ### EXIT -/

/-- What an exit completes at once for its team and workgroup (R376). -/
def State.afterExit (s : State) (wg team : Nat) : State :=
  let core := ((s.wg? wg).map Workgroup.core).getD 0
  let s := s.releaseTeam wg team
  let s := (List.range (s.barriersOf wg)).foldl (fun s n => s.tryPhase wg n) s
  let s := s.startCopies wg
  let s := (List.range 4).foldl (fun s q => s.tryTeamTask core q) s
  s.tryRetire wg

/-- EXIT (R375, R376). -/
def execExit (f : LX) (s : State) : Out :=
  let d := LaneDo.regs Ctx.regs
  let act := (acting s (.exit f) d).map Ctx.id
  let s1 := act.foldl (fun s id => s.exitThread { id with lvl := 0 }) (lane (.exit f) d s)
  .next ((courseTeams act).foldl (fun s w => s.afterExit w.1 w.2) s1)

end Sys2Proof.Machine
end

