-- ==== Sys2Proof/Machine/Grids.lean ====
section
/-!
DEFINITION. Sys2Proof/Machine/Grids.lean: launch records and their checks (R28, R43, R45, R48, R51 to R54, R60, R73,
R92, R271), completion records (R58, R60), LAUNCH and CWAIT (R55, R56, R373, R402, R403), doorbells and packets (R63
to R65, R263 to R265).
-/
namespace Sys2Proof.Machine

/-! ### Launch records -/

/-- A launch made of a record, before its bucket is chosen and its header is read. Its first workgroup is offered to core 0
first. (DESIGN CHOICE, log entry 90.) -/
def Launch.ofRecord (num : Nat) (addr : Word) (rcd : List Byte) (queue depth : Nat) (parent parentWg : Option Nat)
    (grants : List Grant) (after : List Nat) : Launch :=
  { num := num, recAddr := addr, rcd := rcd, hdr := [], entry := BitVec.ofNat 64 (fieldAt rcd 0x000 8), bucket := 8,
    dimx := fieldAt rcd 0x008 4, dimy := fieldAt rcd 0x00C 4, queue := queue, depth := depth, parent := parent,
    parentWg := parentWg, grants := grants, phase := .waiting, status := 0, counter := 0, sent := 0, retired := 0,
    committed := 0, discarded := 0, samples := [], lastCommit := 0, nanSlots := [], stop := none, startCycle := 0,
    energy := 0, pinned := [], stall := 0, lastCore := Config.cores - 1, chunks := 0, bkptHalt := false,
    finalised := false, after := after, tests := [], words := [] }

/-- The first bucket of R53 that matches the shape. -/
def Launch.bucketOf (l : Launch) : Option Nat :=
  (List.range l.nbuckets).find? (fun i =>
    (List.range 4).all (fun j => l.bucketHi i j == 0xFFFF || decide (l.shape j ≤ l.bucketHi i j)))

/-- The launch under the bucket that it takes (R53, R54). -/
def Launch.bucketed (l : Launch) : Launch :=
  match l.bucketOf with
  | none => l
  | some i =>
    { l with bucket := i, entry := l.entry + sextNat 32 (l.bucketEntry i),
             dimx := if l.bucketPdx i = 0 then l.dimx else l.bucketPdx i,
             dimy := if l.bucketPdy i = 0 then l.dimy else l.bucketPdy i }

/-- The record breaks R28 or R43 by itself. (DEDUCED, log entry 49.) -/
def Launch.recordBad (l : Launch) : Bool :=
  l.code % 4 != 0 || decide (l.total > 2 ^ 32) || l.dimx == 0 || l.dimy == 0 || l.dimz == 0 || l.teams == 0 || decide (l.teams > 16) ||
    decide (l.field 0x015 1 > 1) || decide (l.field 0x016 1 > 1) || decide (l.field 0x017 1 > 1) ||
    decide (l.field 0x020 2 ≥ 8) || decide (l.stopslot > 7) || decide (l.consume > 2) || decide (l.nbuckets > 8) ||
    nonzero l.rcd 0x02D 3 || l.winstride % 64 != 0 || l.complete % 32 != 0 || decide (l.collOp > 4) ||
    nonzero l.rcd 0x132 2 || (l.communicator != 0xFF && l.chunkBytes % 256 != 0) || nonzero l.rcd 0x1F0 16

/-- The objects that the record names break R73, as a reader sees them. -/
def State.objectsBad (s : State) (v : Option Viewer) (l : Launch) : Bool :=
  let addrs := (((List.range 8).map l.assay) ++ [l.producer]).filter (fun a => a != 0)
  let keys := addrs.filterMap s.localSlab
  let bad (k : Nat) : Bool :=
    let r := s.peek v k 128
    k % 128 != 0 || decide (fieldAt r 0x28 1 > 4) || nonzero r 0x2A 2 || nonzero r 0x60 32
  keys.length != addrs.length || keys.any bad || keys.eraseDups.length != keys.length

/-- The header breaks R45 or R48. -/
def Launch.headerBad (l : Launch) : Bool :=
  l.hfield 0 2 != 1 || l.regs % 8 != 0 || l.regs == 0 || decide (l.regs > 64) || bitsAt (l.hfield 0x03 1) 6 3 != 0 ||
    l.scratch % 256 != 0 || decide (l.tags > 64) || decide (l.barriers > 16) || decide (l.guards > 64) ||
    nonzero l.hdr 0x0B 1 || l.stack % 16 != 0 || nonzero l.hdr 0x28 24 ||
    (List.range 16).any (fun i => decide (i ≥ l.barriers) && l.karr i != 0)

/-! ### What a core admits (R46, R49, R50) -/

/-- The class weight of a launch's workgroups (R49). -/
def Launch.weight (l : Launch) : Nat := [1, 2, 3, 4, 6, 8, 12, 16].getD l.energyClass 16

/-- The workgroups of a launch that an empty core admits (R46, R49, R50). -/
def Launch.fitsEmpty (l : Launch) (budget : Nat) : Nat :=
  let size := l.scratchBytes
  if size > 6 * 2 ^ 20 then 0
  else
    let per (have_ need : Nat) : Nat := if need = 0 then 64 else have_ / need
    let scratch := if size = 0 then 64 else (Config.systemArea - size) / ((size + 1023) / 1024 * 1024) + 1
    [per 64 l.teams, scratch, per 64 l.barriers, per 64 l.tags, per 64 l.guards,
     if l.legacy then 64 else budget / l.weight].foldl min 64

/-- The launch can never be placed (R51, R52). -/
def State.nofit (s : State) (l : Launch) : Bool :=
  let caps := (List.range Config.cores).map (fun k => l.fitsEmpty (s.core k).budget)
  caps.all (fun n => n == 0) ||
    (l.coresident && (decide (caps.sum < l.total) || (l.maxres != 0 && decide (l.maxres < l.total)) ||
      (l.hasSlots && decide (l.total > Config.window))))

/-! ### The checks before placement, in the order of R60 -/

/-- The kernel header of a launch, where it can be read (R45). -/
def State.readHeader (s : State) (v : Option Viewer) (l : Launch) : Option (List Byte) :=
  let d : Desk := { launch := l, wg := none, viewer := v, core := 0 }
  match s.deskRead d (l.entry - 64).toNat 64 1 with
  | .got bytes => some bytes
  | _ => none

/-- What the checks make of a record: the status, and the launch with its bucket and header. (DEDUCED, log entry 49.)
-/
def State.checkLaunch (s : State) (v : Option Viewer) (l0 : Launch) : Nat × Launch :=
  if l0.recordBad ∨ s.objectsBad v l0 then (statusBADLAUNCH, l0)
  else
    let l := l0.bucketed
    if l.total > 2 ^ 32 ∨ l.entry.toNat % 4 ≠ 0 then (statusBADLAUNCH, l)
    else
      match s.readHeader v l with
      | none => (statusBADLAUNCH, l)
      | some h =>
        let l := { l with hdr := h }
        if l.headerBad then (statusBADLAUNCH, l)
        else if l.communicator ≠ 0xFF ∧ (Table.find s.comms l.communicator).isNone then (statusBADLAUNCH, l)
        else if l.sampled ∧ l.effects then (statusREJECT_EFFECTS, l)
        else if s.nofit l then (statusNOFIT, l)
        else (statusOK, l)

/-! ### Completion records (R58, R60) -/

/-- The key at which a launch may write 32 bytes (R60). (DEDUCED, log entry 91.) -/
def State.mayComplete (s : State) (l : Launch) (addr : Nat) : Option Nat :=
  if addr % 32 ≠ 0 then none
  else
    match s.slabDecode addr with
    | some k =>
      if slabRangeFree k 32 && l.granted k 32 accStore && !s.touchesHeld k 32 && !s.handleBars none k 32 &&
          (!isRemoteKey k || s.reaches (bitsAt addr 43 32)) then some k
      else none
    | none =>
      if isTranslated addr then
        match s.translate (s.ptRoot l.queue) addr accStore with
        | .key k => some k
        | _ => none
      else none

/-- A launch completion record. -/
def completionRecord (status depth sent retired cycles : Nat) : List Byte :=
  leBytes 4 status ++ leBytes 1 depth ++ leBytes 3 0 ++ leBytes 8 sent ++ leBytes 8 retired ++ leBytes 8 cycles

/-- A completion record is written, which is a release event (R237), or counted by the clerk where the launch may not write
it. (DEDUCED, log entry 91.) -/
def State.writeCompletion (s : State) (l : Launch) (rcd : List Byte) : State :=
  if l.complete = 0 then s
  else
    match s.mayComplete l l.complete with
    | some k => (({ s.spanOut k s.nextNum (.store rcd) with nextNum := s.nextNum + 1 } : State).homeStore k rcd false).markEvent k 32
    | none => s.clerkCount clerkRecord

/-- A launch that is refused before placement writes its completion record (R60). -/
def State.refuseLaunch (s : State) (l : Launch) (status : Nat) : State :=
  s.writeCompletion l (completionRecord status l.depth 0 0 0)

/-- A launch that passes its checks enters the dispatcher, which tests its PRODUCER as it does (R95). (DESIGN CHOICE, log
entry 4.) -/
def State.acceptLaunch (s : State) (l : Launch) : State :=
  { s with
    launches := s.launches ++ [{ l with tests := if l.producer = 0 then [] else [(s.dcycle, s.producerReady l)] }]
    nextLaunch := s.nextLaunch + 1 }

/-! ### LAUNCH (R402) -/

/-- The record that a thread's LAUNCH at an address names, read as of a number. -/
def State.launchRead (s : State) (c : Ctx) (addr : Word) (upto : Nat) : TeamRead :=
  match s.home? c with
  | none => .trap causeSLAB 0
  | some (l, w) =>
    s.deskRead { launch := l, wg := some w, viewer := some (s.viewer c upto), core := s.coreOf c } addr.toNat 512 64

/-- A refusal as LAUNCH returns it. -/
def launchRefusal (status : Nat) : Word := BitVec.ofNat 64 (2 ^ 63 + status)

/-- A thread's LAUNCH names a record that is not aligned. -/
def launchAskew (f : LX) (c : Ctx) : Bool := (c.regs.get f.a).toNat % 64 != 0

/-- What LAUNCH does for a thread: a misaligned record is refused at once; else the record is yet to be copied (R56). -/
def launchDo (s : State) (f : LX) : LaneDo :=
  { LaneDo.regs (fun c => if launchAskew f c then c.regs.put f.d (launchRefusal statusBADLAUNCH) else c.regs) with
    fault := fun c =>
      match s.sampledFault c (c.regs.get f.a) with
      | some e => some e
      | none =>
        if launchAskew f c then none
        else match s.launchRead c (c.regs.get f.a) s.nextNum with
          | .trap cause addr => some (cause, addr)
          | _ => none
    flight := fun c => some (
      if launchAskew f c then .result
      else .launch (c.regs.get f.a) (match s.launchRead c (c.regs.get f.a) s.nextNum with
        | .park _ _ _ => true
        | _ => false) s.dcycle) }

/-- The kernel header of a launch that has been read in another device's memory was asked for on its route (R268). -/
def State.fetchHeader (s : State) (l : Launch) : State :=
  if l.hdr.isEmpty then s else s.fetchFar (s.ptRoot l.queue) (l.entry - 64).toNat 64

/-- The dispatcher launches the grid of a record that it has copied for a thread: what v(d) takes, and the state after it. The
child is released the thread's own earlier writes (R56, R446). (DESIGN CHOICE, log entry 4.) -/
def State.launchChild (s : State) (c : Ctx) (p : Launch) (addr : Word) (rcd : List Byte) (upto : Nat) : Word × State :=
  let l := Launch.ofRecord s.nextLaunch addr rcd p.queue (p.depth + 1) (some p.num) (some c.id.wg) p.grants
    (s.ownWrites c upto)
  if p.depth ≥ 10 then (launchRefusal statusDEPTH, s.refuseLaunch l statusDEPTH)
  else
    let r := s.checkLaunch (some (s.viewer c upto)) l
    let s := s.fetchHeader r.2
    if r.1 = 0 then (BitVec.ofNat 64 r.2.num, s.acceptLaunch r.2) else (launchRefusal r.1, s.refuseLaunch r.2 r.1)

/-- The record of a LAUNCH shares bytes with an earlier access of its thread that is outstanding (R221). -/
def State.launchWaits (s : State) (c : Ctx) (num : Nat) (addr : Word) : Bool :=
  (s.enginePieces (s.codeRoot c) addr.toNat 512 accNone).ranges.any (fun r => c.olderOver num r.1 r.2)

/-- A LAUNCH goes on: at an edge of its clock after the issue the dispatcher copies the record, and makes the child or
refuses it (R56, R402); at the next edge of its own clock the core sees the answer, and the instruction completes (R24). A
read that fails traps, and a translation fault parks the instruction. (DEDUCED, log entry 96.) -/
def State.tryLaunch (s : State) (id : CtxId) (num : Nat) : State :=
  match s.ctx? id with
  | none => s
  | some c =>
    match c.flight? num, s.launchOf? id.wg with
    | some f, some p =>
      match f.what with
      | .launched x cyc => if (s.core (s.coreOf c)).cyc = cyc then s else s.landWith id num x
      | .launch addr false at_ =>
        if !s.resident id.wg || decide (s.dcycle ≤ at_) || p.status != 0 || s.launchWaits c num addr then s
        else
          match s.launchRead c addr num with
          | .trap cause a => ((s.failFlight id num cause a).replayDone (s.coreOf c) id num).settle id
          | .park a reason level =>
            ((s.setKind id num (.launch addr true at_)).postFaults (s.coreOf c)
              [{ addr := a, pc := f.pc, mask := 1#32 <<< c.lane, reason := reason, agent := 0,
                 teamSlot := s.teamSlot id.wg c.team, access := accLoad, level := level, launch := p.num,
                 who := [(id, num)], hod := false, resolved := false }]).replayDone (s.coreOf c) id num
          | .got rcd =>
            let core := s.coreOf c
            let r := s.launchChild c p addr rcd num
            let t := (r.2.noteLeaf c addr).threadFetched c num addr.toNat 512
            (t.replayDone core id num).setKind id num (.launched r.1 (s.core core).cyc)
      | _ => s
    | _, _ => s

/-- The request of a thread whose LAUNCH meets a translation fault (R143, R402). -/
def State.launchFault (s : State) (f : LX) (c : Ctx) : Option FaultReq :=
  if launchAskew f c then none
  else
    match s.launchRead c (c.regs.get f.a) s.nextNum with
    | .park addr reason level => s.laneFaultReq c s.nextNum accLoad (addr, .fault reason level)
    | _ => none

/-- LAUNCH (R402): its record is left to the dispatcher. -/
def execLaunch (f : LX) (s : State) : Out :=
  let act := acting s (.launch f) (launchDo s f)
  let s1 := lane (.launch f) (launchDo s f) s
  .next (s1.postFaults s.cur.core (groupFaults (act.filterMap (s.launchFault f)) []))

/-- LONG_LATENCY_COMPLETE: a result arrives at its destination, a LAUNCH, a REL or a fence completes (R38, R56, R226,
R385). -/
def execLongLatencyComplete (id : CtxId) (num : Nat) (s : State) : Out :=
  .next (match s.flight? id num with
    | some f => (match f.what with
      | .result => s.landPlain id num
      | .launch _ _ _ => s.tryLaunch id num
      | .launched _ _ => s.tryLaunch id num
      | .rel n => if s.stores.any (fun p => p.num == n) then s else s.landPlain id num
      | .fence _ _ _ _ => s.tryFence id num
      | .hv _ _ => s.tryFence id num
      | _ => s)
    | none => s)

/-! ### CWAIT (R373, R374) -/

/-- The grid that a handle names: one launched by a thread of the issuing grid. -/
def State.childOf (s : State) (c : Ctx) (h : Word) : Option Launch :=
  match s.launchOf? c.id.wg with
  | some p => s.launches.find? (fun l => l.num == h.toNat && l.parent == some p.num)
  | none => none

/-- What CWAIT does for a thread. -/
def cwaitDo (s : State) (f : LX) : LaneDo :=
  { LaneDo.regs (fun c =>
      let h := c.regs.get f.a
      if h.getLsbD 63 then c.regs.put f.d (BitVec.ofNat 64 (h.toNat % 256))
      else if (s.childOf c h).isSome then c.regs
      else { c.regs.put f.d (BitVec.allOnes 64) with warn := c.regs.warn ||| warnFIELDRES }) with
    flight := fun c =>
      let h := c.regs.get f.a
      some (if !h.getLsbD 63 && (s.childOf c h).isSome then .cwait h.toNat else .result) }

/-- A waiting CWAIT completes once its grid has finished, whose completion it acquires (R373), and which its core sees at
the next edge of its clock (R24). (DEDUCED, log entry 96.) -/
def State.tryCwait (s : State) (id : CtxId) (num : Nat) : State :=
  match s.ctx? id with
  | none => s
  | some c =>
    match c.flight? num with
    | none => s
    | some f =>
      match f.what with
      | .cwait n =>
        (match s.launch? n with
          | some l =>
            if l.phase = .finished && s.resident id.wg && !(s.core (s.coreOf c)).newEnds.contains n then
              (s.flushL1 (s.coreOf c)).landWith id num (BitVec.ofNat 64 l.status)
            else s
          | none => s)
      | _ => s

/-- CWAIT. -/
def execCwait (f : LX) (s : State) : Out :=
  let act := (acting s (.cwait f) (cwaitDo s f)).map Ctx.id
  .next ((lane (.cwait f) (cwaitDo s f) s).tryAll s.cur.defer act s.nextNum State.tryCwait)

/-- CWAIT_COMPLETE. -/
def execCwaitComplete (id : CtxId) (num : Nat) (s : State) : Out := .next (s.tryCwait id num)

/-! ### Doorbells and packets -/

/-- Error codes of a queue (R263). -/
def qerrOVERFLOW : Nat := 1
def qerrBACK : Nat := 2
def qerrBADPACKET : Nat := 3
def qerrSAVEFULL : Nat := 4

/-- A queue's RINGN: that of its registered descriptor, which its slot's copy agrees with; 0 where none is registered.
(DESIGN CHOICE, log entry 93.) -/
def HostQueue.ringN (q : HostQueue) : Nat := fieldAt (q.reg.getD []) 0x08 4

/-- HEAD or QERR of a queue changes: in the copy of its descriptor in the system area of its slot too (R263). -/
def State.onHead (s : State) (q : Nat) (g : HostQueue → HostQueue) : State :=
  let t := s.onQueue q g
  let h := t.queue q
  { t with mem := (t.slots.filter (fun e => e.2.queue == q)).foldl (fun m e =>
      cellsWrite m (slabKey e.1 (Config.systemArea + 0x40)) (leBytes 8 h.head ++ leBytes 4 h.qerr)) t.mem }

/-- DOORBELL (R265). A queue that was never registered has a ring of 0 packets, so a count above 0 sets QOVERFLOW. (DESIGN
CHOICE, log entry 93.) -/
def execDoorbell (q count : Nat) (s : State) : Out :=
  let h := s.queue q
  .next (if q ≥ Config.hostQueues then s
    else if count < h.doorbell then s.onHead q (fun h => { h with qerr := qerrBACK })
    else if count > h.head + h.ringN then s.onHead q (fun h => { h with qerr := qerrOVERFLOW })
    else s.onQueue q (fun h => { h with doorbell := count % 2 ^ 64 }))

/-- A queue holds a slot. -/
def State.mapped (s : State) (q : Nat) : Bool := s.slots.any (fun e => e.2.queue == q)

/-- The packet that a queue's slot reads next (R264, R265). -/
def State.packet (s : State) (q : Nat) : Option (List Byte) :=
  let h := s.queue q
  if s.mapped q && decide (h.head < h.doorbell) && h.ringN != 0 then
    let base := physKey (bitAt (s.queueField q 0x0C 4) 0) (s.queueField q 0x00 8)
    some (cellsRead s.mem (base + 64 * (h.head % h.ringN)) 64)
  else none

/-- A packet as R264 has it: 0 NOP, 1 LAUNCH; none for another kind or a nonzero reserved byte. -/
def packetKind (p : List Byte) : Option Nat :=
  if nonzero p 1 7 || nonzero p 16 48 then none
  else
    match fieldAt p 0 1 with
    | 0 => if nonzero p 8 8 then none else some 0
    | 1 => some 1
    | _ => none

/-- The part has consumed a packet; a capture session keeps it (R262). -/
def State.consume (s : State) (q : Nat) (p : List Byte) : State :=
  let keep (c : Capture) : Capture := { c with packets := c.packets ++ [(q, p)] }
  { s.onHead q (fun h => { h with head := h.head + 1 }) with capture := s.capture.map keep }

/-- PACKET_NOP. (DEDUCED, log entry 48.) -/
def execPacketNop (q : Nat) (s : State) : Out :=
  .next (match s.packet q with
    | some p => if packetKind p = some 0 then s.consume q p else s
    | none => s)

/-- PACKET_OTHER_KIND. (DEDUCED, log entry 48.) -/
def execPacketOtherKind (q : Nat) (s : State) : Out :=
  .next (match s.packet q with
    | some p =>
      if packetKind p = none then (s.consume q p).onHead q (fun h => { h with qerr := qerrBADPACKET }) else s
    | none => s)

/-- The grants of a queue's table as the part reads it (R131): an unusable entry grants nothing. -/
def State.readGrants (s : State) (q : Nat) : List Grant :=
  let base := physKey (bitAt (s.queueField q 0x0C 4) 2) (s.queueField q 0x18 8)
  (List.range 16).filterMap (fun i =>
    let e := cellsRead s.mem (base + 16 * i) 16
    let len := fieldAt e 8 4
    let rights := fieldAt e 12 1
    match s.slabDecode (fieldAt e 0 8) with
    | none => none
    | some k =>
      if fieldAt e 0 8 % 256 = 0 ∧ len % 256 = 0 ∧ len ≠ 0 ∧ rights < 8 ∧ !nonzero e 13 3 ∧ slabRangeFree k len then
        some { base := k, len := len, rd := bitAt rights 0, wr := bitAt rights 1, at_ := bitAt rights 2 }
      else none)

/-- A launch of a queue waits at its head (R64). -/
def State.headWaits (s : State) (q : Nat) : Bool :=
  s.launches.any (fun l => l.queue == q && l.depth == 1 && l.phase == .waiting)

/-- PACKET_LAUNCH: the launch reaches the head of its queue, its record is copied and checked (R64, R264, R265). -/
def execPacketLaunch (q : Nat) (s : State) : Out :=
  .next (match s.packet q with
    | none => s
    | some p =>
      if packetKind p ≠ some 1 ∨ s.headWaits q then s
      else
        let addr := fieldAt p 8 8
        let bad := (s.consume q p).onHead q (fun h => { h with qerr := qerrBADPACKET })
        let shell := Launch.ofRecord s.nextLaunch (BitVec.ofNat 64 addr) [] q 1 none none (s.readGrants q) []
        if addr % 64 ≠ 0 then bad
        else
          match s.deskRead { launch := shell, wg := none, viewer := none, core := 0 } addr 512 64 with
          | .got rcd =>
            let l := Launch.ofRecord s.nextLaunch (BitVec.ofNat 64 addr) rcd q 1 none none (s.readGrants q) []
            let r := s.checkLaunch none l
            let s := ((s.consume q p).fetchFar (s.ptRoot q) addr 512).fetchHeader r.2
            if r.1 = 0 then s.acceptLaunch r.2 else s.refuseLaunch r.2 r.1
          | _ => bad)

end Sys2Proof.Machine
end

