-- ==== Sys2Proof/Machine/Admit.lean ====
section
/-!
DEFINITION. Sys2Proof/Machine/Admit.lean: the life of a grid: its start (R64, R74, R75, R95), the visit order (R44,
R68, R69), admission and placement (R30, R46, R49 to R52, R78), its end (R58, R60), and the deadline and energy rules
(R84 to R87).
-/
namespace Sys2Proof.Machine

/-! ### Starting -/

/-- A launch may start (R64, R74, R75): what its launching thread wrote is visible (R56), and the last test of its PRODUCER
that the dispatcher has made has found the condition met (R95, R24). -/
def State.startReady (s : State) (l : Launch) : Bool :=
  l.phase == .waiting && l.status == 0 && (l.depth != 1 || s.mapped l.queue) && !l.after.any s.outstanding &&
    !((s.slotsOf l).any (fun e => s.touchesHeld e.2 128)) && (l.producer == 0 || l.due s.dcycle)

/-- A queue's slot passes a pre-emption point (R63). -/
def State.passSlot (s : State) (q : Nat) : State :=
  { s with slots := s.slots.map (fun e => if e.2.queue = q then (e.1, { e.2 with passed := true }) else e) }

/-- The words of a launch's code as they stand, CODESIZE bytes from its entry on, where they can be read (R301).
(DEDUCED, log entry 51.) -/
def State.codeNow (s : State) (l : Launch) : List (Nat × List Byte) :=
  let a := l.entry.toNat
  if isTranslated a then
    (List.range ((a % 65536 + l.codesize + 65535) / 65536)).filterMap (fun i =>
      let lo := max a ((a / 65536 + i) * 65536)
      let hi := min (a + l.codesize) ((a / 65536 + i + 1) * 65536)
      match s.translate (s.ptRoot l.queue) lo accLoad with
      | .key k => some (lo, cellsRead s.mem k (hi - lo))
      | _ => none)
  else
    match s.slabDecode a with
    | some k => if slabRangeFree k l.codesize then [(a, cellsRead s.mem k l.codesize)] else []
    | none => []

/-- A capture session records the order in which launches start (R262). -/
def State.noteStart (s : State) (l : Launch) : State :=
  let keep (c : Capture) : Capture :=
    if l.depth = 1 ∧ c.stage.isNone then { c with starts := c.starts ++ [(l.num, l.queue, l.recAddr)] } else c
  { s with capture := s.capture.map keep }

/-- A launch starts, where it may. -/
def State.startLaunch (s : State) (n : Nat) : State :=
  match s.launch? n with
  | none => s
  | some l =>
    if !s.startReady l then s
    else
      let pinned := match (if l.producer ≠ 0 ∧ l.consume = 2 then s.localSlab l.producer else none) with
        | some k => cellsRead s.mem k 128
        | none => []
      let grants := if l.depth = 1 then s.readGrants l.queue else l.grants
      let s := (s.openSlots l).onLaunch n (fun l =>
        { l with phase := .started, startCycle := s.dcycle, pinned := pinned, grants := grants, words := s.codeNow l })
      if l.depth = 1 then (s.noteStart l).passSlot l.queue else s

/-- LAUNCH_START. -/
def execLaunchStart (n : Nat) (s : State) : Out := .next (s.startLaunch n)

/-! ### The visit order (R44, R68) -/

/-- The low m bits of a number reversed. -/
def bitReverse : Nat → Nat → Nat
  | 0, _ => 0
  | m + 1, j => 2 ^ m * (j % 2) + bitReverse m (j / 2)

/-- The least m with 2^m ≥ n. -/
def orderBits (n : Nat) : Nat := if n ≤ 1 then 0 else Nat.log2 (n - 1) + 1

/-- The next linear index from step j on, and the step after it; of two successive steps at most one is skipped. -/
def visitFrom (n seed : Nat) : Nat → Nat → Nat × Nat
  | 0, j => (0, j)
  | fuel + 1, j =>
    let m := orderBits n
    let c := bitReverse m j ^^^ (seed % 2 ^ m)
    if c < n then (c, j + 1) else visitFrom n seed fuel (j + 1)

/-- The linear index of the workgroup that a launch sends out next, and its counter afterwards. -/
def Launch.nextVisit (l : Launch) : Nat × Nat :=
  if l.sampled then visitFrom l.total l.seed 4 l.counter else (l.sent, l.counter)

/-! ### Room on a core (R46, R49, R50) -/

/-- A workgroup's scratch, barriers, tags and guard slots are taken: while it is resident, until the dispatcher has seen
it leave (R24), and until its started tasks have ended, on whichever core they run (R57, R159). -/
def State.holdsRoom (s : State) (core : Nat) (w : Workgroup) : Bool :=
  w.core == core && (w.place == .resident || s.leftNow w ||
    (w.place == .retired && s.cores.any (fun c => c.2.running.any (fun e => e.2.rcd.owner == some w.num))))

/-- The workgroups that take room on a core. -/
def State.roomOf (s : State) (core : Nat) : List Workgroup := s.wgs.filter (s.holdsRoom core)

/-- A number of the launch of each of a list of workgroups, added up. -/
def State.totalOf (s : State) (ws : List Workgroup) (g : Launch → Nat) : Nat :=
  (ws.map (fun w => ((s.launch? w.launch).map g).getD 0)).sum

/-- The lowest offset of a core's slice, a multiple of 1024, at which a scratch allocation fits (R46). (DESIGN CHOICE,
log entry 50.) -/
def State.scratchAt (s : State) (core size : Nat) : Option Nat :=
  let held := (s.roomOf core).map (fun w => (w.scrOff, w.scrSize))
  let ends := 0 :: held.map (fun h => (h.1 + h.2 + 1023) / 1024 * 1024)
  firstBy (fun a b => decide (a < b)) (ends.filter (fun o =>
    decide (o + size ≤ Config.systemArea) && !held.any (fun h => overlaps o size h.1 h.2)))

/-- The team slots of a partition that workgroups have left unseen by the dispatcher (R24). -/
def State.leftSlots (s : State) (core part : Nat) : List Nat :=
  (s.wgs.filter (fun w => w.core == core && s.leftNow w)).flatMap (fun w =>
    (w.seats.filter (fun e => e.1 == part)).map Prod.snd)

/-- The free team slots of a partition; with forks, those in which a fork borrows a thread slot do not count. -/
def State.freeTeams (s : State) (core : Nat) (forks : Bool) (part : Nat) : List Nat :=
  (List.range Config.teamSlots).filter (fun i =>
    !(s.heldSlots core part).contains i && !(s.leftSlots core part).contains i && !(forks && (s.borrowed core part none).contains i))

/-- Teams take their seats one at a time: the partition with the most free slots, the lower one among equals (R30), and its
lowest free slot. (DESIGN CHOICE, log entry 132.) -/
def seatTeams : Nat → List (Nat × List Nat) → Option (List (Nat × Nat))
  | 0, _ => some []
  | n + 1, free =>
    match firstBy (fun a b => if a.2.length ≠ b.2.length then decide (a.2.length > b.2.length) else decide (a.1 < b.1)) free with
    | some (p, slot :: _) =>
      (seatTeams n (free.map (fun e => if e.1 = p then (e.1, e.2.drop 1) else e))).map (fun l => (p, slot) :: l)
    | _ => none

/-- The sum of class weights on a core stays within its budget with a workgroup of a launch more (R49, R50). -/
def State.weightFits (s : State) (core : Nat) (l : Launch) : Bool :=
  l.legacy || decide (s.totalOf (s.wgs.filter (fun w => w.core == core && (w.place == .resident || s.leftNow w)))
    (fun m => if m.legacy then 0 else m.weight) + l.weight ≤ (s.core core).budget)

/-- The seats and the scratch offset that a core gives a workgroup of a launch, where it admits it (R49). -/
def State.room (s : State) (core : Nat) (forks : Bool) (l : Launch) : Option (List (Nat × Nat) × Nat) :=
  let ws := s.roomOf core
  if !(s.core core).gated && s.weightFits core l && decide (s.totalOf ws Launch.barriers + l.barriers ≤ 64) &&
      decide (s.totalOf ws Launch.tags + l.tags ≤ 64) && decide (s.totalOf ws Launch.guards + l.guards ≤ 64) then
    match seatTeams l.teams ((List.range Config.partitions).map (fun p => (p, s.freeTeams core forks p))),
        s.scratchAt core l.scratchBytes with
    | some seats, some off => some (seats, off)
    | _, _ => none
  else none

/-- The forks that borrow slots on a core collapse (R49, R213). -/
def State.collapseCore (s : State) (core : Nat) : State :=
  (s.forks.filter (fun f => (match s.wg? f.wg with
    | some w => w.core == core
    | none => false))).foldl (fun s f => s.collapse f.wg f.tix) s

/-- A core admits a workgroup of a launch, where borrowed slots are all that bars it after their forks collapse. -/
def State.admitTo (s : State) (core : Nat) (l : Launch) : Option (List (Nat × Nat) × Nat × State) :=
  match s.room core true l with
  | some r => some (r.1, r.2, s)
  | none =>
    if (s.room core false l).isSome then
      let s := s.collapseCore core
      (s.room core true l).map (fun r => (r.1, r.2, s))
    else none

/-- The cores in the order in which a launch is offered to them (R51). -/
def Launch.coreOrder (l : Launch) : List Nat := (List.range Config.cores).map (fun i => (l.lastCore + 1 + i) % Config.cores)

/-! ### Placing -/

/-- The s-registers of a team as it starts (R31). -/
def Launch.startRegs (l : Launch) : Vector Word 64 :=
  Vector.ofFn (fun i => if i.val = 0 ∨ i.val > 15 then 0 else BitVec.ofNat 64 (l.arg (i.val - 1)))

/-- A workgroup is placed on a core (R29 to R31, R46); it arrives there at an edge of the core's clock (R24). (DESIGN
CHOICE, log entry 5.) (DEDUCED, log entry 96.) -/
def State.placeWg (s : State) (l : Launch) (core : Nat) (seats : List (Nat × Nat)) (off lin visit : Nat) : State :=
  let n := s.nextWg
  let top (t : Nat) : Word := s.slabAddr core (off + l.scratch + (t + 1) * l.stack)
  let ctxs := (List.range (32 * l.teams)).map (fun t => freshCtx n t l.entry (top t) (rngKey l.seed lin t))
  let teams := seats.zipIdx.map (fun e => freshTeam n e.2 e.1.1 e.1.2 l.startRegs)
  { s with
    ctxs := s.ctxs ++ ctxs, teams := s.teams ++ teams,
    wgs := s.wgs ++ [{ freshWorkgroup n l.num core lin visit s.nextNum l.teams off l.scratchBytes with arriving := true }],
    nextWg := n + 1, nextNum := s.nextNum + 1 }.flushL1 core

/-- A launch sends out its next workgroup to the first core that admits it (R51). -/
def State.sendOut (s : State) (l : Launch) : Option State :=
  l.coreOrder.findSome? (fun core =>
    (s.admitTo core l).map (fun r =>
      let v := l.nextVisit
      (r.2.2.placeWg l core r.1 r.2.1 v.1 l.sent).onLaunch l.num (fun l =>
        { l with sent := l.sent + 1, counter := v.2, lastCore := core })))

/-- Undispatched workgroups of a launch remain that will still run (R61, R86). -/
def Launch.remains (l : Launch) : Bool := l.phase == .started && l.status == 0 && l.stop.isNone && decide (l.sent < l.total)

/-- The workgroups of a launch that are on a core as the dispatcher sees it (R24). -/
def State.seatedOf (s : State) (n : Nat) : List Workgroup :=
  s.wgs.filter (fun w => w.launch == n && (w.place == .resident || s.leftNow w))

/-- A launch may send out a workgroup (R43, R62, R78). (DESIGN CHOICE, log entry 75.) -/
def State.maySend (s : State) (l : Launch) : Bool :=
  l.remains && s.mapped l.queue && (l.maxres == 0 || decide ((s.seatedOf l.num).length < l.maxres)) &&
    (!l.hasSlots || decide (l.sent < l.committed + l.discarded + Config.window)) &&
    !(s.wgs.any (fun w => w.launch == l.num && w.place != .resident && w.place != .retired && !w.ousted))

/-- WORKGROUP_DISPATCH. -/
def execWorkgroupDispatch (n : Nat) (s : State) : Out :=
  .next (match s.launch? n with
    | some l => if !l.coresident && s.maySend l then (s.sendOut l).getD s else s
    | none => s)

/-- All workgroups of a launch are placed one after another, or none is. -/
def State.sendAll (n : Nat) : Nat → State → Option State
  | 0, s => some s
  | k + 1, s =>
    match s.launch? n with
    | some l => (s.sendOut l).bind (State.sendAll n k)
    | none => none

/-- CORESIDENT_PLACEMENT (R52). -/
def execCoresidentPlacement (n : Nat) (s : State) : Out :=
  .next (match s.launch? n with
    | some l => if l.coresident && l.sent == 0 && s.maySend l then (State.sendAll n l.total s).getD s else s
    | none => s)

/-! ### The end of a grid (R58) -/

/-- A write of a grid's threads. -/
def State.gridWrite (s : State) (n : Nat) (src : Option CtxId) : Bool :=
  match src with
  | some id => (match s.wg? id.wg with
    | some w => w.launch == n
    | none => false)
  | none => false

/-- Every write of a grid is visible, and other devices have acknowledged theirs; engines' writes on their way count.
(DEDUCED, log entry 58.) -/
def State.writesDone (s : State) (n : Nat) : Bool :=
  s.chunks.isEmpty && s.hodSent.isEmpty && !(s.stores.any (fun p => p.src.isNone || s.gridWrite n p.src)) &&
    !(s.acks.any (fun e => s.gridWrite n e.src))

/-- The key of a byte that a captured region names: slab, or a physical address of HBM. -/
def State.regionKey (s : State) (addr : Nat) : Nat := (s.localSlab addr).getD (hbmBase + addr)

/-- The bytes of regions in their order. -/
def State.regionBytes (s : State) (l : List (Nat × Nat)) : List Byte := l.flatMap (fun r => cellsRead s.mem (s.regionKey r.1) r.2)

/-- A capture session records the digest of its regions as a launch finishes (R262). -/
def State.noteDigest (s : State) (n : Nat) : State :=
  match s.capture, s.launch? n with
  | some c, some l =>
    if l.depth = 1 ∧ c.stage.isNone then
      { s with capture := some { c with digests := c.digests ++ [(n, sha512 (s.regionBytes c.regions))] } }
    else s
  | _, _ => s

/-- A task of an engine has done all of its work and has only its end left (R172, R182, R185). -/
def Running.workDone (x : Running) : Bool :=
  !x.parked && (match taskKind x.rcd.rcd with
    | 2 => x.done || decide (x.progress ≥ hodCount x.rcd.desc x.rcd.slices)
    | 3 => !x.vector.isEmpty && (List.range (quarryChunks x.rcd.desc)).all (fun c => bitAt x.progress c)
    | _ => x.done)

/-- An EOS record that heads an engine's queue completes there, unless the queue of its task record is full (R166). -/
def State.eosDue (s : State) (core : Nat) (r : QRec) : Bool :=
  taskKind r.rcd == kindEOS && !(r.owner.isNone && r.lostScratch) && s.mayStart core r == .go && s.eosCheck core r != .full

/-- On an engine's queue a task or an EOS record of a launch has nothing left but its end. (DEDUCED, log entry 58.) -/
def State.endsDue (s : State) (n : Nat) : Bool :=
  s.cores.any (fun e => [4, 5, 6].any (fun q =>
    match Table.find e.2.running q with
    | some x => x.rcd.launch == n && x.workDone
    | none => ((s.queueRecs e.1 q).head?).any (fun r => r.launch == n && s.eosDue e.1 r)))

/-- A grid may finish (R58): its workgroups sent out have retired, its children have finished, its slots are final,
its chunks are taken, and what its engines have done has ended (R166, R344). (DEDUCED, log entry 58.) -/
def State.mayFinish (s : State) (l : Launch) : Bool :=
  (match l.phase with
    | .waiting => l.status != 0 && (!l.hasSlots || l.finalised)
    | .started => s.allRetired l &&
        !l.remains && (!l.hasSlots || l.finalised) && l.chunks == 0 && (l.status != 0 || !s.endsDue l.num)
    | .finished => false) &&
  !(s.launches.any (fun m => m.parent == some l.num && m.phase != .finished)) && s.writesDone l.num

/-- A grid finishes and writes its completion record; the cores see its end at the next edges of their clocks (R24).
(DEDUCED, log entry 96.) -/
def State.finishGrid (s : State) (l : Launch) : State :=
  let cycles := if l.phase = .waiting then 0 else s.dcycle - l.startCycle
  let s := s.writeCompletion l (completionRecord l.status l.depth l.sent l.retired cycles)
  let s := (s.onLaunch l.num (fun l => { l with phase := .finished })).noteDigest l.num
  let s := s.crossing (fun c => { c with newEnds := c.newEnds ++ [l.num] })
  if l.depth = 1 then s.passSlot l.queue else s

/-- The workgroups that may retire only now: those of a stopped launch, and those that waited for a retirement record
(R57, R60). (DEDUCED, log entry 60.) -/
def State.retireAll (s : State) (sel : Workgroup → Bool) : State :=
  ((s.wgs.filter (fun w => w.place != .retired && sel w)).map Workgroup.num).foldl State.tryRetire s

/-- GRID_FINISH. -/
def execGridFinish (n : Nat) (s : State) : Out :=
  .next (match s.launch? n with
    | none => s
    | some l =>
      let s := s.retireAll (fun w => w.launch == n && (l.status != 0 || (s.liveOfWg w.num).isEmpty))
      match s.launch? n with
      | none => s
      | some l =>
        if s.mayFinish l then (s.finishGrid l).retireAll (fun w => (s.liveOfWg w.num).isEmpty && w.place == .resident)
        else s)

/-! ### Deadline and energy (R84 to R87) -/

/-- A launch stops for a reason (R86, R87). -/
def Launch.stopFor (l : Launch) (reason cycle : Nat) : Launch :=
  Launch.cutSamples { l with stop := some reason, lastCommit := max l.lastCommit cycle }

/-- A launch is running and no rule has stopped it. -/
def Launch.open_ (l : Launch) : Bool := l.phase == .started && l.status == 0 && l.stop.isNone

/-- A rule fires: the commit of the cycle comes before the deadline and energy rules (R448), and the first rule to
fire gives the reason (R86). -/
def State.ruleStops (s : State) (n reason : Nat) : State :=
  let s := s.commitDue n
  s.onLaunch n (fun l => if l.open_ then l.stopFor reason s.dcycle else l)

/-- A launch's deadline has come (R84). -/
def State.pastDeadline (s : State) (l : Launch) : Bool :=
  l.open_ && l.deadline != 0 && decide (s.dcycle ≥ l.startCycle + l.deadline)

/-- A running launch whose deadline has come stops (R84). -/
def State.checkDeadline (s : State) (n : Nat) : State :=
  match s.launch? n with
  | some l => if s.pastDeadline l then s.ruleStops n 2 else s
  | none => s

/-- DEADLINE_RULE (R84). -/
def execDeadlineRule (n : Nat) (s : State) : Out := .next (s.checkDeadline n)

/-- A launch's share of one core's energy (R85): by the class weights of the workgroups resident there. (DEDUCED, log
entry 54.) -/
def State.energyShare (s : State) (core joules n : Nat) : Nat :=
  let ws := s.wgs.filter (fun w => w.core == core && w.place == .resident)
  let all := s.totalOf ws Launch.weight
  let mine := s.totalOf (ws.filter (fun w => w.launch == n)) Launch.weight
  if all = 0 then 0 else joules * mine / all

/-- A launch after a measurement: entry k of the list is core k's energy in units of 2^-32 millijoule. (DEDUCED, log
entry 54.) -/
def State.metered1 (s : State) (energies : List Nat) (l : Launch) : Launch :=
  if l.phase != .started then l
  else { l with energy := l.energy + (energies.zipIdx.map (fun x => s.energyShare x.2 x.1 l.num)).sum }

/-- A launch's metered energy has reached its ENERGY (R85). -/
def Launch.spent (l : Launch) : Bool :=
  l.open_ && l.energyLimit != 0 && decide (l.energy ≥ l.energyLimit * 2 ^ 32)

/-- A running launch that has used its energy stops; a deadline that has come goes first (R85, R86). -/
def State.checkEnergy (s : State) (n : Nat) : State :=
  match s.launch? n with
  | some l => if l.spent then (s.checkDeadline n).ruleStops n 3 else s
  | none => s

/-- The clerk measures each core's energy (R85). -/
def State.measure (s : State) (energies : List Nat) : State :=
  let s := { s with launches := s.launches.map (s.metered1 energies), metered := s.dcycle }
  (s.launches.map Launch.num).foldl State.checkEnergy s

/-- ENERGY_MEASUREMENT (R85): once every 1024 dispatcher cycles. -/
def execEnergyMeasurement (energies : List Nat) (s : State) : Out :=
  .next (if s.dcycle < s.metered + 1024 then s else s.measure energies)

/-- The measurement of every 1024 dispatcher cycles that no event of the cycle has made: its energies are free values.
(DESIGN CHOICE, log entry 98.) -/
def State.measureDue (s : State) : State :=
  if s.dcycle < s.metered + 1024 then s
  else s.measure ((List.range Config.cores).map (fun k => Config.energy s.dcycle k))

end Sys2Proof.Machine
end

