-- ==== Sys2Proof/Machine/Preempt.lean ====
section
/-!
DEFINITION. Sys2Proof/Machine/Preempt.lean: pre-emption and restore (R61, R62, R66, R247 to R250), the context image
and the save area (R251 to R255), the stall rule (R61), slot rotation (R63), thermal migration and frequency changes
(R256, R257).
-/
namespace Sys2Proof.Machine

/-! ### The context image (R251 to R253) -/

/-- A register of a frame by its place in VREG: v0 to v(REGS − 1), then v62 and v63 (R252). -/
def frameReg (regs i : Nat) : Nat := if i < regs then i else 62 + (i - regs)

/-- The bytes of a frame's registers and specials: PC, the specials, the state bytes that a caller gives, PRED, and
what follows it, then VREG. -/
def frameBytes (regs : Nat) (r : Regs) (pc : Word) (tstate tflags nframe : Nat) (sh : Shadow) : List Byte :=
  leBytes 8 pc.toNat ++ leBytes 8 r.lr.toNat ++ leBytes 8 r.mode.toNat ++ leBytes 8 r.fflags.toNat ++
    leBytes 8 r.warn.toNat ++ leBytes 8 r.rngk.toNat ++ leBytes 8 r.rngc.toNat ++ leBytes 8 r.bcur.toNat ++
    leBytes 8 r.acc.toNat ++ leBytes 1 tstate ++ leBytes 1 tflags ++ leBytes 1 nframe ++ leBytes 1 (r.p.toNat / 2) ++
    leBytes 1 sh.mode.toNat ++ leBytes 3 0 ++ leBytes 8 sh.rpc.toNat ++ leBytes 8 sh.fpc.toNat ++
    (List.range 4).flatMap (fun i => leBytes 8 (sh.v.getD i 0).toNat) ++
    (List.range (regs + 2)).flatMap (fun i => leBytes 8 (r.getN (frameReg regs i)).toNat)

/-- No trap shadow. -/
def Shadow.none : Shadow := { v := [0, 0, 0, 0], mode := 0, fpc := 0, rpc := 0 }

/-- TSTATE of a context (R252): one that waits at a wait instruction, a rendezvous or TASK.serve is waiting, also where it
has stepped aside in that wait's window. -/
def Ctx.tstate (c : Ctx) : Nat :=
  match c.status with
  | .exited => 2
  | .halted _ => 3
  | .running => if c.inflight.isEmpty then 0 else 1
  | .yielding _ _ => if c.inflight.isEmpty then 0 else 1
  | _ => 1

/-- The next instruction of a context, as its frame names it. -/
def Ctx.nextPc (c : Ctx) : Word :=
  match c.status with
  | .halted resume => resume
  | _ => c.pc

/-- A number from bits, the first the lowest. -/
def bitsNat : List Bool → Nat
  | [] => 0
  | b :: bs => (if b then 1 else 0) + 2 * bitsNat bs

/-- A thread record: the thread's frame and four pending-return frames (R252). (DEDUCED, log entry 55.) -/
def Ctx.image (c : Ctx) (regs : Nat) : List Byte :=
  let n := c.frames.length
  frameBytes regs c.regs c.nextPc c.tstate (bitsNat [c.inHandler, c.nested, c.heldHalt]) (n + 8 * c.fdepth) c.shadow ++
    (List.range 4).flatMap (fun i => match c.frames[i]? with
      | some f => frameBytes regs f.regs f.ret 0 0 0 Shadow.none
      | none => List.replicate (128 + 8 * (regs + 2)) 0)

/-- A team record (R253). -/
def Team.image (t : Team) : List Byte :=
  leBytes 8 t.hodSeq ++ (List.range 63).flatMap (fun i => leBytes 8 (t.get (BitVec.ofNat 6 (i + 1))).toNat)

/-- The state of a guard slot as GUARDST gives it. -/
def Workgroup.guardCode (w : Workgroup) (i : Nat) : Nat :=
  match Table.find w.guards i with
  | none => 0
  | some b => if b then 1 else 2

/-- A pending sum as 48 bytes. -/
def Pending.image (p : Pending) : List Byte :=
  leBytes 47 (p.sum % 2 ^ 376).toNat ++ leBytes 1 (bitsNat [p.nan, p.pinf, p.ninf])

/-- The element at which the chunk after that of an element begins (R174). -/
def chunkNext (d : List Byte) (scr : Nat) (slices : List (Nat × Nat)) (n : Nat) : Nat :=
  let total := hodCount d slices
  n + max 1 (chunkElems d scr slices total ((destAt d scr slices 0 n).map HodDest.block) total n)

/-- The chunks of a copy that begin before an element, from the chunk of element n on. -/
def chunksBefore (d : List Byte) (scr : Nat) (slices : List (Nat × Nat)) (target : Nat) : Nat → Nat → Nat
  | 0, _ => 0
  | fuel + 1, n => if n ≥ target then 0 else 1 + chunksBefore d scr slices target fuel (chunkNext d scr slices n)

/-- The element at which a chunk of a copy begins. -/
def chunkStart (d : List Byte) (scr : Nat) (slices : List (Nat × Nat)) : Nat → Nat
  | 0 => 0
  | c + 1 => chunkNext d scr slices (chunkStart d scr slices c)

/-- The progress records of a Hod copy, one for each of its slices (R253): the descriptor's address in 8 bytes, the
slice in 8, the first unwritten chunk of the copy in 8 and the copy's HODSEQ in 8, all ones for a task record's. (DESIGN
CHOICE, log entry 99.) -/
def progressRecords (r : QRec) (chunk : Nat) : List (List Byte) :=
  r.slices.map (fun slice =>
    leBytes 8 (taskEntry r.rcd) ++ leBytes 4 slice.1 ++ leBytes 4 slice.2 ++ leBytes 8 chunk ++ leBytes 8 (r.seq.getD (2 ^ 64 - 1)))

/-- The progress records of a copy in progress. -/
def Running.image (x : Running) (scr : Nat) : List (List Byte) :=
  progressRecords x.rcd (chunksBefore x.rcd.desc scr x.rcd.slices x.progress x.progress 0)

/-- The progress records of a workgroup: of its paused copy, and of the copies of its HODs that have not started, whose
slices no task record holds. (DESIGN CHOICE, log entry 99.) -/
def Workgroup.progress (w : Workgroup) : List (List Byte) :=
  w.paused.toList.flatMap (fun x => x.image w.scrKey) ++
    (w.savedRecs.filter (fun r => r.2.seq.isSome)).flatMap (fun r => progressRecords r.2 0)

/-- The task records that a workgroup saves. -/
def Workgroup.taskRecs (w : Workgroup) : List (List Byte) :=
  (w.savedRecs.filter (fun r => r.2.seq.isNone)).map (fun r => r.2.rcd.take 64)

/-- The handles that a workgroup holds (R136). -/
def State.handlesOf (s : State) (wg : Nat) : List Nat :=
  s.cores.flatMap (fun e => e.2.handles.filterMap (fun h =>
    if h.2.state = 1 ∧ h.2.holder = wg then some (e.1 * 2 ^ 24 + h.1 * 2 ^ 18 + h.2.seq) else none))

/-- The workgroup record (R253). -/
def State.wgImage (s : State) (w : Workgroup) : List Byte :=
  let handles := s.handlesOf w.num
  let bar (i : Nat) : List Byte :=
    let b := w.bar i
    leBytes 2 b.arrived.length ++ leBytes 2 b.firings ++ leBytes 4 b.phase
  let copies := w.progress
  leBytes 8 w.tags.toNat ++ leBytes 16 (packNat 2 ((List.range 64).map w.guardCode)) ++ leBytes 8 0 ++
    (List.range 16).flatMap bar ++ leBytes 8 w.gmin ++ leBytes 8 w.gmax ++
    (List.range 8).flatMap (fun k => (w.sum k).image) ++
    leBytes 2 copies.length ++ leBytes 2 w.taskRecs.length ++ leBytes 2 w.heldFirings.length ++
    leBytes 2 handles.length ++
    copies.flatten ++ w.taskRecs.flatten ++
    w.heldFirings.flatMap (fun h => leBytes 8 h.1 ++ leBytes 8 h.2.count) ++ handles.flatMap (leBytes 8)

/-- The threads of a workgroup in order of %tix, exited ones too. -/
def State.threadsOf (s : State) (wg : Nat) : List Ctx := s.ctxs.filter (fun c => c.id.wg == wg && c.id.lvl == 0)

/-- The size of a thread record (R251). -/
def threadBytes (regs : Nat) : Nat := 5 * (128 + 8 * (regs + 2))

/-- The context image of a workgroup (R251), with the bytes of the save area that it takes. (DEDUCED, log entry 55.)
-/
def State.image (s : State) (l : Launch) (w : Workgroup) (slot : Nat) : List Byte :=
  let threads := (s.threadsOf w.num).flatMap (fun c => c.image l.regs)
  let teams := (List.range w.teams).flatMap (fun i => ((s.team? w.num i).map Team.image).getD [])
  let wg := s.wgImage w
  let teamOff := 128 + 32 * w.teams * threadBytes l.regs
  let wgOff := teamOff + 512 * w.teams
  let scrOff := wgOff + wg.length
  leBytes 2 1 ++ leBytes 1 32 ++ leBytes 1 w.teams ++ leBytes 1 l.regs ++ leBytes 1 (bitsNat [l.sampled, w.bound]) ++
    leBytes 2 w.core ++ leBytes 8 l.num ++ leBytes 4 w.lin ++ leBytes 4 w.visit ++ leBytes 4 w.scrSize ++
    leBytes 4 (threadBytes l.regs) ++ leBytes 8 128 ++ leBytes 8 teamOff ++ leBytes 8 wgOff ++ leBytes 8 scrOff ++
    leBytes 8 (scrOff + w.scrSize) ++ leBytes 8 slot ++ leBytes 48 0 ++ threads ++ teams ++ wg ++
    cellsRead s.mem w.scrKey w.scrSize

/-! ### The save area (R255) -/

/-- The images of a save area from an offset on: offset, SLOT and whether it is free; and where the sequence ends. -/
def State.imagesFrom (s : State) (base len : Nat) : Nat → Nat → List (Nat × Nat × Bool) × Nat
  | 0, off => ([], off)
  | fuel + 1, off =>
    let slot := s.memNat (base + off + 0x48) 8
    if off + 128 > len ∨ slot = 0 then ([], off)
    else
      let r := s.imagesFrom base len fuel (off + slot)
      ((off, slot, s.memNat (base + off) 2 == 0) :: r.1, r.2)

/-- The base and length of a queue's save area. -/
def State.saveArea (s : State) (q : Nat) : Nat × Nat := (hbmBase + s.queueField q 0x20 8, s.queueField q 0x28 8)

/-- Where a new image of some bytes goes: its offset, its SLOT, and the free rest behind it; at the end of the
sequence a cleared header follows where there is room. -/
def State.findRoom (s : State) (q bytes : Nat) : Option (Nat × Nat × Nat × Bool) :=
  let a := s.saveArea q
  let need := (bytes + 255) / 256 * 256
  let r := s.imagesFrom a.1 a.2 (a.2 / 256 + 1) 0
  match r.1.find? (fun e => e.2.2 && decide (e.2.1 ≥ need)) with
  | some (off, slot, _) => some (if slot - need ≥ 256 then (off, need, slot - need, false) else (off, slot, 0, false))
  | none => if r.2 + need ≤ a.2 then some (r.2, need, 0, true) else none

/-- The size of a workgroup's image. -/
def State.imageBytes (s : State) (l : Launch) (w : Workgroup) : Nat :=
  128 + 32 * w.teams * threadBytes l.regs + 512 * w.teams + (s.wgImage w).length + w.scrSize

/-- A free image of a size. -/
def freeHeader (slot : Nat) : List Byte := leBytes 0x48 0 ++ leBytes 8 slot ++ leBytes 48 0

/-! ### What bars a save -/

/-- A wait that a save keeps (R247). -/
def Flight.isWait (f : Flight) : Bool :=
  match f.what with
  | .access a _ => (match a.op with
    | .acq _ => true
    | .waita _ => true
    | _ => false)
  | .waitt _ _ => true
  | .aswait _ _ => true
  | .cwait _ => true
  | .bar _ _ => true
  | .vqput _ => true
  | .vqget => true
  | _ => false

/-- A counter is armed on a workgroup's scratch (R248). -/
def State.counterOnScratch (s : State) (w : Workgroup) : Bool :=
  s.keystones.any (fun e => e.2.armed && overlaps e.2.base e.2.len w.scrKey w.scrSize)

/-- A workgroup may be pre-empted at all (R248, R249). -/
def State.movable (s : State) (w : Workgroup) : Bool := w.place == .resident && !w.loomHolding && !s.counterOnScratch w

/-- A write on its way is a workgroup's own, or is visible to it only on its core or tier pair, where it may have read
it (R220). -/
def State.writeTies (s : State) (wg : Nat) (p : PendingWrite) : Bool :=
  (match p.src with
    | some id => id.wg == wg
    | none => false) ||
  (match s.wg? wg with
    | some w => p.vis.any (fun v => v == .core w.core || v == .pair (w.core % 96))
    | none => false)

/-- A fault of a workgroup's threads waits for a record of a core or stands in one: it is not resolved and replayed (R146,
R149). -/
def State.faultOpen (s : State) (core wg : Nat) : Bool :=
  ((s.core core).faultsWaiting ++ (s.core core).faultsOut.map Prod.snd).any (fun r => r.who.any (fun w => w.1.wg == wg))

/-- The threads of a workgroup stand at instruction boundaries: forks are resolved, only waits are outstanding, its faults
are replayed, the writes that tie it to its core are visible (R149, R247, R220). (DEDUCED, log entry 56.) -/
def State.atBoundary (s : State) (wg : Nat) : Bool :=
  !(s.forks.any (fun f => f.wg == wg)) &&
    s.ctxs.all (fun c => c.id.wg != wg || c.inflight.all Flight.isWait) &&
    !(s.teams.any (fun t => t.wg == wg && t.serve.any Serve.ending)) && !(s.stores.any (s.writeTies wg)) && !s.faultOpen (((s.wg? wg).map Workgroup.core).getD 0) wg

/-- A fault record of a core's Hod copy waits, or its replay does (R146, R149). -/
def State.hodFaulted (s : State) (core : Nat) : Bool :=
  (s.core core).faultsWaiting.any FaultReq.hod || (s.core core).faultsOut.any (fun e => e.2.hod)

/-- The started engine tasks of a workgroup have run to completion, its Hod copy stands at a chunk boundary with its
chunks visible and its faults replayed, and no record of its firings is on its way (R149, R247). (DEDUCED, log entry
56.) -/
def State.enginesQuiet (s : State) (w : Workgroup) : Bool :=
  ((s.core w.core).running.all (fun e => e.2.rcd.owner != some w.num || e.1 ≤ 3 ||
    (e.1 == 5 && !e.2.parked && !e.2.done && e.2.dest == 0 && e.2.asked.isEmpty && s.settled w.core 5 && !s.hodFaulted w.core))) &&
    (s.core w.core).coming.all (fun r => r.owner != some w.num)

/-! ### Saving -/

/-- One trace record for each live thread of a workgroup, with its next PC. (DEDUCED, log entry 23.) -/
def State.traceAll (s : State) (wg kind : Nat) : State :=
  (s.liveOfWg wg).foldl (fun s c => s.trace c kind c.nextPc) s

/-- The task records of a workgroup leave their queues, and its Hod copy pauses (R247). -/
def State.pullRecords (s : State) (w : Workgroup) : State :=
  let mine (r : QRec) : Bool := r.owner == some w.num
  let core := s.core w.core
  let recs := core.queues.flatMap (fun e => (e.2.filter mine).map (fun r => (e.1, r)))
  let copy := (Table.find core.running 5).filter (fun x => mine x.rcd)
  let s := s.onCore w.core (fun c =>
    { c with queues := c.queues.map (fun e => (e.1, e.2.filter (fun r => !mine r))),
             running := if copy.isSome then Table.erase c.running 5 else c.running })
  s.onWg w.num (fun w => { w with savedRecs := recs, paused := copy })

/-- A workgroup is saved at a place of its queue's save area. What its waiting ACQs and ASWAITs have found does not stay:
they read again after the restore (R354, R360). -/
def State.saveAt (s : State) (l : Launch) (wg : Nat) (at_ : Nat × Nat × Nat × Bool) : State :=
  match s.wg? wg with
  | none => s
  | some w =>
    let a := s.saveArea l.queue
    let base := a.1 + at_.1
    let image := s.image l w at_.2.1
    let s := s.onWg wg (fun w =>
      { w with place := .saved (base - hbmBase), ordered := false, leaving := false, leftAt := s.dcycle, seats := s.seatsOf wg })
    let s := ({ s with fits := s.fits.filter (fun e => e.1.wg != wg) } : State).homeStore base image false
    let s := if at_.2.2.1 = 0 then s else s.homeStore (base + at_.2.1) (freeHeader at_.2.2.1) false
    if at_.2.2.2 ∧ at_.1 + at_.2.1 + 128 ≤ a.2 then s.homeStore (base + at_.2.1) (leBytes 128 0) false else s

/-- A grid has left its core: its queue's slot passes a pre-emption point (R63). -/
def State.passIfGone (s : State) (q : Nat) : State :=
  if s.wgs.any (fun w => w.place == .resident && (match s.launch? w.launch with
    | some l => l.queue == q
    | none => false)) then s
  else s.passSlot q

/-- Where the image of a workgroup would go, its records included (R255). -/
def State.saveRoom (s : State) (l : Launch) (w : Workgroup) : Option (Nat × Nat × Nat × Bool) :=
  let t := s.pullRecords w
  (t.wg? w.num).bind (fun v => t.findRoom l.queue (t.imageBytes l v))

/-- A workgroup at a boundary is saved, or stays for want of room (R255). -/
def State.save (s : State) (wg : Nat) : State :=
  match s.wg? wg, s.launchOf? wg with
  | some w, some l =>
    (match s.saveRoom l w with
      | none =>
        (s.onWg wg (fun w => { w with ordered := false, leaving := false, ousted := false })).onHead l.queue
          (fun h => { h with qerr := qerrSAVEFULL })
      | some at_ => (((s.pullRecords w).traceAll wg 4).saveAt l wg at_).passIfGone l.queue)
  | _, _ => s

/-- The forks of a workgroup's threads are resolved, and traps that its threads wait for are taken (R150, R213). -/
def State.settleWg (s : State) (wg : Nat) : State :=
  let s := (s.threadsOf wg).foldl (fun s c => s.collapse wg c.id.tix) s
  (s.threadsOf wg).foldl (fun s c => match c.trapNow with
    | some f => (match f.what with
      | .trap cause addr => s.takeTrap c.id cause addr f.pc f.word
      | _ => s)
    | none => s) s

/-- A pre-emption that has reached its core goes as far as it can: the workgroup is saved once it is quiet. -/
def State.preempt (s : State) (wg : Nat) : State :=
  let s := s.settleWg wg
  match s.wg? wg with
  | none => s
  | some w => if s.atBoundary wg && s.enginesQuiet w then s.save wg else s

/-- A workgroup of a grid on its core is Loom-holding: a rotation that would pre-empt the grid waits (R249). -/
def State.loomGrid (s : State) (launch : Nat) : Bool :=
  s.wgs.any (fun w => w.launch == launch && w.place == .resident && w.loomHolding)

/-- The dispatcher orders a workgroup off its core; the core sees that at the next edge of its clock, and the workgroup's
threads issue nothing more from then on (R24, R66). (DEDUCED, log entry 96.) -/
def State.orderOff (s : State) (wg : Nat) : State := s.onWg wg (fun w => { w with ordered := true })

/-- A pre-emption of a workgroup is asked for: by the stall rule, by a rotation that has marked it, or because its queue's
slot has not yet passed a pre-emption point in this period (R61, R63). -/
def State.preemptAsked (s : State) (w : Workgroup) : Bool :=
  w.leaving || w.ordered || (match s.launch? w.launch with
    | some l => s.slots.any (fun e => e.2.queue == l.queue && !e.2.passed)
    | none => false)

/-- A rotation waits for a Loom-holding workgroup of the grid (R249). -/
def State.rotationWaits (s : State) (w : Workgroup) : Bool := !w.ousted && s.loomGrid w.launch

/-- WORKGROUP_PREEMPT (R247): the dispatcher orders the workgroup off, and once its core has seen that it is saved as soon as
it is quiet. A workgroup that a rotation has marked goes on while the rotation waits (R249). -/
def execWorkgroupPreempt (wg : Nat) (s : State) : Out :=
  .next (match s.wg? wg with
    | some w =>
      if s.rotationWaits w then s.onWg wg (fun w => { w with ordered := false, leaving := false })
      else if s.movable w && s.preemptAsked w then (if w.leaving then s.preempt wg else s.orderOff wg)
      else s
    | none => s)

/-! ### Restoring -/

/-- A field of an image in memory. -/
def State.imageField (s : State) (base off n : Nat) : Nat := s.memNat (base + off) n

/-- A register frame as an image holds it, v62 and v63 with it (DESIGN CHOICE, log entry 124); what the image does not
carry stays. -/
def Regs.ofFrame (r : Regs) (regs : Nat) (f : List Byte) : Regs :=
  let word (off : Nat) : Word := BitVec.ofNat 64 (fieldAt f off 8)
  let r := { r with
    lr := word 0x08, mode := BitVec.ofNat 5 (fieldAt f 0x10 8), fflags := BitVec.ofNat 5 (fieldAt f 0x18 8),
    warn := BitVec.ofNat 9 (fieldAt f 0x20 8), rngk := word 0x28, rngc := word 0x30,
    bcur := BitVec.ofNat 6 (fieldAt f 0x38 8), acc := word 0x40, p := BitVec.ofNat 8 (2 * fieldAt f 0x4B 1) }
  (List.range (regs + 2)).foldl (fun r i =>
    { r with v := r.v.setIfInBounds (frameReg regs i) (word (0x80 + 8 * i)) }) r

/-- A thread as its record in an image gives it; how it waits, and what no frame carries, stays as it was. -/
def Ctx.ofImage (c : Ctx) (regs : Nat) (rcd : List Byte) : Ctx :=
  let size := 128 + 8 * (regs + 2)
  let frame (i : Nat) : List Byte := (rcd.drop (i * size)).take size
  let f := frame 0
  let flags := fieldAt f 0x49 1
  let n := fieldAt f 0x4A 1
  let old (i : Nat) : Frame := (c.frames[i]?).getD { regs := c.regs, ret := 0, callPc := 0 }
  let pc := BitVec.ofNat 64 (fieldAt f 0 8)
  { c with
    regs := c.regs.ofFrame regs f, pc := pc, fdepth := n / 8,
    status := match fieldAt f 0x48 1 with
      | 0 => .running
      | 1 => c.status
      | 2 => .exited
      | _ => .halted pc,
    inflight := if fieldAt f 0x48 1 = 1 then c.inflight else [],
    shadow := { v := (List.range 4).map (fun i => BitVec.ofNat 64 (fieldAt f (0x60 + 8 * i) 8)),
                mode := BitVec.ofNat 5 (fieldAt f 0x4C 1), fpc := BitVec.ofNat 64 (fieldAt f 0x58 8),
                rpc := BitVec.ofNat 64 (fieldAt f 0x50 8) },
    inHandler := bitAt flags 0, nested := bitAt flags 1, heldHalt := bitAt flags 2,
    frames := (List.range (n % 8)).map (fun i =>
      { (old i) with regs := (old i).regs.ofFrame regs (frame (i + 1)),
                     ret := BitVec.ofNat 64 (fieldAt (frame (i + 1)) 0 8) }) }

/-- A team as its record gives it. -/
def Team.ofImage (t : Team) (rcd : List Byte) : Team :=
  { t with hodSeq := fieldAt rcd 0 8,
           s := Vector.ofFn (fun i => if i.val = 0 then 0 else BitVec.ofNat 64 (fieldAt rcd (8 * i.val) 8)) }

/-- A pending sum as 48 bytes give it. -/
def Pending.ofImage (b : List Byte) : Pending :=
  let f := fieldAt b 47 1
  { sum := signedOf 376 (fieldAt b 0 47), nan := bitAt f 0, pinf := bitAt f 1, ninf := bitAt f 2 }

/-- A workgroup as its record gives it; lists stay as they were saved. -/
def Workgroup.ofImage (w : Workgroup) (rcd : List Byte) : Workgroup :=
  let bar (i : Nat) : Nat × Barrier :=
    (i, { arrived := (w.bar i).arrived, firings := fieldAt rcd (0x20 + 8 * i + 2) 2, phase := fieldAt rcd (0x20 + 8 * i + 4) 4 })
  { w with
    tags := BitVec.ofNat 64 (fieldAt rcd 0 8),
    guards := (List.range 64).filterMap (fun i => match elemAt 2 (fieldAt rcd 8 16) i with
      | 1 => some (i, true)
      | 2 => some (i, false)
      | _ => none),
    bars := (List.range 16).map bar, gmin := fieldAt rcd 0xA0 8, gmax := fieldAt rcd 0xA8 8,
    sums := (List.range 8).map (fun k => (k, Pending.ofImage ((rcd.drop (0xB0 + 48 * k)).take 48))) }

/-- A reserved field of a frame is not zero (R252). -/
def State.frameReserved (s : State) (at_ : Nat) : Bool := s.memNat (at_ + 0x49) 1 ≥ 8 || s.memNat (at_ + 0x4D) 3 != 0

/-- A reserved field of an image is not zero (R251 to R253). -/
def State.imageReserved (s : State) (base : Nat) : Bool :=
  let size := 128 + 8 * (s.imageField base 4 1 + 2)
  bitsAt (s.imageField base 5 1) 7 2 != 0 || s.imageField base 0x50 48 != 0 ||
    s.imageField base (s.imageField base 0x30 8 + 0x18) 8 != 0 ||
    (List.range (32 * s.imageField base 3 1)).any (fun t => (List.range 5).any (fun i =>
      s.frameReserved (base + s.imageField base 0x20 8 + t * s.imageField base 0x1C 4 + i * size)))

/-- An image may be restored: 0, or the mailbox status that refuses it (R254), WIDTHMISMATCH before BADIMAGE (DESIGN CHOICE,
log entry 108). (DEDUCED, log entry 57.) -/
def State.imageStatus (s : State) (base : Nat) : Nat :=
  if s.imageField base 2 1 ≠ 32 then 4
  else if s.imageField base 0 2 ≠ 1 ∨ s.imageReserved base then 5
  else
    match s.launch? (s.imageField base 8 8) with
    | some l => if l.phase = .finished then 5 else 0
    | none => 5

/-- The queues of a core have room for the records that a workgroup brings back, and its Hod for a paused copy. -/
def State.queuesFit (s : State) (core : Nat) (w : Workgroup) : Bool :=
  (w.paused.isNone || (Table.find (s.core core).running 5).isNone) &&
    (List.range 7).all (fun q =>
      let mine := (w.savedRecs.filter (fun r => r.1 == q)).length + (if q = 5 ∧ w.paused.isSome then 1 else 0)
      mine == 0 || decide (s.queueCount core q + mine ≤ Config.queueRecords))

/-- The last WLOAD that has entered a Loom queue when records enter ahead of those in it (R180). -/
def lastWload (mine there : List QRec) (old : Option (List Byte)) : Option (List Byte) :=
  if there.any QRec.isWload then old
  else match (mine.filter QRec.isWload).getLast? with
    | some r => some r.desc
    | none => old

/-- The records of a workgroup stand ahead of new ones (R247). -/
def State.pushBack (s : State) (core : Nat) (w : Workgroup) : State :=
  let add (c : Core) (q : Nat) : Core :=
    let mine := (w.savedRecs.filter (fun r => r.1 == q)).map Prod.snd
    let there := Table.get c.queues [] q
    if mine.isEmpty then c
    else { c with queues := Table.set c.queues q (mine ++ there), lastTile := lastWload mine there c.lastTile }
  s.onCore core (fun c =>
    let c := (List.range 7).foldl add c
    match w.paused with
    | some x => { c with running := Table.set c.running 5 x }
    | none => c)

/-- A workgroup is restored from its image onto a core that admits it (R247, R250), at the lowest scratch offset that
fits (DESIGN CHOICE, log entry 124); the network configurations that it loaded before are not valid for it any more
(R416). -/
def State.restoreOn (s : State) (l : Launch) (w : Workgroup) (base core : Nat) : Option State :=
  if !s.queuesFit core w then none
  else
    (s.admitTo core l).map (fun r =>
      let s := r.2.2
      let thr := s.imageField base 0x20 8
      let size := threadBytes l.regs
      let ctx (c : Ctx) : Ctx :=
        if c.id.wg = w.num then c.ofImage l.regs (cellsRead s.mem (base + thr + c.id.tix * size) size) else c
      let team (t : Team) : Team :=
        if t.wg = w.num then
          let seat := r.1.getD t.idx (0, 0)
          { t.ofImage (cellsRead s.mem (base + s.imageField base 0x28 8 + 512 * t.idx) 512) with part := seat.1, slot := seat.2 }
        else t
      let rcd := cellsRead s.mem (base + s.imageField base 0x30 8) 0x238
      let scratch := cellsRead s.mem (base + s.imageField base 0x38 8) w.scrSize
      let order := s.nextNum
      let part (p : Part) : Part := { p with net := p.net.filter (fun n => n.2.wg != w.num) }
      let s := { s with ctxs := s.ctxs.map ctx, teams := s.teams.map team, nextNum := s.nextNum + 1,
                        parts := s.parts.map (fun (e : Nat × Part) => (e.1, part e.2)) }
      let s := s.onWg w.num (fun w =>
        { w.ofImage rcd with core := core, scrOff := r.2.1, place := .resident, order := order, arriving := true,
                             ousted := false, called := false, ordered := false, leaving := false, savedRecs := [],
                             paused := none })
      let s := (s.homeStore (slabKey core r.2.1) scratch false).freeImage (base - hbmBase)
      (((s.flushL1 core).pushBack core w).drainHeld w.num).traceAll w.num 5)

/-- The cores to which a saved workgroup may return, in the order in which it is offered to them (R250, R51). -/
def Launch.returnOrder (l : Launch) (w : Workgroup) : List Nat := if w.bound then [w.core] else l.coreOrder

/-- A saved workgroup returns to the first core that admits it. -/
def State.restoreWg (s : State) (l : Launch) (w : Workgroup) : Option State :=
  match w.place with
  | .saved a =>
    if s.imageStatus (hbmBase + a) ≠ 0 then none
    else (l.returnOrder w).findSome? (fun core => s.restoreOn l w (hbmBase + a) core)
  | _ => none

/-! ### Images that no saved workgroup stands behind (R254) -/

/-- The list entries of an image: n of some bytes each from an offset of the workgroup record on. -/
def State.imageList (s : State) (rec_ off n size : Nat) : List (List Byte) :=
  (List.range n).map (fun i => cellsRead s.mem (rec_ + off + size * i) size)

/-- The progress records of an image, those of one copy together: of one number and one descriptor. -/
def groupProgress : List (List Byte) → List (List (List Byte)) → List (List (List Byte))
  | [], acc => acc
  | y :: ys, acc =>
    let same (g : List (List Byte)) : Bool :=
      g.any (fun z => fieldAt z 24 8 == fieldAt y 24 8 && fieldAt z 0 8 == fieldAt y 0 8)
    groupProgress ys (if acc.any same then acc.map (fun g => if same g then g ++ [y] else g) else acc ++ [[y]])

/-- The queue record of a copy that an image's progress records give, where its descriptor still passes, and its first
unwritten chunk. (DESIGN CHOICE, log entry 99.) -/
def State.imageCopy (s : State) (d : Desk) (recs : List (List Byte)) : Option (QRec × Nat) :=
  match recs with
  | [] => none
  | x :: _ =>
    match s.taskCheck d false false [] (plainRecord (fieldAt x 0 8) kindHOD 5) with
    | .good r =>
      let seq := if fieldAt x 24 8 = 2 ^ 64 - 1 then none else some (fieldAt x 24 8)
      some ({ r with slices := recs.map (fun y => (fieldAt y 8 4, fieldAt y 12 4)), seq := seq }, fieldAt x 16 8)
    | .bad _ => none

/-- A paused copy of an image: it goes on at a chunk. -/
def pausedCopy (scr : Nat) (c : QRec × Nat) : Running :=
  { rcd := c.1, progress := chunkStart c.1.desc scr c.1.slices c.2, dest := 0, bytes := 0, status := 0, fcode := 0,
    faddr := 0, done := false, parked := false, team := 0, teamWg := 0, tokens := 0, vector := [], vecPoison := none }

/-- A workgroup is made from an image that no saved workgroup stands behind, as one more that its launch has sent out;
a thread that was saved as waiting goes on at its PC. (DESIGN CHOICE, log entry 100.) -/
def State.adopt (s : State) (l : Launch) (base : Nat) : State × Workgroup :=
  let n := s.nextWg
  let rec_ := base + s.imageField base 0x30 8
  let count (i : Nat) : Nat := s.memNat (rec_ + 0x230 + 2 * i) 2
  let copies := s.imageList rec_ 0x238 (count 0) 32
  let tasks := s.imageList rec_ (0x238 + 32 * count 0) (count 1) 64
  let core := s.imageField base 6 2 % Config.cores
  let w0 := freshWorkgroup n l.num core (s.imageField base 0x10 4) (s.imageField base 0x14 4) s.nextNum l.teams 0
    l.scratchBytes
  let d : Desk := { launch := l, wg := some w0, viewer := none, core := core }
  let recs := tasks.filterMap (fun r => match s.taskCheck d false false [] r with
    | .good q => some (taskQueue r, q)
    | .bad _ => none)
  let found := (groupProgress copies []).filterMap (s.imageCopy d)
  let w := { w0 with
    place := .saved (base - hbmBase), bound := bitAt (s.imageField base 5 1) 1, leftAt := s.dcycle,
    savedRecs := recs ++ (found.drop 1).map (fun c => (5, c.1)), paused := found.head?.map (pausedCopy w0.scrKey) }
  let ctxs := (List.range (32 * l.teams)).map (fun t => freshCtx n t l.entry 0 0)
  let teams := (List.range l.teams).map (fun i => freshTeam n i 0 0 l.startRegs)
  (({ s with ctxs := s.ctxs ++ ctxs, teams := s.teams ++ teams, wgs := s.wgs ++ [w], nextWg := n + 1,
             nextNum := s.nextNum + 1 } : State).onLaunch l.num (fun l => { l with sent := l.sent + 1 }), w)

/-- The workgroup that an image's restore brings back: the one saved there, else the saved one whose image this is a
copy of, else one made from the image. (DESIGN CHOICE, log entry 100.) -/
def State.behind (s : State) (base : Nat) : Option (State × Workgroup) :=
  match s.launch? (s.imageField base 8 8) with
  | none => none
  | some l =>
    let at_ := base - hbmBase
    match s.wgs.find? (fun w => w.place == .saved at_) with
    | some w => some (s, w)
    | none =>
      let copied (w : Workgroup) : Bool := w.launch == l.num && w.visit == s.imageField base 0x14 4 && (match w.place with
        | .saved _ => true
        | _ => false)
      match s.wgs.find? copied with
      | some w =>
        let s := match w.place with
          | .saved a => s.freeImage a
          | _ => s
        some (s.onWg w.num (fun w => { w with place := .saved at_ }), { w with place := .saved at_ })
      | none => some (s.adopt l base)

/-- A saved workgroup has its turn (R62): it waits for no retirement; of those of its launch that a retirement has let
return it is the earliest in dispatch order, and the dispatcher has seen what left (R24). -/
def State.mayReturn (s : State) (w : Workgroup) : Bool :=
  !w.ousted && !s.leftNow w &&
    (!w.called || s.wgs.all (fun v => v.launch != w.launch ||
      !(s.leftNow v || (v.called && v.place != .resident && decide (v.visit < w.visit)))))

/-- WORKGROUP_RESTORE (R62): not before the retirement that a workgroup waits for. -/
def execWorkgroupRestore (wg : Nat) (s : State) : Out :=
  .next (match s.wg? wg, s.launchOf? wg with
    | some w, some l =>
      if !s.mayReturn w || l.status != 0 || !s.mapped l.queue ||
          !(l.maxres == 0 || decide ((s.seatedOf l.num).length < l.maxres)) then s
      else (s.restoreWg l w).getD s
    | _, _ => s)

/-! ### The stall rule (R61) -/

/-- A thread is parked on a translation fault (R61, R148): what it is to issue next waits for the replay of a faulted access,
whose window is used up, whose destination it touches, or behind which it is held. (DEDUCED, log entry 53.) -/
def State.parkedNow (s : State) (c : Ctx) : Bool :=
  let faulted := c.inflight.filter Flight.isParked
  faulted.any (fun f => decide (f.since ≥ f.look)) ||
    (match s.ahead c with
      | .got g => (match g.what with
        | some i =>
          let p := effPfx (shape i (g.pfx.getD Pfx.none)) g.pfx
          let x := shape i p
          faulted.any (touches i x p c) || (fate x p c.regs == .acts && s.parkBars i p c)
        | none => false)
      | _ => false)

/-- A thread is blocked (R61): at a rendezvous, or at a wait without which it cannot go on, and not parked. (DEDUCED, log
entry 53.) -/
def State.blocked (s : State) (c : Ctx) : Bool :=
  c.atRendezvous ||
    (c.status == .running && c.inflight.any Flight.isWait && !s.parkedNow c &&
      !(match s.ahead c with
        | .got f => s.ready c f
        | _ => false))

/-- The dispatcher counts for a launch: undispatched workgroups remain, and every thread of its resident workgroups is
blocked. (DEDUCED, log entry 53.) -/
def State.stalls (s : State) (l : Launch) : Bool :=
  let ws := s.residentOf l.num
  l.remains && !ws.isEmpty && ws.all (fun w => (s.liveOfWg w.num).all s.blocked)

/-- A thread of a launch is halted (R245). -/
def State.halts (s : State) (l : Launch) : Bool :=
  (s.wgs.filter (fun w => w.launch == l.num)).any (fun w => (s.liveOfWg w.num).any (fun c => match c.status with
    | .halted _ => true
    | _ => false))

/-- The count of the stall rule in one dispatcher cycle. (DEDUCED, log entry 53.) -/
def State.countStall (s : State) (l : Launch) : Launch :=
  if s.stalls l && !s.halts l then { l with stall := l.stall + 1 } else l

/-- The resident workgroups that the stall rule may pre-empt (R61, R248, R249, R255). -/
def State.stallCands (s : State) (l : Launch) : List Workgroup :=
  (s.residentOf l.num).filter (fun w => s.movable w && (s.saveRoom l w).isSome)

/-- The stall rule has passed over a workgroup for want of room for its image (R255): one that it would have taken before the
workgroup that it takes. -/
def State.passedOver (s : State) (l : Launch) : Bool :=
  let taken := firstBy (fun a b => decide (a.visit > b.visit)) (s.stallCands l)
  (s.residentOf l.num).any (fun w => s.movable w && (s.saveRoom l w).isNone && taken.all (fun t => decide (w.visit > t.visit)))

/-- GRID_STALL (R61). -/
def execGridStall (n : Nat) (s : State) : Out :=
  .next (match s.launch? n with
    | none => s
    | some l =>
      if l.stall < 65536 ∨ !s.stalls l then s
      else if !l.yieldok then s.failLaunch n statusGRID_STALL
      else
        let taken := firstBy (fun a b => decide (a.visit > b.visit)) (s.stallCands l)
        let s := if s.passedOver l then s.onHead l.queue (fun h => { h with qerr := qerrSAVEFULL }) else s
        match taken with
        | none => s.failLaunch n statusGRID_STALL
        | some w =>
          ((s.onLaunch n (fun l => { l with stall := 0 })).onWg w.num (fun w => { w with ousted := true })).orderOff w.num)

/-! ### Rotation (R63) -/

/-- A queue has work while its last doorbell value exceeds HEAD (R265), or a launch of it waits at its head, which HEAD counts
already (R64). -/
def State.hasWork (s : State) (q : Nat) : Bool := decide ((s.queue q).head < (s.queue q).doorbell) || s.headWaits q

/-- A launch of a queue is unfinished. -/
def State.hasGrids (s : State) (q : Nat) : Bool := s.launches.any (fun l => l.queue == q && l.phase != .finished)

/-- Registered queues of a kind that are none of some, in ascending order after a queue, wrapping. -/
def State.queuesAfter (s : State) (sel : Nat → Bool) (kept : List Nat) (last : Nat) : List Nat :=
  let l := (s.queues.map Prod.fst).filter (fun q => sel q && !kept.contains q)
  l.filter (fun q => decide (q > last)) ++ l.filter (fun q => decide (q ≤ last))

/-- The queues with work that hold none of some slots, in the order of R63. -/
def State.waitingQueues (s : State) (kept : List Nat) (last : Nat) : List Nat := s.queuesAfter s.hasWork kept last

/-- The queues without work whose grids wait for a slot, which take slots that no queue with work takes. (DESIGN CHOICE,
log entry 95.) -/
def State.strandedQueues (s : State) (kept : List Nat) (last : Nat) : List Nat :=
  s.queuesAfter (fun q => s.hasGrids q && !s.hasWork q) kept last

/-- The slots filled one after another with the queues that wait. -/
def fillSlots : List Nat → List Nat → List (Nat × Nat)
  | i :: is, q :: qs => (i, q) :: fillSlots is qs
  | _, _ => []

/-- Every slot has passed a pre-emption point since the period began; one whose queue runs nothing stands at one. -/
def State.periodOver (s : State) : Bool :=
  s.slots.all (fun e => e.2.passed || !(s.launches.any (fun l => l.queue == e.2.queue && l.phase == .started)))

/-- A queue's descriptor with the fields that the part writes as they are now (R263). -/
def HostQueue.descNow (h : HostQueue) : List Byte :=
  let d := h.reg.getD []
  d.take 0x40 ++ leBytes 8 h.head ++ leBytes 4 h.qerr ++ (d.drop 0x4C).take 52

/-- Queues take slots: their descriptors are copied, that of slot s to the start of core s's system area (R263).
(DEDUCED, log entry 59.) (DESIGN CHOICE, log entry 113.) -/
def State.mapQueues (s : State) (l : List (Nat × Nat)) (full : Bool) : State :=
  l.foldl (fun s e =>
    let desc := ((s.queue e.2).reg).getD []
    let s := { s with
      slots := Table.set s.slots e.1 { queue := e.2, passed := false, full := full }, rotLast := e.2,
      mem := cellsWrite s.mem (slabKey e.1 Config.systemArea) (s.queue e.2).descNow }
    s.onQueue e.2 (fun h => { h with desc := h.reg, trace := fieldAt desc 0x30 8 != 0 })) s

/-- The empty slots. -/
def State.emptySlots (s : State) : List Nat :=
  (List.range Config.queueSlots).filter (fun i => !(s.slots.any (fun e => e.1 == i)))

/-- The slots as a new period begins (R63): those that keep their queue, and the queues that take slots. A queue keeps its
slot if it has work and has held it for less than a full period; every other slot goes to the next queue with work, the
empty slots first; where none takes it, its queue stays while its grids are unfinished. (DESIGN CHOICE, log entry 95.) -/
def State.rotated (s : State) : List (Nat × QSlot) × List (Nat × Nat) :=
  let kept := s.slots.filter (fun e => s.hasWork e.2.queue && !e.2.full)
  let others := s.slots.filter (fun e => !(s.hasWork e.2.queue && !e.2.full))
  let free := s.emptySlots ++ others.map Prod.fst
  let new := fillSlots free (s.waitingQueues (kept.map (fun e => e.2.queue)) s.rotLast)
  let stay := others.filter (fun e => s.hasGrids e.2.queue && !(new.any (fun n => n.1 == e.1 || n.2 == e.2.queue)))
  let held := (kept ++ stay).map (fun e => e.2.queue) ++ new.map Prod.snd
  let left := free.filter (fun i => !(new.any (fun n => n.1 == i)) && !(stay.any (fun e => e.1 == i)))
  (kept ++ stay, new ++ fillSlots left (s.strandedQueues held s.rotLast))

/-- QUEUE_ROTATION: at the end of a period the slots are assigned anew; before it, empty slots take queues with work.
The grids of a queue that loses its slot are pre-empted first. -/
def execQueueRotation (s : State) : Out :=
  .next (
    if s.periodOver then
      let r := s.rotated
      let losing (q : Nat) : Bool := s.mapped q && !(r.1.any (fun e => e.2.queue == q)) && !(r.2.any (fun e => e.2 == q))
      let leaving := s.wgs.filter (fun w => w.place == .resident && (match s.launch? w.launch with
        | some l => losing l.queue && l.status == 0
        | none => false))
      if leaving.isEmpty then
        let keep (e : Nat × QSlot) : Nat × QSlot := (e.1, { e.2 with passed := false, full := true })
        ({ s with slots := r.1.foldl (fun t e => Table.set t (keep e).1 (keep e).2) [] } : State).mapQueues r.2 true
      else (leaving.filter (fun w => s.movable w && !s.rotationWaits w)).foldl (fun s w =>
        s.orderOff w.num) s
    else
      let held := s.slots.map (fun e => e.2.queue)
      s.mapQueues (fillSlots s.emptySlots (s.waitingQueues held s.rotLast ++ s.strandedQueues held s.rotLast)) false)

/-! ### Migration and frequency (R256, R257) -/

/-- Every thread of a workgroup that is at a barrier is at the same one. -/
def State.oneBarrier (s : State) (wg : Nat) : Bool :=
  let at_ := (s.liveOfWg wg).flatMap (fun c => c.inflight.filterMap (fun f => match f.what with
    | .bar n _ => some n
    | _ => none))
  at_.all (fun n => some n == at_.head?)

/-- A Hod copy of a workgroup is outstanding. -/
def State.hodOpen (s : State) (wg : Nat) : Bool := (s.recsOf wg).any (fun r => taskKind r.rcd == kindHOD)

/-- A workgroup at a boundary is saved and restored on another core, or stays where it is. -/
def State.migrate (s : State) (wg core : Nat) : State :=
  let t := s.save wg
  match t.wg? wg, t.launchOf? wg with
  | some x, some l =>
    (match x.place with
      | .saved a => (t.restoreOn l x (hbmBase + a) core).getD s
      | _ => t)
  | _, _ => s

/-- THERMAL_MIGRATION of a whole workgroup: its forks are resolved first (R213); it goes once it is quiet. (DEDUCED, log
entry 67.) -/
def execThermalMigration (wg core : Nat) (s : State) : Out :=
  .next (match s.wg? wg with
    | none => s
    | some w =>
      if s.movable w && !w.bound && decide (core < Config.cores) && core != w.core && s.oneBarrier wg && !s.hodOpen wg then
        let s := s.settleWg wg
        if s.atBoundary wg && s.enginesQuiet w then s.migrate wg core else s
      else s)

/-- The frequencies of a core in MHz (R272). -/
def frequencyOk (mhz : Nat) : Bool := decide (800 ≤ mhz) && decide (mhz ≤ 1700) && mhz % 100 == 0

/-- FREQUENCY_CHANGE: while every workgroup of the core is held at a pre-emption point (R257). (DESIGN CHOICE, log
entry 78.) -/
def execFrequencyChange (core mhz : Nat) (s : State) : Out :=
  .next (
    if decide (core < Config.cores) && frequencyOk mhz &&
        (s.wgs.filter (fun w => w.place == .resident && w.core == core)).all (fun w => s.atBoundary w.num) then
      s.onCore core (fun c => { c with mhz := mhz })
    else s)

end Sys2Proof.Machine
end

