-- ==== Sys2Proof/Machine/Collective.lean ====
section
/-!
DEFINITION. Sys2Proof/Machine/Collective.lean: collectives (R193 to R195), one-sided Span traffic (R23, R268, R269),
acknowledgements (R238), and the host's memory window (R266).
-/
namespace Sys2Proof.Machine

/-! ### Sending chunks (R193, R194) -/

/-- The configuration of a communicator. -/
def State.comm? (s : State) (k : Nat) : Option Comm := Table.find s.comms k

/-- This device's rank in a communicator (R271). -/
def State.rankIn (s : State) (c : Comm) : Option Nat :=
  match s.devnum with
  | some d => (List.range c.members.length).find? (fun i => c.members.getD i 0xFFF == d)
  | none => none

/-- The tier whose collective engine serves a link (R23). -/
def linkTier (link : Nat) : Nat := link / 12

/-- A chunk is ready: what its workgroup wrote is visible, and its started tasks have ended. One that another engine has
read is. -/
def State.chunkReady (s : State) (c : CollChunk) : Bool :=
  c.hop.isSome ||
  !(s.stores.any (fun p => p.src.isNone || (match p.src with
      | some id => id.wg == c.wg
      | none => false))) &&
    !(s.cores.any (fun e => e.2.running.any (fun r => r.2.rcd.owner == some c.wg)))

/-- Two communicators in the order of R193: the higher priority first, among equals the next after the last served. -/
def State.commBefore (s : State) (tier : Nat) (a b : CollChunk) : Bool :=
  let prio (c : CollChunk) : Nat := ((s.comm? c.msg.comm).map Comm.priority).getD 0
  let turn (c : CollChunk) : Nat := (c.msg.comm + 15 - Table.get s.collLast 15 tier) % 16
  if prio a ≠ prio b then decide (prio a > prio b) else decide (turn a < turn b)

/-- The chunk that a tier's engine takes next. -/
def State.nextChunk (s : State) (tier : Nat) : Option CollChunk :=
  firstBy (s.commBefore tier) (s.collOut.filter (fun c => c.tier == tier && s.chunkReady c))

/-- The bytes of a chunk: the rows that its workgroup sent to the streaming port, else its source (R194). What rows do
not fill is free (DESIGN CHOICE, log entry 9), what they hold beyond the chunk is dropped (DESIGN CHOICE, log entry
121). -/
def State.chunkBytesOf (s : State) (c : CollChunk) : List Byte :=
  let stream := ((s.wg? c.wg).map Workgroup.stream).getD []
  if stream.isEmpty then cellsRead s.mem c.src c.msg.size
  else (stream ++ (List.range (c.msg.size - stream.length)).map (fun i => Config.unfilled c.wg (stream.length + i))).take
    c.msg.size

/-- The offsets of a chunk's poisoned units: of its source, or of the rows of the streaming port (R155, R181). -/
def State.chunkBad (s : State) (c : CollChunk) : List Nat :=
  let stream := ((s.wg? c.wg).map Workgroup.stream).getD []
  if stream.isEmpty then
    ((List.range (c.msg.size / 32 + 1)).map (fun i => 32 * i)).filter (fun o =>
      decide (o < c.msg.size) && (firstPoison s.poison (c.src + o) (min 32 (c.msg.size - o))).isSome)
  else
    ((((s.wg? c.wg).map Workgroup.streamBad).getD []).map (fun o => o / 32 * 32)).eraseDups.filter (fun o =>
      decide (o < c.msg.size))

/-! ### Results (R195) -/

/-- The 32-byte units of a written range that a list of offsets names are poisoned. -/
def State.poisonUnits (s : State) (key : Nat) (bad : List Nat) : State :=
  { s with poison := ((bad.map (fun o => poisonUnit (key + o))).eraseDups.filter (fun u => !s.poison.contains u)) ++ s.poison }

/-- Result bytes are written in blocks of 256 bytes, each one write; a block outside what slab has below its system
areas, in an owned buffer (R134) or in an object that a launch holds (R74), is not written. Fuel counts blocks. (DEDUCED,
log entry 89.) -/
def State.writeResult (s : State) (key : Nat) (bad : List Nat) : Nat → List Byte → State
  | 0, _ => s
  | fuel + 1, bytes =>
    let s := if isSlabKey key ∧ slabRangeFree key 256 ∧ !s.touchesHeld key 256 ∧ !s.handleBars none key 256 then
        (s.homeStore key (bytes.take 256) false).poisonUnits key (bad.filter (fun o => decide (o < 256)))
      else s
    s.writeResult (key + 256) ((bad.filter (fun o => decide (256 ≤ o))).map (fun o => o - 256)) fuel (bytes.drop 256)

/-- The elements of a reduction: FP32 sums, BF16 sums, FP32 greatest. -/
def collSize (op : Nat) : Nat := if op = 1 then 2 else 4
def collElem (op a b : Nat) : Nat :=
  if op = 2 then redElem 3 4 a b else if op = 1 then redElem 2 2 a b else redElem 1 4 a b

/-- Two chunks combined element by element; fuel counts elements. -/
def collCombine (op : Nat) : Nat → List Byte → List Byte → List Byte
  | 0, _, _ => []
  | fuel + 1, a, b =>
    let n := collSize op
    leBytes n (collElem op (leNat (a.take n)) (leNat (b.take n))) ++ collCombine op fuel (a.drop n) (b.drop n)

/-- Chunks combined in the order of a list. -/
def collFold (op size : Nat) : List CollMsg → List Byte
  | [] => []
  | m :: ms => ms.foldl (fun a x => collCombine op (size / collSize op) a x.bytes) m.bytes

/-- The launch of this device on a communicator (R195): the latest that names it, a finished one too. (DESIGN CHOICE,
log entry 122.) -/
def State.launchOn (s : State) (k : Nat) : Option Launch := s.launches.reverse.find? (fun l => l.communicator == k)

/-- A chunk that is discarded and counted by the clerk. -/
def State.chunkRefused (s : State) (m : CollMsg) : Bool :=
  match s.comm? m.comm with
  | none => true
  | some c =>
    decide (m.rank ≥ c.members.length) || m.size == 0 || m.size % 256 != 0 || m.bytes.length != m.size || decide (m.op > 4) ||
      (match s.launchOn m.comm with
        | some l => l.collOp != m.op || l.chunkBytes != m.size
        | none => false) ||
      decide (m.num ≥ c.resultLen / (if m.op = 3 then c.members.length * m.size else m.size))

/-- The waiting chunks of a communicator's chunk number, the oldest of each rank, in ascending rank. (DESIGN CHOICE,
log entry 61.) -/
def State.gathered (s : State) (c : Comm) (m : CollMsg) : List CollMsg :=
  (List.range c.members.length).filterMap (fun r =>
    s.collIn.find? (fun x => x.comm == m.comm && x.num == m.num && x.rank == r))

/-- A chunk arrives at this device's collective engine, from a link or from its own launch. (DESIGN CHOICE, log entry
61.) -/
def State.chunkArrive (s : State) (m : CollMsg) : State :=
  if s.chunkRefused m then s.clerkCount clerkChunk
  else
    match s.comm? m.comm with
    | none => s
    | some c =>
      let put (s : State) (at_ : Nat) (bad : List Nat) (bytes : List Byte) : State :=
        s.writeResult (c.result + at_) bad (m.size / 256) bytes
      match m.op with
      | 3 => put s ((m.num * c.members.length + m.rank) * m.size) m.bad m.bytes
      | 4 => if m.rank = c.root then put s (m.num * m.size) m.bad m.bytes else s
      | _ =>
        let s := { s with collIn := s.collIn ++ [m] }
        let l := s.gathered c m
        if l.length < c.members.length then s
        else
          put { s with collIn := l.foldl (fun q x => q.erase x) s.collIn } (m.num * m.size)
            (l.flatMap CollMsg.bad).eraseDups (collFold m.op m.size l)

/-- A chunk goes to a member over the link of its route: the engine puts it there where it serves the link, and passes it
to the other tier's engine where that one does (R23). -/
def State.sendTo (tier launch wg src : Nat) (m : CollMsg) (s : State) (dev : Nat) : State :=
  match Table.find s.routes dev with
  | none => s
  | some e =>
    if linkTier e.1 = tier then { s with linkOut := s.linkOut ++ [.chunk e.1 m.comm dev s.ownDev m] }
    else
      { s with collOut := s.collOut ++
          [{ hop := some (e.1, dev), tier := linkTier e.1, launch := launch, wg := wg, src := src, msg := m }] }

/-- A tier's engine takes a chunk of its launches, sends it to every other member, and combines it with the members' own.
-/
def State.takeChunk (s : State) (c : CollChunk) : State :=
  let bytes := s.chunkBytesOf c
  let bad := s.chunkBad c
  let s := s.onLaunch c.launch (fun l => { l with chunks := l.chunks - 1 })
  match s.comm? c.msg.comm with
  | none => s.clerkCount clerkChunk
  | some k =>
    match s.rankIn k with
    | none => s.clerkCount clerkChunk
    | some r =>
      let m := { c.msg with rank := r, bytes := bytes, bad := bad }
      ((k.members.filter (fun d => some d != s.devnum)).foldl (State.sendTo c.tier c.launch c.wg c.src m) s).chunkArrive m

/-- A tier's engine serves a chunk: one that the other tier's engine has passed on goes out on its link. -/
def State.sendChunk (s : State) (c : CollChunk) : State :=
  let s := { s with collOut := s.collOut.erase c, collLast := Table.set s.collLast c.tier c.msg.comm }
  match c.hop with
  | some h => { s with linkOut := s.linkOut ++ [.chunk h.1 c.msg.comm h.2 s.ownDev c.msg] }
  | none => s.takeChunk c

/-- COLLECTIVE_CHUNK_SEND. -/
def execCollectiveChunkSend (tier : Nat) (s : State) : Out :=
  .next (match s.nextChunk tier with
    | some c => s.sendChunk c
    | none => s)

/-- COLLECTIVE_CHUNK_ARRIVAL: a device without a number discards what arrives (R269). -/
def execCollectiveChunkArrival (m : CollMsg) (s : State) : Out := .next (if s.devnum.isNone then s else s.chunkArrive m)

/-! ### One-sided Span traffic (R268, R269) -/

/-- The key that a packet names on this device. -/
def State.packetKey (s : State) (p : SpanPkt) : Option Nat :=
  if p.slab then s.localSlab p.addr else if hbmValid p.addr then some (hbmBase + p.addr) else none

/-- The bytes that a packet reads or writes. -/
def spanBytes : SpanOp → Nat
  | .store bytes _ => bytes.length
  | .load size => size
  | .atomic _ size _ _ => size
  | .reduce _ _ bytes => bytes.length

/-- How a device answers a packet for a key: it does it, it refuses it with a protection cause, or, where nothing lies
there, it does nothing. The system areas (R127) and the objects that a launch holds (R74) are refused with SLAB, the owned
buffers (R134) with HANDLE. (DESIGN CHOICE, log entry 62.) -/
inductive PacketFate where
  | served
  | refused (cause : Nat)
  | nowhere
  deriving DecidableEq, Repr

/-- The fate of a packet at a key. (DESIGN CHOICE, log entry 62.) -/
def State.packetFate (s : State) (k : Nat) (op : SpanOp) : PacketFate :=
  let n := spanBytes op
  let held := match op with
    | .load _ => false
    | _ => s.touchesHeld k n
  if s.handleBars none k n then .refused causeHANDLE
  else if isSlabKey k then (if slabRangeFree k n && !held then .served else .refused causeSLAB)
  else if hbmValid (k - hbmBase + n - 1) then .served
  else .nowhere

/-- An answer leaves for the device that a packet came from; bad marks poisoned bytes (R155). -/
def State.answerTo (s : State) (p : SpanPkt) (bytes : List Byte) (bad : Bool) : State :=
  match Table.find s.routes p.src with
  | some e => { s with linkOut := s.linkOut ++ [.answer e.1 e.2 p.src s.ownDev p.tag bytes bad] }
  | none => s

/-- A refusal leaves for the device that a packet came from (R134). (DESIGN CHOICE, log entry 62.) -/
def State.refuseTo (s : State) (p : SpanPkt) (cause : Nat) : State :=
  match Table.find s.routes p.src with
  | some e => { s with linkOut := s.linkOut ++ [.refusal e.1 e.2 p.src s.ownDev p.tag cause] }
  | none => s

/-- What a packet does at its home controller: poisoned bytes poison their units, and an atomic on a poisoned unit is not
performed (R155). A reduction that covers a whole poisoned unit stores what it combines, and clears the poison. (DESIGN
CHOICE, log entry 127.) -/
def State.serve (s : State) (k : Nat) (op : SpanOp) : State :=
  match op with
  | .store bytes poisoned => s.homeStore k bytes poisoned
  | .load _ => s
  | .atomic code n y expect =>
    if (firstPoison s.poison k n).isSome then s
    else s.homeStore k (leBytes n (atomicNew code n (s.memNat k n) y expect).1) false
  | .reduce code size bytes => s.homeStore k (redBytes s.mem code size (bytes.length / size) k bytes) false

/-- A packet is answered with the bytes that it reads. -/
def readsSpan : SpanOp → Bool
  | .load _ => true
  | .atomic _ _ _ _ => true
  | _ => false

/-- SPAN_ONE_SIDED_ARRIVAL: a write is acknowledged, a load or atomic is answered with the bytes that it found; what may not
be done is refused. (DESIGN CHOICE, log entry 62.) -/
def execSpanOneSidedArrival (p : SpanPkt) (s : State) : Out :=
  .next (if s.devnum != some p.dev then s
    else
      let n := if readsSpan p.op then spanBytes p.op else 0
      match s.packetKey p with
      | none => s.answerTo p (List.replicate n 0) false
      | some k =>
        match s.packetFate k p.op with
        | .served => (s.serve k p.op).answerTo p (cellsRead s.mem k n) (firstPoison s.poison k n).isSome
        | .refused cause => s.refuseTo p cause
        | .nowhere => s.answerTo p (List.replicate n 0) false)

/-- The device that traffic is for. -/
def trafficDest : SpanTraffic → Nat
  | .oneSided p => p.dev
  | .answer _ dev _ _ _ _ => dev
  | .refusal _ dev _ _ _ => dev
  | .chunk dev _ _ => dev
  | .returned p => p.src
  | .returnedAnswer _ dev _ => dev
  | .returnedChunk dev _ => dev

/-- Traffic leaves on a link, on its own channel. -/
def trafficOut (link : Nat) : SpanTraffic → LinkOut
  | .oneSided p => .oneSided link p.comm p
  | .answer chan dev src tag bytes bad => .answer link chan dev src tag bytes bad
  | .refusal chan dev src tag cause => .refusal link chan dev src tag cause
  | .chunk dev src m => .chunk link m.comm dev src m
  | .returned p => .unreach link p.comm p
  | .returnedAnswer chan dev tag => .backAnswer link chan dev tag
  | .returnedChunk dev m => .backChunk link m.comm dev m

/-- Traffic that meets an invalid entry turns back to the device that it came from (R269); what is on its way back already
does not turn again. -/
def turnBack : SpanTraffic → Option SpanTraffic
  | .oneSided p => some (.returned p)
  | .answer chan _ src tag _ _ => some (.returnedAnswer chan src tag)
  | .refusal chan _ src tag _ => some (.returnedAnswer chan src tag)
  | .chunk _ src m => some (.returnedChunk src m)
  | _ => none

/-- SPAN_FORWARD: traffic for another device goes on over this device's route, or goes back (R269). (DESIGN CHOICE, log
entry 62.) -/
def execSpanForward (t : SpanTraffic) (s : State) : Out :=
  let go (t : SpanTraffic) : Option State :=
    (Table.find s.routes (trafficDest t)).map (fun e => { s with linkOut := s.linkOut ++ [trafficOut e.1 t] })
  .next (if s.devnum.isNone ∨ s.devnum = some (trafficDest t) then s
    else ((go t).orElse (fun _ => (turnBack t).bind go)).getD s)

/-- A returned write that has left the store path completes as a fault with reason UNREACH (R144, R269); a record is written
for it, where a thread of its source is left. (DESIGN CHOICE, log entry 63.) -/
def State.unreached (s : State) (p : PendingWrite) : State :=
  let t := { s with acks := s.acks.filter (fun e => e.num != p.num) }
  match (p.src.map s.storers).getD [] with
  | [] => t
  | c :: _ =>
    let team := p.src.any (fun id => id.lvl == 1)
    let r : FaultReq :=
      { addr := p.addr, pc := p.ins.1, mask := if team then 0 else 1#32 <<< c.lane, reason := reasonUNREACH,
        agent := if team then 1 else 0, teamSlot := s.teamSlot c.id.wg c.team, access := accStore,
        level := s.levelOf c.id.wg p.addr.toNat, launch := ((s.wg? c.id.wg).map Workgroup.launch).getD 0, who := [],
        hod := false, resolved := false }
    t.postFaults (s.coreOf c) [r]

/-- An outstanding access whose packet has a name: its context, its instruction and itself. -/
def Ctx.asking (c : Ctx) (tag : Nat) : Option (Ctx × Flight × Access × Bool) :=
  c.inflight.findSome? (fun f => match f.what with
    | .access a u => if a.asked = some tag then some (c, f, a, u) else none
    | _ => none)

/-- What the name of a packet stands for on the device that it came from. -/
inductive Asker where
  | write (p : PendingWrite)
  | access (c : Ctx) (f : Flight) (a : Access) (uniform : Bool)
  | copied (e : HodSent)                             -- a write of an engine
  | copying (core engine : Nat) (x : Running) (addr : Nat)  -- a read of a running task
  | done (p : PendingWrite)                          -- a performed write that is not acknowledged
  | nothing
  deriving DecidableEq, Repr

/-- The running task of a core that has asked under a name. -/
def copyAsking (tag : Nat) (e : Nat × Core) : Option Asker :=
  e.2.running.findSome? (fun r => (r.2.asked.find? (fun a => a.1 == tag)).map (fun a => .copying e.1 r.1 r.2 a.2))

/-- What the name of a packet stands for. -/
def State.asker (s : State) (tag : Nat) : Asker :=
  match s.stores.find? (fun q => q.num == tag && q.sent), s.ctxs.findSome? (fun c => c.asking tag),
      s.hodSent.find? (fun e => e.num == tag), s.cores.findSome? (copyAsking tag), s.acks.find? (fun e => e.num == tag) with
  | some q, _, _, _, _ => .write q
  | none, some (c, f, a, u), _, _, _ => .access c f a u
  | none, none, some e, _, _ => .copied e
  | none, none, none, some k, _ => k
  | none, none, none, none, some e => .done e
  | none, none, none, none, none => .nothing

/-- An access has not been sent: its packet has gone for nothing. -/
def State.unask (s : State) (c : Ctx) (f : Flight) (uniform : Bool) : State :=
  (s.holders c uniform).foldl (fun s id => s.setAccess id f.num (fun a => { a with asked := none })) s

/-- A task that waits for answers to its reads asks for them again. -/
def Running.unask (x : Running) : Running := { x with asked := [] }

/-- A write of an engine has come back: it is to be sent again. A copy stops at a fault with reason UNREACH (R144, R175,
R269), a Loom or Quarry task goes on (R182). (DESIGN CHOICE, log entry 63.) (DESIGN CHOICE, log entry 116.) -/
def State.lostWrite (s : State) (e : HodSent) : State :=
  let t := { s with hodSent := s.hodSent.map (fun x => if x.num = e.num then { x with lost := true } else x) }
  match (Table.find (t.core e.core).running 5).filter (fun x => e.engine == 5 && !x.parked) with
  | some x => t.hodFault e.core x e.addr accEngineWrite reasonUNREACH (t.walkLevel (t.recRoot x.rcd) e.addr)
  | none => t

/-- A read of an engine has come back: a copy stops at a fault with reason UNREACH (R144, R175, R269), a Loom or Quarry task
asks again (R182). (DESIGN CHOICE, log entry 116.) -/
def State.lostRead (s : State) (core engine : Nat) (x : Running) (addr : Nat) : State :=
  let t := s.onRunning core engine Running.unask
  if engine = 5 then t.hodFault core x.unask addr accEngineRead reasonUNREACH (t.walkLevel (t.recRoot x.rcd) addr) else t

/-- SPAN_RETURN_UNREACH: the write, load, atomic or copy that the packet came from completes as a fault with reason UNREACH
(R144, R269); a continuation's access is sent again, or waits for the fork's end (R207). (DESIGN CHOICE, log entry 63.) -/
def execSpanReturnUnreach (p : SpanPkt) (s : State) : Out :=
  .next (if s.devnum != some p.src then s
    else
      match s.asker p.tag with
      | .write q => s.loseWrite q
      | .access c f a u =>
        if c.id.lvl ≠ 0 then s.unask c f u
        else s.loseAccess c f a u (match a.op with
          | .atomic _ _ _ => accAtomic
          | _ => accLoad)
      | .copied e => s.lostWrite e
      | .copying core engine x addr => s.lostRead core engine x addr
      | .done q => s.unreached q
      | .nothing => s)

/-- A write of an engine stands at its home on another device once it is acknowledged (R238, R268). -/
def State.hodStands (s : State) (e : HodSent) : State :=
  let bytes := homeBytes s.mem e.key e.op
  ({ s with mem := cellsWrite s.mem e.key bytes, poison := poisonAfter s.poison e.key bytes.length e.op.poisoned,
            hodSent := s.hodSent.filter (fun x => x.num != e.num) } : State).unmark e.key bytes.length

/-- SPAN_ACKNOWLEDGEMENT: the write of a name is acknowledged (R238). -/
def execSpanAcknowledgement (num : Nat) (s : State) : Out :=
  .next (match s.hodSent.find? (fun e => e.num == num && !e.lost) with
    | some e => s.hodStands e
    | none => { s with acks := s.acks.filter (fun e => e.num != num) })

/-- An access that its home refuses traps at its holders (R134, R150); a continuation's waits for the fork's end (R207). -/
def State.trapAccess (s : State) (c : Ctx) (f : Flight) (a : Access) (uniform : Bool) (cause : Nat) : State :=
  if c.id.lvl ≠ 0 then s.unask c f uniform
  else (s.holders c uniform).foldl (fun s id =>
    ((s.failFlight id f.num cause a.addr).replayDone (s.coreOf c) id f.num).settle id) s

/-- The home device of a packet refuses what it asks for, with HANDLE or with SLAB (R74, R134): a write or an access traps
at its thread, and an engine's task is refused. (DEDUCED, log entry 89.) -/
def State.refuseRemote (s : State) (tag : Nat) (handle : Bool) : State :=
  let cause := if handle then causeHANDLE else causeSLAB
  match s.asker tag with
  | .write q => s.trapWrite q cause
  | .access c f a u => s.trapAccess c f a u cause
  | .copied e =>
    ({ s with hodSent := s.hodSent.filter (fun x => x.num != e.num) } : State).onRunning e.core e.engine (fun x =>
      x.refused e.addr e.op.size (e.engine == 5))
  | .copying core engine _ addr =>
    s.onRunning core engine (fun x => if engine = 5 then x.unask.refused addr 0 true else x.refused addr 0 false)
  | .done _ => s
  | .nothing => s

/-! ### The host's window (R266) -/

/-- Bytes of the window. -/
def windowBytes : Nat := 8 * 2 ^ 36

/-- Some byte of a range of the window lies in no stack. -/
def holeIn (addr n : Nat) : Bool :=
  (List.range 8).any (fun i => decide (max addr (i * 2 ^ 36 + Config.stackBytes) < min (addr + n) ((i + 1) * 2 ^ 36)))

/-- HOST_MEM_READ: bytes of no stack read as zero, and the clerk counts the access. -/
def execHostMemRead (addr size : Nat) (s : State) : Out :=
  .next (if addr + size > windowBytes then s
    else
      let byte (i : Nat) : Byte := if hbmValid (addr + i) then cellRead s.mem (hbmBase + addr + i) else 0
      let s := { s with hostData := (List.range size).map byte,
                        hostPoison := (firstPoison s.poison (hbmBase + addr) size).isSome }
      if holeIn addr size then s.clerkCount clerkHole else s)

/-- The part of a host write that falls into one stack. (DEDUCED, log entry 73.) -/
def State.hostPut (addr : Nat) (bytes : List Byte) (poisoned : Bool) (s : State) (i : Nat) : State :=
  let lo := max addr (i * 2 ^ 36)
  let hi := min (addr + bytes.length) (i * 2 ^ 36 + Config.stackBytes)
  if lo < hi then s.homeStore (hbmBase + lo) ((bytes.drop (lo - addr)).take (hi - lo)) poisoned else s

/-- HOST_MEM_WRITE: bytes of no stack are discarded, and the clerk counts the access. -/
def execHostMemWrite (addr : Nat) (bytes : List Byte) (poisoned : Bool) (s : State) : Out :=
  .next (if addr + bytes.length > windowBytes then s
    else
      let s := (List.range 8).foldl (State.hostPut addr bytes poisoned) s
      if holeIn addr bytes.length then s.clerkCount clerkHole else s)

end Sys2Proof.Machine
end

