-- ==== Sys2Proof/Machine/Sign.lean ====
section
/-!
DEFINITION. Sys2Proof/Machine/Sign.lean: Ed25519, with which R273 signs a measurement report: the curve
−x² + y² = 1 + d·x²·y² of the field of 2^255 − 19, its base point, and the signature of a message.
-/
namespace Sys2Proof.Machine

/-! ### The field -/

def edP : Nat := 2 ^ 255 - 19

/-- The order of the base point. -/
def edOrder : Nat := 2 ^ 252 + 27742317777372353535851937790883648493

def edAdd (a b : Nat) : Nat := (a + b) % edP
def edSub (a b : Nat) : Nat := (a + edP - b % edP) % edP
def edMul (a b : Nat) : Nat := a * b % edP

/-- A power; the exponent has at most as many bits as the fuel. -/
def edPow : Nat → Nat → Nat → Nat
  | 0, _, _ => 1
  | fuel + 1, a, e =>
    let r := edPow fuel (edMul a a) (e / 2)
    if e % 2 = 1 then edMul a r else r

/-- The inverse of a nonzero number. -/
def edInv (a : Nat) : Nat := edPow 255 a (edP - 2)

/-- The curve's d. -/
def edD : Nat := 37095705934669439343138083508754565189542113879843219016388785533085940283555

/-! ### The curve -/

/-- A point as X, Y, Z and T with x = X/Z, y = Y/Z, xy = T/Z. -/
structure EdPoint where
  x : Nat
  y : Nat
  z : Nat
  t : Nat
  deriving DecidableEq, Repr

def edZero : EdPoint := { x := 0, y := 1, z := 1, t := 0 }

/-- The base point. -/
def edBase : EdPoint :=
  let x := 15112221349535400772501151409588531511454012693041857206046113283949847762202
  let y := 46316835694926478169428394003475163141307993866256225615783033603165251855960
  { x := x, y := y, z := 1, t := edMul x y }

/-- The sum of two points. -/
def edSum (p q : EdPoint) : EdPoint :=
  let a := edMul (edSub p.y p.x) (edSub q.y q.x)
  let b := edMul (edAdd p.y p.x) (edAdd q.y q.x)
  let c := edMul (edMul 2 p.t) (edMul edD q.t)
  let d := edMul (edMul 2 p.z) q.z
  let e := edSub b a
  let f := edSub d c
  let g := edAdd d c
  let h := edAdd b a
  { x := edMul e f, y := edMul g h, z := edMul f g, t := edMul e h }

/-- A multiple of a point; the factor has at most as many bits as the fuel. -/
def edScale : Nat → EdPoint → Nat → EdPoint
  | 0, _, _ => edZero
  | fuel + 1, p, n =>
    let r := edScale fuel (edSum p p) (n / 2)
    if n % 2 = 1 then edSum p r else r

/-- A point's 32 bytes: y, and the lowest bit of x on top. -/
def edBytes (p : EdPoint) : List Byte :=
  let i := edInv p.z
  leBytes 32 (edMul p.y i + 2 ^ 255 * (edMul p.x i % 2))

/-! ### Keys and signatures -/

/-- The SHA-512 digest of bytes, as 64 bytes in order. -/
def shaBytes (msg : List Byte) : List Byte := (leBytes 64 (sha512 msg).toNat).reverse

/-- The secret factor of a private key. -/
def edFactor (key : List Byte) : Nat := leNat ((shaBytes key).take 32) % 2 ^ 254 / 8 * 8 + 2 ^ 254

/-- The public key of a private key, 32 bytes. -/
def edPublic (key : List Byte) : List Byte := edBytes (edScale 256 edBase (edFactor key))

/-- The signature of a message under a private key, 64 bytes. -/
def edSign (key msg : List Byte) : List Byte :=
  let r := leNat (shaBytes ((shaBytes key).drop 32 ++ msg)) % edOrder
  let rr := edBytes (edScale 256 edBase r)
  let k := leNat (shaBytes (rr ++ edPublic key ++ msg)) % edOrder
  rr ++ leBytes 32 ((r + k * edFactor key) % edOrder)

end Sys2Proof.Machine
end

