-- ==== Sys2Proof/Machine/Mailbox.lean ====
section
/-!
DEFINITION. Sys2Proof/Machine/Mailbox.lean: the commands of the clerk's mailbox (R267): queues (R263), invalidation
(R141), bindings, budgets (R49), the token pool (R26), the power limit, communicators (R271), restore (R254), the debug
interface (R245, R246), error counts (R154), measurement (R273), reload (R274), the device number and routes (R269).
-/
namespace Sys2Proof.Machine

/-! ### Answers -/

def mbOK : Nat := 0
def mbBUSY : Nat := 1
def mbBADFIELD : Nat := 2
def mbDENIED : Nat := 3

/-- The mailbox answers a command. -/
def State.reply (s : State) (status : Nat) : State := { s with mboxStatus := status }

/-- The mailbox answers a command with data. -/
def State.replyData (s : State) (data : List Byte) : State := { s with mboxStatus := mbOK, mboxData := data }

/-- A command reaches the mailbox: it is answered BUSY while another runs, and DENIED while no firmware runs (R267,
R274). -/
def State.command (s : State) (go : State → State) : State :=
  if s.mailbox.isSome then s.reply mbBUSY
  else if !s.running then s.reply mbDENIED
  else go s

/-- A launch that has not finished. -/
def Launch.unfinished (l : Launch) : Bool := l.phase != .finished

/-! ### Queues -/

/-- A power of two from 1 to 65,536. -/
def ringCount (n : Nat) : Bool := (List.range 17).any (fun i => n == 2 ^ i)

/-- A queue descriptor breaks R263. (DESIGN CHOICE, log entry 92.) -/
def descBad (d : List Byte) : Bool :=
  d.length != 128 || fieldAt d 0x00 8 % 64 != 0 || !ringCount (fieldAt d 0x08 4) || decide (fieldAt d 0x0C 4 ≥ 8) ||
    fieldAt d 0x10 8 % 2048 != 0 || fieldAt d 0x18 8 % 16 != 0 || fieldAt d 0x20 8 % 256 != 0 ||
    fieldAt d 0x30 8 % 32 != 0 ||
    (fieldAt d 0x30 8 != 0 && (fieldAt d 0x38 8 % 32 != 0 || decide (fieldAt d 0x38 8 < 64))) || nonzero d 0x4C 52

/-- A queue holds a slot with an unfinished launch. -/
def State.queueBusy (s : State) (q : Nat) : Bool :=
  s.mapped q && s.launches.any (fun l => l.queue == q && l.unfinished)

/-- QREG: the queue is mapped anew, with the new descriptor (DEDUCED, log entry 59); BUSY comes first, and a queue number
or a descriptor that breaks R263 is answered BADFIELD and registers nothing. (DESIGN CHOICE, log entry 92.) The
descriptor's bytes come with the command and stand as they are then until the queue is mapped. (DESIGN CHOICE, log entry
113.) -/
def execQreg (q : Nat) (desc : List Byte) (s : State) : Out :=
  .next (s.command (fun s =>
    if s.queueBusy q then s.reply mbBUSY
    else if q ≥ Config.hostQueues ∨ descBad desc then s.reply mbBADFIELD
    else
      let head := fieldAt desc 0x40 8
      (({ s with slots := s.slots.filter (fun e => e.2.queue != q) } : State).onQueue q (fun h =>
        { h with reg := some desc, head := head, doorbell := head, qerr := fieldAt desc 0x48 4 })).reply mbOK))

/-- Every launch of a list ends with ABORTED (R60). -/
def State.abortAll (s : State) (l : List Launch) : State := l.foldl (fun s l => s.failLaunch l.num statusABORTED) s

/-- QABORT; a queue number of 4096 or more is answered BADFIELD. (DESIGN CHOICE, log entry 111.) -/
def execQabort (q : Nat) (s : State) : Out :=
  .next (s.command (fun s =>
    if q ≥ Config.hostQueues then s.reply mbBADFIELD
    else
      let s := s.abortAll (s.launches.filter (fun l => l.queue == q && l.depth == 1 && l.unfinished && l.status == 0))
      (s.onHead q (fun h => { h with head := max h.head h.doorbell })).reply mbOK))

/-! ### Translations (R141) -/

/-- INVALIDATE: the command runs until INVALIDATE_COMPLETE. -/
def execInvalidate (addr size : Nat) (s : State) : Out :=
  .next (s.command (fun s => { s with mailbox := some 3, invalidating := some (addr, size) }))

/-- An outstanding access to translated memory of a range. -/
def Flight.translatedIn (f : Flight) (addr size : Nat) : Bool :=
  match f.what with
  | .access a _ => overlaps a.addr.toNat a.size addr size
  | _ => false

/-- An outstanding QGEMV task uses a page of a range. -/
def QRec.pinsIn (r : QRec) (addr size : Nat) : Bool :=
  taskKind r.rcd == kindQGEMV && overlaps (fieldAt r.desc 0 8 / 65536 * 65536)
    ((fieldAt r.desc 0 8 % 65536 + quarryBytes r.desc + 65535) / 65536 * 65536) addr size

/-- A saved workgroup's task record or a held firing's pins a page of a range. -/
def Workgroup.pinsIn (w : Workgroup) (addr size : Nat) : Bool :=
  w.place != .retired &&
    (w.savedRecs.any (fun r => r.2.pinsIn addr size) || w.heldFirings.any (fun h => h.2.rcd.any (fun r => r.pinsIn addr size)))

/-- Nothing already translated with an entry of a range is outstanding, and no QGEMV task pins a page of it: none in a
queue, on its way, running, saved, or waiting at an armed counter. -/
def State.quiescent (s : State) (addr size : Nat) : Bool :=
  !(s.ctxs.any (fun c => c.inflight.any (fun f => f.translatedIn addr size))) &&
    !(s.stores.any (fun p => !isSlabKey p.key && p.parked.isNone)) &&
    !(s.forks.any (fun f => f.buffer.any (fun b => !isSlabKey b.key))) &&
    !(s.chunks.any (fun h => (chunkRuns h.parts).any (fun r => !isSlabKey r.1))) && s.hodSent.isEmpty &&
    !(s.cores.any (fun e => e.2.running.any (fun r => !r.2.asked.isEmpty))) &&
    !(s.wgs.any (fun w => w.pinsIn addr size)) &&
    !(s.keystones.any (fun e => (e.2.armed || e.2.pending) && e.2.rcd.any (fun r => r.pinsIn addr size))) &&
    !(s.cores.any (fun e => e.2.queues.any (fun q => q.2.any (fun r => r.pinsIn addr size)) ||
      e.2.coming.any (fun r => r.pinsIn addr size) || e.2.running.any (fun r => r.2.rcd.pinsIn addr size)))

/-- INVALIDATE_COMPLETE. -/
def execInvalidateComplete (s : State) : Out :=
  .next (match s.invalidating with
    | none => s
    | some (addr, size) =>
      if s.quiescent addr size then
        ({ s with tlb := s.tlb.filter (fun t => !overlaps t.page t.size addr size), mailbox := none,
                  invalidating := none } : State).reply mbOK
      else s)

/-! ### Settings -/

/-- CLEARBIND. -/
def execClearbind (s : State) : Out := .next (s.command (fun s => { s with bindings := [] }.reply mbOK))

/-- SETBUDGET (R49): BADFIELD outside its range and for a core that does not exist. (DESIGN CHOICE, log entry 120.) -/
def execSetbudget (cores : List Nat) (budget : Nat) (s : State) : Out :=
  .next (s.command (fun s =>
    if budget < 16 ∨ budget > 255 ∨ cores.any (fun k => decide (k ≥ Config.cores)) then s.reply mbBADFIELD
    else (cores.foldl (fun s k => s.onCore k (fun c => { c with budget := budget })) s).reply mbOK))

/-- SETPOOL (R26): BADFIELD outside its range. (DESIGN CHOICE, log entry 120.) -/
def execSetpool (n : Nat) (s : State) : Out :=
  .next (s.command (fun s => if n > Config.tokens then s.reply mbBADFIELD else { s with pool := n }.reply mbOK))

/-- SETCAP (R272): BADFIELD outside its range. (DESIGN CHOICE, log entry 120.) -/
def execSetcap (watts : Nat) (s : State) : Out :=
  .next (s.command (fun s =>
    if watts < 600 ∨ watts > 2800 then s.reply mbBADFIELD else { s with cap := watts }.reply mbOK))

/-! ### Communicators (R271) -/

/-- A member list in host memory. -/
def State.memberList (s : State) (addr n : Nat) : List Nat :=
  (List.range n).map (fun i => s.memNat (hostBase + addr + 2 * i) 2)

/-- A record breaks R271. Of the member list only this device's own place is looked at: a number above 0xFFE, or one that stands
there twice, breaks nothing. (DESIGN CHOICE, log entry 131.) -/
def State.commBad (s : State) (k : Nat) (r : List Byte) : Bool :=
  let m := fieldAt r 0 2
  decide (k > 15) || r.length != 64 || m == 0 || decide (m > 4095) || decide (fieldAt r 2 1 > 7) || nonzero r 3 1 ||
    decide (fieldAt r 4 2 ≥ m) || nonzero r 6 2 || fieldAt r 16 8 % 256 != 0 || decide (fieldAt r 16 8 > 4 * 2 ^ 20) ||
    (s.localSlab (fieldAt r 24 8)).isNone || fieldAt r 24 8 % 256 != 0 || fieldAt r 32 8 % 256 != 0 || nonzero r 40 24 ||
    ((s.memberList (fieldAt r 8 8) m).filter (fun d => some d == s.devnum)).length != 1

/-- COMMCFG. (DEDUCED, log entry 64.) -/
def execCommcfg (k : Nat) (rcd : List Byte) (s : State) : Out :=
  .next (s.command (fun s =>
    if k ≤ 15 ∧ s.launches.any (fun l => l.communicator == k && l.unfinished) then s.reply mbBUSY
    else if s.commBad k rcd then s.reply mbBADFIELD
    else
      let c : Comm :=
        { members := s.memberList (fieldAt rcd 8 8) (fieldAt rcd 0 2), priority := fieldAt rcd 2 1, root := fieldAt rcd 4 2,
          buffer := fieldAt rcd 16 8, result := (s.localSlab (fieldAt rcd 24 8)).getD 0, resultLen := fieldAt rcd 32 8 }
      { s with comms := Table.set s.comms k c }.reply mbOK))

/-! ### RESTORE (R254) -/

/-- A workgroup that the driver restores: at once where a core admits it, else as soon as one does. -/
def State.driverRestore (s : State) (w : Workgroup) : State :=
  match s.launch? w.launch with
  | none => s
  | some l => (s.restoreWg l w).getD (s.onWg w.num (fun w => { w with ousted := false, called := false }))

/-- RESTORE. (DEDUCED, log entry 57.) -/
def execRestore (addr : Nat) (s : State) : Out :=
  .next (s.command (fun s =>
    match s.imageStatus (hbmBase + addr), s.behind (hbmBase + addr) with
    | 0, some r => (r.1.driverRestore r.2).reply mbOK
    | n, _ => s.reply n))

/-! ### DEBUG (R245, R246) -/

/-- The threads that a debug command names. -/
def State.debugSel (s : State) (sel : DebugSel) (id : CtxId) : Bool :=
  match sel with
  | .grid l => (match s.wg? id.wg with
    | some w => w.launch == l
    | none => false)
  | .workgroup w => id.wg == w
  | .thread w t => id.wg == w && id.tix == t

/-- A debug halt (R245), OK where it names no thread. (DEDUCED, log entry 81.) (DESIGN CHOICE, log entry 120.) -/
def execDebugHalt (sel : DebugSel) (s : State) : Out :=
  .next (s.command (fun s => (s.requestHalts false (s.debugSel sel)).reply mbOK))

/-- A halted thread goes on; the image of a saved one says so. -/
def State.resumeThread (s : State) (c : Ctx) : State :=
  match c.status with
  | .halted pc =>
    ((s.trace c 3 pc).onCtx c.id (fun c =>
      { c with status := .running, pc := pc, nested := c.haltReq && c.inHandler })).patchSaved c.id
      (fun x => (0, if bitAt x.2 1 && !(c.haltReq && c.inHandler) then x.2 - 2 else x.2))
  | _ => s

/-- A debug resume (R245), OK where it names no thread. (DESIGN CHOICE, log entry 120.) -/
def execDebugResume (sel : DebugSel) (s : State) : Out :=
  .next (s.command (fun s => ((s.ctxs.filter (fun c => s.debugSel sel c.id)).foldl State.resumeThread s).reply mbOK))

/-- Breakpoint halting is enabled for a launch (R246); BADFIELD where it does not exist. (DESIGN CHOICE, log entry
120.) -/
def execDebugBreakpointEnable (launch : Nat) (s : State) : Out :=
  .next (s.command (fun s =>
    if (s.launch? launch).isNone then s.reply mbBADFIELD
    else (s.onLaunch launch (fun l => { l with bkptHalt := true })).reply mbOK))

/-- HALT.force of the debug interface: a handler does not hold it. -/
def execDebugHaltForce (wg tix : Nat) (s : State) : Out :=
  .next (s.command (fun s => (s.requestHalts true (fun id => id.wg == wg && id.tix == tix)).reply mbOK))

/-! ### Counts, measurement, firmware -/

/-- ERRCOUNT: the corrected errors of each structure of R154, in the order of its table, 8 bytes each. (DESIGN
CHOICE, log entry 110.) -/
def execErrcount (s : State) : Out :=
  .next (s.command (fun s => s.replyData ((List.range 6).flatMap (fun i => leBytes 8 (Table.get s.corrected 0 i)))))

/-- Bytes of a number, the highest first. -/
def beBytes (n x : Nat) : List Byte := (leBytes n x).reverse

/-- The digest of the firmware image (R273). -/
def State.digest (s : State) : BitVec 512 :=
  match s.firmware with
  | some image => sha512 image
  | none => Config.firmwareDigest

/-- The device identity key's bytes. -/
def identityBytes : List Byte := leBytes 32 Config.identityKey.toNat

/-- The last 64 bytes of a measurement report: the signature over the rest, or for a zero nonce the public key. (DESIGN
CHOICE, log entry 97.) -/
def reportTail (nonce msg : List Byte) : List Byte :=
  if leNat nonce = 0 then edPublic identityBytes ++ List.replicate 32 0 else edSign identityBytes msg

/-- MEASURE (R273): a zero nonce returns the public key in the signature's place. -/
def execMeasure (nonce : List Byte) (s : State) : Out :=
  .next (s.command (fun s =>
    if nonce.length ≠ 32 then s.reply mbBADFIELD
    else
      let msg := nonce ++ beBytes 64 s.digest.toNat ++ leBytes 8 Config.serial.toNat
      s.replyData (msg ++ reportTail nonce msg)))

/-- The images of saved workgroups are freed (R255). -/
def State.freeImages (s : State) : State :=
  s.wgs.foldl (fun s w => match w.place with
    | .saved a => s.freeImage a
    | _ => s) s

/-- A pending write, parked ones apart, reaches its home. -/
def State.finishWrite (s : State) (p : PendingWrite) : State :=
  if p.parked.isSome || s.touchesHeld p.key p.op.size || s.handleHolds p then s
  else if isRemoteKey p.key && !p.sent then (if s.reaches (remoteDev p.key) then (s.sendWrite p).perform p else s)
  else s.perform p

/-- Every unfinished launch has ended ABORTED and written its completion record. (DESIGN CHOICE, log entry 65.) -/
def State.endLaunches (s : State) : State :=
  let s := s.stores.foldl State.finishWrite s
  let s := s.chunks.foldl State.landParts s
  let s := s.abortAll (s.launches.filter (fun l => l.unfinished && l.status == 0))
  ((s.launches.filter Launch.unfinished).foldl State.finishGrid s).freeImages

/-- A core whose slab slice has been cleared. -/
def Core.cleared (c : Core) : Core :=
  { c with queues := [], coming := [], running := [], l1 := [], faultNext := 0, faultSeq := 0, faultsWaiting := [], faultsOut := [],
           handles := [], spill := [], stops := [] }

/-- What a reload clears (R269, R274). -/
def State.clearWork (s : State) : State :=
  { s with
    ctxs := [], forks := [], teams := [], wgs := s.wgs.map (fun w => { w with place := .retired }), stores := [],
    chunks := [], hodSent := [], fits := [], got := [], releases := [], seen := [], acks := [], bindings := [], keystones := [],
    slots := [], collOut := [], collIn := [], devnum := none, routes := [],
    mem := s.mem.filter (fun c => !isSlabKey c.1), poison := s.poison.filter (fun u => !isSlabKey u),
    marks := s.marks.filter (fun m => !isSlabKey m.key),
    cores := s.cores.map (fun e => (e.1, e.2.cleared)) }

/-- RELOAD (R274): the mailbox takes it with or without firmware. (DESIGN CHOICE, log entry 65.) -/
def execReload (image : List Byte) (startable : Bool) (s : State) : Out :=
  .next (if s.mailbox.isSome then s.reply mbBUSY
    else { s.endLaunches.clearWork with firmware := some image, running := startable }.reply mbOK)

/-! ### Device number and routes (R269) -/

/-- DEVNUM: BUSY comes before BADFIELD. (DEDUCED, log entry 112.) -/
def execDevnum (arg : List Byte) (s : State) : Out :=
  .next (s.command (fun s =>
    if s.launches.any Launch.unfinished then s.reply mbBUSY
    else if arg.length ≠ 16 ∨ fieldAt arg 0 2 ≥ 0xFFF ∨ nonzero arg 2 14 then s.reply mbBADFIELD
    else { s with devnum := some (fieldAt arg 0 2) }.reply mbOK))

/-- A route entry that may be written. -/
def routeOk (e : Nat) : Bool :=
  !bitAt e 31 || (decide (bitsAt e 4 0 ≤ 23) && bitsAt e 30 12 == 0 && bitsAt e 7 5 == 0)

/-- One entry of the route table. -/
def State.setRoute (s : State) (dev e : Nat) : State :=
  if bitAt e 31 then { s with routes := Table.set s.routes dev (bitsAt e 4 0, bitsAt e 11 8) }
  else { s with routes := Table.erase s.routes dev }

/-- ROUTES: all entries, or none. (DEDUCED, log entry 64.) -/
def execRoutes (arg : List Byte) (s : State) : Out :=
  .next (s.command (fun s =>
    let f := fieldAt arg 0 2
    let n := fieldAt arg 2 2
    let entry (i : Nat) : Nat := s.memNat (hostBase + fieldAt arg 8 8 + 4 * i) 4
    if arg.length ≠ 16 ∨ n = 0 ∨ n > 4096 ∨ f + n > 4096 ∨ nonzero arg 4 4 ∨
        !((List.range n).all (fun i => routeOk (entry i))) then s.reply mbBADFIELD
    else ((List.range n).foldl (fun s i => s.setRoute (f + i) (entry i)) s).reply mbOK))

/-- A command of a code that R267 does not list. -/
def execMailboxOtherCode (code : Nat) (s : State) : Out :=
  .next (s.command (fun s => if 1 ≤ code ∧ code ≤ 15 then s else s.reply mbBADFIELD))

end Sys2Proof.Machine
end

