-- ==== Sys2Proof/Machine/Power.lean ====
section
/-!
DEFINITION. Sys2Proof/Machine/Power.lean: reset (R249, R273), power gating (R198), power capping (R272), storage errors
(R154, R155), instruction cache fills (R32, R301), and replay capture (R262).
-/
namespace Sys2Proof.Machine

/-! ### Reset -/

/-- RESET: the machine as reset leaves it. What the host and other devices hold, and HBM, is no state that reset
clears; the firmware image stays, and the boot ROM measures it and starts it as before. (DEDUCED, log entry 66.) -/
def execReset (s : State) : Out :=
  let outside (k : Nat) : Bool := isHbmKey k || isHostKey k || isRemoteKey k
  .next { State.reset with
    mem := s.mem.filter (fun c => outside c.1), poison := s.poison.filter outside, firmware := s.firmware,
    running := s.running, agenda := s.agenda }

/-! ### Power gating (R198) -/

/-- The upper core of a tier pair. -/
def upperCore (core : Nat) : Bool := decide (96 ≤ core) && decide (core < Config.cores)

/-- POWER_GATE: an upper core that holds no workgroup; the entries of both FIFOs are spilled first. (DEDUCED, log
entry 67.) (DESIGN CHOICE, log entry 78.) (DEDUCED, log entry 80.) -/
def execPowerGate (core : Nat) (s : State) : Out :=
  let spill (c : Core) : Core := { c with spill := c.spill ++ c.fifo, fifo := [] }
  .next (if upperCore core && !(s.core core).gated && (s.roomOf core).isEmpty then
      (s.onCore (partnerOf core) spill).onCore core (fun c => { spill c with gated := true })
    else s)

/-- POWER_UP: the saved entries return in order. (DEDUCED, log entry 80.) -/
def execPowerUp (core : Nat) (s : State) : Out :=
  let fill (c : Core) : Core := { c with fifo := c.spill ++ c.fifo, spill := [] }
  .next (if (s.core core).gated then
      (s.onCore (partnerOf core) fill).onCore core (fun c => { fill c with gated := false })
    else s)

/-! ### Power capping (R272) -/

/-- The part stands at its lowest settings: no tokens, 3 grants and 0.8 GHz on every core. -/
def State.lowest (s : State) : Bool :=
  s.pool == 0 && (List.range Config.cores).all (fun k => (s.core k).grantsG == 3 && (s.core k).mhz == 800)

/-- POWER_CAPPING: the clerk sets the token pool and the read grants; where the lowest settings do not hold the limit,
and it asks for them again, a thermal alert is raised. -/
def execPowerCapping (pool grants : Nat) (s : State) : Out :=
  .next (if pool > Config.tokens ∨ grants < 3 ∨ grants > 12 then s
    else
      let alert := s.lowest && pool == 0 && grants == 3
      let t := (List.range Config.cores).foldl (fun s k => s.onCore k (fun c => { c with grantsG := grants })) s
      { t with pool := pool, alert := alert })

/-! ### Storage errors (R154, R155) -/

/-- The place of a structure in the table of R154. -/
def siteIndex : ErrSite → Nat
  | .register _ _ => 0
  | .slab _ => 1
  | .accum _ => 2
  | .l1 _ _ => 3
  | .icache _ _ _ => 4
  | .hbm _ => 5

/-- A unit of memory becomes poisoned. -/
def State.poisonOne (s : State) (k : Nat) : State :=
  if s.poison.contains (poisonUnit k) then s else { s with poison := poisonUnit k :: s.poison }

/-- An uncorrectable error. -/
def State.hardError (s : State) (e : ErrSite) : State :=
  match e with
  | .register id r =>
    s.onCtx id (fun c => { c with regs := { c.regs with poison := c.regs.poison ||| (1#64 <<< r.toNat) } })
  | .slab k => if isSlabKey k then s.poisonOne k else s
  | .accum k => if isAccKey k then s.poisonOne k else s
  | .hbm k => if isHbmKey k then s.poisonOne k else s
  | .l1 core line => s.dropL1 core line 1
  | .icache core part addr =>
    s.onPart core part (fun p => { p with icache := p.icache.filter (fun e => e.2.1 != addr) })

/-- SOFT_ERROR: a correctable error is corrected and counted. -/
def execSoftError (site : ErrSite) (correctable : Bool) (s : State) : Out :=
  .next (if correctable then
      { s with corrected := Table.set s.corrected (siteIndex site) (Table.get s.corrected 0 (siteIndex site) + 1) }
    else s.hardError site)

/-! ### Instruction cache fills (R32, R301) -/

/-- The threads of a partition whose launches differ, one for each launch. -/
def State.fillers (s : State) (core part : Nat) : List Ctx :=
  (s.partCtxs core part).foldl (fun l c =>
    if l.any (fun d => ((s.launchOf? d.id.wg).map Launch.num) == ((s.launchOf? c.id.wg).map Launch.num)) then l
    else l ++ [c]) []

/-- A word of a thread's launch enters the instruction cache, as the launch's start left it or as it stands; of a full
cache the word that has been there longest goes (R14). A word of another device is asked for on its route (R268). (DEDUCED, log entry 51.) -/
def State.fillWord (s : State) (core part addr : Nat) (fresh : Bool) (c : Ctx) : State :=
  let n := ((s.launchOf? c.id.wg).map Launch.num).getD 0
  match s.memoryWord c (BitVec.ofNat 64 addr) fresh with
  | .word w =>
    if (s.part core part).icache.any (fun e => e.1 == n && e.2.1 == addr) then s
    else
      (s.onPart core part (fun p => { p with icache := ((n, addr, w) :: p.icache).take Config.icacheWords })).fetchFar
        (s.codeRoot c) addr 4
  | _ => s

/-- A word enters the instruction cache for the threads of a partition. -/
def State.fillCache (s : State) (core part addr : Nat) (fresh : Bool) : State :=
  (s.fillers core part).foldl (fun s c => s.fillWord core part addr fresh c) s

/-- INSTRUCTION_CACHE_FILL (R32), with the word that the launch's start left; the one that stands there now comes by a
move of its own (R301). (DEDUCED, log entry 51.) -/
def execInstructionCacheFill (core part addr : Nat) (s : State) : Out := .next (s.fillCache core part addr false)

/-! ### Replay capture (R262) -/

/-- A region that a capture session may name. -/
def regionOk (r : Nat × Nat) : Bool := r.1 % 256 == 0 && r.2 % 256 == 0

/-- CAPTURE_SESSION_START: the regions are copied to the capture area, in HBM. (DEDUCED, log entry 68.) -/
def execCaptureSessionStart (regions : List (Nat × Nat)) (area : Nat) (s : State) : Out :=
  .next (if regions.length > 16 ∨ !(regions.all regionOk) then s
    else
      { s.homeStore (hbmBase + area) (s.regionBytes regions) false with
        capture := some { area := area, regions := regions, packets := [], digests := [], replay := none, starts := [],
                          stage := none } })

/-- The regions take their bytes back from the capture area, which holds them one after another. -/
def State.restoreRegions (s : State) : Nat → List (Nat × Nat) → State
  | _, [] => s
  | at_, r :: rs => (s.homeStore (s.regionKey r.1) (cellsRead s.mem at_ r.2) false).restoreRegions (at_ + r.2) rs

/-- The capture session after a change. -/
def State.onCapture (s : State) (g : Capture → Capture) : State := { s with capture := s.capture.map g }

/-- A replay ends: with the index of the first launch whose digest differs, or with none. -/
def State.endReplay (s : State) (r : Option Nat) : State := s.onCapture (fun c => { c with replay := some r, stage := none })

/-- A replay submits a recorded launch: its record is read and checked as that of a packet. -/
def State.resubmit (s : State) (i : Nat) (x : Nat × Nat × Word) : State :=
  let n := s.nextLaunch
  let shell (rcd : List Byte) : Launch := Launch.ofRecord n x.2.2 rcd x.2.1 1 none none (s.readGrants x.2.1) []
  match s.deskRead { launch := shell [], wg := none, viewer := none, core := 0 } x.2.2.toNat 512 64 with
  | .got rcd =>
    let r := s.checkLaunch none (shell rcd)
    let s := (s.fetchFar (s.ptRoot x.2.1) x.2.2.toNat 512).fetchHeader r.2
    if r.1 = 0 then (s.acceptLaunch r.2).onCapture (fun c => { c with stage := some (i, some n) })
    else (s.refuseLaunch r.2 r.1).endReplay (some i)
  | _ => s.endReplay (some i)

/-- A replay goes on after a launch that has finished: its digest is compared with the recorded one. -/
def State.compareDigest (s : State) (c : Capture) (i : Nat) (x : Nat × Nat × Word) : State :=
  let old := (c.digests.find? (fun d => d.1 == x.1)).map Prod.snd
  if old = some (sha512 (s.regionBytes c.regions)) then
    if i + 1 < c.starts.length then s.onCapture (fun c => { c with stage := some (i + 1, none) }) else s.endReplay none
  else s.endReplay (some i)

/-- CAPTURE_REPLAY: a replay begins once no launch is unfinished, and takes its next step. (DEDUCED, log entry 68.) -/
def execCaptureReplay (s : State) : Out :=
  .next (match s.capture with
    | none => s
    | some c =>
      match c.stage with
      | none =>
        if s.launches.any Launch.unfinished then s
        else
          let s := s.restoreRegions (hbmBase + c.area) c.regions
          if c.starts.isEmpty then s.endReplay none
          else s.onCapture (fun c => { c with stage := some (0, none), replay := none })
      | some (i, none) =>
        (match c.starts[i]? with
          | some x => s.resubmit i x
          | none => s.endReplay none)
      | some (i, some n) =>
        (match s.launch? n, c.starts[i]? with
          | some l, some x => if l.unfinished then s else s.compareDigest c i x
          | _, _ => s.endReplay (some i)))

end Sys2Proof.Machine
end

