-- ==== Sys2Proof/Machine/Dispatch.lean ====
section
/-!
DEFINITION. Sys2Proof/Machine/Dispatch.lean: one arm for each row of spec/opcode_table.json, each a call of its
meaning.
-/
namespace Sys2Proof.Machine

/-- The outcome of an instruction or event at a state. -/
def exec (i : Instr) (s : State) : Host.Outcome State Fault Refusal :=
  match i with
  -- lane ALU pipe (R287)
  | .nop f => Sys2Proof.Machine.execNop f s
  | .add f => Sys2Proof.Machine.execAdd f s
  | .sub f => Sys2Proof.Machine.execSub f s
  | .mul f => Sys2Proof.Machine.execMul f s
  | .mulh f => Sys2Proof.Machine.execMulh f s
  | .mad f => Sys2Proof.Machine.execMad f s
  | .min f => Sys2Proof.Machine.execMin f s
  | .max f => Sys2Proof.Machine.execMax f s
  | .and f => Sys2Proof.Machine.execAnd f s
  | .or f => Sys2Proof.Machine.execOr f s
  | .xor f => Sys2Proof.Machine.execXor f s
  | .shl f => Sys2Proof.Machine.execShl f s
  | .shr f => Sys2Proof.Machine.execShr f s
  | .sar f => Sys2Proof.Machine.execSar f s
  | .rot f => Sys2Proof.Machine.execRot f s
  | .clz f => Sys2Proof.Machine.execClz f s
  | .popc f => Sys2Proof.Machine.execPopc f s
  | .brev f => Sys2Proof.Machine.execBrev f s
  | .abs f => Sys2Proof.Machine.execAbs f s
  | .neg f => Sys2Proof.Machine.execNeg f s
  | .not f => Sys2Proof.Machine.execNot f s
  | .cmp f => Sys2Proof.Machine.execCmp f s
  | .sel f => Sys2Proof.Machine.execSel f s
  | .bfx f => Sys2Proof.Machine.execBfx f s
  | .bfi f => Sys2Proof.Machine.execBfi f s
  | .bsrd f => Sys2Proof.Machine.execBsrd f s
  | .mov f => Sys2Proof.Machine.execMov f s
  | .movs f => Sys2Proof.Machine.execMovs f s
  | .addi f => Sys2Proof.Machine.execAddi f s
  | .andi f => Sys2Proof.Machine.execAndi f s
  | .ori f => Sys2Proof.Machine.execOri f s
  | .xori f => Sys2Proof.Machine.execXori f s
  | .shli f => Sys2Proof.Machine.execShli f s
  | .shri f => Sys2Proof.Machine.execShri f s
  | .sari f => Sys2Proof.Machine.execSari f s
  | .roti f => Sys2Proof.Machine.execRoti f s
  | .acq f => Sys2Proof.Machine.execAcq f s
  | .rel f => Sys2Proof.Machine.execRel f s
  | .cmpi f => Sys2Proof.Machine.execCmpi f s
  | .movi f => Sys2Proof.Machine.execMovi f s
  | .fadd f => Sys2Proof.Machine.execFadd f s
  | .fsub f => Sys2Proof.Machine.execFsub f s
  | .fmul f => Sys2Proof.Machine.execFmul f s
  | .ffma f => Sys2Proof.Machine.execFfma f s
  | .fmin f => Sys2Proof.Machine.execFmin f s
  | .fmax f => Sys2Proof.Machine.execFmax f s
  | .fcmp f => Sys2Proof.Machine.execFcmp f s
  | .fcvt f => Sys2Proof.Machine.execFcvt f s
  | .frnd f => Sys2Proof.Machine.execFrnd f s
  | .fscl f => Sys2Proof.Machine.execFscl f s
  | .idp8 f => Sys2Proof.Machine.execIdp8 f s
  | .idp4 f => Sys2Proof.Machine.execIdp4 f s
  | .fdp8 f => Sys2Proof.Machine.execFdp8 f s
  | .fdp4 f => Sys2Proof.Machine.execFdp4 f s
  -- lane long-latency pipe (R287)
  | .fdiv f => Sys2Proof.Machine.execFdiv f s
  | .frcp f => Sys2Proof.Machine.execFrcp f s
  | .frsq f => Sys2Proof.Machine.execFrsq f s
  | .fsqrt f => Sys2Proof.Machine.execFsqrt f s
  | .fex2 f => Sys2Proof.Machine.execFex2 f s
  | .flg2 f => Sys2Proof.Machine.execFlg2 f s
  | .fsin f => Sys2Proof.Machine.execFsin f s
  | .fcos f => Sys2Proof.Machine.execFcos f s
  | .rnd f => Sys2Proof.Machine.execRnd f s
  | .rndf f => Sys2Proof.Machine.execRndf f s
  | .ld f => Sys2Proof.Machine.execLd f s
  | .st f => Sys2Proof.Machine.execSt f s
  | .atomw f => Sys2Proof.Machine.execAtomw f s
  | .atomd f => Sys2Proof.Machine.execAtomd f s
  | .acas f => Sys2Proof.Machine.execAcas f s
  | .asput f => Sys2Proof.Machine.execAsput f s
  | .shfl f => Sys2Proof.Machine.execShfl f s
  | .netmv f => Sys2Proof.Machine.execNetmv f s
  | .voteAll f => Sys2Proof.Machine.execVoteAll f s
  | .voteAny f => Sys2Proof.Machine.execVoteAny f s
  | .voteBallot f => Sys2Proof.Machine.execVoteBallot f s
  | .lred f => Sys2Proof.Machine.execLred f s
  | .bra f => Sys2Proof.Machine.execBra f s
  | .brx f => Sys2Proof.Machine.execBrx f s
  | .call f => Sys2Proof.Machine.execCall f s
  | .callf f => Sys2Proof.Machine.execCallf f s
  | .ret f => Sys2Proof.Machine.execRet f s
  | .jmpr f => Sys2Proof.Machine.execJmpr f s
  | .exit f => Sys2Proof.Machine.execExit f s
  | .trap f => Sys2Proof.Machine.execTrap f s
  | .tret f => Sys2Proof.Machine.execTret f s
  | .yield f => Sys2Proof.Machine.execYield f s
  | .bkpt f => Sys2Proof.Machine.execBkpt f s
  | .bar f => Sys2Proof.Machine.execBar f s
  | .waitt f => Sys2Proof.Machine.execWaitt f s
  | .ffrt f => Sys2Proof.Machine.execFfrt f s
  | .waita f => Sys2Proof.Machine.execWaita f s
  | .fenceRel f => Sys2Proof.Machine.execFenceRel f s
  | .fenceAcq f => Sys2Proof.Machine.execFenceAcq f s
  | .fenceFull f => Sys2Proof.Machine.execFenceFull f s
  | .fenceLt f => Sys2Proof.Machine.execFenceLt f s
  | .fenceHv f => Sys2Proof.Machine.execFenceHv f s
  | .hgive f => Sys2Proof.Machine.execHgive f s
  | .htake f => Sys2Proof.Machine.execHtake f s
  | .prfm f => Sys2Proof.Machine.execPrfm f s
  | .vqput f => Sys2Proof.Machine.execVqput f s
  | .vqget f => Sys2Proof.Machine.execVqget f s
  | .launch f => Sys2Proof.Machine.execLaunch f s
  | .cwait f => Sys2Proof.Machine.execCwait f s
  | .halt f => Sys2Proof.Machine.execHalt f s
  | .mfs f => Sys2Proof.Machine.execMfs f s
  | .mts f => Sys2Proof.Machine.execMts f s
  -- uniform pipe (R297)
  | .snop f => Sys2Proof.Machine.execSnop f s
  | .sadd f => Sys2Proof.Machine.execSadd f s
  | .ssub f => Sys2Proof.Machine.execSsub f s
  | .smul f => Sys2Proof.Machine.execSmul f s
  | .sand f => Sys2Proof.Machine.execSand f s
  | .sor f => Sys2Proof.Machine.execSor f s
  | .sxor f => Sys2Proof.Machine.execSxor f s
  | .sshl f => Sys2Proof.Machine.execSshl f s
  | .sshr f => Sys2Proof.Machine.execSshr f s
  | .ssar f => Sys2Proof.Machine.execSsar f s
  | .smin f => Sys2Proof.Machine.execSmin f s
  | .smax f => Sys2Proof.Machine.execSmax f s
  | .scmp f => Sys2Proof.Machine.execScmp f s
  | .saddi f => Sys2Proof.Machine.execSaddi f s
  | .sandi f => Sys2Proof.Machine.execSandi f s
  | .sori f => Sys2Proof.Machine.execSori f s
  | .sshli f => Sys2Proof.Machine.execSshli f s
  | .sshri f => Sys2Proof.Machine.execSshri f s
  | .ssari f => Sys2Proof.Machine.execSsari f s
  | .smovi f => Sys2Proof.Machine.execSmovi f s
  | .smovh f => Sys2Proof.Machine.execSmovh f s
  | .sld f => Sys2Proof.Machine.execSld f s
  | .sst f => Sys2Proof.Machine.execSst f s
  | .sbz f => Sys2Proof.Machine.execSbz f s
  | .sbnz f => Sys2Proof.Machine.execSbnz f s
  | .srd f => Sys2Proof.Machine.execSrd f s
  | .swr f => Sys2Proof.Machine.execSwr f s
  | .vtos f => Sys2Proof.Machine.execVtos f s
  | .bind f => Sys2Proof.Machine.execBind f s
  | .unbind f => Sys2Proof.Machine.execUnbind f s
  | .hod f => Sys2Proof.Machine.execHod f s
  | .loom f => Sys2Proof.Machine.execLoom f s
  | .task f => Sys2Proof.Machine.execTask f s
  | .taskServe f => Sys2Proof.Machine.execTaskServe f s
  | .gset f => Sys2Proof.Machine.execGset f s
  | .ksarm f => Sys2Proof.Machine.execKsarm f s
  | .ksdis f => Sys2Proof.Machine.execKsdis f s
  | .ksrd f => Sys2Proof.Machine.execKsrd f s
  | .qfence f => Sys2Proof.Machine.execQfence f s
  | .asrd f => Sys2Proof.Machine.execAsrd f s
  | .asrdp f => Sys2Proof.Machine.execAsrdp f s
  | .aswait f => Sys2Proof.Machine.execAswait f s
  | .netld f => Sys2Proof.Machine.execNetld f s
  -- events: outstanding work of threads
  | .loadComplete id num => Sys2Proof.Machine.execLoadComplete id num s
  | .longLatencyComplete id num => Sys2Proof.Machine.execLongLatencyComplete id num s
  | .storeVisible num => Sys2Proof.Machine.execStoreVisible num s
  | .atomicPerform id num => Sys2Proof.Machine.execAtomicPerform id num s
  | .faultRecordWrite core => Sys2Proof.Machine.execFaultRecordWrite core s
  | .faultResolved core idx => Sys2Proof.Machine.execFaultResolved core idx s
  | .faultAbort core idx => Sys2Proof.Machine.execFaultAbort core idx s
  | .rendezvousRelease wg team => Sys2Proof.Machine.execRendezvousRelease wg team s
  | .barrierPhaseComplete wg bar => Sys2Proof.Machine.execBarrierPhaseComplete wg bar s
  | .acqComplete id num => Sys2Proof.Machine.execAcqComplete id num s
  | .waitaComplete id num => Sys2Proof.Machine.execWaitaComplete id num s
  | .waittComplete id num => Sys2Proof.Machine.execWaittComplete id num s
  | .aswaitComplete wg team => Sys2Proof.Machine.execAswaitComplete wg team s
  | .cwaitComplete id num => Sys2Proof.Machine.execCwaitComplete id num s
  | .vqputComplete wg team => Sys2Proof.Machine.execVqputComplete wg team s
  | .vqgetComplete wg team => Sys2Proof.Machine.execVqgetComplete wg team s
  | .hgiveComplete id num => Sys2Proof.Machine.execHgiveComplete id num s
  | .fenceHvRequest id num core => Sys2Proof.Machine.execFenceHvRequest id num core s
  | .threadHalt wg tix => Sys2Proof.Machine.execThreadHalt wg tix s
  | .pickerPassoverLimit core part pipe => Sys2Proof.Machine.execPickerPassoverLimit core part pipe s
  | .yieldExpiry id => Sys2Proof.Machine.execYieldExpiry id s
  -- events: host queues, dispatcher, assay unit
  | .doorbell q count => Sys2Proof.Machine.execDoorbell q count s
  | .packetNop q => Sys2Proof.Machine.execPacketNop q s
  | .packetLaunch q => Sys2Proof.Machine.execPacketLaunch q s
  | .packetOtherKind q => Sys2Proof.Machine.execPacketOtherKind q s
  | .launchStart l => Sys2Proof.Machine.execLaunchStart l s
  | .workgroupDispatch l => Sys2Proof.Machine.execWorkgroupDispatch l s
  | .coresidentPlacement l => Sys2Proof.Machine.execCoresidentPlacement l s
  | .gridFinish l => Sys2Proof.Machine.execGridFinish l s
  | .assayCommit l => Sys2Proof.Machine.execAssayCommit l s
  | .assayFinalisation l => Sys2Proof.Machine.execAssayFinalisation l s
  | .deadlineRule l => Sys2Proof.Machine.execDeadlineRule l s
  | .energyMeasurement energies => Sys2Proof.Machine.execEnergyMeasurement energies s
  | .gridStall l => Sys2Proof.Machine.execGridStall l s
  | .workgroupPreempt wg => Sys2Proof.Machine.execWorkgroupPreempt wg s
  | .workgroupRestore wg => Sys2Proof.Machine.execWorkgroupRestore wg s
  | .queueRotation => Sys2Proof.Machine.execQueueRotation s
  -- events: foreman and engines
  | .foremanStart core q => Sys2Proof.Machine.execForemanStart core q s
  | .loomWload core => Sys2Proof.Machine.execLoomWload core s
  | .loomMmul core => Sys2Proof.Machine.execLoomMmul core s
  | .loomDrain core => Sys2Proof.Machine.execLoomDrain core s
  | .loomZero core => Sys2Proof.Machine.execLoomZero core s
  | .loomTaskComplete core => Sys2Proof.Machine.execLoomTaskComplete core s
  | .hodChunk core => Sys2Proof.Machine.execHodChunk core s
  | .hodCopyComplete core => Sys2Proof.Machine.execHodCopyComplete core s
  | .quarryTaskComplete core => Sys2Proof.Machine.execQuarryTaskComplete core s
  | .eosComplete core q => Sys2Proof.Machine.execEosComplete core q s
  | .qfenceComplete core q => Sys2Proof.Machine.execQfenceComplete core q s
  | .teamTaskComplete core q => Sys2Proof.Machine.execTeamTaskComplete core q s
  | .keystonePendingEnqueue ctrl num => Sys2Proof.Machine.execKeystonePendingEnqueue ctrl num s
  | .idleTreeSample => Sys2Proof.Machine.execIdleTreeSample s
  -- events: collectives, Span, host memory
  | .collectiveChunkSend tier => Sys2Proof.Machine.execCollectiveChunkSend tier s
  | .collectiveChunkArrival m => Sys2Proof.Machine.execCollectiveChunkArrival m s
  | .spanOneSidedArrival p => Sys2Proof.Machine.execSpanOneSidedArrival p s
  | .spanForward t => Sys2Proof.Machine.execSpanForward t s
  | .spanReturnUnreach p => Sys2Proof.Machine.execSpanReturnUnreach p s
  | .hostMemRead addr size => Sys2Proof.Machine.execHostMemRead addr size s
  | .hostMemWrite addr bytes poisoned => Sys2Proof.Machine.execHostMemWrite addr bytes poisoned s
  -- events: mailbox
  | .qreg q desc => Sys2Proof.Machine.execQreg q desc s
  | .qabort q => Sys2Proof.Machine.execQabort q s
  | .invalidate addr size => Sys2Proof.Machine.execInvalidate addr size s
  | .invalidateComplete => Sys2Proof.Machine.execInvalidateComplete s
  | .clearbind => Sys2Proof.Machine.execClearbind s
  | .setbudget cores budget => Sys2Proof.Machine.execSetbudget cores budget s
  | .setpool n => Sys2Proof.Machine.execSetpool n s
  | .setcap watts => Sys2Proof.Machine.execSetcap watts s
  | .commcfg k rec => Sys2Proof.Machine.execCommcfg k rec s
  | .restore addr => Sys2Proof.Machine.execRestore addr s
  | .debugHalt sel => Sys2Proof.Machine.execDebugHalt sel s
  | .debugResume sel => Sys2Proof.Machine.execDebugResume sel s
  | .debugBreakpointEnable launch => Sys2Proof.Machine.execDebugBreakpointEnable launch s
  | .debugHaltForce wg tix => Sys2Proof.Machine.execDebugHaltForce wg tix s
  | .errcount => Sys2Proof.Machine.execErrcount s
  | .measure nonce => Sys2Proof.Machine.execMeasure nonce s
  | .reload image startable => Sys2Proof.Machine.execReload image startable s
  | .devnum arg => Sys2Proof.Machine.execDevnum arg s
  | .routes arg => Sys2Proof.Machine.execRoutes arg s
  | .mailboxOtherCode code => Sys2Proof.Machine.execMailboxOtherCode code s
  -- events: reset, power, firmware, capture
  | .reset => Sys2Proof.Machine.execReset s
  | .powerGate core => Sys2Proof.Machine.execPowerGate core s
  | .powerUp core => Sys2Proof.Machine.execPowerUp core s
  | .frequencyChange core mhz => Sys2Proof.Machine.execFrequencyChange core mhz s
  | .thermalMigration wg core => Sys2Proof.Machine.execThermalMigration wg core s
  | .captureSessionStart regions area => Sys2Proof.Machine.execCaptureSessionStart regions area s
  | .captureReplay => Sys2Proof.Machine.execCaptureReplay s
  | .softError site correctable => Sys2Proof.Machine.execSoftError site correctable s
  | .powerCapping pool grants => Sys2Proof.Machine.execPowerCapping pool grants s
  | .instructionCacheFill core part addr => Sys2Proof.Machine.execInstructionCacheFill core part addr s
  | .spanAcknowledgement num => Sys2Proof.Machine.execSpanAcknowledgement num s

end Sys2Proof.Machine
end

