-- ==== Sys2Proof/Machine/Pending.lean ====
section
/-!
DEFINITION. Sys2Proof/Machine/Pending.lean: the order in which the model lets things happen that the spec leaves to
the part (R222, R447): the events that a state names as possible, one after another, and the clocks (log entry 6).
-/
namespace Sys2Proof.Machine

/-! ### Events of threads -/

/-- The event that may complete an outstanding instruction. -/
def flightEvents (c : Ctx) (f : Flight) : List Instr :=
  match f.what with
  | .result => [.longLatencyComplete c.id f.num]
  | .rel _ => [.longLatencyComplete c.id f.num]
  | .launch _ parked _ => if parked then [] else [.longLatencyComplete c.id f.num]
  | .launched _ _ => [.longLatencyComplete c.id f.num]
  | .fence _ _ _ _ => [.longLatencyComplete c.id f.num]
  | .hv _ cores => cores.map (fun k => .fenceHvRequest c.id f.num k) ++ [.longLatencyComplete c.id f.num]
  | .access a _ =>
    (match a.op with
      | .load _ => [.loadComplete c.id f.num]
      | .store _ => []
      | .atomic _ _ _ => [.atomicPerform c.id f.num]
      | .acq _ => [.acqComplete c.id f.num]
      | .waita _ => [.waitaComplete c.id f.num])
  | .waitt _ _ => [.waittComplete c.id f.num]
  | .aswait _ _ => [.aswaitComplete c.id.wg c.team]
  | .cwait _ => [.cwaitComplete c.id f.num]
  | .bar n _ => [.barrierPhaseComplete c.id.wg n]
  | .vqput _ => [.vqputComplete c.id.wg c.team]
  | .vqget => [.vqgetComplete c.id.wg c.team]
  | .hgive _ _ _ _ => [.hgiveComplete c.id f.num]
  | .parked _ _ => []
  | .retry => []
  | .trap _ _ => []

/-- The events of one context. -/
def ctxEvents (c : Ctx) : List Instr :=
  (if c.haltReq then [.threadHalt c.id.wg c.id.tix] else []) ++
  (match c.status with
    | .yielding _ _ => [.yieldExpiry c.id]
    | .rendezvous _ _ _ _ _ => [.rendezvousRelease c.id.wg c.team]
    | _ => []) ++ c.inflight.flatMap (flightEvents c)

/-! ### Events of the rest of the device -/

/-- The tasks of a core's engines that run or may start (R158 to R185). -/
def coreEvents (e : Nat × Core) : List Instr :=
  (if e.2.faultsWaiting.isEmpty then [] else [.faultRecordWrite e.1]) ++
  (e.2.queues.filter (fun q => !q.2.isEmpty)).flatMap (fun q =>
    [.foremanStart e.1 q.1, .eosComplete e.1 q.1, .qfenceComplete e.1 q.1]) ++
  e.2.running.flatMap (fun r =>
    match r.1 with
    | 4 => [.loomWload e.1, .loomMmul e.1, .loomDrain e.1, .loomZero e.1, .loomTaskComplete e.1]
    | 5 => [.hodChunk e.1, .hodCopyComplete e.1]
    | 6 => [.quarryTaskComplete e.1]
    | q => [.teamTaskComplete e.1 q])

/-- The events of an unfinished launch (R58, R61, R78, R84). -/
def launchEvents (l : Launch) : List Instr :=
  match l.phase with
  | .finished => []
  | .waiting => [.launchStart l.num, .assayFinalisation l.num, .gridFinish l.num]
  | .started => [.assayCommit l.num, .deadlineRule l.num, .assayFinalisation l.num, .workgroupDispatch l.num,
                 .coresidentPlacement l.num, .gridStall l.num, .gridFinish l.num]

/-- The events of a workgroup that leaves its core or may return (R62, R247), and those of its held firings. -/
def wgEvents (w : Workgroup) : List Instr :=
  match w.place with
  | .resident => (if w.leaving || w.ordered then [.workgroupPreempt w.num] else []) ++
      (w.heldFirings.take 1).map (fun h => .keystonePendingEnqueue (h.1 / 2 ^ 16) (h.1 % 2 ^ 16))
  | .saved _ => [.workgroupRestore w.num]
  | .retired => []

/-- The events of a queue that holds a slot. -/
def slotEvents (e : Nat × QSlot) : List Instr := [.packetNop e.2.queue, .packetLaunch e.2.queue, .packetOtherKind e.2.queue]

/-- The instruction cache fills that a partition's threads wait for (R32). -/
def State.fillsOf (s : State) (p : Nat × Nat) : List Instr :=
  ((s.partCtxs p.1 p.2).filter (fun c => c.status == .running)).filterMap (fun c => match s.fetch c with
    | .miss addr => some (.instructionCacheFill p.1 p.2 addr.toNat)
    | _ => none)

/-- The partitions that hold threads. -/
def State.busyParts (s : State) : List (Nat × Nat) :=
  ((s.teams.filterMap (fun t => (s.wg? t.wg).bind (fun w =>
    if w.place = .resident then some (w.core, t.part) else none)))).eraseDups

/-- A queue with work or with unfinished grids holds no slot (R63). -/
def State.queueWaits (s : State) : Bool :=
  let held := s.slots.map (fun e => e.2.queue)
  !(s.waitingQueues held s.rotLast).isEmpty || !(s.strandedQueues held s.rotLast).isEmpty

/-- The internal events that a state names, in the order in which the model tries them. -/
def State.pendingEvents (s : State) : List Instr :=
  s.busyParts.flatMap s.fillsOf ++ s.ctxs.flatMap ctxEvents ++ s.stores.map (fun p => .storeVisible p.num) ++
    s.chunks.map (fun h => .storeVisible h.num) ++ s.cores.flatMap coreEvents ++
    (s.keystones.filter (fun e => e.2.pending)).map (fun e => .keystonePendingEnqueue (e.1 / 512) (e.1 % 512)) ++
    (if s.idleServers.isEmpty then [] else [.idleTreeSample]) ++
    s.launches.flatMap launchEvents ++ s.wgs.flatMap wgEvents ++
    (if s.collOut.isEmpty then [] else [.collectiveChunkSend 0, .collectiveChunkSend 1]) ++
    (if s.invalidating.isNone then [] else [.invalidateComplete]) ++
    (if (s.capture.bind Capture.stage).isNone then [] else [.captureReplay]) ++
    s.slots.flatMap slotEvents ++ (if s.queueWaits then [.queueRotation] else [])

/-! ### Unissued slots (R261) -/

/-- A Loom task of a workgroup that sets a tag of a mask stands at the head of its core's queue and lacks its tokens. -/
def State.lacksTokens (s : State) (wg : Nat) (mask : Word) : Bool :=
  let core := ((s.wg? wg).map Workgroup.core).getD 0
  (Table.find (s.core core).running 4).isNone && (match s.queueRecs core 4 with
    | r :: _ => r.owner == some wg && mask.getLsbD r.tag && decide (s.tokensUsed + loomTokens (s.core core).tile r.desc > s.pool)
    | [] => false)

/-- The leaf to which an outstanding instruction charges the thread that waits for it. -/
def State.flightLeaf (s : State) (c : Ctx) (f : Flight) : Nat :=
  match f.what with
  | .access a _ => (match a.op with
    | .acq _ => 10
    | .waita _ => 10
    | _ => 5)
  | .waitt mask _ => if s.lacksTokens c.id.wg mask then 8 else 6
  | .aswait _ _ => 10
  | .cwait _ => 10
  | .vqput _ => 10
  | .vqget => 10
  | .bar n _ =>
    if ((s.wg? c.id.wg).map (fun w => (w.bar n).arrived.length)).getD 0 ≥ (s.liveOfWg c.id.wg).length then 7 else 9
  | _ => 5

/-- The uniform instruction of a thread's team has found in this cycle that it waits at issue. -/
def State.stoodNow (s : State) (c : Ctx) : Bool := (s.part (s.coreOf c) (s.partOf c)).tried.contains (c.id.wg, c.team)

/-- The leaf of an unissued slot whose charged thread is a context that has fetched its next instruction. (DEDUCED, log
entry 69.) -/
def State.gotLeaf (s : State) (c : Ctx) (f : Fetched) : Nat :=
  match f.what with
  | none => if c.inflight.isEmpty then 4 else 5
  | some i =>
    let p := effPfx (shape i (f.pfx.getD Pfx.none)) f.pfx
    let x := shape i p
    if !c.inflight.isEmpty && !s.ready c f then 5
    else if s.requestBars i c || s.stoodNow c then 5
    else if c.id.lvl != 0 && s.forkFull i p c then 5
    else if c.id.lvl != 0 && !s.contOk i x p f c then 4
    else if x.pipe == .uniform then 9
    else 4

/-- The leaf of an unissued slot whose charged thread is a context (R261). (DEDUCED, log entry 69.) -/
def State.waitLeaf (s : State) (c : Ctx) : Nat :=
  match c.status with
  | .rendezvous _ _ _ _ _ => 9
  | .running =>
    if c.halting then 4
    else
      (match c.inflight.find? (fun f => decide (f.since ≥ f.look)) with
        | some f => s.flightLeaf c f
        | none =>
          (match s.fetch c with
            | .miss _ => 3
            | .got f => s.gotLeaf c f
            | _ => 5))
  | _ => 4

/-- The pipe to which the next instruction of a context belongs. -/
def State.nextPipe (s : State) (c : Ctx) : Option Pipe :=
  match s.ahead c with
  | .got f => some f.pipe
  | _ => none

/-- The threads of a partition, of workgroups that leave too. -/
def State.partThreads (s : State) (core part : Nat) : List Ctx :=
  s.ctxs.filter (fun c => (match s.wg? c.id.wg with
    | some w => w.place == .resident && !w.arriving && w.core == core && s.partOf c == part
    | none => false))

/-- How long a context has gone without issuing to a pipe, by its last issue: for the uniform pipe its team (R261). -/
def State.idleFrom (s : State) (pipe : Pipe) (c : Ctx) : Nat :=
  match pipe with
  | .uniform => ((s.team? c.id.wg c.team).map s.waitFrom).getD c.lastAny
  | _ => c.lastAny

/-- The leaf of a pipe that issued nothing in a cycle: that of the thread, for the uniform pipe the team, that has gone
longest without issuing among those whose next instruction belonged to the pipe in the cycle; a team is charged as that of
its threads which has waited longest there. (DEDUCED, log entry 69.) -/
def State.idleLeaf (s : State) (core part : Nat) (pipe : Pipe) : Nat :=
  let l := (s.partThreads core part).filter (fun c =>
    c.status != .exited && !s.issuedNow core part c && s.nextPipe c == some pipe)
  let before (a b : Ctx) : Bool :=
    if s.idleFrom pipe a ≠ s.idleFrom pipe b then decide (s.idleFrom pipe a < s.idleFrom pipe b)
    else decide (a.lastAny < b.lastAny)
  match firstBy before l with
  | some c => s.waitLeaf c
  | none => 4

/-- The leaf of an unissued slot: power rationing while its pipe gathers operands (R272). -/
def State.slotLeaf (s : State) (core part : Nat) (pipe : Pipe) : Nat :=
  if (s.part core part).gathering.contains pipe then 11 else s.idleLeaf core part pipe

/-- A partition at the end of a cycle: its unissued slots are charged, and the next cycle's grants are given out. -/
def State.partCycle (core : Nat) (s : State) (part : Nat) : State :=
  let leaves := ([Pipe.alu, Pipe.long, Pipe.uniform].filter (fun p => !(s.part core part).used.contains p)).map
    (s.slotLeaf core part)
  s.onPart core part (fun p =>
    { leaves.foldl (fun (q : Part) l => q.charge l 1) p with used := [], tried := [] }.gatherOn (s.core core).grantsG)

/-! ### Clocks -/

/-- A yielding thread counts cycles (R444). -/
def Ctx.waitCycle (c : Ctx) : Ctx :=
  match c.status with
  | .yielding others left => { c with status := .yielding others (left - 1) }
  | _ => c

/-- One cycle of a core: its counter (R259), its partitions' pipes and their leaves (R16, R261), its yielding threads
(R444); the workgroups sent out to it have arrived, those ordered off stop issuing, the threads of stopped launches stop, and what
the dispatcher, the idle tree and the assay unit have done before is seen (R24). A gated core stands still. (DEDUCED, log
entry 79.) -/
def State.coreCycle (s : State) (core : Nat) : State :=
  if (s.core core).gated then s
  else
    let arrive (w : Workgroup) : Workgroup :=
      if w.core = core then { w with arriving := false, leaving := w.leaving || w.ordered, ordered := false } else w
    let s := ({ s with wgs := s.wgs.map arrive } : State).meetStops core
    let s := s.onCore core (fun k => { k with cyc := k.cyc + 1, lead := k.lead + 1000, newEnds := [], newStates := [] })
    let s := s.endServes core
    let s := (List.range Config.partitions).foldl (State.partCycle core) s
    s.mapCtx (fun c => if s.resident c.id.wg ∧ s.coreOf c = core then c.waitCycle else c)

/-- The launches whose start condition a write has met start in that cycle of the dispatcher (R95). -/
def State.startDue (s : State) : State :=
  ((s.launches.filter (fun l => l.producer != 0 && s.startReady l)).map Launch.num).foldl State.startLaunch s

/-- One cycle of the dispatcher (R24): the failures that cores have reported (R60), the launches whose start condition has been
met (R95), the deadlines that have come (R84), the count of the stall rule (R61). It lasts as long as mhz/1000 cycles of a
core. (DEDUCED, log entry 79.) -/
def State.dispCycle (s : State) : State :=
  let s := s.meetFailures
  let s := ((s.launches.map Launch.num).foldl State.checkDeadline s.startDue).measureDue
  let pass (e : Nat × Core) : Nat × Core := (e.1, { e.2 with lead := e.2.lead - e.2.mhz })
  { s with launches := s.launches.map s.countStall, dcycle := s.dcycle + 1, cores := s.cores.map pass }

/-- A pipe of a partition has something to do: an issue, or a context to tend. -/
def State.pipeBusy (s : State) (core part : Nat) (pipe : Pipe) : Bool :=
  !(s.part core part).busy pipe && (s.pick core part pipe).isSome

/-- The issue that the model makes next, if there is one. -/
def State.nextIssue (s : State) : Option Move :=
  (s.busyParts.flatMap (fun p => [(p, Pipe.alu), (p, Pipe.long), (p, Pipe.uniform)])).findSome? (fun e =>
    if ((s.partCtxs e.1.1 e.1.2).any s.needsTending) || s.pipeBusy e.1.1 e.1.2 e.2 then
      some (.issue e.1.1 e.1.2 e.2 false)
    else none)

/-- A record on its way that the model lets enter its queue next (R190). -/
def State.nextEntry (s : State) : Option Move :=
  (s.cores.find? (fun e => !e.2.coming.isEmpty)).map (fun e => .enterQueue e.1 0)

/-- The cores whose clocks advance with the dispatcher's: those with workgroups, and those that are yet to meet a stop. -/
def State.tickingCores (s : State) : List Nat :=
  s.busyParts.map Prod.fst ++ (s.cores.filter (fun e => !e.2.stops.isEmpty)).map Prod.fst

/-- The clock that advances when nothing else can happen: that of a core which has something to do and is not ahead of the
dispatcher's, else the dispatcher's (R24). -/
def State.nextTick (s : State) : Move :=
  match s.tickingCores.find? (fun k => !(s.core k).gated && decide ((s.core k).lead < (s.core k).mhz)) with
  | some k => .coreCycle k
  | none => .dispCycle

end Sys2Proof.Machine
end

