-- ==== Sys2Proof/Machine/Moves.lean ====
section
/-!
DEFINITION. Sys2Proof/Machine/Moves.lean: what one move does, and the move that comes next (log entry 6).
-/
namespace Sys2Proof.Machine

/-- What leaves a cache because the part chose it (R32, R141, R222). (DESIGN CHOICE, log entry 25.) -/
def State.evict (s : State) (m : Move) : State :=
  match m with
  | .evictLine core key => s.dropL1 core key 1
  | .evictTranslation root page => { s with tlb := s.tlb.filter (fun t => !(t.root == root && t.page == page)) }
  | .evictWord core part addr =>
    s.onPart core part (fun p => { p with icache := p.icache.filter (fun e => e.2.1 != addr) })
  | _ => s

/-- Others write into memory of their own, the host's or another device's, whose units may come to be poisoned there
(R155). (DESIGN CHOICE, log entry 83.) -/
def State.outerStore (s : State) (key : Nat) (bytes : List Byte) (bad : Bool) : State :=
  (({ s with mem := cellsWrite s.mem key bytes, poison := poisonAfter s.poison key bytes.length bad } : State).unmark key
    bytes.length).noteFits key bytes.length

/-- A core writes a trace record of a sample of a thread, which names its next instruction (R260). (DEDUCED, log entry 81.) -/
def State.sample (s : State) (id : CtxId) : State :=
  match s.ctx? id with
  | some c => if c.status != .exited && s.resident id.wg then s.trace c 7 c.nextPc else s
  | none => s

/-- One issue of a partition's pipe. A uniform instruction that waits at issue has not issued: it leaves every instruction
number unused (R159, R221). (DEDUCED, log entry 69.) -/
def State.issue (s : State) (core part : Nat) (pipe : Pipe) (defer : Bool) : Out :=
  match s.prepare core part pipe defer with
  | (t, none) => .next t
  | (t, some i) =>
    match exec i t with
    | .next u => .next (if pipe = .uniform ∧ u.nextNum = t.nextNum then (s.tendAll core part).stood core part t.cur.wg t.cur.team else u)
    | r => r

/-- One move. -/
def State.move (s : State) (m : Move) : Out :=
  match m with
  | .event i => exec i { s with cur := Issue.idle }
  | .issue core part pipe defer => s.issue core part pipe defer
  | .coreCycle core => .next (s.coreCycle core)
  | .dispCycle => .next s.dispCycle
  | .freshWord core part addr => .next (s.fillCache core part addr true)
  | .quarryChunk core chunk => .next (s.quarryWrite core chunk)
  | .hostStore addr bytes => .next (s.outerStore (hostBase + addr % 2 ^ 64) bytes false)
  | .remoteStore dev slab addr bytes bad =>
    .next (s.outerStore (remoteKey (dev % 2 ^ 12) slab (addr % 2 ^ 64)) bytes bad)
  | .loadHalf id num high => .next (s.loadHalf id num high)
  | .holdChunk core => .next (s.holdChunk core)
  | .holdRow core => .next (s.holdRow core)
  | .refuseRemote tag handle => .next (s.refuseRemote tag handle)
  | .lateAction ctrl num => .next (s.lateAction ctrl num)
  | .enterQueue core idx => .next (s.enterQueue core idx)
  | .holdCommit n => .next (s.holdCommit n)
  | .sample id => .next (s.sample id)
  | m => .next (s.evict m)

/-- An event that a state names changes it. -/
def State.effective (s : State) (i : Instr) : Bool :=
  match exec i s with
  | .next t => t != s
  | _ => false

/-- The move that a state makes when its agenda is empty: an issue, else the first event that has an effect, else a
clock. (DEDUCED, log entry 1.) (DESIGN CHOICE, log entry 6.) (DEDUCED, log entry 28.) -/
def State.autoMove (s : State) : Move :=
  match s.nextIssue with
  | some m => m
  | none =>
    match s.pendingEvents.find? s.effective with
    | some i => .event i
    | none => s.nextEntry.getD s.nextTick

/-- One step: the first move of the agenda, or the one that the model chooses. (DESIGN CHOICE, log entry 6.) -/
def State.advance (s : State) : Out :=
  match s.agenda with
  | m :: ms => { s with agenda := ms }.move m
  | [] => s.move s.autoMove

end Sys2Proof.Machine
end

