-- ==== Sys2Proof/Safety.lean ====
section
/-!
DEFINITION. Sys2Proof/Safety.lean: the terms in which claims speak of the machine: what every state of a run keeps,
when a word issues without a trap, and what an instruction leaves of the state.
-/
namespace Sys2Proof.Machine

/-! ### What a run keeps -/

/-- Memory keeps its canonical form. -/
def State.memOk (s : State) : Bool := Memory.wf s.mem

/-! ### A lane word that issues -/

/-- Every thread of the course passes the checks on the word's registers (R289) and, where the instruction acts for
it, reads no poisoned register (R154). -/
def State.clear (s : State) (i : Instr) : Bool :=
  s.ctxs.all (fun c => !s.cur.course.contains c.id ||
    (regsOk (s.regsOf c) (s.shp i) (s.pfx i) &&
      (fate (s.shp i) (s.pfx i) c.regs != .acts || !readsPoison (s.shp i) (s.pfx i) c.regs)))

/-- A thread of the course acts: its guard holds and its mask does not turn it off (R42, R283). -/
def State.acts (s : State) (i : Instr) (c : Ctx) : Bool :=
  s.cur.course.contains c.id && fate (s.shp i) (s.pfx i) c.regs == .acts

/-- The address after the word that issues. -/
def State.nextPc (s : State) : Word := s.cur.pc + 4

/-- Two lists of one length, related place by place. -/
def Each {α : Type} (r : α → α → Prop) : List α → List α → Prop
  | [], [] => True
  | a :: as, b :: bs => r a b ∧ Each r as bs
  | _, _ => False

/-- One context before and after a lane word: outside the course it is unchanged; a thread that is off goes on with
its registers unchanged; one that a mask clears goes on with its destination zero (R283); one that acts does as the
instruction says. -/
def ThreadStep (s : State) (i : Instr) (does : Ctx → Ctx → Prop) (c c' : Ctx) : Prop :=
  if s.cur.course.contains c.id then
    match fate (s.shp i) (s.pfx i) c.regs with
    | .acts => does c c'
    | .off => c' = c.goto s.nextPc
    | .zeroed => c' = { c.goto s.nextPc with regs := zeroDest (s.shp i) c.regs }
  else c' = c

/-- A lane word completes: it leaves everything but its threads as it was, and every context steps as the
instruction says. -/
def Completes (s : State) (i : Instr) (does : Ctx → Ctx → Prop) : Prop :=
  ∃ t, exec i s = .next t ∧ t = { s with ctxs := t.ctxs, nextNum := s.nextNum + 1 } ∧
    Each (ThreadStep s i does) s.ctxs t.ctxs

/-- A thread goes to the next word with new registers and nothing more outstanding. -/
def Moves (s : State) (c c' : Ctx) (r : Regs) : Prop := c' = { c.goto s.nextPc with regs := r }

/-- The registers of a thread once the word that issues has recorded its bits of %warn (R298, R300). -/
def State.recorded (s : State) (i : Instr) (c : Ctx) : Regs := (c.warned (s.wordWarn i)).regs

/-- A thread writes one lane register with a value, changes no other register, and goes on. -/
def Writes (s : State) (i : Instr) (d : Reg) (value : Ctx → Word → Prop) (c c' : Ctx) : Prop :=
  ∃ x, value c x ∧ Moves s c c' ((s.recorded i c).put d x)

/-- A thread writes one predicate, changes no other register, and goes on. -/
def WritesPred (s : State) (i : Instr) (p : BitVec 3) (value : Ctx → Bool) (c c' : Ctx) : Prop :=
  Moves s c c' ((s.recorded i c).putPred p (value c))

/-- Element j of a lane register in a view of width w (R108). -/
def Ctx.elem (c : Ctx) (w : Nat) (n : Reg) (j : Nat) : Nat := elemAt w (c.regs.get n).toNat j

/-- Every element of a result is a function of the elements of v(a) and v(b) at its place. -/
def Elementwise (w : Nat) (a b : Reg) (g : Nat → Nat → Nat) (c : Ctx) (x : Word) : Prop :=
  ∀ j < 64 / w, elemAt w x.toNat j = g (c.elem w a j) (c.elem w b j)

/-- Every element of a result is a function of the element of v(a) at its place. -/
def Elementwise1 (w : Nat) (a : Reg) (g : Nat → Nat) (c : Ctx) (x : Word) : Prop :=
  ∀ j < 64 / w, elemAt w x.toNat j = g (c.elem w a j)

/-- An exact integer as an element of width w: reduced modulo 2^w, or clamped to the signed range (R355). -/
def fit (w : Nat) (sat : Bool) (z : Int) : Nat :=
  ((if sat then max (-(2 ^ (w - 1))) (min z (2 ^ (w - 1) - 1)) else z) % 2 ^ w).toNat

/-- A thread issues a long-latency lane instruction: it goes to the next word with its registers, and one more
instruction is outstanding, of the word's lookahead and destinations (R38). -/
def Issues (s : State) (i : Instr) (r : Regs) (k : FlightKind) (c c' : Ctx) : Prop :=
  c' = { c.goto s.nextPc with
    regs := r
    inflight := (c.goto s.nextPc).inflight ++ [newFlight s (s.shp i) k] }

/-- A long-latency lane instruction whose result is computed as it issues: the thread's registers take it, and its
destination stays pending until it arrives (R38, R39). -/
def IssuesValue (s : State) (i : Instr) (d : Reg) (value : Ctx → Word → Prop) (c c' : Ctx) : Prop :=
  ∃ x, value c x ∧ Issues s i ((s.recorded i c).put d x) .result c c'

/-- The registers of an instruction that rounds: element j of v(d) holds the result of the exact operation rounded
once in the mode that the prefix or %mode gives (R110, R377); the flags and lost NaNs of all elements are recorded
(R116); under SR one draw is made for all elements (R111); nothing else changes. -/
def Rounded (s : State) (i : Instr) (d : Reg) (w : Nat) (out : Ctx → FEnv → Nat → FOut) (c : Ctx) (r' : Regs) : Prop :=
  let p := s.pfx i
  let r := s.recorded i c
  let k := 64 / w
  let z := if roundCode p r = 5 then r.draw.1 else 0
  let o (j : Nat) : FOut := out c (fenv p r z k j) j
  (∀ j < k, elemAt w (r'.get d).toNat j = (o j).bits % 2 ^ w) ∧
  r'.fflags = r.fflags ||| outFlags ((List.range k).map o) ∧
  r'.warn = r.warn ||| warnIf (outLost ((List.range k).map o)) warnNANLOST ||| roundWarn p r ∧
  r' = { r.put d (r'.get d) with
    fflags := r'.fflags
    warn := r'.warn
    rngc := if roundCode p r = 5 then r.rngc + 1 else r.rngc }

/-- A lane instruction that rounds completes: each acting thread takes the rounded registers and goes on. -/
def RoundsAlu (s : State) (i : Instr) (d : Reg) (w : Nat) (out : Ctx → FEnv → Nat → FOut) : Prop :=
  s.clear i = true → Completes s i (fun c c' => ∃ r', Rounded s i d w out c r' ∧ Moves s c c' r')

/-- The same for the long-latency pipe: the result stays pending until it arrives. -/
def RoundsLong (s : State) (i : Instr) (d : Reg) (out : Ctx → FEnv → Nat → FOut) : Prop :=
  s.clear i = true → Completes s i (fun c c' => ∃ r', Rounded s i d 32 out c r' ∧ Issues s i r' .result c c')

/-- The order of FMIN and FMAX on values that are no NaNs: as numbers, with −0 below +0 (R379). -/
def lowerThan (x y : FVal) : Bool :=
  if x.isZero && y.isZero then x.isNeg && !y.isNeg else x.le y && !y.le x

/-- A code of a subnormal number: no zero, and below the least normal magnitude (R101). -/
def subnormalCode (f : Fmt) (n : Nat) : Bool :=
  n % 2 ^ (f.width - 1) != 0 && decide (n % 2 ^ (f.width - 1) < 2 ^ f.fbits)

/-- A code that an instruction gives on unchanged, after the flush flags: a subnormal one is a zero of its sign under
FTZI or FTZO, and FTZO raises UF and NX where FTZI has not already made it a zero (R114). NV is as a test says. -/
def passedOn (f : Fmt) (env : FEnv) (nv : Bool) (n : Nat) : FOut :=
  let low := subnormalCode f n
  { bits := if low && (env.ftzi || env.ftzo) then n / 2 ^ (f.width - 1) * 2 ^ (f.width - 1) else n
    flags := (if nv then flagNV else 0) ||| (if low && !env.ftzi && env.ftzo then flagUF ||| flagNX else 0)
    nanLost := false }

/-! ### Instructions that leave something outstanding, and what completes it -/

/-- The contexts of the course for which the instruction acts, in the order of the course. -/
def State.actors (s : State) (i : Instr) : List Ctx :=
  s.cur.course.filterMap (fun id => (s.ctx? id).filter (fun c => fate (s.shp i) (s.pfx i) c.regs == .acts))

/-- A lane word completes with every context stepping as the instruction says, and the state as a test says. -/
def CompletesWith (s : State) (i : Instr) (does : Ctx → Ctx → Prop) (rest : State → Prop) : Prop :=
  ∃ t, exec i s = .next t ∧ Each (ThreadStep s i does) s.ctxs t.ctxs ∧ rest t

/-- A lane word that waits: it leaves t, and unless the issue defers the wait to its event, each actor's wait is then
tried once, as the event would. -/
def Waits (s : State) (i : Instr) (does : Ctx → Ctx → Prop) (rest : State → Prop)
    (attempt : State → CtxId → State) : Prop :=
  ∃ t, exec i s = .next (if s.cur.defer then t else ((s.actors i).map Ctx.id).foldl attempt t) ∧
    Each (ThreadStep s i does) s.ctxs t.ctxs ∧ rest t

/-- An access of every actor passes checks 1 to 7 of R142: check names each actor's address and verdict. -/
def State.passes (s : State) (i : Instr) (check : Ctx → Word × Verdict) : Bool :=
  s.ctxs.all (fun c => !s.acts i c || (match (check c).2 with
    | .key _ => true
    | _ => false))

/-- The key of an access that passed its checks. -/
def Verdict.place (v : Verdict) : Nat :=
  match v with
  | .key k => k
  | _ => 0

/-- An outstanding access of n bytes that does an operation at its home. -/
def accessOf (v : Word × Verdict) (n : Nat) (op : AccessOp) : FlightKind :=
  .access { addr := v.1, key := v.2.place, size := n, op := op } false

/-- A context has an outstanding instruction. -/
def State.has (s : State) (id : CtxId) (num : Nat) (c : Ctx) (f : Flight) : Prop :=
  s.ctx? id = some c ∧ c.flight? num = some f

/-- A flight is a failed access that waits to trap. -/
def Flight.isTrap (f : Flight) : Bool :=
  match f.what with
  | .trap _ _ => true
  | _ => false

/-- No other outstanding instruction of a context waits to trap, so its completion lets no trap through (R151). -/
def Ctx.quiet (c : Ctx) (num : Nat) : Bool := c.inflight.all (fun f => f.num == num || !f.isTrap)

/-- Contexts other than one are as they were. -/
def OnlyCtx (s t : State) (id : CtxId) : Prop := ∀ other, other ≠ id → t.ctx? other = s.ctx? other

/-- A context's outstanding instruction has completed with new registers, and no other context has changed. -/
def Landed (s t : State) (id : CtxId) (num : Nat) (r : Regs) : Prop :=
  (∃ c, s.ctx? id = some c ∧ t.ctx? id = some { c.land num with regs := r }) ∧ OnlyCtx s t id

/-- A thread whose one outstanding instruction would be a trap that it takes at once: it runs, outside its handler, and
its next instruction stands outside the window. -/
def Ctx.exposed (c : Ctx) (f : Flight) : Bool :=
  c.inflight == [f] && c.status == .running && !c.inHandler && c.id.lvl == 0 && decide (f.look ≤ f.since)

/-- A thread whose failed access has trapped (R150, R242): it is in its handler at the access's word, resumes where it
stood, and has nothing outstanding; a halt asked for is held, and a forced one takes effect there (R245). -/
def Ctx.failed (c : Ctx) (f : Flight) (handler : Word) (cause : Nat) (addr : Word) : Ctx :=
  { c with
    regs := { (((c.regs.put 0 (BitVec.ofNat 64 cause)).put 1 f.pc).put 2 addr).put 3 (f.word.setWidth 64) with mode := 0 }
    shadow := { v := [c.regs.get 0, c.regs.get 1, c.regs.get 2, c.regs.get 3], mode := c.regs.mode, fpc := f.pc,
                rpc := c.pc }
    inHandler := true
    haltReq := c.haltReq && c.forced
    nested := c.haltReq && c.forced
    heldHalt := c.heldHalt || (c.haltReq && !c.forced)
    pc := handler
    inflight := [] }

/-- An outstanding access fails (R150): its exposed thread, whose launch has a handler, enters it with the cause and
the address, and the access has no effect. -/
def Fails (s t : State) (c : Ctx) (f : Flight) (handler : Word) (cause : Nat) (addr : Word) : Prop :=
  t.ctx? c.id = some (c.failed f handler cause addr) ∧ OnlyCtx s t c.id ∧ t.mem = s.mem ∧ t.teams = s.teams

/-- The address of the unit at a key, as an access names its own bytes (R156). -/
def Access.unitAt (a : Access) (unit : Nat) : Word :=
  a.addr + BitVec.ofInt 64 ((unit : Int) - a.key)

/-- The packet of a request that goes to the device of a key, on the link and channel of its route (R268). -/
def packetTo (s : State) (key tag : Nat) (op : SpanOp) (link comm : Nat) : LinkOut :=
  .oneSided link comm
    { dev := remoteDev key, src := s.ownDev, slab := remoteIsSlab key, addr := remoteAddr key, comm := comm, tag := tag,
      op := op }

/-- Memory in its canonical form, which every run keeps, holds bytes from a key on, and every other byte as before. -/
def Stored (s t : State) (key : Nat) (bytes : List Byte) : Prop :=
  s.memOk = true → ∀ a, cellRead t.mem a = if key ≤ a ∧ a < key + bytes.length then bytes.getD (a - key) 0 else cellRead s.mem a

/-- The writes that a store of bytes makes: a pair of 8 bytes for 16 (R219). -/
def storeParts (key : Nat) (bytes : List Byte) : List (Nat × HomeOp) :=
  if bytes.length = 16 then [(key, .put (bytes.take 8) false), (key + 8, .put (bytes.drop 8) false)]
  else [(key, .put bytes false)]

/-- The core of the pipe that issues has no fault record outstanding, so a completion frees none (R146). -/
def State.recordless (s : State) (c : Ctx) : Bool := (s.core (s.coreOf c)).faultsOut.isEmpty

/-- The completion of a context's instruction frees no fault record: none that is resolved waits for it alone (R146). -/
def State.freesNone (s : State) (c : Ctx) (num : Nat) : Bool :=
  (s.core (s.coreOf c)).faultsOut.all (fun e =>
    !e.2.resolved || (!e.2.who.contains (c.id, num) && (!e.2.who.isEmpty || e.2.hod)))

/-- Every byte is as before but the state bytes of resolved fault records of a core (R146). -/
def FreesOnly (s t : State) (core : Nat) : Prop :=
  s.memOk = true → ∀ k, (∀ e ∈ (s.core core).faultsOut, e.2.resolved = true → k ≠ faultKey core e.1 + 0x14) →
    cellRead t.mem k = cellRead s.mem k

/-- Threads have acquired those of some writes that are still pending, and pass them on with later releases (R230). -/
def Acquired (s t : State) (ids : List CtxId) (writes : List Nat) : Prop :=
  (∀ id ∈ ids, ∀ n ∈ writes, s.pends n = true → (id, n) ∈ t.got) ∧
  ∀ e ∈ t.got, e ∈ s.got ∨ (e.1 ∈ ids ∧ e.2 ∈ writes ∧ s.pends e.2 = true)

/-- The conditions of R288 on two integers, and on the bits of two codes for .tst and .ntst. -/
def holdsInt (c : BitVec 3) (x y : Int) (a b : Nat) : Prop :=
  match c.toNat with
  | 0 => x = y
  | 1 => x ≠ y
  | 2 => x < y
  | 3 => x ≤ y
  | 4 => x > y
  | 5 => x ≥ y
  | 6 => a &&& b ≠ 0
  | _ => a &&& b = 0

/-! ### Threads that go elsewhere, wait, or trap -/

/-- A lane word at which every acting thread meets no trap of its own goes on at a target (R277, R367). -/
def State.lands (s : State) (i : Instr) (target : Ctx → Word) : Prop :=
  ∀ c ∈ s.ctxs, s.acts i c = true → s.branchFault c (target c) = none

/-- A thread goes to an address with new registers and nothing more outstanding. -/
def Jumps (c c' : Ctx) (pc : Word) (r : Regs) : Prop := c' = { c.goto pc with regs := r }

/-- A thread before an instruction that traps: it runs, nothing of it is outstanding, it is in no handler, and it is
no continuation. -/
def Ctx.trappable (c : Ctx) : Bool :=
  c.inflight.isEmpty && c.status == .running && !c.inHandler && c.id.lvl == 0

/-- The launch of a thread has a handler and records no trace. -/
def State.handles (s : State) (c : Ctx) (h : Word) : Prop :=
  ∃ l, s.launchOf? c.id.wg = some l ∧ l.handler = some h ∧ (s.queue l.queue).trace = false

/-- A thread in its handler (R242): v0 the cause, v1 the address of the trapping word, v2 the address of the cause, v3
the word, zero-extended; %mode is 0; v0 to v3, %mode, the word's address and the resume point are kept; a halt asked for
is held, and a forced one takes effect there (R245). -/
def Ctx.trapped (c : Ctx) (r : Regs) (handler : Word) (cause : Nat) (addr fpc rpc : Word) (word : Code) : Ctx :=
  { c with
    regs := { (((r.put 0 (BitVec.ofNat 64 cause)).put 1 fpc).put 2 addr).put 3 (word.setWidth 64) with mode := 0 }
    shadow := { v := [r.get 0, r.get 1, r.get 2, r.get 3], mode := r.mode, fpc := fpc, rpc := rpc }
    inHandler := true
    haltReq := c.haltReq && c.forced
    nested := c.haltReq && c.forced
    heldHalt := c.heldHalt || (c.haltReq && !c.forced)
    pc := handler
    inflight := [] }

/-- The acting threads of a course, each once, are as a function says, and other contexts are as the word leaves those
that are off. -/
def ActorsAre (s t : State) (i : Instr) (after : Ctx → Ctx) : Prop :=
  (∀ id ∈ s.cur.course, ∀ c, s.ctx? id = some c → fate (s.shp i) (s.pfx i) c.regs = .acts →
    t.ctx? id = some (after c)) ∧
  (∀ id ∈ s.cur.course, ∀ c, s.ctx? id = some c → fate (s.shp i) (s.pfx i) c.regs = .off →
    t.ctx? id = some (c.goto s.nextPc)) ∧
  (∀ id, id ∉ s.cur.course → t.ctx? id = s.ctx? id)

/-- Every acting thread of a course satisfies a test. -/
def State.allAct (s : State) (i : Instr) (p : Ctx → Prop) : Prop := ∀ c ∈ s.ctxs, s.acts i c = true → p c

/-! ### Uniform words -/

/-- A uniform word passes its checks for every live thread of its team: for VTOS the lane register it reads exists and
holds no poison (R289, R154, R441). -/
def State.uclear (s : State) (i : Instr) : Bool := !uniformWordBad s i && !uniformPoison s i

/-- A uniform word completes: the team's registers are those that the instruction leaves, every thread of the team goes
on at one address with the word's bits of %warn and what stays outstanding, and nothing else changes but what a test
allows. -/
def TeamRuns (s : State) (i : Instr) (regs : Team → Team) (warn : BitVec 9) (pc : Word)
    (out : Option FlightKind) (t : State) : Prop :=
  t.teams = s.teams.map (fun u => if u.wg = s.cur.wg ∧ u.idx = s.cur.team then regs u else u) ∧
  t.ctxs = s.ctxs.map (fun c =>
    if s.cur.course.contains c.id then
      { c.goto pc with
        regs := { c.regs with warn := c.regs.warn ||| (s.wordWarn i ||| warn) }
        inflight := (c.goto pc).inflight ++ (out.map (newFlight s (s.shp i))).toList }
    else c)

/-- A uniform word that only changes the registers of its team. -/
def TeamWrites (s : State) (i : Instr) (d : Reg) (x : Word) : Prop :=
  s.uclear i = true → ∃ t, exec i s = .next t ∧ TeamRuns s i (fun u => u.put d x) 0 s.nextPc none t ∧
    t = { s with teams := t.teams, ctxs := t.ctxs, nextNum := s.nextNum + 1 }

/-- A long uniform word that writes one register of its team, with bits of %warn and a test of the rest. -/
def TeamAnswers (s : State) (i : Instr) (d : Reg) (x : Word) (warn : BitVec 9) (rest : State → Prop) : Prop :=
  ∃ t, exec i s = .next t ∧ TeamRuns s i (fun u => u.put d x) warn s.nextPc (some .result) t ∧ rest t

/-! ### The visit order -/

/-- The linear indexes that k dispatches of a sampled launch of n workgroups send out, from step j on (R68). -/
def visits (n seed : Nat) : Nat → Nat → List Nat
  | 0, _ => []
  | k + 1, j => (visitFrom n seed 4 j).1 :: visits n seed k (visitFrom n seed 4 j).2

/-! ### Events -/

/-- An instruction or event answers a next state of which a test holds. -/
def Answers (s : State) (i : Instr) (p : State → Prop) : Prop := ∃ t, exec i s = .next t ∧ p t

/-- An event that cannot happen leaves the state as it is. -/
def Stays (s : State) (i : Instr) : Prop := exec i s = .next s

/-- Memory, whose canonical form every run keeps, holds bytes from a key on. -/
def Holds (s t : State) (key : Nat) (bytes : List Byte) : Prop :=
  s.memOk = true → cellsRead t.mem key bytes.length = bytes

/-- The launches but for the tests of their PRODUCERs (R95). -/
def State.undue (s : State) : List Launch := s.launches.map (fun l => { l with tests := [] })

/-- The threads and the teams stay as they are. -/
def SameThreads (s t : State) : Prop := t.ctxs = s.ctxs ∧ t.teams = s.teams

end Sys2Proof.Machine
end

