-- ==== Sys2Proof/Certificates/Slice0/Obligations.lean ====
section
/-!
DEFINITION. Sys2Proof/Certificates/Slice0/Obligations.lean: the statements for the provers. OBLIGATIONS.json names the
rules of spec/ behind each.
-/
open Sys2Proof Sys2Proof.Machine

/-- R355, R410: ADD, SUB, MUL and MULH compute each element of v(d) from the elements at its place, ADD and SUB
clamped to the signed range where T[2] says so; MAD adds the product to v(e) or v(d), modulo 2^w. Nothing else changes
but the program counter and the bits of %warn that the word records.

R355, R351: MIN and MAX choose the lesser or greater element, read signed, or unsigned under T[2]; AND, OR, XOR and
NOT act on every bit; ABS and NEG are exact modulo 2^w, or clamped. Nothing else changes.

R372: CMP compares element 0 of its view, signed, or unsigned under T[2]; CMPI compares the whole register with the
sign-extended immediate; the result goes to p(d[2:0]), and to no register. -/
def Obligations.IntegerOperations : Prop :=
  (∀ (s : State) (f : LA),
     let w := viewWidth f.t
     let t2 := f.t.getLsbD 2
     (s.clear (.add f) = true → Completes s (.add f) (Writes s (.add f) f.d (Elementwise w f.a f.b (fun a b =>
       fit w t2 (signedOf w a + signedOf w b))))) ∧
     (s.clear (.sub f) = true → Completes s (.sub f) (Writes s (.sub f) f.d (Elementwise w f.a f.b (fun a b =>
       fit w t2 (signedOf w a - signedOf w b))))) ∧
     (s.clear (.mul f) = true → Completes s (.mul f) (Writes s (.mul f) f.d (Elementwise w f.a f.b (fun a b =>
       a * b % 2 ^ w)))) ∧
     (s.clear (.mulh f) = true → Completes s (.mulh f) (Writes s (.mulh f) f.d (Elementwise w f.a f.b (fun a b =>
       if t2 then a * b / 2 ^ w else fit w false (signedOf w a * signedOf w b / 2 ^ w))))) ∧
     (s.clear (.mad f) = true → Completes s (.mad f) (Writes s (.mad f) f.d (fun c x => ∀ j < 64 / w,
       elemAt w x.toNat j = (c.elem w f.a j * c.elem w f.b j +
         c.elem w (if (s.pfx (.mad f)).e = 0 then f.d else (s.pfx (.mad f)).e) j) % 2 ^ w)))) ∧
  (∀ (s : State) (f : LA),
     let w := viewWidth f.t
     let t2 := f.t.getLsbD 2
     let read (n : Nat) : Int := if t2 then n else signedOf w n
     (s.clear (.min f) = true → Completes s (.min f) (Writes s (.min f) f.d (fun c x => ∀ j < 64 / w,
       let e := elemAt w x.toNat j
       (e = c.elem w f.a j ∨ e = c.elem w f.b j) ∧ read e = min (read (c.elem w f.a j)) (read (c.elem w f.b j))))) ∧
     (s.clear (.max f) = true → Completes s (.max f) (Writes s (.max f) f.d (fun c x => ∀ j < 64 / w,
       let e := elemAt w x.toNat j
       (e = c.elem w f.a j ∨ e = c.elem w f.b j) ∧ read e = max (read (c.elem w f.a j)) (read (c.elem w f.b j))))) ∧
     (s.clear (.and f) = true → Completes s (.and f) (Writes s (.and f) f.d (fun c x => ∀ n,
       x.getLsbD n = ((c.regs.get f.a).getLsbD n && (c.regs.get f.b).getLsbD n)))) ∧
     (s.clear (.or f) = true → Completes s (.or f) (Writes s (.or f) f.d (fun c x => ∀ n,
       x.getLsbD n = ((c.regs.get f.a).getLsbD n || (c.regs.get f.b).getLsbD n)))) ∧
     (s.clear (.xor f) = true → Completes s (.xor f) (Writes s (.xor f) f.d (fun c x => ∀ n,
       x.getLsbD n = ((c.regs.get f.a).getLsbD n != (c.regs.get f.b).getLsbD n)))) ∧
     (s.clear (.not f) = true → Completes s (.not f) (Writes s (.not f) f.d (fun c x => ∀ n < 64,
       x.getLsbD n = !(c.regs.get f.a).getLsbD n))) ∧
     (s.clear (.abs f) = true → Completes s (.abs f) (Writes s (.abs f) f.d (Elementwise1 w f.a (fun a =>
       fit w t2 (signedOf w a).natAbs)))) ∧
     (s.clear (.neg f) = true → Completes s (.neg f) (Writes s (.neg f) f.d (Elementwise1 w f.a (fun a =>
       fit w t2 (-signedOf w a)))))) ∧
  (∀ (s : State) (f : LA) (g : LI),
     let w := viewWidth f.t
     let read (n : Nat) : Int := if f.t.getLsbD 2 then n else signedOf w n
     (s.clear (.cmp f) = true → Completes s (.cmp f) (fun c c' => ∃ b : Bool,
       (b = true ↔ holdsInt (f.d.extractLsb' 3 3) (read (c.elem w f.a 0)) (read (c.elem w f.b 0)) (c.elem w f.a 0)
         (c.elem w f.b 0)) ∧
       Moves s c c' ((s.recorded (.cmp f) c).putPred (f.d.extractLsb' 0 3) b))) ∧
     (s.clear (.cmpi g) = true → Completes s (.cmpi g) (fun c c' => ∃ b : Bool,
       (b = true ↔ holdsInt (g.d.extractLsb' 3 3) (c.regs.get g.a).toInt g.imm.toInt (c.regs.get g.a).toNat
         (BitVec.ofInt 64 g.imm.toInt : Word).toNat) ∧
       Moves s c c' ((s.recorded (.cmpi g) c).putPred (g.d.extractLsb' 0 3) b))))

/-- R355, R351: SHL, SHR, SAR and ROT shift each element by b mod w; CLZ counts leading zeros, POPC the one bits, and
BREV moves bit j to bit w - 1 - j. Nothing else changes.

R369: BSRD reads v(a)[5:0] bits of the 128-bit window v(b+1):v(b) at the cursor, advances the cursor, and refills the
window when the cursor passes bit 63, after v(d) is written; p7 says whether it did. -/
def Obligations.ShiftsAndStream : Prop :=
  (∀ (s : State) (f : LA),
     let w := viewWidth f.t
     (s.clear (.shl f) = true → Completes s (.shl f) (Writes s (.shl f) f.d (Elementwise w f.a f.b (fun a b =>
       a * 2 ^ (b % w) % 2 ^ w)))) ∧
     (s.clear (.shr f) = true → Completes s (.shr f) (Writes s (.shr f) f.d (Elementwise w f.a f.b (fun a b =>
       a / 2 ^ (b % w))))) ∧
     (s.clear (.sar f) = true → Completes s (.sar f) (Writes s (.sar f) f.d (Elementwise w f.a f.b (fun a b =>
       fit w false (signedOf w a / 2 ^ (b % w)))))) ∧
     (s.clear (.rot f) = true → Completes s (.rot f) (Writes s (.rot f) f.d (fun c x => ∀ j < 64 / w, ∀ n < w,
       (elemAt w x.toNat j).testBit ((n + c.elem w f.b j) % w) = (c.elem w f.a j).testBit n))) ∧
     (s.clear (.clz f) = true → Completes s (.clz f) (Writes s (.clz f) f.d (fun c x => ∀ j < 64 / w,
       let e := elemAt w x.toNat j
       if c.elem w f.a j = 0 then e = w
       else e < w ∧ 2 ^ (w - 1 - e) ≤ c.elem w f.a j ∧ c.elem w f.a j < 2 ^ (w - e)))) ∧
     (s.clear (.popc f) = true → Completes s (.popc f) (Writes s (.popc f) f.d (Elementwise1 w f.a (fun a =>
       ((List.range w).filter (fun n => a.testBit n)).length)))) ∧
     (s.clear (.brev f) = true → Completes s (.brev f) (Writes s (.brev f) f.d (fun c x => ∀ j < 64 / w, ∀ n < w,
       (elemAt w x.toNat j).testBit n = (c.elem w f.a j).testBit (w - 1 - n))))) ∧
  (∀ (s : State) (f : LA), s.clear (.bsrd f) = true →
     Completes s (.bsrd f) (fun c c' =>
       let r := s.recorded (.bsrd f) c
       let n := (r.get f.a).toNat % 64
       let hi := r.getN (f.b.toNat + 1)
       let window := hi.toNat * 2 ^ 64 + (r.get f.b).toNat
       let x : Word := BitVec.ofNat 64 (window / 2 ^ r.bcur.toNat % 2 ^ n)
       let cur := r.bcur.toNat + n
       Moves s c c' (
         if cur < 64 then { (r.put f.d x).putPred 7 false with bcur := BitVec.ofNat 6 cur }
         else { (((r.put f.d x).put f.b hi).putN (f.b.toNat + 1) 0).putPred 7 true with bcur := BitVec.ofNat 6 (cur - 64) })))

/-- R363: BFX reads the field that v(b) describes, cut at bit 63 and sign-extended where bit 16 says so; BFI puts the
low bits of v(a) into that field of v(d). Nothing else changes. -/
def Obligations.BitFields : Prop := ∀ (s : State) (f : LA),
  let pos (c : Ctx) : Nat := (c.regs.get f.b).toNat % 64
  let wid (c : Ctx) : Nat := min ((c.regs.get f.b).toNat / 256 % 128) (64 - pos c)
  (s.clear (.bfx f) = true → Completes s (.bfx f) (Writes s (.bfx f) f.d (fun c x => ∀ n < 64,
    x.getLsbD n = if n < wid c then (c.regs.get f.a).getLsbD (pos c + n)
      else (c.regs.get f.b).getLsbD 16 && decide (wid c > 0) && (c.regs.get f.a).getLsbD (pos c + wid c - 1)))) ∧
  (s.clear (.bfi f) = true → Completes s (.bfi f) (Writes s (.bfi f) f.d (fun c x => ∀ n < 64,
    x.getLsbD n = if pos c ≤ n ∧ n < pos c + wid c then (c.regs.get f.a).getLsbD (n - pos c)
      else (c.regs.get f.d).getLsbD n)))

/-- R418, R412, R413, R427: NOP changes no register; MOV copies v(a), MOVS s(a) of the thread's team, MOVI the sign-
extended immediate; SEL chooses by p(T), which is true for p0. Nothing else changes.

R356, R430: the immediate operations act on the whole register, with imm9 sign-extended, or shift by imm9[5:0].
Nothing else changes. -/
def Obligations.MovesAndImmediates : Prop :=
  (∀ (s : State) (f : LA) (g : LI),
     (s.clear (.nop f) = true → Completes s (.nop f) (fun c c' => Moves s c c' (s.recorded (.nop f) c))) ∧
     (s.clear (.mov f) = true → Completes s (.mov f) (Writes s (.mov f) f.d (fun c x => x = c.regs.get f.a))) ∧
     (s.clear (.movs f) = true → Completes s (.movs f) (Writes s (.movs f) f.d (fun c x =>
       x = if f.a = 0 then 0 else ((s.team? c.id.wg c.team).map (fun t => t.get f.a)).getD 0))) ∧
     (s.clear (.movi g) = true → Completes s (.movi g) (Writes s (.movi g) g.d (fun _ x =>
       x.toInt = signedOf 15 (g.a.toNat * 512 + g.imm.toNat)))) ∧
     (s.clear (.sel f) = true → Completes s (.sel f) (Writes s (.sel f) f.d (fun c x =>
       x = if f.t = 0 ∨ c.regs.p.getLsbD f.t.toNat then c.regs.get f.a else c.regs.get f.b)))) ∧
  (∀ (s : State) (f : LI),
     let imm : Word := BitVec.ofInt 64 f.imm.toInt
     let n := f.imm.toNat % 64
     let wr (i : Instr) (g : Word → Word) : Prop :=
       s.clear i = true → Completes s i (Writes s i f.d (fun c x => x = g (c.regs.get f.a)))
     wr (.addi f) (fun a => a + imm) ∧ wr (.andi f) (fun a => a &&& imm) ∧ wr (.ori f) (fun a => a ||| imm) ∧
     wr (.xori f) (fun a => a ^^^ imm) ∧ wr (.shli f) (fun a => a <<< n) ∧ wr (.shri f) (fun a => a >>> n) ∧
     wr (.sari f) (fun a => BitVec.ofInt 64 (a.toInt / 2 ^ n)) ∧ wr (.roti f) (fun a => (a <<< n) ||| (a >>> (64 - n))))

/-- R396: IDP8 and IDP4 add to each of the two signed 32-bit accumulators of v(d) the exact sum of four or eight
signed products, clamped under SAT, else modulo 2^32. Nothing else changes. -/
def Obligations.IntegerDots : Prop := ∀ (s : State) (f : LA),
  let dot (w n : Nat) (c : Ctx) (j : Nat) : Int :=
    ((List.range n).map (fun k => signedOf w (c.elem w f.a (n * j + k)) * signedOf w (c.elem w f.b (n * j + k)))).sum
  (s.clear (.idp8 f) = true → Completes s (.idp8 f) (Writes s (.idp8 f) f.d (fun c x => ∀ j < 2,
    elemAt 32 x.toNat j = fit 32 ((s.pfx (.idp8 f)).sat == 1) (signedOf 32 (c.elem 32 f.d j) + dot 8 4 c j)))) ∧
  (s.clear (.idp4 f) = true → Completes s (.idp4 f) (Writes s (.idp4 f) f.d (fun c x => ∀ j < 2,
    elemAt 32 x.toNat j = fit 32 ((s.pfx (.idp4 f)).sat == 1) (signedOf 32 (c.elem 32 f.d j) + dot 4 8 c j))))

/-- R377, R378: FADD, FSUB, FMUL and FFMA round the exact result of each element once. An operand is a NaN, an
infinity of a sign, or an exact number; a sum of infinities of opposite sign and a product of an infinity and a zero
are invalid.

R379: FMIN and FMAX give the lesser or greater operand unchanged, with -0 below +0; beside one NaN the other operand,
for two NaNs the canonical NaN; a signalling NaN raises NV; nothing is rounded. A subnormal operand is a zero of its
sign under FTZI, a subnormal result one under FTZO, raising UF and NX. R380: FCMP writes a predicate and raises NV as
its condition says. -/
def Obligations.FloatArithmetic : Prop :=
  (∀ (s : State) (f : LA),
     let v := floatView f.t
     let x (c : Ctx) (env : FEnv) (n : Reg) (j : Nat) : FVal := v.operand env (c.elem v.width n j)
     RoundsAlu s (.fadd f) f.d v.width (fun c env j => v.finish env (.sum env.rdn [x c env f.a j, x c env f.b j])) ∧
     RoundsAlu s (.fsub f) f.d v.width (fun c env j => v.finish env (.sum env.rdn [x c env f.a j, (x c env f.b j).neg])) ∧
     RoundsAlu s (.fmul f) f.d v.width (fun c env j => v.finish env ((x c env f.a j).mul (x c env f.b j))) ∧
     RoundsAlu s (.ffma f) f.d v.width (fun c env j => v.finish env (.sum env.rdn [(x c env f.a j).mul (x c env f.b j),
       x c env (if (s.pfx (.ffma f)).e = 0 then f.d else (s.pfx (.ffma f)).e) j]))) ∧
  (∀ (s : State) (f : LA),
     let v := floatView f.t
     let env (c : Ctx) : FEnv := { FEnv.plain with ftzi := c.regs.mode.getLsbD 3, ftzo := c.regs.mode.getLsbD 4 }
     let chosen (max : Bool) (x y : FVal) (a b : Nat) : Nat :=
       if x.isNaN && y.isNaN then v.canonicalNaN
       else if x.isNaN then b
       else if y.isNaN then a
       else if max then (if lowerThan x y then b else a)
       else if lowerThan y x then b else a
     let mm (i : Instr) (max : Bool) : Prop := s.clear i = true → Completes s i (fun c c' => ∃ r' : Regs,
       let r := s.recorded i c
       let o (j : Nat) : FOut :=
         let a := c.elem v.width f.a j
         let b := c.elem v.width f.b j
         let x := v.operand (env c) a
         let y := v.operand (env c) b
         passedOn v (env c) (x.raises || y.raises) (chosen max x y a b)
       (∀ j < 64 / v.width, elemAt v.width (r'.get f.d).toNat j = (o j).bits) ∧
       r' = { r.put f.d (r'.get f.d) with
         fflags := r.fflags ||| outFlags ((List.range (64 / v.width)).map o) } ∧ Moves s c c' r')
     mm (.fmin f) false ∧ mm (.fmax f) true ∧
     (s.clear (.fcmp f) = true → Completes s (.fcmp f) (fun c c' => ∃ (b nv : Bool),
       let r := s.recorded (.fcmp f) c
       let x := v.operand (env c) (c.elem v.width f.a 0)
       let y := v.operand (env c) (c.elem v.width f.b 0)
       let k := (f.d.extractLsb' 3 3).toNat
       (x.isNaN = true ∨ y.isNaN = true → b = (k = 1 || k = 6)) ∧
       (x.isNaN = false → y.isNaN = false → (b = true ↔ match k with
         | 0 => x.le y ∧ y.le x
         | 1 => ¬(x.le y ∧ y.le x)
         | 2 => ¬y.le x
         | 3 => x.le y
         | 4 => ¬x.le y
         | 5 => y.le x
         | 6 => False
         | _ => True)) ∧
       (nv = true ↔ x.raises = true ∨ y.raises = true ∨ (2 ≤ k ∧ k ≤ 5 ∧ (x.isNaN = true ∨ y.isNaN = true))) ∧
       Moves s c c' { r.putPred (f.d.extractLsb' 0 3) b with fflags := if nv then r.fflags ||| 1 else r.fflags })))

/-- R381, R382, R291: FCVT takes k elements, from part T of v(a) when it widens, from v(a) upward when it narrows, and
rounds each value once. To an integer a NaN gives 0, and what does not fit the nearest end, both raising NV (R115); a
signalling NaN raises NV when it widens too, which R382 leaves in doubt (log entry 114); equal codes and integer to
integer copy v(a), without a draw or a flag (log entry 15). R388: FRND rounds to an integral value of the operand's
sign, infinities kept, NX when it changes. R389: FSCL multiplies by the KS24 of v(b); a zero scale gives +0 and a NaN
scale the canonical NaN, without a flag. -/
def Obligations.FloatConversions : Prop := ∀ (s : State) (f : LA),
  let v := floatView f.t
  let sc := f.b.toNat / 8
  let dc := f.b.toNat % 8
  let formats : List Fmt := [fp32, bf16, fp16, e4m3, e5m2, e2m1]
  let width (code : Nat) : Nat := [32, 16, 16, 8, 8, 4, 32, 32].getD code 32
  let sw := width sc
  let dw := width dc
  let plain (bits : Nat) (fl : BitVec 5) : FOut := { bits := bits, flags := fl, nanLost := false }
  let value (env : FEnv) (n : Nat) : FVal :=
    if sc = 7 then .fin false n 0
    else if sc = 6 then .fin (decide (signedOf 32 n < 0)) (signedOf 32 n).natAbs 0
    else (formats.getD sc fp32).operand env n
  let lo : Int := if dc = 6 then -2 ^ 31 else 0
  let hi : Int := if dc = 6 then 2 ^ 31 - 1 else 2 ^ 32 - 1
  let toInteger (env : FEnv) (x : FVal) : FOut := match x with
    | .nan _ => plain 0 flagNV
    | .inf neg => plain ((if neg then lo else hi) % 2 ^ 32).toNat flagNV
    | .fin neg m e =>
      let r := roundAt env.mode neg m e false 0
      let z : Int := if neg then -(r.1 : Int) else r.1
      if z < lo then plain (lo % 2 ^ 32).toNat flagNV
      else if z > hi then plain (hi % 2 ^ 32).toNat flagNV
      else plain (z % 2 ^ 32).toNat (if r.2 then flagNX else 0)
  (sc = dc ∨ (sc ≥ 6 ∧ dc ≥ 6) → s.clear (.fcvt f) = true → Completes s (.fcvt f)
    (Writes s (.fcvt f) f.d (fun c x => x = c.regs.get f.a))) ∧
  (¬(sc = dc ∨ (sc ≥ 6 ∧ dc ≥ 6)) → RoundsAlu s (.fcvt f) f.d dw (fun c env j =>
    let n := if sw < dw then elemAt sw (c.regs.get f.a).toNat (f.t.toNat % (dw / sw) * (64 / dw) + j)
      else elemAt sw (c.regs.getN (f.a.toNat + j / (64 / sw))).toNat (j % (64 / sw))
    if dc < 6 then (formats.getD dc fp32).finish env (value env n) else toInteger env (value env n))) ∧
  RoundsAlu s (.frnd f) f.d v.width (fun c env j => match v.operand env (c.elem v.width f.a j) with
    | .nan q => plain v.canonicalNaN (if q then flagNV else 0)
    | .inf neg => plain (v.signed neg v.infCode) 0
    | .fin neg m e =>
      let r := roundAt env.mode neg m e false (max e 0)
      plain (v.finish FEnv.plain (.fin neg r.1 (max e 0))).bits (if r.2 then flagNX else 0)) ∧
  RoundsAlu s (.fscl f) f.d v.width (fun c env j =>
    let k : Nat := if v = fp32 then c.elem 32 f.b j else (c.regs.get f.b).toNat
    let ex : Nat := k / 2 ^ 16 % 2 ^ 8
    if ex = 0 then plain 0 0
    else if ex = 255 then plain v.canonicalNaN 0
    else v.finish env ((v.operand env (c.elem v.width f.a j)).mul
      (.fin false (2 ^ 16 + k % 2 ^ 16) ((ex : Int) - 127 - 16))))

/-- R117, R384: FDP8 and FDP4 add to each FP32 accumulator of v(d) the exact sum of four or eight products of 8-bit or
4-bit elements, with one rounding. FTZI acts on the accumulator only.

R383, R387: FDIV, FRCP, FRSQ, FSQRT, FEX2, FLG2, FSIN and FCOS round the result of each of the two FP32 elements once;
the result arrives later, and the destination is pending until then (R38, R39). FDIV rounds the quotient, whose first
256 bits and what is left of it decide every rounding; 0/0 and an infinity by an infinity are invalid, a finite number
by a zero is an infinity with DZ, an infinity by a finite number one, and a finite number by it a zero. FRCP rounds
the quotient 1/x.

R122, R424: a draw advances %rngc by 1 and mixes %rngk with it; RND writes the drawn value, RNDF two FP32 values in
[0, 1) made of the high 24 bits of its halves. Nothing else changes but the destination, which is pending. -/
def Obligations.FloatSums : Prop :=
  (∀ (s : State) (f : LA),
     let prods (fa fb : Fmt) (n : Nat) (c : Ctx) (j : Nat) : List FVal := (List.range n).map (fun k =>
       (fa.decode (c.elem fa.width f.a (n * j + k))).mul (fb.decode (c.elem fb.width f.b (n * j + k))))
     let acc (c : Ctx) (env : FEnv) (j : Nat) : FVal := fp32.operand env (c.elem 32 f.d j)
     RoundsAlu s (.fdp8 f) f.d 32 (fun c env j => fp32.finish env (.sum env.rdn (acc c env j ::
       prods (if f.t.getLsbD 0 then e5m2 else e4m3) (if f.t.getLsbD 1 then e5m2 else e4m3) 4 c j))) ∧
     RoundsAlu s (.fdp4 f) f.d 32 (fun c env j => fp32.finish env (.sum env.rdn (acc c env j :: prods e2m1 e2m1 8 c j)))) ∧
  (∀ (s : State) (f : LX),
     let x (c : Ctx) (j : Nat) : Nat := c.elem 32 f.a j
     let quotient (env : FEnv) (a b : FVal) : FOut :=
       let neg := a.isNeg != b.isNeg
       let infinity (fl : BitVec 5) : FOut := { bits := fp32.signed neg fp32.infCode, flags := fl, nanLost := false }
       let invalid (nv : Bool) : FOut :=
         { bits := fp32.canonicalNaN, flags := if nv then flagNV else 0, nanLost := false }
       match a, b with
       | .nan q, y => invalid (q || y.raises)
       | _, .nan q => invalid q
       | .inf _, .inf _ => invalid true
       | .inf _, _ => infinity 0
       | .fin _ _ _, .inf _ => { bits := fp32.signed neg 0, flags := 0, nanLost := false }
       | .fin _ m e, .fin _ m' e' =>
         if m' = 0 then (if m = 0 then invalid true else infinity flagDZ)
         else fp32.roundMag env neg (m * 2 ^ 256 / m') (e - e' - 256) (m * 2 ^ 256 % m' != 0)
     RoundsLong s (.fdiv f) f.d (fun c env j =>
       quotient env (fp32.operand env (x c j)) (fp32.operand env (c.elem 32 f.b j))) ∧
     RoundsLong s (.frcp f) f.d (fun c env j => quotient env (.fin false 1 0) (fp32.operand env (x c j))) ∧
     RoundsLong s (.frsq f) f.d (fun c env j => transElem env 1 (x c j)) ∧
     RoundsLong s (.fsqrt f) f.d (fun c env j => transElem env 2 (x c j)) ∧
     RoundsLong s (.fex2 f) f.d (fun c env j => transElem env 3 (x c j)) ∧
     RoundsLong s (.flg2 f) f.d (fun c env j => transElem env 4 (x c j)) ∧
     RoundsLong s (.fsin f) f.d (fun c env j => transElem env 5 (x c j)) ∧
     RoundsLong s (.fcos f) f.d (fun c env j => transElem env 6 (x c j))) ∧
  (∀ (s : State) (f : LX),
     let z (r : Regs) : Word :=
       let z0 := r.rngk + (r.rngc + 1) * 0x9E3779B97F4A7C15#64
       let z1 := (z0 ^^^ (z0 >>> 30)) * 0xBF58476D1CE4E5B9#64
       let z2 := (z1 ^^^ (z1 >>> 27)) * 0x94D049BB133111EB#64
       z2 ^^^ (z2 >>> 31)
     let dr (i : Instr) (val : Ctx → Word → Prop) : Prop := s.clear i = true → Completes s i (fun c c' => ∃ x, val c x ∧
       Issues s i ({ s.recorded i c with rngc := c.regs.rngc + 1 }.put f.d x) .result c c')
     dr (.rnd f) (fun c x => x = z c.regs) ∧
     dr (.rndf f) (fun c x => ∀ j < 2, ∃ neg m e, fp32.decode (elemAt 32 x.toNat j) = .fin neg m e ∧ neg = false ∧
       e ≤ 0 ∧ m * 2 ^ 24 = (elemAt 32 (z c.regs).toNat j / 256) * 2 ^ (-e).toNat))

/-- R387's special cases: zeros, infinities, negative operands, and NaNs, in every mode without the flush flags.

R387's values: FSQRT and FRSQ round the square root, or its reciprocal, of a positive number, of which r is the whole
part at 2^-128 of its place or finer and what is left of it decides; FEX2 of a whole number and FLG2 of a power of two
are exact before they are rounded.

R103, R110: a finite code of FP32, FP16, BF16, E4M3, E5M2, E3M2 or E2M1 rounds back to itself in every mode, with no
flag raised, whether or not SAT is set: an exact result is never changed.

R110, R111: what one rounding of a magnitude m·2^e to a multiple of 2^u does in each mode, for u above e: RTZ cuts,
RUP and RDN go to the side that their direction and the sign name, RNE and RNA take the nearest multiple, a tie going
to the even one or away from zero, and SR goes away from zero exactly when floor(d·2^b) exceeds q; an exact magnitude
is kept. -/
def Obligations.RoundingRules : Prop :=
  (∀ (m : RMode) (sat : Bool),
     let env : FEnv := { mode := m, ftzi := false, ftzo := false, sat := sat }
     let pz := 0
     let nz := 2 ^ 31
     let pinf := fp32.infCode
     let ninf := 2 ^ 31 + fp32.infCode
     let is (code x bits : Nat) (fl : BitVec 5) : Prop :=
       (transElem env code x).bits = bits ∧ (transElem env code x).flags = fl
     is 0 pz pinf flagDZ ∧ is 0 nz ninf flagDZ ∧ is 0 pinf pz 0 ∧ is 0 ninf nz 0 ∧
     is 1 pz pinf flagDZ ∧ is 1 nz ninf flagDZ ∧ is 1 pinf pz 0 ∧ is 1 ninf fp32.canonicalNaN flagNV ∧
     is 2 nz nz 0 ∧ is 2 pz pz 0 ∧ is 2 pinf pinf 0 ∧ is 2 ninf fp32.canonicalNaN flagNV ∧
     is 3 pinf pinf 0 ∧ is 3 ninf pz 0 ∧
     is 4 pz ninf flagDZ ∧ is 4 nz ninf flagDZ ∧ is 4 pinf pinf 0 ∧ is 4 ninf fp32.canonicalNaN flagNV ∧
     is 4 0x3F800000 pz 0 ∧
     is 5 pz pz 0 ∧ is 5 nz nz 0 ∧ is 5 pinf fp32.canonicalNaN flagNV ∧ is 5 ninf fp32.canonicalNaN flagNV ∧
     is 6 pinf fp32.canonicalNaN flagNV ∧ is 6 ninf fp32.canonicalNaN flagNV ∧ is 6 pz 0x3F800000 0 ∧
     is 6 nz 0x3F800000 0 ∧
     (∀ x m e, m ≠ 0 → fp32.decode x = .fin true m e →
       is 1 x fp32.canonicalNaN flagNV ∧ is 2 x fp32.canonicalNaN flagNV ∧ is 4 x fp32.canonicalNaN flagNV) ∧
     (∀ code < 7, ∀ x q, fp32.decode x = .nan q → is code x fp32.canonicalNaN (if q then flagNV else 0))) ∧
  (∀ (env : FEnv) (x : Nat) (neg : Bool) (m : Nat) (e : Int), m ≠ 0 →
     fp32.operand env x = .fin neg m e →
     (∀ (r : Nat) (g : Int), neg = false → g = (if e % 2 = 0 then e - 256 else e - 257) →
       r * r ≤ m * 2 ^ (e - g).toNat → m * 2 ^ (e - g).toNat < (r + 1) * (r + 1) →
       transElem env 2 x = fp32.roundMag env false r (g / 2) (r * r != m * 2 ^ (e - g).toNat)) ∧
     (∀ (r k : Nat), neg = false → k = (if e % 2 = 0 then 320 else 321) →
       r * r * m ≤ 2 ^ k → 2 ^ k < (r + 1) * (r + 1) * m →
       transElem env 1 x = fp32.roundMag env false r ((-e - k) / 2) (r * r * m != 2 ^ k)) ∧
     (∀ k : Nat, k < 512 → (0 ≤ e ∧ m * 2 ^ e.toNat = k ∨ e < 0 ∧ m = k * 2 ^ (-e).toNat) →
       transElem env 3 x = fp32.roundMag env false 1 (if neg then -(k : Int) else k) false) ∧
     (∀ i : Nat, neg = false → m = 2 ^ i →
       transElem env 4 x = fp32.roundMag env (decide (e + i < 0)) (e + i).natAbs 0 false)) ∧
  (∀ f ∈ [fp32, fp16, bf16, e4m3, e5m2, e3m2, e2m1], ∀ (m : RMode) (sat : Bool),
     ∀ n < 2 ^ f.width, ∀ neg mag ex, f.decode n = .fin neg mag ex →
     f.finish { mode := m, ftzi := false, ftzo := false, sat := sat } (.fin neg mag ex) =
       { bits := n, flags := 0, nanLost := false }) ∧
  (∀ (neg : Bool) (m : Nat) (e u : Int), e < u →
     let p := 2 ^ (u - e).toNat
     let r (mode : RMode) : Nat := (roundAt mode neg m e false u).1
     (∀ mode, m % p = 0 → r mode * p = m) ∧
     (∀ mode, (roundAt mode neg m e false u).2 = decide (m % p ≠ 0)) ∧
     r .rtz = m / p ∧
     (m % p ≠ 0 → r .rup = if neg then m / p else m / p + 1) ∧
     (m % p ≠ 0 → r .rdn = if neg then m / p + 1 else m / p) ∧
     (2 * m ≤ (2 * r .rne + 1) * p ∧ (2 * r .rne - 1) * p ≤ 2 * m ∧
       (2 * m = (2 * r .rne + 1) * p ∨ 2 * m + p = 2 * r .rne * p → r .rne % 2 = 0)) ∧
     (2 * m < (2 * r .rna + 1) * p ∧ 2 * r .rna * p ≤ 2 * m + p) ∧
     (∀ b q, m % p ≠ 0 → r (.sr b q) = if m % p * 2 ^ b / p > q then m / p + 1 else m / p))

/-- R128: where a lane access lies. Global space is x itself, scratch %scr + x, the window %win + x, each in range as
the table says; an access that its space refuses traps SLAB or WINDOW. R130, R142: an address that is no multiple of
the access size traps MISALIGNED, and one that names nothing traps SLAB first.

R125, R126, R127, R132, R134: a slab address names byte bits 22:0 of the slice of core bits 30:23 on device bits
43:32; bit 31 and a core above 191 name nothing; the access traps SLAB when it reaches the system area, or when
neither the workgroup's scratch, its window nor a grant with the access's right covers it, and HANDLE when it touches
an owned buffer that the workgroup does not hold.

R241, R46: an LD or ST in global or scratch space whose a field is 62 or 63, that touches its workgroup's scratch
allocation, and whose bytes do not all lie in its thread's own stack range, traps STACKOVF. That range has the
launch's stack size and starts after the scratch, thread by thread; inside it no access traps so. -/
def Obligations.AccessChecks : Prop :=
  (∀ (s : State) (l : Launch) (w : Workgroup) (tix : Nat) (acc x : Word)
       (n a : Nat) (stack : Bool),
     (s.checkLane l w tix acc x 0 n a stack).1 = x ∧
     (s.checkLane l w tix acc x 1 n a stack).1 = s.scr w + x ∧
     (x.toNat + n > w.scrSize → (s.checkLane l w tix acc x 1 n a stack).2 = .trap causeSLAB) ∧
     (s.checkLane l w tix acc x 2 n a stack).1 = l.win w.lin + x ∧
     (x.toNat + n > l.winstride → (s.checkLane l w tix acc x 2 n a stack).2 = .trap causeWINDOW) ∧
     (s.checkLane l w tix acc x 3 n a stack).1 = acc + x ∧
     (acc.toNat + x.toNat + n > 2 ^ 20 ∨ a ≠ accLoad → (s.checkLane l w tix acc x 3 n a stack).2 = .trap causeSLAB) ∧
     (acc.toNat + x.toNat + n ≤ 2 ^ 20 → (acc.toNat + x.toNat) % n = 0 →
       (s.checkLane l w tix acc x 3 n accLoad stack).2 = .key (accKey w.core (acc.toNat + x.toNat))) ∧
     (x.toNat < 0x00F0000000000000 → x.toNat % n ≠ 0 →
       (s.checkLane l w tix acc x 0 n a stack).2 = .trap causeMISALIGNED) ∧
     (x.toNat ≥ 0x00F0100000000000 → (s.checkLane l w tix acc x 0 n a stack).2 = .trap causeSLAB)) ∧
  (∀ (s : State) (l : Launch) (w : Workgroup) (tix n a core off : Nat),
     core < 192 → off < 2 ^ 23 → n ∈ [1, 2, 4, 8, 16] → off % n = 0 → a ∈ [accLoad, accStore, accAtomic] →
     l.sampled = false →
     let addr := 0x00F00FFF00000000 + core * 2 ^ 23 + off
     s.slabDecode addr = some (slabKey core off) ∧
     s.slabDecode (addr + 2 ^ 31) = none ∧
     (off + n > 0x7F0000 → s.checkAddr l w tix 0 addr n a false = .trap causeSLAB) ∧
     (inside (slabKey core off) n w.scrKey w.scrSize = false → s.inOwnWindow l w (slabKey core off) n = false →
       (∀ g ∈ l.grants, g.base ≤ slabKey core off → slabKey core off + n ≤ g.base + g.len →
         (if a = accLoad then g.rd else if a = accAtomic then g.at_ else g.wr) = false) →
       s.checkAddr l w tix 0 addr n a false = .trap causeSLAB) ∧
     (off + n ≤ 0x7F0000 → s.touchesHeld (slabKey core off) n = false →
       s.handleBars (some w.num) (slabKey core off) n = false →
       (∃ g ∈ l.grants, g.base ≤ slabKey core off ∧ slabKey core off + n ≤ g.base + g.len ∧
         (if a = accLoad then g.rd else if a = accAtomic then g.at_ else g.wr) = true) →
       s.checkAddr l w tix 0 addr n a false = .key (slabKey core off)) ∧
     (off + n ≤ 0x7F0000 → s.touchesHeld (slabKey core off) n = false →
       (∃ g ∈ l.grants, g.base ≤ slabKey core off ∧ slabKey core off + n ≤ g.base + g.len ∧
         (if a = accLoad then g.rd else if a = accAtomic then g.at_ else g.wr) = true) →
       (∃ e ∈ (s.core core).handles, e.2.state ≠ 0 ∧ off < e.2.base + e.2.len ∧ e.2.base < off + n ∧
         ¬(e.2.state = 1 ∧ e.2.holder = w.num)) →
       s.checkAddr l w tix 0 addr n a false = .trap causeHANDLE)) ∧
  (∀ (s : State) (f : LM) (p : Pfx) (c : Ctx) (l : Launch) (w : Workgroup) (a off : Nat),
     s.home? c = some (l, w) → f.sp.toNat ≤ 1 → 62 ≤ f.a.toNat → f.w.toNat ≤ 4 → a ∈ [accLoad, accStore] → l.sampled = false →
     let n := 2 ^ f.w.toNat
     let x := if p.e = 0 then c.regs.get f.a else c.regs.get f.a + c.regs.get p.e
     let at_ := if f.sp = 0 then x else s.scr w + x
     let low := w.scrOff + l.scratch + c.id.tix * l.stack
     (f.sp = 1 → x.toNat + n ≤ w.scrSize) → s.slabDecode at_.toNat = some (slabKey w.core off) → at_.toNat % n = 0 →
     off < w.scrOff + w.scrSize → w.scrOff < off + n →
     (low ≤ off ∧ off + n ≤ low + l.stack → (s.lmCheck p f a c).2 ≠ .trap causeSTACKOVF) ∧
     (¬(low ≤ off ∧ off + n ≤ low + l.stack) → s.lmCheck p f a c = (at_, .trap causeSTACKOVF)))

/-- R137, R138, R139, R140, R144: the walk from a root in HBM or host memory. Table n, named by entry n - 1 in the
same memory, is indexed by the address bits of level n. The walk ends in BADENTRY at an entry outside its stack, in
NOTVALID at one without V, in BADENTRY at a leaf of level 0 or 1, at a table entry of level 4, and at a leaf with MT
3, reserved bits, DEV without MT 1, a PA not aligned to its page or an address outside its stack; a valid leaf gives
NOREAD or NOWRITE where it lacks the right, UNREACH where Span routing does not reach DEV, and else the place in its
page: local HBM for MT 0 and for this device's own number, host memory, or another device's HBM. A cached leaf serves
as one that the walk has met, and its address is tested too; that, and that addresses from 2^39 on lie outside, are
the model's reading (log entry 19), and so is the level of an UNREACH fault (log entry 20). -/
def Obligations.PageWalk : Prop := ∀ (s : State) (host : Bool) (r addr acc : Nat), r < 2 ^ 52 → addr < 0x00F0000000000000 →
  acc ∈ [accLoad, accStore, accAtomic, accEngineRead, accEngineWrite] →
  let base := if host then hostBase else hbmBase
  let root := base + r
  let low (n : Nat) : Nat := [48, 39, 30, 21, 16].getD n 16
  let count (n : Nat) : Nat := [8, 9, 9, 9, 5].getD n 9
  let outside (pa : Nat) : Prop := 2 ^ 39 ≤ pa ∨ 48000000000 ≤ pa % 2 ^ 36
  let place (table n : Nat) : Nat := table + 8 * (addr / 2 ^ low n % 2 ^ count n)
  let table (n : Nat) : Nat := (List.range n).foldl (fun t k => base + s.memNat (place t k) 8 / 2 ^ 8 % 2 ^ 44 * 2 ^ 8) root
  let entry (n : Nat) : Nat := s.memNat (place (table n) n) 8
  let lost (n : Nat) : Prop := host = false ∧ outside (place (table n) n - hbmBase)
  let reached (n : Nat) : Prop := ∀ k < n, ¬lost k ∧ entry k % 4 = 1
  let bad (e n : Nat) : Prop := let pa := e / 2 ^ 16 % 2 ^ 36 * 2 ^ 16
    n < 2 ∨ e / 2 ^ 6 % 4 = 3 ∨ e / 2 ^ 8 % 2 ^ 8 ≠ 0 ∨ pa % 2 ^ low n ≠ 0 ∨ (e / 2 ^ 6 % 4 ≠ 1 ∧ e / 2 ^ 52 % 2 ^ 12 ≠ 0) ∨
      (e / 2 ^ 6 % 4 = 0 ∧ outside pa)
  let served (e n : Nat) (v : Verdict) : Prop :=
    let at_ := e / 2 ^ 16 % 2 ^ 36 * 2 ^ 16 + addr % 2 ^ low n
    let mt := e / 2 ^ 6 % 4
    let dev := e / 2 ^ 52 % 2 ^ 12
    if mt = 0 ∧ outside at_ then v = .fault reasonBADENTRY n
    else if acc ∈ [accLoad, accAtomic, accEngineRead] ∧ e / 2 ^ 2 % 2 = 0 then v = .fault reasonNOREAD n
    else if acc ∈ [accStore, accAtomic, accEngineWrite] ∧ e / 2 ^ 3 % 2 = 0 then v = .fault reasonNOWRITE n
    else if mt = 0 ∨ (mt = 1 ∧ s.devnum = some dev) then v = .key (hbmBase + at_)
    else if mt = 1 then
      v = if s.devnum.isSome ∧ (Table.find s.routes dev).isSome then .key (remoteKey dev false at_) else .fault reasonUNREACH n
    else v = .key (hostBase + at_)
  (∀ t, s.cached root addr = some t → t.level ≤ 4 → served t.leaf.toNat t.level (s.translate root addr acc)) ∧
  (s.cached root addr = none → ∀ n ≤ 4, reached n →
    (lost n → s.translate root addr acc = .fault reasonBADENTRY n) ∧
    (¬lost n → entry n % 2 = 0 → s.translate root addr acc = .fault reasonNOTVALID n) ∧
    (¬lost n → entry n % 4 = 1 → n = 4 → s.translate root addr acc = .fault reasonBADENTRY n) ∧
    (¬lost n → entry n % 4 = 3 → bad (entry n) n → s.translate root addr acc = .fault reasonBADENTRY n) ∧
    (¬lost n → entry n % 4 = 3 → ¬bad (entry n) n → served (entry n) n (s.translate root addr acc)))

/-- R404, R128, R142, R150, R143: an LD issues: each acting thread has a load of the width's bytes outstanding at its
place, with v(d), or v(d) and v(d+1) for a pair, pending; one that fails a check waits to trap, and one whose
translation faults is parked. Memory, and every register but %warn, is unchanged. A load of the accumulator space
makes its workgroup Loom-holding (R249).

R404, R405: LOAD_COMPLETE writes the bytes that the thread sees: extended for 1 to 4 bytes, or as they are, or the two
halves of a pair, of which one may have been read before (R219). While an older access of the thread to its bytes is
outstanding nothing happens. A load of another device's memory first sends its packet (R268), a step of its own by log
entry 83. A load that meets a poisoned unit traps MEMERR at the unit's address, and one whose bytes another workgroup
has come to own HANDLE (R134); a continuation's stays where it is then (R207). No byte of memory changes but the
states of fault records whose replay it was, which are freed (R146). -/
def Obligations.Loads : Prop :=
  (∀ (s : State) (f : LM),
     let check (c : Ctx) : Word × Verdict := s.lmCheck (s.pfx (.ld f)) f accLoad c
     let load (c : Ctx) (key : Nat) : Access :=
       { addr := (check c).1, key := key, size := 2 ^ f.w.toNat, op := .load (f.sx == 1) }
     let kind (c : Ctx) : FlightKind := match (check c).2 with
       | .key k => .access (load c k) false
       | .trap cause => .trap cause (check c).1
       | .fault _ _ => .parked (load c 0) false
     s.clear (.ld f) = true →
     CompletesWith s (.ld f) (fun c => Issues s (.ld f) (s.recorded (.ld f) c) (kind c) c)
       (fun t => t = { s with ctxs := t.ctxs, nextNum := s.nextNum + 1, tlb := t.tlb, forks := t.forks, wgs := t.wgs, cores := t.cores } ∧
         (s.passes (.ld f) check = true → t.cores = s.cores) ∧
         (f.sp ≠ 3 → t.wgs = s.wgs) ∧ ((∀ c ∈ s.actors (.ld f), c.id.lvl = 0) → t.forks = s.forks) ∧
         (f.sp = 3 → ∀ c ∈ s.actors (.ld f), ∀ w, t.wg? c.id.wg = some w → w.loomHolding = true))) ∧
  (∀ (s : State) (id : CtxId) (num : Nat) (c : Ctx) (f : Flight) (a : Access)
       (sx : Bool),
     s.has id num c f → f.what = .access a false → a.op = .load sx →
     let part : Nat × Nat := match a.half with
       | none => (a.key, a.size)
       | some (true, _) => (a.key, 8)
       | some (false, _) => (a.key + 8, 8)
     let wholly (bytes : List Byte) : List Byte := match a.half with
       | none => bytes
       | some (true, high) => bytes ++ high
       | some (false, low) => low ++ bytes
     let far : Prop := isRemoteKey a.key = true ∧ a.asked = none ∧
       ∃ j < part.2, s.fromHome (s.viewer c num) (part.1 + j) = true
     let bytes := wholly ((s.fillL1 (s.coreOf c) part.1).ctxBytes c num part.1 part.2)
     let x : Word := BitVec.ofNat 64 (leNat bytes)
     let barred := s.handleBars (some id.wg) part.1 part.2
     (c.olderOver num part.1 part.2 = true → Stays s (.loadComplete id num)) ∧
     (c.olderOver num part.1 part.2 = false → far → ∀ link comm, s.devnum.isSome →
       Table.find s.routes (remoteDev a.key) = some (link, comm) →
       Answers s (.loadComplete id num) (fun t => t = { s with ctxs := t.ctxs, nextNum := s.nextNum + 1, linkOut := t.linkOut } ∧
         t.linkOut = s.linkOut ++ [packetTo s a.key s.nextNum (.load a.size) link comm] ∧ OnlyCtx s t id ∧
         t.ctx? id = some { c with inflight := c.inflight.map (fun g => if g.num = num then (match g.what with
           | .access b u => { g with what := .access { b with asked := some s.nextNum } u }
           | _ => g) else g) })) ∧
     (c.olderOver num part.1 part.2 = false → ¬far → c.exposed f = true → s.freesNone c num = true → ∀ h, s.handles c h →
       (barred = true → Answers s (.loadComplete id num) (fun t => Fails s t c f h causeHANDLE a.addr)) ∧
       (∀ u, barred = false → s.ctxPoison c num part.1 part.2 = some u → a.key - u ≤ a.addr.toNat →
         Answers s (.loadComplete id num) (fun t => Fails s t c f h causeMEMERR (a.unitAt u)))) ∧
     (c.olderOver num part.1 part.2 = false → ¬far → c.id.lvl ≠ 0 →
       barred = true ∨ (s.ctxPoison c num part.1 part.2).isSome = true → Stays s (.loadComplete id num)) ∧
     (c.olderOver num part.1 part.2 = false → ¬far → barred = false → s.ctxPoison c num part.1 part.2 = none →
       c.quiet num = true →
       Answers s (.loadComplete id num) (fun t =>
         (s.freesNone c num = true → t = { s with ctxs := t.ctxs, cores := t.cores, seen := t.seen }) ∧ FreesOnly s t (s.coreOf c) ∧
         (∀ d, f.vdst = [d] → Landed s t id num (c.regs.put d
           (if sx = true ∧ a.size ≤ 4 then BitVec.ofInt 64 (signedOf (8 * a.size) (leNat bytes % 2 ^ (8 * a.size))) else x))) ∧
         (∀ d e, f.vdst = [d, e] → Landed s t id num ((c.regs.put d (BitVec.ofNat 64 (leNat (bytes.take 8)))).put e
           (BitVec.ofNat 64 (leNat (bytes.drop 8))))))))

/-- R433, R206, R219: an ST whose accesses pass their checks issues, and nothing of it stays outstanding: the bytes of
v(d), and of v(d+1) for a pair, enter the core's store path as writes of their threads, or the fork buffer of a
continuation. Memory itself, and every register but %warn, is unchanged.

R218, R434: STORE_VISIBLE performs a pending write that nothing holds back: its bytes, or what an addition or a
reduction makes of them, stand in memory from its key on, every other byte is unchanged, and no thread changes. A
write to another device is first sent over its route (R268), and waits for its acknowledgement once it is performed, a
step each by log entry 83; one that finds no route, or no device number, waits parked at its thread, or at every live
thread of its team, in the window of the store, for which a fault with reason UNREACH is recorded (R144, R148, R269,
log entry 63), and is dropped where no thread is left. One that meets an object which a launch has come to hold is not
performed, and its thread traps SLAB where its window ends (R74, R150, log entry 89); in a buffer that its workgroup
does not hold it traps HANDLE (R134). A write that waits for another one stays. Launches keep everything but the tests
of a start condition that the write touches (R95). -/
def Obligations.Stores : Prop :=
  (∀ (s : State) (f : LM),
     let i : Instr := .st f
     let check (c : Ctx) : Word × Verdict := s.lmCheck (s.pfx i) f accStore c
     let data (c : Ctx) : List Byte :=
       if f.w = 4 then leBytes 8 (c.regs.get f.d).toNat ++ leBytes 8 (c.regs.getN (f.d.toNat + 1)).toNat
       else leBytes (2 ^ f.w.toNat) (c.regs.get f.d).toNat
     s.clear i = true → s.passes i check = true → f.w.toNat ≤ 4 →
     CompletesWith s i (fun c c' => Moves s c c' (s.recorded i c))
       (fun t => t = { s with ctxs := t.ctxs, nextNum := t.nextNum, tlb := t.tlb, forks := t.forks, stores := t.stores } ∧
         ((∀ c ∈ s.actors i, c.id.lvl = 0) → t.stores.map (fun p => (p.src, p.key, p.op)) =
           s.stores.map (fun p => (p.src, p.key, p.op)) ++ (s.actors i).flatMap (fun c =>
             (storeParts (check c).2.place (data c)).map (fun e => (some c.id, e)))) ∧
         ((∀ c ∈ s.actors i, c.id.lvl ≠ 0) → s.cur.course.Nodup → t.stores = s.stores ∧ ∀ c ∈ s.actors i,
           (t.forkOf c.id).map Fork.buffer = (s.forkOf c.id).map (fun g =>
             g.buffer ++ [{ num := s.nextNum, addr := (check c).1, ins := (s.cur.pc, s.cur.word),
                            key := (check c).2.place, bytes := data c,
                            count := ((t.ctx? c.id).map Ctx.count).getD 0 }])))) ∧
  (∀ (s : State) (p : PendingWrite),
     s.stores.find? (fun q => q.num == p.num) = some p →
     let far := isRemoteKey p.key && !p.sent
     let owned : Prop := ∃ src, p.src = some src ∧ s.handleBars (some src.wg) p.key p.op.size = true
     let goes : Prop := s.writeReady p = true ∧ s.touchesHeld p.key p.op.size = false ∧ ¬owned
     let fault (c : Ctx) (what : FlightKind) : Flight :=
       { num := p.num, look := lookOf p.ins.2, since := c.count - p.countOf c, vdst := [], pdst := [], sdst := [],
         pc := p.ins.1, word := p.ins.2, what := what }
     let waiting (src : CtxId) (what : FlightKind) (c : Ctx) : Ctx :=
       let l := c.inflight.filter (fun f => f.what != .rel p.num)
       if c.live && covers src c.id.wg c.id.tix then
         { c with inflight := l.takeWhile (fun f => decide (f.num < p.num)) ++ fault c what ::
             l.dropWhile (fun f => decide (f.num < p.num)) }
       else c
     let traps (src : CtxId) (cause : Nat) : Prop := Answers s (.storeVisible p.num) (fun t =>
       t = { s with ctxs := t.ctxs, stores := t.stores } ∧ t.stores = s.stores.filter (fun q => q.num != p.num) ∧
       t.ctxs = s.ctxs.map (waiting src (.trap cause p.addr)))
     (s.writeReady p = false → Stays s (.storeVisible p.num)) ∧
     (goes → far = false →
       Answers s (.storeVisible p.num) (fun t => Stored s t p.key (homeBytes s.mem p.key p.op) ∧
         t.ctxs = s.ctxs ∧ t.teams = s.teams ∧ t.forks = s.forks ∧ t.undue = s.undue ∧ t.dcycle = s.dcycle ∧
         t.poison = poisonAfter s.poison p.key (homeBytes s.mem p.key p.op).length p.op.poisoned ∧
         t.acks = s.acks ++ (if isRemoteKey p.key then [p] else []))) ∧
     (goes → far = true → s.devnum.isSome → ∀ link comm,
       Table.find s.routes (remoteDev p.key) = some (link, comm) →
       Answers s (.storeVisible p.num) (fun t => t = { s with stores := t.stores, linkOut := t.linkOut } ∧
         t.stores = s.stores.map (fun q => if q.num = p.num then { q with sent := true } else q) ∧
         t.linkOut = s.linkOut ++ [packetTo s p.key p.num (match p.op with
           | .put bytes bad => .store bytes bad
           | .add width delta => .store (leBytes width (leNat (cellsRead s.mem p.key width) + delta))
           | .reduce code size bytes => .reduce code size bytes
           | .split _ _ _ _ => .store (homeBytes s.mem p.key p.op)) link comm])) ∧
     (∀ src bytes bad, goes → far = true → s.devnum = none ∨ Table.find s.routes (remoteDev p.key) = none →
       p.src = some src → p.op = .put bytes bad →
       let holders := s.ctxs.filter (fun c => c.live && covers src c.id.wg c.id.tix)
       (holders = [] → exec (.storeVisible p.num) s = .next { s with stores := s.stores.filter (fun q => q.num != p.num) }) ∧
       (∀ c cs, holders = c :: cs → s.ctx? c.id = some c → Answers s (.storeVisible p.num) (fun t =>
         t = { s with ctxs := t.ctxs, stores := t.stores, cores := t.cores } ∧
         t.ctxs = s.ctxs.map (waiting src
           (.parked { addr := p.addr, key := p.key, size := bytes.length, op := .store bytes } (src.lvl = 1))) ∧
         t.stores = s.stores.map (fun q => if q.num = p.num then { q with parked := some (c.id, p.num), sent := false } else q) ∧
         ∃ r, (t.core (s.coreOf c)).faultsWaiting = (s.core (s.coreOf c)).faultsWaiting ++ [r] ∧ r.addr = p.addr ∧
           r.pc = p.ins.1 ∧ r.reason = 4 ∧ r.access = 1 ∧ r.agent = (if src.lvl = 1 then 1 else 0) ∧
           r.level = s.levelOf src.wg p.addr.toNat ∧ r.who = holders.map (fun k => (k.id, p.num))))) ∧
     (∀ src, p.src = some src → s.writeReady p = true → s.touchesHeld p.key p.op.size = true → traps src causeSLAB) ∧
     (∀ src, p.src = some src → s.writeReady p = true → s.touchesHeld p.key p.op.size = false → owned → traps src causeHANDLE))

/-- R353, R361, R352: an ATOMW, ATOMD or ACAS whose accesses pass their checks issues: each acting thread has an
atomic outstanding with its operands, reduced to the access size, and v(d) pending. Nothing else changes but %warn.

R361, R352, R353: ATOMIC_PERFORM replaces the word or dword by the function of its old value and the operand, and
gives the old value to the destination; every other byte of memory and every other thread is unchanged. Code 8
compares and swaps. It waits for the thread's older accesses to its bytes and for the pending writes there that the
thread sees (R221); to another device its packet goes out first (log entry 83); a poisoned word traps MEMERR, an
object that a launch has come to hold SLAB (log entry 89), and a buffer that the thread's workgroup does not hold
HANDLE (R134). -/
def Obligations.Atomics : Prop :=
  (∀ (s : State) (f : LXA),
     let go (i : Instr) (n code : Nat) : Prop := s.clear i = true → s.passes i (s.lxaCheck f n) = true →
       CompletesWith s i
         (fun c => Issues s i (s.recorded i c) (accessOf (s.lxaCheck f n c) n
           (.atomic code (BitVec.ofNat 64 ((c.regs.get f.b).toNat % 2 ^ (8 * n)))
             (BitVec.ofNat 64 ((c.regs.get f.d).toNat % 2 ^ (8 * n))))) c)
         (fun t => t = { s with ctxs := t.ctxs, nextNum := s.nextNum + 1, tlb := t.tlb })
     go (.atomw f) 4 f.op.toNat ∧ go (.atomd f) 8 f.op.toNat ∧
     (f.op = 0 → go (.acas f) 4 8) ∧ (f.op = 1 → go (.acas f) 8 8)) ∧
  (∀ (s : State) (id : CtxId) (num : Nat) (c : Ctx) (f : Flight) (a : Access)
       (code : Nat) (y e : Word),
     s.has id num c f → f.what = .access a false → a.op = .atomic code y e → s.recordless c = true →
     a.size ∈ [4, 8] → y.toNat < 2 ^ (8 * a.size) → code ≤ 8 →
     let w := 8 * a.size
     let old := leNat (cellsRead s.mem a.key a.size)
     let new := match code with
       | 0 => (old + y.toNat) % 2 ^ w
       | 1 => if signedOf w old ≤ signedOf w y.toNat then old else y.toNat
       | 2 => if signedOf w old ≥ signedOf w y.toNat then old else y.toNat
       | 3 => old &&& y.toNat
       | 4 => old ||| y.toNat
       | 5 => old ^^^ y.toNat
       | 6 => y.toNat
       | 8 => if old = e.toNat then y.toNat else old
       | _ => packNat 32 ((List.range (a.size / 4)).map (fun j =>
           (fp32.add FEnv.plain (elemAt 32 old j) (elemAt 32 y.toNat j)).bits))
     let waits := c.olderOver num a.key a.size ||
       s.stores.any (fun p => (s.viewer c num).sees p && overlaps p.key p.op.size a.key a.size)
     let far := isRemoteKey a.key && a.asked.isNone
     let owned := s.handleBars (some id.wg) a.key a.size
     (waits = true → Stays s (.atomicPerform id num)) ∧
     (waits = false → far = true → s.devnum.isSome → ∀ link comm, Table.find s.routes (remoteDev a.key) = some (link, comm) →
       Answers s (.atomicPerform id num) (fun t => t.mem = s.mem ∧ OnlyCtx s t id ∧
         t.linkOut = s.linkOut ++ [packetTo s a.key s.nextNum (.atomic code a.size y e) link comm])) ∧
     (waits = false → far = false → ∀ h, c.exposed f = true → s.handles c h →
       (s.touchesHeld a.key a.size = true →
         Answers s (.atomicPerform id num) (fun t => Fails s t c f h causeSLAB a.addr)) ∧
       (s.touchesHeld a.key a.size = false → owned = true →
         Answers s (.atomicPerform id num) (fun t => Fails s t c f h causeHANDLE a.addr)) ∧
       (∀ u, s.touchesHeld a.key a.size = false → owned = false → firstPoison s.poison a.key a.size = some u → a.key - u ≤ a.addr.toNat →
         Answers s (.atomicPerform id num) (fun t => Fails s t c f h causeMEMERR (a.unitAt u)))) ∧
     (waits = false → far = false → s.touchesHeld a.key a.size = false → owned = false →
       firstPoison s.poison a.key a.size = none → c.quiet num = true →
       Answers s (.atomicPerform id num) (fun t => Stored s t a.key (leBytes a.size new) ∧
         Landed s t id num (f.vdst.foldl (fun r d => r.put d (BitVec.ofNat 64 old)) c.regs) ∧
         t.teams = s.teams ∧ t.dcycle = s.dcycle)))

/-- R354, R227, R442: an ACQ or WAITA whose accesses pass their checks issues: each acting thread has a wait for its
word outstanding, with v(b) as threshold, or v(d) as the old value, and v(d) pending; unless the issue leaves it to
its event, each wait is then tried once. Nothing else changes but %warn and the cached translations.

R227, R442: ACQ_COMPLETE gives v(d) the word once it is at least the threshold, unsigned, or the fitting value that
the object has held since the ACQ began to wait, and then no line of the core's L1 holds a byte of the object or of
its regions; WAITA_COMPLETE gives v(d) the word once it differs from the old value, and then the core's L1 is empty
where a release event was the last to write of the word (R237), and else as it was; what leaves L1 beyond the regions
is log entry 24's. A word that another workgroup has come to own traps HANDLE (R134), a poisoned one MEMERR. Until
then, while an older access or a write of the thread to the word is outstanding, and while the workgroup is saved
(R247), nothing changes. No byte of memory changes.

R226, R422: a REL whose accesses pass their checks issues, and its write of v(b) to the word enters the core's store
path behind its thread's writes to the object's regions, those bound when it reaches its home too (log entry 105); the
instruction stays outstanding for its write. Memory, and every register but %warn, is unchanged.

R38, R39, R226: LONG_LATENCY_COMPLETE ends the wait for a result, whose register then holds it, and ends a REL once
its write is visible; until then a REL goes on waiting. -/
def Obligations.WordWaitsAndReleases : Prop :=
  (∀ (s : State) (f : LX),
     let go (i : Instr) (op : Ctx → AccessOp) : Prop := s.clear i = true → s.passes i (s.wordCheck f accLoad) = true →
       Waits s i
         (fun c => Issues s i (s.recorded i c) (accessOf (s.wordCheck f accLoad c) 8 (op c)) c)
         (fun t => t = { s with ctxs := t.ctxs, nextNum := s.nextNum + 1, tlb := t.tlb })
         (fun t id => t.tryWord id s.nextNum)
     go (.acq f) (fun c => .acq (c.regs.get f.b)) ∧ go (.waita f) (fun c => .waita (c.regs.get f.d))) ∧
  (∀ (s : State) (id : CtxId) (num : Nat) (c : Ctx) (f : Flight) (a : Access),
     s.has id num c f → f.what = .access a false → s.recordless c = true →
     let waits := !s.resident id.wg || c.olderOver num a.key 8 ||
       s.stores.any (fun p => (s.viewer c num).sees p && overlaps p.key p.op.size a.key 8)
     let n := leNat (cellsRead s.mem a.key 8)
     let near := !(isRemoteKey a.key && a.asked.isNone)
     let owned := s.handleBars (some id.wg) a.key 8
     let clean := (firstPoison s.poison a.key 8).isNone
     let done (t : State) (x : Nat) : Prop :=
       t = { s with ctxs := t.ctxs, cores := t.cores, fits := t.fits, seen := t.seen } ∧
       Landed s t id num (f.vdst.foldl (fun r d => r.put d (BitVec.ofNat 64 x)) c.regs)
     let acquired (t : State) : Prop := ∀ e ∈ (t.core (s.coreOf c)).l1, e ∈ (s.core (s.coreOf c)).l1 ∧
       ∀ r ∈ (a.key, 8) :: s.regionsOf (s.codeRoot c) a.key, overlaps r.1 r.2 e.key 64 = false
     (∀ th, a.op = .acq th →
       (waits = true → Stays s (.acqComplete id num)) ∧
       (waits = false → near = true → owned = false → c.quiet num = true →
         (∀ y, s.fitOf id num = some y → Answers s (.acqComplete id num) (fun t => done t y.toNat ∧ acquired t)) ∧
         (s.fitOf id num = none → clean = true → th.toNat ≤ n →
           Answers s (.acqComplete id num) (fun t => done t n ∧ acquired t)) ∧
         (s.fitOf id num = none → clean = true → n < th.toNat → Stays s (.acqComplete id num)))) ∧
     (∀ old, a.op = .waita old →
       (waits = true → Stays s (.waitaComplete id num)) ∧
       (waits = false → near = true → owned = false → c.quiet num = true → clean = true →
         (n ≠ old.toNat → Answers s (.waitaComplete id num) (fun t => done t n ∧
           (if s.eventAt a.key 8 = true then (t.core (s.coreOf c)).l1 = [] else t.cores = s.cores))) ∧
         (n = old.toNat → Stays s (.waitaComplete id num)))) ∧
     (∀ i, ((∃ th, a.op = .acq th) ∧ i = .acqComplete id num) ∨ ((∃ old, a.op = .waita old) ∧ i = .waitaComplete id num) →
       waits = false → near = true → ∀ h, c.exposed f = true → s.handles c h →
       (owned = true → Answers s i (fun t => Fails s t c f h causeHANDLE a.addr)) ∧
       (∀ u, owned = false → s.fitOf id num = none → firstPoison s.poison a.key 8 = some u → a.key - u ≤ a.addr.toNat →
         Answers s i (fun t => Fails s t c f h causeMEMERR (a.unitAt u))))) ∧
  (∀ (s : State) (f : LX),
     let i : Instr := .rel f
     let check (c : Ctx) : Word × Verdict := s.wordCheck f accStore c
     s.clear i = true → s.passes i check = true →
     CompletesWith s i (fun c c' => ∃ n, Issues s i (s.recorded i c) (.rel n) c c')
       (fun t => t = { s with ctxs := t.ctxs, nextNum := t.nextNum, tlb := t.tlb, forks := t.forks, stores := t.stores } ∧
         t.stores.map (fun p => (p.src, p.key, p.op)) = s.stores.map (fun p => (p.src, p.key, p.op)) ++
           (s.actors i).map (fun c => (some c.id, (check c).2.place, .put (leBytes 8 (c.regs.get f.b).toNat) false)) ∧
         (t.stores.drop s.stores.length).all (fun p => p.regions.isSome) = true)) ∧
  (∀ (s : State) (id : CtxId) (num : Nat) (c : Ctx) (f : Flight),
     s.has id num c f → c.quiet num = true →
     let done : Prop := ∃ t, exec (.longLatencyComplete id num) s = .next t ∧ t = { s with ctxs := t.ctxs } ∧
       Landed s t id num c.regs
     (f.what = .result → done) ∧
     (∀ n, f.what = .rel n → s.stores.all (fun p => p.num != n) = true → done) ∧
     (∀ n, f.what = .rel n → s.stores.any (fun p => p.num == n) = true → exec (.longLatencyComplete id num) s = .next s))

/-- R36: SHFL, NETMV, the VOTEs, LRED and BRX hold each thread of the course at its word, unchanged, while some thread
of its team has not arrived at a rendezvous.

R36, R428, R417, R439, R408, R368: once every thread of a team waits at a rendezvous, RENDEZVOUS_RELEASE lets the
groups of equal program counter do their instructions in ascending address order, each as one step. u is the state in
which a group issues, and in(h) is what home lane h supplies, zero where no thread of the group acts, so for the
threads of the team's other groups. SHFL reads the element that its selector names; NETMV routes the inputs through
the nine stages of switches of the partition's register, or answers zero and records FIELDRES where the register is
not valid for the workgroup; VOTE.all and VOTE.any combine the 32 predicates and VOTE.ballot collects them; LRED
combines the 32 inputs, FADD as one exact sum rounded once, FMAX as the greatest with -0 below +0 that is no NaN,
under SR with one draw (the word rounds: log entry 16); BRX goes on at its target, or traps at the BRX where that is
misaligned or fails a check (R277, R367), to resume at the next word (log entry 12). A saved team stays. -/
def Obligations.Rendezvous : Prop :=
  (∀ (s : State) (f : LX) (g : LA) (b : LB),
     ∀ i ∈ [Instr.shfl f, .netmv f, .voteAll g, .voteAny g, .voteBallot g, .lred f, .brx b], s.clear i = true →
     let wait (c : Ctx) : Ctx :=
       if s.cur.course.contains c.id then
         { c with status := .rendezvous i s.cur.pfx s.cur.warn s.cur.pc s.cur.word }
       else c
     (∀ w ∈ courseTeams s.cur.course, { s with ctxs := s.ctxs.map wait }.teamGathered w.1 w.2 = false) →
     exec i s = .next { s with ctxs := s.ctxs.map wait }) ∧
  ((∀ (s : State) (wg team : Nat),
       let live := s.liveOfTeam wg team
       let gathered : Prop := live ≠ [] ∧ ∀ c ∈ live, c.atRendezvous = true
       ((s.resident wg = false ∨ ¬gathered) → Stays s (.rendezvousRelease wg team)) ∧
       (s.resident wg = true → gathered → exec (.rendezvousRelease wg team) s =
         .next (s.releaseGroups wg team 32 (live.map Ctx.id))) ∧
       ∀ n ids, (∀ c ∈ live, c.id ∈ ids → c.atRendezvous = false) → s.releaseGroups wg team n ids = s) ∧
     ∀ (s : State) (wg team n : Nat) (waiting : List CtxId) (c0 : Ctx) (i : Instr) (p : Option Pfx)
       (w : BitVec 9) (pc : Word) (word : Code),
     let left := (s.liveOfTeam wg team).filter (fun c => c.atRendezvous && waiting.contains c.id)
     let group := left.filter (fun c => c.pc == c0.pc)
     c0 ∈ left → (∀ c ∈ left, c0.pc.toNat ≤ c.pc.toNat) → (∀ c ∈ group, c.status = .rendezvous i p w pc word) →
     let ids := group.map Ctx.id
     let rest := (left.filter (fun c => c.pc != c0.pc)).map Ctx.id
     let u : State := { s with
       ctxs := s.ctxs.map (fun c => if ids.contains c.id then { c with status := .running } else c)
       cur := { s.cur with course := ids, start := c0.pc, pc := pc, pfx := p, word := word, warn := w } }
     let first (t : State) : Prop := s.releaseGroups wg team (n + 1) waiting = t.releaseGroups wg team n rest
     u.clear i = true →
     let does (r : Ctx → Ctx → Prop) : Prop := ∃ t, first t ∧
       t = { s with ctxs := t.ctxs, nextNum := s.nextNum + 1 } ∧ Each (ThreadStep u i r) u.ctxs t.ctxs
     let inp (n : Reg) (h : Nat) : Word := laneVal (u.actors i) (fun c => c.regs.get n) h
     let yes (n : BitVec 3) (h : Nat) : Bool := (u.actors i).any (fun c => c.lane == h) &&
       laneVal (u.actors i) (fun c => if c.regs.pred n then 1 else 0) h == 1
     (∀ f, i = .shfl f → does (fun c c' =>
       let sel := (c.regs.get f.b).toNat
       let wid := match sel / 2 ^ 10 % 8 with
         | 1 => 32
         | 2 => 16
         | 3 => 8
         | 4 => 4
         | _ => 64
       let e := sel / 2 ^ 5 % 32
       let r := (u.recorded i c).put f.d (BitVec.ofNat 64 (elemAt wid (inp f.a (sel % 32)).toNat (e % (64 / wid))))
       let bits := warnIf (decide (sel / 2 ^ 13 ≠ 0) || decide (e ≥ 64 / wid)) warnFIELDRES |||
         warnIf (decide (sel / 2 ^ 10 % 8 ≥ 5)) warnBADTYPE
       Issues u i { r with warn := r.warn ||| bits } .result c c')) ∧
     (∀ f, i = .netmv f → does (fun c c' => ∃ r, Issues u i r .result c c' ∧
       (match (Table.find (u.part (u.coreOf c) (u.partOf c)).net (f.b.toNat % 16)).filter (fun g => g.wg == c.id.wg) with
       | some g => ∃ (x : Nat → Nat → Word) (y : Word), r = (u.recorded i c).put f.d y ∧ (∀ h < 32, x 0 h = inp f.a h) ∧
           (∀ st < 9, ∀ j < 16,
             let k := if st ≤ 4 then 4 - st else st - 4
             let p := j / 2 ^ k * 2 ^ (k + 1) + j % 2 ^ k
             if g.word.getLsbD (16 * st + j) then x (st + 1) p = x st (p + 2 ^ k) ∧ x (st + 1) (p + 2 ^ k) = x st p
             else x (st + 1) p = x st p ∧ x (st + 1) (p + 2 ^ k) = x st (p + 2 ^ k)) ∧
           (c.lane < 32 → y = if g.word.getLsbD (144 + c.lane) then 0 else x 9 c.lane)
       | none => r = { (u.recorded i c).put f.d 0 with warn := (u.recorded i c).warn ||| warnFIELDRES }))) ∧
     (∀ f, i = .voteAll f → does (fun c c' =>
       Issues u i ((u.recorded i c).putPred (predField f.d) ((List.range 32).all (yes (predField f.a)))) .result c c')) ∧
     (∀ f, i = .voteAny f → does (fun c c' =>
       Issues u i ((u.recorded i c).putPred (predField f.d) ((List.range 32).any (yes (predField f.a)))) .result c c')) ∧
     (∀ f, i = .voteBallot f → does (IssuesValue u i f.d (fun _ x => ∀ h < 64,
       x.getLsbD h = (decide (h < 32) && yes (predField f.a) h)))) ∧
     (∀ f, i = .lred f → f.b.toNat % 8 ≤ 5 → does (IssuesValue u i f.d (fun _ x => ∀ j < 64 / lredWidth f,
       let a (h : Nat) : Nat := elemAt (lredWidth f) (inp f.a h).toNat j
       elemAt (lredWidth f) x.toNat j = (match f.b.toNat % 8 with
         | 0 => ((List.range 32).map a).sum % 2 ^ lredWidth f
         | 1 => ((List.range 31).map (fun h => a (h + 1))).foldl (fun m n => if signedOf (lredWidth f) n < signedOf (lredWidth f) m then n else m) (a 0)
         | 2 => ((List.range 31).map (fun h => a (h + 1))).foldl (fun m n => if signedOf (lredWidth f) n > signedOf (lredWidth f) m then n else m) (a 0)
         | 3 => ((List.range 31).map (fun h => a (h + 1))).foldl (fun m n => m &&& n) (a 0)
         | 4 => ((List.range 31).map (fun h => a (h + 1))).foldl (fun m n => m ||| n) (a 0)
         | _ => ((List.range 31).map (fun h => a (h + 1))).foldl (fun m n => m ^^^ n) (a 0))))) ∧
     (∀ f, i = .lred f → f.b.toNat % 8 = 6 → does (fun c c' => ∃ r', Rounded u i f.d (lredFmt f).width
       (fun _ env j => (lredFmt f).finish env (.sum env.rdn ((List.range 32).map (fun h =>
         (lredFmt f).operand env (felem (lredFmt f) (inp f.a h) j))))) c r' ∧ Issues u i r' .result c c')) ∧
     (∀ f, i = .lred f → f.b.toNat % 8 = 7 → does (fun c c' => ∃ r', Rounded u i f.d (lredFmt f).width
       (fun _ env j =>
         let v := lredFmt f
         let codes := (List.range 32).map (fun h => elemAt v.width (inp f.a h).toNat j)
         let value (n : Nat) : FVal := v.operand env n
         let numbers := codes.filter (fun n => !(value n).isNaN)
         passedOn v env (codes.any (fun n => (value n).raises))
           ((numbers.find? (fun n => numbers.all (fun m => !lowerThan (value n) (value m)))).getD v.canonicalNaN))
       c r' ∧ Issues u i r' .result c c')) ∧
     (∀ f, i = .brx f → u.lands i (fun _ => pc + 4 + BitVec.ofInt 64 (4 * f.off.toInt)) → does (fun c c' =>
       Jumps c c' (pc + 4 + BitVec.ofInt 64 (4 * f.off.toInt)) (u.recorded i c))) ∧
     (∀ f h (cause : Ctx → Nat) (addr : Ctx → Word), i = .brx f → ids.Nodup → u.allAct i (fun c => c.trappable = true ∧ u.handles c h ∧
         u.branchFault c (pc + 4 + BitVec.ofInt 64 (4 * f.off.toInt)) = some (cause c, addr c)) →
       ∃ t, first t ∧ t = { s with ctxs := t.ctxs, nextNum := t.nextNum, stores := t.stores } ∧
         ActorsAre u t i (fun c => c.trapped (u.recorded i c) h (cause c) (addr c) pc (pc + 4) word)))

/-- R366, R397, R370, R423: BRA and CALL go on at the next word plus 4·off22, JMPR at v(a), RET at %lr, and CALL keeps
the next word in %lr. Threads for which the instruction is off go on at the next word. A RET that no CALLF of its
thread matches does no more. Nothing else changes but %warn.

R277, R367: a branch whose target is no multiple of 4 meets MISALIGNED with the target as its address.

R277, R367: a BRA, CALL, CALLF, JMPR or RET whose target is no multiple of 4, or fails a protection check, traps at
the branching word with that cause and the address, and resumes at the next word (log entry 12); %lr is as it was and
nothing forks. -/
def Obligations.Branches : Prop :=
  (∀ (s : State) (b : LB) (f : LX),
     let target : Word := s.nextPc + BitVec.ofInt 64 (4 * b.off.toInt)
     (s.clear (.bra b) = true → s.lands (.bra b) (fun _ => target) →
       Completes s (.bra b) (fun c c' => Jumps c c' target (s.recorded (.bra b) c))) ∧
     (s.clear (.jmpr f) = true → s.lands (.jmpr f) (fun c => c.regs.get f.a) →
       Completes s (.jmpr f) (fun c c' => Jumps c c' (c.regs.get f.a) (s.recorded (.jmpr f) c))) ∧
     (s.clear (.call b) = true → s.lands (.call b) (fun _ => target) →
       Completes s (.call b) (fun c c' => Jumps c c' target { s.recorded (.call b) c with lr := s.nextPc })) ∧
     (s.clear (.ret f) = true → s.lands (.ret f) (fun c => c.regs.lr) → s.forks = [] →
       s.allAct (.ret f) (fun c => c.calls = [] ∧ c.frames = []) →
       Completes s (.ret f) (fun c c' => Jumps c c' c.regs.lr (s.recorded (.ret f) c)))) ∧
  (∀ (s : State) (c : Ctx) (t : Word),
     (t.toNat % 4 ≠ 0 → s.branchFault c t = some (causeMISALIGNED, t)) ∧
     (∀ l w cause, t.toNat % 4 = 0 → s.home? c = some (l, w) →
       s.checkAddr l w c.id.tix 0 t.toNat 4 accLoad false = .trap cause → s.branchFault c t = some (cause, t))) ∧
  (∀ (s : State) (b : LB) (f : LX) (h : Word) (cause : Ctx → Nat) (addr : Ctx → Word),
     let go (i : Instr) (target : Ctx → Word) : Prop := s.clear i = true → s.cur.course.Nodup →
       s.allAct i (fun c => c.trappable = true ∧ s.handles c h ∧ s.branchFault c (target c) = some (cause c, addr c)) →
       ∃ t, exec i s = .next t ∧ t = { s with ctxs := t.ctxs, nextNum := t.nextNum, stores := t.stores } ∧
         ActorsAre s t i (fun c => c.trapped (s.recorded i c) h (cause c) (addr c) s.cur.pc s.nextPc s.cur.word)
     let there (_ : Ctx) : Word := s.nextPc + BitVec.ofInt 64 (4 * b.off.toInt)
     go (.bra b) there ∧ go (.call b) there ∧ go (.callf b) there ∧ go (.jmpr f) (fun c => c.regs.get f.a) ∧
     go (.ret f) (fun c => c.regs.lr))

/-- R200 to R203, R371: a CALLF goes on as a CALL; then each acting thread in turn either records FORKNONE, where it
has four open forks, no free thread slot in its home lane, or no predicted values, or forks: the callee is the thread
itself, one level deeper, and its continuation stands at the next word with the predicted v0 to v3 and all else as it
was.

R202: the innermost call of a context whose return point and v63 are those of a RET trains the predictor of the
thread's partition: its entry, (address >> 2) mod 256, takes the tag, address bits 55:10, the returned v0 to v3, and
stride and confidence: 0 where the entry was invalid or of another tag, else the differences, and 1 more, at most 3,
where all equal the old stride and 1 less, at least 0, elsewhere. A continuation's training goes into its fork, for
its commit (log entry 30). A RET that matches no call trains nothing.

R202, R208, R209, R210, R211, R213: a RET jumps to %lr; then for each acting thread the innermost call that it returns
from trains the predictor, and the fork or frame that it ends is resolved. Where a fork's v0 to v3 are as predicted
and no store of the callee has touched what the continuation loaded, the thread takes over the continuation's context,
with the callee's generator and the flags of both, and the continuation's stores enter the store path in their order;
otherwise it goes on from the checkpoint with the callee's v0 to v3. Either way the fork is gone. A pending frame, and
a RET that matches neither, go on so. -/
def Obligations.ForkedCalls : Prop :=
  (∀ (s : State) (b : LB),
     let i : Instr := .callf b
     let target : Word := s.nextPc + BitVec.ofInt 64 (4 * b.off.toInt)
     (s.clear i = true → s.lands i (fun _ => target) → ∃ u,
       exec i s = .next ((s.actors i).foldl (callfThread (s.pfx i) b) u) ∧
       u = { s with ctxs := u.ctxs, nextNum := s.nextNum + 1 } ∧
       Each (ThreadStep s i (fun c c' => Jumps c c' target { s.recorded i c with lr := s.nextPc })) s.ctxs u.ctxs) ∧
     (∀ (p : Pfx) (c d : Ctx), s.ctx? c.id = some d →
       let call : CallRec := { pc := s.cur.pc, ret := s.nextPc, sp := c.regs.get 63 }
       let t := callfThread p b s c
       (c.fdepth ≥ 4 ∨ s.freeSlot c = none ∨ s.prediction p c = none → t.ctx? c.id = some { d with
         calls := call :: d.calls, regs := { d.regs with warn := d.regs.warn ||| warnFORKNONE } } ∧ t.forks = s.forks) ∧
       (∀ slot preds, c.fdepth < 4 → s.freeSlot c = some slot → s.prediction p c = some preds →
         s.ctx? { c.id with lvl := c.fdepth + 1 } = none → c.id.lvl ≠ c.fdepth + 1 →
         t.ctx? c.id = some { d with
           calls := call :: d.calls
           regs := { d.regs with lr := s.nextPc }
           pc := target
           fdepth := d.fdepth + 1 } ∧
         (∃ k, t.ctx? { c.id with lvl := c.fdepth + 1 } = some k ∧ k.pc = s.nextPc ∧
           k.regs.get 0 = preds.getD 0 0 ∧ k.regs.get 1 = preds.getD 1 0 ∧ k.regs.get 2 = preds.getD 2 0 ∧
           k.regs.get 3 = preds.getD 3 0 ∧ (∀ n, 4 ≤ n.toNat → k.regs.get n = c.regs.get n)) ∧
         (t.forks.map (fun g => (g.wg, g.tix, g.depth, g.preds))) =
           s.forks.map (fun g => (g.wg, g.tix, g.depth, g.preds)) ++ [(c.id.wg, c.id.tix, c.fdepth + 1, preds)]))) ∧
  (∀ (s : State) (c : Ctx),
     let t := s.trainReturn c
     let four : List Word := [c.regs.get 0, c.regs.get 1, c.regs.get 2, c.regs.get 3]
     let returns (r : CallRec) : Prop := r.ret = c.regs.lr ∧ r.sp = c.regs.get 63
     ((∀ r ∈ c.calls, ¬returns r) → t = s) ∧
     (∀ newer r older, c.calls = newer ++ r :: older → returns r → (∀ x ∈ newer, ¬returns x) → s.ctx? c.id = some c →
       t.ctx? c.id = some { c with calls := newer ++ older } ∧ OnlyCtx s t c.id ∧
       (c.id.lvl ≠ 0 → t.parts = s.parts ∧ ∀ g ∈ t.forks, ∃ o ∈ s.forks,
         g = if o.wg = c.id.wg ∧ o.tix = c.id.tix ∧ o.depth = c.id.lvl then { o with trains := o.trains ++ [(r.pc, four)] } else o) ∧
       (c.id.lvl = 0 → t.forks = s.forks ∧
         let before := (s.part (s.coreOf c) (s.partOf c)).preds
         let after := (t.part (s.coreOf c) (s.partOf c)).preds
         let n := r.pc.toNat / 2 ^ 2 % 256
         let tag := r.pc.toNat / 2 ^ 10 % 2 ^ 46
         (∀ k, k ≠ n → Table.find after k = Table.find before k) ∧
         ∃ e, Table.find after n = some e ∧ e.tag = tag ∧ e.last = four ∧
           ((∀ o, Table.find before n = some o → o.tag ≠ tag) → e.stride = [0, 0, 0, 0] ∧ e.conf = 0) ∧
           (∀ o, Table.find before n = some o → o.tag = tag → e.stride = List.zipWith (fun x y => x - y) four o.last ∧
             (e.stride = o.stride → e.conf = min (o.conf + 1) 3) ∧ (e.stride ≠ o.stride → e.conf = max o.conf 1 - 1))))) ∧
  ((∀ (s : State) (f : LX), s.clear (.ret f) = true → s.lands (.ret f) (fun c => c.regs.lr) → ∃ u,
       exec (.ret f) s = .next ((s.actors (.ret f)).foldl (fun t c => (t.trainReturn c).endCall c) u) ∧
       u = { s with ctxs := u.ctxs, nextNum := s.nextNum + 1 } ∧
       Each (ThreadStep s (.ret f) (fun c c' => Jumps c c' c.regs.lr (s.recorded (.ret f) c))) s.ctxs u.ctxs) ∧
     ∀ (s : State) (c b : Ctx), c.id.lvl = 0 → s.ctx? c.id = some b →
     (∀ l, s.launchOf? c.id.wg = some l → (s.queue l.queue).trace = false) →
     let t := s.endCall c
     let four (r : Regs) : List Word := [r.get 0, r.get 1, r.get 2, r.get 3]
     let names (l : List Fork) : List (Nat × Nat × Nat) := l.map (fun x => (x.wg, x.tix, x.depth))
     let writes (l : List PendingWrite) : List (Option CtxId × Nat × HomeOp) := l.map (fun p => (p.src, p.key, p.op))
     (∀ (g : Fork) (k : Ctx), s.innermost c.id.wg c.id.tix = some g → g.depth ≠ 0 →
       s.ctx? { c.id with lvl := g.depth } = some k → g.ret = c.regs.lr → g.checkpoint.get 63 = c.regs.get 63 →
       names t.forks = (names s.forks).filter (fun x => x != (c.id.wg, c.id.tix, g.depth)) ∧
       t.ctx? { c.id with lvl := g.depth } = none ∧
       (four c.regs = g.preds → g.hit = false →
         writes t.stores = writes s.stores ++ g.buffer.flatMap (fun x => (storeParts x.key x.bytes).map (fun e => (some c.id, e))) ∧
         ∃ m, t.ctx? c.id = some m ∧ m.pc = k.pc ∧ m.regs.v = k.regs.v ∧ m.regs.p = k.regs.p ∧
           m.regs.mode = k.regs.mode ∧ m.regs.fflags = k.regs.fflags ||| b.regs.fflags ∧
           m.regs.rngc = b.regs.rngc ∧ m.regs.rngk = b.regs.rngk ∧ m.fdepth = b.fdepth - 1) ∧
       (four c.regs ≠ g.preds ∨ g.hit = true → t.stores = s.stores ∧ ∃ m, t.ctx? c.id = some m ∧ m.pc = g.ret ∧
         four m.regs = four b.regs ∧ (∀ n, 4 ≤ n.toNat → m.regs.get n = g.checkpoint.get n) ∧
         m.regs.p = g.checkpoint.p ∧ m.regs.lr = g.ret ∧ m.fdepth = b.fdepth - 1)) ∧
     (∀ g gs, s.innermost c.id.wg c.id.tix = none → c.frames = g :: gs → g.ret = c.regs.lr → g.regs.get 63 = c.regs.get 63 →
       OnlyCtx s t c.id ∧ ∃ m, t.ctx? c.id = some m ∧ m.frames = gs ∧ m.pc = g.ret ∧ four m.regs = four b.regs ∧
         (∀ n, 4 ≤ n.toNat → m.regs.get n = g.regs.get n) ∧ m.fdepth = b.fdepth - 1) ∧
     ((∀ g, s.innermost c.id.wg c.id.tix = some g → g.ret ≠ c.regs.lr ∨ g.checkpoint.get 63 ≠ c.regs.get 63) →
       (s.innermost c.id.wg c.id.tix = none →
         ∀ g ∈ c.frames.head?, g.ret ≠ c.regs.lr ∨ g.regs.get 63 ≠ c.regs.get 63) → t = s))

/-- R242, R437, R365: TRAP and a BKPT whose launch does not halt at it take each acting thread into its handler: v0
holds the cause, v1 the address of the word, v2 v(a) for TRAP and zero for BKPT, v3 the word; the thread resumes after
the word.

R289, R292, R232: the checks on a word belong to the word: every thread of the course, guarded off or not, traps
ILLEGAL, to resume at the next word (log entry 12), at a word that names a lane register from v(REGS) to v61, or one
above v63 as part of a multi-register operand, at a BAR of a number at or above BARRIERS, and at a FENCE.HV whose
field a is above 61; nothing of it is recorded.

R243, R438, R240: TRET gives a thread in its handler v0 to v3 and %mode as they were, and it goes on at the resume
point, out of the handler; a halt held for it takes effect. Outside a handler TRET is PRIVILEGED, and the thread
resumes at the next word (log entry 12).

R244, R60, R24: a trap that meets a thread in its handler, or one whose launch has no handler, stops the thread, and
makes its launch fail with DOUBLETRAP; the dispatcher meets a failure at its next edge, and the launch then has that
status (log entry 96). -/
def Obligations.Traps : Prop :=
  (∀ (s : State) (f : LX) (h : Word),
     let go (i : Instr) (cause : Nat) (addr : Ctx → Word) : Prop :=
       s.clear i = true → s.cur.course.Nodup → s.allAct i (fun c => c.trappable = true ∧ s.handles c h) →
       ∃ t, exec i s = .next t ∧
         t = { s with ctxs := t.ctxs, nextNum := t.nextNum, stores := t.stores } ∧
         ActorsAre s t i (fun c => c.trapped (s.recorded i c) h cause (addr c) s.cur.pc s.nextPc s.cur.word)
     go (.trap f) causeTRAP (fun c => c.regs.get f.a) ∧
     (s.allAct (.bkpt f) (fun c => s.bkptHalts c = false) → go (.bkpt f) causeBKPT (fun _ => 0))) ∧
  (∀ (s : State) (f : LA) (m : LM) (x : LX) (b : LB) (u : SA) (p : Pfx) (h : Word),
     let everyone (q : Ctx → Launch → Prop) : Prop := ∀ id ∈ s.cur.course, ∃ c l, s.ctx? id = some c ∧
       s.launchOf? id.wg = some l ∧ c.trappable = true ∧ s.handles c h ∧ q c l
     let traps (i : Instr) : Prop := ∃ t, exec i s = .next t ∧
       t = { s with ctxs := t.ctxs, nextNum := t.nextNum, stores := t.stores } ∧
       (∀ id, id ∉ s.cur.course → t.ctx? id = s.ctx? id) ∧ ∀ id ∈ s.cur.course, ∀ c, s.ctx? id = some c →
         t.ctx? id = some (c.trapped c.regs h causeILLEGAL 0 s.cur.pc s.nextPc s.cur.word)
     let names (i : Instr) (l : List Nat) : Prop :=
       (everyone (fun _ g => ∃ n ∈ l, (g.regs ≤ n ∧ n < 62) ∨ 63 < n) → traps i)
     s.cur.course.Nodup → s.cur.course ≠ [] →
     names (.add f) [f.d.toNat, f.a.toNat, f.b.toNat] ∧ names (.cmp f) [f.a.toNat, f.b.toNat] ∧
     names (.bsrd f) [f.d.toNat, f.a.toNat, f.b.toNat, f.b.toNat + 1] ∧
     names (.ld m) [m.d.toNat, m.a.toNat] ∧ names (.st m) [m.d.toNat, m.a.toNat] ∧
     (m.w = 4 → names (.ld m) [m.d.toNat + 1] ∧ names (.st m) [m.d.toNat + 1]) ∧
     (s.cur.pfx = some p → (p.e ≠ 0 → names (.ld m) [p.e.toNat] ∧ names (.mad f) [p.e.toNat]) ∧
       names (.callf b) [p.e.toNat, p.e.toNat + 1, p.e.toNat + 2, p.e.toNat + 3]) ∧
     names (.fenceHv x) [x.a.toNat, x.a.toNat + 1, x.a.toNat + 2] ∧ (61 < x.a.toNat → everyone (fun _ _ => True) → traps (.fenceHv x)) ∧
     (everyone (fun _ g => g.barriers ≤ x.d.toNat) → traps (.bar x)) ∧ names (.vtos u) [u.a.toNat]) ∧
  (∀ (s : State) (f : LX),
     let i : Instr := .tret f
     (s.clear i = true → s.cur.course.Nodup →
       s.allAct i (fun c => c.inHandler = true ∧ ∀ l, s.launchOf? c.id.wg = some l → (s.queue l.queue).trace = false) →
       ∃ t, exec i s = .next t ∧ t = { s with ctxs := t.ctxs, nextNum := s.nextNum + 1 } ∧
         ActorsAre s t i (fun c =>
           let x (n : Nat) : Word := c.shadow.v.getD n 0
           { c.goto c.shadow.rpc with
             regs := { ((((s.recorded i c).put 0 (x 0)).put 1 (x 1)).put 2 (x 2)).put 3 (x 3) with mode := c.shadow.mode }
             inHandler := false
             nested := false
             haltReq := c.haltReq || c.heldHalt
             heldHalt := false })) ∧
     (∀ h, s.clear i = true → s.cur.course.Nodup → s.allAct i (fun c => c.trappable = true ∧ s.handles c h) →
       ∃ t, exec i s = .next t ∧ ActorsAre s t i (fun c =>
         c.trapped (s.recorded i c) h causePRIVILEGED 0 s.cur.pc s.nextPc s.cur.word))) ∧
  ((∀ (s : State) (id : CtxId) (c : Ctx) (l : Launch) (cause : Nat) (addr fpc : Word)
       (word : Code), s.ctx? id = some c → s.launchOf? id.wg = some l → (c.inHandler = true ∨ l.handler = none) →
     s.launch? l.num = some l → l.failing = none → id.lvl = 0 → (∀ g ∈ s.forks, g.depth ≠ 0) →
     let t := s.takeTrap id cause addr fpc word
     (∃ m, t.launch? l.num = some m ∧ m.failing = some (statusDOUBLETRAP, s.dcycle) ∧ m.status = l.status) ∧
     (∃ d, t.ctx? id = some d ∧ d.status = .exited)) ∧
     ∀ (s : State) (l : Launch) (status k : Nat), s.launch? l.num = some l → l.failing = some (status, k) → status ≠ 0 →
     l.phase ≠ .finished → l.status = 0 → (∀ m ∈ s.launches, m.failing.isSome = true → m = l) →
     (k ≤ s.dcycle → ∃ m, s.meetFailures.launch? l.num = some m ∧ m.status = status) ∧ (s.dcycle < k → s.meetFailures = s))

/-- R391, R240, R245: HALT with bit 0 of d clear requests a halt: of thread v(a)[15:0] of the workgroup, or of all of
them where bit 63 of v(a) is set; in a handler the request is held. A thread number past the workgroup's threads
records FIELDRES. HALT.force, with bit 0 of d set, traps PRIVILEGED and resumes at the next word (log entry 12). The
request takes effect at THREAD_HALT, once the thread runs or yields on a core with nothing outstanding: its forks are
gone and it stands halted where it is.

R246: BKPT of a launch that halts at it halts each acting thread with its program counter at the word; it goes on
after the word when it is resumed. -/
def Obligations.Halts : Prop :=
  (∀ (s : State) (f : LX),
     let i : Instr := .halt f
     (s.clear i = true → f.d.getLsbD 0 = false →
       ∃ t u, exec i s = .next t ∧ t = { s with ctxs := t.ctxs, nextNum := s.nextNum + 1 } ∧
         Each (ThreadStep s i (fun c c' =>
           let x := c.regs.get f.a
           let r := s.recorded i c
           Moves s c c' { r with warn := r.warn ||| warnIf (!x.getLsbD 63 &&
             decide (x.toNat % 2 ^ 16 ≥ 32 * ((s.wg? c.id.wg).map Workgroup.teams).getD 0)) warnFIELDRES })) s.ctxs u ∧
         Each (fun c c' =>
           let asked := (s.actors i).any (fun a => a.id.wg == c.id.wg && ((a.regs.get f.a).getLsbD 63 ||
             c.id.tix == (a.regs.get f.a).toNat % 2 ^ 16)) && c.id.lvl == 0 && c.status != .exited
           c' = { c with haltReq := c.haltReq || (asked && !c.inHandler), heldHalt := c.heldHalt || (asked && c.inHandler) })
           u t.ctxs) ∧
     (∀ h, s.clear i = true → f.d.getLsbD 0 = true → s.cur.course.Nodup →
       s.allAct i (fun c => c.trappable = true ∧ s.handles c h) →
       ∃ t, exec i s = .next t ∧ t = { s with ctxs := t.ctxs, nextNum := t.nextNum, stores := t.stores } ∧
         ActorsAre s t i (fun c => c.trapped (s.recorded i c) h causePRIVILEGED 0 s.cur.pc s.nextPc s.cur.word)) ∧
     (∀ wg tix c, s.ctx? { wg := wg, tix := tix, lvl := 0 } = some c → c.haltReq = true →
       (c.inHandler = false ∨ c.nested = true) → (c.status = .running ∨ ∃ others left, c.status = .yielding others left) →
       (s.resident wg = true → c.inflight = [] → s.forks = [] →
         (∀ l, s.launchOf? wg = some l → (s.queue l.queue).trace = false) →
         ∃ t, exec (.threadHalt wg tix) s = .next t ∧ t = { s with ctxs := t.ctxs } ∧ OnlyCtx s t c.id ∧
           t.ctx? c.id = some { c with status := .halted c.pc, haltReq := false, forced := false, nested := c.inHandler }) ∧
       (s.resident wg = false ∨ c.inflight ≠ [] → Stays s (.threadHalt wg tix)))) ∧
  (∀ (s : State) (f : LX),
     let i : Instr := .bkpt f
     s.clear i = true → s.cur.course.Nodup → s.forks = [] →
     s.allAct i (fun c => s.bkptHalts c = true ∧ c.inHandler = false ∧ c.id.lvl = 0 ∧
       ∀ l, s.launchOf? c.id.wg = some l → (s.queue l.queue).trace = false) →
     ∃ t, exec i s = .next t ∧ t = { s with ctxs := t.ctxs, nextNum := s.nextNum + 1 } ∧
       ActorsAre s t i (fun c => { c.goto s.cur.start with
         regs := s.recorded i c, status := .halted s.nextPc, haltReq := false, forced := false, nested := false }))

/-- R444, R420: YIELD and PRFM change no register but %warn and no memory. A thread that yields waits for the other
threads of its partition that were ready, or for 64 cycles; YIELD_EXPIRY lets it go on once either is over, and not
before. PRFM changes nothing but the L1 of the issuing core, in which every line either was or holds the bytes of its
home, and sends for a line of another device the packet of its load (R268).

R375, R57: EXIT stops each acting thread: it issues nothing more; then what waited for it alone is done. A workgroup
without live threads retires once its copies and held firings are in their queues: its threads and teams are gone. One
that has a live thread, or a copy that finds the Hod queue full, does not; that a copy, or firings that are held, keep
a workgroup from retiring is log entry 60's. -/
def Obligations.YieldPrefetchExit : Prop :=
  (∀ (s : State) (f : LX),
     (s.clear (.yield f) = true → ∃ t, exec (.yield f) s = .next t ∧
       t = { s with ctxs := t.ctxs, nextNum := s.nextNum + 1 } ∧ ActorsAre s t (.yield f) (fun c =>
         { c.goto s.nextPc with
           regs := s.recorded (.yield f) c
           status := .yielding ((s.readyIds s.cur.core s.cur.part).filter (fun id => !s.cur.course.contains id)) 64 })) ∧
     (∀ id c others left, s.ctx? id = some c → c.status = .yielding others left →
       (others = [] ∨ left = 0 → ∃ t, exec (.yieldExpiry id) s = .next t ∧ t = { s with ctxs := t.ctxs } ∧
         OnlyCtx s t id ∧ t.ctx? id = some { c with status := .running }) ∧
       (others ≠ [] → left ≠ 0 → ∃ t, exec (.yieldExpiry id) s = .next t ∧ t = { s with ctxs := t.ctxs } ∧
         OnlyCtx s t id ∧ t.ctx? id = some c)) ∧
     (s.clear (.prfm f) = true → (∀ c ∈ s.actors (.prfm f), s.coreOf c = s.cur.core) →
       CompletesWith s (.prfm f) (fun c c' => Moves s c c' (s.recorded (.prfm f) c))
         (fun t => t = { s with ctxs := t.ctxs, nextNum := t.nextNum, cores := t.cores, linkOut := t.linkOut } ∧
           s.nextNum < t.nextNum ∧ (∃ sent, t.linkOut = s.linkOut ++ sent ∧ ∀ x ∈ sent, ∃ key tag link comm,
             isRemoteKey key = true ∧ key % 64 = 0 ∧ Table.find s.routes (remoteDev key) = some (link, comm) ∧
             x = packetTo s key tag (.load 64) link comm) ∧
           (∀ k, k ≠ s.cur.core → t.core k = s.core k) ∧
           t.core s.cur.core = { s.core s.cur.core with l1 := (t.core s.cur.core).l1 } ∧
           ∀ e ∈ (t.core s.cur.core).l1, e ∈ (s.core s.cur.core).l1 ∨ e.bytes = cellsRead s.mem e.key 64))) ∧
  (∀ (s : State) (f : LX),
     let i : Instr := .exit f
     (s.clear i = true → s.cur.course.Nodup → s.forks = [] → s.allAct i (fun c => c.id.lvl = 0) →
     ∃ u : State, u = { s with ctxs := u.ctxs, nextNum := s.nextNum + 1 } ∧
       ActorsAre s u i (fun c => { c.goto s.nextPc with
         regs := s.recorded i c
         status := .exited
         inflight := []
         inHandler := false
         nested := false
         heldHalt := false
         haltReq := false
         forced := false
         frames := []
         calls := [] }) ∧
       exec i s = .next ((courseTeams ((s.actors i).map Ctx.id)).foldl (fun t w => t.afterExit w.1 w.2) u)) ∧
     (∀ wg, (s.liveOfWg wg).isEmpty = false → s.tryRetire wg = s) ∧
     (∀ wg w l, s.wg? wg = some w → s.launchOf? wg = some l → w.place ≠ .retired → s.liveOfWg wg = [] →
       s.childrenOf wg = [] → w.heldFirings = [] →
       let t := s.tryRetire wg
       (w.copies ≠ [] → s.queueFull w.core 5 = true → t = s) ∧ (w.copies = [] →
       (∃ w', t.wg? wg = some w' ∧ w'.place = .retired) ∧ (∀ c ∈ t.ctxs, c.id.wg ≠ wg) ∧ ∀ u ∈ t.teams, u.wg ≠ wg)))

/-- R443, R386: a WAITT leaves a wait for the tags of v(a) outstanding, of all of them or, under d[0], of any; it ends
once they are set, and then the core's L1 is empty (log entry 24), or where none of them exists; until then, and while
the workgroup is saved, WAITT_COMPLETE changes nothing. FFRT gives the least number of a set tag of v(a) at once, or
64. Tags at or above TAGS count as neither. -/
def Obligations.Tags : Prop := ∀ (s : State) (f : LX),
  (s.clear (.waitt f) = true → Waits s (.waitt f)
    (fun c => Issues s (.waitt f) (s.recorded (.waitt f) c) (.waitt (c.regs.get f.a) (f.d.getLsbD 0)) c)
    (fun t => t = { s with ctxs := t.ctxs, nextNum := s.nextNum + 1 }) (fun t id => t.tryTags id s.nextNum)) ∧
  (∀ id num c g mask any w l, s.has id num c g → g.what = .waitt mask any → c.quiet num = true →
    s.wg? id.wg = some w → s.launchOf? id.wg = some l →
    let wanted (i : Nat) : Prop := i < 64 ∧ mask.getLsbD i = true ∧ i < l.tags
    let set_ (i : Nat) : Prop := w.tags.getLsbD i = true
    let ready : Prop := (∀ i, ¬ wanted i) ∨ (if any then ∃ i, wanted i ∧ set_ i else ∀ i, wanted i → set_ i)
    (ready → w.place = .resident → ∃ t, exec (.waittComplete id num) s = .next t ∧
      t = { s with ctxs := t.ctxs, cores := t.cores } ∧ Landed s t id num c.regs ∧
      ((∃ i, wanted i) → (t.core (s.coreOf c)).l1 = []) ∧ ((∀ i, ¬ wanted i) → t.cores = s.cores)) ∧
    (¬ ready ∨ w.place ≠ .resident → exec (.waittComplete id num) s = .next s)) ∧
  (s.clear (.ffrt f) = true → CompletesWith s (.ffrt f)
    (fun c => IssuesValue s (.ffrt f) f.d (fun c x => ∀ w l, s.wg? c.id.wg = some w → s.launchOf? c.id.wg = some l →
      let ready (i : Nat) : Prop := i < 64 ∧ (c.regs.get f.a).getLsbD i = true ∧ i < l.tags ∧ w.tags.getLsbD i = true
      (ready x.toNat ∧ ∀ i, ready i → x.toNat ≤ i) ∨ (x = 64 ∧ ∀ i, ¬ ready i)) c)
    (fun t => t = { s with ctxs := t.ctxs, nextNum := s.nextNum + 1, cores := t.cores } ∧
      ∀ k, k ≠ s.cur.core → t.core k = s.core k))

/-- R362, R292: a BAR of a barrier that its workgroup has counts the arrival of each acting thread and leaves the wait
outstanding, with the writes that the thread has acquired by then (R234); unless the issue leaves it to its event, the
phase is then tried.

R362, R234: BARRIER_PHASE_COMPLETE, once every live thread of the workgroup, which is on a core, has arrived, their
earlier writes are on their way, faulted ones replayed (log entry 33), and KARR keystone firings have come: the phase
count goes up by one modulo 2^32, the firings are used up, and every waiting thread goes on with its registers as they
were. What the arrivals release, the threads' earlier writes and those that they had acquired, is visible to the
workgroup, and its threads acquire it. Before that nothing changes. -/
def Obligations.Barriers : Prop :=
  (∀ (s : State) (f : LX),
     let i : Instr := .bar f
     let n := f.d.toNat
     s.clear i = true → (∀ c ∈ s.ctxs, s.cur.course.contains c.id = true → n < s.barriersOf c.id.wg) →
     ∃ u : State, u = { s with ctxs := u.ctxs, nextNum := s.nextNum + 1, wgs := u.wgs } ∧
       exec i s = .next (if s.cur.defer then u
         else (((s.actors i).map (fun c => c.id.wg)).eraseDups).foldl (fun t w => t.tryPhase w n) u) ∧
       Each (ThreadStep s i (fun c => Issues s i (s.recorded i c) (.bar n (s.acquired c.id)) c)) s.ctxs u.ctxs ∧
       Each (fun w w' => w' = { w with bars := w'.bars } ∧ ∀ k, w'.bar k =
         if k = n then { w.bar n with arrived := (w.bar n).arrived ++
           ((s.actors i).filter (fun c => c.id.wg == w.num)).map (fun c => c.id.tix) }
         else w.bar k) s.wgs u.wgs) ∧
  (∀ (s : State) (wg n : Nat) (w : Workgroup),
     s.wg? wg = some w →
     let live := s.liveOfWg wg
     let released := live.flatMap (fun c => s.barWrites c n)
     let ready : Prop := w.place = .resident ∧ live ≠ [] ∧ (∀ c ∈ live, c.id.tix ∈ (w.bar n).arrived ∧ s.arrivalDone c n = true) ∧
       s.karrOf wg n ≤ (w.bar n).firings
     (¬ ready → exec (.barrierPhaseComplete wg n) s = .next s) ∧
     (ready → (∀ c ∈ live, c.inflight.all (fun f => !f.isTrap) = true) → ∃ t, exec (.barrierPhaseComplete wg n) s = .next t ∧
       t = { s with ctxs := t.ctxs, wgs := t.wgs, stores := t.stores, cores := t.cores, got := t.got } ∧
       Acquired s t (live.map Ctx.id) released ∧ (∀ p ∈ t.stores, p.num ∈ released → ScopeSet.wg wg ∈ p.vis) ∧
       (s.karrOf wg n = 0 → t.cores = s.cores) ∧
       (∃ w', t.wg? wg = some w' ∧ (w'.bar n).phase = ((w.bar n).phase + 1) % 2 ^ 32 ∧
         (w'.bar n).firings = (w.bar n).firings - s.karrOf wg n) ∧
       ∀ id c f, s.ctx? id = some c → c ∈ live → c.barFlight n = some f →
         ∃ c', t.ctx? id = some c' ∧ c'.flight? f.num = none ∧ c'.pc = c.pc ∧ c'.regs = c.regs))

/-- R230, R231, R385: FENCE.rel, FENCE.acq, FENCE.full and FENCE.lt leave a fence outstanding for the writes that
their thread releases, and for the acknowledgements still to come; scope code 7 acts as 6.

R148, R230, R231, R232, R385: a fence may complete once what it waits for is over: for a release of .thr, and for
FENCE.lt, that none of its writes is a faulted store; for one of .team to .pair that all are in the store path; for
one of .dev or .sys that all are visible, .sys also that the acknowledgements have come; for an acquire, .thr apart,
and for FENCE.full of every scope, that every earlier access of the thread has completed (log entry 24). Before that
nothing changes. A release of .team to .pair then makes its writes visible inside the scope, and stands while some are
pending; an acquire of .pair or wider empties the core's L1, and one of .team or wider acquires what the releases
paired with it have shown (log entry 24). No register changes. A masked core of a FENCE.HV whose store path is empty
acknowledges, its L1 empty (log entry 87), and the fence ends after the last. -/
def Obligations.Fences : Prop :=
  (∀ (s : State) (f : LX),
     let scope := if f.d.toNat / 8 = 7 then 6 else f.d.toNat / 8
     let go (i : Instr) (kind scope : Nat) : Prop := s.clear i = true → Waits s i
       (fun c => Issues s i (s.recorded i c) (.fence kind scope (s.releasedWrites c s.nextNum) (s.acks.map PendingWrite.num)) c)
       (fun t => t = { s with ctxs := t.ctxs, nextNum := s.nextNum + 1 }) (fun t id => t.tryFence id s.nextNum)
     go (.fenceRel f) 0 scope ∧ go (.fenceAcq f) 1 scope ∧ go (.fenceFull f) 2 scope ∧ go (.fenceLt f) 3 0 ∧
     (s.clear (.fenceHv f) = true → Waits s (.fenceHv f)
       (fun c => Issues s (.fenceHv f) (s.recorded (.fenceHv f) c) (.hv (s.releasedWrites c s.nextNum)
         ((List.range 192).filter (fun k => (c.regs.getN (f.a.toNat + k / 64)).getLsbD (k % 64)))) c)
       (fun t => t = { s with ctxs := t.ctxs, nextNum := s.nextNum + 1 }) (fun t id => t.tryFence id s.nextNum))) ∧
  (∀ (s : State) (id : CtxId) (num : Nat) (c : Ctx) (f : Flight),
     s.has id num c f → c.quiet num = true →
     let accessed : Prop := ∀ g ∈ c.inflight, g.num < num → g.accesses = false
     (∀ kind scope writes acks, f.what = .fence kind scope writes acks → kind ≤ 3 → scope ≤ 6 →
       let rel : Prop := kind ∈ [0, 2]
       let ready : Prop := (rel ∧ scope = 0 ∨ kind = 3 → ∀ n ∈ writes, s.parkedStore n = false) ∧
         (rel → 1 ≤ scope → scope ≤ 4 → ∀ n ∈ writes, s.stuck n = false) ∧
         (rel → scope ≥ 5 → ∀ n ∈ writes, s.outstanding n = false) ∧
         (rel → scope = 6 → ∀ e ∈ s.acks, e.num ∉ acks ∧ e.num ∉ writes) ∧
         (kind = 2 ∨ (kind = 1 ∧ scope ≠ 0) → accessed)
       (¬ready → Stays s (.longLatencyComplete id num)) ∧
       (ready → ∃ t, exec (.longLatencyComplete id num) s = .next t ∧
         t = { s with ctxs := t.ctxs, stores := t.stores, cores := t.cores, got := t.got, releases := t.releases, seen := t.seen } ∧
         Landed s t id num c.regs ∧
         (if kind ∈ [1, 2] ∧ scope ≥ 1 then Acquired s t [id] (t.fenceGets id num (s.scopeOf c scope)) else t.got = s.got) ∧
         (¬rel ∨ s.scopeOf c scope = none → t.releases = s.releases ∧ t.seen = s.seen) ∧
         (∀ v, rel → s.scopeOf c scope = some v → writes.filter s.pends ≠ [] →
           { author := id, since := s.nextNum, scope := v, writes := writes.filter s.pends } ∈ t.releases) ∧
         (∀ v, rel → s.scopeOf c scope = some v → ∀ p ∈ t.stores, p.num ∈ writes → v ∈ p.vis) ∧
         (kind ∈ [1, 2] → scope ≥ 4 → (t.core (s.coreOf c)).l1 = []))) ∧
     (∀ writes cores, f.what = .hv writes cores →
       let first : Prop := (∀ n ∈ writes, s.outstanding n = false) ∧ accessed
       (∀ core ∈ cores, first → s.pathOf core = [] → ∃ t, exec (.fenceHvRequest id num core) s = .next t ∧
         t = { s with ctxs := t.ctxs, cores := t.cores } ∧ OnlyCtx s t id ∧
         (∀ k, t.core k = if k = core then { s.core k with l1 := [] } else s.core k) ∧
         ∃ c', t.ctx? id = some c' ∧ (c'.flight? num).map Flight.what = some (.hv writes (cores.filter (fun k => k != core)))) ∧
       (∀ core, core ∉ cores ∨ ¬first → Stays s (.fenceHvRequest id num core)) ∧
       (cores ≠ [] ∨ ¬first → Stays s (.longLatencyComplete id num)) ∧
       (cores = [] → first → ∃ t, exec (.longLatencyComplete id num) s = .next t ∧
         t = { s with ctxs := t.ctxs, cores := t.cores, got := t.got } ∧ Acquired s t [id] (s.fenceGets id num none) ∧
         Landed s t id num c.regs ∧ (t.core (s.coreOf c)).l1 = [])))

/-- R392, R133: HGIVE of a handle h to core d answers BADCORE 6, STALE 2 or NOTHOLDER 1 at once, or stays outstanding
until no access or task of the holder touches the buffer (order of checks: log entry 47); then the entry is GIVEN to
d, or, for d = 0xFF, FREE with its sequence count one higher, and the answer is 0. Where another thread has given or
freed the buffer meanwhile the answer is NOTHOLDER. While the workgroup is saved nothing changes. In a sampled launch
HGIVE traps WINDOW (R91), v2 zero (log entry 22), and resumes at the next word (log entry 12).

R393, R135: the threads of an HTAKE take one after another (order of checks: log entry 47); a taker's core then keeps
no line in its L1 (log entry 24). With v(a+1) zero a thread takes the buffer of a handle that is GIVEN to its own
core: the entry is HELD by its workgroup and the answer is 0; a stale handle answers 2 and one not given to its core
3. Otherwise v(a+1) names a range to hold: bad ones answer 5; the lowest free entry of the core takes it, and v(d) is
the new handle in bits 63:32; with no free entry the answer is 4. A core above 191 answers 6. -/
def Obligations.Handles : Prop :=
  (∀ (s : State) (f : LX),
     let i : Instr := .hgive f
     let h (c : Ctx) : Nat := (c.regs.get f.a).toNat % 2 ^ 32
     let d (c : Ctx) : Nat := (c.regs.getN (f.a.toNat + 1)).toNat % 256
     let status (c : Ctx) : Nat :=
       let e := s.handle (h c / 2 ^ 24) (h c / 2 ^ 18 % 64)
       if h c / 2 ^ 24 ≥ 192 ∨ (d c ≠ 0xFF ∧ d c ≥ 192) then 6
       else if e.seq ≠ h c % 2 ^ 18 then 2
       else if e.state ≠ 1 ∨ e.holder ≠ c.id.wg then 1
       else 0
     (s.clear i = true → s.allAct i (fun c => ∀ l, s.launchOf? c.id.wg = some l → l.sampled = false) → Waits s i
       (fun c => Issues s i ((s.recorded i c).put f.d (BitVec.ofNat 64 (status c)))
         (if status c = 0 then .hgive (h c / 2 ^ 24) (h c / 2 ^ 18 % 64) (h c % 2 ^ 18) (d c) else .result) c)
       (fun t => t = { s with ctxs := t.ctxs, nextNum := s.nextNum + 1 }) (fun t id => t.tryHgive id s.nextNum)) ∧
     (∀ k, s.clear i = true → s.cur.course.Nodup → s.allAct i (fun c => c.trappable = true ∧ s.handles c k ∧
         ∃ l, s.launchOf? c.id.wg = some l ∧ l.sampled = true) →
       Answers s i (fun t => ActorsAre s t i (fun c =>
         c.trapped (s.recorded i c) k causeWINDOW 0 s.cur.pc s.nextPc s.cur.word))) ∧
     (∀ id num c g core entry seq dst, s.has id num c g → g.what = .hgive core entry seq dst → c.quiet num = true →
       let e := s.handle core entry
       let held : Prop := e.seq = seq ∧ e.state = 1 ∧ e.holder = id.wg
       let answer (t : State) (n : Word) : Prop := Landed s t id num (g.vdst.foldl (fun r d => r.put d n) c.regs)
       (s.resident id.wg = false → Stays s (.hgiveComplete id num)) ∧
       (s.resident id.wg = true → ¬held → Answers s (.hgiveComplete id num) (fun t =>
         t = { s with ctxs := t.ctxs } ∧ answer t 1)) ∧
       (s.resident id.wg = true → held → s.touchedBy id.wg (slabKey core e.base) e.len = true →
         Stays s (.hgiveComplete id num)) ∧
       (s.resident id.wg = true → held → s.touchedBy id.wg (slabKey core e.base) e.len = false →
         Answers s (.hgiveComplete id num) (fun t => t = { s with ctxs := t.ctxs, cores := t.cores } ∧ answer t 0 ∧
           t.handle core entry = (if dst = 0xFF then { e with state := 0, seq := (e.seq + 1) % 2 ^ 18 }
             else { e with state := 2, dst := dst }) ∧
           ∀ k n, (k, n) ≠ (core, entry) → t.handle k n = s.handle k n)))) ∧
  (∀ (s : State) (f : LX),
     let i : Instr := .htake f
     (s.clear i = true → ∃ u : State, u = { s with ctxs := u.ctxs, nextNum := s.nextNum + 1 } ∧
       exec i s = .next ((s.actors i).foldl (htakeThread f) u) ∧
       Each (ThreadStep s i (fun c => Issues s i (s.recorded i c) .result c)) s.ctxs u.ctxs) ∧
     (∀ (c b : Ctx) (w : Workgroup) (l : Launch), s.ctx? c.id = some b → s.wg? c.id.wg = some w →
       s.launchOf? c.id.wg = some l →
       let t := htakeThread f s c
       let h := (c.regs.get f.a).toNat % 2 ^ 32
       let x := (c.regs.getN (f.a.toNat + 1)).toNat
       let core := h / 2 ^ 24
       let entry := h / 2 ^ 18 % 64
       let e := s.handle core entry
       let gives (v : Word) : Prop := t.ctx? c.id = some { b with regs := b.regs.put f.d v }
       let same : Prop := ∀ k n, t.handle k n = s.handle k n
       (core ≥ 192 → gives 6 ∧ same) ∧
       (core < 192 → x = 0 → e.seq ≠ h % 2 ^ 18 → gives 2 ∧ same) ∧
       (core < 192 → x = 0 → e.seq = h % 2 ^ 18 → (e.state ≠ 2 ∨ e.dst ≠ w.core) → gives 3 ∧ same) ∧
       (core < 192 → x = 0 → e.seq = h % 2 ^ 18 → e.state = 2 → e.dst = w.core → gives 0 ∧
         (t.core w.core).l1 = [] ∧ t.handle core entry = { e with state := 1, holder := c.id.wg }) ∧
       (core < 192 → x ≠ 0 → s.htakeRangeBad l core x = true → gives 5 ∧ same) ∧
       (core < 192 → x ≠ 0 → s.htakeRangeBad l core x = false → (∀ n < 64, (s.handle core n).state ≠ 0) → gives 4 ∧ same) ∧
       (∀ n < 64, core < 192 → x ≠ 0 → s.htakeRangeBad l core x = false → (s.handle core n).state = 0 →
         (∀ m < n, (s.handle core m).state ≠ 0) →
         gives (BitVec.ofNat 64 ((core * 2 ^ 24 + n * 2 ^ 18 + (s.handle core n).seq) * 2 ^ 32)) ∧
         (t.core w.core).l1 = [] ∧ t.handle core n = { s.handle core n with
           state := 1
           base := x % 2 ^ 23
           len := x / 2 ^ 32 % 2 ^ 24
           holder := c.id.wg })))

/-- R440, R197, R91: VQPUT and VQGET count the arrival of every thread of the course, also of those for which they are
off, and bind the workgroups of the acting ones to their place; unless the issue leaves it to its event, each team is
then tried. In a sampled launch VQPUT traps WINDOW in each acting thread, v2 zero (log entry 22), to resume at the
next word (log entry 12), and counts no arrival.

R197, R198, R440, R12: once each live thread of a team on a core has reached a VQPUT first, its earlier writes are in
the store path (log entry 34), and the FIFO towards the partner core holds fewer than 16 entries, VQPUT_COMPLETE
appends one entry: lane h's value, zero for a lane without one, with those writes. Once each has reached a VQGET
first, VQGET_COMPLETE takes the oldest entry from the partner, each thread gets its lane's value, and all acquire the
entry's writes. While the partner is gated the save area stands for the FIFO. A FIFO that is full, or empty, threads
at VQPUTs and VQGETs together (log entry 94), and a saved team leave everything as it is. -/
def Obligations.VerticalFifos : Prop :=
  (∀ (s : State) (f : LX),
     let bound (i : Instr) (w : Workgroup) : Workgroup :=
       if (s.actors i).any (fun c => c.id.wg == w.num) then { w with bound := true } else w
     let sampled (c : Ctx) : Bool := ((s.launchOf? c.id.wg).map Launch.sampled).getD false
     let go (i : Instr) (k : Ctx → FlightKind) (counts : Ctx → Bool) (attempt : State → Nat → Nat → State) : Prop :=
       s.clear i = true → ∃ u : State, u = { s with ctxs := u.ctxs, nextNum := s.nextNum + 1, wgs := s.wgs.map (bound i), teams := u.teams } ∧
         exec i s = .next (if s.cur.defer then u else (courseTeams s.cur.course).foldl (fun t w => attempt t w.1 w.2) u) ∧
         Each (ThreadStep s i (fun c => Issues s i (s.recorded i c) (k c) c)) s.ctxs u.ctxs ∧
         Each (fun t t' => t' = { t with vqOff := t'.vqOff } ∧ (t'.vqOff.drop t.vqOff.length).map (fun e => e.2.1) =
           (s.cur.course.filter (fun id => match s.ctx? id with
             | some c => fate (s.shp i) (s.pfx i) c.regs != .acts && counts c && id.wg == t.wg && id.tix / 32 == t.idx
             | none => false)).map CtxId.tix) s.teams u.teams
     (s.allAct (.vqput f) (fun c => sampled c = false) →
       go (.vqput f) (fun c => .vqput (c.regs.get f.a)) (fun c => !sampled c) State.tryVqput) ∧
     go (.vqget f) (fun _ => .vqget) (fun _ => true) State.tryVqget ∧
     (∀ k, s.clear (.vqput f) = true → s.cur.course.Nodup →
       s.allAct (.vqput f) (fun c => c.trappable = true ∧ s.handles c k ∧ sampled c = true) →
       (∀ id ∈ s.cur.course, ∀ c, s.ctx? id = some c → sampled c = true) → ∃ u,
       exec (.vqput f) s = .next (if s.cur.defer then u else (courseTeams s.cur.course).foldl (fun t w => t.tryVqput w.1 w.2) u) ∧
       u.teams = s.teams ∧ ActorsAre s u (.vqput f) (fun c =>
         c.trapped (s.recorded (.vqput f) c) k causeWINDOW 0 s.cur.pc s.nextPc s.cur.word))) ∧
  (∀ (s : State) (wg team : Nat) (w : Workgroup) (heads : List (Ctx × VqHead)),
     s.vqGathered wg team = some heads → s.wg? wg = some w →
     let partner := if w.core < 96 then w.core + 96 else w.core - 96
     let line (k : Core) : List FifoEntry := if (s.core partner).gated then k.spill else k.fifo
     let puts : Prop := ∀ e ∈ heads, e.2.isPut = true
     let gets : Prop := ∀ e ∈ heads, e.2.isPut = false
     let written : Prop := ∀ e ∈ heads, ∀ n ∈ s.ownWrites e.1 e.2.num, s.stuck n = false
     (∀ e ∈ heads, s.ctx? e.1.id = some e.1 ∧ e.1.inflight.all (fun g => !g.isTrap) = true) →
     (heads.map (fun e => e.1.id)).Nodup →
     (w.place ≠ .resident ∨ ¬puts ∨ (line (s.core w.core)).length ≥ 16 ∨ ¬written → Stays s (.vqputComplete wg team)) ∧
     (w.place = .resident → puts → (line (s.core w.core)).length < 16 → written →
       Answers s (.vqputComplete wg team) (fun t =>
         t = { s with ctxs := t.ctxs, cores := t.cores, teams := t.teams, stores := t.stores } ∧
         line (t.core w.core) = line (s.core w.core) ++ [{
           lanes := (List.range 32).map (fun h => match heads.find? (fun e => e.1.lane == h) with
             | some (_, .put (some (_, v)) _) => v
             | _ => 0)
           writes := heads.flatMap (fun e => s.ownWrites e.1 e.2.num) }] ∧
         t.core w.core = { s.core w.core with fifo := (t.core w.core).fifo, spill := (t.core w.core).spill } ∧
         (∀ k, k ≠ w.core → t.core k = s.core k) ∧
         ∀ e ∈ heads, ∀ n v, e.2 = .put (some (n, v)) n → t.ctx? e.1.id = some (e.1.land n))) ∧
     (w.place ≠ .resident ∨ ¬gets ∨ line (s.core partner) = [] → Stays s (.vqgetComplete wg team)) ∧
     (∀ entry rest, w.place = .resident → gets → line (s.core partner) = entry :: rest →
       Answers s (.vqgetComplete wg team) (fun t =>
         t = { s with ctxs := t.ctxs, cores := t.cores, teams := t.teams, got := t.got } ∧ line (t.core partner) = rest ∧
         Acquired s t (heads.map (fun e => e.1.id)) entry.writes ∧
         ∀ e ∈ heads, ∀ n g, e.2 = .get (some n) n → e.1.flight? n = some g →
           t.ctx? e.1.id = some { e.1.land n with
             regs := g.vdst.foldl (fun r d => r.put d (entry.lanes.getD e.1.lane 0)) e.1.regs })))

/-- R402, R403, R55, R56, R24: a LAUNCH of a misaligned record answers 2^63 + 5 at once; else it stays outstanding
until the dispatcher has copied the record, in a later cycle of its clock. The answer is: at depth 10, 2^63 + 1; for a
record that fails a check, 2^63 plus its status, and no launch is made; else the next %launch, the next count (log
entry 4), under which the child, one deeper and with the thread's own earlier writes released to it, enters the
dispatcher, with a first test of its PRODUCER (R95). v(d) takes the answer in a later cycle of the core (log entry
96). The copy waits for the thread's older accesses to the record, and while its workgroup is saved; an unreadable
record traps. In a sampled launch LAUNCH traps WINDOW (R91), before it looks at the alignment and with the record's
address (log entry 22), and resumes at the next word (log entry 12).

R373, R374: CWAIT on a refusal gives its status at once; on a grid that a thread of the issuing grid launched it
waits, and CWAIT_COMPLETE gives the grid's status once that has finished, the core has passed an edge of its clock
since (R24, log entry 96), and the workgroup is on a core, after which the core's L1 is empty (log entry 24); on any
other handle it gives all ones and records FIELDRES. -/
def Obligations.ChildGrids : Prop :=
  (∀ (s : State),
     (∀ (f : LX), let i : Instr := .launch f
       let askew (c : Ctx) : Prop := (c.regs.get f.a).toNat % 64 ≠ 0
       (s.clear i = true → s.allAct i (fun c => (∀ l, s.launchOf? c.id.wg = some l → l.sampled = false) ∧
           (askew c ∨ ∃ bytes, s.launchRead c (c.regs.get f.a) s.nextNum = .got bytes)) →
         CompletesWith s i (fun c c' => if askew c then Issues s i ((s.recorded i c).put f.d (BitVec.ofNat 64 (2 ^ 63 + 5))) .result c c'
             else Issues s i (s.recorded i c) (.launch (c.regs.get f.a) false s.dcycle) c c')
           (fun t => t = { s with ctxs := t.ctxs, nextNum := s.nextNum + 1 })) ∧
       (∀ k, s.clear i = true → s.cur.course.Nodup → s.allAct i (fun c => c.trappable = true ∧ s.handles c k ∧
           ∃ l, s.launchOf? c.id.wg = some l ∧ l.sampled = true) →
         Answers s i (fun t => ActorsAre s t i (fun c =>
           c.trapped (s.recorded i c) k causeWINDOW (c.regs.get f.a) s.cur.pc s.nextPc s.cur.word)))) ∧
     (∀ (id : CtxId) (num : Nat) (c : Ctx) (g : Flight) (x : Word) (k : Nat) (p : Launch), s.has id num c g →
       g.what = .launch x false k → s.launchOf? id.wg = some p → s.recordless c = true →
       let waits := !s.resident id.wg || decide (s.dcycle ≤ k) || p.status != 0 || s.launchWaits c num x
       (waits = true → Stays s (.longLatencyComplete id num)) ∧
       (∀ cause a h, waits = false → s.launchRead c x num = .trap cause a → c.exposed g = true → s.handles c h →
         Answers s (.longLatencyComplete id num) (fun t => Fails s t c g h cause a)) ∧
       (∀ bytes, waits = false → s.launchRead c x num = .got bytes →
         let l : Launch := Launch.ofRecord s.nextLaunch x bytes p.queue (p.depth + 1) (some p.num) (some id.wg) p.grants
           (s.ownWrites c num)
         let r := s.checkLaunch (some (s.viewer c num)) l
         let answers (v : Nat) (rest : State → Prop) : Prop := Answers s (.longLatencyComplete id num) (fun t =>
           t.ctx? id = some { c with inflight := c.inflight.map (fun f => if f.num = num then
             { f with what := .launched (BitVec.ofNat 64 v) (s.core (s.coreOf c)).cyc } else f) } ∧ OnlyCtx s t id ∧ rest t)
         let refused (t : State) : Prop := t.undue = s.undue ∧ t.nextLaunch = s.nextLaunch
         (p.depth ≥ 10 → answers (2 ^ 63 + 1) refused) ∧
         (p.depth < 10 → r.1 ≠ 0 → answers (2 ^ 63 + r.1) refused) ∧
         (p.depth < 10 → r.1 = 0 → answers s.nextLaunch (fun t =>
           t.launches = s.launches ++ [{ r.2 with
             tests := if r.2.producer = 0 then [] else [(s.dcycle, s.producerReady r.2)] }] ∧
           t.nextLaunch = s.nextLaunch + 1 ∧ r.2.num = s.nextLaunch ∧ r.2.depth = p.depth + 1 ∧ r.2.parent = some p.num ∧
           r.2.after = s.ownWrites c num)))) ∧
     (∀ (id : CtxId) (num : Nat) (c : Ctx) (g : Flight) (x cyc : Word) (p : Launch), s.has id num c g →
       g.what = .launched x cyc → s.launchOf? id.wg = some p → c.quiet num = true →
       ((s.core (s.coreOf c)).cyc = cyc → Stays s (.longLatencyComplete id num)) ∧
       ((s.core (s.coreOf c)).cyc ≠ cyc → Answers s (.longLatencyComplete id num) (fun t => t = { s with ctxs := t.ctxs } ∧
         Landed s t id num (g.vdst.foldl (fun r d => r.put d x) c.regs))))) ∧
  (∀ (s : State) (f : LX),
     let i : Instr := .cwait f
     let child (c : Ctx) : Bool := s.launches.any (fun l => l.num == (c.regs.get f.a).toNat &&
       (match s.launchOf? c.id.wg with
         | some p => l.parent == some p.num
         | none => false))
     (s.clear i = true → Waits s i
       (fun c c' =>
         let h := c.regs.get f.a
         let r := s.recorded i c
         if h.getLsbD 63 = true then Issues s i (r.put f.d (BitVec.ofNat 64 (h.toNat % 256))) .result c c'
         else if child c = true then Issues s i r (.cwait h.toNat) c c'
         else Issues s i { r.put f.d (BitVec.allOnes 64) with warn := r.warn ||| warnFIELDRES } .result c c')
       (fun t => t = { s with ctxs := t.ctxs, nextNum := s.nextNum + 1 }) (fun t id => t.tryCwait id s.nextNum)) ∧
     (∀ id num c g n l, s.has id num c g → g.what = .cwait n → c.quiet num = true → s.launch? n = some l →
       let unseen : Prop := n ∈ (s.core (s.coreOf c)).newEnds
       (l.phase ≠ .finished ∨ s.resident id.wg = false ∨ unseen → exec (.cwaitComplete id num) s = .next s) ∧
       (l.phase = .finished → s.resident id.wg = true → ¬unseen → ∃ t, exec (.cwaitComplete id num) s = .next t ∧
         t = { s with ctxs := t.ctxs, cores := t.cores } ∧
         Landed s t id num (g.vdst.foldl (fun r d => r.put d (BitVec.ofNat 64 l.status)) c.regs) ∧
         (t.core (s.coreOf c)).l1 = [])))

/-- R411, R414, R240: MFS gives v(d) the special of number a as the table says, and reading %scr, %core or %tier binds
the workgroup to its place; MTS writes the specials that it may from v(d), each its own bits; %acc takes only a
multiple of 512 below 1,048,576, and otherwise FIELDRES is recorded. An access to %warn comes after the bits of its
own word (log entry 31). An MTS of a special that is read-only traps PRIVILEGED, to resume at the next word (log entry
12). -/
def Obligations.LaneSpecials : Prop := ∀ (s : State) (f : LX),
  (s.clear (.mfs f) = true → CompletesWith s (.mfs f)
    (fun c => Writes s (.mfs f) f.d (fun c x => ∀ l w, s.home? c = some (l, w) →
      x = (match f.a.toNat with
        | 0 => BitVec.ofNat 64 c.lane
        | 1 => BitVec.ofNat 64 c.id.tix
        | 2 => BitVec.ofNat 64 c.team
        | 3 => BitVec.ofNat 64 (w.lin % l.dimx)
        | 4 => BitVec.ofNat 64 (w.lin / l.dimx % l.dimy)
        | 5 => BitVec.ofNat 64 (w.lin / l.dimx / l.dimy)
        | 6 => BitVec.ofNat 64 w.lin
        | 7 => BitVec.ofNat 64 w.visit
        | 8 => c.regs.mode.setWidth 64
        | 9 => c.regs.fflags.setWidth 64
        | 10 => (s.recorded (.mfs f) c).warn.setWidth 64
        | 11 => c.regs.bcur.setWidth 64
        | 12 => c.regs.lr
        | 13 => c.regs.rngk
        | 14 => c.regs.rngc
        | 15 => BitVec.ofNat 64 c.fdepth
        | 16 => s.slabAddr w.core w.scrOff
        | 17 => BitVec.ofNat 64 w.scrSize
        | 18 => BitVec.ofNat 64 (l.winbase + w.lin * l.winstride)
        | 19 => c.regs.acc
        | 20 => (s.core w.core).cyc
        | 21 => BitVec.ofNat 64 w.core
        | 22 => BitVec.ofNat 64 (w.core / 96)
        | 23 => BitVec.ofNat 64 (s.vqfree w.core)
        | n => BitVec.ofNat 64 (l.shape (n - 24)))) c)
    (fun t => t = { s with ctxs := t.ctxs, nextNum := s.nextNum + 1, wgs := s.wgs.map (fun w =>
      if f.a.toNat ∈ [16, 21, 22] ∧ (s.actors (.mfs f)).any (fun c => c.id.wg == w.num) = true then
        { w with bound := true }
      else w) })) ∧
  (s.clear (.mts f) = true → f.a.toNat ∈ [8, 9, 10, 11, 12, 13, 14, 19] → Completes s (.mts f) (fun c c' =>
    let x := c.regs.get f.d
    let r := s.recorded (.mts f) c
    Moves s c c' (match f.a.toNat with
      | 8 => { r with mode := x.setWidth 5 }
      | 9 => { r with fflags := x.setWidth 5 }
      | 10 => { r with warn := x.setWidth 9 }
      | 11 => { r with bcur := x.setWidth 6 }
      | 12 => { r with lr := x }
      | 13 => { r with rngk := x }
      | 14 => { r with rngc := x }
      | _ => if x.toNat % 512 = 0 ∧ x.toNat < 1048576 then { r with acc := x }
             else { r with warn := r.warn ||| warnFIELDRES }))) ∧
  (∀ h, s.clear (.mts f) = true → f.a.toNat ∈ [0, 1, 2, 3, 4, 5, 6, 7, 15, 16, 17, 18, 20, 21, 22, 23, 24, 25, 26, 27] →
    s.cur.course.Nodup → s.allAct (.mts f) (fun c => c.trappable = true ∧ s.handles c h) →
    Answers s (.mts f) (fun t => t = { s with ctxs := t.ctxs, nextNum := t.nextNum, stores := t.stores } ∧
      ActorsAre s t (.mts f) (fun c =>
        c.trapped (s.recorded (.mts f) c) h causePRIVILEGED 0 s.cur.pc s.nextPc s.cur.word)))

/-- R425: the uniform operations write s(d) with the result on 64-bit values: sums, differences, products, bitwise
results, shifts by s(b) mod 64, the lesser or greater (FN 1 unsigned, else signed), and 1 or 0 for a signed
comparison. SNOP writes nothing. Nothing else changes but the program counter and the bits of %warn.

R425: the uniform immediates: s(a) with the sign-extended imm13, or shifted by its low 6 bits; SMOVI writes
sext(imm19), SMOVH puts imm19 below s(d) shifted by 19.

R426, R277: SBZ and SBNZ move every thread of the team to the next word plus 4·off19 where s(a) is zero, or is not
zero, and to the next word otherwise; a misaligned target traps every thread at the branch.

R441, R432, R240: VTOS gives s(d) the v(a) of the live thread at home lane b, zero where there is none. SRD gives it
the team special; SWR of %tags clears the tags whose bits are set in s(a), and of any other special is PRIVILEGED.

R150, R152, R242: where a uniform word meets a trap, each live thread of its team, as they run, stands in its handler:
v0 holds the cause, v1 the word's address, v2 the address of the cause, v3 the word, and it resumes at the next word
(log entry 12); but for ILLEGAL the bits of %warn of the word are recorded. The registers of the team, memory and
every other thread are as they were. -/
def Obligations.UniformOperations : Prop :=
  (∀ (s : State) (f : SA),
     let a := s.sreg f.a
     let b := s.sreg f.b
     let n := b.toNat % 64
     TeamWrites s (.snop f) 0 0 ∧
     TeamWrites s (.sadd f) f.d (BitVec.ofNat 64 (a.toNat + b.toNat)) ∧
     TeamWrites s (.ssub f) f.d (BitVec.ofInt 64 (a.toInt - b.toInt)) ∧
     TeamWrites s (.smul f) f.d (BitVec.ofNat 64 (a.toNat * b.toNat)) ∧
     (∃ x, (∀ i < 64, x.getLsbD i = (a.getLsbD i && b.getLsbD i)) ∧ TeamWrites s (.sand f) f.d x) ∧
     (∃ x, (∀ i < 64, x.getLsbD i = (a.getLsbD i || b.getLsbD i)) ∧ TeamWrites s (.sor f) f.d x) ∧
     (∃ x, (∀ i < 64, x.getLsbD i = (a.getLsbD i != b.getLsbD i)) ∧ TeamWrites s (.sxor f) f.d x) ∧
     TeamWrites s (.sshl f) f.d (BitVec.ofNat 64 (a.toNat * 2 ^ n)) ∧
     TeamWrites s (.sshr f) f.d (BitVec.ofNat 64 (a.toNat / 2 ^ n)) ∧
     TeamWrites s (.ssar f) f.d (BitVec.ofInt 64 (a.toInt / 2 ^ n)) ∧
     (∃ x, (x = a ∨ x = b) ∧ TeamWrites s (.smin f) f.d x ∧
       (if f.fn = 1 then x.toNat ≤ a.toNat ∧ x.toNat ≤ b.toNat else x.toInt ≤ a.toInt ∧ x.toInt ≤ b.toInt)) ∧
     (∃ x, (x = a ∨ x = b) ∧ TeamWrites s (.smax f) f.d x ∧
       (if f.fn = 1 then a.toNat ≤ x.toNat ∧ b.toNat ≤ x.toNat else a.toInt ≤ x.toInt ∧ b.toInt ≤ x.toInt)) ∧
     (holdsInt f.fn a.toInt b.toInt a.toNat b.toNat → TeamWrites s (.scmp f) f.d 1) ∧
     (¬ holdsInt f.fn a.toInt b.toInt a.toNat b.toNat → TeamWrites s (.scmp f) f.d 0)) ∧
  (∀ (s : State) (f : SI) (g : SW),
     let a := s.sreg f.a
     let m : Word := BitVec.ofInt 64 f.imm.toInt
     let n := f.imm.toNat % 64
     TeamWrites s (.saddi f) f.d (BitVec.ofInt 64 (a.toInt + f.imm.toInt)) ∧
     (∃ x, (∀ i < 64, x.getLsbD i = (a.getLsbD i && m.getLsbD i)) ∧ TeamWrites s (.sandi f) f.d x) ∧
     (∃ x, (∀ i < 64, x.getLsbD i = (a.getLsbD i || m.getLsbD i)) ∧ TeamWrites s (.sori f) f.d x) ∧
     TeamWrites s (.sshli f) f.d (BitVec.ofNat 64 (a.toNat * 2 ^ n)) ∧
     TeamWrites s (.sshri f) f.d (BitVec.ofNat 64 (a.toNat / 2 ^ n)) ∧
     TeamWrites s (.ssari f) f.d (BitVec.ofInt 64 (a.toInt / 2 ^ n)) ∧
     TeamWrites s (.smovi g) g.d (BitVec.ofInt 64 g.imm.toInt) ∧
     TeamWrites s (.smovh g) g.d (BitVec.ofNat 64 ((s.sreg g.d).toNat * 2 ^ 19 + g.imm.toNat))) ∧
  (∀ (s : State) (f : SB),
     let target : Word := s.nextPc + BitVec.ofInt 64 (4 * f.off.toInt)
     let go (i : Instr) (taken : Prop) : Prop := s.uclear i = true →
       (taken → (∀ c ∈ s.curLive.head?, s.branchFault c target = none) → ∃ t, exec i s = .next t ∧
         TeamRuns s i id 0 target none t ∧ t = { s with teams := t.teams, ctxs := t.ctxs, nextNum := s.nextNum + 1 }) ∧
       (taken → ∀ c ∈ s.curLive.head?, ∀ cause addr, s.branchFault c target = some (cause, addr) →
         exec i s = .next (teamTrap i cause addr s)) ∧
       (¬ taken → ∃ t, exec i s = .next t ∧ TeamRuns s i id 0 s.nextPc none t ∧
         t = { s with teams := t.teams, ctxs := t.ctxs, nextNum := s.nextNum + 1 })
     go (.sbz f) (s.sreg f.a = 0) ∧ go (.sbnz f) (s.sreg f.a ≠ 0)) ∧
  (∀ (s : State) (g : SA) (f : SI),
     (∀ c ∈ s.curLive, c.lane = g.b.toNat % 32 → (∀ d ∈ s.curLive, d.lane = c.lane → d = c) →
       TeamWrites s (.vtos g) g.d (c.regs.get g.a)) ∧
     ((∀ c ∈ s.curLive, c.lane ≠ g.b.toNat % 32) → TeamWrites s (.vtos g) g.d 0) ∧
     (∀ l w, s.curHome = some (l, w) → TeamWrites s (.srd f) f.d (match f.imm.toNat with
       | 0 => w.tags &&& BitVec.ofNat 64 (2 ^ l.tags - 1)
       | 1 => BitVec.ofNat 64 (l.dimx + 2 ^ 32 * l.dimy)
       | 2 => BitVec.ofNat 64 (l.dimx * l.dimy * l.dimz)
       | 3 => BitVec.ofNat 64 l.num
       | 4 => BitVec.ofNat 64 l.seed
       | _ => BitVec.ofNat 64 l.bucket)) ∧
     (s.uclear (.swr f) = true → f.imm = 0 → ∃ t, exec (.swr f) s = .next t ∧ TeamRuns s (.swr f) id 0 s.nextPc none t ∧
       t = { s with
         teams := t.teams
         ctxs := t.ctxs
         nextNum := s.nextNum + 1
         wgs := s.wgs.map (fun w => if w.num = s.cur.wg then { w with tags := w.tags &&& ~~~(s.sreg f.a) } else w) }) ∧
     (s.uclear (.swr f) = true → f.imm ≠ 0 → exec (.swr f) s = .next (teamTrap (.swr f) causePRIVILEGED 0 s))) ∧
  (∀ (s : State) (i : Instr) (cause : Nat) (addr h : Word),
     s.cur.course.Nodup → (∀ id ∈ s.cur.course, ∃ c, s.ctx? id = some c ∧ c.trappable = true ∧ s.handles c h) →
     let t := teamTrap i cause addr s
     t = { s with ctxs := t.ctxs, nextNum := t.nextNum, stores := t.stores } ∧
     (∀ id, id ∉ s.cur.course → t.ctx? id = s.ctx? id) ∧
     ∀ id ∈ s.cur.course, ∀ c, s.ctx? id = some c → t.ctx? id = some
       (c.trapped (if cause = causeILLEGAL then c.regs else s.recorded i c) h cause addr s.cur.pc s.nextPc s.cur.word))

/-- R431: an SLD whose address s(a) + sext(imm13) passes its checks leaves a load of 8 bytes outstanding for its team;
an SST puts 8 bytes of s(d) into the core's store path as the team's write. No byte of memory changes at either issue;
the address is a multiple of 8 (R130), and a failed check traps every thread of the team. LOAD_COMPLETE of an SLD, on
this device and with no trap that waits, gives s(d) the bytes that the team sees, and its threads have one instruction
less outstanding; it waits for the team's writes and for older accesses of its threads to the bytes; a poisoned unit
makes every thread of the team trap MEMERR, and bytes that another workgroup has come to own HANDLE (R134). -/
def Obligations.UniformAccesses : Prop := ∀ (s : State) (f : SI) (l : Launch) (w : Workgroup),
  s.curHome = some (l, w) →
  let addr : Word := BitVec.ofInt 64 ((s.sreg f.a).toInt + f.imm.toInt)
  let check (acc : Nat) : Verdict := s.checkAddr l w 0 0 addr.toNat 8 acc false
  (∀ k, s.uclear (.sld f) = true → check accLoad = .key k → ∃ t, exec (.sld f) s = .next t ∧
    TeamRuns s (.sld f) id 0 s.nextPc
      (some (.access { addr := addr, key := k, size := 8, op := .load false } true)) t ∧
    t = { s with teams := t.teams, ctxs := t.ctxs, nextNum := s.nextNum + 1, tlb := t.tlb }) ∧
  (∀ cause, s.uclear (.sld f) = true → check accLoad = .trap cause →
    exec (.sld f) s = .next (teamTrap (.sld f) cause addr s)) ∧
  (∀ k, s.uclear (.sst f) = true → check accStore = .key k → ∃ t, exec (.sst f) s = .next t ∧
    TeamRuns s (.sst f) id 0 s.nextPc none t ∧
    t = { s with
      teams := t.teams
      ctxs := t.ctxs
      nextNum := t.nextNum
      tlb := t.tlb
      forks := t.forks
      stores := t.stores } ∧
    ∃ p, t.stores = s.stores ++ [p] ∧ p.key = k ∧ p.op = .put (leBytes 8 (s.sreg f.d).toNat) false ∧
      p.core = s.cur.core ∧ ∃ src, p.src = some src ∧ src.wg = s.cur.wg ∧ src.tix = 32 * s.cur.team ∧ src.lvl = 1) ∧
  (∀ cause, s.uclear (.sst f) = true → check accStore = .trap cause →
    exec (.sst f) s = .next (teamTrap (.sst f) cause addr s)) ∧
  (∀ id num c g a sx, s.has id num c g → g.what = .access a true → a.op = .load sx → s.recordless c = true →
    isRemoteKey a.key = false →
    let live := s.liveOfTeam c.id.wg c.team
    let r : Viewer := { wg := c.id.wg, tix := none, team := c.team, core := s.coreOf c, upto := num }
    let waits := s.stores.any (fun p => r.sees p && overlaps p.key p.op.size a.key a.size) ||
      live.any (fun k => k.olderOver num a.key a.size)
    let bytes := (s.fillL1 r.core a.key).viewBytes r true a.key a.size
    let barred := s.handleBars (some c.id.wg) a.key a.size
    let fails (cause : Nat) (at_ : Word) : Prop := Answers s (.loadComplete id num) (fun t => t.mem = s.mem ∧
      t.teams = s.teams ∧ (∀ h, s.handles c h → ∀ k ∈ live, ∀ x, k.flight? num = some x →
        t.ctx? k.id = some (k.failed x h cause at_)) ∧
      ∀ other, (∀ k ∈ live, k.id ≠ other) → t.ctx? other = s.ctx? other)
    let exposed : Prop := (∃ h, s.handles c h) ∧
      ∀ k ∈ live, s.ctx? k.id = some k ∧ ∃ x, k.flight? num = some x ∧ k.exposed x = true
    (waits = true → Stays s (.loadComplete id num)) ∧
    (waits = false → barred = false → s.readPoison r a.key a.size = none → (∀ k ∈ live, k.quiet num = true) →
      Answers s (.loadComplete id num) (fun t => t = { s with ctxs := t.ctxs, teams := t.teams, cores := t.cores, seen := t.seen } ∧
        t.ctxs = s.ctxs.map (fun k => k.land num) ∧
        t.teams = s.teams.map (fun u => if u.wg = c.id.wg ∧ u.idx = c.team then
          g.sdst.foldl (fun u d => u.put d (BitVec.ofNat 64 (leNat bytes))) u else u))) ∧
    (waits = false → barred = true → exposed → fails causeHANDLE a.addr) ∧
    (∀ u, waits = false → barred = false → s.readPoison r a.key a.size = some u → a.key - u ≤ a.addr.toNat → exposed →
      fails causeMEMERR (a.unitAt u)))

/-- R415, R416: a NETLD whose 32 bytes can be read gives register d mod 16 of the partition the configuration word and
the issuing workgroup as its owner, and records FIELDRES where a bit at or above 176 is set. R390: GSET resolves a
guard slot that its workgroup has not resolved yet, to whether s(b) is nonzero, and releases the team's writes to
every record that names the slot, then or later; for a resolved slot it does no more, and a slot at or above GUARDS
records FIELDRES.

R224, R225, R364, R91: in a sampled launch BIND and UNBIND trap WINDOW. Otherwise they answer a status, and leave the
bindings with any status but 0. BIND: BADFIELD 1 for b = 63, a misaligned or wrong object, region or length; 0 with
nothing changed for a region that its object has already; CONFLICT 2 where the region meets a bound one, or an object
lies in a region; FULL 3 at 16 regions of the object; NOSPACE 4 at 4096 objects; else 0 with the region added. UNBIND:
BADFIELD 1 for b = 63 or a wrong object or base; base 0 removes all regions of the object; a bound base is removed;
any other is NOTBOUND 5. That order of statuses, and OK for base 0 without regions, is log entry 70's; the zero v2 of
the traps log entry 22's. -/
def Obligations.TeamConfiguration : Prop :=
  (∀ (s : State) (f : SA),
     (∀ bytes, s.uclear (.netld f) = true → s.teamRead (s.sreg f.a) 32 32 = .got bytes → ∃ t, exec (.netld f) s = .next t ∧
       TeamRuns s (.netld f) id (warnIf (decide ((BitVec.ofNat 256 (leNat bytes)).toNat ≥ 2 ^ 176)) warnFIELDRES) s.nextPc
         (some .result) t ∧
       t = { s with teams := t.teams, ctxs := t.ctxs, nextNum := t.nextNum, tlb := t.tlb, parts := t.parts, seen := t.seen,
                    linkOut := t.linkOut } ∧
       ((s.enginePieces s.curRoot (s.sreg f.a).toNat 32 accNone).ranges.all (fun r => !isRemoteKey r.1) = true →
         t.linkOut = s.linkOut ∧ t.nextNum = s.nextNum + 1) ∧
       Table.find (t.part s.cur.core s.cur.part).net (f.d.toNat % 16) =
         some { word := BitVec.ofNat 256 (leNat bytes), wg := s.cur.wg }) ∧
     (∀ cause a, s.uclear (.netld f) = true → s.teamRead (s.sreg f.a) 32 32 = .trap cause a →
       exec (.netld f) s = .next (teamTrap (.netld f) cause a s)) ∧
     (∀ l w, s.uclear (.gset f) = true → s.curHome = some (l, w) →
       let slot := (s.sreg f.a).toNat
       let known := decide (slot < l.guards)
       ∃ t, exec (.gset f) s = .next t ∧
         TeamRuns s (.gset f) id (warnIf (!known) warnFIELDRES) s.nextPc (some .result) t ∧
         t = { s with teams := t.teams, ctxs := t.ctxs, nextNum := s.nextNum + 1, wgs := t.wgs } ∧
         (known = false → t.wgs = s.wgs) ∧
         (known = true → s.wg? s.cur.wg = some w →
           ((Table.find w.guards slot).isSome = true → t.wgs = s.wgs) ∧
           (Table.find w.guards slot = none → ∃ w', t.wg? s.cur.wg = some w' ∧
             w' = { w with guards := w'.guards, guardAfter := w'.guardAfter } ∧
             Table.find w'.guards slot = some (s.sreg f.b != 0) ∧
             w'.guardWrites slot = w.guardWrites slot ++ s.teamWrites ∧
             ∀ k, k ≠ slot → Table.find w'.guards k = Table.find w.guards k ∧ w'.guardWrites k = w.guardWrites k)))) ∧
  (∀ (s : State) (f : SA),
     let obj := (s.sreg f.a).toNat
     let base := (s.sreg f.b).toNat
     let len := (s.sreg (f.b + 1)).toNat
     let go (i : Instr) (r : Nat × List Binding) : Prop := s.uclear i = true →
       (s.curSampled = true → exec i s = .next (teamTrap i causeWINDOW 0 s)) ∧
       (s.curSampled = false → TeamAnswers s i f.d (BitVec.ofNat 64 (if f.b = 63 then 1 else r.1)) 0 (fun t =>
         t = { s with teams := t.teams, ctxs := t.ctxs, nextNum := s.nextNum + 1,
                      bindings := if f.b = 63 then s.bindings else r.2 }))
     let formed : Prop := obj % 8 = 0 ∧ base % 64 = 0 ∧ len % 64 = 0 ∧ 64 ≤ len ∧ len ≤ 2 ^ 40
     go (.bind f) (s.bindResult obj base len) ∧ go (.unbind f) (s.unbindResult obj base) ∧
     (¬formed ∨ s.objectKey obj = none ∨ s.bindPlace obj = none ∨ s.regionPlace base len = none →
       s.bindResult obj base len = (1, s.bindings)) ∧
     (∀ key at_ p, formed → s.objectKey obj = some key → s.bindPlace obj = some at_ → s.regionPlace base len = some p →
       let bound : Prop := ∃ x ∈ s.bindings, x.obj = key ∧ x.base = p ∧ x.len = len
       let clash : Prop := overlaps at_ 8 p len = true ∨ ∃ x ∈ s.bindings, overlaps x.base x.len p len = true ∨
         overlaps at_ 8 x.base x.len = true ∨ overlaps x.at_ 8 p len = true
       let mine := s.bindings.filter (fun x => x.obj == key)
       (bound → s.bindResult obj base len = (0, s.bindings)) ∧
       (¬bound → clash → s.bindResult obj base len = (2, s.bindings)) ∧
       (¬bound → ¬clash → mine.length ≥ 16 → s.bindResult obj base len = (3, s.bindings)) ∧
       (¬bound → ¬clash → mine = [] → (s.bindings.map Binding.obj).eraseDups.length ≥ 4096 →
         s.bindResult obj base len = (4, s.bindings)) ∧
       (¬bound → ¬clash → mine.length < 16 → (mine ≠ [] ∨ (s.bindings.map Binding.obj).eraseDups.length < 4096) →
         s.bindResult obj base len = (0, s.bindings ++ [{ obj := key, at_ := at_, base := p, len := len }]))) ∧
     (obj % 8 ≠ 0 ∨ base % 64 ≠ 0 ∨ s.objectKey obj = none → s.unbindResult obj base = (1, s.bindings)) ∧
     (∀ key, obj % 8 = 0 → base % 64 = 0 → s.objectKey obj = some key →
       (base = 0 → s.unbindResult obj base = (0, s.bindings.filter (fun b => b.obj != key))) ∧
       (base ≠ 0 → s.bindPlace base = none → s.unbindResult obj base = (1, s.bindings)) ∧
       (∀ p, base ≠ 0 → s.bindPlace base = some p →
         let rest := s.bindings.filter (fun b => !(b.obj == key && b.base == p))
         s.unbindResult obj base = if rest = s.bindings then (5, s.bindings) else (0, rest))))

/-- R435, R406, R159, R236: a TASK or LOOM whose record can be read and passes its checks puts a queue record of its
bytes behind the others of its queue, released what the team wrote, and answers 0; a record that a check refuses
answers its status; a full queue keeps the command at issue. A LOOM makes its workgroup Loom-holding, one that traps
or is refused too (R249, log entry 35). -/
def Obligations.QueueCommands : Prop := ∀ (s : State) (f : SA) (d : Desk) (r : List Byte),
  s.curDesk = some d →
  (∀ cause a, s.uclear (.loom f) = true → s.deskRead d (s.sreg f.a).toNat 64 64 = .trap cause a →
    exec (.loom f) s = .next { teamTrap (.loom f) cause a s with
      wgs := (teamTrap (.loom f) cause a s).wgs.map (fun w => if w.num = s.cur.wg then { w with loomHolding := true } else w) }) ∧
  (s.deskRead d (s.sreg f.a).toNat 64 64 = .got r →
  (∀ q, s.uclear (.task f) = true → s.taskCheck d false true s.teamWrites r = .good q →
    (s.queueFull d.core (taskQueue r) = true → exec (.task f) s = .next s) ∧
    (s.queueFull d.core (taskQueue r) = false → TeamAnswers s (.task f) f.d 0 0 (fun t =>
      t.enqueued = s.enqueued + 1 ∧ t.mem = s.mem ∧ t.stores = s.stores ∧ ∃ x,
        t.queueRecs d.core (taskQueue r) = s.queueRecs d.core (taskQueue r) ++ [x] ∧
        x.rcd = q.rcd ∧ x.desc = q.desc ∧ x.owner = q.owner ∧ x.after = q.after))) ∧
  (∀ n, s.uclear (.task f) = true → s.taskCheck d false true s.teamWrites r = .bad (.refuse n) →
    TeamAnswers s (.task f) f.d (BitVec.ofNat 64 n) 0 (fun t => t.cores = s.cores ∧ t.mem = s.mem)) ∧
  (s.uclear (.loom f) = true → s.loomCheck d false true r = .ok →
    (s.queueFull d.core 4 = true → exec (.loom f) s = .next s) ∧
    (s.queueFull d.core 4 = false → TeamAnswers s (.loom f) f.d 0 0 (fun t =>
      t.enqueued = s.enqueued + 1 ∧ t.mem = s.mem ∧ (∃ x, t.queueRecs d.core 4 = s.queueRecs d.core 4 ++ [x] ∧
        x.desc = r ∧ x.after = s.teamWrites ∧ taskKind x.rcd = 1) ∧
      ∀ w, t.wg? s.cur.wg = some w → w.loomHolding = true))) ∧
  (∀ n, s.uclear (.loom f) = true → s.loomCheck d false true r = .refuse n →
    TeamAnswers s (.loom f) f.d (BitVec.ofNat 64 n) 0 (fun t => t.cores = s.cores ∧ t.mem = s.mem ∧
      ∀ w, t.wg? s.cur.wg = some w → w.loomHolding = true)))

/-- R172, R394: a HOD whose descriptor can be read and passes its checks counts its team's arrival at the team's next
copy, answers 0, and then every complete copy of the workgroup enters the Hod queue in order. A refused HOD arrives as
well, which advances HODSEQ (log entry 35), and answers its status. A descriptor that the copy's first arrival has not
read is read, with what that asks of other devices (log entry 83).

R172: of the copies of a workgroup the first is started when every team that still has live threads has arrived at it
and the Hod queue has room; otherwise none starts. The complete copies before the first that is not, as many as the
queue has room for, start together: their records stand in order behind the others of that queue. -/
def Obligations.HodCommands : Prop :=
  (∀ (s : State) (f : SA) (d : Desk) (t : Team) (desc : List Byte),
     let i : Instr := .hod f
     let b := (s.sreg f.b).toNat % 2 ^ 32
     let e := (s.sreg f.b).toNat / 2 ^ 32
     let fetched (u : State) : State :=
       s.teamFetched u (s.sreg f.a).toNat (if (d.copyDesc t.hodSeq (s.sreg f.a)).isSome then 0 else 256)
     s.uclear i = true → s.curDesk = some d → s.curTeam = some t → s.hodDesc d t.hodSeq (s.sreg f.a) = .got desc →
     let arrives (n : Nat) (u : State) : Prop :=
       TeamRuns s i (fun x => { x.put f.d (BitVec.ofNat 64 n) with hodSeq := t.hodSeq + 1 }) 0 s.nextPc (some .result) u ∧
       u = { s with teams := u.teams, ctxs := u.ctxs, nextNum := s.nextNum + 1, wgs := u.wgs } ∧
       ∀ w, s.wg? t.wg = some w → ∃ w' x, u.wg? t.wg = some w' ∧ w'.copies = addEntry t.hodSeq desc x w.copies ∧
         x.team = t.idx ∧ x.addr = s.sreg f.a ∧ x.first = b ∧ x.last = e ∧ x.refused = n
     (s.hodCheck d desc b e true = .ok →
       (s.queueFull d.core 5 = true → exec i s = .next s) ∧
       (s.queueFull d.core 5 = false → ∃ u, arrives 0 u ∧
         exec i s = .next (fetched ((u.startCopies t.wg).noteTeamLeaf (s.sreg f.a))))) ∧
     (∀ n, s.hodCheck d desc b e true = .refuse n → ∃ u, arrives n u ∧ exec i s = .next (fetched (u.startCopies t.wg)))) ∧
  (∀ (s : State) (wg : Nat) (w : Workgroup) (begun later : List CopyAsm),
     s.wg? wg = some w → w.num = wg → w.copies = begun ++ later →
     let ready (a : CopyAsm) : Prop := ∀ t < w.teams, s.liveOfTeam w.num t = [] ∨ ∃ e ∈ a.entries, e.team = t
     let used := s.queueCount w.core 5 + begun.length
     (∀ a ∈ begun, ready a) → used ≤ 64 → (used = 64 ∨ ∀ a ∈ later.head?, ¬ready a) →
     (begun = [] → s.startCopies wg = s) ∧
     ∃ new, (s.startCopies wg).queueRecs w.core 5 = s.queueRecs w.core 5 ++ new ∧
       new.map (fun x => (x.owner, x.desc, x.seq)) = begun.map (fun a => (some wg, a.desc, some a.k)) ∧
       ∃ w', (s.startCopies wg).wg? wg = some w' ∧ w'.copies = later)

/-- R436: TASK.serve leaves each thread of the team standing at it, in the queue and mode of s(a); bits above 2 record
FIELDRES. R421: a QFENCE of a queue above 6 answers BADQUEUE 2, of a mask above 127 BADFIELD 3; otherwise its record
stands behind the others of its queue, unless that is full, which keeps it at issue. -/
def Obligations.ServeAndFence : Prop := ∀ (s : State) (f : SA),
  let serve : Serve :=
    { queue := (s.sreg f.a).toNat / 2 % 4, idle := (s.sreg f.a).getLsbD 0, d := f.d, pc := s.cur.pc, inTask := false }
  (s.uclear (.taskServe f) = true → ∃ u t, exec (.taskServe f) s = .next t ∧
    TeamRuns s (.taskServe f) (fun x => { x with serve := some serve })
      (warnIf (decide ((s.sreg f.a).toNat ≥ 8)) warnFIELDRES) s.nextPc none u ∧
    u = { s with teams := u.teams, ctxs := u.ctxs, nextNum := s.nextNum + 1 } ∧
    t = { u with ctxs := u.ctxs.map (fun c => if s.cur.course.contains c.id then { c with status := .serving } else c) }) ∧
  (∀ d, s.uclear (.qfence f) = true → s.curDesk = some d →
    let mask := (s.sreg f.a).toNat
    let q := (s.sreg f.b).toNat
    (q > 6 → TeamAnswers s (.qfence f) f.d 2 0 (fun t => t.cores = s.cores)) ∧
    (q ≤ 6 → mask ≥ 128 → TeamAnswers s (.qfence f) f.d 3 0 (fun t => t.cores = s.cores)) ∧
    (q ≤ 6 → mask < 128 → s.queueFull d.core q = true → exec (.qfence f) s = .next s) ∧
    (q ≤ 6 → mask < 128 → s.queueFull d.core q = false → TeamAnswers s (.qfence f) f.d 0 0 (fun t =>
      t.enqueued = s.enqueued + 1 ∧ ∃ x, t.queueRecs d.core q = s.queueRecs d.core q ++ [x] ∧ taskKind x.rcd = 5 ∧
        x.fence = s.recsIn d.core mask q ∧ x.after = s.teamWrites)))

/-- R398 to R401, R186 to R190, R247: a KSARM that passes its checks arms the lowest free counter of the range's
controller with count 0 and answers its handle, once the team's earlier writes are visible (log entry 43); refused, it
answers 2^63 plus a status. KSDIS answers BADFIELD 3, NOTARMED 9 or NOTOWNER 10, or frees the counter with 0; a
waiting action stays (log entry 42). KSRD reads the count, and in bits 61 to 63 whether an action waits, whether it
overshot, and whether it is armed. A waiting ENQUEUE action is taken once its queue has room; while its workgroup is
saved it joins the firings that are held for it. -/
def Obligations.Keystones : Prop := ∀ (s : State) (f : SA),
  (∀ d r ctrl key n, s.uclear (.ksarm f) = true → s.curSampled = false → s.curDesk = some d →
    s.deskRead d (s.sreg f.a).toNat 32 32 = .got r → s.ksCheck d r = .ok →
    s.ksPlace (s.ptRoot d.launch.queue) (fieldAt r 0 8) (fieldAt r 8 4) = .at_ ctrl key →
    n < ksCounters ctrl → (s.keystone ctrl n).armed = false → (∀ m < n, (s.keystone ctrl m).armed = true) →
    (s.teamWrites.any s.outstanding = true → exec (.ksarm f) s = .next s) ∧
    (s.teamWrites.any s.outstanding = false → TeamAnswers s (.ksarm f) f.d (BitVec.ofNat 64 (ctrl * 2 ^ 16 + n)) 0 (fun t =>
      t.mem = s.mem ∧ (t.keystone ctrl n).armed = true ∧ (t.keystone ctrl n).count = 0 ∧
      (t.keystone ctrl n).base = key ∧ (t.keystone ctrl n).len = fieldAt r 8 4 ∧
      (t.keystone ctrl n).total = fieldAt r 0x10 8))) ∧
  (∀ d r n, s.uclear (.ksarm f) = true → s.curSampled = false → s.curDesk = some d →
    s.deskRead d (s.sreg f.a).toNat 32 32 = .got r → s.ksCheck d r = .refuse n →
    TeamAnswers s (.ksarm f) f.d (BitVec.ofNat 64 (2 ^ 63 + n)) 0 (fun t => t.keystones = s.keystones ∧ t.mem = s.mem)) ∧
  (s.uclear (.ksdis f) = true → s.curSampled = false →
    (ksNamed (s.sreg f.a) = none → TeamAnswers s (.ksdis f) f.d 3 0 (fun t => t.keystones = s.keystones)) ∧
    (∀ ctrl n, ksNamed (s.sreg f.a) = some (ctrl, n) →
      let k := s.keystone ctrl n
      (k.armed = false → TeamAnswers s (.ksdis f) f.d 9 0 (fun t => t.keystones = s.keystones)) ∧
      (k.armed = true → k.kind ≤ 1 → k.owner ≠ some s.cur.wg →
        TeamAnswers s (.ksdis f) f.d 10 0 (fun t => t.keystones = s.keystones)) ∧
      (k.armed = true → (k.kind ≤ 1 → k.owner = some s.cur.wg) → TeamAnswers s (.ksdis f) f.d 0 0 (fun t =>
        t.keystone ctrl n = (if k.pending then { k with rearm := false, fired := true } else { k with armed := false }))))) ∧
  (s.uclear (.ksrd f) = true →
    (ksNamed (s.sreg f.a) = none → TeamAnswers s (.ksrd f) f.d 0 warnFIELDRES (fun t => t.keystones = s.keystones)) ∧
    (∀ ctrl n, ksNamed (s.sreg f.a) = some (ctrl, n) →
      let k := s.keystone ctrl n
      TeamAnswers s (.ksrd f) f.d (BitVec.ofNat 64 (k.count % 2 ^ 49 + (if k.pending then 2 ^ 61 else 0) +
        (if k.overshot then 2 ^ 62 else 0) + (if k.armed then 2 ^ 63 else 0))) (warnIf k.overshot warnOVERSHOOT)
        (fun t => t.keystones = s.keystones))) ∧
  (∀ ctrl n r,
    let k := s.keystone ctrl n
    let q := fieldAt r.rcd 0x2A 1
    k.pending = true → k.kind = 2 → k.rcd = some r → k.late = false →
    let owners (q : Workgroup → Prop) : Prop := ∀ g w, k.owner = some g → s.wg? g = some w → q w
    (owners (fun w => w.heldFirings = []) → s.queueCount k.core q ≥ 64 → exec (.keystonePendingEnqueue ctrl n) s = .next s) ∧
    (s.queueCount k.core q < 64 → k.fired = true → owners (fun w => w.heldFirings = [] ∧ ∀ a, w.place ≠ .saved a) →
      ∃ t x, exec (.keystonePendingEnqueue ctrl n) s = .next t ∧
        t.queueRecs k.core q = s.queueRecs k.core q ++ [x] ∧ x.rcd = r.rcd ∧
        (t.keystone ctrl n).armed = false ∧ (t.keystone ctrl n).pending = false) ∧
    (∀ g w a, s.queueCount k.core q < 64 → k.fired = true → k.owner = some g → s.wg? g = some w → w.place = .saved a →
      ∃ t w', exec (.keystonePendingEnqueue ctrl n) s = .next t ∧ t.cores = s.cores ∧ t.wg? g = some w' ∧
        w' = { w with heldFirings := w.heldFirings ++ [(ctrl * 2 ^ 16 + n, k)] } ∧
        (t.keystone ctrl n).armed = false ∧ (t.keystone ctrl n).pending = false))

/-- R96, R97, R358 to R360: ASRD and ASRDP give s(d) the generation of the object of s(b), or of the launch's PRODUCER
for 0, and copy its first 64 bytes to s(a) through the core's store path; ASRDP of a PINNED producer takes the bytes
as they stood at the launch's start, whatever the object holds. A failed check traps (the launch's own objects need no
grant, but in a buffer that another workgroup owns they trap HANDLE, R132, R134), and a poisoned unit traps MEMERR.
They stay at issue while a write of the team to the object is pending (log entry 43), and until the core has passed an
edge of its clock since the assay unit wrote it (R24, log entry 96). ASWAIT waits until the generation, as its core
sees it, exceeds s(b) or the object is final, and then gives the generation, an older ASWAIT waiting on; a workgroup
that is on no core goes on waiting; a generation that a write has shown it is not missed, and the team's earlier
writes to the object come first (R221, R227). Poison makes its threads trap MEMERR, a buffer that another workgroup
has come to own HANDLE (R134). -/
def Obligations.AssayReads : Prop := ∀ (s : State) (f : SA) (l : Launch) (w : Workgroup),
  s.curHome = some (l, w) →
  let objOf (r : Reg) : Nat := if (s.sreg r).toNat = 0 then l.producer else (s.sreg r).toNat
  let obj := objOf f.b
  let at_ := s.sreg f.a
  let go (i : Instr) (pinned : Bool) : Prop := s.uclear i = true →
    (obj = 0 → TeamAnswers s i f.d 0 warnFIELDRES (fun t => t.stores = s.stores ∧ t.mem = s.mem)) ∧
    (obj ≠ 0 → at_.toNat % 64 ≠ 0 → exec i s = .next (teamTrap i causeMISALIGNED at_ s)) ∧
    (obj ≠ 0 → at_.toNat % 64 = 0 → obj % 128 ≠ 0 → exec i s = .next (teamTrap i causeMISALIGNED (BitVec.ofNat 64 obj) s)) ∧
    (∀ cause a, obj ≠ 0 → at_.toNat % 64 = 0 → obj % 128 = 0 → s.objCheck l w obj = .inl (.trap cause a) →
      exec i s = .next (teamTrap i cause (BitVec.ofNat 64 a) s)) ∧
    (∀ key cause a, obj ≠ 0 → at_.toNat % 64 = 0 → obj % 128 = 0 → s.objCheck l w obj = .inr key →
      s.copyCheck l w at_.toNat = .inl (.trap cause a) → exec i s = .next (teamTrap i cause (BitVec.ofNat 64 a) s)) ∧
    (∀ key dest, obj ≠ 0 → at_.toNat % 64 = 0 → obj % 128 = 0 → s.objCheck l w obj = .inr key →
      s.copyCheck l w at_.toNat = .inr dest →
      let captured : Prop := pinned = true ∧ s.isProducer l key = true ∧ l.consume = 2
      let waits : Prop := s.stores.any (fun p => s.teamViewer.sees p && overlaps p.key p.op.size key 64) = true ∨
        key ∈ (s.core s.cur.core).newStates
      (∀ u, ¬captured → s.objPoison obj key = some u → exec i s = .next (teamTrap i causeMEMERR u s)) ∧
      (¬captured → s.objPoison obj key = none → waits → Stays s i) ∧
      ((captured ∨ s.objPoison obj key = none ∧ ¬waits) →
      let bytes := if captured then l.pinned.take 64 else cellsRead s.mem key 64
      bytes.length = 64 →
      TeamAnswers s i f.d (BitVec.ofNat 64 (fieldAt bytes 0x38 8)) 0 (fun t => t.mem = s.mem ∧
        ∃ p, t.stores = s.stores ++ [p] ∧ p.key = dest ∧ p.op = .put bytes false)))
  go (.asrd f) false ∧ go (.asrdp f) true ∧
  (∀ o key, s.localSlab o = some key → l.sampled = false → s.ownAssay l key = true →
    s.objCheck l w o = if s.handleBars (some w.num) key 64 = true then .inl (.trap causeHANDLE o) else .inr key) ∧
  (s.uclear (.aswait f) = true →
    (objOf f.a = 0 → TeamAnswers s (.aswait f) f.d 0 warnFIELDRES (fun t => t.mem = s.mem)) ∧
    (∀ key, objOf f.a ≠ 0 → objOf f.a % 128 = 0 → s.objCheck l w (objOf f.a) = .inr key → ∃ u,
      exec (.aswait f) s = .next (if s.cur.defer then u else u.tryAswait s.cur.wg s.cur.team) ∧
      TeamRuns s (.aswait f) id 0 s.nextPc (some (.aswait key (s.sreg f.b))) u ∧
      u = { s with teams := u.teams, ctxs := u.ctxs, nextNum := s.nextNum + 1, fits := u.fits })) ∧
  (∀ wg team c w g key th, (s.liveOfTeam wg team).head? = some c → s.ctx? c.id = some c → s.wg? wg = some w →
    let waiting := c.inflight.filter (fun x => match x.what with
      | .aswait _ _ => true
      | _ => false)
    let i : Instr := .aswaitComplete wg team
    let seen (key : Nat) : Prop := key ∉ (s.core w.core).newStates
    let kept (n : Nat) : Option Word := s.fitOf { wg := wg, tix := 32 * team, lvl := 1 } n
    let behind (n key : Nat) : Bool := s.stores.any (fun p =>
      ({ wg := wg, tix := none, team := team, core := w.core, upto := n } : Viewer).sees p && overlaps p.key p.op.size key 64)
    let owned (key : Nat) : Bool := s.handleBars (some wg) key 64
    let clean (key : Nat) : Prop := firstPoison s.poison key 64 = none
    let moved (key : Nat) (th : Word) : Prop :=
      leNat (cellsRead s.mem (key + 0x38) 8) > th.toNat ∨ leNat (cellsRead s.mem (key + 0x29) 1) ≠ 0
    let waits (n key : Nat) (th : Word) : Prop := ¬seen key ∨ (kept n = none ∧
      (behind n key = true ∨ (owned key = false ∧ clean key ∧ ¬moved key th)))
    let fits (x : Word) : Prop := seen key ∧ (kept g.num = some x ∨ (kept g.num = none ∧ behind g.num key = false ∧
      owned key = false ∧ clean key ∧ moved key th ∧ x = BitVec.ofNat 64 (leNat (cellsRead s.mem (key + 0x38) 8))))
    let done (x : Word) (t : State) : Prop := t.mem = s.mem ∧
      t.teams = s.teams.map (fun u => if u.wg = wg ∧ u.idx = team then
        g.sdst.foldl (fun u d => u.put d x) u else u) ∧ (t.core w.core).l1 = [] ∧
      ∃ c', t.ctx? c.id = some c' ∧ c'.inflight = c.inflight.filter (fun x => x.num != g.num) ∧ c'.pc = c.pc ∧ c'.regs = c.regs
    let calm : Prop := ∀ d ∈ s.liveOfTeam wg team, d.inflight.all (fun x => !x.isTrap) = true
    let fails (cause addr : Nat) : Prop := ∀ h, s.handles c h →
      (∀ k ∈ s.liveOfTeam wg team, s.ctx? k.id = some k ∧ ∃ x, k.inflight = [x] ∧ x.num = g.num ∧ k.exposed x = true) →
      Answers s i (fun t => t.mem = s.mem ∧ t.teams = s.teams ∧ ∀ k ∈ s.liveOfTeam wg team, ∀ x, k.inflight = [x] →
        t.ctx? k.id = some (k.failed x h cause (BitVec.ofNat 64 addr)))
    let reads : Prop := seen key ∧ kept g.num = none ∧ behind g.num key = false
    (w.place ≠ .resident → Stays s i) ∧
    (w.place = .resident → g.what = .aswait key th → waiting = [g] →
      (waits g.num key th → Stays s i) ∧
      (reads → owned key = true → fails causeHANDLE key) ∧
      (∀ u, reads → owned key = false → firstPoison s.poison key 64 = some u → fails causeMEMERR u) ∧
      (∀ x, fits x → calm → Answers s i (done x))) ∧
    (∀ o key' th' x, w.place = .resident → waiting = [o, g] → o.num ≠ g.num → o.what = .aswait key' th' → g.what = .aswait key th →
      waits o.num key' th' → fits x → calm → Answers s i (done x)))

/-- R144 to R147: the oldest waiting fault of a core takes the next record in ring order, when that is FREE: 32 bytes
of the form of R144 with state PENDING. A record answered RESOLVED holds state 2 and its parked load goes on its way
to the place that its address now translates to, whose cached translation it drops (log entry 21); it is FREE again
once the load has completed. A record answered ABORTED makes its launch fail with ABORTED, which the dispatcher meets
at its next edge; once the dispatcher has stopped a launch, its threads on a core stop at the core's next edge, and
its records there are FREE again (R24, log entry 96); that of a Hod copy, which then ends, is FREE at once. A record
is answered once. -/
def Obligations.FaultRecords : Prop := ∀ (s : State) (core idx : Nat) (r : FaultReq),
  (∀ rs,
    let n := (s.core core).faultNext
    (s.core core).faultsWaiting = r :: rs →
    ((Table.find (s.core core).faultsOut n).isSome → Stays s (.faultRecordWrite core)) ∧
    (Table.find (s.core core).faultsOut n = none → Answers s (.faultRecordWrite core) (fun t =>
      Stored s t (slabKey core (0x7FF000 + 32 * n)) (leBytes 8 r.addr.toNat ++ leBytes 8 r.pc.toNat ++
        leBytes 4 r.mask.toNat ++ leBytes 1 1 ++ leBytes 1 r.reason ++ leBytes 1 r.agent ++ leBytes 1 r.teamSlot ++
        leBytes 1 r.access ++ leBytes 1 r.level ++ leBytes 2 (s.core core).faultSeq ++ leBytes 4 r.launch) ∧
      (t.core core).faultsWaiting = rs ∧ Table.find (t.core core).faultsOut n = some r ∧
      (t.core core).faultNext = (n + 1) % 128 ∧ (t.core core).faultSeq = ((s.core core).faultSeq + 1) % 65536 ∧
      SameThreads s t))) ∧
  ((s.core core).faultsWaiting = [] → Stays s (.faultRecordWrite core)) ∧
  (Table.find (s.core core).faultsOut idx = none → Stays s (.faultResolved core idx) ∧ Stays s (.faultAbort core idx)) ∧
  (Table.find (s.core core).faultsOut idx = some r →
    let state := leNat (cellsRead s.mem (faultKey core idx + 0x14) 1)
    (r.resolved = true ∨ state = 3 → Stays s (.faultResolved core idx) ∧ Stays s (.faultAbort core idx)) ∧
    (∀ id num c f a sx, r.resolved = true → r.hod = false → r.who = [(id, num)] → (s.core core).faultsOut = [(idx, r)] →
      s.has id num c f → f.what = .access a false → a.op = .load sx → a.half = none → s.coreOf c = core →
      isRemoteKey a.key = false → s.handleBars (some id.wg) a.key a.size = false → c.olderOver num a.key a.size = false → s.ctxPoison c num a.key a.size = none →
      c.quiet num = true → Answers s (.loadComplete id num) (fun t =>
        Holds s t (faultKey core idx + 0x14) [0] ∧ Table.find (t.core core).faultsOut idx = none)) ∧
    (∀ id num c f a u l w sx k,
      let t0 := (s.homeStore (faultKey core idx + 0x14) [2] false).dropLeaf r.addr.toNat
      r.resolved = false → state ≠ 3 → r.hod = false → r.who = [(id, num)] → s.has id num c f → f.what = .parked a u →
      a.op = .load sx → s.home? c = some (l, w) → isTranslated a.addr.toNat = true →
      t0.translate (t0.ptRoot l.queue) a.addr.toNat accLoad = .key k → Answers s (.faultResolved core idx) (fun t =>
        Holds s t (faultKey core idx + 0x14) [2] ∧
        Table.find (t.core core).faultsOut idx = some { r with resolved := true } ∧
        ((t.ctx? id).bind (fun c => c.flight? num)).map Flight.what = some (.access { a with key := k } u) ∧
        OnlyCtx s t id)) ∧
    (∀ l, s.launch? r.launch = some l → l.failing = none → r.resolved = false → state ≠ 3 →
      Answers s (.faultAbort core idx) (fun t => SameThreads s t ∧
        (t.launch? r.launch).map Launch.failing = some (some (7, s.dcycle)) ∧
        Holds s t (faultKey core idx + 0x14) [if r.hod then 0 else 3] ∧
        (r.hod = true → Table.find (t.core core).faultsOut idx = none ∧
          ∀ x, Table.find (s.core core).running 5 = some x → ∃ y, Table.find (t.core core).running 5 = some y ∧
            y.done = true ∧ y.status = 3 ∧ y.faddr = r.addr.toNat) ∧
        (r.hod = false → (t.core core).faultsOut = (s.core core).faultsOut))) ∧
    (r.launch ∈ (s.core core).stops → let t := s.meetStops core
      Table.find (t.core core).faultsOut idx = none ∧ (t.core core).stops = [] ∧
      ∀ c ∈ t.ctxs, ∀ w, s.wg? c.id.wg = some w → w.core = core → w.launch = r.launch →
        c.status = .exited ∧ c.inflight = []))

/-- R263 to R265: a doorbell that goes back records BACK, one beyond the ring OVERFLOW (of a queue never registered,
any above its count: log entry 93), and any other becomes the queue's count. A slot's queue consumes its packets in
order: a NOP has no other effect; one of another kind or with nonzero reserved bytes records BADPACKET (consumed at
once: log entry 48); a LAUNCH waits while a launch of the queue waits at its head, a misaligned or unreadable record
is BADPACKET, and a record that passes its checks becomes the next launch, with a first test of its PRODUCER (R95).
HEAD and QERR, as they change, stand in the copy of the descriptor in the system area of the queue's slot too (log
entry 59, whose ring is the registered one: log entry 113), and no other byte of memory changes. A doorbell of a queue
above 4095 does nothing (log entry 78).

R63, R64, R263: while no period ends, QUEUE_ROTATION keeps every queue in its slot. A queue has work while its
doorbell exceeds HEAD, or a launch of it waits at its head. As a period ends with no workgroup on a core, a queue with
work that has held its slot for less than a full period keeps it. When no queue holds a slot, slot 0 takes the first
queue with work in ascending order after the last one served, and its descriptor, as registered but for HEAD and QERR
as they are now, is copied to the start of core 0's system area (log entry 59). The rest of the choice is log entry
95's. -/
def Obligations.HostQueues : Prop :=
  (∀ (s : State) (q count : Nat) (p : List Byte),
     let h := s.queue q
     let becomes (t : State) (h' : HostQueue) : Prop := t.queue q = h' ∧ (∀ k, k ≠ q → t.queue k = s.queue k)
     let copied (t : State) (h' : HostQueue) : Prop := s.memOk = true →
       (∀ e ∈ s.slots, e.2.queue = q →
         cellsRead t.mem (slabKey e.1 0x7F0040) 12 = leBytes 8 h'.head ++ leBytes 4 h'.qerr) ∧
       ∀ a, (∀ e ∈ s.slots, e.2.queue = q → ¬(slabKey e.1 0x7F0040 ≤ a ∧ a < slabKey e.1 0x7F0040 + 12)) →
         cellRead t.mem a = cellRead s.mem a
     let ring := fieldAt (h.reg.getD []) 8 4
     let done : HostQueue := { h with head := h.head + 1 }
     let bad : HostQueue := { h with head := h.head + 1, qerr := 3 }
     (q < 4096 →
       (count < h.doorbell → Answers s (.doorbell q count) (fun t =>
         becomes t { h with qerr := 2 } ∧ copied t { h with qerr := 2 })) ∧
       (h.doorbell ≤ count → count > h.head + ring → Answers s (.doorbell q count) (fun t =>
         becomes t { h with qerr := 1 } ∧ copied t { h with qerr := 1 })) ∧
       (h.doorbell ≤ count → count ≤ h.head + ring →
         Answers s (.doorbell q count) (fun t => becomes t { h with doorbell := count % 2 ^ 64 } ∧ t.mem = s.mem))) ∧
     (q ≥ 4096 → Stays s (.doorbell q count)) ∧
     (s.packet q = none → Stays s (.packetNop q) ∧ Stays s (.packetLaunch q) ∧ Stays s (.packetOtherKind q)) ∧
     (s.packet q = some p →
       (packetKind p = some 0 → Answers s (.packetNop q) (fun t => becomes t done ∧ copied t done ∧ t.launches = s.launches)) ∧
       (packetKind p = none → Answers s (.packetOtherKind q) (fun t => becomes t bad ∧ copied t bad ∧ t.launches = s.launches)) ∧
       (packetKind p = some 1 →
         let addr := fieldAt p 8 8
         let shell (rcd : List Byte) : Launch :=
           Launch.ofRecord s.nextLaunch (BitVec.ofNat 64 addr) rcd q 1 none none (s.readGrants q) []
         let got := s.deskRead { launch := shell [], wg := none, viewer := none, core := 0 } addr 512 64
         (s.headWaits q = true → Stays s (.packetLaunch q)) ∧
         (s.headWaits q = false → addr % 64 ≠ 0 →
           Answers s (.packetLaunch q) (fun t => becomes t bad ∧ copied t bad ∧ t.launches = s.launches)) ∧
         (s.headWaits q = false → addr % 64 = 0 → (∀ rcd, got ≠ .got rcd) →
           Answers s (.packetLaunch q) (fun t => becomes t bad ∧ copied t bad ∧ t.launches = s.launches)) ∧
         (∀ rcd l, s.headWaits q = false → addr % 64 = 0 → got = .got rcd → s.checkLaunch none (shell rcd) = (0, l) →
           Answers s (.packetLaunch q) (fun t => becomes t done ∧ copied t done ∧
             t.launches = s.launches ++ [{ l with
               tests := if l.producer = 0 then [] else [(s.dcycle, t.producerReady l)] }] ∧ t.nextLaunch = s.nextLaunch + 1)) ∧
         (∀ rcd l n, s.headWaits q = false → addr % 64 = 0 → got = .got rcd → s.checkLaunch none (shell rcd) = (n, l) →
           n ≠ 0 → Answers s (.packetLaunch q) (fun t => t.queue q = done ∧ t.undue = s.undue))))) ∧
  (∀ (s : State),
     let work (q : Nat) : Prop := (s.queue q).head < (s.queue q).doorbell ∨
       ∃ l ∈ s.launches, l.queue = q ∧ l.depth = 1 ∧ l.phase = .waiting
     (s.periodOver = false → Answers s .queueRotation (fun t =>
       ∀ i v, Table.find s.slots i = some v → Table.find t.slots i = some v)) ∧
     (s.periodOver = true → (∀ w ∈ s.wgs, w.place ≠ .resident) → (s.slots.map Prod.fst).Nodup →
       Answers s .queueRotation (fun t => ∀ i v, Table.find s.slots i = some v → v.full = false → work v.queue →
         Table.find t.slots i = some { queue := v.queue, passed := false, full := true })) ∧
     (∀ q qs, List.Pairwise (fun a b => a < b) (s.queues.map Prod.fst) → s.slots = [] →
       s.waitingQueues [] s.rotLast = q :: qs → Answers s .queueRotation (fun t =>
         Table.find t.slots 0 = some { queue := q, passed := false, full := true } ∧
         (t.queue q).desc = (s.queue q).reg ∧ work q ∧
         (∀ d, (s.queue q).reg = some d → d.length = 128 → Holds s t (slabKey 0 0x7F0000)
           (d.take 0x40 ++ leBytes 8 (s.queue q).head ++ leBytes 4 (s.queue q).qerr ++ d.drop 0x4C)) ∧
         ∀ k, work k → (Table.find s.queues k).isSome → k > s.rotLast → s.rotLast < q ∧ q ≤ k)))

/-- R64, R74, R75, R95, R24, R56: a waiting launch that has not failed may start once its queue has a slot, what its
launching thread wrote is visible, no other launch holds its slot objects, and the last test of its PRODUCER has found
CONSUME met. A write that touches the PRODUCER object has it tested: from the dispatcher's next edge on the launch is
due where the object then meets CONSUME, and not due where it does not (log entry 118); a cycle of the dispatcher
starts a launch that is due. It is then started in this dispatcher cycle, and each of its slot objects, but for one in
an owned buffer, which is left (R134, log entry 125), takes the form of R75: N, MEAN, M2, GENERATION, GMAX and
DISPATCHED 0, HALFWIDTH +inf, STATUS running, GMIN all ones, NMIN, POPULATION and PRODUCER from the launch.

R58, R60: the workgroups that may retire only now, all of a failed grid and else those without live threads, retire
first (that order, and that those of a failed grid leave then, is log entry 60's). A grid finishes once it may, and
writes its completion record, where it may write it, with its status, its depth, the workgroups sent out and retired,
and its cycles from start to finish; workgroups that waited for it may then retire. -/
def Obligations.LaunchLife : Prop :=
  (∀ (s : State) (n : Nat) (l : Launch),
     s.launch? n = some l → l.num = n →
     let ready : Prop := l.phase = .waiting ∧ l.status = 0 ∧ (l.depth = 1 → s.mapped l.queue = true) ∧
       (∀ m ∈ l.after, s.outstanding m = false) ∧ (∀ e ∈ s.slotsOf l, s.touchesHeld e.2 128 = false) ∧
       (l.producer = 0 ∨ l.due s.dcycle = true)
     (¬ready → Stays s (.launchStart n)) ∧
     (l.phase = .waiting → ∀ key bytes poisoned, let t := s.homeStore key bytes poisoned
       let meets (k : Nat) : Prop :=
         let a := t.assayAt k
         s.handleBars none k 128 = false ∧
           (a.status ≠ 0 ∨ (l.consume ≠ 0 ∧ (a.n ≥ l.nstart ∨ le64 a.halfwidth l.startwidth = true)))
       (∀ k, l.producer ≠ 0 → s.localSlab l.producer = some k → overlaps key bytes.length k 128 = true →
         ∃ m, t.launch? n = some m ∧ m.due s.dcycle = l.due s.dcycle ∧ ∀ c, s.dcycle < c → (m.due c = true ↔ meets k)) ∧
       ((∀ k, l.producer ≠ 0 → s.localSlab l.producer = some k → overlaps key bytes.length k 128 = false) →
         (t.launch? n).map Launch.tests = some l.tests)) ∧
     (ready → l.producer ≠ 0 → s.launches = [l] → l.failing = none → l.deadline = 0 → s.dcycle < s.metered + 1024 →
       (s.dispCycle.launch? n).map Launch.phase = some .started) ∧
     (ready → Answers s (.launchStart n) (fun t => SameThreads s t ∧
       (∃ l', t.launch? n = some l' ∧ l'.phase = .started ∧ l'.startCycle = s.dcycle ∧ l'.status = l.status) ∧
       (((s.slotsOf l).map Prod.snd).Nodup → (∀ e ∈ s.slotsOf l, e.2 % 128 = 0) → ∀ e ∈ s.slotsOf l,
         let a := s.assayAt e.2
         (s.handleBars none e.2 96 = true → Holds s t e.2 (cellsRead s.mem e.2 96)) ∧
         (s.handleBars none e.2 96 = false → Holds s t e.2 (leBytes 8 0 ++ leBytes 8 0 ++ leBytes 8 0 ++ leBytes 8 0x7FF0000000000000 ++ leBytes 8 a.target ++
           leBytes 1 a.confidence ++ leBytes 1 0 ++ leBytes 2 a.reserved ++ leBytes 4 l.nmin ++ leBytes 8 l.total ++
           leBytes 8 0 ++ leBytes 8 (2 ^ 64 - 1) ++ leBytes 8 0 ++ leBytes 8 l.producer ++ leBytes 8 0)))))) ∧
  (∀ (s : State) (n : Nat) (l0 l : Launch),
     s.launch? n = some l0 → l0.num = n →
     let s0 := s.retireAll (fun w => w.launch == n && (l0.status != 0 || (s.liveOfWg w.num).isEmpty))
     s0.launch? n = some l → l.num = n →
     (s0.mayFinish l = false → exec (.gridFinish n) s = .next s0) ∧
     (s0.mayFinish l = true → ∃ u,
       exec (.gridFinish n) s = .next (u.retireAll (fun w => (u.liveOfWg w.num).isEmpty && w.place == .resident)) ∧
       (u.launch? n).map Launch.phase = some .finished ∧ SameThreads s0 u ∧
       ((l.complete = 0 ∨ s0.mayComplete l l.complete = none) → u.mem = s0.mem) ∧
       (∀ k, l.complete ≠ 0 → s0.mayComplete l l.complete = some k → Stored s0 u k
         (leBytes 4 l.status ++ leBytes 1 l.depth ++ leBytes 3 0 ++ leBytes 8 l.sent ++ leBytes 8 l.retired ++
           leBytes 8 (if l.phase = .waiting then 0 else s0.dcycle - l.startCycle)))))

/-- R24, R29 to R31, R51, R52: a launch that may send out a workgroup sends its next one to the first core in its
order that admits it; the workgroup arrives there at an edge of the core's clock (log entry 96), and 32·TEAMS threads
start at the entry, running, with every register, p1 to p7, %lr, %mode, %fflags, %warn, %bcur and %acc zero but v63,
the top of the thread's stack (R46), and the generator's key, of R121; s1 to s15 of a team are the arguments, its
other s-registers zero. A workgroup that no core admits waits. The workgroups of a CORESIDENT launch are placed all
together or not at all. -/
def Obligations.Placement : Prop := ∀ (s : State) (n : Nat) (l : Launch),
  s.launch? n = some l → l.num = n →
  (s.maySend l = false → Stays s (.workgroupDispatch n) ∧ Stays s (.coresidentPlacement n)) ∧
  (s.maySend l = true → l.coresident = false →
    ((∀ k ∈ l.coreOrder, s.admitTo k l = none) → Stays s (.workgroupDispatch n)) ∧
    (∀ before core rest seats off, l.coreOrder = before ++ core :: rest → (∀ k ∈ before, s.admitTo k l = none) →
      s.room core true l = some (seats, off) → Answers s (.workgroupDispatch n) (fun t =>
        (∃ w, t.wgs = s.wgs ++ [w] ∧ w.num = s.nextWg ∧ w.launch = n ∧ w.core = core ∧ w.lin = l.nextVisit.1 ∧
          w.visit = l.sent ∧ w.arriving = true ∧
          w.place = .resident ∧ w.scrOff = off ∧ w.tags = 0) ∧
        (∃ new, t.ctxs = s.ctxs ++ new ∧ new.map (fun c => c.id.tix) = List.range (32 * l.teams) ∧
          ∀ c ∈ new, c.id.wg = s.nextWg ∧ c.id.lvl = 0 ∧ c.pc = l.entry ∧
          c.status = .running ∧ c.inflight = [] ∧ c.inHandler = false ∧ c.fdepth = 0 ∧
          (∀ k : Reg, k ≠ 63 → c.regs.get k = 0) ∧
          c.regs.get 63 = s.slabAddr core (off + l.scratch + (c.id.tix + 1) * l.stack) ∧ c.regs.p = 0 ∧ c.regs.lr = 0 ∧
          c.regs.mode = 0 ∧ c.regs.fflags = 0 ∧ c.regs.warn = 0 ∧ c.regs.bcur = 0 ∧ c.regs.acc = 0 ∧ c.regs.rngc = 0 ∧
          c.regs.rngk.toNat =
            (l.seed + l.nextVisit.1 * 0x9E3779B97F4A7C15 + c.id.tix * 0xD1B54A32D192ED03) % 2 ^ 64) ∧
        (∃ new, t.teams = s.teams ++ new ∧ new.length = seats.length ∧ ∀ u ∈ new, ∀ k : Reg, u.get k =
          if 1 ≤ k.toNat ∧ k.toNat ≤ 15 then BitVec.ofNat 64 (l.arg (k.toNat - 1)) else 0) ∧
        (t.launch? n).map Launch.sent = some (l.sent + 1)))) ∧
  (s.maySend l = true → l.coresident = true → l.sent = 0 →
    (State.sendAll n l.total s = none → Stays s (.coresidentPlacement n)) ∧
    (∀ t, State.sendAll n l.total s = some t → exec (.coresidentPlacement n) s = .next t ∧
      t.wgs.length = s.wgs.length + l.total ∧ (t.launch? n).map Launch.sent = some l.total))

/-- R84 to R86, R61, R448: a running launch whose DEADLINE has come stops with reason 2, unless the commit of the same
cycle, which comes first, stops it. An energy measurement, at most one in 1024 dispatcher cycles, adds to every
started launch its share of each core's energy, and stops one that reaches its ENERGY limit with reason 3, unless the
commit or the deadline of the same cycle gives a reason before; a measurement that is due is made (its energies: log
entry 98). A launch whose threads have all been blocked for 65,536 dispatcher cycles fails with GRID_STALL, unless
YIELDOK is set and one of its workgroups can be pre-empted: that one is ordered off its core, and QERR is SAVEFULL
where one dispatched later was passed over for want of room. The threads of a launch that fails stop at the next edges
of their cores' clocks (R24, log entry 96). -/
def Obligations.LaunchLimits : Prop := ∀ (s : State) (n : Nat) (l : Launch) (energies : List Nat),
  s.launch? n = some l → l.num = n →
  let due (a : Launch) : Prop := a.open_ = true ∧ a.deadline ≠ 0 ∧ s.dcycle ≥ a.startCycle + a.deadline
  let used (a : Launch) : Nat := a.energy + (energies.zipIdx.map (fun x => s.energyShare x.2 x.1 a.num)).sum
  let spent (a : Launch) : Prop := a.open_ = true ∧ a.energyLimit ≠ 0 ∧ used a ≥ a.energyLimit * 2 ^ 32
  (¬ due l → Stays s (.deadlineRule n)) ∧
  (due l → Answers s (.deadlineRule n) (fun t => SameThreads s t ∧
    (s.nextSample l = none → t.mem = s.mem ∧ (t.launch? n).map Launch.stop = some (some 2)) ∧
    ∀ u, exec (.assayCommit n) s = .next u → t.mem = u.mem ∧
      (t.launch? n).map Launch.stop = (u.launch? n).map (fun m => some (m.stop.getD 2)))) ∧
  (s.dcycle < s.metered + 1024 → Stays s (.energyMeasurement energies)) ∧
  (s.dcycle ≥ s.metered + 1024 → s.measureDue.metered = s.dcycle) ∧
  (s.dcycle ≥ s.metered + 1024 → Answers s (.energyMeasurement energies) (fun t =>
    t.metered = s.dcycle ∧ SameThreads s t ∧
    Each (fun a b => b.energy = if a.phase = .started then used a else a.energy) s.launches t.launches ∧
    ((∀ m ∈ s.launches, s.nextSample m = none) → (s.launches.map Launch.num).Nodup → t.mem = s.mem ∧
      Each (fun a b => (spent a → due a → b.stop = some 2) ∧ (spent a → ¬due a → b.stop = some 3) ∧
        (¬spent a → b.stop = a.stop)) s.launches t.launches) ∧
    (∀ u, s.launches = [l] → spent l → ¬due l → exec (.assayCommit n) s = .next u →
      (t.launch? n).map Launch.stop = (u.launch? n).map (fun m => some (m.stop.getD 3))))) ∧
  ((l.stall < 65536 ∨ s.stalls l = false) → Stays s (.gridStall n)) ∧
  (l.stall ≥ 65536 → s.stalls l = true → (l.yieldok = false ∨ s.stallCands l = []) →
    Answers s (.gridStall n) (fun t => (t.launch? n).map Launch.status = some 2 ∧
      (∀ k ∈ s.coresInUse, n ∈ (t.core k).stops) ∧
      ∀ c ∈ t.ctxs, ∀ w, s.wg? c.id.wg = some w → w.launch = n → w.place ≠ .resident → c.status = .exited)) ∧
  (∀ k, n ∈ (s.core k).stops → let t := s.meetStops k
    (t.core k).stops = [] ∧ ∀ c ∈ t.ctxs, ∀ w, s.wg? c.id.wg = some w → w.core = k → w.launch = n →
      c.status = .exited ∧ c.inflight = []) ∧
  (∀ w, l.stall ≥ 65536 → s.stalls l = true → l.yieldok = true →
    firstBy (fun a b => decide (a.visit > b.visit)) (s.stallCands l) = some w →
    let passed : Prop := ∃ v ∈ s.residentOf n, s.movable v = true ∧ s.saveRoom l v = none ∧ v.visit > w.visit
    Answers s (.gridStall n) (fun t => SameThreads s t ∧ (t.launch? n).map Launch.stall = some 0 ∧
      (t.wg? w.num).map (fun x => (x.ousted, x.ordered, x.leaving)) = (s.wg? w.num).map (fun x => (true, true, x.leaving)) ∧
      (passed → (t.queue l.queue).qerr = 4) ∧ (¬passed → t.mem = s.mem ∧ t.queue l.queue = s.queue l.queue)))

/-- R76, R77, R357: each acting thread of an ASPUT adds its one or two FP32 values to the pending sum of slot d of its
workgroup; a slot that its launch does not have takes nothing, and %warn records FIELDRES.

R79 to R82, R98, R448: the next sample in visit order, in a later cycle than its retirement and the commit before, is
committed to every slot of its launch: N rises by 1, MEAN and M2 follow Welford's recurrence in binary64, GENERATION
rises by 1, GMIN and GMAX take in the sample's generations, DISPATCHED is the count sent out. R83, R86: the launch
then stops with reason 4 at its last position, else with reason 1 where its stop slot has N at least NMIN and
HALFWIDTH at most TARGET. R88, R89: a launch that may be finalised has its slots' STATUS set to the stop's reason, or
5 where it failed, and GENERATION raised; one that failed before it started, those slots that no running launch holds
(log entry 89). -/
def Obligations.AssayUnit : Prop :=
  (∀ (s : State) (f : LA),
     s.clear (.asput f) = true →
     let known (c : Ctx) : Prop := f.d.toNat ≤ 7 ∧ ∃ l, s.launchOf? c.id.wg = some l ∧ l.assay f.d.toNat ≠ 0
     let values (c : Ctx) : List Nat :=
       let x := (c.regs.get f.a).toNat
       if f.t = 1 then [x % 2 ^ 32, x / 2 ^ 32] else [x % 2 ^ 32]
     CompletesWith s (.asput f)
       (fun c c' => ∃ r, Issues s (.asput f) r .result c c' ∧
         (known c → r = s.recorded (.asput f) c) ∧
         (¬ known c → r = { s.recorded (.asput f) c with warn := (s.recorded (.asput f) c).warn ||| warnFIELDRES }))
       (fun t => t = { s with ctxs := t.ctxs, wgs := t.wgs, nextNum := s.nextNum + 1 } ∧
         ∀ n w, s.wg? n = some w → w.num = n → ∃ w', t.wg? n = some w' ∧
           (∀ k, k ≠ f.d.toNat → w'.sum k = w.sum k) ∧
           ∀ l, s.launch? w.launch = some l → f.d.toNat ≤ 7 → l.assay f.d.toNat ≠ 0 →
             w'.sum f.d.toNat = (((s.actors (.asput f)).filter (fun c => c.id.wg == n)).flatMap values).foldl
               Pending.post (w.sum f.d.toNat))) ∧
  (∀ (s : State) (n : Nat) (l : Launch),
     s.launch? n = some l → l.num = n →
     let apart : Prop := ((s.slotsOf l).map Prod.snd).Nodup ∧
       ∀ e ∈ s.slotsOf l, e.2 % 128 = 0 ∧ s.handleBars none e.2 96 = false
     (s.nextSample l = none → Stays s (.assayCommit n)) ∧
     (∀ x, s.nextSample l = some x → x ∈ l.samples ∧ x.visit = l.committed ∧ s.dcycle > x.ready ∧ s.dcycle > l.lastCommit ∧
       Answers s (.assayCommit n) (fun t => SameThreads s t ∧
       (∃ l', t.launch? n = some l' ∧ l'.committed = l.committed + 1 ∧ l'.lastCommit = s.dcycle ∧
         (∀ r, l.stop = some r → l'.stop = some r) ∧ (l.stop = none → l.committed + 1 = l.total → l'.stop = some 4) ∧
         (l.stop = none → l.committed + 1 ≠ l.total → l.assay l.stopslot = 0 → l'.stop = none) ∧
         (∀ o, l.stop = none → l.committed + 1 ≠ l.total → l.assay l.stopslot ≠ 0 →
           s.localSlab (l.assay l.stopslot) = some o →
           let a := t.assayAt o
           l'.stop = if a.n ≥ l.nmin ∧ le64 a.halfwidth a.target = true then some 1 else none)) ∧
       (apart → ∀ e ∈ s.slotsOf l,
         let a := s.assayAt e.2
         let x1 := (x.values.getD e.1 0).toNat
         let delta := sub64 x1 a.mean
         let mean := add64 a.mean (div64 delta (nat64 (a.n + 1)))
         ∃ b : Assay, Holds s t e.2 b.bytes ∧ b.n = a.n + 1 ∧ b.mean = mean ∧
           b.m2 = add64 a.m2 (mul64 delta (sub64 x1 mean)) ∧ b.generation = (a.generation + 1) % 2 ^ 64 ∧
           b.gmin = min a.gmin x.gmin ∧ b.gmax = max a.gmax x.gmax ∧ b.dispatched = l.sent ∧ b.target = a.target ∧
           b.confidence = a.confidence ∧ b.status = a.status ∧ b.nmin = a.nmin ∧ b.population = a.population ∧
           b.producer = a.producer ∧ b.halfwidth = b.width (x.nans.getD e.1 false || l.nanSlots.contains e.1)))) ∧
     (s.mayFinalise l = false → Stays s (.assayFinalisation n)) ∧
     (s.mayFinalise l = true → Answers s (.assayFinalisation n) (fun t => SameThreads s t ∧
       (t.launch? n).map Launch.finalised = some true ∧
       (apart → ∀ e ∈ s.slotsOf l, (l.phase = .waiting → s.touchesHeld e.2 128 = false) →
         let a := s.assayAt e.2
         let b : Assay :=
           { a with
             status := if l.status ≠ 0 then 5 else l.stop.getD 0
             generation := (a.generation + 1) % 2 ^ 64
             dispatched := l.sent }
         Holds s t e.2 b.bytes))))

/-- R247 to R253, R255, R24: a workgroup that may not be pre-empted, or whose pre-emption nothing asks for, stays, and
one that a rotation has marked is unmarked while a workgroup of its grid is Loom-holding. Otherwise it is ordered off
its core; at the core's next edge it stops issuing (log entry 96), and once its threads stand at boundaries and its
engines are quiet it is saved where its queue's save area has room: the image has the header of R251 and its offsets
without gaps (log entry 55), the frame of R252 for each thread, and a progress record for each slice of its paused Hod
copy (the widths of its fields: log entry 99); its records leave their queues and are kept, and it is no longer on a
core. Where there is no room it stays, and the queue's QERR is SAVEFULL.

R62, R250, R252, R254: a saved workgroup stays where it has not its turn (it waits for a retirement; the dispatcher
has had no edge since it left, log entry 96; or an earlier one of its launch has been called, log entry 75), its
launch has failed, its queue has no slot, MAXRES is reached, or no core admits it. Otherwise it returns to a core that
may have it, its threads with the program counters and registers of its image, its teams with theirs; a thread saved
as running waits for nothing. -/
def Obligations.Preemption : Prop :=
  (∀ (s : State) (wg : Nat) (w : Workgroup) (l : Launch),
     s.wg? wg = some w → w.num = wg → s.launchOf? wg = some l →
     let rotationWaits : Prop := w.ousted = false ∧
       ∃ v ∈ s.wgs, v.launch = w.launch ∧ v.place = .resident ∧ v.loomHolding = true
     (rotationWaits → exec (.workgroupPreempt wg) s =
       .next (s.onWg wg (fun w => { w with ordered := false, leaving := false }))) ∧
     (¬ rotationWaits → (s.movable w = false ∨ s.preemptAsked w = false) → Stays s (.workgroupPreempt wg)) ∧
     (¬ rotationWaits → s.movable w = true → s.preemptAsked w = true → w.leaving = false →
       exec (.workgroupPreempt wg) s = .next (s.onWg wg (fun w => { w with ordered := true }))) ∧
     (w.ordered = true → (s.core w.core).gated = false →
       ((s.coreCycle w.core).wg? wg).map (fun x => (x.leaving, x.ordered)) = some (true, false)) ∧
     (¬ rotationWaits → s.movable w = true → w.leaving = true → (∀ f ∈ s.forks, f.wg ≠ wg) →
       (∀ c ∈ s.threadsOf wg, c.trapNow = none) →
       ((s.atBoundary wg = false ∨ s.enginesQuiet w = false) → Answers s (.workgroupPreempt wg) (fun t =>
         (t.wg? wg).map (fun x => (x.leaving, x.place)) = some (true, .resident) ∧ SameThreads s t ∧ t.mem = s.mem)) ∧
       (∀ w1,
         let s1 := s.pullRecords w
         s.atBoundary wg = true → s.enginesQuiet w = true → s1.wg? wg = some w1 →
         s1.findRoom l.queue (s1.imageBytes l w1) = none → Answers s (.workgroupPreempt wg) (fun t =>
           (t.wg? wg).map (fun x => (x.leaving, x.ordered, x.ousted, x.place)) = some (false, false, false, .resident) ∧ SameThreads s t ∧
           (t.queue l.queue).qerr = 4)) ∧
       (∀ w1 off slot free cleared,
         let s1 := s.pullRecords w
         s.atBoundary wg = true → s.enginesQuiet w = true → (s.queue l.queue).trace = false → s1.wg? wg = some w1 →
         s1.findRoom l.queue (s1.imageBytes l w1) = some (off, slot, free, cleared) →
         let at_ := s.queueField l.queue 0x20 8 + off
         let size := 128 + 8 * (l.regs + 2)
         let teamOff := 128 + 32 * w.teams * (5 * size)
         let wgOff := teamOff + 512 * w.teams
         let scrOff := wgOff + (s1.wgImage w1).length
         Answers s (.workgroupPreempt wg) (fun t =>
           (t.wg? wg).map (fun x => (x.leaving, x.place)) = some (false, .saved at_) ∧ SameThreads s t ∧
           Holds s t (hbmBase + at_) (leBytes 2 1 ++ leBytes 1 32 ++ leBytes 1 w.teams ++ leBytes 1 l.regs ++
             leBytes 1 ((if l.sampled then 1 else 0) + 2 * (if w.bound then 1 else 0)) ++ leBytes 2 w.core ++
             leBytes 8 l.num ++ leBytes 4 w.lin ++ leBytes 4 w.visit ++ leBytes 4 w.scrSize ++
             leBytes 4 (5 * size) ++ leBytes 8 128 ++ leBytes 8 teamOff ++ leBytes 8 wgOff ++ leBytes 8 scrOff ++
             leBytes 8 (scrOff + w.scrSize) ++ leBytes 8 slot ++ List.replicate 48 0) ∧
           (∀ i c, (s.threadsOf wg)[i]? = some c → Holds s t (hbmBase + at_ + 128 + i * (5 * size))
             (leBytes 8 c.nextPc.toNat ++ leBytes 8 c.regs.lr.toNat ++ leBytes 8 c.regs.mode.toNat ++
               leBytes 8 c.regs.fflags.toNat ++ leBytes 8 c.regs.warn.toNat ++ leBytes 8 c.regs.rngk.toNat ++
               leBytes 8 c.regs.rngc.toNat ++ leBytes 8 c.regs.bcur.toNat ++ leBytes 8 c.regs.acc.toNat ++
               leBytes 1 c.tstate ++
               leBytes 1 ((if c.inHandler then 1 else 0) + (if c.nested then 2 else 0) + (if c.heldHalt then 4 else 0)) ++
               leBytes 1 (c.frames.length + 8 * c.fdepth) ++ leBytes 1 (c.regs.p.toNat / 2) ++
               leBytes 1 c.shadow.mode.toNat ++ [0, 0, 0] ++ leBytes 8 c.shadow.rpc.toNat ++ leBytes 8 c.shadow.fpc.toNat ++
               (List.range 4).flatMap (fun k => leBytes 8 (c.shadow.v.getD k 0).toNat) ++
               (List.range l.regs).flatMap (fun k => leBytes 8 (c.regs.getN k).toNat) ++
               leBytes 8 (c.regs.getN 62).toNat ++ leBytes 8 (c.regs.getN 63).toNat)) ∧
           (∀ x, Table.find (s.core w.core).running 5 = some x → x.rcd.owner = some wg →
             (s.threadsOf wg).length = 32 * w.teams → (∀ i < w.teams, (s.team? wg i).isSome = true) →
             Holds s t (hbmBase + at_ + wgOff + 0x238) (x.rcd.slices.flatMap (fun e =>
               leBytes 8 (taskEntry x.rcd.rcd) ++ leBytes 4 e.1 ++ leBytes 4 e.2 ++
               leBytes 8 (chunksBefore x.rcd.desc w.scrKey x.rcd.slices x.progress x.progress 0) ++ leBytes 8 (x.rcd.seq.getD (2 ^ 64 - 1))))) ∧
           (∀ q, ∀ r ∈ t.queueRecs w.core q, r.owner ≠ some wg) ∧
           ∀ q r, (q, r) ∈ (s.core w.core).queues.flatMap (fun e => e.2.map (fun r => (e.1, r))) → r.owner = some wg →
             ∃ x, t.wg? wg = some x ∧ (q, r) ∈ x.savedRecs)))) ∧
  (∀ (s : State) (wg : Nat) (w : Workgroup) (l : Launch),
     s.wg? wg = some w → w.num = wg → s.launchOf? wg = some l →
     let left (v : Workgroup) : Prop := v.place ≠ .resident ∧ v.leftAt = s.dcycle
     let turn : Prop := w.ousted = false ∧ ¬left w ∧ (w.called = true → ∀ v ∈ s.wgs, v.launch = w.launch →
       ¬left v ∧ ¬(v.called = true ∧ v.place ≠ .resident ∧ v.visit < w.visit))
     let full : Prop := l.maxres ≠ 0 ∧ (s.seatedOf l.num).length ≥ l.maxres
     ((¬turn ∨ l.status ≠ 0 ∨ s.mapped l.queue = false ∨ full ∨ s.restoreWg l w = none) → Stays s (.workgroupRestore wg)) ∧
     (∀ t a, turn → l.status = 0 → s.mapped l.queue = true → ¬full → w.place = .saved a → s.restoreWg l w = some t →
       exec (.workgroupRestore wg) s = .next t ∧
       (∃ w', t.wg? wg = some w' ∧ w'.place = .resident ∧ w'.leaving = false ∧ w'.savedRecs = [] ∧ w'.paused = none ∧
         w'.core ∈ l.returnOrder w ∧ (w.heldFirings = [] → w'.tags = BitVec.ofNat 64 (s.memNat (hbmBase + a + s.imageField (hbmBase + a) 0x30 8) 8))) ∧
       (s.forks = [] → (s.queue l.queue).trace = false →
         (∀ c ∈ s.threadsOf wg, s.ctx? c.id = some c →
           let thread := s.imageField (hbmBase + a) 0x20 8 + c.id.tix * threadBytes l.regs
           let word (off : Nat) : Word := BitVec.ofNat 64 (s.memNat (hbmBase + a + thread + off) 8)
           (t.ctx? c.id).map Ctx.pc = some (word 0) ∧ (t.ctx? c.id).map (fun x => x.regs.lr) = some (word 8) ∧
           (t.ctx? c.id).map (fun x => x.shadow.rpc) = some (word 0x50) ∧
           (∀ k < l.regs, k < 62 → (t.ctx? c.id).map (fun x => x.regs.getN k) = some (word (0x80 + 8 * k))) ∧
           (s.memNat (hbmBase + a + thread + 0x48) 1 = 0 →
             (t.ctx? c.id).map (fun x => (x.status, x.inflight)) = some (.running, []))) ∧
         ∀ i u, s.team? wg i = some u → (t.team? wg i).map Team.hodSeq =
           some (s.memNat (hbmBase + a + s.imageField (hbmBase + a) 0x28 8 + 512 * i) 8))))

/-- R256, R257, R198, R213, R272: a workgroup that may not migrate stays where it is (numbers of no core or setting do
nothing: log entry 78). One that may has its forks resolved: each leaves a pending-return frame; once it is quiet it
stands on its new core, where that admits it. A core's frequency changes only while all its workgroups stand at
boundaries. An upper core is gated only while it holds no workgroup; the entries of both FIFOs are spilled and return
in order, ahead of others. Capping sets the token pool and every core's read grants, and raises the alert where the
lowest settings are asked for again (log entry 67). -/
def Obligations.PowerAndMigration : Prop := ∀ (s : State) (wg core mhz pool grants : Nat),
  (∀ w, s.wg? wg = some w → (s.movable w = false ∨ w.bound = true ∨ core ≥ 192 ∨ core = w.core ∨
    s.oneBarrier wg = false ∨ s.hodOpen wg = true) → Stays s (.thermalMigration wg core)) ∧
  (∀ w, s.wg? wg = some w → w.num = wg → s.movable w = true → w.bound = false → core < 192 → core ≠ w.core →
    s.oneBarrier wg = true → s.hodOpen wg = false →
    let u := s.settleWg wg
    let calm : Prop := ∀ c ∈ s.threadsOf wg, c.trapNow = none
    (calm → (∀ f ∈ s.forks, f.wg ≠ wg) → u = s) ∧
    (∀ f c, calm → s.forks = [f] → f.wg = wg → f.depth ≠ 0 → c ∈ s.threadsOf wg → c.id.tix = f.tix → s.ctx? c.id = some c →
      u.forks = [] ∧ (u.ctx? c.id).map Ctx.frames =
        some ({ regs := f.checkpoint, ret := f.ret, callPc := f.callPc } :: c.frames)) ∧
    ((u.atBoundary wg = false ∨ u.enginesQuiet w = false) → exec (.thermalMigration wg core) s = .next u) ∧
    (∀ x l a r, u.atBoundary wg = true → u.enginesQuiet w = true → (u.save wg).wg? wg = some x →
      (u.save wg).launchOf? wg = some l → x.place = .saved a → (u.save wg).restoreOn l x (hbmBase + a) core = some r →
      exec (.thermalMigration wg core) s = .next r ∧
      (r.wg? wg).map (fun y => (y.core, y.place)) = some (core, .resident))) ∧
  (let allowed : Prop := core < 192 ∧ 800 ≤ mhz ∧ mhz ≤ 1700 ∧ mhz % 100 = 0 ∧
      ∀ w ∈ s.wgs, w.place = .resident → w.core = core → s.atBoundary w.num = true
   (allowed → Answers s (.frequencyChange core mhz) (fun t => t = { s with cores := t.cores } ∧
      t.core core = { s.core core with mhz := mhz } ∧ ∀ k, k ≠ core → t.core k = s.core k)) ∧
   (¬ allowed → Stays s (.frequencyChange core mhz))) ∧
  (let free : Prop := 96 ≤ core ∧ core < 192 ∧ (s.core core).gated = false ∧ s.roomOf core = []
   let out (k : Nat) : Core :=
     { s.core k with
       spill := (s.core k).spill ++ (s.core k).fifo
       fifo := [] }
   (free → Answers s (.powerGate core) (fun t => t = { s with cores := t.cores } ∧
      t.core core = { out core with gated := true } ∧ t.core (core - 96) = out (core - 96))) ∧
   (¬ free → Stays s (.powerGate core))) ∧
  (let back (k : Nat) : Core :=
     { s.core k with
       fifo := (s.core k).spill ++ (s.core k).fifo
       spill := [] }
   (96 ≤ core → (s.core core).gated = true → Answers s (.powerUp core) (fun t => t = { s with cores := t.cores } ∧
      t.core core = { back core with gated := false } ∧ t.core (core - 96) = back (core - 96))) ∧
   ((s.core core).gated = false → Stays s (.powerUp core))) ∧
  ((pool > 768 ∨ grants < 3 ∨ grants > 12) → Stays s (.powerCapping pool grants)) ∧
  (pool ≤ 768 → 3 ≤ grants → grants ≤ 12 → Answers s (.powerCapping pool grants) (fun t =>
    t = { s with
      cores := t.cores
      pool := pool
      alert := t.alert } ∧ (∀ k < 192, t.core k = { s.core k with grantsG := grants }) ∧
    (t.alert = true ↔ pool = 0 ∧ grants = 3 ∧ s.pool = 0 ∧
      ∀ k < 192, (s.core k).grantsG = 3 ∧ (s.core k).mhz = 800)))

/-- R158 to R163, R165, R192, R390: the head of a queue, while nothing of the queue runs, waits while what it was
released is outstanding, its wait counter is not 0 or a write to that which the foreman sees is pending, or its
owner's guard slot is not resolved or what its resolution released is outstanding (the counter comes before the guard:
log entry 44); a guard that failed discards it, and its successor counter is updated. A record without owner that used
its owner's scratch is refused. A Loom task needs its tokens, and is refused where the latched tile does not suit it.
A QGEMV reads its vector as it starts (log entry 82), unless that is another device's. A TEAM record needs a team that
serves its queue: the team goes on at the record's entry with its arguments. -/
def Obligations.ForemanStarts : Prop := ∀ (s : State) (core q : Nat) (r : QRec),
  (q ≠ 5 → s.headOf core q = none → Stays s (.foremanStart core q)) ∧
  ((q = 5 → ∀ w ∈ s.wgs, w.copies = []) → s.headOf core q = some r →
    let rest := (s.queueRecs core q).drop 1
    let gone (t : State) : Prop := t.queueRecs core q = rest ∧ Table.find (t.core core).running q = none ∧
      t.completed = s.completed + 1 ∧ t.mem = s.mem ∧ SameThreads s t ∧
      ∀ k, taskSucc r.rcd ≠ 0 → s.localSlab (taskSucc r.rcd) = some k → ∃ p ∈ t.stores, p.key = k ∧
        p.op = .add 4 (if fieldAt r.rcd 0x2B 1 = 1 then 1 else 2 ^ 32 - 1)
    let runs (x : Running) (t : State) : Prop := t.queueRecs core q = rest ∧ Table.find (t.core core).running q = some x ∧
      t.completed = s.completed ∧ t.mem = s.mem
    let lost : Prop := r.owner = none ∧ r.lostScratch = true
    let waits : Prop := (∃ n ∈ r.after, s.outstanding n = true) ∨
      ∃ k, taskWait r.rcd ≠ 0 ∧ s.localSlab (taskWait r.rcd) = some k ∧
        (s.memNat k 4 ≠ 0 ∨ ∃ p ∈ s.stores, engineSees core r.owner p = true ∧ overlaps p.key p.op.size k 4 = true)
    let guard : Option Bool := match r.owner.bind s.wg? with
      | none => some true
      | some w => if taskGuard r.rcd = 0xFF then some true
        else if (w.guardWrites (taskGuard r.rcd)).any s.outstanding then none
        else Table.find w.guards (taskGuard r.rcd)
    ((waits ∨ guard = none) → s.mayStart core r = .wait) ∧
    (¬waits → guard = some false → s.mayStart core r = .drop) ∧
    (¬waits → guard = some true → s.mayStart core r = .go) ∧
    (lost → Answers s (.foremanStart core q) gone) ∧
    (¬ lost → s.mayStart core r = .wait → Stays s (.foremanStart core q)) ∧
    (¬ lost → s.mayStart core r = .drop → Answers s (.foremanStart core q) gone) ∧
    (¬ lost → s.mayStart core r = .go →
      (taskKind r.rcd = 0 → s.serverOf core q = none → Stays s (.foremanStart core q)) ∧
      (∀ u v, taskKind r.rcd = 0 → s.serverOf core q = some u → u.serve = some v → Answers s (.foremanStart core q) (fun t =>
        runs { startOf r 0 with
          team := u.idx
          teamWg := u.wg } t ∧
        (∀ u', t.team? u.wg u.idx = some u' → u'.get 1 = BitVec.ofNat 64 (fieldAt r.rcd 8 8) ∧
          u'.get 2 = BitVec.ofNat 64 (fieldAt r.rcd 0x10 8)) ∧
        ∀ c ∈ t.ctxs, c.id.lvl = 0 → c.id.wg = u.wg → c.team = u.idx → c.status ≠ .exited →
          c.status = .running ∧ c.pc = BitVec.ofNat 64 (taskEntry r.rcd) ∧ c.regs.lr = v.pc)) ∧
      (taskKind r.rcd = 1 →
        let n := loomTokens (s.core core).tile r.desc
        (loomHeadBad (s.core core).tile r = true → Answers s (.foremanStart core q) gone) ∧
        (loomHeadBad (s.core core).tile r = false → n ≠ 0 → s.tokensUsed + n > s.pool → Stays s (.foremanStart core q)) ∧
        (loomHeadBad (s.core core).tile r = false → (n = 0 ∨ s.tokensUsed + n ≤ s.pool) →
          Answers s (.foremanStart core q) (runs (startOf r n)))) ∧
      (taskKind r.rcd = 2 → Answers s (.foremanStart core q) (runs (startOf r 0))) ∧
      (∀ v, taskKind r.rcd = 3 → s.slabDecode (fieldAt r.desc 8 8) = some v →
        let held := s.engineBars core r.owner [(v, quarryVec r.desc)]
        (held = true → Stays s (.foremanStart core q)) ∧
        (held = false → isRemoteKey v = true → Answers s (.foremanStart core q) (runs (startOf r 0))) ∧
        (held = false → isRemoteKey v = false → Answers s (.foremanStart core q) (runs { startOf r 0 with
          vector := cellsRead s.mem v (quarryVec r.desc)
          vecPoison := (firstPoison s.poison v (quarryVec r.desc)).map (fun u => mod64 ((fieldAt r.desc 8 8 : Int) + u - v)) })))))

/-- R162, R164 to R167: a team task ends once every live thread of its team stands at TASK.serve again; its successor
counter is updated, and a QFENCE that waits for it waits for its team's pending writes too. A QFENCE leaves its queue
once every record that it waits for has completed, whichever core or save area it is on. An EOS record of an engine
queue leaves its queue and has 1 written to its word, after the pending writes to it that the foreman sees; what it
reads waits for such writes too; one of a team-task queue needs a serving team, whose TASK.serve then ends with 1. Two
samples of an idle tree, at least 1024 dispatcher cycles apart and with nothing enqueued in between, end the idle-mode
servers, which go on with 2 from the next edge of their core's clock (R24). -/
def Obligations.ForemanEnds : Prop := ∀ (s : State) (core q : Nat),
  (Table.find (s.core core).running q = none → Stays s (.teamTaskComplete core q)) ∧
  (∀ x, Table.find (s.core core).running q = some x → taskKind x.rcd.rcd = 0 →
    ((∃ c ∈ s.liveOfTeam x.teamWg x.team, c.status ≠ .serving) → Stays s (.teamTaskComplete core q)) ∧
    ((∀ c ∈ s.liveOfTeam x.teamWg x.team, c.status = .serving) → Answers s (.teamTaskComplete core q) (fun t =>
      Table.find (t.core core).running q = none ∧ t.completed = s.completed + 1 ∧ t.mem = s.mem ∧ SameThreads s t ∧
      (∀ k, taskSucc x.rcd.rcd ≠ 0 → s.localSlab (taskSucc x.rcd.rcd) = some k → ∃ p ∈ t.stores, p.key = k ∧
        p.op = .add 4 (if fieldAt x.rcd.rcd 0x2B 1 = 1 then 1 else 2 ^ 32 - 1) ∧
        p.after = s.teamPending x.teamWg x.team ++ s.engineAfter core x.rcd.owner k 4) ∧
      (∀ c j, ∀ f ∈ s.queueRecs c j, x.rcd.num ∈ f.fence → ∀ n ∈ s.teamPending x.teamWg x.team,
        ∃ g ∈ t.queueRecs c j, g.num = f.num ∧ n ∈ g.after) ∧
      ∀ w ∈ s.wgs, ∀ e ∈ w.savedRecs, x.rcd.num ∈ e.2.fence → ∀ n ∈ s.teamPending x.teamWg x.team,
        ∃ v ∈ t.wgs, v.num = w.num ∧ ∃ g ∈ v.savedRecs, g.2.num = e.2.num ∧ n ∈ g.2.after))) ∧
  (s.headOf core q = none → Stays s (.qfenceComplete core q) ∧ Stays s (.eosComplete core q)) ∧
  (∀ r, s.headOf core q = some r →
    let rest := (s.queueRecs core q).drop 1
    (taskKind r.rcd = 5 → s.mayStart core r = .go →
      ((∃ n ∈ r.fence, s.recOpen n = true) → Stays s (.qfenceComplete core q)) ∧
      ((∀ n ∈ r.fence, s.recOpen n = false) → Answers s (.qfenceComplete core q) (fun t =>
        t.queueRecs core q = rest ∧ t.completed = s.completed + 1 ∧ t.mem = s.mem ∧ SameThreads s t))) ∧
    (taskKind r.rcd = 4 → s.mayStart core r = .go → ¬ (r.owner = none ∧ r.lostScratch = true) →
      ((s.eosCheck core r = .full ∨ s.eosCheck core r = .waits) → Stays s (.eosComplete core q)) ∧
      (s.eosCheck core r ≠ .full → s.eosCheck core r ≠ .waits → q < 4 → s.serverOf core q = none → Stays s (.eosComplete core q)) ∧
      (∀ k, s.eosCheck core r = .nothing → q ≥ 4 → eosWord r.rcd ≠ 0 → s.localSlab (eosWord r.rcd) = some k →
        Answers s (.eosComplete core q) (fun t => t.queueRecs core q = rest ∧ t.completed = s.completed + 1 ∧
          SameThreads s t ∧ ∃ p ∈ t.stores, p.key = k ∧ p.op = .put (leBytes 4 1) false ∧
            p.after = s.engineAfter core r.owner k 4 ∧
            ∀ c j, ∀ f ∈ t.queueRecs c j, r.num ∈ f.fence → p.num ∈ f.after)) ∧
      (∀ u v, s.eosCheck core r = .nothing → q < 4 → s.serverOf core q = some u → u.serve = some v →
        Answers s (.eosComplete core q) (fun t => t.queueRecs core q = rest ∧ t.completed = s.completed + 1 ∧
          t.team? u.wg u.idx = (s.team? u.wg u.idx).map (fun x => { x.put v.d 1 with serve := none }) ∧
          ∀ c ∈ t.ctxs, c.id.lvl = 0 → c.id.wg = u.wg → c.team = u.idx → c.status ≠ .serving)))) ∧
  ((s.allIdle = false ∨ s.enqueued ≠ s.completed) →
    exec .idleTreeSample s = .next { s with idleSample := none }) ∧
  (s.allIdle = true → s.enqueued = s.completed →
    (s.idleSample = none → exec .idleTreeSample s = .next { s with idleSample := some (s.dcycle, s.enqueued) }) ∧
    (∀ c n, s.idleSample = some (c, n) → s.dcycle < c + 1024 → Stays s .idleTreeSample) ∧
    (∀ c n, s.idleSample = some (c, n) → s.dcycle ≥ c + 1024 → n ≠ s.enqueued →
      exec .idleTreeSample s = .next { s with idleSample := some (s.dcycle, s.enqueued) }) ∧
    (∀ c n u v, s.idleSample = some (c, n) → s.dcycle ≥ c + 1024 → n = s.enqueued → s.idleServers = [u] →
      u.serve = some v → Answers s .idleTreeSample (fun t => t = { s with idleSample := none, teams := t.teams } ∧
        t.team? u.wg u.idx = (s.team? u.wg u.idx).map (fun x => { x with serve := some { v with ending := true } })))) ∧
  (∀ u v, (s.core core).gated = false → s.teams.filter (fun t => t.serve.any Serve.ending && s.resident t.wg &&
      (s.wg? t.wg).any (fun w => w.core == core)) = [u] → u.serve = some v →
    let t := s.coreCycle core
    t.team? u.wg u.idx = (s.team? u.wg u.idx).map (fun x => { x.put v.d 2 with serve := none }) ∧
    ∀ c ∈ t.ctxs, c.id.lvl = 0 → c.id.wg = u.wg → c.team = u.idx → c.status ≠ .serving)

/-- R119, R178 to R182: a WLOAD latches its record and the bytes of its columns. A row of an MMUL adds to each of the
128 accumulators of its row the exact sum of the products of the row and a column, rounded once to FP32. A row of a
DRAIN scales and rounds the accumulators of its row and writes them, or gives them to the streaming port, and zeroes
them where bit 0 of MODE asks it. A ZERO row takes +0. Each row raises the progress by 1, and the last one ends the
task. A row waits for the pending writes to its bytes that its engine sees. A poisoned input or accumulator gives the
task status 2 with its address, and poisons what comes of it, of an MMUL all 128 accumulators of the row (log entry
38); a row that would touch a held object writes nothing, and its task is refused with that address (log entry 89).
The sign of a zero product is log entry 88's, that a row stands at once log entry 41's choice. What a row reads of
another device is asked for on its route first, and what it writes there goes out as stores (R268); that the task
waits while no route leads there is log entry 116's. -/
def Obligations.LoomRows : Prop := ∀ (s : State) (core : Nat) (x : Running),
  let r := x.rcd.desc
  let row := loomAccRow r + x.progress
  let acc (t : State) (n : Nat) : Nat := t.memNat (accKey core (512 * row) + 4 * n) 4
  let goesOn (t : State) : Prop := ∃ y, Table.find (t.core core).running 4 = some y ∧ y.progress = x.progress + 1 ∧
    y.done = decide (x.progress + 1 ≥ loomRows r) ∧ y.rcd = x.rcd
  let bars (keys : List (Nat × Nat)) : Bool := s.engineBars core x.rcd.owner keys
  let far (keys : List (Nat × Nat)) : List (Nat × Nat) := keys.filter (fun p => isRemoteKey p.1)
  let near (keys : List (Nat × Nat)) : Prop := far keys = [] ∨ x.asked ≠ []
  let asks (i : Instr) (keys : List (Nat × Nat)) : Prop := bars keys = false → ¬near keys →
    ((∃ p ∈ far keys, s.reaches (remoteDev p.1) = false) → Stays s i) ∧
    ∀ p link comm, far keys = [p] → s.devnum.isSome = true → Table.find s.routes (remoteDev p.1) = some (link, comm) →
      Answers s i (fun t => SameThreads s t ∧ t.mem = s.mem ∧
        t.linkOut = s.linkOut ++ [packetTo s p.1 s.nextNum (.load p.2) link comm] ∧
        Table.find (t.core core).running 4 = some { x with asked := [(s.nextNum, remoteAddr p.1)] })
  let ends (t : State) (status faddr : Nat) : Prop :=
    ∃ y, Table.find (t.core core).running 4 = some y ∧ y.status = status ∧ y.faddr = faddr
  let firstBad (i n : Nat) : Prop := i < n ∧ s.accPoison core row i = true ∧ ∀ j < i, s.accPoison core row j = false
  (∀ op i, (op, i) ∈ [(0, Instr.loomWload core), (1, .loomMmul core), (2, .loomDrain core), (3, .loomZero core)] →
    s.loomTask core op = none → Stays s i) ∧
  (s.loomTask core 0 = some x → bars (s.tileKeys r) = true → Stays s (.loomWload core)) ∧
  (s.loomTask core 0 = some x → asks (.loomWload core) (s.tileKeys r)) ∧
  (s.loomTask core 0 = some x → bars (s.tileKeys r) = false → near (s.tileKeys r) → Answers s (.loomWload core) (fun t => SameThreads s t ∧ t.mem = s.mem ∧
    (∃ y, Table.find (t.core core).running 4 = some y ∧ y.done = true) ∧
    ∃ tile, (t.core core).tile = some tile ∧ tile.rcd = r ∧ tile.cols.length = loomNvalid r ∧
      ∀ n k, n < loomNvalid r → s.slabDecode ((fieldAt r 8 8 + n * fieldAt r 0x10 4) % 2 ^ 64) = some k →
        tile.cols[n]? = some (cellsRead s.mem k (elemsRange (loomFmt r) 0 (loomKvalid r)).2))) ∧
  (∀ tile k, s.loomTask core 1 = some x → (s.core core).tile = some tile → s.slabDecode (mmulRow r x.progress) = some k →
    let keys := [(k, (elemsRange (loomFmt r) 0 (loomKvalid tile.rcd)).2)]
    (bars keys = true → Stays s (.loomMmul core)) ∧
    asks (.loomMmul core) keys ∧
    (bars keys = false → near keys → s.memOk = true → Answers s (.loomMmul core) (fun t => SameThreads s t ∧ goesOn t ∧
      (∀ a, x.status = 0 → ((s.loomRow (mmulRow r x.progress) (loomFmt r) (loomKvalid tile.rcd) (loomBands tile.rcd)).2.or
          tile.poisoned) = some a → ends t 2 a ∧
        ∀ n < 128, t.accPoison core row n = true) ∧
      let bytes := cellsRead s.mem k (elemsRange (loomFmt r) 0 (loomKvalid tile.rcd)).2
      let a := rowVals (loomFmt r) (loomKvalid tile.rcd) (loomBands tile.rcd) bytes
      ∀ n < 128,
        let old := if fieldAt r 0x1A 1 = 1 then 0 else acc s n
        acc t n = (fp32.finish FEnv.plain
          (.sum false (fp32.decode old :: List.zipWith FVal.mul a (tileCol tile n)))).bits % 2 ^ 32))) ∧
  (∀ tile k, s.loomTask core 2 = some x → (s.core core).tile = some tile → fieldAt r 0x20 8 ≠ 0 →
    s.slabDecode (drainRow r x.progress) = some k → s.memOk = true → isSlabKey k = true →
    let size := drainSize r * loomNvalid tile.rcd
    let held := ((List.range (loomNvalid tile.rcd)).map (fun n => k + drainSize r * n)).find? (fun a =>
      s.touchesHeld a (drainSize r))
    (bars [(k, size)] = true → Stays s (.loomDrain core)) ∧
    (bars [(k, size)] = false → Answers s (.loomDrain core) (fun t => SameThreads s t ∧ goesOn t ∧
      (∀ i, x.status = 0 → firstBad i (loomNvalid tile.rcd) → ends t 2 (512 * row + i / 8 * 32)) ∧
      (∀ a, x.status = 0 → (∀ i < loomNvalid tile.rcd, s.accPoison core row i = false) → held = some a →
        ends t 5 (chunkAddr (drainRow r x.progress) a)) ∧
      (held = none → ∀ n < loomNvalid tile.rcd, s.accPoison core row n = true → ∀ o < drainSize r,
        t.poison.contains (poisonUnit (k + drainSize r * n + o)) = true) ∧
      (∀ n < loomNvalid tile.rcd, n < 128 → t.memNat (k + drainSize r * n) (drainSize r) =
        if held.isSome = true then s.memNat (k + drainSize r * n) (drainSize r)
        else ((drainFmt r).finish (engineEnv (fieldAt r 3 1))
          ((fp32.decode (acc s n)).mul (fp32.decode (fieldAt r 0x1C 4)))).bits % 2 ^ (8 * drainSize r)) ∧
      ∀ n < 128, acc t n = if fieldAt r 0x1A 1 % 2 = 1 then 0 else acc s n))) ∧
  (∀ tile k link comm, s.loomTask core 2 = some x → (s.core core).tile = some tile → fieldAt r 0x20 8 ≠ 0 →
    s.slabDecode (drainRow r x.progress) = some k → s.devnum.isSome = true →
    Table.find s.routes (remoteDev k) = some (link, comm) →
    let place (n : Nat) : Nat := k + drainSize r * n
    (∀ n < loomNvalid tile.rcd, isRemoteKey (place n) = true ∧ remoteDev (place n) = remoteDev k ∧
      s.touchesHeld (place n) (drainSize r) = false) → bars [(k, drainSize r * loomNvalid tile.rcd)] = false →
    Answers s (.loomDrain core) (fun t => SameThreads s t ∧ goesOn t ∧
      (∀ a, isRemoteKey a = true → cellRead t.mem a = cellRead s.mem a) ∧
      t.linkOut = s.linkOut ++ (List.range (loomNvalid tile.rcd)).map (fun n => packetTo s (place n) (s.nextNum + n)
        (.store (leBytes (drainSize r) (drainElem r ((s.accCodes core row).getD n 0))) (s.accPoison core row n)) link comm) ∧
      ∀ n < loomNvalid tile.rcd, ∃ e ∈ t.hodSent, e.num = s.nextNum + n ∧ e.core = core ∧ e.engine = 4 ∧
        e.key = place n ∧ e.lost = false)) ∧
  (∀ tile g w, s.loomTask core 2 = some x → (s.core core).tile = some tile → fieldAt r 0x20 8 = 0 →
    x.rcd.owner = some g → s.wg? g = some w → Answers s (.loomDrain core) (fun t => SameThreads s t ∧ goesOn t ∧
      (t.wg? g).map Workgroup.stream = some (w.stream ++ (List.range (loomNvalid tile.rcd)).flatMap (fun n =>
        leBytes (drainSize r) (drainElem r ((s.accCodes core row).getD n 0)))) ∧
      (∀ i, x.status = 0 → firstBad i (loomNvalid tile.rcd) → ends t 2 (512 * row + i / 8 * 32)) ∧
      ∃ w', t.wg? g = some w' ∧ ∀ n < loomNvalid tile.rcd, s.accPoison core row n = true → ∀ o < drainSize r,
        w.stream.length + drainSize r * n + o ∈ w'.streamBad)) ∧
  (s.loomTask core 3 = some x → s.memOk = true →
    Answers s (.loomZero core) (fun t => SameThreads s t ∧ goesOn t ∧ ∀ n < 128, acc t n = 0))

/-- R172 to R177, R182, R185, R192: a Loom task that has done its rows, a copy that has written everything, and a
QGEMV, with no chunk on its way and no write to another device unacknowledged, end (lost ones of a Loom task are sent
again: log entry 116): the record leaves its engine and counts as completed. A QGEMV's results are the exact sums of
R185, the sign of a zero product log entry 88's. A chunk of a copy carries the bytes read for its first destination to
every one (R174). It waits for pending writes to its ranges that the Hod sees; a translation fault parks the copy with
a waiting fault, a poisoned source byte ends it with status 2, one that would touch a held object writes nothing and
refuses the copy (status 5, log entry 89), and a chunk's writes otherwise reach their places at once (log entry 41),
those to another device once they are acknowledged (log entry 83). -/
def Obligations.EngineTasks : Prop := ∀ (s : State) (core : Nat) (x : Running),
  let ended (q : Nat) (t : State) : Prop := Table.find (t.core core).running q = none ∧ t.completed = s.completed + 1 ∧
    SameThreads s t
  (Table.find (s.core core).running 4 = none → Stays s (.loomTaskComplete core)) ∧
  (Table.find (s.core core).running 4 = some x → x.done = false → Stays s (.loomTaskComplete core)) ∧
  let settled (q : Nat) : Prop := (∀ h ∈ s.chunks, ¬(h.core = core ∧ h.engine = q)) ∧
    ∀ e ∈ s.hodSent, ¬(e.core = core ∧ e.engine = q)
  (Table.find (s.core core).running 4 = some x → ¬settled 4 → s.lostSent core 4 = [] → Stays s (.loomTaskComplete core)) ∧
  (∀ e link comm, Table.find (s.core core).running 4 = some x → x.done = true → s.lostSent core 4 = [e] →
    s.devnum.isSome = true → Table.find s.routes (remoteDev e.key) = some (link, comm) →
    Answers s (.loomTaskComplete core) (fun t => t = { s with linkOut := t.linkOut, hodSent := t.hodSent } ∧
      t.linkOut = s.linkOut ++ (if isRemoteKey e.key then [packetTo s e.key e.num (e.op.span s.mem e.key) link comm] else []) ∧
      { e with lost := false } ∈ t.hodSent)) ∧
  (Table.find (s.core core).running 4 = some x → x.done = true → settled 4 →
    Answers s (.loomTaskComplete core) (fun t => ended 4 t ∧ t.mem = s.mem ∧
      ∀ g w, x.rcd.owner = some g → s.wg? g = some w → loomTag x.rcd.desc < 64 → taskKind x.rcd.rcd = 1 →
        ∃ w', t.wg? g = some w' ∧ w'.tags.getLsbD (loomTag x.rcd.desc) = true)) ∧
  (Table.find (s.core core).running 5 = some x → taskKind x.rcd.rcd = 2 →
    let d := x.rcd.desc
    let total := hodCount d x.rcd.slices
    let scr := s.ownerScr x.rcd
    (x.done = false → x.progress < total → Stays s (.hodCopyComplete core)) ∧
    ((x.parked = true ∨ ¬ settled 5) → Stays s (.hodCopyComplete core)) ∧
    ((x.done = true ∨ x.progress ≥ total) → x.parked = false → settled 5 →
      Answers s (.hodCopyComplete core) (fun t => ended 5 t ∧ t.mem = s.mem)) ∧
    (x.parked = true → Stays s (.hodChunk core)) ∧
    ((x.done = true ∨ x.progress ≥ total) → s.lostSent core 5 = [] → Stays s (.hodChunk core)) ∧
    (∀ first, x.done = false → x.parked = false → x.progress < total → (s.core core).faultsOut = [] →
      x.status = 0 → s.lostSent core 5 = [] → destAt d scr x.rcd.slices x.dest x.progress = some first →
      ∀ block, (destAt d scr x.rcd.slices 0 x.progress).map HodDest.block = some block →
      let m := chunkElems d scr x.rcd.slices total (some block) total x.progress
      s.farReads x m = [] →
      let data : HodGot := if x.dest = 0 then s.hodValues (s.recRoot x.rcd) d x.rcd.slices m x.progress [] else .bytes x.vector
      let places (bytes : List Byte) := s.hodChunkOf (s.recRoot x.rcd) d scr x.rcd.slices x.dest m x.progress bytes []
      let clear (keys : List (Nat × Nat)) : Bool := !s.engineBars core x.rcd.owner keys
      let after (y : Running) (bytes : List Byte) : Prop :=
        if x.dest + 1 < (hodDests d scr (copyOffsets d x.rcd.slices x.progress).1).length
        then y.dest = x.dest + 1 ∧ y.progress = x.progress ∧ y.vector = bytes
        else y.dest = 0 ∧ y.progress = x.progress + m ∧ y.asked = []
      (clear (s.chunkReads x m) = false → Stays s (.hodChunk core)) ∧
      (∀ addr acc reason level, clear (s.chunkReads x m) = true →
        (data = .fault addr acc reason level ∨ ∃ b, data = .bytes b ∧ places b = .fault addr acc reason level) →
        Answers s (.hodChunk core) (fun t =>
        SameThreads s t ∧ t.mem = s.mem ∧ (∃ y, Table.find (t.core core).running 5 = some y ∧ y.parked = true) ∧
        ∃ r, (t.core core).faultsWaiting = (s.core core).faultsWaiting ++ [r] ∧ r.addr = BitVec.ofNat 64 addr ∧
          r.reason = reason ∧ r.agent = 2 ∧ r.access = acc ∧ r.level = level ∧ r.mask = 0)) ∧
      (∀ addr, clear (s.chunkReads x m) = true → data = .poison addr → Answers s (.hodChunk core) (fun t => SameThreads s t ∧ t.mem = s.mem ∧
        ∃ y, Table.find (t.core core).running 5 = some y ∧ y.done = true ∧ y.status = 2 ∧ y.fcode = 2 ∧ y.faddr = addr)) ∧
      (∀ b l, clear (s.chunkReads x m) = true → data = .bytes b → places b = .writes l →
        (clear (chunkRuns l) = false → Stays s (.hodChunk core)) ∧
        (∀ k, clear (chunkRuns l) = true → s.chunkHeld l = some k → Answers s (.hodChunk core) (fun t =>
          SameThreads s t ∧ t.mem = s.mem ∧ t.stores = s.stores ∧
          ∃ y, Table.find (t.core core).running 5 = some y ∧ y.done = true ∧ y.status = 5 ∧
            y.faddr = chunkAddr (first.block * 256) k ∧ after y b)) ∧
        (∀ key op link comm, l = [(key, op)] → clear (chunkRuns l) = true → s.chunkHeld l = none → isRemoteKey key = true →
          homeRest s.mem key op = none → s.devnum.isSome → Table.find s.routes (remoteDev key) = some (link, comm) →
          Answers s (.hodChunk core) (fun t => SameThreads s t ∧ t.mem = s.mem ∧
            t.linkOut = s.linkOut ++ [packetTo s key s.nextNum (op.span s.mem key) link comm] ∧
            (∃ e ∈ t.hodSent, e.num = s.nextNum ∧ e.core = core ∧ e.engine = 5 ∧ e.key = key ∧ e.lost = false) ∧
            ∃ y, Table.find (t.core core).running 5 = some y ∧ y.bytes = x.bytes + m * hodDSize d ∧ after y b)) ∧
        (∀ key op, l = [(key, op)] → clear (chunkRuns l) = true → s.chunkHeld l = none → isRemoteKey key = false →
          homeRest s.mem key op = none →
          Answers s (.hodChunk core) (fun t => SameThreads s t ∧ Stored s t key (homeBytes s.mem key op) ∧
            ∃ y, Table.find (t.core core).running 5 = some y ∧ y.bytes = x.bytes + m * hodDSize d ∧ after y b))))) ∧
  (∀ k, Table.find (s.core core).running 6 = some x → taskKind x.rcd.rcd = 3 → x.vector = [] →
    s.slabDecode (fieldAt x.rcd.desc 8 8) = some k → isRemoteKey k = true →
    let n := quarryVec x.rcd.desc
    let barred := s.engineBars core x.rcd.owner [(k, n)]
    (barred = true → Stays s (.quarryTaskComplete core)) ∧
    (barred = false → x.asked = [] →
      (s.reaches (remoteDev k) = false → Stays s (.quarryTaskComplete core)) ∧
      ∀ link comm, s.devnum.isSome = true → Table.find s.routes (remoteDev k) = some (link, comm) →
        Answers s (.quarryTaskComplete core) (fun t => SameThreads s t ∧ t.mem = s.mem ∧
          t.linkOut = s.linkOut ++ [packetTo s k s.nextNum (.load n) link comm] ∧
          Table.find (t.core core).running 6 = some { x with asked := [(s.nextNum, remoteAddr k)] })) ∧
    (barred = false → x.asked ≠ [] → Answers s (.quarryTaskComplete core) (fun t => t = { s with cores := t.cores } ∧
      ∃ y, Table.find (t.core core).running 6 = some y ∧ y.vector = cellsRead s.mem k n ∧ y.asked = [] ∧
        y.vecPoison = (firstPoison s.poison k n).map (fun u => mod64 ((fieldAt x.rcd.desc 8 8 : Int) + u - k))))) ∧
  (∀ k, Table.find (s.core core).running 6 = some x → taskKind x.rcd.rcd = 3 → x.progress = 0 → x.vector ≠ [] →
    settled 6 → isRemoteKey k = false →
    let r := x.rcd.desc
    let q := x.rcd
    let vec := ((List.range (quarryK r)).map (rowElem (if fieldAt r 0x21 1 = 0 then 0 else if fieldAt r 0x21 1 = 1 then 129
      else 130) x.vector))
    s.slabDecode (fieldAt r 0x10 8) = some k → s.memOk = true →
    (∀ p ∈ q.slices, overlaps p.1 p.2 k (4 * quarryM r) = false) →
    (∀ p ∈ s.stores, engineSees core q.owner p = false) → s.touchesHeld k (4 * quarryM r) = false →
    Answers s (.quarryTaskComplete core) (fun t => ended 6 t ∧
      ∀ m < quarryM r, t.memNat (k + 4 * m) 4 =
        (fp32.finish FEnv.plain (.sum false (List.zipWith FVal.mul
          ((List.range (quarryK r)).map (rowElem (128 + fieldAt r 0x20 1) (s.matrixBytes q.slices (m * quarryRow r) (quarryRow r))))
          vec))).bits % 2 ^ 32))

/-- R23, R193, R194: a tier's collective engine takes the next ready chunk, fills in this device's rank and the
chunk's bytes, sends it to every other member whose route has one of its own links, passes it to the other tier's
engine where the route has one of that engine's (links 0 to 11 are the lower tier's, 12 to 23 the upper one's), and
treats it as arrived; a chunk passed on so goes out on its link. R195, R269: a device without a number discards what
arrives; a chunk that does not suit its communicator is discarded and counted; GATHER and BROADCAST write it at its
place in RESULT, and of a reduction the first of each rank wait until every rank's has come (early chunks are kept,
and of several of one rank the first counts: log entry 61), and their combination in ascending rank is written; a
block that slab has below no system area, an owned buffer or a held object is not in question here (log entry 89). -/
def Obligations.Collectives : Prop := ∀ (s : State) (tier : Nat) (m : CollMsg),
  (s.nextChunk tier = none → Stays s (.collectiveChunkSend tier)) ∧
  (∀ c link dev, s.nextChunk tier = some c → c.hop = some (link, dev) → exec (.collectiveChunkSend tier) s = .next { s with
    collOut := s.collOut.erase c
    collLast := Table.set s.collLast tier c.msg.comm
    linkOut := s.linkOut ++ [.chunk link c.msg.comm dev s.ownDev c.msg] }) ∧
  (∀ c k rank, s.nextChunk tier = some c → c.hop = none → s.comm? c.msg.comm = some k → s.rankIn k = some rank →
    let msg : CollMsg :=
      { c.msg with
        rank := rank
        bytes := s.chunkBytesOf c
        bad := s.chunkBad c }
    ∃ u passed, exec (.collectiveChunkSend tier) s = .next (u.chunkArrive msg) ∧
      u.collOut = s.collOut.erase c ++ passed ∧ SameThreads s u ∧ u.mem = s.mem ∧
      (∀ x ∈ passed, x.msg = msg ∧ ∃ e, x.hop = some e ∧ x.tier = e.1 / 12 ∧ e.1 / 12 ≠ tier) ∧
      (∀ d e, d ∈ k.members → some d ≠ s.devnum → Table.find s.routes d = some e →
        (e.1 / 12 = tier → LinkOut.chunk e.1 c.msg.comm d s.ownDev msg ∈ u.linkOut) ∧
        (e.1 / 12 ≠ tier → ∃ x ∈ passed, x.hop = some (e.1, d))) ∧
      ∀ l, s.launch? c.launch = some l → (u.launch? c.launch).map Launch.chunks = some (l.chunks - 1)) ∧
  (s.devnum = none → Stays s (.collectiveChunkArrival m)) ∧
  (s.devnum ≠ none → s.chunkRefused m = true → Answers s (.collectiveChunkArrival m) (fun t =>
    t = { s with clerk := t.clerk } ∧ Table.get t.clerk 0 2 = Table.get s.clerk 0 2 + 1)) ∧
  (∀ c, s.devnum ≠ none → s.chunkRefused m = false → s.comm? m.comm = some c →
    let n := c.members.length
    let into (at_ : Nat) (bytes : List Byte) (t : State) : Prop :=
      (∀ b < m.size / 256, isSlabKey (at_ + 256 * b) = true ∧ slabRangeFree (at_ + 256 * b) 256 = true ∧
        s.touchesHeld (at_ + 256 * b) 256 = false ∧ s.handleBars none (at_ + 256 * b) 256 = false) →
        Holds s t at_ bytes ∧ SameThreads s t
    (m.op = 3 → Answers s (.collectiveChunkArrival m) (into (c.result + (m.num * n + m.rank) * m.size) m.bytes)) ∧
    (m.op = 4 → m.rank = c.root → Answers s (.collectiveChunkArrival m) (into (c.result + m.num * m.size) m.bytes)) ∧
    (m.op = 4 → m.rank ≠ c.root → Stays s (.collectiveChunkArrival m)) ∧
    (m.op < 3 →
      let u : State := { s with collIn := s.collIn ++ [m] }
      let l := u.gathered c m
      (l.length < n → exec (.collectiveChunkArrival m) s = .next u) ∧
      (l.length ≥ n → (∀ x ∈ l, x.bytes.length = m.size) → Answers s (.collectiveChunkArrival m) (fun t =>
        into (c.result + m.num * m.size) (collFold m.op m.size l) t ∧ ∀ x ∈ t.collIn, x ∈ s.collIn ++ [m]))))

/-- R23, R134, R155, R235, R238, R268, R269: a one-sided packet for this device is served at the home of its bytes,
and answered: a store's bytes stand in memory; a load is answered with its bytes; an atomic replaces its word by its
function of it and is answered with the old one, unless the word is poisoned. An owned buffer is refused with HANDLE,
a system area and, for a write, a held object with SLAB, and where nothing lies the answer is zeros (log entry 62).
Traffic for another device goes on over this device's route; where that is invalid it returns to its origin. A
returned store or load becomes a parked access with a fault of reason UNREACH (log entry 63), at every live thread of
its team where it is a team's; of a write that its home has performed only the record is written; a continuation's
access is sent again, a copy's write parks its copy, and a Loom's or Quarry's is to be sent again (log entry 116). An
acknowledgement ends the wait for its write, and an engine's write then stands (log entry 83).

R266: the host reads and writes HBM through its window of eight stacks of 2^36 bytes each; a byte of no stack reads as
zero, a write to one is discarded, and the clerk counts such an access; a poisoned write poisons every unit that it
touches (R155). An access beyond the window does nothing; that the clerk counts one for each such access is log entry
73's. -/
def Obligations.LinksAndHost : Prop :=
  (∀ (s : State) (p : SpanPkt) (num : Nat),
     let i : Instr := .spanOneSidedArrival p
     let link (out : Nat × Nat → LinkOut) (t : State) : Prop :=
       t.linkOut = s.linkOut ++ ((Table.find s.routes p.src).map out).toList
     let back (bytes : List Byte) (bad : Bool) : State → Prop := link (fun e => .answer e.1 e.2 p.src s.ownDev p.tag bytes bad)
     let zeros : Prop := Answers s i (fun t => t = { s with linkOut := t.linkOut } ∧ back (List.replicate (match p.op with
         | .load n => n
         | .atomic _ n _ _ => n
         | _ => 0) 0) false t)
     let refused (cause : Nat) : Prop := Answers s i (fun t => t = { s with linkOut := t.linkOut } ∧
       link (fun e => .refusal e.1 e.2 p.src s.ownDev p.tag cause) t)
     let size := match p.op with
       | .store bytes _ => bytes.length
       | .load n => n
       | .atomic _ n _ _ => n
       | .reduce _ _ bytes => bytes.length
     (s.devnum ≠ some p.dev → Stays s i) ∧
     (s.devnum = some p.dev → s.packetKey p = none → zeros) ∧
     (∀ k, s.devnum = some p.dev → s.packetKey p = some k →
       let owned := s.handleBars none k size
       let barred : Prop := slabRangeFree k size = false ∨ ((∀ n, p.op ≠ .load n) ∧ s.touchesHeld k size = true)
       (owned = true → refused causeHANDLE) ∧
       (owned = false → isSlabKey k = true → barred → refused causeSLAB) ∧
       (owned = false → isSlabKey k = false → hbmValid (k - hbmBase + size - 1) = false → zeros) ∧
       (owned = false → (isSlabKey k = true → ¬ barred) → (isSlabKey k = false → hbmValid (k - hbmBase + size - 1) = true) →
         (∀ bytes bad, p.op = .store bytes bad → Answers s i (fun t => Stored s t k bytes ∧ back [] false t ∧ SameThreads s t ∧
           (bad = true → ∀ j < bytes.length, poisonUnit (k + j) ∈ t.poison))) ∧
         (∀ n, p.op = .load n → Answers s i (fun t => t = { s with linkOut := t.linkOut } ∧
           back (cellsRead s.mem k n) (firstPoison s.poison k n).isSome t)) ∧
         (∀ code n y expect, p.op = .atomic code n y expect → Answers s i (fun t => SameThreads s t ∧
           back (cellsRead s.mem k n) (firstPoison s.poison k n).isSome t ∧
           ((firstPoison s.poison k n).isSome = true → t.mem = s.mem) ∧
           (firstPoison s.poison k n = none →
             Stored s t k (leBytes n (atomicFn code n (leNat (cellsRead s.mem k n)) y.toNat expect.toNat))))) ∧
         (∀ code size bytes, p.op = .reduce code size bytes → Answers s i (fun t =>
           Stored s t k (redBytes s.mem code size (bytes.length / size) k bytes) ∧ back [] false t ∧ SameThreads s t)))) ∧
     (let sends (x : SpanTraffic) (l : LinkOut) : Prop := exec (.spanForward x) s = .next { s with linkOut := s.linkOut ++ [l] }
      let passes (x : SpanTraffic) (dest : Nat) (out : Nat → LinkOut) : Prop :=
       ((s.devnum = none ∨ s.devnum = some dest) → Stays s (.spanForward x)) ∧
       ∀ d e, s.devnum = some d → d ≠ dest → Table.find s.routes dest = some e → sends x (out e.1)
      let turns (x : SpanTraffic) (dest src : Nat) (out : Nat → LinkOut) : Prop :=
       ∀ d, s.devnum = some d → d ≠ dest → Table.find s.routes dest = none →
         (∀ e, Table.find s.routes src = some e → sends x (out e.1)) ∧
         (Table.find s.routes src = none → Stays s (.spanForward x))
      passes (.oneSided p) p.dev (fun link => .oneSided link p.comm p) ∧
      turns (.oneSided p) p.dev p.src (fun link => .unreach link p.comm p) ∧
      passes (.returned p) p.src (fun link => .unreach link p.comm p) ∧
      (∀ chan dev src tag bytes bad,
        passes (.answer chan dev src tag bytes bad) dev (fun link => .answer link chan dev src tag bytes bad) ∧
        turns (.answer chan dev src tag bytes bad) dev src (fun link => .backAnswer link chan src tag)) ∧
      (∀ chan dev src tag cause,
        passes (.refusal chan dev src tag cause) dev (fun link => .refusal link chan dev src tag cause) ∧
        turns (.refusal chan dev src tag cause) dev src (fun link => .backAnswer link chan src tag)) ∧
      (∀ dev src m, passes (.chunk dev src m) dev (fun link => .chunk link m.comm dev src m) ∧
        turns (.chunk dev src m) dev src (fun link => .backChunk link m.comm src m)) ∧
      (∀ chan dev tag, passes (.returnedAnswer chan dev tag) dev (fun link => .backAnswer link chan dev tag)) ∧
      ∀ dev m, passes (.returnedChunk dev m) dev (fun link => .backChunk link m.comm dev m)) ∧
     (s.devnum ≠ some p.src → Stays s (.spanReturnUnreach p)) ∧
     (∀ q id c cs bytes bad, s.devnum = some p.src → s.stores.find? (fun q => q.num == p.tag && q.sent) = some q →
       q.src = some id → q.op = .put bytes bad → s.ctxs.filter (fun c => c.live && covers id c.id.wg c.id.tix) = c :: cs →
       s.ctx? c.id = some c → Answers s (.spanReturnUnreach p) (fun t => t.mem = s.mem ∧ t.teams = s.teams ∧
         t.stores = s.stores.map (fun x => if x.num = q.num then { x with parked := some (c.id, q.num), sent := false } else x) ∧
         ((s.ctxs.map Ctx.id).Nodup → ∀ k ∈ c :: cs, ∃ k', t.ctx? k.id = some k' ∧ k'.regs = k.regs ∧
           ∃ g ∈ k'.inflight, g.num = q.num ∧ g.what =
             .parked { addr := q.addr, key := q.key, size := bytes.length, op := .store bytes } (id.lvl == 1)) ∧
         ∃ r, (t.core (s.coreOf c)).faultsWaiting = (s.core (s.coreOf c)).faultsWaiting ++ [r] ∧ r.addr = q.addr ∧
           r.reason = reasonUNREACH ∧ r.access = accStore ∧ r.level = s.levelOf id.wg q.addr.toNat ∧
           r.who = (c :: cs).map (fun k => (k.id, q.num)))) ∧
     (∀ c f a, s.devnum = some p.src → s.stores.find? (fun q => q.num == p.tag && q.sent) = none →
       s.ctxs.findSome? (fun c => c.asking p.tag) = some (c, f, a, false) → s.ctx? c.id = some c → c.flight? f.num = some f →
       (c.id.lvl = 0 → s.recordless c = true → Answers s (.spanReturnUnreach p) (fun t =>
         t.mem = s.mem ∧ t.teams = s.teams ∧ OnlyCtx s t c.id ∧
         ((t.ctx? c.id).bind (fun x => x.flight? f.num)).map Flight.what =
           some (.parked { addr := a.addr, key := a.key, size := a.size, op := a.op } false) ∧
         ∃ r, (t.core (s.coreOf c)).faultsWaiting = (s.core (s.coreOf c)).faultsWaiting ++ [r] ∧ r.addr = a.addr ∧
           r.reason = reasonUNREACH ∧ r.level = s.levelOf c.id.wg a.addr.toNat ∧ r.who = [(c.id, f.num)])) ∧
       (c.id.lvl ≠ 0 → Answers s (.spanReturnUnreach p) (fun t => t = { s with ctxs := t.ctxs } ∧ OnlyCtx s t c.id ∧
         ((t.ctx? c.id).bind (fun x => x.flight? f.num)).map Flight.what = some (.access { a with asked := none } false)))) ∧
     (∀ e x, s.devnum = some p.src → s.stores.find? (fun q => q.num == p.tag && q.sent) = none →
       s.ctxs.findSome? (fun c => c.asking p.tag) = none → s.hodSent.find? (fun e => e.num == p.tag) = some e →
       e.engine = 5 → Table.find (s.core e.core).running 5 = some x → x.parked = false →
       Answers s (.spanReturnUnreach p) (fun t => SameThreads s t ∧ t.mem = s.mem ∧
         (∃ y, Table.find (t.core e.core).running 5 = some y ∧ y.parked = true) ∧ (∃ d ∈ t.hodSent, d.num = e.num ∧ d.lost = true) ∧
         ∃ r, (t.core e.core).faultsWaiting = (s.core e.core).faultsWaiting ++ [r] ∧ r.addr = BitVec.ofNat 64 e.addr ∧
           r.reason = reasonUNREACH ∧ r.agent = 2 ∧ r.access = accEngineWrite ∧
           r.level = s.walkLevel (s.recRoot x.rcd) e.addr ∧ r.hod = true)) ∧
     (∀ e, s.devnum = some p.src → s.stores.find? (fun q => q.num == p.tag && q.sent) = none →
       s.ctxs.findSome? (fun c => c.asking p.tag) = none → s.hodSent.find? (fun e => e.num == p.tag) = some e →
       e.engine ≠ 5 → Answers s (.spanReturnUnreach p) (fun t => t = { s with hodSent := t.hodSent } ∧
         t.hodSent = s.hodSent.map (fun x => if x.num = e.num then { x with lost := true } else x))) ∧
     (∀ q id c cs, s.devnum = some p.src → s.asker p.tag = .done q → q.src = some id →
       s.ctxs.filter (fun c => c.live && covers id c.id.wg c.id.tix) = c :: cs → Answers s (.spanReturnUnreach p) (fun t =>
         t = { s with acks := s.acks.filter (fun e => e.num != q.num), cores := t.cores } ∧
         ∃ r, (t.core (s.coreOf c)).faultsWaiting = (s.core (s.coreOf c)).faultsWaiting ++ [r] ∧ r.addr = q.addr ∧
           r.reason = reasonUNREACH ∧ r.access = accStore ∧ r.level = s.levelOf c.id.wg q.addr.toNat ∧ r.who = [])) ∧
     (s.hodSent.find? (fun e => e.num == num && !e.lost) = none →
       exec (.spanAcknowledgement num) s = .next { s with acks := s.acks.filter (fun e => e.num != num) }) ∧
     (∀ e, s.hodSent.find? (fun e => e.num == num && !e.lost) = some e → Answers s (.spanAcknowledgement num) (fun t =>
       t = { s with
         mem := t.mem
         poison := t.poison
         marks := t.marks
         hodSent := s.hodSent.filter (fun x => x.num != e.num) } ∧ Stored s t e.key (homeBytes s.mem e.key e.op)))) ∧
  (∀ (s : State) (addr size : Nat) (bytes : List Byte) (poisoned : Bool),
     (addr + size > 2 ^ 39 → Stays s (.hostMemRead addr size)) ∧
     (addr + size ≤ 2 ^ 39 → Answers s (.hostMemRead addr size) (fun t => SameThreads s t ∧ t.mem = s.mem ∧
       t.hostData = (List.range size).map (fun i =>
         if hbmValid (addr + i) then cellRead s.mem (hbmBase + addr + i) else 0) ∧
       t.hostPoison = (firstPoison s.poison (hbmBase + addr) size).isSome ∧
       Table.get t.clerk 0 3 = Table.get s.clerk 0 3 + (if holeIn addr size then 1 else 0))) ∧
     (addr + bytes.length > 2 ^ 39 → Stays s (.hostMemWrite addr bytes poisoned)) ∧
     (addr + bytes.length ≤ 2 ^ 39 → Answers s (.hostMemWrite addr bytes poisoned) (fun t => SameThreads s t ∧
       (s.memOk = true → ∀ a, cellRead t.mem a =
         if hbmBase + addr ≤ a ∧ a < hbmBase + addr + bytes.length ∧ hbmValid (a - hbmBase) = true
         then bytes.getD (a - (hbmBase + addr)) 0 else cellRead s.mem a) ∧
       (poisoned = true → ∀ k < bytes.length, hbmValid (addr + k) = true → poisonUnit (hbmBase + addr + k) ∈ t.poison) ∧
       Table.get t.clerk 0 3 = Table.get s.clerk 0 3 + (if holeIn addr bytes.length then 1 else 0))))

/-- R267, R274: a mailbox that runs a command answers BUSY 1, one without firmware DENIED 3, to every command but
RELOAD; a command changes nothing but the answer then.

R263, R267: QREG of a queue that holds a slot and has an unfinished launch is BUSY; else it takes a descriptor that
R263 allows, and its HEAD and QERR with it, and answers any other BADFIELD (log entry 92; its bytes come with the
command: log entry 113); QABORT ends the queue's unfinished launches with ABORTED (no queue of the number is BADFIELD:
log entry 111). The new descriptor, and that the queue then holds no slot, are log entry 59's. INVALIDATE runs until
no access translated with the range is outstanding, and then drops its cached translations (R141). SETBUDGET, SETPOOL
and SETCAP answer BADFIELD outside their ranges (log entry 120); COMMCFG is BUSY while a launch uses the communicator,
which it says before it looks at the record (log entry 64), and BADFIELD for any other record or number. -/
def Obligations.Mailbox : Prop :=
  (∀ (s : State) (i : Instr) (q n addr : Nat) (l : List Nat) (b : List Byte) (sel : DebugSel),
     i ∈ [Instr.qreg q b, .qabort q, .invalidate addr n, .clearbind, .setbudget l n, .setpool n, .setcap n, .commcfg n b,
       .restore addr, .debugHalt sel, .debugResume sel, .debugBreakpointEnable n, .debugHaltForce q n, .errcount, .measure b,
       .devnum b, .routes b, .mailboxOtherCode n] →
     (s.mailbox.isSome → exec i s = .next { s with mboxStatus := 1 }) ∧
     (s.mailbox = none → s.running = false → exec i s = .next { s with mboxStatus := 3 })) ∧
  (∀ (s : State) (q addr size n : Nat) (desc : List Byte) (cores : List Nat),
     s.mailbox = none → s.running = true →
     (let bad : Prop := q ≥ 4096 ∨ descBad desc = true
      let busy : Prop := s.mapped q = true ∧ ∃ l ∈ s.launches, l.queue = q ∧ l.phase ≠ .finished
      (busy → exec (.qreg q desc) s = .next { s with mboxStatus := 1 }) ∧
      (¬ busy → bad → exec (.qreg q desc) s = .next { s with mboxStatus := 2 }) ∧
      (¬ busy → ¬ bad → Answers s (.qreg q desc) (fun t => t.mboxStatus = 0 ∧ SameThreads s t ∧ t.mem = s.mem ∧
        (∀ e ∈ t.slots, e.2.queue ≠ q) ∧ (t.queue q).reg = some desc ∧ (t.queue q).head = fieldAt desc 0x40 8 ∧
        (t.queue q).qerr = fieldAt desc 0x48 4 ∧ ∀ k, k ≠ q → t.queue k = s.queue k))) ∧
     (q ≥ 4096 → exec (.qabort q) s = .next { s with mboxStatus := 2 }) ∧
     (q < 4096 → Answers s (.qabort q) (fun t => t.mboxStatus = 0 ∧
       (t.queue q).head = max (s.queue q).head (s.queue q).doorbell ∧
       ∀ l ∈ s.launches, s.launch? l.num = some l → l.queue = q → l.depth = 1 → l.phase ≠ .finished → l.status = 0 →
         ∃ l', t.launch? l.num = some l' ∧ l'.status = 7)) ∧
     exec (.invalidate addr size) s = .next { s with
       mailbox := some 3
       invalidating := some (addr, size) } ∧
     exec .clearbind s = .next { s with
       bindings := []
       mboxStatus := 0 } ∧
     (let bad : Prop := n < 16 ∨ n > 255 ∨ ∃ k ∈ cores, k ≥ 192
      (bad → exec (.setbudget cores n) s = .next { s with mboxStatus := 2 }) ∧
      (¬ bad → Answers s (.setbudget cores n) (fun t => t.mboxStatus = 0 ∧ ∀ k,
        t.core k = if k ∈ cores then { s.core k with budget := n } else s.core k))) ∧
     (n > 768 → exec (.setpool n) s = .next { s with mboxStatus := 2 }) ∧
     (n ≤ 768 → exec (.setpool n) s = .next { s with
       pool := n
       mboxStatus := 0 }) ∧
     ((n < 600 ∨ n > 2800) → exec (.setcap n) s = .next { s with mboxStatus := 2 }) ∧
     (600 ≤ n → n ≤ 2800 → exec (.setcap n) s = .next { s with
       cap := n
       mboxStatus := 0 }) ∧
     (let busy : Prop := n ≤ 15 ∧ ∃ l ∈ s.launches, l.communicator = n ∧ l.phase ≠ .finished
      (n > 15 → s.commBad n desc = true) ∧
      (busy → exec (.commcfg n desc) s = .next { s with mboxStatus := 1 }) ∧
      (¬ busy → s.commBad n desc = true → exec (.commcfg n desc) s = .next { s with mboxStatus := 2 }) ∧
      (¬ busy → s.commBad n desc = false → Answers s (.commcfg n desc) (fun t => t.mboxStatus = 0 ∧
        ∃ c, s.localSlab (fieldAt desc 24 8) = some c.result ∧ Table.find t.comms n = some c ∧
          c.members = s.memberList (fieldAt desc 8 8) (fieldAt desc 0 2) ∧ c.priority = fieldAt desc 2 1 ∧
          c.root = fieldAt desc 4 2 ∧ c.resultLen = fieldAt desc 32 8))))

/-- R141, R254, R245, R246, R154, R267: an INVALIDATE completes; RESTORE answers WIDTHMISMATCH 4 for a team width
other than 32, BADIMAGE 5 for a version other than 1, a nonzero reserved field or no unfinished launch, or places the
workgroup that stands behind the image (log entry 100), which waits where no core admits it and is answered OK then
too (log entry 57, as its reserved fields; WIDTHMISMATCH before BADIMAGE: log entry 108); the debug interface halts,
resumes and enables breakpoint halting (its statuses: log entry 120; a request for a halted thread stays: log entry
117); ERRCOUNT returns the counts of the six structures of R154 (log entry 110); a code that R267 does not list is
BADFIELD.

R269, R273, R274: MEASURE returns the nonce, the digest of the firmware image, the serial number and the signature of
these, which is Ed25519's under the identity key, or for a zero nonce the public key (its place: log entry 97). DEVNUM
answers BUSY, then BADFIELD (log entry 112), or sets the number; ROUTES answers BADFIELD or sets the entries (invalid
ones too: log entry 64). RELOAD clears slab, the device number, the routes and all work, and takes the image; without
an image that starts, which RELOAD answers OK too (log entry 65), the mailbox denies every other command. -/
def Obligations.MailboxDevice : Prop :=
  (∀ (s : State) (addr wg tix n : Nat) (sel : DebugSel),
     (s.invalidating = none → Stays s .invalidateComplete) ∧
     (∀ a k, s.invalidating = some (a, k) →
       (s.quiescent a k = false → Stays s .invalidateComplete) ∧
       (s.quiescent a k = true → exec .invalidateComplete s = .next { s with
         tlb := s.tlb.filter (fun t => !overlaps t.page t.size a k)
         mailbox := none
         invalidating := none
         mboxStatus := 0 })) ∧
     (s.mailbox = none → s.running = true →
       (s.imageStatus (hbmBase + addr) ≠ 0 → exec (.restore addr) s = .next { s with mboxStatus := s.imageStatus (hbmBase + addr) }) ∧
       (let base := hbmBase + addr
        let field (off n : Nat) : Nat := s.memNat (base + off) n
        let frame (k i : Nat) : Nat := field 0x20 8 + k * field 0x1C 4 + i * (128 + 8 * (field 4 1 + 2))
        let reserved : Prop := field 5 1 ≥ 4 ∨ field 0x50 48 ≠ 0 ∨ field (field 0x30 8 + 0x18) 8 ≠ 0 ∨
          ∃ k < 32 * field 3 1, ∃ i < 5, field (frame k i + 0x49) 1 ≥ 8 ∨ field (frame k i + 0x4D) 3 ≠ 0
        let known : Prop := ∃ l, s.launch? (field 8 8) = some l ∧ l.phase ≠ .finished
        (field 2 1 ≠ 32 → s.imageStatus base = 4) ∧
        (field 2 1 = 32 → (field 0 2 ≠ 1 ∨ reserved ∨ ¬known) → s.imageStatus base = 5) ∧
        (field 2 1 = 32 → field 0 2 = 1 → ¬reserved → known → s.imageStatus base = 0)) ∧
       (∀ w, s.imageStatus (hbmBase + addr) = 0 → s.wgs.find? (fun w => w.place == .saved addr) = some w →
         s.behind (hbmBase + addr) = some (s, w)) ∧
       (∀ u w l, s.imageStatus (hbmBase + addr) = 0 → s.behind (hbmBase + addr) = some (u, w) → u.launch? w.launch = some l →
         (∀ t, u.restoreWg l w = some t → exec (.restore addr) s = .next { t with mboxStatus := 0 }) ∧
         (u.restoreWg l w = none → exec (.restore addr) s = .next
           { u with
             wgs := u.wgs.map (fun x => if x.num = w.num then { x with ousted := false, called := false } else x)
             mboxStatus := 0 })) ∧
       ((∀ c ∈ s.ctxs, c.live = true → s.debugSel sel c.id = true → s.resident c.id.wg = true) →
         exec (.debugHalt sel) s = .next { s with
         ctxs := s.ctxs.map (fun c => if c.id.lvl = 0 ∧ s.debugSel sel c.id = true then c.request false else c)
         mboxStatus := 0 }) ∧
       (s.resident wg = true → exec (.debugHaltForce wg tix) s = .next { s with
         ctxs := s.ctxs.map (fun c => if c.id.lvl = 0 ∧ c.id.wg = wg ∧ c.id.tix = tix then c.request true else c)
         mboxStatus := 0 }) ∧
       (∀ c pc, s.ctx? c.id = some c → s.ctxs.filter (fun d => s.debugSel sel d.id) = [c] → c.status = .halted pc →
         s.resident c.id.wg = true →
         (∀ l, s.launchOf? c.id.wg = some l → (s.queue l.queue).trace = false) → Answers s (.debugResume sel) (fun t =>
           t.mboxStatus = 0 ∧ OnlyCtx s t c.id ∧ t.mem = s.mem ∧ t.ctx? c.id = some { c with
             status := .running
             pc := pc
             nested := c.haltReq && c.inHandler })) ∧
       (s.launch? n = none → exec (.debugBreakpointEnable n) s = .next { s with mboxStatus := 2 }) ∧
       (∀ l, s.launch? n = some l → Answers s (.debugBreakpointEnable n) (fun t => t.mboxStatus = 0 ∧ SameThreads s t ∧
         (t.launch? n).map Launch.bkptHalt = some true)) ∧
       (exec .errcount s = .next { s with
         mboxStatus := 0
         mboxData := (List.range 6).flatMap (fun i => leBytes 8 (Table.get s.corrected 0 i)) }) ∧
       ((n = 0 ∨ n > 15) → exec (.mailboxOtherCode n) s = .next { s with mboxStatus := 2 }) ∧
       (1 ≤ n → n ≤ 15 → Stays s (.mailboxOtherCode n)))) ∧
  (∀ (s : State) (b : List Byte) (startable : Bool),
     (s.mailbox = none → s.running = true →
       (b.length ≠ 32 → exec (.measure b) s = .next { s with mboxStatus := 2 }) ∧
       (b.length = 32 →
         let msg := b ++ beBytes 64 s.digest.toNat ++ leBytes 8 Config.serial.toNat
         let key := leBytes 32 Config.identityKey.toNat
         exec (.measure b) s = .next { s with
           mboxStatus := 0
           mboxData := msg ++ (if leNat b = 0 then edPublic key ++ List.replicate 32 0 else edSign key msg) }) ∧
       (let busy : Prop := ∃ l ∈ s.launches, l.phase ≠ .finished
        let bad : Prop := b.length ≠ 16 ∨ fieldAt b 0 2 ≥ 0xFFF ∨ nonzero b 2 14 = true
        (busy → exec (.devnum b) s = .next { s with mboxStatus := 1 }) ∧
        (¬ busy → bad → exec (.devnum b) s = .next { s with mboxStatus := 2 }) ∧
        (¬ busy → ¬ bad → exec (.devnum b) s = .next { s with
          devnum := some (fieldAt b 0 2)
          mboxStatus := 0 })) ∧
       (let f := fieldAt b 0 2
        let n := fieldAt b 2 2
        let entry (i : Nat) : Nat := s.memNat (hostBase + fieldAt b 8 8 + 4 * i) 4
        let good (e : Nat) : Prop := bitAt e 31 = true → bitsAt e 4 0 ≤ 23 ∧ bitsAt e 30 12 = 0 ∧ bitsAt e 7 5 = 0
        let ok : Prop := b.length = 16 ∧ n ≠ 0 ∧ n ≤ 4096 ∧ f + n ≤ 4096 ∧ nonzero b 4 4 = false ∧ ∀ i < n, good (entry i)
        (¬ ok → exec (.routes b) s = .next { s with mboxStatus := 2 }) ∧
        (ok → Answers s (.routes b) (fun t => t = { s with
           routes := t.routes
           mboxStatus := 0 } ∧
          (∀ i < n, Table.find t.routes (f + i) =
            if bitAt (entry i) 31 then some (bitsAt (entry i) 4 0, bitsAt (entry i) 11 8) else none) ∧
          ∀ d, (d < f ∨ f + n ≤ d) → Table.find t.routes d = Table.find s.routes d)))) ∧
     (s.mailbox.isSome → exec (.reload b startable) s = .next { s with mboxStatus := 1 }) ∧
     (s.mailbox = none → Answers s (.reload b startable) (fun t =>
       t.mboxStatus = 0 ∧ t.firmware = some b ∧ t.running = startable ∧ t.devnum = none ∧ t.routes = [] ∧ t.ctxs = [] ∧
       t.teams = [] ∧ t.stores = [] ∧ t.chunks = [] ∧ t.hodSent = [] ∧ t.keystones = [] ∧ (∀ w ∈ t.wgs, w.place = .retired) ∧
       ∀ c ∈ t.mem, isSlabKey c.1 = false)))

/-- R249, R273, R262, R154, R155, R301, R35: reset leaves no thread, no device number and no route, keeps HBM (log
entry 66) and the firmware, and slab reads as the model's unlisted byte (log entry 2). A capture session copies its
regions to its area; its replay restores them, and ends at the first launch whose digest differs (log entry 68). A
correctable error is counted; an uncorrectable one poisons its register or its unit of memory, or drops the cached
line. A fill puts a word of a launch, as its start left it, into the instruction cache, which never holds more than
16,384 words (R14; one cache for each partition: log entry 51), and a program counter passed over 64 times is taken
next. -/
def Obligations.Platform : Prop := ∀ (s : State) (regions : List (Nat × Nat)) (area core part addr : Nat) (site : ErrSite)
    (pipe : Pipe),
  Answers s .reset (fun t => t.ctxs = [] ∧ t.wgs = [] ∧ t.launches = [] ∧ t.cores = [] ∧ t.devnum = none ∧ t.routes = [] ∧
    t.stores = [] ∧ t.firmware = s.firmware ∧ (∀ k, isSlabKey k = true → cellRead t.mem k = 0) ∧
    (s.memOk = true → ∀ k, isHbmKey k = true → cellRead t.mem k = cellRead s.mem k)) ∧
  ((regions.length > 16 ∨ ∃ r ∈ regions, r.1 % 256 ≠ 0 ∨ r.2 % 256 ≠ 0) → Stays s (.captureSessionStart regions area)) ∧
  (regions.length ≤ 16 → (∀ r ∈ regions, r.1 % 256 = 0 ∧ r.2 % 256 = 0) →
    Answers s (.captureSessionStart regions area) (fun t => Stored s t (hbmBase + area) (s.regionBytes regions) ∧
      ∃ c, t.capture = some c ∧ c.area = area ∧ c.regions = regions ∧ c.packets = [] ∧ c.digests = [])) ∧
  (s.capture = none → Stays s .captureReplay) ∧
  (∀ c r, s.capture = some c → c.stage = none → s.launches.any Launch.unfinished = false → c.regions = [r] →
    c.starts ≠ [] → Answers s .captureReplay (fun t =>
      Stored s t (s.regionKey r.1) (cellsRead s.mem (hbmBase + c.area) r.2) ∧
      t.capture.bind Capture.stage = some (0, none))) ∧
  (∀ c i n l x, s.capture = some c → c.stage = some (i, some n) → s.launch? n = some l → c.starts[i]? = some x →
    (l.phase ≠ .finished → Stays s .captureReplay) ∧
    (l.phase = .finished →
      (c.digests.find? (fun d => d.1 == x.1)).map Prod.snd ≠ some (sha512 (s.regionBytes c.regions)) →
      exec .captureReplay s = .next { s with
        capture := some { c with
          replay := some (some i)
          stage := none } })) ∧
  (Answers s (.softError site true) (fun t => t = { s with corrected := t.corrected } ∧
    Table.get t.corrected 0 (siteIndex site) = Table.get s.corrected 0 (siteIndex site) + 1)) ∧
  (∀ id r c, site = .register id r → s.ctx? id = some c → Answers s (.softError site false) (fun t =>
    OnlyCtx s t id ∧ ∃ c', t.ctx? id = some c' ∧ c'.regs.poison.getLsbD r.toNat = true ∧ c'.regs.v = c.regs.v)) ∧
  (∀ k, ((site = .slab k ∧ isSlabKey k = true) ∨ (site = .accum k ∧ isAccKey k = true) ∨ (site = .hbm k ∧ isHbmKey k = true)) →
    Answers s (.softError site false) (fun t => t = { s with poison := t.poison } ∧
      ∀ u, u ∈ t.poison ↔ u = poisonUnit k ∨ u ∈ s.poison)) ∧
  (∀ k line, site = .l1 k line → Answers s (.softError site false) (fun t =>
    t = { s with cores := t.cores } ∧ ∀ x ∈ (t.core k).l1, overlaps line 1 x.key 64 = false)) ∧
  (∀ k p a, site = .icache k p a → Answers s (.softError site false) (fun t =>
    t = { s with parts := t.parts } ∧ ∀ e ∈ (t.part k p).icache, e.2.1 ≠ a)) ∧
  (∀ c l w, s.fillers core part = [c] → s.launchOf? c.id.wg = some l → s.memoryWord c (BitVec.ofNat 64 addr) false = .word w →
    Answers s (.instructionCacheFill core part addr) (fun t => t = { s with parts := t.parts } ∧
      (∃ e ∈ (t.part core part).icache, e.1 = l.num ∧ e.2.1 = addr) ∧
      ((t.part core part).icache.length ≤ 16384 ∨ (t.part core part).icache = (s.part core part).icache))) ∧
  Stays s (.pickerPassoverLimit core part .uniform) ∧
  (pipe ≠ .uniform → overduePc (s.readyFor core part pipe) = none → Stays s (.pickerPassoverLimit core part pipe)) ∧
  (∀ pc, pipe ≠ .uniform → overduePc (s.readyFor core part pipe) = some pc →
    Answers s (.pickerPassoverLimit core part pipe) (fun t => t = { s with parts := t.parts } ∧
      (pipe, pc) ∈ (t.part core part).forced))

/-- R202, R249, R259, R269: right after reset no thread, workgroup or launch is resident, every accumulator is +0 and
no tile is latched, no prediction is valid, every core's cycle counter is 0, the device number and the routes are
clear, and memory, in its canonical form, lists nothing. That every cell reads 0 is log entry 2's choice, that no
queue, slot or running task is held log entry 3's. -/
def Obligations.ResetState : Prop :=
  let s := State.reset
  s.ctxs = [] ∧ s.teams = [] ∧ s.wgs = [] ∧ s.launches = [] ∧ s.memOk = true ∧ (∀ k, cellRead s.mem k = 0) ∧
  (∀ core, (s.core core).cyc = 0 ∧ (s.core core).tile = none ∧ (s.core core).queues = [] ∧ (s.core core).running = []) ∧
  (∀ core row, s.accCodes core row = List.replicate 128 0) ∧
  (∀ core part, (s.part core part).preds = []) ∧ s.devnum = none ∧ s.routes = [] ∧ s.queues = [] ∧ s.slots = []

/-- R276 to R298: words that the spec writes out as examples decode to the instructions that they stand for; a prefix
word of the uniform set is no instruction. -/
def Obligations.DecodedWords : Prop :=
  decodeWord 0x1C1821D0 = .instr (.abs { d := 3, a := 1, b := 3, t := 5, gn := 0, g := 0 }) ∧
  decodeWord 0x1C204030 = .instr (.clz { d := 4, a := 2, b := 0, t := 3, gn := 0, g := 0 }) ∧
  decodeWord 0x44282100 = .instr (.ffma { d := 5, a := 1, b := 2, t := 0, gn := 0, g := 0 }) ∧
  decodeWord 0x7E23A000 = .pfx { e := 4, m := 3, z := 1, rnd := 2, sat := 0, rsv := 0 } ∧
  decodeWord 0x7D400580 = .instr (.fenceRel { d := 40, a := 0, b := 11, l := 0, g := 0 }) ∧
  decodeWord 0x7C018780 = .instr (.vqput { d := 0, a := 12, b := 15, l := 0, g := 0 }) ∧
  decodeWord 0x7600002C = .instr (.brx { off := 5, g := 4 }) ∧
  decodeWord 0x9A183FF8 = .instr (.saddi { d := 3, a := 1, imm := 0x1FF8 }) ∧
  decodeWord 0xB6C82B80 = .instr (.hod { d := 25, a := 1, b := 23, fn := 0, l := 0 }) ∧
  decodeWord 0xC69A4000 = .instr (.asrd { d := 19, a := 18, b := 0, fn := 0, l := 0 }) ∧
  (∀ i, decodeWord 0xFE000000 ≠ .instr i)

/-- R301, R32, R298: the step of an issue runs the instruction that the picker has fetched, in the state that the
issue leaves; a uniform instruction that leaves every instruction number unused waits at issue, and only that it was
tried in this cycle is noted (log entry 69). Where a thread without outstanding instructions is alone on its
partition, on a core without fault records, and the word at its program counter, which its instruction cache holds,
decodes to an instruction of an open lane pipe for which it is ready, the step runs that instruction for it; where the
word is one of step 1 of R298, the thread, outside a handler, traps ILLEGAL: v1 and v3 name the word, v2 is 0, and it
resumes at the next word (log entry 12). An event of the agenda runs as its instruction. -/
def Obligations.StepRuns : Prop := ∀ (s : State) (ms : List Move) (core part : Nat) (pipe : Pipe) (defer : Bool),
  (∀ i, s.agenda = .event i :: ms → step s = exec i { s with
    agenda := ms
    cur := Issue.idle }) ∧
  (s.agenda = .issue core part pipe defer :: ms →
    let s0 : State := { s with agenda := ms }
    (∀ t i, s0.prepare core part pipe defer = (t, some i) →
      (pipe ≠ .uniform → step s = exec i t) ∧
      (∀ u, pipe = .uniform → exec i t = .next u → u.nextNum ≠ t.nextNum → step s = .next u) ∧
      (∀ u, pipe = .uniform → exec i t = .next u → u.nextNum = t.nextNum →
        step s = .next ((s0.tendAll core part).stood core part t.cur.wg t.cur.team))) ∧
    (∀ t, s0.prepare core part pipe defer = (t, none) → step s = .next t) ∧
    (∀ c w i,
      let f : Fetched := { start := c.pc, pc := c.pc, pfx := none, warn := 0, word := w, what := some i }
      pipe ≠ .uniform → s0.partCtxs core part = [c] → s0.ctx? c.id = some c → c.lane < 32 → c.inflight = [] →
      (s0.part core part).busy pipe = false → (s0.core core).faultsOut = [] → s0.issuedNow core part c = false →
      s0.codeWord c c.pc = .word w → decodeWord w = .instr i → f.pipe = pipe → s0.ready c f = true →
      ∃ t, step s = exec i t ∧ t.mem = s.mem ∧ t.teams = s.teams ∧ t.wgs = s.wgs ∧
        t.cur = issueOf core part c.id.wg c.team [c.id] f defer ∧ (t.ctx? c.id).map Ctx.regs = some c.regs ∧
        (t.ctx? c.id).map Ctx.pc = some c.pc) ∧
    (∀ c w why h,
      let f : Fetched := { start := c.pc, pc := c.pc, pfx := none, warn := 0, word := w, what := none }
      pipe ≠ .uniform → s0.partCtxs core part = [c] → s0.ctx? c.id = some c → c.lane < 32 →
      (s0.part core part).busy pipe = false → (s0.core core).faultsOut = [] → s0.issuedNow core part c = false →
      s0.codeWord c c.pc = .word w → decodeWord w = .illegal why → f.pipe = pipe → s0.ready c f = true →
      c.trappable = true → s0.handles c h → ∃ t d, step s = .next t ∧ t.mem = s.mem ∧ t.teams = s.teams ∧ t.wgs = s.wgs ∧
        t.ctx? c.id = some d ∧
        let x := c.trapped c.regs h causeILLEGAL 0 c.pc (c.pc + 4) w
        d.pc = x.pc ∧ d.regs = x.regs ∧ d.shadow = x.shadow ∧ d.inHandler = true ∧ d.inflight = []))

/-- R276 to R297: for every instruction that carries a word, decoding the word of a well-formed one gives it back,
with every operand at every value; and a word that decodes to an instruction is the word of that instruction, which is
well formed. No word stands for two instructions, and no bit of one is dropped. -/
def Obligations.EncodingRoundTrip : Prop :=
  (∀ i w, WellFormed i = true → encode i = some w → decodeWord w = .instr i) ∧
  (∀ w i, decodeWord w = .instr i → WellFormed i = true ∧ encode i = some w)

/-- From every state whose memory has its canonical form, every step leads to one whose memory has it. -/
def Obligations.MemoryInvariant : Prop := ∀ (s t : State), s.memOk = true → step s = .next t → t.memOk = true

/-- R68: in a sampled launch of N workgroups, with m the least integer such that 2^m is at least N, the dispatcher
sends out the indexes c below N of the sequence bitreverse_m(j) XOR (SEED mod 2^m), j from 0 to 2^m - 1, in that
order, so that every linear index from 0 to N - 1 is visited exactly once. Each dispatch that sends a workgroup out
takes the next one, whatever was skipped before it; a CORESIDENT launch, whose workgroups are placed all together,
sends all of them out in that order. The generators of its threads use all 64 bits of SEED, in the key that R121
computes. -/
def Obligations.VisitOrder : Prop :=
  (∀ n m seed : Nat, 0 < n → n ≤ 2 ^ m → (m = 0 ∨ 2 ^ (m - 1) < n) →
     let order := ((List.range (2 ^ m)).map (fun j => bitReverse m j ^^^ (seed % 2 ^ m))).filter (fun c => decide (c < n))
     (∀ j < 2 ^ m, bitReverse m j < 2 ^ m ∧ ∀ i < m, (bitReverse m j).testBit i = j.testBit (m - 1 - i)) ∧
     visits n seed n 0 = order ∧ order.Perm (List.range n)) ∧
  (let key (l : Launch) (lin tix : Nat) : Nat := (l.seed + lin * 0x9E3779B97F4A7C15 + tix * 0xD1B54A32D192ED03) % 2 ^ 64
   ∀ (s : State) (n : Nat) (l : Launch), s.launch? n = some l → l.num = n → l.sampled = true → s.maySend l = true →
     (l.coresident = false → (s.sendOut l).isSome = true → Answers s (.workgroupDispatch n) (fun t =>
       let v := visitFrom l.total l.seed 4 l.counter
       (∃ old w, t.wgs = old ++ [w] ∧ w.launch = n ∧ w.lin = v.1 ∧ w.visit = l.sent ∧
         ∃ before new, t.ctxs = before ++ new ∧ new.length = 32 * l.teams ∧
           ∀ c ∈ new, c.id.wg = w.num ∧ c.regs.rngk.toNat = key l w.lin c.id.tix) ∧
       (t.launch? n).map Launch.counter = some v.2 ∧ (t.launch? n).map Launch.sent = some (l.sent + 1))) ∧
     (∀ u, l.coresident = true → l.sent = 0 → l.counter = 0 → (s.forks = []) → State.sendAll n l.total s = some u →
       Answers s (.coresidentPlacement n) (fun t =>
         ∃ ws new, t.wgs = s.wgs ++ ws ∧ ws.map Workgroup.lin = visits l.total l.seed l.total 0 ∧
           ws.map Workgroup.visit = List.range l.total ∧ t.ctxs = s.ctxs ++ new ∧
           ∀ c ∈ new, ∃ w ∈ ws, c.id.wg = w.num ∧ w.launch = n ∧ c.regs.rngk.toNat = key l w.lin c.id.tix)))

/-- R387, R377: FEX2, FLG2, FSIN and FCOS of a finite number other than zero give the real function's value v
correctly rounded: either v is a·2^g exactly and that is rounded once, or it lies strictly between a·2^g and b·2^g,
and every number between these rounds as the result, flags included: the lowest and the highest truncation do, with
something left over. The one exception is a value that the model's last enclosure does not decide, which Config leaves
open (log entry 8). A draw of SR has at most 64 bits here. -/
def Obligations.TranscendentalEnclosures : Prop := ∀ (env : FEnv) (x : Nat) (neg : Bool) (m : Nat) (e : Int), m ≠ 0 →
  fp32.operand env x = .fin neg m e → (∀ b q, env.mode = .sr b q → b ≤ 64) →
  let arg : ℝ := (if neg then -(m : ℝ) else m) * (2 : ℝ) ^ e
  let rounds (code : Nat) (v : ℝ) : Prop :=
    let o := transElem env code x
    (∃ (s : Bool) (a : Nat) (g : Int), (s = true ↔ v < 0) ∧ |v| = (a : ℝ) * (2 : ℝ) ^ g ∧
      o = fp32.roundMag env s a g false) ∨
    (∃ (s : Bool) (a b : Nat) (g : Int), (s = true ↔ v < 0) ∧ 0 < a ∧ (a : ℝ) * (2 : ℝ) ^ g < |v| ∧
      |v| < (b : ℝ) * (2 : ℝ) ^ g ∧ o = fp32.roundMag env s a g true ∧ o = fp32.roundMag env s (b - 1) g true) ∨
    (o.bits = (Config.undecided code (BitVec.ofNat 32 x) env.mode.code).toNat ∧ o.flags = flagNX)
  rounds 3 ((2 : ℝ) ^ arg) ∧ (neg = false → rounds 4 (Real.logb 2 arg)) ∧ rounds 5 (Real.sin arg) ∧ rounds 6 (Real.cos arg)
end

