-- ==== Sys2Proof/Laws/Lane.lean ====
section
/-!
SUPPORT. Sys2Proof/Laws/Lane.lean: what a lane instruction does when no thread of its course meets a trap.
-/
namespace Sys2Proof.Machine

theorem each_map {α : Type} {r : α → α → Prop} {g : α → α} :
    ∀ {l : List α}, (∀ a ∈ l, r a (g a)) → Each r l (l.map g)
  | [], _ => trivial
  | a :: l, h => ⟨h a (by simp), each_map (fun b hb => h b (by simp [hb]))⟩

theorem State.ctx?_mem {s : State} {id : CtxId} {c : Ctx} (h : s.ctx? id = some c) : c ∈ s.ctxs ∧ c.id = id := by
  unfold State.ctx? at h
  exact ⟨List.mem_of_find?_eq_some h, by simpa using List.find?_some h⟩

/-- No thread of the course meets a trap. -/
theorem laneFaults_nil {s : State} {i : Instr} {d : LaneDo}
    (h : ∀ c ∈ s.ctxs, s.cur.course.contains c.id = true → laneFault s i d c = none) : laneFaults s i d = [] := by
  rw [laneFaults, List.filterMap_eq_nil_iff]
  intro id hid
  cases hc : s.ctx? id with
  | none => rfl
  | some c =>
    obtain ⟨hm, rfl⟩ := State.ctx?_mem hc
    simp [h c hm (by simpa using hid)]

/-- The state after a lane instruction whose threads meet no trap: every context of the course steps. -/
theorem lane_of_no_fault {s : State} {i : Instr} {d : LaneDo}
    (h : ∀ c ∈ s.ctxs, s.cur.course.contains c.id = true → laneFault s i d c = none) :
    lane i d s = { s with ctxs := s.ctxs.map (fun c => if s.cur.course.contains c.id then laneCtx s i d c else c)
                          nextNum := s.nextNum + 1 } := by
  rw [lane, laneFaults_nil h, List.foldl_nil, laneMap]
  congr 1
  apply List.map_congr_left
  intro c hc
  cases hq : s.cur.course.contains c.id with
  | true => simp only [h c hc hq, Option.isNone_none, Bool.and_self, if_true]
  | false => simp only [Bool.false_and, Bool.false_eq_true, if_false]

/-- A word that is clear, and that raises no trap of its own, meets none. -/
theorem laneFault_none {s : State} {i : Instr} {d : LaneDo} (hs : s.clear i = true) (hw : ∀ c, d.word c = true)
    (hf : ∀ c, d.fault c = none) (c : Ctx) (hc : c ∈ s.ctxs) (hq : s.cur.course.contains c.id = true) :
    laneFault s i d c = none := by
  have h := List.all_eq_true.mp hs c hc
  simp only [hq, Bool.not_true, Bool.false_or, Bool.and_eq_true] at h
  obtain ⟨h1, h2⟩ := h
  unfold laneFault
  rw [h1, hw]
  by_cases ha : fate (s.shp i) (s.pfx i) c.regs = .acts
  · simp_all
  · simp [ha]

/-- The lane instructions that only change registers: every acting thread takes the registers of the meaning. -/
theorem completes_of_regs {s : State} {i : Instr} {d : LaneDo} {does : Ctx → Ctx → Prop} (he : exec i s = .next (lane i d s))
    (hs : s.clear i = true) (hw : ∀ c, d.word c = true) (hf : ∀ c, d.fault c = none)
    (hd : ∀ c ∈ s.ctxs, s.acts i c = true → does c (laneActs s i d c)) : Completes s i does := by
  refine ⟨_, he, ?_, ?_⟩
  · rw [lane_of_no_fault (laneFault_none hs hw hf)]
  · rw [lane_of_no_fault (laneFault_none hs hw hf)]
    refine each_map fun c hc => ?_
    unfold ThreadStep
    cases hq : s.cur.course.contains c.id with
    | false => simp only [Bool.false_eq_true, if_false]
    | true =>
      simp only [if_true]
      cases hfate : fate (s.shp i) (s.pfx i) c.regs with
      | acts =>
        have ha : s.acts i c = true := by rw [State.acts, hq, hfate]; rfl
        simpa only [laneCtx, hfate] using hd c hc ha
      | off => simp only [laneCtx, hfate, State.nextPc]
      | zeroed => simp only [laneCtx, hfate, State.nextPc]

end Sys2Proof.Machine
end

