-- ==== Sys2Proof/Laws/Threads.lean ====
section
/-!
SUPPORT. Sys2Proof/Laws/Threads.lean: what the shared operations over a course do: the threads for which a word acts,
accesses that pass their checks, and the operations that touch one context.
-/
namespace Sys2Proof.Machine

theorem acting_eq_actors {s : State} {i : Instr} {d : LaneDo}
    (h : ∀ c ∈ s.ctxs, s.cur.course.contains c.id = true → laneFault s i d c = none) : acting s i d = s.actors i := by
  unfold acting State.actors
  apply List.filterMap_congr
  intro id hid
  cases hc : s.ctx? id with
  | none => rfl
  | some c =>
    obtain ⟨hm, rfl⟩ := State.ctx?_mem hc
    simp [h c hm (by simpa using hid), Option.filter]

theorem ctxs_step {s : State} {i : Instr} {d : LaneDo} {does : Ctx → Ctx → Prop}
    (hd : ∀ c ∈ s.ctxs, s.acts i c = true → does c (laneActs s i d c)) :
    Each (ThreadStep s i does) s.ctxs (s.ctxs.map (fun c => if s.cur.course.contains c.id then laneCtx s i d c else c)) := by
  refine each_map fun c hc => ?_
  unfold ThreadStep
  cases hq : s.cur.course.contains c.id with
  | false => simp only [Bool.false_eq_true, if_false]
  | true =>
    simp only [if_true]
    cases hfate : fate (s.shp i) (s.pfx i) c.regs with
    | acts =>
      have ha : s.acts i c = true := by rw [State.acts, hq, hfate]; rfl
      simpa only [laneCtx, hfate] using hd c hc ha
    | off => simp only [laneCtx, hfate, State.nextPc]
    | zeroed => simp only [laneCtx, hfate, State.nextPc]

/-- A word that is clear, and that raises no trap of its own for the threads it acts for, meets none. -/
theorem laneFault_none' {s : State} {i : Instr} {d : LaneDo} (hs : s.clear i = true) (hw : ∀ c, d.word c = true)
    (hf : ∀ c ∈ s.ctxs, s.acts i c = true → d.fault c = none) (c : Ctx) (hc : c ∈ s.ctxs) (hq : s.cur.course.contains c.id = true) :
    laneFault s i d c = none := by
  have h := List.all_eq_true.mp hs c hc
  simp only [hq, Bool.not_true, Bool.false_or, Bool.and_eq_true] at h
  obtain ⟨h1, h2⟩ := h
  unfold laneFault
  rw [h1, hw]
  by_cases ha : fate (s.shp i) (s.pfx i) c.regs = .acts
  · have := hf c hc (by rw [State.acts, hq, ha]; rfl)
    simp_all
  · simp [ha]

theorem mem_actors {s : State} {i : Instr} {c : Ctx} (h : c ∈ s.actors i) : c ∈ s.ctxs ∧ s.acts i c = true := by
  unfold State.actors at h
  rw [List.mem_filterMap] at h
  obtain ⟨id, hid, h⟩ := h
  cases hc : s.ctx? id with
  | none => simp [hc] at h
  | some d =>
    rw [hc] at h
    simp only [Option.filter] at h
    split at h
    · cases h
      obtain ⟨hm, rfl⟩ := State.ctx?_mem hc
      exact ⟨hm, by simp_all [State.acts]⟩
    · cases h

theorem passes_key {s : State} {i : Instr} {check : Ctx → Word × Verdict} (h : s.passes i check = true) {c : Ctx}
   (hc : c ∈ s.ctxs) (ha : s.acts i c = true) : (check c).2 = .key (check c).2.place := by
  have := List.all_eq_true.mp h c hc
  rw [ha] at this
  simp only [Bool.not_true, Bool.false_or] at this
  cases hv : (check c).2 <;> simp_all [Verdict.place]

theorem no_fault_reqs {s : State} {i : Instr} {check : Ctx → Word × Verdict} (h : s.passes i check = true) (num acc : Nat) :
   (s.actors i).filterMap (fun c => s.laneFaultReq c num acc (check c)) = [] := by
  rw [List.filterMap_eq_nil_iff]
  intro c hc
  obtain ⟨hm, ha⟩ := mem_actors hc
  unfold State.laneFaultReq
  rw [passes_key h hm ha]

theorem postFaults_nil (s : State) (core : Nat) : s.postFaults core (groupFaults [] []) = s := rfl

theorem foldl_inv {α β : Type} (P : α → Prop) (f : α → β → α) (l : List β) (h : ∀ a b, P a → P (f a b)) (a : α) (ha : P a) :
   P (l.foldl f a) := by
  induction l generalizing a with
  | nil => exact ha
  | cons b l ih => exact ih _ (h a b ha)

theorem cacheLeaf_frame (s : State) (root addr : Nat) : ∃ t, s.cacheLeaf root addr = { s with tlb := t } := by
  unfold State.cacheLeaf
  repeat' split
  all_goals exact ⟨_, rfl⟩

theorem noteVerdict_frame (s : State) (c : Ctx) (v : Word × Verdict) : ∃ t, s.noteVerdict c v = { s with tlb := t } := by
  unfold State.noteVerdict State.noteLeaf
  repeat' split
  all_goals first | exact ⟨s.tlb, rfl⟩ | exact cacheLeaf_frame ..

theorem noteAll_frame (s : State) (l : List Ctx) (v : Ctx → Word × Verdict) :
    ∃ t, l.foldl (fun t c => t.noteVerdict c (v c)) s = { s with tlb := t } := by
  induction l generalizing s with
  | nil => exact ⟨s.tlb, rfl⟩
  | cons b l ih =>
    obtain ⟨t, h⟩ := noteVerdict_frame s b (v b)
    obtain ⟨t', h'⟩ := ih (s.noteVerdict b (v b))
    exact ⟨t', by rw [List.foldl_cons, h', h]⟩

theorem accessOf_eq {s : State} {i : Instr} {check : Ctx → Word × Verdict} (h : s.passes i check = true) {c : Ctx}
   (hc : c ∈ s.ctxs) (ha : s.acts i c = true) (op : AccessOp) (n : Nat) : accessFlight op n (check c) = accessOf (check c) n op := by
  unfold accessFlight accessOf
  rw [passes_key h hc ha]
  rfl

theorem waitDo_acts {s : State} {i : Instr} {k : Ctx → FlightKind} (c : Ctx) :
   Issues s i (s.recorded i c) (k c) c (laneActs s i (waitDo k) c) := rfl

/-- Looking a context up after one context was changed by a function that keeps its name. -/
theorem ctx?_onCtx {s : State} {id : CtxId} {g : Ctx → Ctx} (hg : ∀ c, (g c).id = c.id) (other : CtxId) :
    (s.onCtx id g).ctx? other = if other = id then (s.ctx? id).map g else s.ctx? other := by
  unfold State.onCtx State.ctx? State.mapCtx
  simp only
  induction s.ctxs with
  | nil => split <;> rfl
  | cons c l ih =>
    simp only [List.map_cons, List.find?_cons]
    by_cases hc : c.id = id
    · simp only [hc, if_true, hg]
      by_cases ho : other = id
      · subst ho; simp
      · have : (id == other) = false := by simpa using Ne.symm ho
        simp only [this, ho, if_false]
        simpa [ho] using ih
    · simp only [hc, if_false]
      by_cases ho : other = id
      · subst ho
        have : (c.id == other) = false := by simpa using hc
        simp only [this, if_true]
        simpa using ih
      · cases hq : c.id == other
        · simpa [ho, hq] using ih
        · simp [ho]

theorem flight?_land (c : Ctx) (num : Nat) : (c.land num).flight? num = none := by
  unfold Ctx.flight? Ctx.land
  simp only [List.find?_filter, List.find?_eq_none]
  intro f _; by_cases h : f.num = num <;> simp [h]

/-- After a quiet context's instruction has landed, no trap is due. -/
theorem settle_landed {s : State} {id : CtxId} {c : Ctx} {num : Nat} {r : Regs} (hq : c.quiet num = true)
    (h : s.ctx? id = some { c.land num with regs := r }) : s.settle id = s := by
  unfold State.settle
  rw [h]
  have : Ctx.trapNow { c.land num with regs := r } = none := by
    unfold Ctx.trapNow Ctx.land
    simp only
    split
    · rfl
    · rename_i f fs hf
      have hm : f ∈ c.inflight.filter (fun f => f.num != num) := by rw [hf]; simp
      have := List.all_eq_true.mp hq f (List.mem_of_mem_filter hm)
      have h2 := (List.mem_filter.mp hm).2
      cases hw : f.what <;> simp_all [Flight.isTrap]
  simp only [this]

theorem landed_onCtx {s : State} {id : CtxId} {c : Ctx} {num : Nat} {r : Regs} {g : Ctx → Ctx} (hc : s.ctx? id = some c)
    (hg : ∀ c, (g c).id = c.id) (hgc : g c = { c.land num with regs := r }) : Landed s (s.onCtx id g) id num r := by
  refine ⟨⟨c, hc, ?_⟩, fun other ho => ?_⟩
  · rw [ctx?_onCtx hg]; simp [hc, hgc]
  · rw [ctx?_onCtx hg]; simp [ho]

theorem landWith_landed {s : State} {id : CtxId} {c : Ctx} {f : Flight} {num : Nat} (hc : s.ctx? id = some c) (hf : c.flight? num = some f)
    (hq : c.quiet num = true) (x : Word) :
    let t := s.landWith id num x
    t = { s with ctxs := t.ctxs } ∧ Landed s t id num (f.vdst.foldl (fun r d => r.put d x) c.regs) := by
  let g : Ctx → Ctx := fun c => match c.flight? num with
    | some f => { c.land num with regs := f.vdst.foldl (fun r d => r.put d x) c.regs }
    | none => c
  have hg : ∀ c, (g c).id = c.id := by intro c; simp only [g]; split <;> rfl
  have hgc : g c = { c.land num with regs := f.vdst.foldl (fun r d => r.put d x) c.regs } := by simp only [g, hf]
  have hl := landed_onCtx hc hg hgc
  have he : s.landWith id num x = s.onCtx id g := by
    unfold State.landWith
    obtain ⟨⟨c', hc', h2⟩, _⟩ := hl
    rw [hc] at hc'; cases hc'
    exact settle_landed hq h2
  simp only [he]
  exact ⟨rfl, hl⟩

theorem landPlain_landed {s : State} {id : CtxId} {c : Ctx} {num : Nat} (hc : s.ctx? id = some c)
    (hq : c.quiet num = true) :
    let t := s.landPlain id num
    t = { s with ctxs := t.ctxs } ∧ Landed s t id num c.regs := by
  have hl := landed_onCtx (r := c.regs) (g := fun c => c.land num) hc (fun _ => rfl) rfl
  have he : s.landPlain id num = s.onCtx id (fun c => c.land num) := by
    unfold State.landPlain
    obtain ⟨⟨c', hc', h2⟩, _⟩ := hl
    rw [hc] at hc'; cases hc'
    exact settle_landed hq h2
  simp only [he]
  exact ⟨rfl, hl⟩

/-! ### What reads, releases and failures leave -/

theorem spanOut_frame (s : State) (key num : Nat) (op : SpanOp) : ∃ l, s.spanOut key num op = { s with linkOut := l } := by
  unfold State.spanOut
  split
  · dsimp only
    split
    · exact ⟨_, rfl⟩
    · exact ⟨s.linkOut, rfl⟩
  · exact ⟨s.linkOut, rfl⟩

/-- A read of a record asks other devices, and leaves the rest. -/
theorem fetchFar_frame (s : State) (root addr n : Nat) :
    ∃ l k, s.fetchFar root addr n = { s with linkOut := l, nextNum := k } := by
  unfold State.fetchFar
  refine foldl_inv (fun t => ∃ l k, t = { s with linkOut := l, nextNum := k }) _ _ ?_ s ⟨s.linkOut, s.nextNum, rfl⟩
  rintro _ r ⟨l, k, rfl⟩
  obtain ⟨l', h⟩ := spanOut_frame { s with linkOut := l, nextNum := k } r.1 k (.load r.2)
  exact ⟨l', k + 1, by rw [h]⟩

/-- A release at a narrow scope changes the standing releases and the reads that may matter to them, and nothing else. -/
theorem noteRelease_frame (s : State) (id : CtxId) (v : ScopeSet) (writes : List Nat) :
    ∃ l m, s.noteRelease id v writes = { s with releases := l, seen := m } := by
  unfold State.noteRelease
  dsimp only
  split
  · exact ⟨s.releases, s.seen, rfl⟩
  · exact ⟨_, _, rfl⟩

/-- A failure that a core reports changes no launch but in what the dispatcher is to meet. -/
theorem reportFailure_frame (s : State) (n status : Nat) : ∃ l, s.reportFailure n status = { s with launches := l } := ⟨_, rfl⟩

/-- An order to leave changes the workgroups alone. -/
theorem orderOff_frame (s : State) (wg : Nat) : ∃ l, s.orderOff wg = { s with wgs := l } := ⟨_, rfl⟩

end Sys2Proof.Machine
end

