-- ==== Sys2Proof/Laws/Cores.lean ====
section
/-!
SUPPORT. Sys2Proof/Laws/Cores.lean: tables, cores, and what leaves an L1.
-/
namespace Sys2Proof.Machine

theorem Table.find_set {α : Type} (t : Table α) (k : Nat) (v : α) (m : Nat) :
    Table.find (Table.set t k v) m = if m = k then some v else Table.find t m := by
  induction t with
  | nil => simp only [Table.set, Table.find, eq_comm]
  | cons e t ih =>
    obtain ⟨a, w⟩ := e
    simp only [Table.set]
    split
    · simp only [Table.find, eq_comm]
    · split
      · rename_i h; subst h
        simp only [Table.find]
        by_cases hm : m = k
        · simp [hm]
        · simp [hm, Ne.symm hm]
      · simp only [Table.find, ih]
        split
        · rename_i h1 h2 h3; subst h3; simp [Ne.symm h2]
        · rfl

theorem core_onCore (s : State) (n : Nat) (g : Core → Core) (m : Nat) :
    (s.onCore n g).core m = if m = n then g (s.core n) else s.core m := by
  show Table.get (Table.set s.cores n (g (s.core n))) Core.init m = _
  unfold Table.get
  rw [Table.find_set]
  split <;> rfl

theorem core_absent {s : State} {n : Nat} (h : (Table.find s.cores n).isSome = false) : s.core n = Core.init := by
  unfold State.core Table.get
  cases hf : Table.find s.cores n <;> simp_all

theorem dropL1_l1 (s : State) (core k n : Nat) :
    ((s.dropL1 core k n).core core).l1 = (s.core core).l1.filter (fun l => !overlaps k n l.key 64) := by
  unfold State.dropL1
  split
  · rw [core_onCore, if_pos rfl]
  · rename_i h; rw [core_absent (by simpa using h)]; rfl

theorem flushL1_l1 (s : State) (core : Nat) : ((s.flushL1 core).core core).l1 = [] := by
  unfold State.flushL1
  split
  · rw [core_onCore, if_pos rfl]
  · rename_i h; rw [core_absent (by simpa using h)]; rfl

theorem dropRanges_l1 (l : List (Nat × Nat)) (s : State) (core : Nat) :
    ((s.dropRanges core l).core core).l1 = (s.core core).l1.filter (fun e => l.all (fun r => !overlaps r.1 r.2 e.key 64)) := by
  unfold State.dropRanges
  induction l generalizing s with
  | nil => simp
  | cons r l ih => rw [List.foldl_cons, ih, dropL1_l1, List.filter_filter]; congr 1; funext e; simp [Bool.and_comm]

theorem dropL1_frame (s : State) (core k n : Nat) : ∃ cs, s.dropL1 core k n = { s with cores := cs } := by
  unfold State.dropL1 State.onCore; split
  · exact ⟨_, rfl⟩
  · exact ⟨s.cores, rfl⟩
theorem dropRanges_frame (l : List (Nat × Nat)) (s : State) (core : Nat) : ∃ cs, s.dropRanges core l = { s with cores := cs } := by
  unfold State.dropRanges
  induction l generalizing s with
  | nil => exact ⟨s.cores, rfl⟩
  | cons r l ih =>
    obtain ⟨cs, h⟩ := dropL1_frame s core r.1 r.2
    obtain ⟨cs', h'⟩ := ih (s.dropL1 core r.1 r.2)
    exact ⟨cs', by rw [List.foldl_cons, h', h]⟩
theorem flushL1_frame (s : State) (core : Nat) : ∃ cs, s.flushL1 core = { s with cores := cs } := by
  unfold State.flushL1 State.onCore; split
  · exact ⟨_, rfl⟩
  · exact ⟨s.cores, rfl⟩
theorem faultsOut_onCore_l1 {s : State} {core k n m : Nat} : ((s.dropL1 core k n).core m).faultsOut = (s.core m).faultsOut := by
  unfold State.dropL1
  split
  · rw [core_onCore]; split
    · subst_vars; rfl
    · rfl
  · rfl
theorem faultsOut_ranges {s : State} {core m : Nat} {l} : ((s.dropRanges core l).core m).faultsOut = (s.core m).faultsOut := by
  unfold State.dropRanges
  induction l generalizing s with
  | nil => rfl
  | cons r l ih => rw [List.foldl_cons, ih, faultsOut_onCore_l1]
theorem faultsOut_flush {s : State} {core m : Nat} : ((s.flushL1 core).core m).faultsOut = (s.core m).faultsOut := by
  unfold State.flushL1
  split
  · rw [core_onCore]; split
    · subst_vars; rfl
    · rfl
  · rfl
theorem replayDone_none {s : State} {core : Nat} {id : CtxId} {num : Nat} (h : (s.core core).faultsOut.isEmpty = true) :
    s.replayDone core id num = s := by
  unfold State.replayDone; rw [if_pos h]

end Sys2Proof.Machine
end

