-- ==== Sys2Proof/Laws/Encoding.lean ====
section
/-!
SUPPORT. Sys2Proof/Laws/Encoding.lean: a packed word gives back the fields that were packed, format by format.
-/
namespace Sys2Proof

/-- A bit of a concatenation whose width is written as one number. -/
theorem getLsbD_concat {n m k : Nat} (x : BitVec n) (y : BitVec m) (z : BitVec k) (h : k = n + m)
    (hz : z = (x ++ y).cast h.symm) (i : Nat) :
    z.getLsbD i = if i < m then y.getLsbD i else x.getLsbD (i - m) := by
  subst hz
  simp [BitVec.getLsbD_append]

theorem sub_lt_pos {i a b : Nat} (h : 0 < b) : i - a < b ↔ i < a + b := by omega

theorem headBits_bit (b : BitVec 1) (o : BitVec 6) (i : Nat) :
    (headBits b o).getLsbD i = if i < 6 then o.getLsbD i else b.getLsbD (i - 6) :=
  getLsbD_concat b o (headBits b o) rfl rfl i

theorem packLA_bit (o : BitVec 6) (f : LA) (i : Nat) :
    (packLA o f).getLsbD i =
    if i < 3 then f.g.getLsbD i
    else if i < 4 then f.gn.getLsbD (i - 3)
    else if i < 7 then f.t.getLsbD (i - 4)
    else if i < 13 then f.b.getLsbD (i - 7)
    else if i < 19 then f.a.getLsbD (i - 13)
    else if i < 25 then f.d.getLsbD (i - 19)
    else if i < 31 then o.getLsbD (i - 25)
    else BitVec.getLsbD (0 : BitVec 1) (i - 31) := by
  rw [getLsbD_concat (headBits 0 o ++ f.d ++ f.a ++ f.b ++ f.t ++ f.gn) f.g (packLA o f) rfl rfl]
  rw [getLsbD_concat (headBits 0 o ++ f.d ++ f.a ++ f.b ++ f.t) f.gn (headBits 0 o ++ f.d ++ f.a ++ f.b ++ f.t ++ f.gn) rfl rfl]
  rw [getLsbD_concat (headBits 0 o ++ f.d ++ f.a ++ f.b) f.t (headBits 0 o ++ f.d ++ f.a ++ f.b ++ f.t) rfl rfl]
  rw [getLsbD_concat (headBits 0 o ++ f.d ++ f.a) f.b (headBits 0 o ++ f.d ++ f.a ++ f.b) rfl rfl]
  rw [getLsbD_concat (headBits 0 o ++ f.d) f.a (headBits 0 o ++ f.d ++ f.a) rfl rfl]
  rw [getLsbD_concat (headBits 0 o) f.d (headBits 0 o ++ f.d) rfl rfl]
  simp only [headBits_bit, Nat.sub_sub, sub_lt_pos, Nat.reduceAdd, Nat.reduceLT]

theorem setOf_packLA (o : BitVec 6) (f : LA) : setOf (packLA o f) = 0 := by
  apply BitVec.eq_of_getLsbD_eq
  intro i hi
  have : i = 0 := by omega
  subst this
  rw [setOf, field, BitVec.getLsbD_extractLsb', packLA_bit]
  rfl

theorem opcOf_packLA (o : BitVec 6) (f : LA) : opcOf (packLA o f) = o := by
  apply BitVec.eq_of_getLsbD_eq
  intro i hi
  rw [opcOf, field, BitVec.getLsbD_extractLsb', packLA_bit]
  simp only [hi, decide_true, Bool.true_and]
  simp (disch := omega) only [if_pos, if_neg]
  congr 1
  omega

theorem laOf_packLA (o : BitVec 6) (f : LA) : laOf (packLA o f) = f := by
  cases f
  simp only [laOf, field, LA.mk.injEq]
  refine ⟨?_, ?_, ?_, ?_, ?_, ?_⟩ <;>
    (apply BitVec.eq_of_getLsbD_eq
     intro i hi
     rw [BitVec.getLsbD_extractLsb', packLA_bit]
     simp only [hi, decide_true, Bool.true_and]
     simp (disch := omega) only [if_pos, if_neg]
     congr 1
     omega)

theorem packLI_bit (o : BitVec 6) (f : LI) (i : Nat) :
    (packLI o f).getLsbD i =
    if i < 3 then f.g.getLsbD i
    else if i < 4 then f.gn.getLsbD (i - 3)
    else if i < 13 then f.imm.getLsbD (i - 4)
    else if i < 19 then f.a.getLsbD (i - 13)
    else if i < 25 then f.d.getLsbD (i - 19)
    else if i < 31 then o.getLsbD (i - 25)
    else BitVec.getLsbD (0 : BitVec 1) (i - 31) := by
  rw [getLsbD_concat (headBits 0 o ++ f.d ++ f.a ++ f.imm ++ f.gn) f.g (packLI o f) rfl rfl]
  rw [getLsbD_concat (headBits 0 o ++ f.d ++ f.a ++ f.imm) f.gn (headBits 0 o ++ f.d ++ f.a ++ f.imm ++ f.gn) rfl rfl]
  rw [getLsbD_concat (headBits 0 o ++ f.d ++ f.a) f.imm (headBits 0 o ++ f.d ++ f.a ++ f.imm) rfl rfl]
  rw [getLsbD_concat (headBits 0 o ++ f.d) f.a (headBits 0 o ++ f.d ++ f.a) rfl rfl]
  rw [getLsbD_concat (headBits 0 o) f.d (headBits 0 o ++ f.d) rfl rfl]
  simp only [headBits_bit, Nat.sub_sub, sub_lt_pos, Nat.reduceAdd, Nat.reduceLT]

theorem setOf_packLI (o : BitVec 6) (f : LI) : setOf (packLI o f) = 0 := by
  apply BitVec.eq_of_getLsbD_eq
  intro i hi
  have : i = 0 := by omega
  subst this
  rw [setOf, field, BitVec.getLsbD_extractLsb', packLI_bit]
  rfl

theorem opcOf_packLI (o : BitVec 6) (f : LI) : opcOf (packLI o f) = o := by
  apply BitVec.eq_of_getLsbD_eq
  intro i hi
  rw [opcOf, field, BitVec.getLsbD_extractLsb', packLI_bit]
  simp only [hi, decide_true, Bool.true_and]
  simp (disch := omega) only [if_pos, if_neg]
  congr 1
  omega

theorem liOf_packLI (o : BitVec 6) (f : LI) : liOf (packLI o f) = f := by
  cases f
  simp only [liOf, field, LI.mk.injEq]
  refine ⟨?_, ?_, ?_, ?_, ?_⟩ <;>
    (apply BitVec.eq_of_getLsbD_eq
     intro i hi
     rw [BitVec.getLsbD_extractLsb', packLI_bit]
     simp only [hi, decide_true, Bool.true_and]
     simp (disch := omega) only [if_pos, if_neg]
     congr 1
     omega)

theorem packLX_bit (o : BitVec 6) (f : LX) (i : Nat) :
    (packLX o f).getLsbD i =
    if i < 3 then f.g.getLsbD i
    else if i < 7 then f.l.getLsbD (i - 3)
    else if i < 13 then f.b.getLsbD (i - 7)
    else if i < 19 then f.a.getLsbD (i - 13)
    else if i < 25 then f.d.getLsbD (i - 19)
    else if i < 31 then o.getLsbD (i - 25)
    else BitVec.getLsbD (0 : BitVec 1) (i - 31) := by
  rw [getLsbD_concat (headBits 0 o ++ f.d ++ f.a ++ f.b ++ f.l) f.g (packLX o f) rfl rfl]
  rw [getLsbD_concat (headBits 0 o ++ f.d ++ f.a ++ f.b) f.l (headBits 0 o ++ f.d ++ f.a ++ f.b ++ f.l) rfl rfl]
  rw [getLsbD_concat (headBits 0 o ++ f.d ++ f.a) f.b (headBits 0 o ++ f.d ++ f.a ++ f.b) rfl rfl]
  rw [getLsbD_concat (headBits 0 o ++ f.d) f.a (headBits 0 o ++ f.d ++ f.a) rfl rfl]
  rw [getLsbD_concat (headBits 0 o) f.d (headBits 0 o ++ f.d) rfl rfl]
  simp only [headBits_bit, Nat.sub_sub, sub_lt_pos, Nat.reduceAdd, Nat.reduceLT]

theorem setOf_packLX (o : BitVec 6) (f : LX) : setOf (packLX o f) = 0 := by
  apply BitVec.eq_of_getLsbD_eq
  intro i hi
  have : i = 0 := by omega
  subst this
  rw [setOf, field, BitVec.getLsbD_extractLsb', packLX_bit]
  rfl

theorem opcOf_packLX (o : BitVec 6) (f : LX) : opcOf (packLX o f) = o := by
  apply BitVec.eq_of_getLsbD_eq
  intro i hi
  rw [opcOf, field, BitVec.getLsbD_extractLsb', packLX_bit]
  simp only [hi, decide_true, Bool.true_and]
  simp (disch := omega) only [if_pos, if_neg]
  congr 1
  omega

theorem lxOf_packLX (o : BitVec 6) (f : LX) : lxOf (packLX o f) = f := by
  cases f
  simp only [lxOf, field, LX.mk.injEq]
  refine ⟨?_, ?_, ?_, ?_, ?_⟩ <;>
    (apply BitVec.eq_of_getLsbD_eq
     intro i hi
     rw [BitVec.getLsbD_extractLsb', packLX_bit]
     simp only [hi, decide_true, Bool.true_and]
     simp (disch := omega) only [if_pos, if_neg]
     congr 1
     omega)

theorem packLXA_bit (o : BitVec 6) (f : LXA) (i : Nat) :
    (packLXA o f).getLsbD i =
    if i < 3 then f.op.getLsbD i
    else if i < 7 then f.l.getLsbD (i - 3)
    else if i < 13 then f.b.getLsbD (i - 7)
    else if i < 19 then f.a.getLsbD (i - 13)
    else if i < 25 then f.d.getLsbD (i - 19)
    else if i < 31 then o.getLsbD (i - 25)
    else BitVec.getLsbD (0 : BitVec 1) (i - 31) := by
  rw [getLsbD_concat (headBits 0 o ++ f.d ++ f.a ++ f.b ++ f.l) f.op (packLXA o f) rfl rfl]
  rw [getLsbD_concat (headBits 0 o ++ f.d ++ f.a ++ f.b) f.l (headBits 0 o ++ f.d ++ f.a ++ f.b ++ f.l) rfl rfl]
  rw [getLsbD_concat (headBits 0 o ++ f.d ++ f.a) f.b (headBits 0 o ++ f.d ++ f.a ++ f.b) rfl rfl]
  rw [getLsbD_concat (headBits 0 o ++ f.d) f.a (headBits 0 o ++ f.d ++ f.a) rfl rfl]
  rw [getLsbD_concat (headBits 0 o) f.d (headBits 0 o ++ f.d) rfl rfl]
  simp only [headBits_bit, Nat.sub_sub, sub_lt_pos, Nat.reduceAdd, Nat.reduceLT]

theorem setOf_packLXA (o : BitVec 6) (f : LXA) : setOf (packLXA o f) = 0 := by
  apply BitVec.eq_of_getLsbD_eq
  intro i hi
  have : i = 0 := by omega
  subst this
  rw [setOf, field, BitVec.getLsbD_extractLsb', packLXA_bit]
  rfl

theorem opcOf_packLXA (o : BitVec 6) (f : LXA) : opcOf (packLXA o f) = o := by
  apply BitVec.eq_of_getLsbD_eq
  intro i hi
  rw [opcOf, field, BitVec.getLsbD_extractLsb', packLXA_bit]
  simp only [hi, decide_true, Bool.true_and]
  simp (disch := omega) only [if_pos, if_neg]
  congr 1
  omega

theorem lxaOf_packLXA (o : BitVec 6) (f : LXA) : lxaOf (packLXA o f) = f := by
  cases f
  simp only [lxaOf, field, LXA.mk.injEq]
  refine ⟨?_, ?_, ?_, ?_, ?_⟩ <;>
    (apply BitVec.eq_of_getLsbD_eq
     intro i hi
     rw [BitVec.getLsbD_extractLsb', packLXA_bit]
     simp only [hi, decide_true, Bool.true_and]
     simp (disch := omega) only [if_pos, if_neg]
     congr 1
     omega)

theorem packLM_bit (o : BitVec 6) (f : LM) (i : Nat) :
    (packLM o f).getLsbD i =
    if i < 3 then f.g.getLsbD i
    else if i < 4 then f.sx.getLsbD (i - 3)
    else if i < 6 then f.sp.getLsbD (i - 4)
    else if i < 9 then f.w.getLsbD (i - 6)
    else if i < 13 then f.l.getLsbD (i - 9)
    else if i < 19 then f.a.getLsbD (i - 13)
    else if i < 25 then f.d.getLsbD (i - 19)
    else if i < 31 then o.getLsbD (i - 25)
    else BitVec.getLsbD (0 : BitVec 1) (i - 31) := by
  rw [getLsbD_concat (headBits 0 o ++ f.d ++ f.a ++ f.l ++ f.w ++ f.sp ++ f.sx) f.g (packLM o f) rfl rfl]
  rw [getLsbD_concat (headBits 0 o ++ f.d ++ f.a ++ f.l ++ f.w ++ f.sp) f.sx (headBits 0 o ++ f.d ++ f.a ++ f.l ++ f.w ++ f.sp ++ f.sx) rfl rfl]
  rw [getLsbD_concat (headBits 0 o ++ f.d ++ f.a ++ f.l ++ f.w) f.sp (headBits 0 o ++ f.d ++ f.a ++ f.l ++ f.w ++ f.sp) rfl rfl]
  rw [getLsbD_concat (headBits 0 o ++ f.d ++ f.a ++ f.l) f.w (headBits 0 o ++ f.d ++ f.a ++ f.l ++ f.w) rfl rfl]
  rw [getLsbD_concat (headBits 0 o ++ f.d ++ f.a) f.l (headBits 0 o ++ f.d ++ f.a ++ f.l) rfl rfl]
  rw [getLsbD_concat (headBits 0 o ++ f.d) f.a (headBits 0 o ++ f.d ++ f.a) rfl rfl]
  rw [getLsbD_concat (headBits 0 o) f.d (headBits 0 o ++ f.d) rfl rfl]
  simp only [headBits_bit, Nat.sub_sub, sub_lt_pos, Nat.reduceAdd, Nat.reduceLT]

theorem setOf_packLM (o : BitVec 6) (f : LM) : setOf (packLM o f) = 0 := by
  apply BitVec.eq_of_getLsbD_eq
  intro i hi
  have : i = 0 := by omega
  subst this
  rw [setOf, field, BitVec.getLsbD_extractLsb', packLM_bit]
  rfl

theorem opcOf_packLM (o : BitVec 6) (f : LM) : opcOf (packLM o f) = o := by
  apply BitVec.eq_of_getLsbD_eq
  intro i hi
  rw [opcOf, field, BitVec.getLsbD_extractLsb', packLM_bit]
  simp only [hi, decide_true, Bool.true_and]
  simp (disch := omega) only [if_pos, if_neg]
  congr 1
  omega

theorem lmOf_packLM (o : BitVec 6) (f : LM) : lmOf (packLM o f) = f := by
  cases f
  simp only [lmOf, field, LM.mk.injEq]
  refine ⟨?_, ?_, ?_, ?_, ?_, ?_, ?_⟩ <;>
    (apply BitVec.eq_of_getLsbD_eq
     intro i hi
     rw [BitVec.getLsbD_extractLsb', packLM_bit]
     simp only [hi, decide_true, Bool.true_and]
     simp (disch := omega) only [if_pos, if_neg]
     congr 1
     omega)

theorem packLB_bit (o : BitVec 6) (f : LB) (i : Nat) :
    (packLB o f).getLsbD i =
    if i < 3 then f.g.getLsbD i
    else if i < 25 then f.off.getLsbD (i - 3)
    else if i < 31 then o.getLsbD (i - 25)
    else BitVec.getLsbD (0 : BitVec 1) (i - 31) := by
  rw [getLsbD_concat (headBits 0 o ++ f.off) f.g (packLB o f) rfl rfl]
  rw [getLsbD_concat (headBits 0 o) f.off (headBits 0 o ++ f.off) rfl rfl]
  simp only [headBits_bit, Nat.sub_sub, sub_lt_pos, Nat.reduceAdd, Nat.reduceLT]

theorem setOf_packLB (o : BitVec 6) (f : LB) : setOf (packLB o f) = 0 := by
  apply BitVec.eq_of_getLsbD_eq
  intro i hi
  have : i = 0 := by omega
  subst this
  rw [setOf, field, BitVec.getLsbD_extractLsb', packLB_bit]
  rfl

theorem opcOf_packLB (o : BitVec 6) (f : LB) : opcOf (packLB o f) = o := by
  apply BitVec.eq_of_getLsbD_eq
  intro i hi
  rw [opcOf, field, BitVec.getLsbD_extractLsb', packLB_bit]
  simp only [hi, decide_true, Bool.true_and]
  simp (disch := omega) only [if_pos, if_neg]
  congr 1
  omega

theorem lbOf_packLB (o : BitVec 6) (f : LB) : lbOf (packLB o f) = f := by
  cases f
  simp only [lbOf, field, LB.mk.injEq]
  refine ⟨?_, ?_⟩ <;>
    (apply BitVec.eq_of_getLsbD_eq
     intro i hi
     rw [BitVec.getLsbD_extractLsb', packLB_bit]
     simp only [hi, decide_true, Bool.true_and]
     simp (disch := omega) only [if_pos, if_neg]
     congr 1
     omega)

theorem packSA_bit (o : BitVec 6) (f : SA) (i : Nat) :
    (packSA o f).getLsbD i =
    if i < 4 then f.l.getLsbD i
    else if i < 7 then f.fn.getLsbD (i - 4)
    else if i < 13 then f.b.getLsbD (i - 7)
    else if i < 19 then f.a.getLsbD (i - 13)
    else if i < 25 then f.d.getLsbD (i - 19)
    else if i < 31 then o.getLsbD (i - 25)
    else BitVec.getLsbD (1 : BitVec 1) (i - 31) := by
  rw [getLsbD_concat (headBits 1 o ++ f.d ++ f.a ++ f.b ++ f.fn) f.l (packSA o f) rfl rfl]
  rw [getLsbD_concat (headBits 1 o ++ f.d ++ f.a ++ f.b) f.fn (headBits 1 o ++ f.d ++ f.a ++ f.b ++ f.fn) rfl rfl]
  rw [getLsbD_concat (headBits 1 o ++ f.d ++ f.a) f.b (headBits 1 o ++ f.d ++ f.a ++ f.b) rfl rfl]
  rw [getLsbD_concat (headBits 1 o ++ f.d) f.a (headBits 1 o ++ f.d ++ f.a) rfl rfl]
  rw [getLsbD_concat (headBits 1 o) f.d (headBits 1 o ++ f.d) rfl rfl]
  simp only [headBits_bit, Nat.sub_sub, sub_lt_pos, Nat.reduceAdd, Nat.reduceLT]

theorem setOf_packSA (o : BitVec 6) (f : SA) : setOf (packSA o f) = 1 := by
  apply BitVec.eq_of_getLsbD_eq
  intro i hi
  have : i = 0 := by omega
  subst this
  rw [setOf, field, BitVec.getLsbD_extractLsb', packSA_bit]
  rfl

theorem opcOf_packSA (o : BitVec 6) (f : SA) : opcOf (packSA o f) = o := by
  apply BitVec.eq_of_getLsbD_eq
  intro i hi
  rw [opcOf, field, BitVec.getLsbD_extractLsb', packSA_bit]
  simp only [hi, decide_true, Bool.true_and]
  simp (disch := omega) only [if_pos, if_neg]
  congr 1
  omega

theorem saOf_packSA (o : BitVec 6) (f : SA) : saOf (packSA o f) = f := by
  cases f
  simp only [saOf, field, SA.mk.injEq]
  refine ⟨?_, ?_, ?_, ?_, ?_⟩ <;>
    (apply BitVec.eq_of_getLsbD_eq
     intro i hi
     rw [BitVec.getLsbD_extractLsb', packSA_bit]
     simp only [hi, decide_true, Bool.true_and]
     simp (disch := omega) only [if_pos, if_neg]
     congr 1
     omega)

theorem packSI_bit (o : BitVec 6) (f : SI) (i : Nat) :
    (packSI o f).getLsbD i =
    if i < 13 then f.imm.getLsbD i
    else if i < 19 then f.a.getLsbD (i - 13)
    else if i < 25 then f.d.getLsbD (i - 19)
    else if i < 31 then o.getLsbD (i - 25)
    else BitVec.getLsbD (1 : BitVec 1) (i - 31) := by
  rw [getLsbD_concat (headBits 1 o ++ f.d ++ f.a) f.imm (packSI o f) rfl rfl]
  rw [getLsbD_concat (headBits 1 o ++ f.d) f.a (headBits 1 o ++ f.d ++ f.a) rfl rfl]
  rw [getLsbD_concat (headBits 1 o) f.d (headBits 1 o ++ f.d) rfl rfl]
  simp only [headBits_bit, Nat.sub_sub, sub_lt_pos, Nat.reduceAdd, Nat.reduceLT]

theorem setOf_packSI (o : BitVec 6) (f : SI) : setOf (packSI o f) = 1 := by
  apply BitVec.eq_of_getLsbD_eq
  intro i hi
  have : i = 0 := by omega
  subst this
  rw [setOf, field, BitVec.getLsbD_extractLsb', packSI_bit]
  rfl

theorem opcOf_packSI (o : BitVec 6) (f : SI) : opcOf (packSI o f) = o := by
  apply BitVec.eq_of_getLsbD_eq
  intro i hi
  rw [opcOf, field, BitVec.getLsbD_extractLsb', packSI_bit]
  simp only [hi, decide_true, Bool.true_and]
  simp (disch := omega) only [if_pos, if_neg]
  congr 1
  omega

theorem siOf_packSI (o : BitVec 6) (f : SI) : siOf (packSI o f) = f := by
  cases f
  simp only [siOf, field, SI.mk.injEq]
  refine ⟨?_, ?_, ?_⟩ <;>
    (apply BitVec.eq_of_getLsbD_eq
     intro i hi
     rw [BitVec.getLsbD_extractLsb', packSI_bit]
     simp only [hi, decide_true, Bool.true_and]
     simp (disch := omega) only [if_pos, if_neg]
     congr 1
     omega)

theorem packSW_bit (o : BitVec 6) (f : SW) (i : Nat) :
    (packSW o f).getLsbD i =
    if i < 19 then f.imm.getLsbD i
    else if i < 25 then f.d.getLsbD (i - 19)
    else if i < 31 then o.getLsbD (i - 25)
    else BitVec.getLsbD (1 : BitVec 1) (i - 31) := by
  rw [getLsbD_concat (headBits 1 o ++ f.d) f.imm (packSW o f) rfl rfl]
  rw [getLsbD_concat (headBits 1 o) f.d (headBits 1 o ++ f.d) rfl rfl]
  simp only [headBits_bit, Nat.sub_sub, sub_lt_pos, Nat.reduceAdd, Nat.reduceLT]

theorem setOf_packSW (o : BitVec 6) (f : SW) : setOf (packSW o f) = 1 := by
  apply BitVec.eq_of_getLsbD_eq
  intro i hi
  have : i = 0 := by omega
  subst this
  rw [setOf, field, BitVec.getLsbD_extractLsb', packSW_bit]
  rfl

theorem opcOf_packSW (o : BitVec 6) (f : SW) : opcOf (packSW o f) = o := by
  apply BitVec.eq_of_getLsbD_eq
  intro i hi
  rw [opcOf, field, BitVec.getLsbD_extractLsb', packSW_bit]
  simp only [hi, decide_true, Bool.true_and]
  simp (disch := omega) only [if_pos, if_neg]
  congr 1
  omega

theorem swOf_packSW (o : BitVec 6) (f : SW) : swOf (packSW o f) = f := by
  cases f
  simp only [swOf, field, SW.mk.injEq]
  refine ⟨?_, ?_⟩ <;>
    (apply BitVec.eq_of_getLsbD_eq
     intro i hi
     rw [BitVec.getLsbD_extractLsb', packSW_bit]
     simp only [hi, decide_true, Bool.true_and]
     simp (disch := omega) only [if_pos, if_neg]
     congr 1
     omega)

theorem packSB_bit (o : BitVec 6) (f : SB) (i : Nat) :
    (packSB o f).getLsbD i =
    if i < 19 then f.off.getLsbD i
    else if i < 25 then f.a.getLsbD (i - 19)
    else if i < 31 then o.getLsbD (i - 25)
    else BitVec.getLsbD (1 : BitVec 1) (i - 31) := by
  rw [getLsbD_concat (headBits 1 o ++ f.a) f.off (packSB o f) rfl rfl]
  rw [getLsbD_concat (headBits 1 o) f.a (headBits 1 o ++ f.a) rfl rfl]
  simp only [headBits_bit, Nat.sub_sub, sub_lt_pos, Nat.reduceAdd, Nat.reduceLT]

theorem setOf_packSB (o : BitVec 6) (f : SB) : setOf (packSB o f) = 1 := by
  apply BitVec.eq_of_getLsbD_eq
  intro i hi
  have : i = 0 := by omega
  subst this
  rw [setOf, field, BitVec.getLsbD_extractLsb', packSB_bit]
  rfl

theorem opcOf_packSB (o : BitVec 6) (f : SB) : opcOf (packSB o f) = o := by
  apply BitVec.eq_of_getLsbD_eq
  intro i hi
  rw [opcOf, field, BitVec.getLsbD_extractLsb', packSB_bit]
  simp only [hi, decide_true, Bool.true_and]
  simp (disch := omega) only [if_pos, if_neg]
  congr 1
  omega

theorem sbOf_packSB (o : BitVec 6) (f : SB) : sbOf (packSB o f) = f := by
  cases f
  simp only [sbOf, field, SB.mk.injEq]
  refine ⟨?_, ?_⟩ <;>
    (apply BitVec.eq_of_getLsbD_eq
     intro i hi
     rw [BitVec.getLsbD_extractLsb', packSB_bit]
     simp only [hi, decide_true, Bool.true_and]
     simp (disch := omega) only [if_pos, if_neg]
     congr 1
     omega)

end Sys2Proof
end

