-- ==== Sys2Proof/Laws/Views.lean ====
section
/-!
SUPPORT. Sys2Proof/Laws/Views.lean: elements of registers: reading back what was packed, and integer fits.
-/
namespace Sys2Proof.Machine

theorem elemAt_lt (w x i : Nat) : elemAt w x i < 2 ^ w := Nat.mod_lt _ (Nat.two_pow_pos w)

/-- An element of a number packed from elements. -/
theorem elemAt_packNat (w : Nat) : ∀ (es : List Nat) (j : Nat), elemAt w (packNat w es) j = es.getD j 0 % 2 ^ w
  | [], j => by simp [packNat, elemAt]
  | e :: es, 0 => by simp [packNat, elemAt]
  | e :: es, j + 1 => by
    have h : (e % 2 ^ w + 2 ^ w * packNat w es) / 2 ^ w = packNat w es := by
      rw [Nat.add_mul_div_left _ _ (Nat.two_pow_pos w), Nat.div_eq_of_lt (Nat.mod_lt _ (Nat.two_pow_pos w)), Nat.zero_add]
    rw [packNat, elemAt, Nat.succ_mul, Nat.add_comm (j * w), Nat.pow_add, ← Nat.div_div_eq_div_mul, h, ← elemAt,
      elemAt_packNat w es j]
    rfl

/-- An element that lies inside 64 bits is that of the number reduced to a register. -/
theorem elemAt_mod64 {w j : Nat} (h : (j + 1) * w ≤ 64) (x : Nat) : elemAt w (x % 2 ^ 64) j = elemAt w x j := by
  rw [Nat.succ_mul] at h
  unfold elemAt
  have e : (2 : Nat) ^ 64 = 2 ^ (j * w) * 2 ^ (64 - j * w) := by rw [← Nat.pow_add]; congr 1; omega
  rw [e, Nat.mod_mul_right_div_self, Nat.mod_mod_of_dvd]
  exact Nat.pow_dvd_pow 2 (by omega)

theorem place_le {w j : Nat} (h : j < 64 / w) : (j + 1) * w ≤ 64 :=
  Nat.le_trans (Nat.mul_le_mul_right w h) (Nat.div_mul_le_self 64 w)

/-- An element of a register packed from elements. -/
theorem elemAt_packElems {w j : Nat} (h : j < 64 / w) (es : List Nat) :
    elemAt w (packElems w es).toNat j = es.getD j 0 % 2 ^ w := by
  rw [packElems, BitVec.toNat_ofNat, elemAt_mod64 (place_le h), elemAt_packNat]

theorem elemsFrom_length (w x : Nat) : ∀ n i, (elemsFrom w x i n).length = n
  | 0, _ => rfl
  | n + 1, i => by rw [elemsFrom, List.length_cons, elemsFrom_length w x n]

theorem elemsFrom_getElem? (w x : Nat) : ∀ n i j, (elemsFrom w x i n)[j]? = if j < n then some (elemAt w x (i + j)) else none
  | 0, _, _ => by simp [elemsFrom]
  | n + 1, i, 0 => by simp [elemsFrom]
  | n + 1, i, j + 1 => by
    rw [elemsFrom, List.getElem?_cons_succ, elemsFrom_getElem? w x n]
    simp only [Nat.add_lt_add_iff_right, Nat.add_right_comm i 1 j, Nat.add_assoc]

/-- An element of an element-wise function of two registers. -/
theorem elemAt_zipElems {w j : Nat} (h : j < 64 / w) (f : Nat → Nat → Nat) (a b : Word) :
    elemAt w (zipElems w f a b).toNat j = f (elemAt w a.toNat j) (elemAt w b.toNat j) % 2 ^ w := by
  rw [zipElems, elemAt_packElems h]
  simp [List.getD_eq_getElem?_getD, List.getElem?_zipWith, elems, elemsFrom_getElem?, h]

/-- An element of an element-wise function of one register. -/
theorem elemAt_mapElems {w j : Nat} (h : j < 64 / w) (f : Nat → Nat) (a : Word) :
    elemAt w (mapElems w f a).toNat j = f (elemAt w a.toNat j) % 2 ^ w := by
  rw [mapElems, elemAt_packElems h]
  simp [List.getD_eq_getElem?_getD, elems, elemsFrom_getElem?, h]

theorem wrapTo_lt (w : Nat) (z : Int) : wrapTo w z < 2 ^ w := by
  have : (0 : Int) < 2 ^ w := by positivity
  have h1 := Int.emod_lt_of_pos z this
  have h2 := Int.emod_nonneg z (ne_of_gt this)
  unfold wrapTo
  zify
  rw [Int.toNat_of_nonneg h2]
  exact h1

theorem viewWidth_pos (t : BitVec 3) : 0 < viewWidth t := by
  unfold viewWidth
  split <;> decide

theorem get_put (r : Regs) (d n : Reg) (x : Word) : (r.put d x).get n = if n = d then x else r.get n := by
  simp only [Regs.get, Regs.put, Vector.getElem_set, BitVec.toNat_inj]
  simp [eq_comm]

end Sys2Proof.Machine
end

