-- ==== Sys2Proof/Laws/LaneValues.lean ====
section
/-!
SUPPORT. Sys2Proof/Laws/LaneValues.lean: the lane instructions that write one value, or round into one register: from
the meaning to the claim that it completes.
-/
namespace Sys2Proof.Machine

theorem warned_get (c : Ctx) (w : BitVec 9) (n : Reg) : (c.warned w).regs.get n = c.regs.get n := rfl

/-- An instruction of the lane ALU pipe that writes one register completes with the value of its meaning. -/
theorem completes_writes {s : State} {i : Instr} {d : Reg} {g : Ctx → Word} {value : Ctx → Word → Prop}
    (he : exec i s = laneAlu i (fun c => c.regs.put d (g c)) s) (hs : s.clear i = true)
    (hg : ∀ c w, g (c.warned w) = g c) (hv : ∀ c, value c (g c)) : Completes s i (Writes s i d value) := by
  refine completes_of_regs he hs (fun _ => rfl) (fun _ => rfl) fun c _ _ => ⟨g c, hv c, ?_⟩
  simp only [Moves, laneActs, LaneDo.regs, State.nextPc, State.recorded, Option.getD_none, List.append_nil, hg]

/-- An instruction of the lane ALU pipe that only changes registers completes with those of its meaning. -/
theorem completes_moves {s : State} {i : Instr} {g : Ctx → Regs} {does : Ctx → Ctx → Prop}
    (he : exec i s = laneAlu i g s) (hs : s.clear i = true)
    (hv : ∀ c c', Moves s c c' (g (c.warned (s.wordWarn i))) → does c c') : Completes s i does := by
  refine completes_of_regs he hs (fun _ => rfl) (fun _ => rfl) fun c _ _ => hv c _ ?_
  simp only [Moves, laneActs, LaneDo.regs, State.nextPc, Option.getD_none, List.append_nil]

/-- A long-latency instruction whose result is computed as it issues completes with that result pending. -/
theorem completes_issues {s : State} {i : Instr} {g : Ctx → Regs} {does : Ctx → Ctx → Prop}
    (he : exec i s = laneLong i g s) (hs : s.clear i = true)
    (hv : ∀ c c', Issues s i (g (c.warned (s.wordWarn i))) .result c c' → does c c') : Completes s i does := by
  refine completes_of_regs he hs (fun _ => rfl) (fun _ => rfl) fun c _ _ => hv c _ ?_
  simp only [Issues, laneActs, LaneDo.regs, State.nextPc, Option.getD_none]

theorem roundDraw_fst (p : Pfx) (r : Regs) : (roundDraw p r).1 = if roundCode p r = 5 then r.draw.1 else 0 := by
  unfold roundDraw
  split <;> rfl

theorem roundDraw_snd (p : Pfx) (r : Regs) :
    (roundDraw p r).2 = { r with rngc := if roundCode p r = 5 then r.rngc + 1 else r.rngc } := by
  unfold roundDraw
  split <;> rfl

/-- What the shared rounding operation leaves of the registers. -/
theorem rounded_of_roundInto {s : State} {i : Instr} {d : Reg} {w : Nat} {out : Ctx → FEnv → Nat → FOut} (c : Ctx) :
    Rounded s i d w out c (roundInto (s.pfx i) (s.recorded i c) d w (out c)) := by
  have hget : (roundInto (s.pfx i) (s.recorded i c) d w (out c)).get d =
      packElems w (((List.range (64 / w)).map (fun j => out c (fenv (s.pfx i) (s.recorded i c)
        (roundDraw (s.pfx i) (s.recorded i c)).1 (64 / w) j) j)).map FOut.bits) := by
    have := get_put (roundDraw (s.pfx i) (s.recorded i c)).2 d d (packElems w (((List.range (64 / w)).map (fun j =>
      out c (fenv (s.pfx i) (s.recorded i c) (roundDraw (s.pfx i) (s.recorded i c)).1 (64 / w) j) j)).map FOut.bits))
    rw [if_pos rfl] at this
    exact this
  refine ⟨fun j hj => ?_, ?_, ?_, ?_⟩
  · rw [hget, elemAt_packElems hj, ← roundDraw_fst]
    simp [List.getD_eq_getElem?_getD, hj]
  · simp only [roundInto, putOuts, roundDraw_fst]
    rw [roundDraw_snd]
  · simp only [roundInto, putOuts, roundDraw_fst]
    rw [roundDraw_snd]
  · rw [hget]
    simp only [roundInto, putOuts, Regs.put, roundDraw_snd]

end Sys2Proof.Machine
end

