-- ==== Sys2Proof/Laws/Memory.lean ====
section
/-!
SUPPORT. Sys2Proof/Laws/Memory.lean: what memory operations do: reading after writing, and the canonical form, which
every one of them keeps.
-/
namespace Sys2Proof.Machine

/-! ### One cell -/

/-- Cells that lie above a bound lie above a lower one. -/
theorem cellsAbove_mono {a b : Nat} (h : b ≤ a) : ∀ {m : List Host.Cell}, cellsAbove (some a) m = true → cellsAbove (some b) m = true
  | [], _ => rfl
  | (k, v) :: m, hm => by
    simp only [cellsAbove, Bool.and_eq_true, decide_eq_true_eq] at hm ⊢
    exact ⟨⟨lt_of_le_of_lt h hm.1.1, hm.1.2⟩, hm.2⟩

theorem cellsAbove_wf {a : Nat} : ∀ {m : List Host.Cell}, cellsAbove (some a) m = true → Memory.wf m = true
  | [], _ => rfl
  | (k, v) :: m, hm => by
    simp only [Memory.wf, cellsAbove, Bool.and_eq_true, decide_eq_true_eq] at hm ⊢
    exact ⟨⟨trivial, hm.1.2⟩, hm.2⟩

/-- Below the first cell of a canonical list every byte is unlisted. -/
theorem cellRead_above {a k : Nat} (h : k ≤ a) : ∀ {m : List Host.Cell}, cellsAbove (some a) m = true → cellRead m k = 0
  | [], _ => rfl
  | (b, v) :: m, hm => by
    simp only [cellsAbove, Bool.and_eq_true, decide_eq_true_eq] at hm
    rw [cellRead, if_neg (by omega)]
    exact cellRead_above (a := b) (by omega) hm.2

theorem cellWrite_above (k : Nat) (v : Byte) : ∀ {m : List Host.Cell} {lo : Nat}, cellsAbove (some lo) m = true → lo < k →
    cellsAbove (some lo) (cellWrite m k v) = true
  | [], lo, _, h => by
    rw [cellWrite]
    split
    · rfl
    · simp [cellsAbove, *]
  | (a, b) :: m, lo, hm, h => by
    have hm' := hm
    simp only [cellsAbove, Bool.and_eq_true, decide_eq_true_eq] at hm
    rw [cellWrite]
    split
    · split
      · exact hm'
      · simp only [cellsAbove, Bool.and_eq_true, decide_eq_true_eq]
        exact ⟨⟨h, by simpa using ‹¬ _›⟩, ⟨‹_›, hm.1.2⟩, hm.2⟩
    · split
      · split
        · exact cellsAbove_mono (by omega) hm.2
        · simp only [cellsAbove, Bool.and_eq_true, decide_eq_true_eq]
          exact ⟨⟨hm.1.1, by simpa using ‹¬ v = _›⟩, hm.2⟩
      · simp only [cellsAbove, Bool.and_eq_true, decide_eq_true_eq]
        exact ⟨hm.1, cellWrite_above k v hm.2 (by omega)⟩

/-- A write keeps the canonical form. -/
theorem wf_cellWrite (m : List Host.Cell) (k : Nat) (v : Byte) (h : Memory.wf m = true) :
    Memory.wf (cellWrite m k v) = true := by
  cases m with
  | nil =>
    rw [cellWrite]
    split
    · rfl
    · simp [Memory.wf, cellsAbove, *]
  | cons c m =>
    obtain ⟨a, b⟩ := c
    have h' := h
    simp only [Memory.wf, cellsAbove, Bool.and_eq_true] at h
    rw [cellWrite]
    split
    · split
      · exact h'
      · simp only [Memory.wf, cellsAbove, Bool.and_eq_true, decide_eq_true_eq]
        exact ⟨⟨trivial, by simpa using ‹¬ _›⟩, ⟨‹_›, h.1.2⟩, h.2⟩
    · split
      · split
        · exact cellsAbove_wf h.2
        · simp only [Memory.wf, cellsAbove, Bool.and_eq_true]
          exact ⟨⟨trivial, by simpa using ‹¬ v = _›⟩, h.2⟩
      · simp only [Memory.wf, cellsAbove, Bool.and_eq_true]
        exact ⟨h.1, cellWrite_above k v h.2 (by omega)⟩

theorem cellRead_cellWrite_above (k : Nat) (v : Byte) (x : Nat) : ∀ {m : List Host.Cell} {lo : Nat},
    cellsAbove (some lo) m = true → cellRead (cellWrite m k v) x = if x = k then v else cellRead m x
  | [], lo, _ => by
    rw [cellWrite]
    split
    · rename_i hv
      by_cases h : x = k <;> simp [cellRead, h, hv]
    · by_cases h : x = k
      · simp [cellRead, h]
      · simp [cellRead, h, Ne.symm h]
  | (a, b) :: m, lo, hm => by
    simp only [cellsAbove, Bool.and_eq_true, decide_eq_true_eq] at hm
    rw [cellWrite]
    split
    · split
      · rename_i hk hv
        by_cases h : x = k
        · rw [if_pos h, h, cellRead, if_neg (by omega), cellRead_above (a := a) (by omega) hm.2, hv]; rfl
        · rw [if_neg h]
      · by_cases h : x = k
        · simp [cellRead, h]
        · rw [cellRead, if_neg (Ne.symm h), if_neg h]
    · split
      · rename_i hk
        split
        · rename_i hv
          by_cases h : x = k
          · rw [if_pos h, h, cellRead_above (a := a) (by omega) hm.2, hv]; rfl
          · rw [if_neg h, cellRead, if_neg (by omega)]
        · by_cases h : x = k
          · simp [cellRead, h, hk]
          · rw [cellRead, if_neg (by omega), if_neg h, cellRead, if_neg (by omega)]
      · rename_i h1 h2
        rw [cellRead, cellRead, cellRead_cellWrite_above k v x hm.2]
        by_cases h : x = k
        · rw [if_neg (by omega), if_pos h, if_pos h]
        · rw [if_neg h, if_neg h]

/-- Reading after a write of one byte. -/
theorem cellRead_cellWrite {m : List Host.Cell} (h : Memory.wf m = true) (k : Nat) (v : Byte) (x : Nat) :
    cellRead (cellWrite m k v) x = if x = k then v else cellRead m x := by
  cases m with
  | nil => exact cellRead_cellWrite_above (lo := 0) k v x rfl
  | cons c m =>
    obtain ⟨a, b⟩ := c
    simp only [Memory.wf, cellsAbove, Bool.and_eq_true] at h
    have hm : cellsAbove (some a) m = true := h.2
    rw [cellWrite]
    split
    · split
      · rename_i hk hv
        by_cases h : x = k
        · rw [if_pos h, h, cellRead, if_neg (by omega), cellRead_above (a := a) (by omega) hm, hv]; rfl
        · rw [if_neg h]
      · by_cases h : x = k
        · simp [cellRead, h]
        · rw [cellRead, if_neg (Ne.symm h), if_neg h]
    · split
      · rename_i hk
        split
        · rename_i hv
          by_cases h : x = k
          · rw [if_pos h, h, cellRead_above (a := a) (by omega) hm, hv]; rfl
          · rw [if_neg h, cellRead, if_neg (by omega)]
        · by_cases h : x = k
          · simp [cellRead, h, hk]
          · rw [cellRead, if_neg (by omega), if_neg h, cellRead, if_neg (by omega)]
      · rename_i h1 h2
        rw [cellRead, cellRead, cellRead_cellWrite_above k v x hm]
        by_cases h : x = k
        · rw [if_neg (by omega), if_pos h, if_pos h]
        · rw [if_neg h, if_neg h]

/-! ### Bytes -/

/-- Bytes written keep the canonical form. -/
theorem wf_cellsWrite (bytes : List Byte) : ∀ (m : List Host.Cell) (k : Nat), Memory.wf m = true →
    Memory.wf (cellsWrite m k bytes) = true := by
  induction bytes with
  | nil => intro m k h; exact h
  | cons b bs ih => intro m k h; exact ih _ _ (wf_cellWrite m k b h)

/-- Reading one byte after bytes were written. -/
theorem cellRead_cellsWrite (bytes : List Byte) : ∀ {m : List Host.Cell}, Memory.wf m = true → ∀ (k a : Nat),
    cellRead (cellsWrite m k bytes) a =
      if k ≤ a ∧ a < k + bytes.length then bytes.getD (a - k) 0 else cellRead m a := by
  induction bytes with
  | nil =>
    intro m h k a
    rw [cellsWrite, if_neg (by simp)]
  | cons b bs ih =>
    intro m h k a
    rw [cellsWrite, ih (wf_cellWrite m k b h), cellRead_cellWrite h]
    simp only [List.length_cons]
    by_cases h1 : k + 1 ≤ a ∧ a < k + 1 + bs.length
    · rw [if_pos h1, if_pos (by omega)]
      obtain ⟨n, rfl⟩ : ∃ n, a = k + 1 + n := ⟨a - (k + 1), by omega⟩
      rw [show k + 1 + n - (k + 1) = n by omega, show k + 1 + n - k = n + 1 by omega]
      simp
    · rw [if_neg h1]
      by_cases h2 : a = k
      · rw [if_pos h2, if_pos (by omega), h2]
        simp
      · rw [if_neg h2, if_neg (by omega)]

theorem cellsRead_length (m : List Host.Cell) : ∀ (n k : Nat), (cellsRead m k n).length = n
  | 0, _ => rfl
  | n + 1, k => by simp [cellsRead, cellsRead_length m n]

theorem cellsRead_getD (m : List Host.Cell) : ∀ (n k j : Nat), j < n → (cellsRead m k n).getD j 0 = cellRead m (k + j)
  | 0, _, _, h => absurd h (Nat.not_lt_zero _)
  | n + 1, k, 0, _ => by simp [cellsRead]
  | n + 1, k, j + 1, h => by
    rw [cellsRead, List.getD_cons_succ, cellsRead_getD m n (k + 1) j (by omega)]
    congr 1
    omega

/-- Two memories that agree on a range read the same there. -/
theorem cellsRead_congr {m m' : List Host.Cell} : ∀ (n k : Nat), (∀ j < n, cellRead m (k + j) = cellRead m' (k + j)) →
    cellsRead m k n = cellsRead m' k n
  | 0, _, _ => rfl
  | n + 1, k, h => by
    have h0 : cellRead m k = cellRead m' k := h 0 (by omega)
    have h1 := cellsRead_congr (m := m) (m' := m') n (k + 1) (fun j hj => by
      have := h (j + 1) (by omega)
      rw [show k + (j + 1) = k + 1 + j by omega] at this
      exact this)
    rw [cellsRead, cellsRead, h0, h1]

/-- What was written is read. -/
theorem cellsRead_cellsWrite {m : List Host.Cell} (h : Memory.wf m = true) (k : Nat) (bytes : List Byte) :
    cellsRead (cellsWrite m k bytes) k bytes.length = bytes := by
  apply List.ext_getElem
  · exact cellsRead_length _ _ _
  · intro j h1 h2
    have := cellsRead_getD (cellsWrite m k bytes) bytes.length k j h2
    rw [cellRead_cellsWrite bytes h, if_pos (by omega), show k + j - k = j by omega] at this
    simpa [List.getD_eq_getElem?_getD, h2, cellsRead_length] using this

/-- A range apart from the written one reads as before. -/
theorem cellsRead_cellsWrite_apart {m : List Host.Cell} (h : Memory.wf m = true) {k k' n : Nat} {bytes : List Byte}
    (hd : k' + n ≤ k ∨ k + bytes.length ≤ k') : cellsRead (cellsWrite m k bytes) k' n = cellsRead m k' n :=
  cellsRead_congr n k' (fun j hj => by rw [cellRead_cellsWrite bytes h, if_neg (by omega)])

theorem cellsAbove_filter (p : Host.Cell → Bool) : ∀ {m : List Host.Cell} {lo : Nat}, cellsAbove (some lo) m = true →
    cellsAbove (some lo) (m.filter p) = true
  | [], _, _ => rfl
  | (a, b) :: m, lo, h => by
    simp only [cellsAbove, Bool.and_eq_true, decide_eq_true_eq] at h
    rw [List.filter_cons]
    split
    · simp only [cellsAbove, Bool.and_eq_true, decide_eq_true_eq]
      exact ⟨h.1, cellsAbove_filter p h.2⟩
    · exact cellsAbove_mono (by omega) (cellsAbove_filter p h.2)

/-- Cells that leave memory keep its canonical form. -/
theorem wf_filter (p : Host.Cell → Bool) (m : List Host.Cell) (h : Memory.wf m = true) : Memory.wf (m.filter p) = true := by
  cases m with
  | nil => rfl
  | cons c m =>
    obtain ⟨a, b⟩ := c
    simp only [Memory.wf, cellsAbove, Bool.and_eq_true] at h
    rw [List.filter_cons]
    split
    · simp only [Memory.wf, cellsAbove, Bool.and_eq_true]
      exact ⟨h.1, cellsAbove_filter p h.2⟩
    · exact cellsAbove_wf (cellsAbove_filter p h.2)

/-! ### Writes at home -/

/-- What a firing, and an ACQ that reads again, change: queues, tags, barriers and held firings, writes on their way, the
values found; no memory, no thread. -/
def Fires (s t : State) : Prop :=
  t = { s with
    keystones := t.keystones
    wgs := t.wgs
    cores := t.cores
    stores := t.stores
    fits := t.fits
    nextNum := t.nextNum
    enqueued := t.enqueued }

theorem Fires.refl (s : State) : Fires s s := rfl

theorem Fires.trans {s t u : State} (h1 : Fires s t) (h2 : Fires t u) : Fires s u := by
  unfold Fires at *
  rw [h2, h1]

theorem fires_onKeystone (s : State) (ctrl num : Nat) (g : Keystone → Keystone) : Fires s (s.onKeystone ctrl num g) := rfl
theorem fires_onWg (s : State) (n : Nat) (g : Workgroup → Workgroup) : Fires s (s.onWg n g) := rfl
theorem fires_enqueue (s : State) (core q : Nat) (r : QRec) : Fires s (s.enqueue core q r) := rfl
theorem fires_writeRing (s : State) (core : Nat) (owner : Option Nat) (ring ringN : Nat) (rcd : List Byte) (after : List Nat) :
    Fires s (s.writeRing core owner ring ringN rcd after) := rfl

theorem fires_ksAct (s : State) (ctrl num : Nat) (k : Keystone) : Fires s (s.ksAct ctrl num k) := by
  unfold State.ksAct
  simp only
  repeat' split
  all_goals rfl

theorem fires_ksAction (s : State) (ctrl num : Nat) (k : Keystone) : Fires s (s.ksAction ctrl num k) := by
  unfold State.ksAction
  split
  · rfl
  · exact fires_ksAct s ctrl num k

theorem fires_ksFire (fuel : Nat) : ∀ (s : State) (ctrl num : Nat), Fires s (s.ksFire ctrl num fuel) := by
  induction fuel with
  | zero => intro s ctrl num; exact Fires.refl s
  | succ fuel ih =>
    intro s ctrl num
    unfold State.ksFire
    simp only
    split
    · exact Fires.refl s
    · split
      · exact fires_onKeystone s ctrl num _
      · split
        · exact (fires_ksAction s ctrl num _).trans ((fires_onKeystone _ ctrl num _).trans (ih _ ctrl num))
        · exact (fires_ksAction s ctrl num _).trans (fires_onKeystone _ ctrl num _)

theorem fires_ksCount (s : State) (ctrl num n : Nat) : Fires s (s.ksCount ctrl num n) := by
  unfold State.ksCount
  simp only
  split
  · exact (fires_onKeystone s ctrl num _).trans (fires_ksFire _ _ ctrl num)
  · exact fires_onKeystone s ctrl num _

theorem fires_foldl {α : Type} (g : State → α → State) (h : ∀ s a, Fires s (g s a)) : ∀ (l : List α) (s : State),
    Fires s (l.foldl g s)
  | [], s => Fires.refl s
  | a :: l, s => (h s a).trans (fires_foldl g h l (g s a))

/-- Counting bytes that became visible changes what a firing changes. -/
theorem fires_count (s : State) (key n : Nat) : Fires s (s.count key n) := by
  rw [State.count]
  apply fires_foldl
  intro s e
  apply fires_ksCount

/-- An ACQ's reading again changes the values found only. -/
theorem fires_noteFits (s : State) (key n : Nat) : Fires s (s.noteFits key n) := by
  unfold State.noteFits
  simp only
  split <;> rfl

/-- An ACQ's or ASWAIT's reading again changes the values found only. -/
theorem noteFits_frame (s : State) (key n : Nat) : s.noteFits key n = { s with fits := (s.noteFits key n).fits } := by
  unfold State.noteFits
  simp only
  split <;> rfl

/-- A test of a start condition changes the launch's tests, or nothing. -/
theorem testStart_tests (s : State) (from_ key n : Nat) (l : Launch) :
    s.testStart from_ key n l = { l with tests := (s.testStart from_ key n l).tests } := by
  unfold State.testStart
  split
  · split <;> rfl
  · rfl

/-- Threads that take writes over have acquired them, and nothing else changes. -/
theorem takeOver_frame (s : State) (ids : List CtxId) (writes : List Nat) :
    s.takeOver ids writes = { s with got := (s.takeOver ids writes).got } := by
  unfold State.takeOver
  simp only
  split <;> rfl

/-- What threads that take writes over have acquired (R230), where everything acquired before is still pending. -/
theorem takeOver_acquired (s : State) (ids : List CtxId) (writes : List Nat) : Acquired s (s.takeOver ids writes) ids writes := by
  have hmem (e : CtxId × Nat) :
      e ∈ ids.flatMap (fun id => ((writes.filter s.pends).eraseDups).map (fun n => (id, n))) ↔
        e.1 ∈ ids ∧ e.2 ∈ writes ∧ s.pends e.2 = true := by
    obtain ⟨i, n⟩ := e
    simp only [List.mem_flatMap, List.mem_map, List.mem_eraseDups, List.mem_filter, Prod.mk.injEq]
    constructor
    · rintro ⟨a, ha, b, hb, rfl, rfl⟩; exact ⟨ha, hb⟩
    · rintro ⟨ha, hb⟩; exact ⟨i, ha, n, hb, rfl, rfl⟩
  unfold Acquired State.takeOver
  simp only
  split
  · rename_i h
    refine ⟨fun id hid n hn hp => ?_, fun e he => Or.inl he⟩
    have := (hmem (id, n)).mpr ⟨hid, hn, hp⟩
    rw [List.isEmpty_iff.mp h] at this
    exact absurd this List.not_mem_nil
  · refine ⟨fun id hid n hn hp => ?_, fun e he => ?_⟩
    · by_cases hg : (id, n) ∈ s.got
      · exact List.mem_append_left _ (List.mem_filter.mpr ⟨hg, hp⟩)
      · exact List.mem_append_right _ (List.mem_filter.mpr ⟨(hmem (id, n)).mpr ⟨hid, hn, hp⟩, by simpa using hg⟩)
    · rcases List.mem_append.mp he with h | h
      · exact Or.inl (List.mem_filter.mp h).1
      · exact Or.inr ((hmem e).mp (List.mem_filter.mp h).1)

/-- Taking marks away changes the marks only. -/
theorem unmark_frame (s : State) (key n : Nat) : s.unmark key n = { s with marks := (s.unmark key n).marks } := by
  unfold State.unmark
  split <;> rfl

/-- A note of a read changes what has been seen, and nothing else. -/
theorem noteRead_frame (s : State) (id : CtxId) (num : Nat) (r : Viewer) (l1 : Bool) (key n : Nat) :
    s.noteRead id num r l1 key n = { s with seen := (s.noteRead id num r l1 key n).seen } := by
  unfold State.noteRead
  split <;> rfl

/-- A write at home: its bytes in memory, poison as R155 says, marks, the launches that it tests, and what the firings change. -/
theorem homeStore_frame (s : State) (key : Nat) (bytes : List Byte) (poisoned : Bool) :
    ∃ u, (∃ v : State, u = { s with
      mem := cellsWrite s.mem key bytes
      poison := poisonAfter s.poison key bytes.length poisoned
      marks := v.marks
      fits := v.fits
      launches := s.launches.map (v.testStart (s.dcycle + 1) key bytes.length) }) ∧ Fires u (s.homeStore key bytes poisoned) := by
  let w : State := ({ s with mem := cellsWrite s.mem key bytes, poison := poisonAfter s.poison key bytes.length poisoned } :
    State).unmark key bytes.length
  refine ⟨(w.noteFits key bytes.length).testStarts key bytes.length, ⟨w.noteFits key bytes.length, ?_⟩, ?_⟩
  · have hw : ∃ m, w = { s with
        mem := cellsWrite s.mem key bytes, poison := poisonAfter s.poison key bytes.length poisoned, marks := m } :=
      ⟨w.marks, unmark_frame _ _ _⟩
    clear_value w
    obtain ⟨m, rfl⟩ := hw
    unfold State.noteFits
    simp only
    split <;> rfl
  · rw [State.homeStore]
    exact fires_count _ _ _

theorem homeStore_mem (s : State) (key : Nat) (bytes : List Byte) (poisoned : Bool) :
    (s.homeStore key bytes poisoned).mem = cellsWrite s.mem key bytes := by
  obtain ⟨u, ⟨v, hu⟩, hf⟩ := homeStore_frame s key bytes poisoned
  rw [hf, hu]

theorem homeStore_ctxs (s : State) (key : Nat) (bytes : List Byte) (poisoned : Bool) :
    (s.homeStore key bytes poisoned).ctxs = s.ctxs := by
  obtain ⟨u, ⟨v, hu⟩, hf⟩ := homeStore_frame s key bytes poisoned
  rw [hf, hu]

theorem homeStore_teams (s : State) (key : Nat) (bytes : List Byte) (poisoned : Bool) :
    (s.homeStore key bytes poisoned).teams = s.teams := by
  obtain ⟨u, ⟨v, hu⟩, hf⟩ := homeStore_frame s key bytes poisoned
  rw [hf, hu]

/-- A write at home tests launches, and changes nothing else of them. -/
theorem homeStore_launches (s : State) (key : Nat) (bytes : List Byte) (poisoned : Bool) :
    (s.homeStore key bytes poisoned).launches.map (fun l => { l with tests := [] }) =
      s.launches.map (fun l => { l with tests := [] }) := by
  obtain ⟨u, ⟨v, hu⟩, hf⟩ := homeStore_frame s key bytes poisoned
  rw [hf, hu]
  simp only [List.map_map]
  refine List.map_congr_left (fun l _ => ?_)
  simp only [Function.comp]
  rw [testStart_tests]

/-- A write at home stores its bytes and nothing else. -/
theorem stored_homeStore (s : State) (key : Nat) (bytes : List Byte) (poisoned : Bool) :
    Stored s (s.homeStore key bytes poisoned) key bytes := by
  intro h a
  rw [homeStore_mem, cellRead_cellsWrite bytes h]

/-- A write at home keeps the canonical form. -/
theorem memOk_homeStore (s : State) (key : Nat) (bytes : List Byte) (poisoned : Bool) (h : s.memOk = true) :
    (s.homeStore key bytes poisoned).memOk = true := by
  rw [State.memOk, homeStore_mem]
  exact wf_cellsWrite bytes _ _ h

end Sys2Proof.Machine
end

