-- ==== Sys2Proof/Laws/PerInstr.lean ====
section
/-!
SUPPORT. Sys2Proof/Laws/PerInstr.lean: for every instruction, the word of a well-formed one decodes to it.
-/
namespace Sys2Proof.Laws.Encoding

/-- The word of a well-formed instruction decodes to that instruction. -/
def Statement (i : Instr) : Prop := WellFormed i = true → ∀ w, encode i = some w → decodeWord w = .instr i

theorem decodeWord_packLA (o : BitVec 6) (f : LA) : decodeWord (packLA o f) = decodeLane (packLA o f) := by
  rw [decodeWord, setOf_packLA, if_neg (by decide)]

theorem decodeWord_packLI (o : BitVec 6) (f : LI) : decodeWord (packLI o f) = decodeLane (packLI o f) := by
  rw [decodeWord, setOf_packLI, if_neg (by decide)]

theorem decodeWord_packLX (o : BitVec 6) (f : LX) : decodeWord (packLX o f) = decodeLane (packLX o f) := by
  rw [decodeWord, setOf_packLX, if_neg (by decide)]

theorem decodeWord_packLXA (o : BitVec 6) (f : LXA) : decodeWord (packLXA o f) = decodeLane (packLXA o f) := by
  rw [decodeWord, setOf_packLXA, if_neg (by decide)]

theorem decodeWord_packLM (o : BitVec 6) (f : LM) : decodeWord (packLM o f) = decodeLane (packLM o f) := by
  rw [decodeWord, setOf_packLM, if_neg (by decide)]

theorem decodeWord_packLB (o : BitVec 6) (f : LB) : decodeWord (packLB o f) = decodeLane (packLB o f) := by
  rw [decodeWord, setOf_packLB, if_neg (by decide)]

theorem decodeWord_packSA (o : BitVec 6) (f : SA) : decodeWord (packSA o f) = decodeUniform (packSA o f) := by
  rw [decodeWord, setOf_packSA, if_pos rfl]

theorem decodeWord_packSI (o : BitVec 6) (f : SI) : decodeWord (packSI o f) = decodeUniform (packSI o f) := by
  rw [decodeWord, setOf_packSI, if_pos rfl]

theorem decodeWord_packSW (o : BitVec 6) (f : SW) : decodeWord (packSW o f) = decodeUniform (packSW o f) := by
  rw [decodeWord, setOf_packSW, if_pos rfl]

theorem decodeWord_packSB (o : BitVec 6) (f : SB) : decodeWord (packSB o f) = decodeUniform (packSB o f) := by
  rw [decodeWord, setOf_packSB, if_pos rfl]

theorem nop (f : LA) : Statement (.nop f) := by
  intro _ w e
  obtain rfl : packLA 0x0 f = w := Option.some.inj e
  rw [decodeWord_packLA, decodeLane, opcOf_packLA, laOf_packLA]
  rfl

theorem add (f : LA) : Statement (.add f) := by
  intro _ w e
  obtain rfl : packLA 0x1 f = w := Option.some.inj e
  rw [decodeWord_packLA, decodeLane, opcOf_packLA, laOf_packLA]
  rfl

theorem sub (f : LA) : Statement (.sub f) := by
  intro _ w e
  obtain rfl : packLA 0x2 f = w := Option.some.inj e
  rw [decodeWord_packLA, decodeLane, opcOf_packLA, laOf_packLA]
  rfl

theorem mul (f : LA) : Statement (.mul f) := by
  intro _ w e
  obtain rfl : packLA 0x3 f = w := Option.some.inj e
  rw [decodeWord_packLA, decodeLane, opcOf_packLA, laOf_packLA]
  rfl

theorem mulh (f : LA) : Statement (.mulh f) := by
  intro _ w e
  obtain rfl : packLA 0x4 f = w := Option.some.inj e
  rw [decodeWord_packLA, decodeLane, opcOf_packLA, laOf_packLA]
  rfl

theorem mad (f : LA) : Statement (.mad f) := by
  intro _ w e
  obtain rfl : packLA 0x5 f = w := Option.some.inj e
  rw [decodeWord_packLA, decodeLane, opcOf_packLA, laOf_packLA]
  rfl

theorem min (f : LA) : Statement (.min f) := by
  intro _ w e
  obtain rfl : packLA 0x6 f = w := Option.some.inj e
  rw [decodeWord_packLA, decodeLane, opcOf_packLA, laOf_packLA]
  rfl

theorem max (f : LA) : Statement (.max f) := by
  intro _ w e
  obtain rfl : packLA 0x7 f = w := Option.some.inj e
  rw [decodeWord_packLA, decodeLane, opcOf_packLA, laOf_packLA]
  rfl

theorem and (f : LA) : Statement (.and f) := by
  intro _ w e
  obtain rfl : packLA 0x8 f = w := Option.some.inj e
  rw [decodeWord_packLA, decodeLane, opcOf_packLA, laOf_packLA]
  rfl

theorem or (f : LA) : Statement (.or f) := by
  intro _ w e
  obtain rfl : packLA 0x9 f = w := Option.some.inj e
  rw [decodeWord_packLA, decodeLane, opcOf_packLA, laOf_packLA]
  rfl

theorem xor (f : LA) : Statement (.xor f) := by
  intro _ w e
  obtain rfl : packLA 0xa f = w := Option.some.inj e
  rw [decodeWord_packLA, decodeLane, opcOf_packLA, laOf_packLA]
  rfl

theorem shl (f : LA) : Statement (.shl f) := by
  intro _ w e
  obtain rfl : packLA 0xb f = w := Option.some.inj e
  rw [decodeWord_packLA, decodeLane, opcOf_packLA, laOf_packLA]
  rfl

theorem shr (f : LA) : Statement (.shr f) := by
  intro _ w e
  obtain rfl : packLA 0xc f = w := Option.some.inj e
  rw [decodeWord_packLA, decodeLane, opcOf_packLA, laOf_packLA]
  rfl

theorem sar (f : LA) : Statement (.sar f) := by
  intro _ w e
  obtain rfl : packLA 0xd f = w := Option.some.inj e
  rw [decodeWord_packLA, decodeLane, opcOf_packLA, laOf_packLA]
  rfl

theorem rot (f : LA) : Statement (.rot f) := by
  intro _ w e
  obtain rfl : packLA 0xf f = w := Option.some.inj e
  rw [decodeWord_packLA, decodeLane, opcOf_packLA, laOf_packLA]
  rfl

theorem clz (f : LA) : Statement (.clz f) := by
  intro h w e
  obtain rfl : packLA 0xe f = w := Option.some.inj e
  rw [decodeWord_packLA, decodeLane, opcOf_packLA, laOf_packLA]
  have h : (f.b == 0) = true := h
  simp only [beq_iff_eq] at h
  change decodeUnary f = _
  rw [decodeUnary, h]
  rfl

theorem popc (f : LA) : Statement (.popc f) := by
  intro h w e
  obtain rfl : packLA 0xe f = w := Option.some.inj e
  rw [decodeWord_packLA, decodeLane, opcOf_packLA, laOf_packLA]
  have h : (f.b == 1) = true := h
  simp only [beq_iff_eq] at h
  change decodeUnary f = _
  rw [decodeUnary, h]
  rfl

theorem brev (f : LA) : Statement (.brev f) := by
  intro h w e
  obtain rfl : packLA 0xe f = w := Option.some.inj e
  rw [decodeWord_packLA, decodeLane, opcOf_packLA, laOf_packLA]
  have h : (f.b == 2) = true := h
  simp only [beq_iff_eq] at h
  change decodeUnary f = _
  rw [decodeUnary, h]
  rfl

theorem abs (f : LA) : Statement (.abs f) := by
  intro h w e
  obtain rfl : packLA 0xe f = w := Option.some.inj e
  rw [decodeWord_packLA, decodeLane, opcOf_packLA, laOf_packLA]
  have h : (f.b == 3) = true := h
  simp only [beq_iff_eq] at h
  change decodeUnary f = _
  rw [decodeUnary, h]
  rfl

theorem neg (f : LA) : Statement (.neg f) := by
  intro h w e
  obtain rfl : packLA 0xe f = w := Option.some.inj e
  rw [decodeWord_packLA, decodeLane, opcOf_packLA, laOf_packLA]
  have h : (f.b == 4) = true := h
  simp only [beq_iff_eq] at h
  change decodeUnary f = _
  rw [decodeUnary, h]
  rfl

theorem not (f : LA) : Statement (.not f) := by
  intro h w e
  obtain rfl : packLA 0xe f = w := Option.some.inj e
  rw [decodeWord_packLA, decodeLane, opcOf_packLA, laOf_packLA]
  have h : (f.b == 5) = true := h
  simp only [beq_iff_eq] at h
  change decodeUnary f = _
  rw [decodeUnary, h]
  rfl

theorem cmp (f : LA) : Statement (.cmp f) := by
  intro _ w e
  obtain rfl : packLA 0x10 f = w := Option.some.inj e
  rw [decodeWord_packLA, decodeLane, opcOf_packLA, laOf_packLA]
  rfl

theorem sel (f : LA) : Statement (.sel f) := by
  intro _ w e
  obtain rfl : packLA 0x11 f = w := Option.some.inj e
  rw [decodeWord_packLA, decodeLane, opcOf_packLA, laOf_packLA]
  rfl

theorem bfx (f : LA) : Statement (.bfx f) := by
  intro _ w e
  obtain rfl : packLA 0x12 f = w := Option.some.inj e
  rw [decodeWord_packLA, decodeLane, opcOf_packLA, laOf_packLA]
  rfl

theorem bfi (f : LA) : Statement (.bfi f) := by
  intro _ w e
  obtain rfl : packLA 0x13 f = w := Option.some.inj e
  rw [decodeWord_packLA, decodeLane, opcOf_packLA, laOf_packLA]
  rfl

theorem bsrd (f : LA) : Statement (.bsrd f) := by
  intro _ w e
  obtain rfl : packLA 0x14 f = w := Option.some.inj e
  rw [decodeWord_packLA, decodeLane, opcOf_packLA, laOf_packLA]
  rfl

theorem mov (f : LA) : Statement (.mov f) := by
  intro h w e
  obtain rfl : packLA 0x15 f = w := Option.some.inj e
  rw [decodeWord_packLA, decodeLane, opcOf_packLA, laOf_packLA]
  have h : (f.t != 1) = true := h
  simp only [bne_iff_ne, ne_eq] at h
  exact if_neg h

theorem movs (f : LA) : Statement (.movs f) := by
  intro h w e
  obtain rfl : packLA 0x15 f = w := Option.some.inj e
  rw [decodeWord_packLA, decodeLane, opcOf_packLA, laOf_packLA]
  have h : (f.t == 1) = true := h
  simp only [beq_iff_eq] at h
  exact if_pos h

theorem addi (f : LI) : Statement (.addi f) := by
  intro _ w e
  obtain rfl : packLI 0x16 f = w := Option.some.inj e
  rw [decodeWord_packLI, decodeLane, opcOf_packLI, liOf_packLI]
  rfl

theorem andi (f : LI) : Statement (.andi f) := by
  intro _ w e
  obtain rfl : packLI 0x17 f = w := Option.some.inj e
  rw [decodeWord_packLI, decodeLane, opcOf_packLI, liOf_packLI]
  rfl

theorem ori (f : LI) : Statement (.ori f) := by
  intro _ w e
  obtain rfl : packLI 0x18 f = w := Option.some.inj e
  rw [decodeWord_packLI, decodeLane, opcOf_packLI, liOf_packLI]
  rfl

theorem xori (f : LI) : Statement (.xori f) := by
  intro _ w e
  obtain rfl : packLI 0x19 f = w := Option.some.inj e
  rw [decodeWord_packLI, decodeLane, opcOf_packLI, liOf_packLI]
  rfl

theorem shli (f : LI) : Statement (.shli f) := by
  intro h w e
  obtain rfl : packLI 0x1a f = w := Option.some.inj e
  rw [decodeWord_packLI, decodeLane, opcOf_packLI, liOf_packLI]
  have h : (shiftKind f == 0) = true := h
  simp only [beq_iff_eq] at h
  change decodeShift f = _
  rw [decodeShift, h]
  rfl

theorem shri (f : LI) : Statement (.shri f) := by
  intro h w e
  obtain rfl : packLI 0x1a f = w := Option.some.inj e
  rw [decodeWord_packLI, decodeLane, opcOf_packLI, liOf_packLI]
  have h : (shiftKind f == 1) = true := h
  simp only [beq_iff_eq] at h
  change decodeShift f = _
  rw [decodeShift, h]
  rfl

theorem sari (f : LI) : Statement (.sari f) := by
  intro h w e
  obtain rfl : packLI 0x1a f = w := Option.some.inj e
  rw [decodeWord_packLI, decodeLane, opcOf_packLI, liOf_packLI]
  have h : (shiftKind f == 2) = true := h
  simp only [beq_iff_eq] at h
  change decodeShift f = _
  rw [decodeShift, h]
  rfl

theorem roti (f : LI) : Statement (.roti f) := by
  intro h w e
  obtain rfl : packLI 0x1a f = w := Option.some.inj e
  rw [decodeWord_packLI, decodeLane, opcOf_packLI, liOf_packLI]
  have h : (shiftKind f == 3) = true := h
  simp only [beq_iff_eq] at h
  change decodeShift f = _
  rw [decodeShift, h]
  rfl

theorem acq (f : LX) : Statement (.acq f) := by
  intro _ w e
  obtain rfl : packLX 0x1b f = w := Option.some.inj e
  rw [decodeWord_packLX, decodeLane, opcOf_packLX, lxOf_packLX]
  rfl

theorem rel (f : LX) : Statement (.rel f) := by
  intro _ w e
  obtain rfl : packLX 0x1c f = w := Option.some.inj e
  rw [decodeWord_packLX, decodeLane, opcOf_packLX, lxOf_packLX]
  rfl

theorem cmpi (f : LI) : Statement (.cmpi f) := by
  intro _ w e
  obtain rfl : packLI 0x1d f = w := Option.some.inj e
  rw [decodeWord_packLI, decodeLane, opcOf_packLI, liOf_packLI]
  rfl

theorem movi (f : LI) : Statement (.movi f) := by
  intro _ w e
  obtain rfl : packLI 0x1e f = w := Option.some.inj e
  rw [decodeWord_packLI, decodeLane, opcOf_packLI, liOf_packLI]
  rfl

theorem fadd (f : LA) : Statement (.fadd f) := by
  intro _ w e
  obtain rfl : packLA 0x1f f = w := Option.some.inj e
  rw [decodeWord_packLA, decodeLane, opcOf_packLA, laOf_packLA]
  rfl

theorem fsub (f : LA) : Statement (.fsub f) := by
  intro _ w e
  obtain rfl : packLA 0x20 f = w := Option.some.inj e
  rw [decodeWord_packLA, decodeLane, opcOf_packLA, laOf_packLA]
  rfl

theorem fmul (f : LA) : Statement (.fmul f) := by
  intro _ w e
  obtain rfl : packLA 0x21 f = w := Option.some.inj e
  rw [decodeWord_packLA, decodeLane, opcOf_packLA, laOf_packLA]
  rfl

theorem ffma (f : LA) : Statement (.ffma f) := by
  intro _ w e
  obtain rfl : packLA 0x22 f = w := Option.some.inj e
  rw [decodeWord_packLA, decodeLane, opcOf_packLA, laOf_packLA]
  rfl

theorem fmin (f : LA) : Statement (.fmin f) := by
  intro _ w e
  obtain rfl : packLA 0x23 f = w := Option.some.inj e
  rw [decodeWord_packLA, decodeLane, opcOf_packLA, laOf_packLA]
  rfl

theorem fmax (f : LA) : Statement (.fmax f) := by
  intro _ w e
  obtain rfl : packLA 0x24 f = w := Option.some.inj e
  rw [decodeWord_packLA, decodeLane, opcOf_packLA, laOf_packLA]
  rfl

theorem fcmp (f : LA) : Statement (.fcmp f) := by
  intro _ w e
  obtain rfl : packLA 0x25 f = w := Option.some.inj e
  rw [decodeWord_packLA, decodeLane, opcOf_packLA, laOf_packLA]
  rfl

theorem fcvt (f : LA) : Statement (.fcvt f) := by
  intro _ w e
  obtain rfl : packLA 0x26 f = w := Option.some.inj e
  rw [decodeWord_packLA, decodeLane, opcOf_packLA, laOf_packLA]
  rfl

theorem frnd (f : LA) : Statement (.frnd f) := by
  intro _ w e
  obtain rfl : packLA 0x27 f = w := Option.some.inj e
  rw [decodeWord_packLA, decodeLane, opcOf_packLA, laOf_packLA]
  rfl

theorem fscl (f : LA) : Statement (.fscl f) := by
  intro _ w e
  obtain rfl : packLA 0x28 f = w := Option.some.inj e
  rw [decodeWord_packLA, decodeLane, opcOf_packLA, laOf_packLA]
  rfl

theorem idp8 (f : LA) : Statement (.idp8 f) := by
  intro _ w e
  obtain rfl : packLA 0x29 f = w := Option.some.inj e
  rw [decodeWord_packLA, decodeLane, opcOf_packLA, laOf_packLA]
  rfl

theorem idp4 (f : LA) : Statement (.idp4 f) := by
  intro _ w e
  obtain rfl : packLA 0x2a f = w := Option.some.inj e
  rw [decodeWord_packLA, decodeLane, opcOf_packLA, laOf_packLA]
  rfl

theorem fdp8 (f : LA) : Statement (.fdp8 f) := by
  intro _ w e
  obtain rfl : packLA 0x2b f = w := Option.some.inj e
  rw [decodeWord_packLA, decodeLane, opcOf_packLA, laOf_packLA]
  rfl

theorem fdp4 (f : LA) : Statement (.fdp4 f) := by
  intro _ w e
  obtain rfl : packLA 0x2c f = w := Option.some.inj e
  rw [decodeWord_packLA, decodeLane, opcOf_packLA, laOf_packLA]
  rfl

theorem fdiv (f : LX) : Statement (.fdiv f) := by
  intro _ w e
  obtain rfl : packLX 0x2d f = w := Option.some.inj e
  rw [decodeWord_packLX, decodeLane, opcOf_packLX, lxOf_packLX]
  rfl

theorem frcp (f : LX) : Statement (.frcp f) := by
  intro h w e
  obtain rfl : packLX 0x2e f = w := Option.some.inj e
  rw [decodeWord_packLX, decodeLane, opcOf_packLX, lxOf_packLX]
  have h : (f.b == 0) = true := h
  simp only [beq_iff_eq] at h
  change decodeTrans f = _
  rw [decodeTrans, h]
  rfl

theorem frsq (f : LX) : Statement (.frsq f) := by
  intro h w e
  obtain rfl : packLX 0x2e f = w := Option.some.inj e
  rw [decodeWord_packLX, decodeLane, opcOf_packLX, lxOf_packLX]
  have h : (f.b == 1) = true := h
  simp only [beq_iff_eq] at h
  change decodeTrans f = _
  rw [decodeTrans, h]
  rfl

theorem fsqrt (f : LX) : Statement (.fsqrt f) := by
  intro h w e
  obtain rfl : packLX 0x2e f = w := Option.some.inj e
  rw [decodeWord_packLX, decodeLane, opcOf_packLX, lxOf_packLX]
  have h : (f.b == 2) = true := h
  simp only [beq_iff_eq] at h
  change decodeTrans f = _
  rw [decodeTrans, h]
  rfl

theorem fex2 (f : LX) : Statement (.fex2 f) := by
  intro h w e
  obtain rfl : packLX 0x2e f = w := Option.some.inj e
  rw [decodeWord_packLX, decodeLane, opcOf_packLX, lxOf_packLX]
  have h : (f.b == 3) = true := h
  simp only [beq_iff_eq] at h
  change decodeTrans f = _
  rw [decodeTrans, h]
  rfl

theorem flg2 (f : LX) : Statement (.flg2 f) := by
  intro h w e
  obtain rfl : packLX 0x2e f = w := Option.some.inj e
  rw [decodeWord_packLX, decodeLane, opcOf_packLX, lxOf_packLX]
  have h : (f.b == 4) = true := h
  simp only [beq_iff_eq] at h
  change decodeTrans f = _
  rw [decodeTrans, h]
  rfl

theorem fsin (f : LX) : Statement (.fsin f) := by
  intro h w e
  obtain rfl : packLX 0x2e f = w := Option.some.inj e
  rw [decodeWord_packLX, decodeLane, opcOf_packLX, lxOf_packLX]
  have h : (f.b == 5) = true := h
  simp only [beq_iff_eq] at h
  change decodeTrans f = _
  rw [decodeTrans, h]
  rfl

theorem fcos (f : LX) : Statement (.fcos f) := by
  intro h w e
  obtain rfl : packLX 0x2e f = w := Option.some.inj e
  rw [decodeWord_packLX, decodeLane, opcOf_packLX, lxOf_packLX]
  have h : (f.b == 6) = true := h
  simp only [beq_iff_eq] at h
  change decodeTrans f = _
  rw [decodeTrans, h]
  rfl

theorem rnd (f : LX) : Statement (.rnd f) := by
  intro h w e
  obtain rfl : packLX 0x2f f = w := Option.some.inj e
  rw [decodeWord_packLX, decodeLane, opcOf_packLX, lxOf_packLX]
  have h : (f.b == 0) = true := h
  simp only [beq_iff_eq] at h
  exact if_pos h

theorem rndf (f : LX) : Statement (.rndf f) := by
  intro h w e
  obtain rfl : packLX 0x2f f = w := Option.some.inj e
  rw [decodeWord_packLX, decodeLane, opcOf_packLX, lxOf_packLX]
  have h : (f.b == 1) = true := h
  simp only [beq_iff_eq] at h
  exact (if_neg (by rw [h]; decide)).trans (if_pos h)

theorem ld (f : LM) : Statement (.ld f) := by
  intro h w e
  obtain rfl : packLM 0x30 f = w := Option.some.inj e
  rw [decodeWord_packLM, decodeLane, opcOf_packLM, lmOf_packLM]
  have h : (f.w.ult 5) = true := h
  exact if_pos h

theorem st (f : LM) : Statement (.st f) := by
  intro h w e
  obtain rfl : packLM 0x31 f = w := Option.some.inj e
  rw [decodeWord_packLM, decodeLane, opcOf_packLM, lmOf_packLM]
  have h : (f.w.ult 5) = true := h
  exact if_pos h

theorem atomw (f : LXA) : Statement (.atomw f) := by
  intro _ w e
  obtain rfl : packLXA 0x32 f = w := Option.some.inj e
  rw [decodeWord_packLXA, decodeLane, opcOf_packLXA, lxaOf_packLXA]
  rfl

theorem atomd (f : LXA) : Statement (.atomd f) := by
  intro _ w e
  obtain rfl : packLXA 0x33 f = w := Option.some.inj e
  rw [decodeWord_packLXA, decodeLane, opcOf_packLXA, lxaOf_packLXA]
  rfl

theorem acas (f : LXA) : Statement (.acas f) := by
  intro h w e
  obtain rfl : packLXA 0x34 f = w := Option.some.inj e
  rw [decodeWord_packLXA, decodeLane, opcOf_packLXA, lxaOf_packLXA]
  have h : (f.op.ult 2) = true := h
  exact if_pos h

theorem asput (f : LA) : Statement (.asput f) := by
  intro _ w e
  obtain rfl : packLA 0x35 f = w := Option.some.inj e
  rw [decodeWord_packLA, decodeLane, opcOf_packLA, laOf_packLA]
  rfl

theorem shfl (f : LX) : Statement (.shfl f) := by
  intro _ w e
  obtain rfl : packLX 0x36 f = w := Option.some.inj e
  rw [decodeWord_packLX, decodeLane, opcOf_packLX, lxOf_packLX]
  rfl

theorem netmv (f : LX) : Statement (.netmv f) := by
  intro _ w e
  obtain rfl : packLX 0x37 f = w := Option.some.inj e
  rw [decodeWord_packLX, decodeLane, opcOf_packLX, lxOf_packLX]
  rfl

theorem voteAll (f : LA) : Statement (.voteAll f) := by
  intro h w e
  obtain rfl : packLA 0x38 f = w := Option.some.inj e
  rw [decodeWord_packLA, decodeLane, opcOf_packLA, laOf_packLA]
  have h : (f.t != 1 && f.t != 2) = true := h
  simp only [Bool.and_eq_true, bne_iff_ne, ne_eq] at h
  exact (if_neg h.1).trans (if_neg h.2)

theorem voteAny (f : LA) : Statement (.voteAny f) := by
  intro h w e
  obtain rfl : packLA 0x38 f = w := Option.some.inj e
  rw [decodeWord_packLA, decodeLane, opcOf_packLA, laOf_packLA]
  have h : (f.t == 1) = true := h
  simp only [beq_iff_eq] at h
  exact if_pos h

theorem voteBallot (f : LA) : Statement (.voteBallot f) := by
  intro h w e
  obtain rfl : packLA 0x38 f = w := Option.some.inj e
  rw [decodeWord_packLA, decodeLane, opcOf_packLA, laOf_packLA]
  have h : (f.t == 2) = true := h
  simp only [beq_iff_eq] at h
  exact (if_neg (by rw [h]; decide)).trans (if_pos h)

theorem lred (f : LX) : Statement (.lred f) := by
  intro _ w e
  obtain rfl : packLX 0x39 f = w := Option.some.inj e
  rw [decodeWord_packLX, decodeLane, opcOf_packLX, lxOf_packLX]
  rfl

theorem bra (f : LB) : Statement (.bra f) := by
  intro _ w e
  obtain rfl : packLB 0x3a f = w := Option.some.inj e
  rw [decodeWord_packLB, decodeLane, opcOf_packLB, lbOf_packLB]
  rfl

theorem brx (f : LB) : Statement (.brx f) := by
  intro _ w e
  obtain rfl : packLB 0x3b f = w := Option.some.inj e
  rw [decodeWord_packLB, decodeLane, opcOf_packLB, lbOf_packLB]
  rfl

theorem call (f : LB) : Statement (.call f) := by
  intro _ w e
  obtain rfl : packLB 0x3c f = w := Option.some.inj e
  rw [decodeWord_packLB, decodeLane, opcOf_packLB, lbOf_packLB]
  rfl

theorem callf (f : LB) : Statement (.callf f) := by
  intro _ w e
  obtain rfl : packLB 0x3d f = w := Option.some.inj e
  rw [decodeWord_packLB, decodeLane, opcOf_packLB, lbOf_packLB]
  rfl

theorem ret (f : LX) : Statement (.ret f) := by
  intro h w e
  obtain rfl : packLX 0x3e f = w := Option.some.inj e
  rw [decodeWord_packLX, decodeLane, opcOf_packLX, lxOf_packLX]
  have h : (f.b == 0) = true := h
  simp only [beq_iff_eq] at h
  change decodeControl f = _
  rw [decodeControl, h]
  rfl

theorem jmpr (f : LX) : Statement (.jmpr f) := by
  intro h w e
  obtain rfl : packLX 0x3e f = w := Option.some.inj e
  rw [decodeWord_packLX, decodeLane, opcOf_packLX, lxOf_packLX]
  have h : (f.b == 1) = true := h
  simp only [beq_iff_eq] at h
  change decodeControl f = _
  rw [decodeControl, h]
  rfl

theorem exit (f : LX) : Statement (.exit f) := by
  intro h w e
  obtain rfl : packLX 0x3e f = w := Option.some.inj e
  rw [decodeWord_packLX, decodeLane, opcOf_packLX, lxOf_packLX]
  have h : (f.b == 2) = true := h
  simp only [beq_iff_eq] at h
  change decodeControl f = _
  rw [decodeControl, h]
  rfl

theorem trap (f : LX) : Statement (.trap f) := by
  intro h w e
  obtain rfl : packLX 0x3e f = w := Option.some.inj e
  rw [decodeWord_packLX, decodeLane, opcOf_packLX, lxOf_packLX]
  have h : (f.b == 3) = true := h
  simp only [beq_iff_eq] at h
  change decodeControl f = _
  rw [decodeControl, h]
  rfl

theorem tret (f : LX) : Statement (.tret f) := by
  intro h w e
  obtain rfl : packLX 0x3e f = w := Option.some.inj e
  rw [decodeWord_packLX, decodeLane, opcOf_packLX, lxOf_packLX]
  have h : (f.b == 4) = true := h
  simp only [beq_iff_eq] at h
  change decodeControl f = _
  rw [decodeControl, h]
  rfl

theorem yield (f : LX) : Statement (.yield f) := by
  intro h w e
  obtain rfl : packLX 0x3e f = w := Option.some.inj e
  rw [decodeWord_packLX, decodeLane, opcOf_packLX, lxOf_packLX]
  have h : (f.b == 5) = true := h
  simp only [beq_iff_eq] at h
  change decodeControl f = _
  rw [decodeControl, h]
  rfl

theorem bkpt (f : LX) : Statement (.bkpt f) := by
  intro h w e
  obtain rfl : packLX 0x3e f = w := Option.some.inj e
  rw [decodeWord_packLX, decodeLane, opcOf_packLX, lxOf_packLX]
  have h : (f.b == 6) = true := h
  simp only [beq_iff_eq] at h
  change decodeControl f = _
  rw [decodeControl, h]
  rfl

theorem bar (f : LX) : Statement (.bar f) := by
  intro h w e
  obtain rfl : packLX 0x3e f = w := Option.some.inj e
  rw [decodeWord_packLX, decodeLane, opcOf_packLX, lxOf_packLX]
  have h : (f.b == 7) = true := h
  simp only [beq_iff_eq] at h
  change decodeControl f = _
  rw [decodeControl, h]
  rfl

theorem waitt (f : LX) : Statement (.waitt f) := by
  intro h w e
  obtain rfl : packLX 0x3e f = w := Option.some.inj e
  rw [decodeWord_packLX, decodeLane, opcOf_packLX, lxOf_packLX]
  have h : (f.b == 8) = true := h
  simp only [beq_iff_eq] at h
  change decodeControl f = _
  rw [decodeControl, h]
  rfl

theorem ffrt (f : LX) : Statement (.ffrt f) := by
  intro h w e
  obtain rfl : packLX 0x3e f = w := Option.some.inj e
  rw [decodeWord_packLX, decodeLane, opcOf_packLX, lxOf_packLX]
  have h : (f.b == 9) = true := h
  simp only [beq_iff_eq] at h
  change decodeControl f = _
  rw [decodeControl, h]
  rfl

theorem waita (f : LX) : Statement (.waita f) := by
  intro h w e
  obtain rfl : packLX 0x3e f = w := Option.some.inj e
  rw [decodeWord_packLX, decodeLane, opcOf_packLX, lxOf_packLX]
  have h : (f.b == 10) = true := h
  simp only [beq_iff_eq] at h
  change decodeControl f = _
  rw [decodeControl, h]
  rfl

theorem fenceRel (f : LX) : Statement (.fenceRel f) := by
  intro h w e
  obtain rfl : packLX 0x3e f = w := Option.some.inj e
  rw [decodeWord_packLX, decodeLane, opcOf_packLX, lxOf_packLX]
  have h : (f.b == 11 && fenceKind f == 0) = true := h
  simp only [Bool.and_eq_true, beq_iff_eq] at h
  change decodeControl f = _
  rw [decodeControl, h.1]
  change decodeFence f = _
  rw [decodeFence, h.2]
  rfl

theorem fenceAcq (f : LX) : Statement (.fenceAcq f) := by
  intro h w e
  obtain rfl : packLX 0x3e f = w := Option.some.inj e
  rw [decodeWord_packLX, decodeLane, opcOf_packLX, lxOf_packLX]
  have h : (f.b == 11 && fenceKind f == 1) = true := h
  simp only [Bool.and_eq_true, beq_iff_eq] at h
  change decodeControl f = _
  rw [decodeControl, h.1]
  change decodeFence f = _
  rw [decodeFence, h.2]
  rfl

theorem fenceFull (f : LX) : Statement (.fenceFull f) := by
  intro h w e
  obtain rfl : packLX 0x3e f = w := Option.some.inj e
  rw [decodeWord_packLX, decodeLane, opcOf_packLX, lxOf_packLX]
  have h : (f.b == 11 && fenceKind f != 0 && fenceKind f != 1 && fenceKind f != 3 && fenceKind f != 4) = true := h
  simp only [Bool.and_eq_true, beq_iff_eq, bne_iff_ne, ne_eq] at h
  change decodeControl f = _
  rw [decodeControl, h.1.1.1.1]
  change decodeFence f = _
  have hk : ∀ k : BitVec 3, ¬k = 0 → ¬k = 1 → ¬k = 3 → ¬k = 4 → k = 2 ∨ k = 5 ∨ k = 6 ∨ k = 7 := by decide
  rcases hk _ h.1.1.1.2 h.1.1.2 h.1.2 h.2 with q | q | q | q <;> (rw [decodeFence, q]; rfl)

theorem fenceLt (f : LX) : Statement (.fenceLt f) := by
  intro h w e
  obtain rfl : packLX 0x3e f = w := Option.some.inj e
  rw [decodeWord_packLX, decodeLane, opcOf_packLX, lxOf_packLX]
  have h : (f.b == 11 && fenceKind f == 3) = true := h
  simp only [Bool.and_eq_true, beq_iff_eq] at h
  change decodeControl f = _
  rw [decodeControl, h.1]
  change decodeFence f = _
  rw [decodeFence, h.2]
  rfl

theorem fenceHv (f : LX) : Statement (.fenceHv f) := by
  intro h w e
  obtain rfl : packLX 0x3e f = w := Option.some.inj e
  rw [decodeWord_packLX, decodeLane, opcOf_packLX, lxOf_packLX]
  have h : (f.b == 11 && fenceKind f == 4) = true := h
  simp only [Bool.and_eq_true, beq_iff_eq] at h
  change decodeControl f = _
  rw [decodeControl, h.1]
  change decodeFence f = _
  rw [decodeFence, h.2]
  rfl

theorem hgive (f : LX) : Statement (.hgive f) := by
  intro h w e
  obtain rfl : packLX 0x3e f = w := Option.some.inj e
  rw [decodeWord_packLX, decodeLane, opcOf_packLX, lxOf_packLX]
  have h : (f.b == 12) = true := h
  simp only [beq_iff_eq] at h
  change decodeControl f = _
  rw [decodeControl, h]
  rfl

theorem htake (f : LX) : Statement (.htake f) := by
  intro h w e
  obtain rfl : packLX 0x3e f = w := Option.some.inj e
  rw [decodeWord_packLX, decodeLane, opcOf_packLX, lxOf_packLX]
  have h : (f.b == 13) = true := h
  simp only [beq_iff_eq] at h
  change decodeControl f = _
  rw [decodeControl, h]
  rfl

theorem prfm (f : LX) : Statement (.prfm f) := by
  intro h w e
  obtain rfl : packLX 0x3e f = w := Option.some.inj e
  rw [decodeWord_packLX, decodeLane, opcOf_packLX, lxOf_packLX]
  have h : (f.b == 14) = true := h
  simp only [beq_iff_eq] at h
  change decodeControl f = _
  rw [decodeControl, h]
  rfl

theorem vqput (f : LX) : Statement (.vqput f) := by
  intro h w e
  obtain rfl : packLX 0x3e f = w := Option.some.inj e
  rw [decodeWord_packLX, decodeLane, opcOf_packLX, lxOf_packLX]
  have h : (f.b == 15) = true := h
  simp only [beq_iff_eq] at h
  change decodeControl f = _
  rw [decodeControl, h]
  rfl

theorem vqget (f : LX) : Statement (.vqget f) := by
  intro h w e
  obtain rfl : packLX 0x3e f = w := Option.some.inj e
  rw [decodeWord_packLX, decodeLane, opcOf_packLX, lxOf_packLX]
  have h : (f.b == 16) = true := h
  simp only [beq_iff_eq] at h
  change decodeControl f = _
  rw [decodeControl, h]
  rfl

theorem launch (f : LX) : Statement (.launch f) := by
  intro h w e
  obtain rfl : packLX 0x3e f = w := Option.some.inj e
  rw [decodeWord_packLX, decodeLane, opcOf_packLX, lxOf_packLX]
  have h : (f.b == 17) = true := h
  simp only [beq_iff_eq] at h
  change decodeControl f = _
  rw [decodeControl, h]
  rfl

theorem cwait (f : LX) : Statement (.cwait f) := by
  intro h w e
  obtain rfl : packLX 0x3e f = w := Option.some.inj e
  rw [decodeWord_packLX, decodeLane, opcOf_packLX, lxOf_packLX]
  have h : (f.b == 18) = true := h
  simp only [beq_iff_eq] at h
  change decodeControl f = _
  rw [decodeControl, h]
  rfl

theorem halt (f : LX) : Statement (.halt f) := by
  intro h w e
  obtain rfl : packLX 0x3e f = w := Option.some.inj e
  rw [decodeWord_packLX, decodeLane, opcOf_packLX, lxOf_packLX]
  have h : (f.b == 19) = true := h
  simp only [beq_iff_eq] at h
  change decodeControl f = _
  rw [decodeControl, h]
  rfl

theorem mfs (f : LX) : Statement (.mfs f) := by
  intro h w e
  obtain rfl : packLX 0x3e f = w := Option.some.inj e
  rw [decodeWord_packLX, decodeLane, opcOf_packLX, lxOf_packLX]
  have h : (f.b == 20 && f.a.ult 28) = true := h
  simp only [Bool.and_eq_true, beq_iff_eq] at h
  change decodeControl f = _
  rw [decodeControl, h.1]
  change ite _ _ _ = _
  rw [if_pos h.2]

theorem mts (f : LX) : Statement (.mts f) := by
  intro h w e
  obtain rfl : packLX 0x3e f = w := Option.some.inj e
  rw [decodeWord_packLX, decodeLane, opcOf_packLX, lxOf_packLX]
  have h : (f.b == 21 && f.a.ult 28) = true := h
  simp only [Bool.and_eq_true, beq_iff_eq] at h
  change decodeControl f = _
  rw [decodeControl, h.1]
  change ite _ _ _ = _
  rw [if_pos h.2]

theorem snop (f : SA) : Statement (.snop f) := by
  intro _ w e
  obtain rfl : packSA 0x0 f = w := Option.some.inj e
  rw [decodeWord_packSA, decodeUniform, opcOf_packSA, saOf_packSA]
  rfl

theorem sadd (f : SA) : Statement (.sadd f) := by
  intro _ w e
  obtain rfl : packSA 0x1 f = w := Option.some.inj e
  rw [decodeWord_packSA, decodeUniform, opcOf_packSA, saOf_packSA]
  rfl

theorem ssub (f : SA) : Statement (.ssub f) := by
  intro _ w e
  obtain rfl : packSA 0x2 f = w := Option.some.inj e
  rw [decodeWord_packSA, decodeUniform, opcOf_packSA, saOf_packSA]
  rfl

theorem smul (f : SA) : Statement (.smul f) := by
  intro _ w e
  obtain rfl : packSA 0x3 f = w := Option.some.inj e
  rw [decodeWord_packSA, decodeUniform, opcOf_packSA, saOf_packSA]
  rfl

theorem sand (f : SA) : Statement (.sand f) := by
  intro _ w e
  obtain rfl : packSA 0x4 f = w := Option.some.inj e
  rw [decodeWord_packSA, decodeUniform, opcOf_packSA, saOf_packSA]
  rfl

theorem sor (f : SA) : Statement (.sor f) := by
  intro _ w e
  obtain rfl : packSA 0x5 f = w := Option.some.inj e
  rw [decodeWord_packSA, decodeUniform, opcOf_packSA, saOf_packSA]
  rfl

theorem sxor (f : SA) : Statement (.sxor f) := by
  intro _ w e
  obtain rfl : packSA 0x6 f = w := Option.some.inj e
  rw [decodeWord_packSA, decodeUniform, opcOf_packSA, saOf_packSA]
  rfl

theorem sshl (f : SA) : Statement (.sshl f) := by
  intro _ w e
  obtain rfl : packSA 0x7 f = w := Option.some.inj e
  rw [decodeWord_packSA, decodeUniform, opcOf_packSA, saOf_packSA]
  rfl

theorem sshr (f : SA) : Statement (.sshr f) := by
  intro _ w e
  obtain rfl : packSA 0x8 f = w := Option.some.inj e
  rw [decodeWord_packSA, decodeUniform, opcOf_packSA, saOf_packSA]
  rfl

theorem ssar (f : SA) : Statement (.ssar f) := by
  intro _ w e
  obtain rfl : packSA 0x9 f = w := Option.some.inj e
  rw [decodeWord_packSA, decodeUniform, opcOf_packSA, saOf_packSA]
  rfl

theorem smin (f : SA) : Statement (.smin f) := by
  intro _ w e
  obtain rfl : packSA 0xa f = w := Option.some.inj e
  rw [decodeWord_packSA, decodeUniform, opcOf_packSA, saOf_packSA]
  rfl

theorem smax (f : SA) : Statement (.smax f) := by
  intro _ w e
  obtain rfl : packSA 0xb f = w := Option.some.inj e
  rw [decodeWord_packSA, decodeUniform, opcOf_packSA, saOf_packSA]
  rfl

theorem scmp (f : SA) : Statement (.scmp f) := by
  intro _ w e
  obtain rfl : packSA 0xc f = w := Option.some.inj e
  rw [decodeWord_packSA, decodeUniform, opcOf_packSA, saOf_packSA]
  rfl

theorem saddi (f : SI) : Statement (.saddi f) := by
  intro _ w e
  obtain rfl : packSI 0xd f = w := Option.some.inj e
  rw [decodeWord_packSI, decodeUniform, opcOf_packSI, siOf_packSI]
  rfl

theorem sandi (f : SI) : Statement (.sandi f) := by
  intro _ w e
  obtain rfl : packSI 0xe f = w := Option.some.inj e
  rw [decodeWord_packSI, decodeUniform, opcOf_packSI, siOf_packSI]
  rfl

theorem sori (f : SI) : Statement (.sori f) := by
  intro _ w e
  obtain rfl : packSI 0xf f = w := Option.some.inj e
  rw [decodeWord_packSI, decodeUniform, opcOf_packSI, siOf_packSI]
  rfl

theorem sshli (f : SI) : Statement (.sshli f) := by
  intro h w e
  obtain rfl : packSI 0x10 f = w := Option.some.inj e
  rw [decodeWord_packSI, decodeUniform, opcOf_packSI, siOf_packSI]
  have h : (uShiftKind f == 0) = true := h
  simp only [beq_iff_eq] at h
  exact if_pos h

theorem sshri (f : SI) : Statement (.sshri f) := by
  intro h w e
  obtain rfl : packSI 0x10 f = w := Option.some.inj e
  rw [decodeWord_packSI, decodeUniform, opcOf_packSI, siOf_packSI]
  have h : (uShiftKind f == 1) = true := h
  simp only [beq_iff_eq] at h
  exact (if_neg (by rw [h]; decide)).trans (if_pos h)

theorem ssari (f : SI) : Statement (.ssari f) := by
  intro h w e
  obtain rfl : packSI 0x10 f = w := Option.some.inj e
  rw [decodeWord_packSI, decodeUniform, opcOf_packSI, siOf_packSI]
  have h : (uShiftKind f == 2) = true := h
  simp only [beq_iff_eq] at h
  exact (if_neg (by rw [h]; decide)).trans ((if_neg (by rw [h]; decide)).trans (if_pos h))

theorem smovi (f : SW) : Statement (.smovi f) := by
  intro _ w e
  obtain rfl : packSW 0x11 f = w := Option.some.inj e
  rw [decodeWord_packSW, decodeUniform, opcOf_packSW, swOf_packSW]
  rfl

theorem smovh (f : SW) : Statement (.smovh f) := by
  intro _ w e
  obtain rfl : packSW 0x12 f = w := Option.some.inj e
  rw [decodeWord_packSW, decodeUniform, opcOf_packSW, swOf_packSW]
  rfl

theorem sld (f : SI) : Statement (.sld f) := by
  intro _ w e
  obtain rfl : packSI 0x13 f = w := Option.some.inj e
  rw [decodeWord_packSI, decodeUniform, opcOf_packSI, siOf_packSI]
  rfl

theorem sst (f : SI) : Statement (.sst f) := by
  intro _ w e
  obtain rfl : packSI 0x14 f = w := Option.some.inj e
  rw [decodeWord_packSI, decodeUniform, opcOf_packSI, siOf_packSI]
  rfl

theorem sbz (f : SB) : Statement (.sbz f) := by
  intro _ w e
  obtain rfl : packSB 0x15 f = w := Option.some.inj e
  rw [decodeWord_packSB, decodeUniform, opcOf_packSB, sbOf_packSB]
  rfl

theorem sbnz (f : SB) : Statement (.sbnz f) := by
  intro _ w e
  obtain rfl : packSB 0x16 f = w := Option.some.inj e
  rw [decodeWord_packSB, decodeUniform, opcOf_packSB, sbOf_packSB]
  rfl

theorem srd (f : SI) : Statement (.srd f) := by
  intro h w e
  obtain rfl : packSI 0x17 f = w := Option.some.inj e
  rw [decodeWord_packSI, decodeUniform, opcOf_packSI, siOf_packSI]
  have h : (f.imm.ult 6) = true := h
  exact if_pos h

theorem swr (f : SI) : Statement (.swr f) := by
  intro h w e
  obtain rfl : packSI 0x18 f = w := Option.some.inj e
  rw [decodeWord_packSI, decodeUniform, opcOf_packSI, siOf_packSI]
  have h : (f.imm.ult 6) = true := h
  exact if_pos h

theorem vtos (f : SA) : Statement (.vtos f) := by
  intro _ w e
  obtain rfl : packSA 0x19 f = w := Option.some.inj e
  rw [decodeWord_packSA, decodeUniform, opcOf_packSA, saOf_packSA]
  rfl

theorem bind (f : SA) : Statement (.bind f) := by
  intro h w e
  obtain rfl : packSA 0x1a f = w := Option.some.inj e
  rw [decodeWord_packSA, decodeUniform, opcOf_packSA, saOf_packSA]
  have h : (f.fn == 0) = true := h
  simp only [beq_iff_eq] at h
  exact if_pos h

theorem unbind (f : SA) : Statement (.unbind f) := by
  intro h w e
  obtain rfl : packSA 0x1a f = w := Option.some.inj e
  rw [decodeWord_packSA, decodeUniform, opcOf_packSA, saOf_packSA]
  have h : (f.fn == 1) = true := h
  simp only [beq_iff_eq] at h
  exact (if_neg (by rw [h]; decide)).trans (if_pos h)

theorem hod (f : SA) : Statement (.hod f) := by
  intro _ w e
  obtain rfl : packSA 0x1b f = w := Option.some.inj e
  rw [decodeWord_packSA, decodeUniform, opcOf_packSA, saOf_packSA]
  rfl

theorem loom (f : SA) : Statement (.loom f) := by
  intro _ w e
  obtain rfl : packSA 0x1c f = w := Option.some.inj e
  rw [decodeWord_packSA, decodeUniform, opcOf_packSA, saOf_packSA]
  rfl

theorem task (f : SA) : Statement (.task f) := by
  intro h w e
  obtain rfl : packSA 0x1d f = w := Option.some.inj e
  rw [decodeWord_packSA, decodeUniform, opcOf_packSA, saOf_packSA]
  have h : (f.fn == 0) = true := h
  simp only [beq_iff_eq] at h
  exact if_pos h

theorem taskServe (f : SA) : Statement (.taskServe f) := by
  intro h w e
  obtain rfl : packSA 0x1d f = w := Option.some.inj e
  rw [decodeWord_packSA, decodeUniform, opcOf_packSA, saOf_packSA]
  have h : (f.fn == 1) = true := h
  simp only [beq_iff_eq] at h
  exact (if_neg (by rw [h]; decide)).trans (if_pos h)

theorem gset (f : SA) : Statement (.gset f) := by
  intro _ w e
  obtain rfl : packSA 0x1e f = w := Option.some.inj e
  rw [decodeWord_packSA, decodeUniform, opcOf_packSA, saOf_packSA]
  rfl

theorem ksarm (f : SA) : Statement (.ksarm f) := by
  intro _ w e
  obtain rfl : packSA 0x1f f = w := Option.some.inj e
  rw [decodeWord_packSA, decodeUniform, opcOf_packSA, saOf_packSA]
  rfl

theorem ksdis (f : SA) : Statement (.ksdis f) := by
  intro _ w e
  obtain rfl : packSA 0x20 f = w := Option.some.inj e
  rw [decodeWord_packSA, decodeUniform, opcOf_packSA, saOf_packSA]
  rfl

theorem ksrd (f : SA) : Statement (.ksrd f) := by
  intro _ w e
  obtain rfl : packSA 0x21 f = w := Option.some.inj e
  rw [decodeWord_packSA, decodeUniform, opcOf_packSA, saOf_packSA]
  rfl

theorem qfence (f : SA) : Statement (.qfence f) := by
  intro _ w e
  obtain rfl : packSA 0x22 f = w := Option.some.inj e
  rw [decodeWord_packSA, decodeUniform, opcOf_packSA, saOf_packSA]
  rfl

theorem asrd (f : SA) : Statement (.asrd f) := by
  intro _ w e
  obtain rfl : packSA 0x23 f = w := Option.some.inj e
  rw [decodeWord_packSA, decodeUniform, opcOf_packSA, saOf_packSA]
  rfl

theorem asrdp (f : SA) : Statement (.asrdp f) := by
  intro _ w e
  obtain rfl : packSA 0x24 f = w := Option.some.inj e
  rw [decodeWord_packSA, decodeUniform, opcOf_packSA, saOf_packSA]
  rfl

theorem aswait (f : SA) : Statement (.aswait f) := by
  intro _ w e
  obtain rfl : packSA 0x25 f = w := Option.some.inj e
  rw [decodeWord_packSA, decodeUniform, opcOf_packSA, saOf_packSA]
  rfl

theorem netld (f : SA) : Statement (.netld f) := by
  intro _ w e
  obtain rfl : packSA 0x26 f = w := Option.some.inj e
  rw [decodeWord_packSA, decodeUniform, opcOf_packSA, saOf_packSA]
  rfl

theorem loadComplete (id : CtxId) (num : Nat) : Statement (.loadComplete id num) := fun _ _ e => nomatch e

theorem longLatencyComplete (id : CtxId) (num : Nat) : Statement (.longLatencyComplete id num) := fun _ _ e => nomatch e

theorem storeVisible (num : Nat) : Statement (.storeVisible num) := fun _ _ e => nomatch e

theorem atomicPerform (id : CtxId) (num : Nat) : Statement (.atomicPerform id num) := fun _ _ e => nomatch e

theorem faultRecordWrite (core : Nat) : Statement (.faultRecordWrite core) := fun _ _ e => nomatch e

theorem faultResolved (core idx : Nat) : Statement (.faultResolved core idx) := fun _ _ e => nomatch e

theorem faultAbort (core idx : Nat) : Statement (.faultAbort core idx) := fun _ _ e => nomatch e

theorem rendezvousRelease (wg team : Nat) : Statement (.rendezvousRelease wg team) := fun _ _ e => nomatch e

theorem barrierPhaseComplete (wg bar : Nat) : Statement (.barrierPhaseComplete wg bar) := fun _ _ e => nomatch e

theorem acqComplete (id : CtxId) (num : Nat) : Statement (.acqComplete id num) := fun _ _ e => nomatch e

theorem waitaComplete (id : CtxId) (num : Nat) : Statement (.waitaComplete id num) := fun _ _ e => nomatch e

theorem waittComplete (id : CtxId) (num : Nat) : Statement (.waittComplete id num) := fun _ _ e => nomatch e

theorem aswaitComplete (wg team : Nat) : Statement (.aswaitComplete wg team) := fun _ _ e => nomatch e

theorem cwaitComplete (id : CtxId) (num : Nat) : Statement (.cwaitComplete id num) := fun _ _ e => nomatch e

theorem vqputComplete (wg team : Nat) : Statement (.vqputComplete wg team) := fun _ _ e => nomatch e

theorem vqgetComplete (wg team : Nat) : Statement (.vqgetComplete wg team) := fun _ _ e => nomatch e

theorem hgiveComplete (id : CtxId) (num : Nat) : Statement (.hgiveComplete id num) := fun _ _ e => nomatch e

theorem fenceHvRequest (id : CtxId) (num core : Nat) : Statement (.fenceHvRequest id num core) := fun _ _ e => nomatch e

theorem threadHalt (wg tix : Nat) : Statement (.threadHalt wg tix) := fun _ _ e => nomatch e

theorem pickerPassoverLimit (core part : Nat) (pipe : Pipe) : Statement (.pickerPassoverLimit core part pipe) := fun _ _ e => nomatch e

theorem yieldExpiry (id : CtxId) : Statement (.yieldExpiry id) := fun _ _ e => nomatch e

theorem doorbell (q : Nat) (count : Nat) : Statement (.doorbell q count) := fun _ _ e => nomatch e

theorem packetNop (q : Nat) : Statement (.packetNop q) := fun _ _ e => nomatch e

theorem packetLaunch (q : Nat) : Statement (.packetLaunch q) := fun _ _ e => nomatch e

theorem packetOtherKind (q : Nat) : Statement (.packetOtherKind q) := fun _ _ e => nomatch e

theorem launchStart (l : Nat) : Statement (.launchStart l) := fun _ _ e => nomatch e

theorem workgroupDispatch (l : Nat) : Statement (.workgroupDispatch l) := fun _ _ e => nomatch e

theorem coresidentPlacement (l : Nat) : Statement (.coresidentPlacement l) := fun _ _ e => nomatch e

theorem gridFinish (l : Nat) : Statement (.gridFinish l) := fun _ _ e => nomatch e

theorem assayCommit (l : Nat) : Statement (.assayCommit l) := fun _ _ e => nomatch e

theorem assayFinalisation (l : Nat) : Statement (.assayFinalisation l) := fun _ _ e => nomatch e

theorem deadlineRule (l : Nat) : Statement (.deadlineRule l) := fun _ _ e => nomatch e

theorem energyMeasurement (energies : List Nat) : Statement (.energyMeasurement energies) := fun _ _ e => nomatch e

theorem gridStall (l : Nat) : Statement (.gridStall l) := fun _ _ e => nomatch e

theorem workgroupPreempt (wg : Nat) : Statement (.workgroupPreempt wg) := fun _ _ e => nomatch e

theorem workgroupRestore (wg : Nat) : Statement (.workgroupRestore wg) := fun _ _ e => nomatch e

theorem queueRotation : Statement (.queueRotation) := fun _ _ e => nomatch e

theorem foremanStart (core q : Nat) : Statement (.foremanStart core q) := fun _ _ e => nomatch e

theorem loomWload (core : Nat) : Statement (.loomWload core) := fun _ _ e => nomatch e

theorem loomMmul (core : Nat) : Statement (.loomMmul core) := fun _ _ e => nomatch e

theorem loomDrain (core : Nat) : Statement (.loomDrain core) := fun _ _ e => nomatch e

theorem loomZero (core : Nat) : Statement (.loomZero core) := fun _ _ e => nomatch e

theorem loomTaskComplete (core : Nat) : Statement (.loomTaskComplete core) := fun _ _ e => nomatch e

theorem hodChunk (core : Nat) : Statement (.hodChunk core) := fun _ _ e => nomatch e

theorem hodCopyComplete (core : Nat) : Statement (.hodCopyComplete core) := fun _ _ e => nomatch e

theorem quarryTaskComplete (core : Nat) : Statement (.quarryTaskComplete core) := fun _ _ e => nomatch e

theorem eosComplete (core q : Nat) : Statement (.eosComplete core q) := fun _ _ e => nomatch e

theorem qfenceComplete (core q : Nat) : Statement (.qfenceComplete core q) := fun _ _ e => nomatch e

theorem teamTaskComplete (core q : Nat) : Statement (.teamTaskComplete core q) := fun _ _ e => nomatch e

theorem keystonePendingEnqueue (ctrl num : Nat) : Statement (.keystonePendingEnqueue ctrl num) := fun _ _ e => nomatch e

theorem idleTreeSample : Statement (.idleTreeSample) := fun _ _ e => nomatch e

theorem collectiveChunkSend (tier : Nat) : Statement (.collectiveChunkSend tier) := fun _ _ e => nomatch e

theorem collectiveChunkArrival (m : CollMsg) : Statement (.collectiveChunkArrival m) := fun _ _ e => nomatch e

theorem spanOneSidedArrival (p : SpanPkt) : Statement (.spanOneSidedArrival p) := fun _ _ e => nomatch e

theorem spanForward (t : SpanTraffic) : Statement (.spanForward t) := fun _ _ e => nomatch e

theorem spanReturnUnreach (p : SpanPkt) : Statement (.spanReturnUnreach p) := fun _ _ e => nomatch e

theorem hostMemRead (addr size : Nat) : Statement (.hostMemRead addr size) := fun _ _ e => nomatch e

theorem hostMemWrite (addr : Nat) (bytes : List Byte) (poisoned : Bool) : Statement (.hostMemWrite addr bytes poisoned) := fun _ _ e => nomatch e

theorem qreg (q : Nat) (desc : List Byte) : Statement (.qreg q desc) := fun _ _ e => nomatch e

theorem qabort (q : Nat) : Statement (.qabort q) := fun _ _ e => nomatch e

theorem invalidate (addr size : Nat) : Statement (.invalidate addr size) := fun _ _ e => nomatch e

theorem invalidateComplete : Statement (.invalidateComplete) := fun _ _ e => nomatch e

theorem clearbind : Statement (.clearbind) := fun _ _ e => nomatch e

theorem setbudget (cores : List Nat) (budget : Nat) : Statement (.setbudget cores budget) := fun _ _ e => nomatch e

theorem setpool (n : Nat) : Statement (.setpool n) := fun _ _ e => nomatch e

theorem setcap (watts : Nat) : Statement (.setcap watts) := fun _ _ e => nomatch e

theorem commcfg (k : Nat) (rec : List Byte) : Statement (.commcfg k rec) := fun _ _ e => nomatch e

theorem restore (addr : Nat) : Statement (.restore addr) := fun _ _ e => nomatch e

theorem debugHalt (sel : DebugSel) : Statement (.debugHalt sel) := fun _ _ e => nomatch e

theorem debugResume (sel : DebugSel) : Statement (.debugResume sel) := fun _ _ e => nomatch e

theorem debugBreakpointEnable (launch : Nat) : Statement (.debugBreakpointEnable launch) := fun _ _ e => nomatch e

theorem debugHaltForce (wg tix : Nat) : Statement (.debugHaltForce wg tix) := fun _ _ e => nomatch e

theorem errcount : Statement (.errcount) := fun _ _ e => nomatch e

theorem measure (nonce : List Byte) : Statement (.measure nonce) := fun _ _ e => nomatch e

theorem reload (image : List Byte) (startable : Bool) : Statement (.reload image startable) := fun _ _ e => nomatch e

theorem devnum (arg : List Byte) : Statement (.devnum arg) := fun _ _ e => nomatch e

theorem routes (arg : List Byte) : Statement (.routes arg) := fun _ _ e => nomatch e

theorem mailboxOtherCode (code : Nat) : Statement (.mailboxOtherCode code) := fun _ _ e => nomatch e

theorem reset : Statement (.reset) := fun _ _ e => nomatch e

theorem powerGate (core : Nat) : Statement (.powerGate core) := fun _ _ e => nomatch e

theorem powerUp (core : Nat) : Statement (.powerUp core) := fun _ _ e => nomatch e

theorem frequencyChange (core mhz : Nat) : Statement (.frequencyChange core mhz) := fun _ _ e => nomatch e

theorem thermalMigration (wg core : Nat) : Statement (.thermalMigration wg core) := fun _ _ e => nomatch e

theorem captureSessionStart (regions : List (Nat × Nat)) (area : Nat) : Statement (.captureSessionStart regions area) := fun _ _ e => nomatch e

theorem captureReplay : Statement (.captureReplay) := fun _ _ e => nomatch e

theorem softError (site : ErrSite) (correctable : Bool) : Statement (.softError site correctable) := fun _ _ e => nomatch e

theorem powerCapping (pool grants : Nat) : Statement (.powerCapping pool grants) := fun _ _ e => nomatch e

theorem instructionCacheFill (core part addr : Nat) : Statement (.instructionCacheFill core part addr) := fun _ _ e => nomatch e

theorem spanAcknowledgement (num : Nat) : Statement (.spanAcknowledgement num) := fun _ _ e => nomatch e

end Sys2Proof.Laws.Encoding
end

