-- ==== Sys2Proof/Laws/State.lean ====
section
/-!
SUPPORT. Sys2Proof/Laws/State.lean: what each named update of the state leaves of each field.
-/
namespace Sys2Proof.Machine

/-! ### State.mapCtx -/

@[simp] theorem State.mapCtx_ctxs (s : State) (g : Ctx → Ctx) : (s.mapCtx g).ctxs = s.ctxs.map g := rfl
@[simp] theorem State.mapCtx_forks (s : State) (g : Ctx → Ctx) : (s.mapCtx g).forks = s.forks := rfl
@[simp] theorem State.mapCtx_teams (s : State) (g : Ctx → Ctx) : (s.mapCtx g).teams = s.teams := rfl
@[simp] theorem State.mapCtx_wgs (s : State) (g : Ctx → Ctx) : (s.mapCtx g).wgs = s.wgs := rfl
@[simp] theorem State.mapCtx_launches (s : State) (g : Ctx → Ctx) : (s.mapCtx g).launches = s.launches := rfl
@[simp] theorem State.mapCtx_cores (s : State) (g : Ctx → Ctx) : (s.mapCtx g).cores = s.cores := rfl
@[simp] theorem State.mapCtx_parts (s : State) (g : Ctx → Ctx) : (s.mapCtx g).parts = s.parts := rfl
@[simp] theorem State.mapCtx_keystones (s : State) (g : Ctx → Ctx) : (s.mapCtx g).keystones = s.keystones := rfl
@[simp] theorem State.mapCtx_mem (s : State) (g : Ctx → Ctx) : (s.mapCtx g).mem = s.mem := rfl
@[simp] theorem State.mapCtx_poison (s : State) (g : Ctx → Ctx) : (s.mapCtx g).poison = s.poison := rfl
@[simp] theorem State.mapCtx_stores (s : State) (g : Ctx → Ctx) : (s.mapCtx g).stores = s.stores := rfl
@[simp] theorem State.mapCtx_chunks (s : State) (g : Ctx → Ctx) : (s.mapCtx g).chunks = s.chunks := rfl
@[simp] theorem State.mapCtx_hodSent (s : State) (g : Ctx → Ctx) : (s.mapCtx g).hodSent = s.hodSent := rfl
@[simp] theorem State.mapCtx_fits (s : State) (g : Ctx → Ctx) : (s.mapCtx g).fits = s.fits := rfl
@[simp] theorem State.mapCtx_got (s : State) (g : Ctx → Ctx) : (s.mapCtx g).got = s.got := rfl
@[simp] theorem State.mapCtx_releases (s : State) (g : Ctx → Ctx) : (s.mapCtx g).releases = s.releases := rfl
@[simp] theorem State.mapCtx_marks (s : State) (g : Ctx → Ctx) : (s.mapCtx g).marks = s.marks := rfl
@[simp] theorem State.mapCtx_seen (s : State) (g : Ctx → Ctx) : (s.mapCtx g).seen = s.seen := rfl
@[simp] theorem State.mapCtx_acks (s : State) (g : Ctx → Ctx) : (s.mapCtx g).acks = s.acks := rfl
@[simp] theorem State.mapCtx_tlb (s : State) (g : Ctx → Ctx) : (s.mapCtx g).tlb = s.tlb := rfl
@[simp] theorem State.mapCtx_bindings (s : State) (g : Ctx → Ctx) : (s.mapCtx g).bindings = s.bindings := rfl
@[simp] theorem State.mapCtx_dcycle (s : State) (g : Ctx → Ctx) : (s.mapCtx g).dcycle = s.dcycle := rfl
@[simp] theorem State.mapCtx_metered (s : State) (g : Ctx → Ctx) : (s.mapCtx g).metered = s.metered := rfl
@[simp] theorem State.mapCtx_nextLaunch (s : State) (g : Ctx → Ctx) : (s.mapCtx g).nextLaunch = s.nextLaunch := rfl
@[simp] theorem State.mapCtx_nextWg (s : State) (g : Ctx → Ctx) : (s.mapCtx g).nextWg = s.nextWg := rfl
@[simp] theorem State.mapCtx_queues (s : State) (g : Ctx → Ctx) : (s.mapCtx g).queues = s.queues := rfl
@[simp] theorem State.mapCtx_slots (s : State) (g : Ctx → Ctx) : (s.mapCtx g).slots = s.slots := rfl
@[simp] theorem State.mapCtx_rotLast (s : State) (g : Ctx → Ctx) : (s.mapCtx g).rotLast = s.rotLast := rfl
@[simp] theorem State.mapCtx_pool (s : State) (g : Ctx → Ctx) : (s.mapCtx g).pool = s.pool := rfl
@[simp] theorem State.mapCtx_cap (s : State) (g : Ctx → Ctx) : (s.mapCtx g).cap = s.cap := rfl
@[simp] theorem State.mapCtx_alert (s : State) (g : Ctx → Ctx) : (s.mapCtx g).alert = s.alert := rfl
@[simp] theorem State.mapCtx_idleSample (s : State) (g : Ctx → Ctx) : (s.mapCtx g).idleSample = s.idleSample := rfl
@[simp] theorem State.mapCtx_enqueued (s : State) (g : Ctx → Ctx) : (s.mapCtx g).enqueued = s.enqueued := rfl
@[simp] theorem State.mapCtx_completed (s : State) (g : Ctx → Ctx) : (s.mapCtx g).completed = s.completed := rfl
@[simp] theorem State.mapCtx_comms (s : State) (g : Ctx → Ctx) : (s.mapCtx g).comms = s.comms := rfl
@[simp] theorem State.mapCtx_collOut (s : State) (g : Ctx → Ctx) : (s.mapCtx g).collOut = s.collOut := rfl
@[simp] theorem State.mapCtx_collIn (s : State) (g : Ctx → Ctx) : (s.mapCtx g).collIn = s.collIn := rfl
@[simp] theorem State.mapCtx_collLast (s : State) (g : Ctx → Ctx) : (s.mapCtx g).collLast = s.collLast := rfl
@[simp] theorem State.mapCtx_devnum (s : State) (g : Ctx → Ctx) : (s.mapCtx g).devnum = s.devnum := rfl
@[simp] theorem State.mapCtx_routes (s : State) (g : Ctx → Ctx) : (s.mapCtx g).routes = s.routes := rfl
@[simp] theorem State.mapCtx_linkOut (s : State) (g : Ctx → Ctx) : (s.mapCtx g).linkOut = s.linkOut := rfl
@[simp] theorem State.mapCtx_mailbox (s : State) (g : Ctx → Ctx) : (s.mapCtx g).mailbox = s.mailbox := rfl
@[simp] theorem State.mapCtx_mboxStatus (s : State) (g : Ctx → Ctx) : (s.mapCtx g).mboxStatus = s.mboxStatus := rfl
@[simp] theorem State.mapCtx_mboxData (s : State) (g : Ctx → Ctx) : (s.mapCtx g).mboxData = s.mboxData := rfl
@[simp] theorem State.mapCtx_invalidating (s : State) (g : Ctx → Ctx) : (s.mapCtx g).invalidating = s.invalidating := rfl
@[simp] theorem State.mapCtx_hostData (s : State) (g : Ctx → Ctx) : (s.mapCtx g).hostData = s.hostData := rfl
@[simp] theorem State.mapCtx_hostPoison (s : State) (g : Ctx → Ctx) : (s.mapCtx g).hostPoison = s.hostPoison := rfl
@[simp] theorem State.mapCtx_corrected (s : State) (g : Ctx → Ctx) : (s.mapCtx g).corrected = s.corrected := rfl
@[simp] theorem State.mapCtx_clerk (s : State) (g : Ctx → Ctx) : (s.mapCtx g).clerk = s.clerk := rfl
@[simp] theorem State.mapCtx_firmware (s : State) (g : Ctx → Ctx) : (s.mapCtx g).firmware = s.firmware := rfl
@[simp] theorem State.mapCtx_running (s : State) (g : Ctx → Ctx) : (s.mapCtx g).running = s.running := rfl
@[simp] theorem State.mapCtx_capture (s : State) (g : Ctx → Ctx) : (s.mapCtx g).capture = s.capture := rfl
@[simp] theorem State.mapCtx_agenda (s : State) (g : Ctx → Ctx) : (s.mapCtx g).agenda = s.agenda := rfl
@[simp] theorem State.mapCtx_cur (s : State) (g : Ctx → Ctx) : (s.mapCtx g).cur = s.cur := rfl
@[simp] theorem State.mapCtx_nextNum (s : State) (g : Ctx → Ctx) : (s.mapCtx g).nextNum = s.nextNum := rfl

/-! ### State.onCtx -/

@[simp] theorem State.onCtx_ctxs (s : State) (id : CtxId) (g : Ctx → Ctx) : (s.onCtx id g).ctxs = s.ctxs.map (fun c => if c.id = id then g c else c) := rfl
@[simp] theorem State.onCtx_forks (s : State) (id : CtxId) (g : Ctx → Ctx) : (s.onCtx id g).forks = s.forks := rfl
@[simp] theorem State.onCtx_teams (s : State) (id : CtxId) (g : Ctx → Ctx) : (s.onCtx id g).teams = s.teams := rfl
@[simp] theorem State.onCtx_wgs (s : State) (id : CtxId) (g : Ctx → Ctx) : (s.onCtx id g).wgs = s.wgs := rfl
@[simp] theorem State.onCtx_launches (s : State) (id : CtxId) (g : Ctx → Ctx) : (s.onCtx id g).launches = s.launches := rfl
@[simp] theorem State.onCtx_cores (s : State) (id : CtxId) (g : Ctx → Ctx) : (s.onCtx id g).cores = s.cores := rfl
@[simp] theorem State.onCtx_parts (s : State) (id : CtxId) (g : Ctx → Ctx) : (s.onCtx id g).parts = s.parts := rfl
@[simp] theorem State.onCtx_keystones (s : State) (id : CtxId) (g : Ctx → Ctx) : (s.onCtx id g).keystones = s.keystones := rfl
@[simp] theorem State.onCtx_mem (s : State) (id : CtxId) (g : Ctx → Ctx) : (s.onCtx id g).mem = s.mem := rfl
@[simp] theorem State.onCtx_poison (s : State) (id : CtxId) (g : Ctx → Ctx) : (s.onCtx id g).poison = s.poison := rfl
@[simp] theorem State.onCtx_stores (s : State) (id : CtxId) (g : Ctx → Ctx) : (s.onCtx id g).stores = s.stores := rfl
@[simp] theorem State.onCtx_chunks (s : State) (id : CtxId) (g : Ctx → Ctx) : (s.onCtx id g).chunks = s.chunks := rfl
@[simp] theorem State.onCtx_hodSent (s : State) (id : CtxId) (g : Ctx → Ctx) : (s.onCtx id g).hodSent = s.hodSent := rfl
@[simp] theorem State.onCtx_fits (s : State) (id : CtxId) (g : Ctx → Ctx) : (s.onCtx id g).fits = s.fits := rfl
@[simp] theorem State.onCtx_got (s : State) (id : CtxId) (g : Ctx → Ctx) : (s.onCtx id g).got = s.got := rfl
@[simp] theorem State.onCtx_releases (s : State) (id : CtxId) (g : Ctx → Ctx) : (s.onCtx id g).releases = s.releases := rfl
@[simp] theorem State.onCtx_marks (s : State) (id : CtxId) (g : Ctx → Ctx) : (s.onCtx id g).marks = s.marks := rfl
@[simp] theorem State.onCtx_seen (s : State) (id : CtxId) (g : Ctx → Ctx) : (s.onCtx id g).seen = s.seen := rfl
@[simp] theorem State.onCtx_acks (s : State) (id : CtxId) (g : Ctx → Ctx) : (s.onCtx id g).acks = s.acks := rfl
@[simp] theorem State.onCtx_tlb (s : State) (id : CtxId) (g : Ctx → Ctx) : (s.onCtx id g).tlb = s.tlb := rfl
@[simp] theorem State.onCtx_bindings (s : State) (id : CtxId) (g : Ctx → Ctx) : (s.onCtx id g).bindings = s.bindings := rfl
@[simp] theorem State.onCtx_dcycle (s : State) (id : CtxId) (g : Ctx → Ctx) : (s.onCtx id g).dcycle = s.dcycle := rfl
@[simp] theorem State.onCtx_metered (s : State) (id : CtxId) (g : Ctx → Ctx) : (s.onCtx id g).metered = s.metered := rfl
@[simp] theorem State.onCtx_nextLaunch (s : State) (id : CtxId) (g : Ctx → Ctx) : (s.onCtx id g).nextLaunch = s.nextLaunch := rfl
@[simp] theorem State.onCtx_nextWg (s : State) (id : CtxId) (g : Ctx → Ctx) : (s.onCtx id g).nextWg = s.nextWg := rfl
@[simp] theorem State.onCtx_queues (s : State) (id : CtxId) (g : Ctx → Ctx) : (s.onCtx id g).queues = s.queues := rfl
@[simp] theorem State.onCtx_slots (s : State) (id : CtxId) (g : Ctx → Ctx) : (s.onCtx id g).slots = s.slots := rfl
@[simp] theorem State.onCtx_rotLast (s : State) (id : CtxId) (g : Ctx → Ctx) : (s.onCtx id g).rotLast = s.rotLast := rfl
@[simp] theorem State.onCtx_pool (s : State) (id : CtxId) (g : Ctx → Ctx) : (s.onCtx id g).pool = s.pool := rfl
@[simp] theorem State.onCtx_cap (s : State) (id : CtxId) (g : Ctx → Ctx) : (s.onCtx id g).cap = s.cap := rfl
@[simp] theorem State.onCtx_alert (s : State) (id : CtxId) (g : Ctx → Ctx) : (s.onCtx id g).alert = s.alert := rfl
@[simp] theorem State.onCtx_idleSample (s : State) (id : CtxId) (g : Ctx → Ctx) : (s.onCtx id g).idleSample = s.idleSample := rfl
@[simp] theorem State.onCtx_enqueued (s : State) (id : CtxId) (g : Ctx → Ctx) : (s.onCtx id g).enqueued = s.enqueued := rfl
@[simp] theorem State.onCtx_completed (s : State) (id : CtxId) (g : Ctx → Ctx) : (s.onCtx id g).completed = s.completed := rfl
@[simp] theorem State.onCtx_comms (s : State) (id : CtxId) (g : Ctx → Ctx) : (s.onCtx id g).comms = s.comms := rfl
@[simp] theorem State.onCtx_collOut (s : State) (id : CtxId) (g : Ctx → Ctx) : (s.onCtx id g).collOut = s.collOut := rfl
@[simp] theorem State.onCtx_collIn (s : State) (id : CtxId) (g : Ctx → Ctx) : (s.onCtx id g).collIn = s.collIn := rfl
@[simp] theorem State.onCtx_collLast (s : State) (id : CtxId) (g : Ctx → Ctx) : (s.onCtx id g).collLast = s.collLast := rfl
@[simp] theorem State.onCtx_devnum (s : State) (id : CtxId) (g : Ctx → Ctx) : (s.onCtx id g).devnum = s.devnum := rfl
@[simp] theorem State.onCtx_routes (s : State) (id : CtxId) (g : Ctx → Ctx) : (s.onCtx id g).routes = s.routes := rfl
@[simp] theorem State.onCtx_linkOut (s : State) (id : CtxId) (g : Ctx → Ctx) : (s.onCtx id g).linkOut = s.linkOut := rfl
@[simp] theorem State.onCtx_mailbox (s : State) (id : CtxId) (g : Ctx → Ctx) : (s.onCtx id g).mailbox = s.mailbox := rfl
@[simp] theorem State.onCtx_mboxStatus (s : State) (id : CtxId) (g : Ctx → Ctx) : (s.onCtx id g).mboxStatus = s.mboxStatus := rfl
@[simp] theorem State.onCtx_mboxData (s : State) (id : CtxId) (g : Ctx → Ctx) : (s.onCtx id g).mboxData = s.mboxData := rfl
@[simp] theorem State.onCtx_invalidating (s : State) (id : CtxId) (g : Ctx → Ctx) : (s.onCtx id g).invalidating = s.invalidating := rfl
@[simp] theorem State.onCtx_hostData (s : State) (id : CtxId) (g : Ctx → Ctx) : (s.onCtx id g).hostData = s.hostData := rfl
@[simp] theorem State.onCtx_hostPoison (s : State) (id : CtxId) (g : Ctx → Ctx) : (s.onCtx id g).hostPoison = s.hostPoison := rfl
@[simp] theorem State.onCtx_corrected (s : State) (id : CtxId) (g : Ctx → Ctx) : (s.onCtx id g).corrected = s.corrected := rfl
@[simp] theorem State.onCtx_clerk (s : State) (id : CtxId) (g : Ctx → Ctx) : (s.onCtx id g).clerk = s.clerk := rfl
@[simp] theorem State.onCtx_firmware (s : State) (id : CtxId) (g : Ctx → Ctx) : (s.onCtx id g).firmware = s.firmware := rfl
@[simp] theorem State.onCtx_running (s : State) (id : CtxId) (g : Ctx → Ctx) : (s.onCtx id g).running = s.running := rfl
@[simp] theorem State.onCtx_capture (s : State) (id : CtxId) (g : Ctx → Ctx) : (s.onCtx id g).capture = s.capture := rfl
@[simp] theorem State.onCtx_agenda (s : State) (id : CtxId) (g : Ctx → Ctx) : (s.onCtx id g).agenda = s.agenda := rfl
@[simp] theorem State.onCtx_cur (s : State) (id : CtxId) (g : Ctx → Ctx) : (s.onCtx id g).cur = s.cur := rfl
@[simp] theorem State.onCtx_nextNum (s : State) (id : CtxId) (g : Ctx → Ctx) : (s.onCtx id g).nextNum = s.nextNum := rfl

/-! ### State.onTeam -/

@[simp] theorem State.onTeam_ctxs (s : State) (wg idx : Nat) (g : Team → Team) : (s.onTeam wg idx g).ctxs = s.ctxs := rfl
@[simp] theorem State.onTeam_forks (s : State) (wg idx : Nat) (g : Team → Team) : (s.onTeam wg idx g).forks = s.forks := rfl
@[simp] theorem State.onTeam_teams (s : State) (wg idx : Nat) (g : Team → Team) : (s.onTeam wg idx g).teams = s.teams.map (fun t => if t.wg = wg ∧ t.idx = idx then g t else t) := rfl
@[simp] theorem State.onTeam_wgs (s : State) (wg idx : Nat) (g : Team → Team) : (s.onTeam wg idx g).wgs = s.wgs := rfl
@[simp] theorem State.onTeam_launches (s : State) (wg idx : Nat) (g : Team → Team) : (s.onTeam wg idx g).launches = s.launches := rfl
@[simp] theorem State.onTeam_cores (s : State) (wg idx : Nat) (g : Team → Team) : (s.onTeam wg idx g).cores = s.cores := rfl
@[simp] theorem State.onTeam_parts (s : State) (wg idx : Nat) (g : Team → Team) : (s.onTeam wg idx g).parts = s.parts := rfl
@[simp] theorem State.onTeam_keystones (s : State) (wg idx : Nat) (g : Team → Team) : (s.onTeam wg idx g).keystones = s.keystones := rfl
@[simp] theorem State.onTeam_mem (s : State) (wg idx : Nat) (g : Team → Team) : (s.onTeam wg idx g).mem = s.mem := rfl
@[simp] theorem State.onTeam_poison (s : State) (wg idx : Nat) (g : Team → Team) : (s.onTeam wg idx g).poison = s.poison := rfl
@[simp] theorem State.onTeam_stores (s : State) (wg idx : Nat) (g : Team → Team) : (s.onTeam wg idx g).stores = s.stores := rfl
@[simp] theorem State.onTeam_chunks (s : State) (wg idx : Nat) (g : Team → Team) : (s.onTeam wg idx g).chunks = s.chunks := rfl
@[simp] theorem State.onTeam_hodSent (s : State) (wg idx : Nat) (g : Team → Team) : (s.onTeam wg idx g).hodSent = s.hodSent := rfl
@[simp] theorem State.onTeam_fits (s : State) (wg idx : Nat) (g : Team → Team) : (s.onTeam wg idx g).fits = s.fits := rfl
@[simp] theorem State.onTeam_got (s : State) (wg idx : Nat) (g : Team → Team) : (s.onTeam wg idx g).got = s.got := rfl
@[simp] theorem State.onTeam_releases (s : State) (wg idx : Nat) (g : Team → Team) : (s.onTeam wg idx g).releases = s.releases := rfl
@[simp] theorem State.onTeam_marks (s : State) (wg idx : Nat) (g : Team → Team) : (s.onTeam wg idx g).marks = s.marks := rfl
@[simp] theorem State.onTeam_seen (s : State) (wg idx : Nat) (g : Team → Team) : (s.onTeam wg idx g).seen = s.seen := rfl
@[simp] theorem State.onTeam_acks (s : State) (wg idx : Nat) (g : Team → Team) : (s.onTeam wg idx g).acks = s.acks := rfl
@[simp] theorem State.onTeam_tlb (s : State) (wg idx : Nat) (g : Team → Team) : (s.onTeam wg idx g).tlb = s.tlb := rfl
@[simp] theorem State.onTeam_bindings (s : State) (wg idx : Nat) (g : Team → Team) : (s.onTeam wg idx g).bindings = s.bindings := rfl
@[simp] theorem State.onTeam_dcycle (s : State) (wg idx : Nat) (g : Team → Team) : (s.onTeam wg idx g).dcycle = s.dcycle := rfl
@[simp] theorem State.onTeam_metered (s : State) (wg idx : Nat) (g : Team → Team) : (s.onTeam wg idx g).metered = s.metered := rfl
@[simp] theorem State.onTeam_nextLaunch (s : State) (wg idx : Nat) (g : Team → Team) : (s.onTeam wg idx g).nextLaunch = s.nextLaunch := rfl
@[simp] theorem State.onTeam_nextWg (s : State) (wg idx : Nat) (g : Team → Team) : (s.onTeam wg idx g).nextWg = s.nextWg := rfl
@[simp] theorem State.onTeam_queues (s : State) (wg idx : Nat) (g : Team → Team) : (s.onTeam wg idx g).queues = s.queues := rfl
@[simp] theorem State.onTeam_slots (s : State) (wg idx : Nat) (g : Team → Team) : (s.onTeam wg idx g).slots = s.slots := rfl
@[simp] theorem State.onTeam_rotLast (s : State) (wg idx : Nat) (g : Team → Team) : (s.onTeam wg idx g).rotLast = s.rotLast := rfl
@[simp] theorem State.onTeam_pool (s : State) (wg idx : Nat) (g : Team → Team) : (s.onTeam wg idx g).pool = s.pool := rfl
@[simp] theorem State.onTeam_cap (s : State) (wg idx : Nat) (g : Team → Team) : (s.onTeam wg idx g).cap = s.cap := rfl
@[simp] theorem State.onTeam_alert (s : State) (wg idx : Nat) (g : Team → Team) : (s.onTeam wg idx g).alert = s.alert := rfl
@[simp] theorem State.onTeam_idleSample (s : State) (wg idx : Nat) (g : Team → Team) : (s.onTeam wg idx g).idleSample = s.idleSample := rfl
@[simp] theorem State.onTeam_enqueued (s : State) (wg idx : Nat) (g : Team → Team) : (s.onTeam wg idx g).enqueued = s.enqueued := rfl
@[simp] theorem State.onTeam_completed (s : State) (wg idx : Nat) (g : Team → Team) : (s.onTeam wg idx g).completed = s.completed := rfl
@[simp] theorem State.onTeam_comms (s : State) (wg idx : Nat) (g : Team → Team) : (s.onTeam wg idx g).comms = s.comms := rfl
@[simp] theorem State.onTeam_collOut (s : State) (wg idx : Nat) (g : Team → Team) : (s.onTeam wg idx g).collOut = s.collOut := rfl
@[simp] theorem State.onTeam_collIn (s : State) (wg idx : Nat) (g : Team → Team) : (s.onTeam wg idx g).collIn = s.collIn := rfl
@[simp] theorem State.onTeam_collLast (s : State) (wg idx : Nat) (g : Team → Team) : (s.onTeam wg idx g).collLast = s.collLast := rfl
@[simp] theorem State.onTeam_devnum (s : State) (wg idx : Nat) (g : Team → Team) : (s.onTeam wg idx g).devnum = s.devnum := rfl
@[simp] theorem State.onTeam_routes (s : State) (wg idx : Nat) (g : Team → Team) : (s.onTeam wg idx g).routes = s.routes := rfl
@[simp] theorem State.onTeam_linkOut (s : State) (wg idx : Nat) (g : Team → Team) : (s.onTeam wg idx g).linkOut = s.linkOut := rfl
@[simp] theorem State.onTeam_mailbox (s : State) (wg idx : Nat) (g : Team → Team) : (s.onTeam wg idx g).mailbox = s.mailbox := rfl
@[simp] theorem State.onTeam_mboxStatus (s : State) (wg idx : Nat) (g : Team → Team) : (s.onTeam wg idx g).mboxStatus = s.mboxStatus := rfl
@[simp] theorem State.onTeam_mboxData (s : State) (wg idx : Nat) (g : Team → Team) : (s.onTeam wg idx g).mboxData = s.mboxData := rfl
@[simp] theorem State.onTeam_invalidating (s : State) (wg idx : Nat) (g : Team → Team) : (s.onTeam wg idx g).invalidating = s.invalidating := rfl
@[simp] theorem State.onTeam_hostData (s : State) (wg idx : Nat) (g : Team → Team) : (s.onTeam wg idx g).hostData = s.hostData := rfl
@[simp] theorem State.onTeam_hostPoison (s : State) (wg idx : Nat) (g : Team → Team) : (s.onTeam wg idx g).hostPoison = s.hostPoison := rfl
@[simp] theorem State.onTeam_corrected (s : State) (wg idx : Nat) (g : Team → Team) : (s.onTeam wg idx g).corrected = s.corrected := rfl
@[simp] theorem State.onTeam_clerk (s : State) (wg idx : Nat) (g : Team → Team) : (s.onTeam wg idx g).clerk = s.clerk := rfl
@[simp] theorem State.onTeam_firmware (s : State) (wg idx : Nat) (g : Team → Team) : (s.onTeam wg idx g).firmware = s.firmware := rfl
@[simp] theorem State.onTeam_running (s : State) (wg idx : Nat) (g : Team → Team) : (s.onTeam wg idx g).running = s.running := rfl
@[simp] theorem State.onTeam_capture (s : State) (wg idx : Nat) (g : Team → Team) : (s.onTeam wg idx g).capture = s.capture := rfl
@[simp] theorem State.onTeam_agenda (s : State) (wg idx : Nat) (g : Team → Team) : (s.onTeam wg idx g).agenda = s.agenda := rfl
@[simp] theorem State.onTeam_cur (s : State) (wg idx : Nat) (g : Team → Team) : (s.onTeam wg idx g).cur = s.cur := rfl
@[simp] theorem State.onTeam_nextNum (s : State) (wg idx : Nat) (g : Team → Team) : (s.onTeam wg idx g).nextNum = s.nextNum := rfl

/-! ### State.onWg -/

@[simp] theorem State.onWg_ctxs (s : State) (n : Nat) (g : Workgroup → Workgroup) : (s.onWg n g).ctxs = s.ctxs := rfl
@[simp] theorem State.onWg_forks (s : State) (n : Nat) (g : Workgroup → Workgroup) : (s.onWg n g).forks = s.forks := rfl
@[simp] theorem State.onWg_teams (s : State) (n : Nat) (g : Workgroup → Workgroup) : (s.onWg n g).teams = s.teams := rfl
@[simp] theorem State.onWg_wgs (s : State) (n : Nat) (g : Workgroup → Workgroup) : (s.onWg n g).wgs = s.wgs.map (fun w => if w.num = n then g w else w) := rfl
@[simp] theorem State.onWg_launches (s : State) (n : Nat) (g : Workgroup → Workgroup) : (s.onWg n g).launches = s.launches := rfl
@[simp] theorem State.onWg_cores (s : State) (n : Nat) (g : Workgroup → Workgroup) : (s.onWg n g).cores = s.cores := rfl
@[simp] theorem State.onWg_parts (s : State) (n : Nat) (g : Workgroup → Workgroup) : (s.onWg n g).parts = s.parts := rfl
@[simp] theorem State.onWg_keystones (s : State) (n : Nat) (g : Workgroup → Workgroup) : (s.onWg n g).keystones = s.keystones := rfl
@[simp] theorem State.onWg_mem (s : State) (n : Nat) (g : Workgroup → Workgroup) : (s.onWg n g).mem = s.mem := rfl
@[simp] theorem State.onWg_poison (s : State) (n : Nat) (g : Workgroup → Workgroup) : (s.onWg n g).poison = s.poison := rfl
@[simp] theorem State.onWg_stores (s : State) (n : Nat) (g : Workgroup → Workgroup) : (s.onWg n g).stores = s.stores := rfl
@[simp] theorem State.onWg_chunks (s : State) (n : Nat) (g : Workgroup → Workgroup) : (s.onWg n g).chunks = s.chunks := rfl
@[simp] theorem State.onWg_hodSent (s : State) (n : Nat) (g : Workgroup → Workgroup) : (s.onWg n g).hodSent = s.hodSent := rfl
@[simp] theorem State.onWg_fits (s : State) (n : Nat) (g : Workgroup → Workgroup) : (s.onWg n g).fits = s.fits := rfl
@[simp] theorem State.onWg_got (s : State) (n : Nat) (g : Workgroup → Workgroup) : (s.onWg n g).got = s.got := rfl
@[simp] theorem State.onWg_releases (s : State) (n : Nat) (g : Workgroup → Workgroup) : (s.onWg n g).releases = s.releases := rfl
@[simp] theorem State.onWg_marks (s : State) (n : Nat) (g : Workgroup → Workgroup) : (s.onWg n g).marks = s.marks := rfl
@[simp] theorem State.onWg_seen (s : State) (n : Nat) (g : Workgroup → Workgroup) : (s.onWg n g).seen = s.seen := rfl
@[simp] theorem State.onWg_acks (s : State) (n : Nat) (g : Workgroup → Workgroup) : (s.onWg n g).acks = s.acks := rfl
@[simp] theorem State.onWg_tlb (s : State) (n : Nat) (g : Workgroup → Workgroup) : (s.onWg n g).tlb = s.tlb := rfl
@[simp] theorem State.onWg_bindings (s : State) (n : Nat) (g : Workgroup → Workgroup) : (s.onWg n g).bindings = s.bindings := rfl
@[simp] theorem State.onWg_dcycle (s : State) (n : Nat) (g : Workgroup → Workgroup) : (s.onWg n g).dcycle = s.dcycle := rfl
@[simp] theorem State.onWg_metered (s : State) (n : Nat) (g : Workgroup → Workgroup) : (s.onWg n g).metered = s.metered := rfl
@[simp] theorem State.onWg_nextLaunch (s : State) (n : Nat) (g : Workgroup → Workgroup) : (s.onWg n g).nextLaunch = s.nextLaunch := rfl
@[simp] theorem State.onWg_nextWg (s : State) (n : Nat) (g : Workgroup → Workgroup) : (s.onWg n g).nextWg = s.nextWg := rfl
@[simp] theorem State.onWg_queues (s : State) (n : Nat) (g : Workgroup → Workgroup) : (s.onWg n g).queues = s.queues := rfl
@[simp] theorem State.onWg_slots (s : State) (n : Nat) (g : Workgroup → Workgroup) : (s.onWg n g).slots = s.slots := rfl
@[simp] theorem State.onWg_rotLast (s : State) (n : Nat) (g : Workgroup → Workgroup) : (s.onWg n g).rotLast = s.rotLast := rfl
@[simp] theorem State.onWg_pool (s : State) (n : Nat) (g : Workgroup → Workgroup) : (s.onWg n g).pool = s.pool := rfl
@[simp] theorem State.onWg_cap (s : State) (n : Nat) (g : Workgroup → Workgroup) : (s.onWg n g).cap = s.cap := rfl
@[simp] theorem State.onWg_alert (s : State) (n : Nat) (g : Workgroup → Workgroup) : (s.onWg n g).alert = s.alert := rfl
@[simp] theorem State.onWg_idleSample (s : State) (n : Nat) (g : Workgroup → Workgroup) : (s.onWg n g).idleSample = s.idleSample := rfl
@[simp] theorem State.onWg_enqueued (s : State) (n : Nat) (g : Workgroup → Workgroup) : (s.onWg n g).enqueued = s.enqueued := rfl
@[simp] theorem State.onWg_completed (s : State) (n : Nat) (g : Workgroup → Workgroup) : (s.onWg n g).completed = s.completed := rfl
@[simp] theorem State.onWg_comms (s : State) (n : Nat) (g : Workgroup → Workgroup) : (s.onWg n g).comms = s.comms := rfl
@[simp] theorem State.onWg_collOut (s : State) (n : Nat) (g : Workgroup → Workgroup) : (s.onWg n g).collOut = s.collOut := rfl
@[simp] theorem State.onWg_collIn (s : State) (n : Nat) (g : Workgroup → Workgroup) : (s.onWg n g).collIn = s.collIn := rfl
@[simp] theorem State.onWg_collLast (s : State) (n : Nat) (g : Workgroup → Workgroup) : (s.onWg n g).collLast = s.collLast := rfl
@[simp] theorem State.onWg_devnum (s : State) (n : Nat) (g : Workgroup → Workgroup) : (s.onWg n g).devnum = s.devnum := rfl
@[simp] theorem State.onWg_routes (s : State) (n : Nat) (g : Workgroup → Workgroup) : (s.onWg n g).routes = s.routes := rfl
@[simp] theorem State.onWg_linkOut (s : State) (n : Nat) (g : Workgroup → Workgroup) : (s.onWg n g).linkOut = s.linkOut := rfl
@[simp] theorem State.onWg_mailbox (s : State) (n : Nat) (g : Workgroup → Workgroup) : (s.onWg n g).mailbox = s.mailbox := rfl
@[simp] theorem State.onWg_mboxStatus (s : State) (n : Nat) (g : Workgroup → Workgroup) : (s.onWg n g).mboxStatus = s.mboxStatus := rfl
@[simp] theorem State.onWg_mboxData (s : State) (n : Nat) (g : Workgroup → Workgroup) : (s.onWg n g).mboxData = s.mboxData := rfl
@[simp] theorem State.onWg_invalidating (s : State) (n : Nat) (g : Workgroup → Workgroup) : (s.onWg n g).invalidating = s.invalidating := rfl
@[simp] theorem State.onWg_hostData (s : State) (n : Nat) (g : Workgroup → Workgroup) : (s.onWg n g).hostData = s.hostData := rfl
@[simp] theorem State.onWg_hostPoison (s : State) (n : Nat) (g : Workgroup → Workgroup) : (s.onWg n g).hostPoison = s.hostPoison := rfl
@[simp] theorem State.onWg_corrected (s : State) (n : Nat) (g : Workgroup → Workgroup) : (s.onWg n g).corrected = s.corrected := rfl
@[simp] theorem State.onWg_clerk (s : State) (n : Nat) (g : Workgroup → Workgroup) : (s.onWg n g).clerk = s.clerk := rfl
@[simp] theorem State.onWg_firmware (s : State) (n : Nat) (g : Workgroup → Workgroup) : (s.onWg n g).firmware = s.firmware := rfl
@[simp] theorem State.onWg_running (s : State) (n : Nat) (g : Workgroup → Workgroup) : (s.onWg n g).running = s.running := rfl
@[simp] theorem State.onWg_capture (s : State) (n : Nat) (g : Workgroup → Workgroup) : (s.onWg n g).capture = s.capture := rfl
@[simp] theorem State.onWg_agenda (s : State) (n : Nat) (g : Workgroup → Workgroup) : (s.onWg n g).agenda = s.agenda := rfl
@[simp] theorem State.onWg_cur (s : State) (n : Nat) (g : Workgroup → Workgroup) : (s.onWg n g).cur = s.cur := rfl
@[simp] theorem State.onWg_nextNum (s : State) (n : Nat) (g : Workgroup → Workgroup) : (s.onWg n g).nextNum = s.nextNum := rfl

/-! ### State.onLaunch -/

@[simp] theorem State.onLaunch_ctxs (s : State) (n : Nat) (g : Launch → Launch) : (s.onLaunch n g).ctxs = s.ctxs := rfl
@[simp] theorem State.onLaunch_forks (s : State) (n : Nat) (g : Launch → Launch) : (s.onLaunch n g).forks = s.forks := rfl
@[simp] theorem State.onLaunch_teams (s : State) (n : Nat) (g : Launch → Launch) : (s.onLaunch n g).teams = s.teams := rfl
@[simp] theorem State.onLaunch_wgs (s : State) (n : Nat) (g : Launch → Launch) : (s.onLaunch n g).wgs = s.wgs := rfl
@[simp] theorem State.onLaunch_launches (s : State) (n : Nat) (g : Launch → Launch) : (s.onLaunch n g).launches = s.launches.map (fun l => if l.num = n then g l else l) := rfl
@[simp] theorem State.onLaunch_cores (s : State) (n : Nat) (g : Launch → Launch) : (s.onLaunch n g).cores = s.cores := rfl
@[simp] theorem State.onLaunch_parts (s : State) (n : Nat) (g : Launch → Launch) : (s.onLaunch n g).parts = s.parts := rfl
@[simp] theorem State.onLaunch_keystones (s : State) (n : Nat) (g : Launch → Launch) : (s.onLaunch n g).keystones = s.keystones := rfl
@[simp] theorem State.onLaunch_mem (s : State) (n : Nat) (g : Launch → Launch) : (s.onLaunch n g).mem = s.mem := rfl
@[simp] theorem State.onLaunch_poison (s : State) (n : Nat) (g : Launch → Launch) : (s.onLaunch n g).poison = s.poison := rfl
@[simp] theorem State.onLaunch_stores (s : State) (n : Nat) (g : Launch → Launch) : (s.onLaunch n g).stores = s.stores := rfl
@[simp] theorem State.onLaunch_chunks (s : State) (n : Nat) (g : Launch → Launch) : (s.onLaunch n g).chunks = s.chunks := rfl
@[simp] theorem State.onLaunch_hodSent (s : State) (n : Nat) (g : Launch → Launch) : (s.onLaunch n g).hodSent = s.hodSent := rfl
@[simp] theorem State.onLaunch_fits (s : State) (n : Nat) (g : Launch → Launch) : (s.onLaunch n g).fits = s.fits := rfl
@[simp] theorem State.onLaunch_got (s : State) (n : Nat) (g : Launch → Launch) : (s.onLaunch n g).got = s.got := rfl
@[simp] theorem State.onLaunch_releases (s : State) (n : Nat) (g : Launch → Launch) : (s.onLaunch n g).releases = s.releases := rfl
@[simp] theorem State.onLaunch_marks (s : State) (n : Nat) (g : Launch → Launch) : (s.onLaunch n g).marks = s.marks := rfl
@[simp] theorem State.onLaunch_seen (s : State) (n : Nat) (g : Launch → Launch) : (s.onLaunch n g).seen = s.seen := rfl
@[simp] theorem State.onLaunch_acks (s : State) (n : Nat) (g : Launch → Launch) : (s.onLaunch n g).acks = s.acks := rfl
@[simp] theorem State.onLaunch_tlb (s : State) (n : Nat) (g : Launch → Launch) : (s.onLaunch n g).tlb = s.tlb := rfl
@[simp] theorem State.onLaunch_bindings (s : State) (n : Nat) (g : Launch → Launch) : (s.onLaunch n g).bindings = s.bindings := rfl
@[simp] theorem State.onLaunch_dcycle (s : State) (n : Nat) (g : Launch → Launch) : (s.onLaunch n g).dcycle = s.dcycle := rfl
@[simp] theorem State.onLaunch_metered (s : State) (n : Nat) (g : Launch → Launch) : (s.onLaunch n g).metered = s.metered := rfl
@[simp] theorem State.onLaunch_nextLaunch (s : State) (n : Nat) (g : Launch → Launch) : (s.onLaunch n g).nextLaunch = s.nextLaunch := rfl
@[simp] theorem State.onLaunch_nextWg (s : State) (n : Nat) (g : Launch → Launch) : (s.onLaunch n g).nextWg = s.nextWg := rfl
@[simp] theorem State.onLaunch_queues (s : State) (n : Nat) (g : Launch → Launch) : (s.onLaunch n g).queues = s.queues := rfl
@[simp] theorem State.onLaunch_slots (s : State) (n : Nat) (g : Launch → Launch) : (s.onLaunch n g).slots = s.slots := rfl
@[simp] theorem State.onLaunch_rotLast (s : State) (n : Nat) (g : Launch → Launch) : (s.onLaunch n g).rotLast = s.rotLast := rfl
@[simp] theorem State.onLaunch_pool (s : State) (n : Nat) (g : Launch → Launch) : (s.onLaunch n g).pool = s.pool := rfl
@[simp] theorem State.onLaunch_cap (s : State) (n : Nat) (g : Launch → Launch) : (s.onLaunch n g).cap = s.cap := rfl
@[simp] theorem State.onLaunch_alert (s : State) (n : Nat) (g : Launch → Launch) : (s.onLaunch n g).alert = s.alert := rfl
@[simp] theorem State.onLaunch_idleSample (s : State) (n : Nat) (g : Launch → Launch) : (s.onLaunch n g).idleSample = s.idleSample := rfl
@[simp] theorem State.onLaunch_enqueued (s : State) (n : Nat) (g : Launch → Launch) : (s.onLaunch n g).enqueued = s.enqueued := rfl
@[simp] theorem State.onLaunch_completed (s : State) (n : Nat) (g : Launch → Launch) : (s.onLaunch n g).completed = s.completed := rfl
@[simp] theorem State.onLaunch_comms (s : State) (n : Nat) (g : Launch → Launch) : (s.onLaunch n g).comms = s.comms := rfl
@[simp] theorem State.onLaunch_collOut (s : State) (n : Nat) (g : Launch → Launch) : (s.onLaunch n g).collOut = s.collOut := rfl
@[simp] theorem State.onLaunch_collIn (s : State) (n : Nat) (g : Launch → Launch) : (s.onLaunch n g).collIn = s.collIn := rfl
@[simp] theorem State.onLaunch_collLast (s : State) (n : Nat) (g : Launch → Launch) : (s.onLaunch n g).collLast = s.collLast := rfl
@[simp] theorem State.onLaunch_devnum (s : State) (n : Nat) (g : Launch → Launch) : (s.onLaunch n g).devnum = s.devnum := rfl
@[simp] theorem State.onLaunch_routes (s : State) (n : Nat) (g : Launch → Launch) : (s.onLaunch n g).routes = s.routes := rfl
@[simp] theorem State.onLaunch_linkOut (s : State) (n : Nat) (g : Launch → Launch) : (s.onLaunch n g).linkOut = s.linkOut := rfl
@[simp] theorem State.onLaunch_mailbox (s : State) (n : Nat) (g : Launch → Launch) : (s.onLaunch n g).mailbox = s.mailbox := rfl
@[simp] theorem State.onLaunch_mboxStatus (s : State) (n : Nat) (g : Launch → Launch) : (s.onLaunch n g).mboxStatus = s.mboxStatus := rfl
@[simp] theorem State.onLaunch_mboxData (s : State) (n : Nat) (g : Launch → Launch) : (s.onLaunch n g).mboxData = s.mboxData := rfl
@[simp] theorem State.onLaunch_invalidating (s : State) (n : Nat) (g : Launch → Launch) : (s.onLaunch n g).invalidating = s.invalidating := rfl
@[simp] theorem State.onLaunch_hostData (s : State) (n : Nat) (g : Launch → Launch) : (s.onLaunch n g).hostData = s.hostData := rfl
@[simp] theorem State.onLaunch_hostPoison (s : State) (n : Nat) (g : Launch → Launch) : (s.onLaunch n g).hostPoison = s.hostPoison := rfl
@[simp] theorem State.onLaunch_corrected (s : State) (n : Nat) (g : Launch → Launch) : (s.onLaunch n g).corrected = s.corrected := rfl
@[simp] theorem State.onLaunch_clerk (s : State) (n : Nat) (g : Launch → Launch) : (s.onLaunch n g).clerk = s.clerk := rfl
@[simp] theorem State.onLaunch_firmware (s : State) (n : Nat) (g : Launch → Launch) : (s.onLaunch n g).firmware = s.firmware := rfl
@[simp] theorem State.onLaunch_running (s : State) (n : Nat) (g : Launch → Launch) : (s.onLaunch n g).running = s.running := rfl
@[simp] theorem State.onLaunch_capture (s : State) (n : Nat) (g : Launch → Launch) : (s.onLaunch n g).capture = s.capture := rfl
@[simp] theorem State.onLaunch_agenda (s : State) (n : Nat) (g : Launch → Launch) : (s.onLaunch n g).agenda = s.agenda := rfl
@[simp] theorem State.onLaunch_cur (s : State) (n : Nat) (g : Launch → Launch) : (s.onLaunch n g).cur = s.cur := rfl
@[simp] theorem State.onLaunch_nextNum (s : State) (n : Nat) (g : Launch → Launch) : (s.onLaunch n g).nextNum = s.nextNum := rfl

/-! ### State.onCore -/

@[simp] theorem State.onCore_ctxs (s : State) (n : Nat) (g : Core → Core) : (s.onCore n g).ctxs = s.ctxs := rfl
@[simp] theorem State.onCore_forks (s : State) (n : Nat) (g : Core → Core) : (s.onCore n g).forks = s.forks := rfl
@[simp] theorem State.onCore_teams (s : State) (n : Nat) (g : Core → Core) : (s.onCore n g).teams = s.teams := rfl
@[simp] theorem State.onCore_wgs (s : State) (n : Nat) (g : Core → Core) : (s.onCore n g).wgs = s.wgs := rfl
@[simp] theorem State.onCore_launches (s : State) (n : Nat) (g : Core → Core) : (s.onCore n g).launches = s.launches := rfl
@[simp] theorem State.onCore_cores (s : State) (n : Nat) (g : Core → Core) : (s.onCore n g).cores = Table.set s.cores n (g (s.core n)) := rfl
@[simp] theorem State.onCore_parts (s : State) (n : Nat) (g : Core → Core) : (s.onCore n g).parts = s.parts := rfl
@[simp] theorem State.onCore_keystones (s : State) (n : Nat) (g : Core → Core) : (s.onCore n g).keystones = s.keystones := rfl
@[simp] theorem State.onCore_mem (s : State) (n : Nat) (g : Core → Core) : (s.onCore n g).mem = s.mem := rfl
@[simp] theorem State.onCore_poison (s : State) (n : Nat) (g : Core → Core) : (s.onCore n g).poison = s.poison := rfl
@[simp] theorem State.onCore_stores (s : State) (n : Nat) (g : Core → Core) : (s.onCore n g).stores = s.stores := rfl
@[simp] theorem State.onCore_chunks (s : State) (n : Nat) (g : Core → Core) : (s.onCore n g).chunks = s.chunks := rfl
@[simp] theorem State.onCore_hodSent (s : State) (n : Nat) (g : Core → Core) : (s.onCore n g).hodSent = s.hodSent := rfl
@[simp] theorem State.onCore_fits (s : State) (n : Nat) (g : Core → Core) : (s.onCore n g).fits = s.fits := rfl
@[simp] theorem State.onCore_got (s : State) (n : Nat) (g : Core → Core) : (s.onCore n g).got = s.got := rfl
@[simp] theorem State.onCore_releases (s : State) (n : Nat) (g : Core → Core) : (s.onCore n g).releases = s.releases := rfl
@[simp] theorem State.onCore_marks (s : State) (n : Nat) (g : Core → Core) : (s.onCore n g).marks = s.marks := rfl
@[simp] theorem State.onCore_seen (s : State) (n : Nat) (g : Core → Core) : (s.onCore n g).seen = s.seen := rfl
@[simp] theorem State.onCore_acks (s : State) (n : Nat) (g : Core → Core) : (s.onCore n g).acks = s.acks := rfl
@[simp] theorem State.onCore_tlb (s : State) (n : Nat) (g : Core → Core) : (s.onCore n g).tlb = s.tlb := rfl
@[simp] theorem State.onCore_bindings (s : State) (n : Nat) (g : Core → Core) : (s.onCore n g).bindings = s.bindings := rfl
@[simp] theorem State.onCore_dcycle (s : State) (n : Nat) (g : Core → Core) : (s.onCore n g).dcycle = s.dcycle := rfl
@[simp] theorem State.onCore_metered (s : State) (n : Nat) (g : Core → Core) : (s.onCore n g).metered = s.metered := rfl
@[simp] theorem State.onCore_nextLaunch (s : State) (n : Nat) (g : Core → Core) : (s.onCore n g).nextLaunch = s.nextLaunch := rfl
@[simp] theorem State.onCore_nextWg (s : State) (n : Nat) (g : Core → Core) : (s.onCore n g).nextWg = s.nextWg := rfl
@[simp] theorem State.onCore_queues (s : State) (n : Nat) (g : Core → Core) : (s.onCore n g).queues = s.queues := rfl
@[simp] theorem State.onCore_slots (s : State) (n : Nat) (g : Core → Core) : (s.onCore n g).slots = s.slots := rfl
@[simp] theorem State.onCore_rotLast (s : State) (n : Nat) (g : Core → Core) : (s.onCore n g).rotLast = s.rotLast := rfl
@[simp] theorem State.onCore_pool (s : State) (n : Nat) (g : Core → Core) : (s.onCore n g).pool = s.pool := rfl
@[simp] theorem State.onCore_cap (s : State) (n : Nat) (g : Core → Core) : (s.onCore n g).cap = s.cap := rfl
@[simp] theorem State.onCore_alert (s : State) (n : Nat) (g : Core → Core) : (s.onCore n g).alert = s.alert := rfl
@[simp] theorem State.onCore_idleSample (s : State) (n : Nat) (g : Core → Core) : (s.onCore n g).idleSample = s.idleSample := rfl
@[simp] theorem State.onCore_enqueued (s : State) (n : Nat) (g : Core → Core) : (s.onCore n g).enqueued = s.enqueued := rfl
@[simp] theorem State.onCore_completed (s : State) (n : Nat) (g : Core → Core) : (s.onCore n g).completed = s.completed := rfl
@[simp] theorem State.onCore_comms (s : State) (n : Nat) (g : Core → Core) : (s.onCore n g).comms = s.comms := rfl
@[simp] theorem State.onCore_collOut (s : State) (n : Nat) (g : Core → Core) : (s.onCore n g).collOut = s.collOut := rfl
@[simp] theorem State.onCore_collIn (s : State) (n : Nat) (g : Core → Core) : (s.onCore n g).collIn = s.collIn := rfl
@[simp] theorem State.onCore_collLast (s : State) (n : Nat) (g : Core → Core) : (s.onCore n g).collLast = s.collLast := rfl
@[simp] theorem State.onCore_devnum (s : State) (n : Nat) (g : Core → Core) : (s.onCore n g).devnum = s.devnum := rfl
@[simp] theorem State.onCore_routes (s : State) (n : Nat) (g : Core → Core) : (s.onCore n g).routes = s.routes := rfl
@[simp] theorem State.onCore_linkOut (s : State) (n : Nat) (g : Core → Core) : (s.onCore n g).linkOut = s.linkOut := rfl
@[simp] theorem State.onCore_mailbox (s : State) (n : Nat) (g : Core → Core) : (s.onCore n g).mailbox = s.mailbox := rfl
@[simp] theorem State.onCore_mboxStatus (s : State) (n : Nat) (g : Core → Core) : (s.onCore n g).mboxStatus = s.mboxStatus := rfl
@[simp] theorem State.onCore_mboxData (s : State) (n : Nat) (g : Core → Core) : (s.onCore n g).mboxData = s.mboxData := rfl
@[simp] theorem State.onCore_invalidating (s : State) (n : Nat) (g : Core → Core) : (s.onCore n g).invalidating = s.invalidating := rfl
@[simp] theorem State.onCore_hostData (s : State) (n : Nat) (g : Core → Core) : (s.onCore n g).hostData = s.hostData := rfl
@[simp] theorem State.onCore_hostPoison (s : State) (n : Nat) (g : Core → Core) : (s.onCore n g).hostPoison = s.hostPoison := rfl
@[simp] theorem State.onCore_corrected (s : State) (n : Nat) (g : Core → Core) : (s.onCore n g).corrected = s.corrected := rfl
@[simp] theorem State.onCore_clerk (s : State) (n : Nat) (g : Core → Core) : (s.onCore n g).clerk = s.clerk := rfl
@[simp] theorem State.onCore_firmware (s : State) (n : Nat) (g : Core → Core) : (s.onCore n g).firmware = s.firmware := rfl
@[simp] theorem State.onCore_running (s : State) (n : Nat) (g : Core → Core) : (s.onCore n g).running = s.running := rfl
@[simp] theorem State.onCore_capture (s : State) (n : Nat) (g : Core → Core) : (s.onCore n g).capture = s.capture := rfl
@[simp] theorem State.onCore_agenda (s : State) (n : Nat) (g : Core → Core) : (s.onCore n g).agenda = s.agenda := rfl
@[simp] theorem State.onCore_cur (s : State) (n : Nat) (g : Core → Core) : (s.onCore n g).cur = s.cur := rfl
@[simp] theorem State.onCore_nextNum (s : State) (n : Nat) (g : Core → Core) : (s.onCore n g).nextNum = s.nextNum := rfl

/-! ### State.onPart -/

@[simp] theorem State.onPart_ctxs (s : State) (core part : Nat) (g : Part → Part) : (s.onPart core part g).ctxs = s.ctxs := rfl
@[simp] theorem State.onPart_forks (s : State) (core part : Nat) (g : Part → Part) : (s.onPart core part g).forks = s.forks := rfl
@[simp] theorem State.onPart_teams (s : State) (core part : Nat) (g : Part → Part) : (s.onPart core part g).teams = s.teams := rfl
@[simp] theorem State.onPart_wgs (s : State) (core part : Nat) (g : Part → Part) : (s.onPart core part g).wgs = s.wgs := rfl
@[simp] theorem State.onPart_launches (s : State) (core part : Nat) (g : Part → Part) : (s.onPart core part g).launches = s.launches := rfl
@[simp] theorem State.onPart_cores (s : State) (core part : Nat) (g : Part → Part) : (s.onPart core part g).cores = s.cores := rfl
@[simp] theorem State.onPart_parts (s : State) (core part : Nat) (g : Part → Part) : (s.onPart core part g).parts = Table.set s.parts (partKey core part) (g (s.part core part)) := rfl
@[simp] theorem State.onPart_keystones (s : State) (core part : Nat) (g : Part → Part) : (s.onPart core part g).keystones = s.keystones := rfl
@[simp] theorem State.onPart_mem (s : State) (core part : Nat) (g : Part → Part) : (s.onPart core part g).mem = s.mem := rfl
@[simp] theorem State.onPart_poison (s : State) (core part : Nat) (g : Part → Part) : (s.onPart core part g).poison = s.poison := rfl
@[simp] theorem State.onPart_stores (s : State) (core part : Nat) (g : Part → Part) : (s.onPart core part g).stores = s.stores := rfl
@[simp] theorem State.onPart_chunks (s : State) (core part : Nat) (g : Part → Part) : (s.onPart core part g).chunks = s.chunks := rfl
@[simp] theorem State.onPart_hodSent (s : State) (core part : Nat) (g : Part → Part) : (s.onPart core part g).hodSent = s.hodSent := rfl
@[simp] theorem State.onPart_fits (s : State) (core part : Nat) (g : Part → Part) : (s.onPart core part g).fits = s.fits := rfl
@[simp] theorem State.onPart_got (s : State) (core part : Nat) (g : Part → Part) : (s.onPart core part g).got = s.got := rfl
@[simp] theorem State.onPart_releases (s : State) (core part : Nat) (g : Part → Part) : (s.onPart core part g).releases = s.releases := rfl
@[simp] theorem State.onPart_marks (s : State) (core part : Nat) (g : Part → Part) : (s.onPart core part g).marks = s.marks := rfl
@[simp] theorem State.onPart_seen (s : State) (core part : Nat) (g : Part → Part) : (s.onPart core part g).seen = s.seen := rfl
@[simp] theorem State.onPart_acks (s : State) (core part : Nat) (g : Part → Part) : (s.onPart core part g).acks = s.acks := rfl
@[simp] theorem State.onPart_tlb (s : State) (core part : Nat) (g : Part → Part) : (s.onPart core part g).tlb = s.tlb := rfl
@[simp] theorem State.onPart_bindings (s : State) (core part : Nat) (g : Part → Part) : (s.onPart core part g).bindings = s.bindings := rfl
@[simp] theorem State.onPart_dcycle (s : State) (core part : Nat) (g : Part → Part) : (s.onPart core part g).dcycle = s.dcycle := rfl
@[simp] theorem State.onPart_metered (s : State) (core part : Nat) (g : Part → Part) : (s.onPart core part g).metered = s.metered := rfl
@[simp] theorem State.onPart_nextLaunch (s : State) (core part : Nat) (g : Part → Part) : (s.onPart core part g).nextLaunch = s.nextLaunch := rfl
@[simp] theorem State.onPart_nextWg (s : State) (core part : Nat) (g : Part → Part) : (s.onPart core part g).nextWg = s.nextWg := rfl
@[simp] theorem State.onPart_queues (s : State) (core part : Nat) (g : Part → Part) : (s.onPart core part g).queues = s.queues := rfl
@[simp] theorem State.onPart_slots (s : State) (core part : Nat) (g : Part → Part) : (s.onPart core part g).slots = s.slots := rfl
@[simp] theorem State.onPart_rotLast (s : State) (core part : Nat) (g : Part → Part) : (s.onPart core part g).rotLast = s.rotLast := rfl
@[simp] theorem State.onPart_pool (s : State) (core part : Nat) (g : Part → Part) : (s.onPart core part g).pool = s.pool := rfl
@[simp] theorem State.onPart_cap (s : State) (core part : Nat) (g : Part → Part) : (s.onPart core part g).cap = s.cap := rfl
@[simp] theorem State.onPart_alert (s : State) (core part : Nat) (g : Part → Part) : (s.onPart core part g).alert = s.alert := rfl
@[simp] theorem State.onPart_idleSample (s : State) (core part : Nat) (g : Part → Part) : (s.onPart core part g).idleSample = s.idleSample := rfl
@[simp] theorem State.onPart_enqueued (s : State) (core part : Nat) (g : Part → Part) : (s.onPart core part g).enqueued = s.enqueued := rfl
@[simp] theorem State.onPart_completed (s : State) (core part : Nat) (g : Part → Part) : (s.onPart core part g).completed = s.completed := rfl
@[simp] theorem State.onPart_comms (s : State) (core part : Nat) (g : Part → Part) : (s.onPart core part g).comms = s.comms := rfl
@[simp] theorem State.onPart_collOut (s : State) (core part : Nat) (g : Part → Part) : (s.onPart core part g).collOut = s.collOut := rfl
@[simp] theorem State.onPart_collIn (s : State) (core part : Nat) (g : Part → Part) : (s.onPart core part g).collIn = s.collIn := rfl
@[simp] theorem State.onPart_collLast (s : State) (core part : Nat) (g : Part → Part) : (s.onPart core part g).collLast = s.collLast := rfl
@[simp] theorem State.onPart_devnum (s : State) (core part : Nat) (g : Part → Part) : (s.onPart core part g).devnum = s.devnum := rfl
@[simp] theorem State.onPart_routes (s : State) (core part : Nat) (g : Part → Part) : (s.onPart core part g).routes = s.routes := rfl
@[simp] theorem State.onPart_linkOut (s : State) (core part : Nat) (g : Part → Part) : (s.onPart core part g).linkOut = s.linkOut := rfl
@[simp] theorem State.onPart_mailbox (s : State) (core part : Nat) (g : Part → Part) : (s.onPart core part g).mailbox = s.mailbox := rfl
@[simp] theorem State.onPart_mboxStatus (s : State) (core part : Nat) (g : Part → Part) : (s.onPart core part g).mboxStatus = s.mboxStatus := rfl
@[simp] theorem State.onPart_mboxData (s : State) (core part : Nat) (g : Part → Part) : (s.onPart core part g).mboxData = s.mboxData := rfl
@[simp] theorem State.onPart_invalidating (s : State) (core part : Nat) (g : Part → Part) : (s.onPart core part g).invalidating = s.invalidating := rfl
@[simp] theorem State.onPart_hostData (s : State) (core part : Nat) (g : Part → Part) : (s.onPart core part g).hostData = s.hostData := rfl
@[simp] theorem State.onPart_hostPoison (s : State) (core part : Nat) (g : Part → Part) : (s.onPart core part g).hostPoison = s.hostPoison := rfl
@[simp] theorem State.onPart_corrected (s : State) (core part : Nat) (g : Part → Part) : (s.onPart core part g).corrected = s.corrected := rfl
@[simp] theorem State.onPart_clerk (s : State) (core part : Nat) (g : Part → Part) : (s.onPart core part g).clerk = s.clerk := rfl
@[simp] theorem State.onPart_firmware (s : State) (core part : Nat) (g : Part → Part) : (s.onPart core part g).firmware = s.firmware := rfl
@[simp] theorem State.onPart_running (s : State) (core part : Nat) (g : Part → Part) : (s.onPart core part g).running = s.running := rfl
@[simp] theorem State.onPart_capture (s : State) (core part : Nat) (g : Part → Part) : (s.onPart core part g).capture = s.capture := rfl
@[simp] theorem State.onPart_agenda (s : State) (core part : Nat) (g : Part → Part) : (s.onPart core part g).agenda = s.agenda := rfl
@[simp] theorem State.onPart_cur (s : State) (core part : Nat) (g : Part → Part) : (s.onPart core part g).cur = s.cur := rfl
@[simp] theorem State.onPart_nextNum (s : State) (core part : Nat) (g : Part → Part) : (s.onPart core part g).nextNum = s.nextNum := rfl

/-! ### State.onKeystone -/

@[simp] theorem State.onKeystone_ctxs (s : State) (ctrl num : Nat) (g : Keystone → Keystone) : (s.onKeystone ctrl num g).ctxs = s.ctxs := rfl
@[simp] theorem State.onKeystone_forks (s : State) (ctrl num : Nat) (g : Keystone → Keystone) : (s.onKeystone ctrl num g).forks = s.forks := rfl
@[simp] theorem State.onKeystone_teams (s : State) (ctrl num : Nat) (g : Keystone → Keystone) : (s.onKeystone ctrl num g).teams = s.teams := rfl
@[simp] theorem State.onKeystone_wgs (s : State) (ctrl num : Nat) (g : Keystone → Keystone) : (s.onKeystone ctrl num g).wgs = s.wgs := rfl
@[simp] theorem State.onKeystone_launches (s : State) (ctrl num : Nat) (g : Keystone → Keystone) : (s.onKeystone ctrl num g).launches = s.launches := rfl
@[simp] theorem State.onKeystone_cores (s : State) (ctrl num : Nat) (g : Keystone → Keystone) : (s.onKeystone ctrl num g).cores = s.cores := rfl
@[simp] theorem State.onKeystone_parts (s : State) (ctrl num : Nat) (g : Keystone → Keystone) : (s.onKeystone ctrl num g).parts = s.parts := rfl
@[simp] theorem State.onKeystone_keystones (s : State) (ctrl num : Nat) (g : Keystone → Keystone) : (s.onKeystone ctrl num g).keystones = Table.set s.keystones (keystoneKey ctrl num) (g (s.keystone ctrl num)) := rfl
@[simp] theorem State.onKeystone_mem (s : State) (ctrl num : Nat) (g : Keystone → Keystone) : (s.onKeystone ctrl num g).mem = s.mem := rfl
@[simp] theorem State.onKeystone_poison (s : State) (ctrl num : Nat) (g : Keystone → Keystone) : (s.onKeystone ctrl num g).poison = s.poison := rfl
@[simp] theorem State.onKeystone_stores (s : State) (ctrl num : Nat) (g : Keystone → Keystone) : (s.onKeystone ctrl num g).stores = s.stores := rfl
@[simp] theorem State.onKeystone_chunks (s : State) (ctrl num : Nat) (g : Keystone → Keystone) : (s.onKeystone ctrl num g).chunks = s.chunks := rfl
@[simp] theorem State.onKeystone_hodSent (s : State) (ctrl num : Nat) (g : Keystone → Keystone) : (s.onKeystone ctrl num g).hodSent = s.hodSent := rfl
@[simp] theorem State.onKeystone_fits (s : State) (ctrl num : Nat) (g : Keystone → Keystone) : (s.onKeystone ctrl num g).fits = s.fits := rfl
@[simp] theorem State.onKeystone_got (s : State) (ctrl num : Nat) (g : Keystone → Keystone) : (s.onKeystone ctrl num g).got = s.got := rfl
@[simp] theorem State.onKeystone_releases (s : State) (ctrl num : Nat) (g : Keystone → Keystone) : (s.onKeystone ctrl num g).releases = s.releases := rfl
@[simp] theorem State.onKeystone_marks (s : State) (ctrl num : Nat) (g : Keystone → Keystone) : (s.onKeystone ctrl num g).marks = s.marks := rfl
@[simp] theorem State.onKeystone_seen (s : State) (ctrl num : Nat) (g : Keystone → Keystone) : (s.onKeystone ctrl num g).seen = s.seen := rfl
@[simp] theorem State.onKeystone_acks (s : State) (ctrl num : Nat) (g : Keystone → Keystone) : (s.onKeystone ctrl num g).acks = s.acks := rfl
@[simp] theorem State.onKeystone_tlb (s : State) (ctrl num : Nat) (g : Keystone → Keystone) : (s.onKeystone ctrl num g).tlb = s.tlb := rfl
@[simp] theorem State.onKeystone_bindings (s : State) (ctrl num : Nat) (g : Keystone → Keystone) : (s.onKeystone ctrl num g).bindings = s.bindings := rfl
@[simp] theorem State.onKeystone_dcycle (s : State) (ctrl num : Nat) (g : Keystone → Keystone) : (s.onKeystone ctrl num g).dcycle = s.dcycle := rfl
@[simp] theorem State.onKeystone_metered (s : State) (ctrl num : Nat) (g : Keystone → Keystone) : (s.onKeystone ctrl num g).metered = s.metered := rfl
@[simp] theorem State.onKeystone_nextLaunch (s : State) (ctrl num : Nat) (g : Keystone → Keystone) : (s.onKeystone ctrl num g).nextLaunch = s.nextLaunch := rfl
@[simp] theorem State.onKeystone_nextWg (s : State) (ctrl num : Nat) (g : Keystone → Keystone) : (s.onKeystone ctrl num g).nextWg = s.nextWg := rfl
@[simp] theorem State.onKeystone_queues (s : State) (ctrl num : Nat) (g : Keystone → Keystone) : (s.onKeystone ctrl num g).queues = s.queues := rfl
@[simp] theorem State.onKeystone_slots (s : State) (ctrl num : Nat) (g : Keystone → Keystone) : (s.onKeystone ctrl num g).slots = s.slots := rfl
@[simp] theorem State.onKeystone_rotLast (s : State) (ctrl num : Nat) (g : Keystone → Keystone) : (s.onKeystone ctrl num g).rotLast = s.rotLast := rfl
@[simp] theorem State.onKeystone_pool (s : State) (ctrl num : Nat) (g : Keystone → Keystone) : (s.onKeystone ctrl num g).pool = s.pool := rfl
@[simp] theorem State.onKeystone_cap (s : State) (ctrl num : Nat) (g : Keystone → Keystone) : (s.onKeystone ctrl num g).cap = s.cap := rfl
@[simp] theorem State.onKeystone_alert (s : State) (ctrl num : Nat) (g : Keystone → Keystone) : (s.onKeystone ctrl num g).alert = s.alert := rfl
@[simp] theorem State.onKeystone_idleSample (s : State) (ctrl num : Nat) (g : Keystone → Keystone) : (s.onKeystone ctrl num g).idleSample = s.idleSample := rfl
@[simp] theorem State.onKeystone_enqueued (s : State) (ctrl num : Nat) (g : Keystone → Keystone) : (s.onKeystone ctrl num g).enqueued = s.enqueued := rfl
@[simp] theorem State.onKeystone_completed (s : State) (ctrl num : Nat) (g : Keystone → Keystone) : (s.onKeystone ctrl num g).completed = s.completed := rfl
@[simp] theorem State.onKeystone_comms (s : State) (ctrl num : Nat) (g : Keystone → Keystone) : (s.onKeystone ctrl num g).comms = s.comms := rfl
@[simp] theorem State.onKeystone_collOut (s : State) (ctrl num : Nat) (g : Keystone → Keystone) : (s.onKeystone ctrl num g).collOut = s.collOut := rfl
@[simp] theorem State.onKeystone_collIn (s : State) (ctrl num : Nat) (g : Keystone → Keystone) : (s.onKeystone ctrl num g).collIn = s.collIn := rfl
@[simp] theorem State.onKeystone_collLast (s : State) (ctrl num : Nat) (g : Keystone → Keystone) : (s.onKeystone ctrl num g).collLast = s.collLast := rfl
@[simp] theorem State.onKeystone_devnum (s : State) (ctrl num : Nat) (g : Keystone → Keystone) : (s.onKeystone ctrl num g).devnum = s.devnum := rfl
@[simp] theorem State.onKeystone_routes (s : State) (ctrl num : Nat) (g : Keystone → Keystone) : (s.onKeystone ctrl num g).routes = s.routes := rfl
@[simp] theorem State.onKeystone_linkOut (s : State) (ctrl num : Nat) (g : Keystone → Keystone) : (s.onKeystone ctrl num g).linkOut = s.linkOut := rfl
@[simp] theorem State.onKeystone_mailbox (s : State) (ctrl num : Nat) (g : Keystone → Keystone) : (s.onKeystone ctrl num g).mailbox = s.mailbox := rfl
@[simp] theorem State.onKeystone_mboxStatus (s : State) (ctrl num : Nat) (g : Keystone → Keystone) : (s.onKeystone ctrl num g).mboxStatus = s.mboxStatus := rfl
@[simp] theorem State.onKeystone_mboxData (s : State) (ctrl num : Nat) (g : Keystone → Keystone) : (s.onKeystone ctrl num g).mboxData = s.mboxData := rfl
@[simp] theorem State.onKeystone_invalidating (s : State) (ctrl num : Nat) (g : Keystone → Keystone) : (s.onKeystone ctrl num g).invalidating = s.invalidating := rfl
@[simp] theorem State.onKeystone_hostData (s : State) (ctrl num : Nat) (g : Keystone → Keystone) : (s.onKeystone ctrl num g).hostData = s.hostData := rfl
@[simp] theorem State.onKeystone_hostPoison (s : State) (ctrl num : Nat) (g : Keystone → Keystone) : (s.onKeystone ctrl num g).hostPoison = s.hostPoison := rfl
@[simp] theorem State.onKeystone_corrected (s : State) (ctrl num : Nat) (g : Keystone → Keystone) : (s.onKeystone ctrl num g).corrected = s.corrected := rfl
@[simp] theorem State.onKeystone_clerk (s : State) (ctrl num : Nat) (g : Keystone → Keystone) : (s.onKeystone ctrl num g).clerk = s.clerk := rfl
@[simp] theorem State.onKeystone_firmware (s : State) (ctrl num : Nat) (g : Keystone → Keystone) : (s.onKeystone ctrl num g).firmware = s.firmware := rfl
@[simp] theorem State.onKeystone_running (s : State) (ctrl num : Nat) (g : Keystone → Keystone) : (s.onKeystone ctrl num g).running = s.running := rfl
@[simp] theorem State.onKeystone_capture (s : State) (ctrl num : Nat) (g : Keystone → Keystone) : (s.onKeystone ctrl num g).capture = s.capture := rfl
@[simp] theorem State.onKeystone_agenda (s : State) (ctrl num : Nat) (g : Keystone → Keystone) : (s.onKeystone ctrl num g).agenda = s.agenda := rfl
@[simp] theorem State.onKeystone_cur (s : State) (ctrl num : Nat) (g : Keystone → Keystone) : (s.onKeystone ctrl num g).cur = s.cur := rfl
@[simp] theorem State.onKeystone_nextNum (s : State) (ctrl num : Nat) (g : Keystone → Keystone) : (s.onKeystone ctrl num g).nextNum = s.nextNum := rfl

/-! ### State.onQueue -/

@[simp] theorem State.onQueue_ctxs (s : State) (q : Nat) (g : HostQueue → HostQueue) : (s.onQueue q g).ctxs = s.ctxs := rfl
@[simp] theorem State.onQueue_forks (s : State) (q : Nat) (g : HostQueue → HostQueue) : (s.onQueue q g).forks = s.forks := rfl
@[simp] theorem State.onQueue_teams (s : State) (q : Nat) (g : HostQueue → HostQueue) : (s.onQueue q g).teams = s.teams := rfl
@[simp] theorem State.onQueue_wgs (s : State) (q : Nat) (g : HostQueue → HostQueue) : (s.onQueue q g).wgs = s.wgs := rfl
@[simp] theorem State.onQueue_launches (s : State) (q : Nat) (g : HostQueue → HostQueue) : (s.onQueue q g).launches = s.launches := rfl
@[simp] theorem State.onQueue_cores (s : State) (q : Nat) (g : HostQueue → HostQueue) : (s.onQueue q g).cores = s.cores := rfl
@[simp] theorem State.onQueue_parts (s : State) (q : Nat) (g : HostQueue → HostQueue) : (s.onQueue q g).parts = s.parts := rfl
@[simp] theorem State.onQueue_keystones (s : State) (q : Nat) (g : HostQueue → HostQueue) : (s.onQueue q g).keystones = s.keystones := rfl
@[simp] theorem State.onQueue_mem (s : State) (q : Nat) (g : HostQueue → HostQueue) : (s.onQueue q g).mem = s.mem := rfl
@[simp] theorem State.onQueue_poison (s : State) (q : Nat) (g : HostQueue → HostQueue) : (s.onQueue q g).poison = s.poison := rfl
@[simp] theorem State.onQueue_stores (s : State) (q : Nat) (g : HostQueue → HostQueue) : (s.onQueue q g).stores = s.stores := rfl
@[simp] theorem State.onQueue_chunks (s : State) (q : Nat) (g : HostQueue → HostQueue) : (s.onQueue q g).chunks = s.chunks := rfl
@[simp] theorem State.onQueue_hodSent (s : State) (q : Nat) (g : HostQueue → HostQueue) : (s.onQueue q g).hodSent = s.hodSent := rfl
@[simp] theorem State.onQueue_fits (s : State) (q : Nat) (g : HostQueue → HostQueue) : (s.onQueue q g).fits = s.fits := rfl
@[simp] theorem State.onQueue_got (s : State) (q : Nat) (g : HostQueue → HostQueue) : (s.onQueue q g).got = s.got := rfl
@[simp] theorem State.onQueue_releases (s : State) (q : Nat) (g : HostQueue → HostQueue) : (s.onQueue q g).releases = s.releases := rfl
@[simp] theorem State.onQueue_marks (s : State) (q : Nat) (g : HostQueue → HostQueue) : (s.onQueue q g).marks = s.marks := rfl
@[simp] theorem State.onQueue_seen (s : State) (q : Nat) (g : HostQueue → HostQueue) : (s.onQueue q g).seen = s.seen := rfl
@[simp] theorem State.onQueue_acks (s : State) (q : Nat) (g : HostQueue → HostQueue) : (s.onQueue q g).acks = s.acks := rfl
@[simp] theorem State.onQueue_tlb (s : State) (q : Nat) (g : HostQueue → HostQueue) : (s.onQueue q g).tlb = s.tlb := rfl
@[simp] theorem State.onQueue_bindings (s : State) (q : Nat) (g : HostQueue → HostQueue) : (s.onQueue q g).bindings = s.bindings := rfl
@[simp] theorem State.onQueue_dcycle (s : State) (q : Nat) (g : HostQueue → HostQueue) : (s.onQueue q g).dcycle = s.dcycle := rfl
@[simp] theorem State.onQueue_metered (s : State) (q : Nat) (g : HostQueue → HostQueue) : (s.onQueue q g).metered = s.metered := rfl
@[simp] theorem State.onQueue_nextLaunch (s : State) (q : Nat) (g : HostQueue → HostQueue) : (s.onQueue q g).nextLaunch = s.nextLaunch := rfl
@[simp] theorem State.onQueue_nextWg (s : State) (q : Nat) (g : HostQueue → HostQueue) : (s.onQueue q g).nextWg = s.nextWg := rfl
@[simp] theorem State.onQueue_queues (s : State) (q : Nat) (g : HostQueue → HostQueue) : (s.onQueue q g).queues = Table.set s.queues q (g (s.queue q)) := rfl
@[simp] theorem State.onQueue_slots (s : State) (q : Nat) (g : HostQueue → HostQueue) : (s.onQueue q g).slots = s.slots := rfl
@[simp] theorem State.onQueue_rotLast (s : State) (q : Nat) (g : HostQueue → HostQueue) : (s.onQueue q g).rotLast = s.rotLast := rfl
@[simp] theorem State.onQueue_pool (s : State) (q : Nat) (g : HostQueue → HostQueue) : (s.onQueue q g).pool = s.pool := rfl
@[simp] theorem State.onQueue_cap (s : State) (q : Nat) (g : HostQueue → HostQueue) : (s.onQueue q g).cap = s.cap := rfl
@[simp] theorem State.onQueue_alert (s : State) (q : Nat) (g : HostQueue → HostQueue) : (s.onQueue q g).alert = s.alert := rfl
@[simp] theorem State.onQueue_idleSample (s : State) (q : Nat) (g : HostQueue → HostQueue) : (s.onQueue q g).idleSample = s.idleSample := rfl
@[simp] theorem State.onQueue_enqueued (s : State) (q : Nat) (g : HostQueue → HostQueue) : (s.onQueue q g).enqueued = s.enqueued := rfl
@[simp] theorem State.onQueue_completed (s : State) (q : Nat) (g : HostQueue → HostQueue) : (s.onQueue q g).completed = s.completed := rfl
@[simp] theorem State.onQueue_comms (s : State) (q : Nat) (g : HostQueue → HostQueue) : (s.onQueue q g).comms = s.comms := rfl
@[simp] theorem State.onQueue_collOut (s : State) (q : Nat) (g : HostQueue → HostQueue) : (s.onQueue q g).collOut = s.collOut := rfl
@[simp] theorem State.onQueue_collIn (s : State) (q : Nat) (g : HostQueue → HostQueue) : (s.onQueue q g).collIn = s.collIn := rfl
@[simp] theorem State.onQueue_collLast (s : State) (q : Nat) (g : HostQueue → HostQueue) : (s.onQueue q g).collLast = s.collLast := rfl
@[simp] theorem State.onQueue_devnum (s : State) (q : Nat) (g : HostQueue → HostQueue) : (s.onQueue q g).devnum = s.devnum := rfl
@[simp] theorem State.onQueue_routes (s : State) (q : Nat) (g : HostQueue → HostQueue) : (s.onQueue q g).routes = s.routes := rfl
@[simp] theorem State.onQueue_linkOut (s : State) (q : Nat) (g : HostQueue → HostQueue) : (s.onQueue q g).linkOut = s.linkOut := rfl
@[simp] theorem State.onQueue_mailbox (s : State) (q : Nat) (g : HostQueue → HostQueue) : (s.onQueue q g).mailbox = s.mailbox := rfl
@[simp] theorem State.onQueue_mboxStatus (s : State) (q : Nat) (g : HostQueue → HostQueue) : (s.onQueue q g).mboxStatus = s.mboxStatus := rfl
@[simp] theorem State.onQueue_mboxData (s : State) (q : Nat) (g : HostQueue → HostQueue) : (s.onQueue q g).mboxData = s.mboxData := rfl
@[simp] theorem State.onQueue_invalidating (s : State) (q : Nat) (g : HostQueue → HostQueue) : (s.onQueue q g).invalidating = s.invalidating := rfl
@[simp] theorem State.onQueue_hostData (s : State) (q : Nat) (g : HostQueue → HostQueue) : (s.onQueue q g).hostData = s.hostData := rfl
@[simp] theorem State.onQueue_hostPoison (s : State) (q : Nat) (g : HostQueue → HostQueue) : (s.onQueue q g).hostPoison = s.hostPoison := rfl
@[simp] theorem State.onQueue_corrected (s : State) (q : Nat) (g : HostQueue → HostQueue) : (s.onQueue q g).corrected = s.corrected := rfl
@[simp] theorem State.onQueue_clerk (s : State) (q : Nat) (g : HostQueue → HostQueue) : (s.onQueue q g).clerk = s.clerk := rfl
@[simp] theorem State.onQueue_firmware (s : State) (q : Nat) (g : HostQueue → HostQueue) : (s.onQueue q g).firmware = s.firmware := rfl
@[simp] theorem State.onQueue_running (s : State) (q : Nat) (g : HostQueue → HostQueue) : (s.onQueue q g).running = s.running := rfl
@[simp] theorem State.onQueue_capture (s : State) (q : Nat) (g : HostQueue → HostQueue) : (s.onQueue q g).capture = s.capture := rfl
@[simp] theorem State.onQueue_agenda (s : State) (q : Nat) (g : HostQueue → HostQueue) : (s.onQueue q g).agenda = s.agenda := rfl
@[simp] theorem State.onQueue_cur (s : State) (q : Nat) (g : HostQueue → HostQueue) : (s.onQueue q g).cur = s.cur := rfl
@[simp] theorem State.onQueue_nextNum (s : State) (q : Nat) (g : HostQueue → HostQueue) : (s.onQueue q g).nextNum = s.nextNum := rfl

end Sys2Proof.Machine
end

