-- ==== Sys2Proof/Tests/Witness.lean ====
section
/-!
SUPPORT. Sys2Proof/Tests/Witness.lean: concrete states and operands that meet the hypotheses of the statements in
Certificates/Slice0/Obligations.lean, each statement's in theorems named after it.
-/
namespace Sys2Proof.Machine.Tests
open Sys2Proof Sys2Proof.Machine

/-! ### A small stage: one launch, one workgroup of one team, one thread -/

def id0 : CtxId := { wg := 0, tix := 0, lvl := 0 }
def lone : Ctx := freshCtx 0 0 placedPc 0 0
def team0 : Team := freshTeam 0 0 0 0 (Vector.replicate 64 0)
def wg0 : Workgroup := freshWorkgroup 0 1 0 0 0 0 1 0 0
def issue0 : Issue := { Issue.idle with course := [id0], pc := placedPc, start := placedPc }

/-- A state with one thread, which issues. -/
def stage (c : Ctx) : State :=
  { State.reset with ctxs := [c], teams := [team0], wgs := [wg0], launches := [placedLaunch], cur := issue0 }

/-- A register written. -/
def Ctx.having (c : Ctx) (n : Reg) (x : Word) : Ctx := { c with regs := c.regs.put n x }

/-- An instruction passes its word's checks and acts for a thread. -/
def runs (s : State) (i : Instr) : Bool := s.clear i && s.ctxs.any (s.acts i)

def fa (t : BitVec 3) : LA := { d := 1, a := 2, b := 3, t := t, gn := 0, g := 0 }
def fi (k : BitVec 9) : LI := { d := 1, a := 2, imm := k, gn := 0, g := 0 }
def fx (b : Reg) : LX := { d := 1, a := 2, b := b, l := 0, g := 0 }

theorem witness_IntegerOperations : [Instr.add (fa 0), .sub (fa 1), .mul (fa 2), .mulh (fa 3), .mad (fa 4), .min (fa 5),
    .max (fa 6), .and (fa 7), .or (fa 0), .xor (fa 0), .not { fa 0 with b := 5 }, .abs { fa 7 with b := 3 },
    .neg { fa 3 with b := 4 }, .cmp (fa 0), .cmpi (fi 511)].all (runs (stage lone)) = true := by decide

theorem witness_ShiftsAndStream : [Instr.shl (fa 0), .shr (fa 1), .sar (fa 2), .rot (fa 3), .clz { fa 0 with b := 0 },
    .popc { fa 1 with b := 1 }, .brev { fa 3 with b := 2 }, .bsrd (fa 0)].all (runs (stage lone)) = true := by decide

theorem witness_BitFields : [Instr.bfx (fa 0), .bfi (fa 0)].all (runs (stage (Ctx.having lone 3 0x17F3F))) = true := by
  decide

theorem witness_MovesAndImmediates : [Instr.nop (fa 0), .mov (fa 0), .movs (fa 1), .movi (fi 511), .sel (fa 0),
    .sel (fa 7), .addi (fi 255), .andi (fi 256), .ori (fi 511), .xori (fi 0), .shli (fi 63), .shri (fi 191),
    .sari (fi 319), .roti (fi 447)].all (runs (stage lone)) = true := by decide

theorem witness_IntegerDots : [Instr.idp8 (fa 0), .idp4 (fa 0)].all (runs (stage lone)) = true := by decide

theorem witness_FloatArithmetic : [Instr.fadd (fa 0), .fsub (fa 1), .fmul (fa 2), .ffma (fa 7), .fmin (fa 0),
    .fmax (fa 1), .fcmp (fa 2)].all (runs (stage lone)) = true := by decide

theorem witness_FloatConversions : [Instr.fcvt { fa 0 with b := 0 }, .fcvt { fa 0 with b := 1 }, .fcvt { fa 1 with b := 24 },
    .fcvt { fa 0 with b := 55 }, .frnd (fa 0), .fscl (fa 1)].all (runs (stage lone)) = true := by decide

theorem witness_FloatSums : [Instr.fdp8 (fa 3), .fdp4 (fa 0), .fdiv (fx 3), .frcp (fx 0), .frsq (fx 1), .fsqrt (fx 2),
    .fex2 (fx 3), .flg2 (fx 4), .fsin (fx 5), .fcos (fx 6), .rnd (fx 0), .rndf (fx 1)].all (runs (stage lone)) = true := by
  decide

/-! ### Rounding, addresses and the page walk -/

theorem witness_RoundingRules_operands : (match fp32.decode 0xBF800000 with
    | .fin true m _ => m != 0
    | _ => false) = true ∧ fp32.decode 0x7FC00000 = .nan false ∧ fp32.decode 0x7F800001 = .nan true := by decide

/-- 2.0 for its root, 2.0 for its reciprocal root, 3.0 as a whole number, 2.0 as a power of two. -/
theorem witness_RoundingRules_values : (match fp32.decode 0x40000000, fp32.decode 0x40400000 with
    | .fin false m e, .fin false m' e' =>
      m == 2 ^ 23 && e == -22 && m' == 3 * 2 ^ 22 && decide (e' < 0 ∧ m' = 3 * 2 ^ (-e').toNat) &&
      (let n := m * 2 ^ 256
       let r := isqrt n
       decide (r * r ≤ n ∧ n < (r + 1) * (r + 1))) &&
      (let n := 2 ^ 160 * 2 ^ 160
       let r := isqrt (n / m)
       decide (r * r * m ≤ n ∧ n < (r + 1) * (r + 1) * m))
    | _, _ => false) = true := by decide

theorem witness_RoundingRules_exact : [fp32, fp16, bf16, e4m3, e5m2, e3m2, e2m1].all (fun f =>
    [0, 1, 2 ^ (f.width - 1)].all (fun n => match f.decode n with
      | .fin _ _ _ => true
      | _ => false)) = true := by decide

theorem witness_RoundingRules_inexact : (0 : Int) < 1 ∧ 3 % 2 ^ ((1 : Int) - 0).toNat ≠ 0 ∧
    2 % 2 ^ ((1 : Int) - 0).toNat = 0 := by decide

/-- Each outcome of AccessAddresses at the edge of its range. -/
theorem witness_AccessChecks_addresses : (8 : Word).toNat + 4 > wg0.scrSize ∧ (0 : Word).toNat + 1 > placedLaunch.winstride ∧
    (0xFFFFF : Word).toNat + (0 : Word).toNat + 2 > 2 ^ 20 ∧
    ((0xFFFF8 : Word).toNat + (0 : Word).toNat + 8 ≤ 2 ^ 20 ∧ ((0xFFFF8 : Word).toNat + (0 : Word).toNat) % 8 = 0) ∧
    ((0x00EFFFFFFFFFFFFF : Word).toNat < 0x00F0000000000000 ∧ (0x00EFFFFFFFFFFFFF : Word).toNat % 2 ≠ 0) ∧
    (0x00F0100000000000 : Word).toNat ≥ 0x00F0100000000000 := by decide

/-- SlabChecks: the last bytes of the last core's slice, the edge of the system area, a place without a grant, and one
with a grant. -/
theorem witness_AccessChecks_slab : placedLaunch.sampled = false ∧ 191 < 192 ∧ 2 ^ 23 - 16 < 2 ^ 23 ∧ (2 ^ 23 - 16) % 16 = 0 ∧
    0x7EFFF8 + 16 > 0x7F0000 ∧
    (inside (slabKey 1 0) 8 wg0.scrKey wg0.scrSize = false ∧ (stage lone).inOwnWindow placedLaunch wg0 (slabKey 1 0) 8 = false ∧
      placedLaunch.grants.all (fun g => !(decide (g.base ≤ slabKey 1 0) && decide (slabKey 1 0 + 8 ≤ g.base + g.len))) = true) ∧
    (0x7EFFF0 + 16 ≤ 0x7F0000 ∧ (stage lone).touchesHeld (slabKey 0 0x7EFFF0) 16 = false ∧
      (stage lone).handleBars (some wg0.num) (slabKey 0 0x7EFFF0) 16 = false ∧
      placedLaunch.grants.any (fun g => decide (g.base ≤ slabKey 0 0x7EFFF0) &&
        decide (slabKey 0 0x7EFFF0 + 16 ≤ g.base + g.len) && g.at_ && g.rd && g.wr) = true) := by decide

/-- Page tables at HBM addresses 0x1000·k, whose entry 0 at each of the first n levels names the next table. -/
def pages (n : Nat) : List Host.Cell :=
  (List.range n).flatMap (fun k => [(hbmBase + 0x1000 * k, 0x01), (hbmBase + 0x1000 * k + 1, BitVec.ofNat 8 (0x10 * (k + 1)))])

/-- One walk for each level at which it ends; the last address that is translated, too. -/
theorem witness_PageWalk : [0, 1, 2, 3, 4].all (fun n =>
    let s : State := { stage lone with mem := pages n }
    (s.cached hbmBase 0).isNone && (s.cached hbmBase 0x00EFFFFFFFFFFFFF).isNone &&
    (List.range 5).all (fun k => decide (s.memNat (hbmBase + 0x1000 * k) 8 =
      if k < n then 0x1000 * (k + 1) + 1 else 0))) = true := by decide

/-! ### Accesses -/

/-- The slab address of a byte of core 0. -/
def sa (o : Nat) : Word := BitVec.ofNat 64 (0x00F00FFF00000000 + o)

/-- An outstanding instruction with number 7 that writes v1. -/
def flight0 (k : FlightKind) : Flight :=
  { num := 7, look := 0, since := 0, vdst := [1], pdst := [], sdst := [], pc := placedPc, word := 0, what := k }
def flying (k : FlightKind) : Ctx := { lone with inflight := [flight0 k] }
def acc0 (n : Nat) (op : AccessOp) : Access := { addr := sa 0x100, key := slabKey 0 0x100, size := n, op := op }
def toward (n : Nat) (op : AccessOp) : State := stage (flying (.access (acc0 n op) false))

/-- A thread whose v2 holds the slab address of byte 0x100. -/
def aimed : Ctx := Ctx.having lone 2 (sa 0x100)
def fm (w : BitVec 3) (sp : BitVec 2) : LM := { d := 4, a := 2, l := 15, w := w, sp := sp, sx := 0, g := 0 }
def fxa (op : BitVec 3) : LXA := { d := 4, a := 2, b := 3, l := 0, op := op }

/-- An instruction of a context is outstanding. -/
def airborne (s : State) (c : Ctx) (f : Flight) : Bool := s.ctx? c.id == some c && c.flight? f.num == some f

/-- The access and its completion: nothing older, no poison, no trap, no record. -/
def landable (s : State) (key n : Nat) : Bool :=
  s.ctxs.all (fun c => !c.olderOver 7 key n && c.quiet 7 && s.recordless c && (s.readPoison (s.viewer c 7) key n).isNone &&
    (firstPoison s.poison key n).isNone &&
    !(s.stores.any (fun p => (s.viewer c 7).sees p && overlaps p.key p.op.size key n)))

theorem witness_Loads_issue : [0, 1, 2, 3, 4].all (fun w =>
    (stage aimed).clear (.ld (fm w 0)) &&
    (stage aimed).passes (.ld (fm w 0)) ((stage aimed).lmCheck ((stage aimed).pfx (.ld (fm w 0))) (fm w 0) accLoad) &&
    (stage aimed).ctxs.any ((stage aimed).acts (.ld (fm w 0)))) = true := by decide

theorem witness_Loads_accumulators :
    let s := stage (Ctx.having lone 2 0xFFFF8)
    s.clear (.ld (fm 3 3)) = true ∧ s.passes (.ld (fm 3 3)) (s.lmCheck (s.pfx (.ld (fm 3 3))) (fm 3 3) accLoad) = true ∧
    s.ctxs.any (s.acts (.ld (fm 3 3))) = true := by decide

theorem witness_Loads_complete : [(1, true), (2, false), (4, true), (8, false)].all (fun x =>
    landable (toward x.1 (.load x.2)) (slabKey 0 0x100) x.1 &&
    airborne (toward x.1 (.load x.2)) (flying (.access (acc0 x.1 (.load x.2)) false)) (flight0 (.access (acc0 x.1 (.load x.2)) false))) = true := by decide

theorem witness_Stores_issue : [0, 1, 2, 3, 4].all (fun w =>
    (stage aimed).clear (.st (fm w 0)) &&
    (stage aimed).passes (.st (fm w 0)) ((stage aimed).lmCheck ((stage aimed).pfx (.st (fm w 0))) (fm w 0) accStore) &&
    (stage aimed).ctxs.any ((stage aimed).acts (.st (fm w 0)))) = true := by decide

/-- A continuation that stores. -/
theorem witness_Stores_fork :
    let k : Ctx := { aimed with id := { id0 with lvl := 1 } }
    let s : State := { stage aimed with ctxs := [lone, k], cur := { issue0 with course := [k.id] } }
    let i : Instr := .st (fm 3 0)
    s.clear i = true ∧ s.passes i (s.lmCheck (s.pfx i) (fm 3 0) accStore) = true ∧ s.cur.course.Nodup ∧
    (s.actors i).all (fun c => c.id.lvl != 0) = true ∧ (s.actors i).length = 1 := by decide

def write0 (op : HomeOp) : PendingWrite :=
  { num := 9, core := 0, src := some id0, key := slabKey 0 0x100, op := op, after := [], vis := [], parked := none, regions := none,
    addr := 0, ins := (0, 0), sent := false }

theorem witness_Stores_visible : [HomeOp.put [1, 2] false, .add 4 1, .reduce 0 4 [0, 0, 0, 0]].all (fun op =>
    let s : State := { stage lone with stores := [write0 op] }
    s.memOk && s.writeReady (write0 op) && s.stores.find? (fun q => q.num == 9) == some (write0 op)) = true := by decide

theorem witness_Atomics_issue : (List.range 8).all (fun k =>
    let f := fxa (BitVec.ofNat 3 k)
    [(Instr.atomw f, 4), (.atomd f, 8)].all (fun x => (stage aimed).clear x.1 &&
      (stage aimed).passes x.1 ((stage aimed).lxaCheck f x.2) && (stage aimed).ctxs.any ((stage aimed).acts x.1))) = true ∧
    [(0, 4), (1, 8)].all (fun x => (stage aimed).clear (.acas (fxa x.1)) &&
      (stage aimed).passes (.acas (fxa x.1)) ((stage aimed).lxaCheck (fxa x.1) x.2)) = true := by decide

theorem witness_Atomics_perform : (List.range 9).all (fun code => [4, 8].all (fun n =>
    let op : AccessOp := .atomic code 0xFFFFFFFF 0
    let s := toward n op
    s.memOk && landable s (slabKey 0 0x100) n && decide ((0xFFFFFFFF : Word).toNat < 2 ^ (8 * n)) &&
    airborne s (flying (.access (acc0 n op) false)) (flight0 (.access (acc0 n op) false)))) = true := by decide

theorem witness_WordWaits_issue : [Instr.acq (fx 3), .waita (fx 3)].all (fun i => [true, false].all (fun d =>
    let s : State := { stage aimed with cur := { issue0 with defer := d } }
    s.clear i && s.passes i (s.wordCheck (fx 3) accLoad) && s.ctxs.any (s.acts i))) = true := by decide

/-- A word of 5, awaited from both sides of each bound. -/
theorem witness_WordWaits_complete : [AccessOp.acq 5, .acq 6, .waita 4, .waita 5].all (fun op =>
    let s : State := { toward 8 op with mem := [(slabKey 0 0x100, 5)] }
    landable s (slabKey 0 0x100) 8 && decide (leNat (cellsRead s.mem (slabKey 0 0x100) 8) = 5) &&
    airborne s (flying (.access (acc0 8 op) false)) (flight0 (.access (acc0 8 op) false))) = true := by decide

theorem witness_Releases : runs (stage aimed) (.rel (fx 3)) = true ∧
    (stage aimed).passes (.rel (fx 3)) ((stage aimed).wordCheck (fx 3) accStore) = true := by decide

theorem witness_LongLatencyArrives : [FlightKind.result, .rel 8, .rel 9].all (fun k =>
    let s : State := { stage (flying k) with stores := [write0 (.put [1] false)] }
    airborne s (flying k) (flight0 k) && (flying k).quiet 7) = true := by decide

/-! ### Rendezvous -/

/-- Lane 1 of the team. -/
def second : Ctx := freshCtx 0 1 placedPc 0 0
def pairUp (a b : Ctx) : State := { stage a with ctxs := [a, b] }

def lb0 : LB := { off := 4, g := 0 }
def rendezvousOnes : List Instr := [.shfl (fx 3), .netmv (fx 3), .voteAll (fa 0), .voteAny (fa 1), .voteBallot (fa 2),
  .lred (fx 0), .lred (fx 5), .lred (fx 6), .lred (fx 7), .brx lb0]

theorem witness_Rendezvous_arrival : rendezvousOnes.all (fun i =>
    let s := pairUp lone second
    let wait (c : Ctx) : Ctx :=
      if s.cur.course.contains c.id then { c with status := .rendezvous i s.cur.pfx s.cur.warn s.cur.pc s.cur.word } else c
    runs s i && (courseTeams s.cur.course).all (fun w => !({ s with ctxs := s.ctxs.map wait } : State).teamGathered w.1 w.2)) =
    true := by decide

theorem witness_Rendezvous_release : rendezvousOnes.all (fun i =>
    let held (c : Ctx) : Ctx := { c with status := .rendezvous i none 0 placedPc 0x12 }
    let s := pairUp (held lone) (held second)
    let u : State := { s with ctxs := [lone, second], cur := { s.cur with course := [id0, second.id], word := 0x12 } }
    (s.liveOfTeam 0 0).head? == some (held lone) &&
    (s.liveOfTeam 0 0).all (fun c => c.status == .rendezvous i none 0 placedPc 0x12 && c.pc == placedPc) &&
    s.ctxs.map (fun c => { c with status := .running }) == u.ctxs && u.clear i && (u.actors i).length == 2) = true := by decide

theorem witness_Rendezvous_branch :
    let u := pairUp lone second
    u.ctxs.all (fun c => (u.branchFault c (placedPc + 4 + BitVec.ofInt 64 (4 * lb0.off.toInt))).isNone) = true := by decide

/-! ### Branches and forked calls -/

/-- A thread with a target in v2 and another in %lr. -/
def going : Ctx := { aimed with regs := { aimed.regs with lr := sa 0x200 } }

theorem witness_Branches_words : [Instr.bra lb0, .call lb0, .callf lb0, .jmpr (fx 0), .ret (fx 0)].all (runs (stage going)) =
    true := by decide

theorem witness_Branches_targets : [placedPc + 4 + BitVec.ofInt 64 (4 * lb0.off.toInt), sa 0x100, sa 0x200].all (fun t =>
    ((stage going).branchFault going t).isNone) = true ∧ (stage going).forks = [] ∧ going.calls = [] ∧ going.frames = [] := by
  decide

/-- A target that is no multiple of 4, and one outside every grant. -/
theorem witness_Branches_faults : (sa 2).toNat % 4 ≠ 0 ∧ (0x00F0100000000000 : Word).toNat % 4 = 0 ∧
    ((stage lone).home? lone).isSome = true ∧
    (stage lone).checkAddr placedLaunch wg0 0 0 0x00F0100000000000 4 accLoad false = .trap causeSLAB := by decide

/-- A prefix that names v8 to v11 as predictions (R201). -/
def guess : Pfx := { e := 8, m := 0, z := 0, rnd := 0, sat := 0, rsv := 1 }
def plainPfx : Pfx := { guess with rsv := 0 }

theorem witness_ForkedCalls_calls : (stage lone).prediction plainPfx lone = none ∧ { lone with fdepth := 4 }.fdepth ≥ 4 ∧
    (stage lone).ctx? lone.id = some lone := by decide

theorem witness_ForkedCalls_forks : lone.fdepth < 4 ∧ (stage lone).freeSlot lone = some 1 ∧
    (stage lone).prediction guess lone = some [0, 0, 0, 0] ∧ (stage lone).ctx? { lone.id with lvl := 1 } = none := by decide

/-- An open fork of the lone thread whose callee stands at its return. -/
def fork0 (preds : List Word) (hit : Bool) : Fork :=
  { wg := 0, tix := 0, depth := 1, checkpoint := lone.regs, ret := sa 0x10044, callPc := placedPc, preds := preds, lines := [],
    hit := hit, buffer := [], slot := 1, trains := [], issued := [] }
def callee0 : Ctx := { lone with regs := { lone.regs with lr := sa 0x10044 }, fdepth := 1 }
def cont0 : Ctx := { callee0 with id := { id0 with lvl := 1 }, pc := sa 0x10044 }

theorem witness_ForkedCalls_resolution : [fork0 [0, 0, 0, 0] false, fork0 [1, 0, 0, 0] false, fork0 [0, 0, 0, 0] true].all (fun g =>
    let s : State := { stage callee0 with ctxs := [callee0, cont0], forks := [g] }
    s.innermost 0 0 == some g && g.ret == callee0.regs.lr && g.checkpoint.get 63 == callee0.regs.get 63 && g.depth != 0 &&
    s.ctx? { id0 with lvl := 1 } == some cont0 && s.ctx? id0 == some callee0 && !(s.queue placedLaunch.queue).trace) = true := by
  decide

/-! ### Traps, halts and the end of a thread -/

/-- The placed launch with a handler at TRAPH. -/
def handled : Launch := { placedLaunch with rcd := placedLaunch.rcd.take 0x120 ++ leBytes 8 (sa 0x400).toNat ++ placedLaunch.rcd.drop 0x128 }
def handlerStage (c : Ctx) : State := { stage c with launches := [handled] }

/-- The thread's launch has its handler and records no trace. -/
def handles0 (s : State) : Bool :=
  (match s.launchOf? 0 with
    | some l => l.handler == some (sa 0x400) && !(s.queue l.queue).trace
    | none => false)

theorem witness_Traps_entry : [Instr.trap (fx 0), .bkpt (fx 0), .tret (fx 0)].all (fun i =>
    runs (handlerStage lone) i && lone.trappable && handles0 (handlerStage lone) && !(handlerStage lone).bkptHalts lone &&
    (handlerStage lone).cur.course.Nodup) = true := by decide

/-- A thread in its handler. -/
def trapped0 : Ctx := { lone with inHandler := true, heldHalt := true, shadow := { v := [1, 2, 3, 4], mode := 1, fpc := placedPc, rpc := placedPc + 4 } }

theorem witness_Traps_return : runs (handlerStage trapped0) (.tret (fx 0)) = true ∧ trapped0.inHandler = true ∧
    handles0 (handlerStage trapped0) = true := by decide

/-- In a handler, and without one. -/
theorem witness_Traps_double : [handlerStage trapped0, stage lone].all (fun s =>
    (s.ctxs.all (fun c => c.inHandler || (placedLaunch.handler).isNone)) && s.forks.isEmpty &&
    (match s.launchOf? 0 with
      | some l => l.failing.isNone && (s.launch? l.num).isSome
      | none => false)) = true := by decide

set_option maxRecDepth 20000 in
/-- A failure that the dispatcher meets at its next edge, and one that it does not. -/
theorem witness_Traps_failing : [0, 1].all (fun cycle =>
    let l : Launch := { placedLaunch with failing := some (statusDOUBLETRAP, cycle) }
    let s : State := { stage lone with launches := [l] }
    s.launch? 1 == some l && statusDOUBLETRAP != 0 && l.phase == .started && l.status == 0 &&
    (decide (cycle ≤ s.dcycle)) == (cycle == 0)) = true := by decide

theorem witness_Halts : runs (stage lone) (.halt { fx 0 with d := 0 }) = true ∧
    (stage { lone with haltReq := true }).ctx? id0 = some { lone with haltReq := true } ∧ lone.inHandler = false ∧
    lone.inflight = [] ∧ (stage lone).forks = [] ∧ ((stage lone).queue 0).trace = false := by decide

theorem witness_Halts_breakpoint :
    let s : State := { stage lone with launches := [{ placedLaunch with bkptHalt := true }] }
    runs s (.bkpt (fx 0)) = true ∧ s.bkptHalts lone = true ∧ s.cur.course.Nodup ∧ (s.queue 0).trace = false := by decide

theorem witness_YieldPrefetchExit : [Instr.yield (fx 0), .prfm (fx 0), .exit (fx 0)].all (runs (stage aimed)) = true ∧
    [({ lone with status := .yielding [] 3 } : Ctx), { lone with status := .yielding [second.id] 0 }].all (fun c =>
      (stage c).ctx? id0 == some c) = true ∧ (stage lone).cur.course.Nodup ∧
    ((stage lone).liveOfWg 0).isEmpty = false := by decide

/-- A workgroup whose threads have all exited. -/
theorem witness_YieldPrefetchExit_retires :
    let s := stage { lone with status := .exited }
    s.liveOfWg 0 = [] ∧ s.childrenOf 0 = [] ∧ (s.wg? 0).isSome = true ∧ wg0.place ≠ .retired ∧ (s.launchOf? 0).isSome = true := by
  decide

/-! ### Tags, barriers, fences -/

theorem witness_Tags_words : [true, false].all (fun d => [Instr.waitt (fx 0), .ffrt (fx 0)].all
    (runs { stage aimed with cur := { issue0 with defer := d } })) = true := by decide

/-- Waits for tag 63 of a workgroup: set, clear, and waits for no tag that exists. -/
theorem witness_Tags_complete : [(false, 63), (true, 63)].all (fun a => [1#64 <<< 63, 0#64].all (fun tags =>
    let k : FlightKind := .waitt (1#64 <<< a.2) a.1
    let s : State := { stage (flying k) with wgs := [{ wg0 with tags := tags }] }
    airborne s (flying k) (flight0 k) && (flying k).quiet 7 && (s.wg? 0).isSome && (s.launchOf? 0).isSome &&
    placedLaunch.tags == 64)) = true := by decide

theorem witness_Barriers_arrival : [0, 15].all (fun n => [true, false].all (fun d =>
    let s : State := { stage lone with cur := { issue0 with defer := d } }
    runs s (.bar { fx 0 with d := n }) && decide (n.toNat < s.barriersOf 0))) = true := by decide

/-- Barrier 15: no thread has arrived, and all have. -/
theorem witness_Barriers_phase :
    let s (a : List Nat) : State := { stage (flying (.bar 15 [])) with wgs := [{ wg0 with bars := [(15, { arrived := a, firings := 0, phase := 2 ^ 32 - 1 })] }] }
    [[], [0]].all (fun a => (s a).liveOfWg 0 != [] && ((s a).liveOfWg 0).all (fun c =>
        ((wg0.tags == 0) && c.inflight.all (fun f => !f.isTrap)) && (s a).arrivalDone c 15 && (c.barFlight 15).isSome) &&
      decide ((s a).karrOf 0 15 ≤ 0) && (((s a).wg? 0).map (fun w => (w.bar 15).arrived)) == some a) = true := by decide

theorem witness_Fences_words : [true, false].all (fun d => [0, 8, 16, 24, 32, 40, 48, 56].all (fun k =>
    [Instr.fenceRel { fx 0 with d := k }, .fenceAcq { fx 1 with d := k }, .fenceFull { fx 2 with d := k }, .fenceLt { fx 3 with d := 0 },
      .fenceHv { fx 4 with d := 0 }].all (runs { stage lone with cur := { issue0 with defer := d } }))) = true := by decide

/-- Fences of every kind and scope that may complete, and releases that may not. -/
theorem witness_Fences_complete : ((List.range 4).all (fun kind => (List.range 7).all (fun scope =>
    let k : FlightKind := .fence kind scope [] []
    airborne (stage (flying k)) (flying k) (flight0 k) && (flying k).quiet 7 &&
    (stage (flying k)).fenceReady (flying k) (flight0 k) kind scope [] []))) = true ∧
    ([5, 6].all (fun scope =>
      let k : FlightKind := .fence 0 scope [9] []
      let s : State := { stage (flying k) with stores := [write0 (.put [1] false)] }
      airborne s (flying k) (flight0 k) && !s.fenceReady (flying k) (flight0 k) 0 scope [9] [])) = true := by decide

theorem witness_Fences_hv : [[191], []].all (fun cores =>
    let k : FlightKind := .hv [] cores
    let s := stage (flying k)
    airborne s (flying k) (flight0 k) && (flying k).quiet 7 && s.hvStepOne (flying k) (flight0 k) [] && s.pathOf 191 == []) = true := by
  decide

/-! ### Owned buffers and vertical FIFOs -/

/-- Core 0 with entry 63 in a state, of sequence number 5, held by workgroup 0 or given to core 0. -/
def handleCore0 (state : Nat) : Table Core :=
  [(0, { Core.init with handles := [(63, { state := state, seq := 5, base := 0x1000, len := 0x100, holder := 0, dst := 0 })] })]

theorem witness_Handles_give_words : [true, false].all (fun d =>
    let s : State := { stage aimed with cur := { issue0 with defer := d } }
    runs s (.hgive (fx 0)) && !placedLaunch.sampled) = true := by decide

/-- A give that may end, and one whose buffer a write still touches. -/
theorem witness_Handles_give : [0, 1].all (fun n => [0, 0xFF].all (fun dst =>
    let k : FlightKind := .hgive 0 63 5 dst
    let s : State := { stage (flying k) with
      cores := handleCore0 1
      stores := if n = 1 then [{ write0 (.put [1] false) with key := slabKey 0 0x10FF }] else [] }
    airborne s (flying k) (flight0 k) && (flying k).quiet 7 && (s.handle 0 63).state == 1 && (s.handle 0 63).holder == 0 &&
    s.touchedBy 0 (slabKey 0 0x1000) 0x100 == (n == 1))) = true := by decide

/-- HTAKE of a handle: stale, not given, and given to core 0; core 192. -/
theorem witness_Handles_take : runs (stage aimed) (.htake (fx 0)) = true ∧
    ([1, 2].all (fun state =>
      let s : State := { stage lone with cores := handleCore0 state }
      (s.handle 0 63).seq == 5 && ((s.handle 0 63).state == 2) == (state == 2) && (s.handle 0 63).dst == wg0.core)) = true ∧
    (63 * 2 ^ 18 + 5) / 2 ^ 18 % 64 = 63 ∧ (63 * 2 ^ 18 + 5) % 2 ^ 18 = 5 ∧ (192 * 2 ^ 24) / 2 ^ 24 ≥ 192 := by decide

/-- Core 0 with every handle entry held. -/
def fullController : State := { stage lone with cores := [(0, { Core.init with handles := (List.range 64).map (fun n =>
  (n, { state := 1, seq := 0, base := 0x1000 + 0x100 * n, len := 0x100, holder := 0, dst := 0 })) })] }

/-- HTAKE of a range: a good one, one of no length, and a controller without a free entry. -/
theorem witness_Handles_range : (stage lone).htakeRangeBad placedLaunch 0 (0x100 * 2 ^ 32 + 0x7EFF00) = false ∧
    (stage lone).htakeRangeBad placedLaunch 0 0x7EFF00 = true ∧
    fullController.htakeRangeBad placedLaunch 0 (0x100 * 2 ^ 32 + 0x7EFF00) = false ∧
    (List.range 64).all (fun n => (fullController.handle 0 n).state != 0) = true := by decide

theorem witness_VerticalFifos_words : [true, false].all (fun d => [Instr.vqput (fx 0), .vqget (fx 0)].all
    (runs { stage lone with cur := { issue0 with defer := d } })) = true ∧ placedLaunch.sampled = false := by decide

/-- A FIFO of n entries on a core. -/
def fifoOn (core n : Nat) : Table Core := [(core, { Core.init with fifo := List.replicate n { lanes := List.replicate 32 0, writes := [] } })]

/-- VQPUT with room, and into a full FIFO. -/
theorem witness_VerticalFifos_put : [15, 16].all (fun n =>
    let s : State := { stage (flying (.vqput 3)) with cores := fifoOn 0 n }
    s.vqGathered 0 0 == some [(flying (.vqput 3), .put (some (7, 3)) 7)] && (s.core 0).fifo.length == n && !(s.core 96).gated &&
    (s.ownWrites (flying (.vqput 3)) 7).isEmpty && (flying (.vqput 3)).inflight.all (fun g => !g.isTrap)) = true := by decide

/-- VQGET of an entry, and from an empty FIFO. -/
theorem witness_VerticalFifos_get : [0, 1].all (fun n =>
    let s : State := { stage (flying .vqget) with cores := fifoOn 96 n }
    s.vqGathered 0 0 == some [(flying .vqget, .get (some 7) 7)] && (s.core 96).fifo.length == n &&
    (flying .vqget).flight? 7 == some (flight0 .vqget)) = true := by decide

/-! ### Child grids and specials -/

/-- A launch record at slab byte 0x200, whose kernel is the placed one. -/
def childMem : List Host.Cell :=
  cellsWrite (cellsWrite [] (slabKey 0 0x200) placedRecord) (slabKey 0 0x10000) placedHeader
def parentStage (x : Word) : State := { stage (Ctx.having lone 2 x) with mem := childMem }

def gotIs (r : TeamRead) (l : List Byte) : Bool :=
  match r with
  | .got b => b == l
  | _ => false

set_option maxRecDepth 20000 in
/-- A LAUNCH at a misaligned address, at a record that passes, and at zeros, which do not. -/
theorem witness_ChildGrids_words : [true, false].all (fun d => [sa 0x201, sa 0x200, sa 0x600].all (fun x =>
    let s : State := { parentStage x with cur := { issue0 with defer := d } }
    runs s (.launch (fx 0)) && !placedLaunch.sampled && s.ctxs.all (fun c => decide (x.toNat % 64 ≠ 0) ||
      (match s.launchRead c x s.nextNum with
        | .got _ => true
        | _ => false)))) = true := by decide

set_option maxRecDepth 20000 in
/-- A LAUNCH whose record has been copied: it passes its checks, at depth 1 and 10. -/
theorem witness_ChildGrids_launch : [1, 10].all (fun depth =>
    let k : FlightKind := .launch (sa 0x200) false 0
    let c := flying k
    let l := { placedLaunch with depth := depth }
    let s : State := { stage c with launches := [l], mem := childMem, dcycle := 1 }
    airborne s c (flight0 k) && s.resident 0 && s.recordless c && !s.launchWaits c 7 (sa 0x200) && !decide (s.dcycle ≤ 0) && l.status == 0 &&
    gotIs (s.launchRead c (sa 0x200) 7) placedRecord &&
    decide ((s.checkLaunch (some (s.viewer c 7)) (Launch.ofRecord s.nextLaunch (sa 0x200) placedRecord 0 (depth + 1) (some 1)
      (some 0) placedLaunch.grants (s.ownWrites c 7))).1 = 0)) = true := by decide

set_option maxRecDepth 20000 in
/-- A LAUNCH of a record that does not pass, of one outside every grant, and one whose workgroup is saved. -/
theorem witness_ChildGrids_refused :
    let at_ (x : Word) : FlightKind := .launch x false 0
    let s (x : Word) : State := { stage (flying (at_ x)) with mem := childMem, launches := [handled], dcycle := 1 }
    gotIs ((s (sa 0x600)).launchRead (flying (at_ (sa 0x600))) (sa 0x600) 7) (List.replicate 512 0) = true ∧
    ((s (sa 0x600)).checkLaunch (some ((s 0).viewer (flying (at_ 0)) 7)) (Launch.ofRecord 1 (sa 0x600) (List.replicate 512 0) 0 2
      (some 1) (some 0) placedLaunch.grants [])).1 ≠ 0 ∧
    (match (s (sa 0x7FFE00)).launchRead (flying (at_ (sa 0x7FFE00))) (sa 0x7FFE00) 7 with
      | .trap cause _ => cause == causeSLAB
      | _ => false) = true ∧
    (flying (at_ (sa 0x7FFE00))).exposed (flight0 (at_ (sa 0x7FFE00))) = true ∧ handles0 (s 0) = true ∧
    ({ s 0 with wgs := [{ wg0 with place := .saved 0 }] } : State).resident 0 = false := by decide

/-- An older access of the thread to bytes of the record, the cycle of the issue, and a launch that has failed. -/
theorem witness_ChildGrids_waits :
    let k : FlightKind := .launch (sa 0x200) false 0
    let older : Flight := { flight0 (.access { addr := sa 0x3F8, key := slabKey 0 0x3F8, size := 8, op := .load false } false) with num := 3 }
    let c : Ctx := { lone with inflight := [older, flight0 k] }
    airborne (stage c) c (flight0 k) = true ∧ (stage c).launchWaits c 7 (sa 0x200) = true ∧
    (stage c).dcycle ≤ 0 ∧ ({ placedLaunch with status := 7 } : Launch).status ≠ 0 := by decide

/-- A LAUNCH that was answered in this cycle of its core, and one in an earlier. -/
theorem witness_ChildGrids_answered : [0, 1].all (fun cyc =>
    let k : FlightKind := .launched 2 0
    let s : State := { stage (flying k) with cores := [(0, { Core.init with cyc := cyc })] }
    airborne s (flying k) (flight0 k) && (flying k).quiet 7 && (s.launchOf? 0).isSome &&
    ((s.core (s.coreOf (flying k))).cyc == 0) == (cyc == 0)) = true := by decide

theorem witness_ChildGrids_sampled :
    let s : State := { handlerStage lone with launches := [{ handled with rcd := handled.rcd.set 0x15 1 }] }
    runs s (.launch (fx 0)) = true ∧ s.ctxs.all (fun c => c.trappable && s.launches.all (fun l => l.sampled)) = true ∧
    s.cur.course.Nodup ∧ handles0 s = true := by decide

/-- CWAIT on a refusal, on a child, and on a handle that names none. -/
theorem witness_ChildGrids_wait : [0x8000000000000005#64, 2#64, 3#64].all (fun h => [true, false].all (fun d =>
    let s : State := { stage (Ctx.having lone 2 h) with
      launches := [placedLaunch, { placedLaunch with num := 2, parent := some 1 }], cur := { issue0 with defer := d } }
    runs s (.cwait (fx 0)))) = true := by decide

theorem witness_ChildGrids_complete : [Phase.started, .finished].all (fun p =>
    let k : FlightKind := .cwait 2
    let s : State := { stage (flying k) with launches := [placedLaunch, { placedLaunch with num := 2, parent := some 1, phase := p }] }
    airborne s (flying k) (flight0 k) && (flying k).quiet 7 && ((s.launch? 2).map Launch.phase) == some p) = true := by decide

theorem witness_LaneSpecials : ((List.range 28).all (fun n => runs (stage lone) (.mfs { fx 0 with a := BitVec.ofNat 6 n }))) = true ∧
    [8, 9, 10, 11, 12, 13, 14, 19].all (fun n => runs (stage lone) (.mts { fx 0 with a := BitVec.ofNat 6 n })) = true ∧
    ((stage lone).home? lone).isSome = true := by decide

/-! ### Uniform words -/

/-- The stage with s2, s3 and s4 written. -/
def teamStage (x y z : Word) : State := { stage lone with teams := [((team0.put 2 x).put 3 y).put 4 z] }
def sa0 (fn : BitVec 3) : SA := { d := 1, a := 2, b := 3, fn := fn, l := 0 }
def si0 (k : BitVec 13) : SI := { d := 1, a := 2, imm := k }

theorem witness_UniformOperations_words : [Instr.snop (sa0 0), .sadd (sa0 0), .ssub (sa0 0), .smul (sa0 0), .sand (sa0 0),
    .sor (sa0 0), .sxor (sa0 0), .sshl (sa0 0), .sshr (sa0 0), .ssar (sa0 0), .smin (sa0 0), .smin (sa0 1), .smax (sa0 0),
    .smax (sa0 1), .scmp (sa0 0), .scmp (sa0 7), .saddi (si0 0x1000), .sandi (si0 1), .sori (si0 2), .sshli (si0 63), .sshri (si0 63),
    .ssari (si0 63), .smovi { d := 1, imm := 0x40000 }, .smovh { d := 1, imm := 0x7FFFF }, .vtos (sa0 0), .srd (si0 0), .srd (si0 5),
    .swr (si0 0), .swr (si0 1), .sbz { a := 2, off := 1 }, .sbnz { a := 2, off := 1 }].all (teamStage 0 1 2).uclear = true := by decide

/-- Both results of SCMP and both ways of SBZ and SBNZ, with targets that do not trap, and one that does. -/
theorem witness_UniformOperations_ways : [0, 1].all (fun x => (teamStage x 0 0).sreg 2 == x) = true ∧
    (stage lone).curLive = [lone] ∧ (stage lone).branchFault lone (placedPc + 4 + BitVec.ofInt 64 4) = none ∧
    ((stage lone).branchFault lone (placedPc + 4 + BitVec.ofInt 64 (4 * (-262144)))).isSome = true ∧
    lone.lane = (sa0 0).b.toNat % 32 - 3 ∧ (stage lone).curHome.isSome = true := by decide

def keyed (v : Verdict) : Bool :=
  match v with
  | .key _ => true
  | _ => false

def trapsWith (v : Verdict) : Bool :=
  match v with
  | .trap _ => true
  | _ => false

theorem witness_UniformAccesses : [(0x100, true), (0x101, false)].all (fun x =>
    let s := teamStage (sa x.1) 0 0
    s.uclear (.sld (si0 0)) && s.uclear (.sst (si0 0)) && s.curHome.isSome &&
    [accLoad, accStore].all (fun acc =>
      let v := s.checkAddr placedLaunch wg0 0 0 (sa x.1).toNat 8 acc false
      keyed v == x.2 && trapsWith v != x.2)) = true := by decide

def gotSome (r : TeamRead) : Bool :=
  match r with
  | .got _ => true
  | _ => false

/-- NETLD at a place that can be read and at one that traps; GSET of the last slot and past it. -/
theorem witness_TeamConfiguration_net : [(sa 0x100, true), (sa 0x110, false)].all (fun x =>
    let s := teamStage x.1 0 0
    s.uclear (.netld (sa0 0)) && gotSome (s.teamRead (s.sreg 2) 32 32) == x.2 &&
    (match s.teamRead (s.sreg 2) 32 32 with
      | .trap _ _ => !x.2
      | _ => x.2)) = true ∧
    [(63, true), (64, false)].all (fun x => (teamStage x.1 1 0).uclear (.gset (sa0 0)) &&
      decide ((x.1 : Word).toNat < placedLaunch.guards) == x.2 && ((teamStage x.1 1 0).wg? 0).isSome) = true := by decide

def sampledLaunch : Launch := { placedLaunch with rcd := placedLaunch.rcd.take 0x15 ++ [1] ++ placedLaunch.rcd.drop 0x16 }

/-- BIND of the least and greatest length, of bad ones, and in a sampled launch; UNBIND of one region and of all. -/
theorem witness_TeamConfiguration_bind : (teamStage (sa 0x100) (sa 0x200) 64).uclear (.bind (sa0 0)) = true ∧
    (teamStage (sa 0x100) (sa 0x200) 64).uclear (.unbind (sa0 0)) = true ∧ (teamStage 0 0 0).curSampled = false ∧
    ({ teamStage 0 0 0 with launches := [sampledLaunch] } : State).curSampled = true ∧
    ((stage lone).bindResult (sa 0x100).toNat (sa 0x200).toNat 64).1 = 0 ∧
    ((stage lone).objectKey (sa 0x100).toNat).isSome = true ∧ ((stage lone).regionPlace (sa 0x200).toNat 64).isSome = true ∧
    ((stage lone).bindResult (sa 0x100).toNat (sa 0x200).toNat (2 ^ 40 + 64)).1 = 1 ∧ (sa 0x101).toNat % 8 ≠ 0 ∧
    ((stage lone).unbindResult (sa 0x100).toNat (sa 0x200).toNat).1 = 5 := by decide

/-! ### Engine commands -/

/-- A record of no kind in particular. -/
def blankRec : QRec :=
  { num := 0, rcd := [], desc := [], owner := none, launch := 1, slices := [], rings := [], fence := [], lostScratch := false,
    fired := false, fail := 0, lead := none, after := [] }

def queueFilled (q n : Nat) : Table Core := [(0, { Core.init with queues := [(q, List.replicate n blankRec)] })]

/-- A state whose memory holds bytes at slab byte 0x200, which s2 names. -/
def recordStage (r : List Byte) : State := { teamStage (sa 0x200) 0 0 with mem := cellsWrite [] (slabKey 0 0x200) r }
def desk0 : Desk := { launch := placedLaunch, wg := some wg0, viewer := some (stage lone).teamViewer, core := 0 }

def good (c : TaskChk) : Bool :=
  match c with
  | .good _ => true
  | _ => false

/-- A TEAM record that passes, into a queue with room and into a full one, and a record of a kind that there is not. -/
theorem witness_QueueCommands_task :
    let r := plainRecord 0x10000 0 3
    let s := recordStage r
    s.curDesk.isSome = true ∧ gotIs (s.deskRead desk0 (s.sreg 2).toNat 64 64) r = true ∧ s.uclear (.task (sa0 0)) = true ∧
    good (s.taskCheck desk0 false true s.teamWrites r) = true ∧ s.queueFull 0 3 = false ∧
    ({ s with cores := queueFilled 3 64 } : State).queueFull 0 3 = true ∧
    s.taskCheck desk0 false true s.teamWrites (plainRecord 0x10000 6 3) = .bad (.refuse 1) := by decide

/-- The record of a ZERO of one row, without ring and tag. -/
def zeroRecord : List Byte := [3, 0, 0, 0, 0, 0, 1, 0] ++ List.replicate 36 0 ++ [0xFF] ++ List.replicate 19 0

theorem witness_QueueCommands_loom :
    let s := recordStage zeroRecord
    gotIs (s.deskRead desk0 (s.sreg 2).toNat 64 64) zeroRecord = true ∧ s.uclear (.loom (sa0 0)) = true ∧
    s.loomCheck desk0 false true zeroRecord = .ok ∧ s.queueFull 0 4 = false ∧
    ({ s with cores := queueFilled 4 64 } : State).queueFull 0 4 = true ∧
    s.loomCheck desk0 false true (zeroRecord.set 0 4) = .refuse 1 := by decide

/-- A descriptor of two one-byte elements from slab byte 0x400 to 0x500, with a ring of one record at 0x600. -/
def hodBytes : List Byte :=
  leBytes 8 (sa 0x400).toNat ++ leBytes 8 (sa 0x500).toNat ++ [1, 0, 0, 0, 0, 0, 0, 0xFF] ++ List.replicate 8 0 ++
    leBytes 8 (sa 0x600).toNat ++ List.replicate 56 0 ++ leBytes 4 2 ++ leBytes 4 1 ++ leBytes 4 1 ++ List.replicate 148 0
def hodStage (slice : Word) : State :=
  { teamStage (sa 0x200) slice 0 with mem := cellsWrite (cellsWrite [] (slabKey 0 0x200) hodBytes) (slabKey 0 0x608) [1] }

set_option maxRecDepth 20000 in
/-- HOD of the slice 0 to 2, and of 0 to 3, which lies outside. -/
theorem witness_HodCommands_word :
    let s := hodStage 0x200000000
    hodBytes.length = 256 ∧ s.uclear (.hod (sa0 0)) = true ∧ s.curDesk.isSome = true ∧ s.curTeam.isSome = true ∧
    gotIs (s.hodDesc desk0 0 (s.sreg 2)) hodBytes = true ∧ s.hodCheck desk0 hodBytes 0 2 true = .ok ∧
    s.hodCheck desk0 hodBytes 0 3 true = .refuse 3 ∧ s.queueFull 0 5 = false := by decide

/-- The copy of a workgroup of one team, before and after its team has arrived. -/
theorem witness_HodCommands_copy :
    let e : HodEntry := { team := 0, addr := sa 0x200, first := 0, last := 2, refused := 0, ring := none, tag := 0xFF, lost := false, writes := [] }
    [[], [e]].all (fun l =>
      let s : State := { stage lone with wgs := [{ wg0 with copies := [{ k := 0, desc := hodBytes, entries := l }] }] }
      (s.wg? 0).isSome && !(s.queueFull 0 5) && (s.liveOfTeam 0 0).length == 1 && wg0.teams == 1) = true := by decide

theorem witness_ServeAndFence : (teamStage 7 0 0).uclear (.taskServe (sa0 0)) = true ∧
    [(127, 6), (128, 6), (0, 7)].all (fun x => (teamStage x.1 x.2 0).uclear (.qfence (sa0 0)) &&
      (teamStage x.1 x.2 0).curDesk.isSome && ((teamStage x.1 x.2 0).sreg 2).toNat == (x.1 : Word).toNat) = true ∧
    (teamStage 127 6 0).queueFull 0 6 = false ∧ ({ teamStage 127 6 0 with cores := queueFilled 6 64 } : State).queueFull 0 6 = true := by
  decide

/-! ### Keystones and assay reads -/

/-- A keystone over slab bytes 0x1000 to 0x10FF that fires at 1 and sets tag 63. -/
def ksBytes : List Byte := leBytes 8 (sa 0x1000).toNat ++ leBytes 4 0x100 ++ leBytes 4 0 ++ leBytes 8 1 ++ leBytes 8 (63 * 64)

def placedAt (p : KsPlace) (ctrl : Nat) : Bool :=
  match p with
  | .at_ c _ => c == ctrl
  | _ => false

theorem witness_Keystones_arm :
    let s := recordStage ksBytes
    let t : State := { s with stores := [write0 (.put [1] false)], nextNum := 10 }
    s.uclear (.ksarm (sa0 0)) = true ∧ s.curSampled = false ∧ gotIs (s.deskRead desk0 (s.sreg 2).toNat 32 32) ksBytes = true ∧
    s.ksCheck desk0 ksBytes = .ok ∧ placedAt (s.ksPlace (s.ptRoot 0) (fieldAt ksBytes 0 8) (fieldAt ksBytes 8 4)) 0 = true ∧
    0 < ksCounters 0 ∧ (s.keystone 0 0).armed = false ∧ s.teamWrites.any s.outstanding = false ∧
    t.teamWrites.any t.outstanding = true ∧ s.ksCheck desk0 (ksBytes.set 24 4) = .refuse 1 := by decide

def ksCounter (armed pending : Bool) (owner : Option Nat) : Keystone :=
  { Keystone.init with armed := armed, pending := pending, owner := owner, count := 2 ^ 48, overshot := true }

/-- Handles that name the last counter of the last controller, and none. -/
theorem witness_Keystones_named : ksNamed 0xC701FF = some (199, 511) ∧ ksNamed 0xC80000 = none ∧ ksNamed 0x0040 = none ∧
    (teamStage 0xC701FF 0 0).uclear (.ksdis (sa0 0)) = true ∧ (teamStage 0xC701FF 0 0).uclear (.ksrd (sa0 0)) = true ∧
    (teamStage 0xC701FF 0 0).curSampled = false := by decide

theorem witness_Keystones_counters : [ksCounter false false none, ksCounter true false (some 0), ksCounter true true (some 0),
    ksCounter true false (some 1)].all (fun k =>
      let s : State := { teamStage 0xC701FF 0 0 with keystones := [(keystoneKey 199 511, k)] }
      s.keystone 199 511 == k && decide ((s.keystone 199 511).kind ≤ 1)) = true := by decide

/-- A waiting ENQUEUE with room in its queue, and with none. -/
theorem witness_Keystones_pending : [63, 64].all (fun n =>
    let r : QRec := { blankRec with rcd := plainRecord 0x10000 0 3, fired := true }
    let k : Keystone := { Keystone.init with armed := true, pending := true, fired := true, kind := 2, rcd := some r }
    let s : State := { stage lone with keystones := [(keystoneKey 0 5, k)], cores := queueFilled 3 n }
    s.keystone 0 5 == k && s.queueCount 0 (fieldAt r.rcd 0x2A 1) == n) = true := by decide

def isRight (c : Chk ⊕ Nat) : Bool :=
  match c with
  | .inr _ => true
  | _ => false

/-- ASRD and ASRDP with an object, with none, and with a misaligned place for the copy. -/
theorem witness_AssayReads : [Instr.asrd (sa0 0), .asrdp (sa0 0), .aswait (sa0 0)].all (fun i =>
    [(sa 0x1000, sa 0x800), (sa 0x1000, 0), (sa 0x1001, sa 0x800)].all (fun x => (teamStage x.1 x.2 0).uclear i)) = true ∧
    (let w : Workgroup := { wg0 with scrOff := 0x1000, scrSize := 64 }
     let s : State := { teamStage (sa 0x1000) (sa 0x800) 0 with wgs := [w] }
     isRight (s.objCheck placedLaunch w (sa 0x800).toNat) && isRight (s.copyCheck placedLaunch w (sa 0x1000).toNat) &&
     decide ((sa 0x800).toNat % 128 = 0) && decide ((sa 0x1000).toNat % 64 = 0) && placedLaunch.producer == 0) = true := by decide

/-- A wait for a generation above 4 of an object that stands at 4, at 5, and at 4 but final. -/
theorem witness_AssayReads_wait : [(4, 0), (5, 0), (4, 1)].all (fun x =>
    let k : FlightKind := .aswait (slabKey 0 0x800) 4
    let s : State := { stage (flying k) with mem := cellsWrite (cellsWrite [] (slabKey 0 0x838) [x.1]) (slabKey 0 0x829) [x.2] }
    (s.liveOfTeam 0 0).head? == some (flying k) && (flying k).quiet 7 &&
    decide (leNat (cellsRead s.mem (slabKey 0 0x838) 8) = (x.1 : Byte).toNat) &&
    decide (leNat (cellsRead s.mem (slabKey 0 0x829) 1) = (x.2 : Byte).toNat)) = true := by decide

/-! ### Faults, queues, launches and placement -/

/-- A load by the lone thread of address 0, parked. -/
def parkedLoad : FlightKind := .parked { addr := 0, key := 0, size := 8, op := .load false } false
def faultReq0 : FaultReq :=
  { addr := 0, pc := placedPc, mask := 1, reason := 1, agent := 0, teamSlot := 0, access := 0, level := 0, launch := 1,
    who := [(id0, 7)], hod := false, resolved := false }
def faulty (waiting : List FaultReq) (out : Table FaultReq) : State :=
  { stage (flying parkedLoad) with cores := [(0, { Core.init with faultNext := 127, faultsWaiting := waiting, faultsOut := out })] }

/-- A waiting fault with its record free, and with it held; a core without faults. -/
theorem witness_FaultRecords_write : [faulty [faultReq0] [], faulty [faultReq0] [(127, faultReq0)]].all (fun s =>
    (s.core 0).faultsWaiting == [faultReq0] && (s.core 0).faultNext == 127) = true ∧ ((faulty [] []).core 0).faultsWaiting = [] ∧
    Table.find ((faulty [] []).core 0).faultsOut 127 = none ∧
    Table.find ((faulty [] [(127, faultReq0)]).core 0).faultsOut 127 = some faultReq0 := by decide

/-- Page tables that map address 0 since the fault: leaf with V, R and W. -/
def mapped0 : List Host.Cell := pages 4 ++ [(hbmBase + 0x4000, 0x0F)]

theorem witness_FaultRecords_resolved :
    let s : State := { faulty [] [(127, faultReq0)] with
      mem := mapped0
      queues := [(0, { reg := none, desc := some (List.replicate 128 0), doorbell := 0, head := 0, qerr := 0, trace := false })] }
    let t := (s.homeStore (faultKey 0 127 + 0x14) [2] false).dropLeaf 0
    airborne s (flying parkedLoad) (flight0 parkedLoad) = true ∧ (s.home? (flying parkedLoad)).isSome = true ∧ isTranslated 0 = true ∧
    keyed (t.translate hbmBase 0 accLoad) = true := by decide

theorem witness_FaultRecords_abort : ((faulty [] [(127, faultReq0)]).launch? 1).map (fun l => (l.phase, l.status)) =
    some (.started, 0) := by decide

/-- Queue 0 with a ring of 4 packets at HBM address 0x1000, 2 of them consumed. -/
def queueDesc : List Byte := leBytes 8 0x1000 ++ leBytes 4 4 ++ leBytes 4 1 ++ List.replicate 112 0
def queue0 : HostQueue := { reg := some queueDesc, desc := some queueDesc, doorbell := 3, head := 2, qerr := 0, trace := false }
def slot0 : QSlot := { queue := 0, passed := false, full := true }
def queueStage (p : List Byte) : State :=
  { stage lone with queues := [(0, queue0)], slots := [(0, slot0)], mem := cellsWrite childMem (hbmBase + 0x1080) p }

set_option maxRecDepth 20000 in
/-- A doorbell before the last one, within the ring, and one beyond it. -/
theorem witness_HostQueues_doorbell : ((queueStage []).queue 0) = queue0 ∧ 2 < queue0.doorbell ∧ 6 ≤ queue0.head + queue0.ringN ∧
    7 > queue0.head + queue0.ringN := by decide

set_option maxRecDepth 20000 in
/-- A NOP, a packet of kind 2, and LAUNCH packets of a misaligned and of an aligned record. -/
theorem witness_HostQueues_packets : [([0], some 0), ([2], none), ([1, 0, 0, 0, 0, 0, 0, 0] ++ leBytes 8 (sa 0x201).toNat, some 1),
      ([1, 0, 0, 0, 0, 0, 0, 0] ++ leBytes 8 (sa 0x200).toNat, some 1)].all (fun x =>
    (((queueStage x.1).packet 0).map packetKind) == some x.2 && !((queueStage x.1).headWaits 0)) = true ∧
    ({ queueStage [] with slots := [] } : State).packet 0 = none ∧
    ({ queueStage [] with launches := [{ placedLaunch with phase := .waiting }] } : State).headWaits 0 = true := by decide

/-- Grants of queue 0: the whole of core 0's slice, at host address 0. -/
def grantBytes : List Byte := leBytes 8 (sa 0).toNat ++ leBytes 4 0x7F0000 ++ [7, 0, 0, 0]

set_option maxRecDepth 20000 in
/-- A record that passes the checks of the packet's launch, and one of zeros, which does not. -/
theorem witness_HostQueues_launch :
    let s : State := { queueStage [] with mem := cellsWrite childMem hostBase grantBytes }
    let shell (r : List Byte) : Launch := Launch.ofRecord 1 (sa 0x200) r 0 1 none none (s.readGrants 0) []
    gotIs (s.deskRead { launch := shell [], wg := none, viewer := none, core := 0 } (sa 0x200).toNat 512 64) placedRecord = true ∧
    (s.checkLaunch none (shell placedRecord)).1 = 0 ∧ (s.checkLaunch none (shell (List.replicate 512 0))).1 ≠ 0 := by decide

theorem witness_HostQueues_slots : (queueStage []).periodOver = false ∧
    ({ queueStage [] with slots := [] } : State).waitingQueues [] 4095 = [0] ∧
    List.Pairwise (fun a b => a < b) ((queueStage []).queues.map Prod.fst) ∧ (queueStage []).hasWork 0 = true := by decide

/-- A launch with slot 0 at slab byte 0x800. -/
def slotted : Launch := { placedLaunch with rcd := placedLaunch.rcd.take 0xD0 ++ leBytes 8 (sa 0x800).toNat ++ placedLaunch.rcd.drop 0xD8 }
def withLaunch (l : Launch) : State := { queueStage [] with launches := [l], mem := [] }

theorem witness_LaunchLife_start : (withLaunch { slotted with phase := .waiting }).startReady { slotted with phase := .waiting } = true ∧
    (withLaunch slotted).startReady slotted = false ∧ (withLaunch slotted).slotsOf slotted = [(0, slabKey 0 0x800)] ∧
    slabKey 0 0x800 % 128 = 0 := by decide

/-- A grid whose one workgroup has retired, with a place for its completion record, and one that runs. -/
def completing : Launch := { placedLaunch with rcd := placedLaunch.rcd.take 0x128 ++ leBytes 8 (sa 0xA00).toNat ++ placedLaunch.rcd.drop 0x130 }

theorem witness_LaunchLife_finish : (withLaunch { completing with retired := 1 }).mayFinish { completing with retired := 1 } = true ∧
    (withLaunch completing).mayFinish completing = false ∧ completing.complete ≠ 0 ∧ placedLaunch.complete = 0 ∧
    (withLaunch completing).mayComplete completing completing.complete = some (slabKey 0 0xA00) := by decide

/-- A launch of two workgroups, none sent yet, with budget and tags for one. -/
def unsent (flags : Byte) : Launch :=
  { placedLaunch with
    dimx := 2, sent := 0, rcd := placedLaunch.rcd.take 0x20 ++ [flags] ++ placedLaunch.rcd.drop 0x21
    hdr := placedHeader.take 8 ++ [0, 1, 0] ++ placedHeader.drop 11 }
def empty (l : Launch) : State := { withLaunch l with ctxs := [], teams := [], wgs := [] }
def full : Table Core := (List.range 192).map (fun n => (n, { Core.init with gated := true }))

theorem witness_Placement_send : (empty (unsent 0)).maySend (unsent 0) = true ∧ (unsent 0).coresident = false ∧
    (unsent 0).coreOrder.head? = some 1 ∧ ((empty (unsent 0)).room 1 true (unsent 0)).isSome = true ∧
    (withLaunch placedLaunch).maySend placedLaunch = false := by decide

set_option maxRecDepth 20000 in
theorem witness_Placement_full : ((unsent 0).coreOrder.all (fun k => (({ empty (unsent 0) with cores := full } : State).admitTo k (unsent 0)).isNone)) =
    true := by decide

/-- A sampled launch of six workgroups: m is 3; and one of a single workgroup: m is 0. -/
theorem witness_VisitOrder : (0 < 6 ∧ 6 ≤ 2 ^ 3 ∧ (3 = 0 ∨ 2 ^ (3 - 1) < 6)) ∧ (0 < 1 ∧ 1 ≤ 2 ^ 0 ∧ (0 = 0 ∨ 2 ^ (0 - 1) < 1)) ∧
    visits 6 5 6 0 = [5, 1, 3, 4, 0, 2] := by decide

set_option maxRecDepth 20000 in
theorem witness_VisitOrder_send :
    let l := { unsent 0 with rcd := (unsent 0).rcd.set 0x15 1 }
    l.sampled = true ∧ l.coresident = false ∧ (empty l).launch? 1 = some l ∧ (empty l).maySend l = true ∧
      ((empty l).sendOut l).isSome = true := by decide

theorem witness_Placement_coresident : (empty (unsent 1)).maySend (unsent 1) = true ∧ (unsent 1).coresident = true ∧ (unsent 1).sent = 0 ∧
    (State.sendAll 1 (unsent 1).total (empty (unsent 1))).isSome = true := by decide

/-- A launch with a deadline of 10 cycles and an energy limit of 1. -/
def limited : Launch := { placedLaunch with rcd := placedLaunch.rcd.take 0x30 ++ leBytes 8 10 ++ leBytes 8 1 ++ placedLaunch.rcd.drop 0x40 }

theorem witness_LaunchLimits : limited.open_ = true ∧ limited.deadline ≠ 0 ∧ limited.energyLimit ≠ 0 ∧
    10 ≥ limited.startCycle + limited.deadline ∧ ¬ 9 ≥ limited.startCycle + limited.deadline ∧
    (1023 < (stage lone).metered + 1024 ∧ 1024 ≥ (stage lone).metered + 1024) := by decide

/-- The lone thread waits for tag 1 for ever, and a second workgroup is still to be sent; with YIELDOK too, where the
queue has a save area. -/
def stalled (flags : Byte) : State :=
  let l := { unsent flags with sent := 1, stall := 65536 }
  { withLaunch l with
    ctxs := [{ lone with inflight := [flight0 (.waitt 1 false)] }]
    queues := [(0, { queue0 with desc := some (queueDesc.take 0x28 ++ leBytes 8 0x100000 ++ queueDesc.drop 0x30) })] }

set_option maxRecDepth 20000 in
theorem witness_LaunchLimits_stall : [0, 2].all (fun flags =>
    (stalled flags).launches.all (fun l => (stalled flags).stalls l && decide (l.stall ≥ 65536) && l.yieldok == (flags == 2) &&
      (firstBy (fun (a b : Workgroup) => decide (a.visit > b.visit)) ((stalled flags).stallCands l)).isSome)) = true := by decide

/-! ### The assay unit, pre-emption -/

theorem witness_AssayUnit_post : [0, 7].all (fun d => runs (stage lone) (.asput { fa 1 with d := d }) &&
    runs (stage lone) (.asput { fa 0 with d := d })) = true ∧ slotted.assay 0 ≠ 0 ∧ slotted.assay 7 = 0 := by decide

def sample0 : Sample := { visit := 0, ready := 0, values := List.replicate 8 0, nans := List.replicate 8 false, gmin := 0, gmax := 0 }

set_option maxRecDepth 20000 in
/-- A launch whose last sample is next, and one whose slots may be finalised. -/
theorem witness_AssayUnit_commit :
    let l := { slotted with samples := [sample0] }
    let s : State := { withLaunch l with dcycle := 5 }
    s.nextSample l = some sample0 ∧ (withLaunch l).nextSample slotted = none ∧ l.committed + 1 = l.total ∧
    ((s.slotsOf l).map Prod.snd).Nodup := by decide

theorem witness_AssayUnit_finalise :
    let l := { slotted with retired := 1, stop := some 4, committed := 1 }
    (withLaunch l).mayFinalise l = true ∧ (withLaunch slotted).mayFinalise slotted = false := by decide

/-- Queue 0 with 1 MiB of save area at HBM address 0x100000. -/
def saveStage : State :=
  { stage lone with
    queues := [(0, { queue0 with desc := some (queueDesc.take 0x20 ++ leBytes 8 0x100000 ++ leBytes 8 0x100000 ++ queueDesc.drop 0x30) })]
    slots := [(0, slot0)] }

set_option maxRecDepth 20000 in
theorem witness_Preemption_asked : saveStage.movable wg0 = true ∧ saveStage.preemptAsked wg0 = true ∧ (stage lone).preemptAsked wg0 = false ∧
    lone.trapNow = none ∧ saveStage.atBoundary 0 = true ∧ saveStage.enginesQuiet wg0 = true ∧
    ({ saveStage with stores := [write0 (.put [1] false)] } : State).atBoundary 0 = false ∧ (saveStage.queue 0).trace = false ∧
    (saveStage.findRoom 0 (saveStage.imageBytes placedLaunch wg0)).isSome = true := by decide

/-- The workgroup saved at HBM address 0x100000, with an image of zeros but for its header. -/
def savedStage : State :=
  { saveStage with
    wgs := [{ wg0 with place := .saved 0x100000 }]
    mem := cellsWrite [] (hbmBase + 0x100000) ([1, 0, 32, 1, 64] ++ [0, 0, 0] ++ leBytes 8 1 ++ List.replicate 12 0 ++ leBytes 4 3280 ++
      leBytes 8 128 ++ leBytes 8 105088 ++ leBytes 8 105600) }

set_option maxRecDepth 20000 in
theorem witness_Preemption_restore : savedStage.mapped 0 = true ∧ placedLaunch.maxres = 0 ∧ placedLaunch.status = 0 ∧
    savedStage.imageStatus (hbmBase + 0x100000) = 0 ∧
    savedStage.wgs.all (fun w => (savedStage.restoreWg placedLaunch w).isSome) = true ∧ (saveStage.restoreWg placedLaunch wg0).isNone = true := by
  decide

/-! ### Power and migration, the foreman, the engines -/

theorem witness_PowerAndMigration : saveStage.movable wg0 = true ∧ wg0.bound = false ∧ saveStage.oneBarrier 0 = true ∧
    saveStage.hodOpen 0 = false ∧ (saveStage.wgs.all (fun w => w.place != .resident || w.core != 0 || saveStage.atBoundary w.num)) = true ∧
    (96 ≤ 191 ∧ ((stage lone).core 191).gated = false ∧ (stage lone).roomOf 191 = []) ∧
    ((({ stage lone with cores := [(96, { Core.init with gated := true })] } : State).core 96).gated = true) := by decide

set_option maxRecDepth 20000 in
/-- A save and the return to core 1. -/
theorem witness_PowerAndMigration_moves :
    let t := saveStage.save 0
    (t.wgs.all (fun w => match w.place, t.launchOf? 0 with
      | .saved a, some l => (t.restoreOn l w (hbmBase + a) 1).isSome
      | _, _ => false)) = true := by decide

/-- A queue of core 0 whose head is a record. -/
def headed (q : Nat) (r : QRec) : State := { stage lone with cores := [(0, { Core.init with queues := [(q, [r])] })] }
def recOf (kind q : Nat) (desc : List Byte) : QRec := { blankRec with rcd := plainRecord 0x10000 kind q, desc := desc, owner := some 0 }
/-- The lone thread at TASK.serve for queue 3. -/
def servingStage (r : QRec) : State :=
  { headed 3 r with
    ctxs := [{ lone with status := .serving }]
    teams := [{ team0 with serve := some { queue := 3, idle := true, d := 1, pc := placedPc, inTask := false } }] }

/-- Heads that start, wait for a guard slot, and are dropped by it; a server and none. -/
theorem witness_ForemanStarts_guard :
    let r : QRec := recOf 0 3 []
    let g : QRec := { r with rcd := r.rcd.set 0x29 5 }
    (headed 3 r).headOf 0 3 = some r ∧ (headed 3 r).mayStart 0 r = .go ∧ (headed 3 g).mayStart 0 g = .wait ∧
    ({ headed 3 g with wgs := [{ wg0 with guards := [(5, false)] }] } : State).mayStart 0 g = .drop ∧
    (headed 3 r).serverOf 0 3 = none ∧ ((servingStage r).serverOf 0 3).isSome = true ∧ (headed 3 r).headOf 0 2 = none ∧
    (headed 3 r).wgs.all (fun w => w.copies.isEmpty) = true := by decide

def mmulRecord : List Byte := [1, 0, 0, 0, 0, 0, 1, 0] ++ leBytes 8 (sa 0x700).toNat ++ List.replicate 28 0 ++ [0xFF] ++ List.replicate 19 0
def drainRecord (dst : Nat) : List Byte :=
  [2, 0, 0, 0, 0, 0, 1, 0] ++ List.replicate 24 0 ++ leBytes 8 dst ++ List.replicate 4 0 ++ [0xFF] ++ List.replicate 19 0
def wloadRecord : List Byte := [0, 0, 1, 0, 1, 1, 0, 0] ++ leBytes 8 (sa 0x700).toNat ++ List.replicate 28 0 ++ [0xFF] ++ List.replicate 19 0
def qgemv0 : List Byte := List.replicate 8 0 ++ leBytes 8 (sa 0x400).toNat ++ List.replicate 48 0
def tile0 : Tile := { rcd := wloadRecord, cols := [[0, 0]], poisoned := none }

set_option maxRecDepth 20000 in
/-- A WLOAD with tokens and without, an MMUL without a tile, a copy and a QGEMV. -/
theorem witness_ForemanStarts_engines : loomHeadBad none (recOf 1 4 wloadRecord) = false ∧ loomTokens none wloadRecord = 1 ∧
    (headed 4 (recOf 1 4 wloadRecord)).tokensUsed + 1 ≤ 768 ∧ loomHeadBad none (recOf 1 4 mmulRecord) = true ∧
    ({ headed 4 (recOf 1 4 wloadRecord) with pool := 0 } : State).pool < 1 ∧
    ((stage lone).slabDecode (fieldAt qgemv0 8 8)).isSome = true ∧
    [recOf 2 5 hodBytes, recOf 3 6 qgemv0, recOf 1 4 wloadRecord].all (fun r =>
      (headed (taskQueue r.rcd) r).mayStart 0 r == .go && (headed (taskQueue r.rcd) r).headOf 0 (taskQueue r.rcd) == some r) = true := by decide

def running0 (q : Nat) (x : Running) : State := { stage lone with cores := [(0, { Core.init with running := [(q, x)], tile := some tile0 })] }

theorem witness_ForemanEnds_task :
    let x := startOf (recOf 0 3 []) 0
    Table.find ((running0 3 x).core 0).running 3 = some x ∧ taskKind x.rcd.rcd = 0 ∧ (running0 3 x).liveOfTeam 0 0 = [lone] ∧
    Table.find ((stage lone).core 0).running 3 = none := by decide

/-- A QFENCE that waits for the record in another queue, and one that waits for none. -/
theorem witness_ForemanEnds_fence :
    let r : QRec := { recOf 5 3 [] with fence := [1], num := 2 }
    let s (n : Nat) : State := { stage lone with cores := [(0, { Core.init with queues := [(3, [r]), (4, [{ recOf 1 4 [] with num := n }])] })] }
    (s 1).headOf 0 3 = some r ∧ (s 1).mayStart 0 r = .go ∧ (s 1).recOpen 1 = true ∧ (s 9).recOpen 1 = false := by decide

/-- EOS records: for an engine queue with a word, for a serving team, and with a next record for a full queue. -/
theorem witness_ForemanEnds_eos :
    let e : QRec := { recOf 4 4 [] with rcd := (plainRecord 0 4 4).take 0x38 ++ leBytes 8 (sa 0x900).toNat }
    let f : QRec := { recOf 4 4 [] with rcd := (plainRecord 0 4 4).take 0x30 ++ leBytes 8 (sa 0x200).toNat ++ List.replicate 8 0 }
    let s : State := { stage lone with
      cores := [(0, { Core.init with queues := [(4, [f]), (3, List.replicate 64 blankRec)] })]
      mem := cellsWrite [] (slabKey 0 0x200) (plainRecord 0x10000 0 3) }
    (headed 4 e).eosCheck 0 e = .nothing ∧ eosWord e.rcd ≠ 0 ∧ ((headed 4 e).localSlab (eosWord e.rcd)).isSome = true ∧
    (headed 4 e).mayStart 0 e = .go ∧ ((servingStage (recOf 4 3 [])).serverOf 0 3).isSome = true ∧ s.eosCheck 0 f = .full := by decide

theorem witness_ForemanEnds_idle : (stage lone).allIdle = true ∧ (stage lone).enqueued = (stage lone).completed ∧
    (headed 3 blankRec).allIdle = false ∧
    (({ servingStage (recOf 0 3 []) with cores := [] } : State).idleServers).length = 1 ∧
    [1023, 1024].map (fun t => decide ((t : Nat) < 0 + 1024)) = [true, false] := by decide

/-- A running task of each Loom operation, with its places. -/
theorem witness_LoomRows : [(0, wloadRecord), (1, mmulRecord), (2, drainRecord 0), (2, drainRecord (sa 0x700).toNat), (3, zeroRecord)].all (fun x =>
    let r := startOf (recOf 1 4 x.2) 0
    (running0 4 r).loomTask 0 x.1 == some r && ((running0 4 r).core 0).tile == some tile0 && (running0 4 r).memOk &&
    ((running0 4 r).loomTask 0 ((x.1 + 1) % 4)).isNone) = true ∧
    ((stage lone).slabDecode (mmulRow mmulRecord 0)).isSome = true ∧ isSlabKey (slabKey 0 0x700) = true ∧
    ((stage lone).slabDecode (drainRow (drainRecord (sa 0x700).toNat) 0)).isSome = true ∧
    ((stage lone).slabDecode (fieldAt wloadRecord 8 8)).isSome = true := by decide

theorem witness_EngineTasks_loom : [true, false].all (fun d =>
    let x : Running := { startOf (recOf 1 4 zeroRecord) 0 with done := d }
    Table.find ((running0 4 x).core 0).running 4 == some x && ((running0 4 x).wg? 0).isSome) = true := by decide

/-- Whether a chunk writes one piece, faults, or meets poison. -/
def chunkSays (g : ChunkGot) : Nat :=
  match g with
  | .writes [_] => 0
  | .writes _ => 1
  | .fault _ _ _ _ => 2
  | .poison _ => 3

/-- Whether a copy's bytes are read, fault, or meet poison. -/
def hodSays (g : HodGot) : Nat :=
  match g with
  | .bytes _ => 0
  | .fault _ _ _ _ => 2
  | .poison _ => 3

set_option maxRecDepth 20000 in
/-- Copies of one element: from slab, from an unmapped address, from a poisoned byte, and to an unmapped address. -/
theorem witness_EngineTasks_hod : [(sa 0x400, sa 0x500, [], 0, 0), (0, sa 0x500, [], 2, 0),
      (sa 0x400, sa 0x500, [poisonUnit (slabKey 0 0x400)], 3, 0), (sa 0x400, 0, [], 0, 2)].all (fun x =>
    let d := leBytes 8 (x.1 : Word).toNat ++ leBytes 8 (x.2.1 : Word).toNat ++ hodBytes.drop 16
    let r : Running := startOf { recOf 2 5 d with slices := [(0, 1)] } 0
    let s : State := { running0 5 r with poison := x.2.2.1 }
    let m := chunkElems d 0 [(0, 1)] 1 ((destAt d 0 [(0, 1)] 0 0).map HodDest.block) 1 0
    (Table.find (s.core 0).running 5).isSome && hodCount d [(0, 1)] == 1 && (destAt d 0 [(0, 1)] 0 0).isSome &&
    taskKind r.rcd.rcd == 2 && (s.core 0).faultsOut.isEmpty && !s.engineBars 0 r.rcd.owner (s.chunkReads r m) &&
    hodSays (s.hodValues (s.recRoot r.rcd) d [(0, 1)] m 0 []) == x.2.2.2.1 &&
    chunkSays (s.hodChunkOf (s.recRoot r.rcd) d (s.ownerScr r.rcd) [(0, 1)] 0 m 0 [0] []) == x.2.2.2.2) = true := by decide

theorem witness_EngineTasks_quarry :
    let d := leBytes 8 0 ++ leBytes 8 (sa 0x400).toNat ++ leBytes 8 (sa 0x800).toNat ++ leBytes 4 1 ++ leBytes 4 32 ++ List.replicate 32 0
    let x : Running := startOf { recOf 3 6 d with slices := [(hbmBase, 64)] } 0
    Table.find ((running0 6 x).core 0).running 6 = some x ∧ taskKind x.rcd.rcd = 3 ∧ x.progress = 0 ∧
    ((stage lone).slabDecode (fieldAt d 0x10 8)).isSome = true ∧
    overlaps hbmBase 64 (slabKey 0 0x800) (4 * quarryM d) = false := by decide

/-! ### Collectives, links and the host -/

def comm0 (n : Nat) : Comm := { members := List.range n, priority := 0, root := 0, buffer := 0, result := slabKey 0 0, resultLen := 0x10000 }
def msg0 (op rank : Nat) : CollMsg :=
  { comm := 2, rank := rank, num := 0, op := op, size := 256, bytes := List.replicate 256 0, bad := [] }
def linked : State := { stage lone with devnum := some 0, comms := [(2, comm0 2)], routes := [(1, (23, 0))] }

set_option maxRecDepth 20000 in
theorem witness_Collectives_send :
    let c : CollChunk := { hop := none, tier := 1, launch := 1, wg := 0, src := slabKey 0 0, msg := msg0 0 0 }
    let s : State := { linked with collOut := [c] }
    s.nextChunk 1 = some c ∧ s.nextChunk 0 = none ∧ s.comm? 2 = some (comm0 2) ∧ s.rankIn (comm0 2) = some 0 := by decide

set_option maxRecDepth 20000 in
/-- Chunks of each operation, of the root and of another rank; a reduction's last chunk; a chunk of no communicator. -/
theorem witness_Collectives_arrive : [(0, 1), (3, 1), (4, 0), (4, 1)].all (fun x => !linked.chunkRefused (msg0 x.1 x.2)) = true ∧
    linked.chunkRefused { msg0 0 0 with comm := 3 } = true ∧ linked.devnum ≠ none ∧ (stage lone).devnum = none ∧
    (({ linked with collIn := [msg0 0 1] } : State).gathered (comm0 2) (msg0 0 1)).length = 1 ∧
    (({ linked with collIn := [msg0 0 0, msg0 0 1] } : State).gathered (comm0 2) (msg0 0 1)).length = 2 ∧
    isSlabKey (slabKey 0 0) = true ∧ slabRangeFree (slabKey 0 0) 256 = true := by decide

def packet0 (op : SpanOp) : SpanPkt := { dev := 0, src := 1, slab := false, addr := 0x100, comm := 0, tag := 5, op := op }

theorem witness_LinksAndHost_packets : [SpanOp.store [1], .store [1] true, .load 8, .reduce 1 4 [0, 0, 0, 0]].all (fun op =>
    linked.packetKey (packet0 op) == some (hbmBase + 0x100) && linked.packetFate (hbmBase + 0x100) op == .served) = true ∧
    linked.devnum = some 0 ∧ Table.find linked.routes 1 = some (23, 0) ∧ Table.find linked.routes 2 = none := by decide

theorem witness_LinksAndHost_returns :
    let p : PendingWrite := { write0 (.put [1] false) with num := 5, key := remoteKey 5 false 0x100 }
    let s : State := { linked with acks := [p] }
    s.acks.find? (fun e => e.num == 5) = some p ∧ s.ctx? id0 = some lone ∧ linked.devnum ≠ some 1 := by decide

theorem witness_LinksAndHost_window : 2 ^ 39 - 8 + 8 ≤ 2 ^ 39 ∧ 2 ^ 39 - 8 + 9 > 2 ^ 39 ∧ hbmValid 47999999999 = true ∧ hbmValid 48000000000 = false := by
  decide

/-! ### The mailbox, errors, and the step -/

set_option maxRecDepth 20000 in
/-- A descriptor that may be registered, one that may not, a queue with a launch, and the mailbox in its three states. -/
theorem witness_Mailbox : descBad queueDesc = false ∧ descBad [] = true ∧ (queueStage []).queueBusy 0 = true ∧
    (queueStage []).queueBusy 1 = false ∧ (stage lone).mailbox = none ∧ (stage lone).running = true ∧
    ({ stage lone with mailbox := some 3 } : State).mailbox.isSome = true ∧
    (queueStage []).launches.any (fun l => l.communicator == 0xFF && l.phase != .finished) = true ∧
    (queueStage []).launches.any (fun l => l.communicator == 2 && l.phase != .finished) = false := by decide

/-- A communicator of one member, this device. -/
def commBytes : List Byte :=
  leBytes 2 1 ++ List.replicate 22 0 ++ leBytes 8 (sa 0).toNat ++ leBytes 8 0x10000 ++ List.replicate 24 0

theorem witness_Mailbox_commcfg : linked.commBad 2 commBytes = false ∧ linked.commBad 16 commBytes = true := by decide

def badImage : State := { savedStage with mem := cellsWrite savedStage.mem (hbmBase + 0x100002) [16] }

/-- Images: of a saved workgroup, with a reserved frame field, of another width, of an unknown launch, and one that a
workgroup's image was copied to. -/
theorem witness_MailboxDevice_images : badImage.imageStatus (hbmBase + 0x100000) = 4 ∧ savedStage.imageStatus (hbmBase + 0x100000) = 0 ∧
    (savedStage.wgs.find? (fun w => w.place == .saved 0x100000)).isSome = true ∧
    ({ savedStage with mem := cellsWrite savedStage.mem (hbmBase + 0x100080 + 0x49) [8] } : State).imageStatus (hbmBase + 0x100000) = 5 ∧
    ({ savedStage with launches := [] } : State).imageStatus (hbmBase + 0x100000) = 5 ∧
    (({ savedStage with wgs := [{ wg0 with place := .saved 0 }] } : State).behind (hbmBase + 0x100000)).isSome = true := by decide

theorem witness_MailboxDevice_invalidate : (stage lone).quiescent 0 0x10000 = true ∧ (stage lone).invalidating = none ∧
    ({ stage lone with stores := [{ write0 (.put [1] false) with key := hbmBase }] } : State).quiescent 0 0x10000 = false := by decide

theorem witness_MailboxDevice_debug :
    let c : Ctx := { lone with status := .halted (placedPc + 4) }
    (stage c).ctx? c.id = some c ∧ (stage c).ctxs.filter (fun d => (stage c).debugSel (.grid 1) d.id) = [c] ∧
    ((stage c).queue 0).trace = false ∧ ((stage lone).launch? 1).isSome = true ∧ (stage lone).launch? 2 = none := by decide

/-- Operands of MEASURE, DEVNUM and ROUTES at their bounds; the entry of device 4095 is V with link 23. -/
theorem witness_MailboxDevice_operands : (List.replicate 32 (0 : Byte)).length = 32 ∧
    (fieldAt (leBytes 2 0xFFE ++ List.replicate 14 0) 0 2 < 0xFFF ∧ nonzero (leBytes 2 0xFFE ++ List.replicate 14 0) 2 14 = false) ∧
    (let b := leBytes 2 4095 ++ leBytes 2 1 ++ List.replicate 12 (0 : Byte)
     let s : State := { stage lone with mem := cellsWrite [] hostBase (leBytes 4 0x80000017) }
     fieldAt b 0 2 + fieldAt b 2 2 ≤ 4096 ∧ nonzero b 4 4 = false ∧ s.memNat (hostBase + fieldAt b 8 8) 4 = 0x80000017 ∧
     bitsAt 0x80000017 4 0 ≤ 23 ∧ bitsAt 0x80000017 30 12 = 0 ∧ bitsAt 0x80000017 7 5 = 0) := by decide

def session (starts : List (Nat × Nat × Word)) (st : Option (Nat × Option Nat)) : Capture :=
  { area := 0x1000, regions := [((sa 0).toNat, 256)], packets := [], digests := [], replay := none, starts := starts, stage := st }

theorem witness_Platform_capture : ({ stage lone with launches := [{ placedLaunch with phase := .finished }] } : State).launches.any
    Launch.unfinished = false ∧ (session [(1, 0, 0)] none).starts ≠ [] ∧ (sa 0).toNat % 256 = 0 ∧
    (session [(1, 0, 0)] (some (0, some 1))).starts[0]? = some (1, 0, 0) ∧
    ((session [(1, 0, 0)] none).digests.find? (fun d => d.1 == 1)).map Prod.snd = none := by decide

def isWord (r : CodeRead) : Bool :=
  match r with
  | .word _ => true
  | _ => false

theorem witness_Platform_units : isSlabKey (slabKey 191 0x7FFFFF) = true ∧ isAccKey (accKey 0 0) = true ∧ isHbmKey hbmBase = true ∧
    (stage lone).fillers 0 0 = [lone] ∧ isWord ((stage lone).memoryWord lone placedPc false) = true := by decide

/-- A thread with an instruction ADD at its program counter; one that has been passed over 64 times. -/
def coded (c : Ctx) : State :=
  { stage c with
    mem := cellsWrite [] (slabKey 0 0x10040) (leBytes 4 0x1C1821D0)
    parts := [(0, { Part.init with icache := placedWords 32 0x1C1821D0 })] }

theorem witness_Platform_picker : overduePc ((coded { lone with passed := 64 }).readyFor 0 0 .alu) = some placedPc ∧
    overduePc ((coded { lone with passed := 63 }).readyFor 0 0 .alu) = none := by decide

theorem witness_StepRuns :
    let s : State := { coded lone with agenda := [.issue 0 0 .alu false] }
    let f : Fetched := { start := placedPc, pc := placedPc, pfx := none, warn := 0, word := 0x1C1821D0,
                         what := some (.abs { d := 3, a := 1, b := 3, t := 5, gn := 0, g := 0 }) }
    s.partCtxs 0 0 = [lone] ∧ lone.lane < 32 ∧ lone.inflight = [] ∧ (s.part 0 0).busy .alu = false ∧
    s.issuedNow 0 0 lone = false ∧ s.codeWord lone placedPc = .word 0x1C1821D0 ∧ f.pipe = .alu ∧ s.ready lone f = true := by decide

theorem witness_EncodingRoundTrip : WellFormed (.add (fa 0)) = true ∧ (encode (.add (fa 0))).isSome = true := by decide

theorem witness_MemoryInvariant : (coded lone).memOk = true ∧
    (match step { coded lone with agenda := [.issue 0 0 .alu false] } with
      | .next _ => true
      | _ => false) = true := by decide
end Sys2Proof.Machine.Tests
end

