-- ==== Sys2Proof/Tests/Slice0.lean ====
section
/-!
SUPPORT. Sys2Proof/Tests/Slice0.lean: words written out from the encodings of spec/ decode to their instructions,
WellFormed refuses an ill-formed term for each of its checks, and single instructions give the numbers that spec/
gives with its rules.
-/
namespace Sys2Proof.Machine.Tests
open Sys2Proof Sys2Proof.Machine

/-! ### Words of the worked programs and reference entries of spec/ -/

/-- Words of the reference chapters of spec/, with the operands of their assembly. -/
theorem test_decode_integer :
    decodeWord 0x00000000 = .instr (.nop { d := 0, a := 0, b := 0, t := 0, gn := 0, g := 0 }) ∧
    decodeWord 0x02182159 = .instr (.add { d := 3, a := 1, b := 2, t := 5, gn := 1, g := 1 }) ∧
    decodeWord 0x10412500 = .instr (.and { d := 8, a := 9, b := 10, t := 0, gn := 0, g := 0 }) ∧
    decodeWord 0x0A282110 = .instr (.mad { d := 5, a := 1, b := 2, t := 1, gn := 0, g := 0 }) ∧
    decodeWord 0x22282120 = .instr (.sel { d := 5, a := 1, b := 2, t := 2, gn := 0, g := 0 }) ∧
    decodeWord 0x24286200 = .instr (.bfx { d := 5, a := 3, b := 4, t := 0, gn := 0, g := 0 }) ∧
    decodeWord 0x26286200 = .instr (.bfi { d := 5, a := 3, b := 4, t := 0, gn := 0, g := 0 }) ∧
    decodeWord 0x2828CA00 = .instr (.bsrd { d := 5, a := 6, b := 20, t := 0, gn := 0, g := 0 }) ∧
    decodeWord 0x20886200 = .instr (.cmp { d := 17, a := 3, b := 4, t := 0, gn := 0, g := 0 }) ∧
    decodeWord 0x52408280 = .instr (.idp8 { d := 8, a := 4, b := 5, t := 0, gn := 0, g := 0 }) := by decide

/-- Words of the reference chapters of spec/, with the operands of their assembly. -/
theorem test_decode_moves :
    decodeWord 0x2BF7E000 = .instr (.mov { d := 62, a := 63, b := 0, t := 0, gn := 0, g := 0 }) ∧
    decodeWord 0x2A184010 = .instr (.movs { d := 3, a := 2, b := 0, t := 1, gn := 0, g := 0 }) ∧
    decodeWord 0x3C404200 = .instr (.movi { d := 8, a := 2, imm := 32, gn := 0, g := 0 }) ∧
    decodeWord 0x3C17FFF0 = .instr (.movi { d := 2, a := 63, imm := 511, gn := 0, g := 0 }) := by decide

/-- Words of the reference chapters of spec/, with the operands of their assembly. -/
theorem test_decode_immediate :
    decodeWord 0x2DFFFD00 = .instr (.addi { d := 63, a := 63, imm := 464, gn := 0, g := 0 }) ∧
    decodeWord 0x2E209F00 = .instr (.andi { d := 4, a := 4, imm := 496, gn := 0, g := 0 }) ∧
    decodeWord 0x3A084000 = .instr (.cmpi { d := 1, a := 2, imm := 0, gn := 0, g := 0 }) ∧
    decodeWord 0x34182080 = .instr (.shli { d := 3, a := 1, imm := 8, gn := 0, g := 0 }) ∧
    decodeWord 0x3430ABF0 = .instr (.shri { d := 6, a := 5, imm := 191, gn := 0, g := 0 }) ∧
    decodeWord 0x3430B040 = .instr (.sari { d := 6, a := 5, imm := 260, gn := 0, g := 0 }) ∧
    decodeWord 0x3438F8D0 = .instr (.roti { d := 7, a := 7, imm := 397, gn := 0, g := 0 }) := by decide

/-- Words of the reference chapters of spec/, with the operands of their assembly. -/
theorem test_decode_float :
    decodeWord 0x3E40A300 = .instr (.fadd { d := 8, a := 5, b := 6, t := 0, gn := 0, g := 0 }) ∧
    decodeWord 0x4040A300 = .instr (.fsub { d := 8, a := 5, b := 6, t := 0, gn := 0, g := 0 }) ∧
    decodeWord 0x42492190 = .instr (.fmul { d := 9, a := 9, b := 3, t := 1, gn := 0, g := 0 }) ∧
    decodeWord 0x46182120 = .instr (.fmin { d := 3, a := 1, b := 2, t := 2, gn := 0, g := 0 }) ∧
    decodeWord 0x48182100 = .instr (.fmax { d := 3, a := 1, b := 2, t := 0, gn := 0, g := 0 }) ∧
    decodeWord 0x4A908280 = .instr (.fcmp { d := 18, a := 4, b := 5, t := 0, gn := 0, g := 0 }) ∧
    decodeWord 0x56428C20 = .instr (.fdp8 { d := 8, a := 20, b := 24, t := 2, gn := 0, g := 0 }) ∧
    decodeWord 0x58428C00 = .instr (.fdp4 { d := 8, a := 20, b := 24, t := 0, gn := 0, g := 0 }) ∧
    decodeWord 0x4E184000 = .instr (.frnd { d := 3, a := 2, b := 0, t := 0, gn := 0, g := 0 }) ∧
    decodeWord 0x50490100 = .instr (.fscl { d := 9, a := 8, b := 2, t := 0, gn := 0, g := 0 }) ∧
    decodeWord 0x4C614081 = .instr (.fcvt { d := 12, a := 10, b := 1, t := 0, gn := 0, g := 1 }) ∧
    decodeWord 0x4C204C10 = .instr (.fcvt { d := 4, a := 2, b := 24, t := 1, gn := 0, g := 0 }) := by decide

/-- Words of the reference chapters of spec/, with the operands of their assembly. -/
theorem test_decode_long :
    decodeWord 0x5A308298 = .instr (.fdiv { d := 6, a := 4, b := 5, l := 3, g := 0 }) ∧
    decodeWord 0x5C182000 = .instr (.frcp { d := 3, a := 1, b := 0, l := 0, g := 0 }) ∧
    decodeWord 0x5C384108 = .instr (.fsqrt { d := 7, a := 2, b := 2, l := 1, g := 0 }) ∧
    decodeWord 0x5E200000 = .instr (.rnd { d := 4, a := 0, b := 0, l := 0, g := 0 }) ∧
    decodeWord 0x5E280088 = .instr (.rndf { d := 5, a := 0, b := 1, l := 1, g := 0 }) := by decide

/-- Words of the reference chapters of spec/, with the operands of their assembly. -/
theorem test_decode_memory :
    decodeWord 0x60294480 = .instr (.ld { d := 5, a := 10, l := 2, w := 2, sp := 0, sx := 0, g := 0 }) ∧
    decodeWord 0x60184208 = .instr (.ld { d := 3, a := 2, l := 1, w := 0, sp := 0, sx := 1, g := 0 }) ∧
    decodeWord 0x602880E0 = .instr (.ld { d := 5, a := 4, l := 0, w := 3, sp := 2, sx := 0, g := 0 }) ∧
    decodeWord 0x62488480 = .instr (.st { d := 9, a := 4, l := 2, w := 2, sp := 0, sx := 0, g := 0 }) ∧
    decodeWord 0x6247E100 = .instr (.st { d := 8, a := 63, l := 0, w := 4, sp := 0, sx := 0, g := 0 }) ∧
    decodeWord 0x623900A2 = .instr (.st { d := 7, a := 8, l := 0, w := 2, sp := 2, sx := 0, g := 2 }) ∧
    decodeWord 0x66304398 = .instr (.atomd { d := 6, a := 2, b := 7, l := 3, op := 0 }) ∧
    decodeWord 0x68284309 = .instr (.acas { d := 5, a := 2, b := 6, l := 1, op := 1 }) ∧
    decodeWord 0x36282200 = .instr (.acq { d := 5, a := 1, b := 4, l := 0, g := 0 }) ∧
    decodeWord 0x38002200 = .instr (.rel { d := 0, a := 1, b := 4, l := 0, g := 0 }) := by decide

/-- Words of the reference chapters of spec/, with the operands of their assembly. -/
theorem test_decode_cross :
    decodeWord 0x6C38C400 = .instr (.shfl { d := 7, a := 6, b := 8, l := 0, g := 0 }) ∧
    decodeWord 0x6E508180 = .instr (.netmv { d := 10, a := 4, b := 3, l := 0, g := 0 }) ∧
    decodeWord 0x70102010 = .instr (.voteAny { d := 2, a := 1, b := 0, t := 1, gn := 0, g := 0 }) ∧
    decodeWord 0x70306020 = .instr (.voteBallot { d := 6, a := 3, b := 0, t := 2, gn := 0, g := 0 }) ∧
    decodeWord 0x7230B300 = .instr (.lred { d := 6, a := 5, b := 38, l := 0, g := 0 }) ∧
    decodeWord 0x6A00A001 = .instr (.asput { d := 0, a := 5, b := 0, t := 0, gn := 0, g := 1 }) ∧
    decodeWord 0x6A18E010 = .instr (.asput { d := 3, a := 7, b := 0, t := 1, gn := 0, g := 0 }) := by decide

/-- Words of the reference chapters of spec/, with the operands of their assembly. -/
theorem test_decode_control :
    decodeWord 0x7600002C = .instr (.brx { off := 5, g := 4 }) ∧
    decodeWord 0x7C000003 = .instr (.ret { d := 0, a := 0, b := 0, l := 0, g := 3 }) ∧
    decodeWord 0x7C008080 = .instr (.jmpr { d := 0, a := 4, b := 1, l := 0, g := 0 }) ∧
    decodeWord 0x7C000102 = .instr (.exit { d := 0, a := 0, b := 2, l := 0, g := 2 }) ∧
    decodeWord 0x7C008180 = .instr (.trap { d := 0, a := 4, b := 3, l := 0, g := 0 }) ∧
    decodeWord 0x7C000200 = .instr (.tret { d := 0, a := 0, b := 4, l := 0, g := 0 }) ∧
    decodeWord 0x7C000280 = .instr (.yield { d := 0, a := 0, b := 5, l := 0, g := 0 }) ∧
    decodeWord 0x7C000301 = .instr (.bkpt { d := 0, a := 0, b := 6, l := 0, g := 1 }) := by decide

/-- Words of the reference chapters of spec/, with the operands of their assembly. -/
theorem test_decode_sync :
    decodeWord 0x7C180380 = .instr (.bar { d := 3, a := 0, b := 7, l := 0, g := 0 }) ∧
    decodeWord 0x7C084400 = .instr (.waitt { d := 1, a := 2, b := 8, l := 0, g := 0 }) ∧
    decodeWord 0x7C204480 = .instr (.ffrt { d := 4, a := 2, b := 9, l := 0, g := 0 }) ∧
    decodeWord 0x7C286500 = .instr (.waita { d := 5, a := 3, b := 10, l := 0, g := 0 }) ∧
    decodeWord 0x7D400580 = .instr (.fenceRel { d := 40, a := 0, b := 11, l := 0, g := 0 }) ∧
    decodeWord 0x7D480580 = .instr (.fenceAcq { d := 41, a := 0, b := 11, l := 0, g := 0 }) ∧
    decodeWord 0x7D900580 = .instr (.fenceFull { d := 50, a := 0, b := 11, l := 0, g := 0 }) ∧
    decodeWord 0x7C180580 = .instr (.fenceLt { d := 3, a := 0, b := 11, l := 0, g := 0 }) ∧
    decodeWord 0x7C214580 = .instr (.fenceHv { d := 4, a := 10, b := 11, l := 0, g := 0 }) ∧
    decodeWord 0x7C28C600 = .instr (.hgive { d := 5, a := 6, b := 12, l := 0, g := 0 }) ∧
    decodeWord 0x7C28C680 = .instr (.htake { d := 5, a := 6, b := 13, l := 0, g := 0 }) ∧
    decodeWord 0x7C008700 = .instr (.prfm { d := 0, a := 4, b := 14, l := 0, g := 0 }) ∧
    decodeWord 0x7C018780 = .instr (.vqput { d := 0, a := 12, b := 15, l := 0, g := 0 }) ∧
    decodeWord 0x7C680800 = .instr (.vqget { d := 13, a := 0, b := 16, l := 0, g := 0 }) := by decide

/-- Words of the reference chapters of spec/, with the operands of their assembly. -/
theorem test_decode_system :
    decodeWord 0x7C28C881 = .instr (.launch { d := 5, a := 6, b := 17, l := 0, g := 1 }) ∧
    decodeWord 0x7C38A901 = .instr (.cwait { d := 7, a := 5, b := 18, l := 0, g := 1 }) ∧
    decodeWord 0x7C006980 = .instr (.halt { d := 0, a := 3, b := 19, l := 0, g := 0 }) ∧
    decodeWord 0x7C086980 = .instr (.halt { d := 1, a := 3, b := 19, l := 0, g := 0 }) ∧
    decodeWord 0x7C08CA00 = .instr (.mfs { d := 1, a := 6, b := 20, l := 0, g := 0 }) ∧
    decodeWord 0x7C102A00 = .instr (.mfs { d := 2, a := 1, b := 20, l := 0, g := 0 }) ∧
    decodeWord 0x7C498A80 = .instr (.mts { d := 9, a := 12, b := 21, l := 0, g := 0 }) ∧
    decodeWord 0x7C210A80 = .instr (.mts { d := 4, a := 8, b := 21, l := 0, g := 0 }) := by decide

/-- Words of the reference chapters of spec/, with the operands of their assembly. -/
theorem test_decode_uniform :
    decodeWord 0x80000000 = .instr (.snop { d := 0, a := 0, b := 0, fn := 0, l := 0 }) ∧
    decodeWord 0x82182100 = .instr (.sadd { d := 3, a := 1, b := 2, fn := 0, l := 0 }) ∧
    decodeWord 0x86208280 = .instr (.smul { d := 4, a := 4, b := 5, fn := 0, l := 0 }) ∧
    decodeWord 0x8E182100 = .instr (.sshl { d := 3, a := 1, b := 2, fn := 0, l := 0 }) ∧
    decodeWord 0x94182110 = .instr (.smin { d := 3, a := 1, b := 2, fn := 1, l := 0 }) ∧
    decodeWord 0x98CB0020 = .instr (.scmp { d := 25, a := 24, b := 0, fn := 2, l := 0 }) ∧
    decodeWord 0x9A183FF8 = .instr (.saddi { d := 3, a := 1, imm := 8184 }) ∧
    decodeWord 0x9C209FC0 = .instr (.sandi { d := 4, a := 4, imm := 8128 }) ∧
    decodeWord 0xA0BAC004 = .instr (.sshli { d := 23, a := 22, imm := 4 }) ∧
    decodeWord 0xA0288803 = .instr (.sshri { d := 5, a := 4, imm := 2051 }) ∧
    decodeWord 0xA223C03F = .instr (.smovi { d := 4, imm := 245823 }) ∧
    decodeWord 0xA427E151 = .instr (.smovh { d := 4, imm := 516433 }) ∧
    decodeWord 0xA6F84000 = .instr (.sld { d := 31, a := 2, imm := 0 }) ∧
    decodeWord 0xA828C010 = .instr (.sst { d := 5, a := 6, imm := 16 }) ∧
    decodeWord 0xAE300000 = .instr (.srd { d := 6, a := 0, imm := 0 }) ∧
    decodeWord 0xAE400002 = .instr (.srd { d := 8, a := 0, imm := 2 }) ∧
    decodeWord 0xB2B02000 = .instr (.vtos { d := 22, a := 1, b := 0, fn := 0, l := 0 }) := by decide

/-- Words of the reference chapters of spec/, with the operands of their assembly. -/
theorem test_decode_engine :
    decodeWord 0xB4494580 = .instr (.bind { d := 9, a := 10, b := 11, fn := 0, l := 0 }) ∧
    decodeWord 0xB4494590 = .instr (.unbind { d := 9, a := 10, b := 11, fn := 1, l := 0 }) ∧
    decodeWord 0xB6C82B80 = .instr (.hod { d := 25, a := 1, b := 23, fn := 0, l := 0 }) ∧
    decodeWord 0xB8D02000 = .instr (.loom { d := 26, a := 1, b := 0, fn := 0, l := 0 }) ∧
    decodeWord 0xBAD8C000 = .instr (.task { d := 27, a := 6, b := 0, fn := 0, l := 0 }) ∧
    decodeWord 0xBAF00010 = .instr (.taskServe { d := 30, a := 0, b := 0, fn := 1, l := 0 }) ∧
    decodeWord 0xBC00A300 = .instr (.gset { d := 0, a := 5, b := 6, fn := 0, l := 0 }) ∧
    decodeWord 0xBEA04000 = .instr (.ksarm { d := 20, a := 2, b := 0, fn := 0, l := 0 }) ∧
    decodeWord 0xC043C000 = .instr (.ksdis { d := 8, a := 30, b := 0, fn := 0, l := 0 }) ∧
    decodeWord 0xC23BC000 = .instr (.ksrd { d := 7, a := 30, b := 0, fn := 0, l := 0 }) ∧
    decodeWord 0xC428C380 = .instr (.qfence { d := 5, a := 6, b := 7, fn := 0, l := 0 }) ∧
    decodeWord 0xC69A4000 = .instr (.asrd { d := 19, a := 18, b := 0, fn := 0, l := 0 }) ∧
    decodeWord 0xC89A4000 = .instr (.asrdp { d := 19, a := 18, b := 0, fn := 0, l := 0 }) ∧
    decodeWord 0xCA880800 = .instr (.aswait { d := 17, a := 0, b := 16, fn := 0, l := 0 }) ∧
    decodeWord 0xCC198000 = .instr (.netld { d := 3, a := 12, b := 0, fn := 0, l := 0 }) := by decide

/-! ### One word for every constructor, bit by bit from the formats of R278 and R296 and the rows of R281 to R297 -/

theorem test_words_1 :
    decodeWord 0b0000000_000000_000000_000000_000_0_101 = .instr (.nop { d := 0, a := 0, b := 0, t := 0, gn := 0, g := 5 }) ∧
    decodeWord 0b0000001_101100_100110_110000_011_1_001 = .instr (.add { d := 44, a := 38, b := 48, t := 3, gn := 1, g := 1 }) ∧
    decodeWord 0b0000010_111100_101110_000001_001_1_001 = .instr (.sub { d := 60, a := 46, b := 1, t := 1, gn := 1, g := 1 }) ∧
    decodeWord 0b0000011_111001_000111_110111_011_1_100 = .instr (.mul { d := 57, a := 7, b := 55, t := 3, gn := 1, g := 4 }) ∧
    decodeWord 0b0000100_110010_001110_011100_011_0_111 = .instr (.mulh { d := 50, a := 14, b := 28, t := 3, gn := 0, g := 7 }) ∧
    decodeWord 0b0000101_011000_001000_111111_101_1_110 = .instr (.mad { d := 24, a := 8, b := 63, t := 5, gn := 1, g := 6 }) ∧
    decodeWord 0b0000110_101000_100011_010111_110_1_010 = .instr (.min { d := 40, a := 35, b := 23, t := 6, gn := 1, g := 2 }) ∧
    decodeWord 0b0000111_101101_101010_000110_011_0_000 = .instr (.max { d := 45, a := 42, b := 6, t := 3, gn := 0, g := 0 }) ∧
    decodeWord 0b0001000_101101_001111_111100_010_1_001 = .instr (.and { d := 45, a := 15, b := 60, t := 2, gn := 1, g := 1 }) ∧
    decodeWord 0b0001001_011101_011100_011001_001_1_110 = .instr (.or { d := 29, a := 28, b := 25, t := 1, gn := 1, g := 6 }) ∧
    decodeWord 0b0001010_000011_101011_111011_010_0_000 = .instr (.xor { d := 3, a := 43, b := 59, t := 2, gn := 0, g := 0 }) ∧
    decodeWord 0b0001011_110110_000101_100010_010_0_101 = .instr (.shl { d := 54, a := 5, b := 34, t := 2, gn := 0, g := 5 }) ∧
    decodeWord 0b0001100_101101_100111_000101_110_1_111 = .instr (.shr { d := 45, a := 39, b := 5, t := 6, gn := 1, g := 7 }) ∧
    decodeWord 0b0001101_100100_001000_011011_111_1_111 = .instr (.sar { d := 36, a := 8, b := 27, t := 7, gn := 1, g := 7 }) ∧
    decodeWord 0b0001111_100110_011000_010111_101_1_011 = .instr (.rot { d := 38, a := 24, b := 23, t := 5, gn := 1, g := 3 }) ∧
    decodeWord 0b0001110_010100_101001_000000_111_0_111 = .instr (.clz { d := 20, a := 41, b := 0, t := 7, gn := 0, g := 7 }) ∧
    decodeWord 0b0001110_101111_111110_000001_111_0_100 = .instr (.popc { d := 47, a := 62, b := 1, t := 7, gn := 0, g := 4 }) ∧
    decodeWord 0b0001110_111000_001111_000010_011_0_110 = .instr (.brev { d := 56, a := 15, b := 2, t := 3, gn := 0, g := 6 }) ∧
    decodeWord 0b0001110_000100_011001_000011_101_0_101 = .instr (.abs { d := 4, a := 25, b := 3, t := 5, gn := 0, g := 5 }) ∧
    decodeWord 0b0001110_101000_110010_000100_011_1_000 = .instr (.neg { d := 40, a := 50, b := 4, t := 3, gn := 1, g := 0 }) ∧
    decodeWord 0b0001110_010100_001011_000101_011_1_011 = .instr (.not { d := 20, a := 11, b := 5, t := 3, gn := 1, g := 3 }) ∧
    decodeWord 0b0010000_000100_111011_010001_000_1_101 = .instr (.cmp { d := 4, a := 59, b := 17, t := 0, gn := 1, g := 5 }) ∧
    decodeWord 0b0010001_011111_011000_100001_111_0_110 = .instr (.sel { d := 31, a := 24, b := 33, t := 7, gn := 0, g := 6 }) ∧
    decodeWord 0b0010010_100101_101110_110010_000_1_111 = .instr (.bfx { d := 37, a := 46, b := 50, t := 0, gn := 1, g := 7 }) ∧
    decodeWord 0b0010011_000010_100111_010001_000_0_010 = .instr (.bfi { d := 2, a := 39, b := 17, t := 0, gn := 0, g := 2 }) := by decide

theorem test_words_2 :
    decodeWord 0b0010100_001010_010011_100010_000_0_000 = .instr (.bsrd { d := 10, a := 19, b := 34, t := 0, gn := 0, g := 0 }) ∧
    decodeWord 0b0010101_100011_111011_000000_000_1_000 = .instr (.mov { d := 35, a := 59, b := 0, t := 0, gn := 1, g := 0 }) ∧
    decodeWord 0b0010101_101111_001010_000000_001_1_110 = .instr (.movs { d := 47, a := 10, b := 0, t := 1, gn := 1, g := 6 }) ∧
    decodeWord 0b0010110_100110_011111_010010110_1_000 = .instr (.addi { d := 38, a := 31, imm := 150, gn := 1, g := 0 }) ∧
    decodeWord 0b0010111_000011_010111_111101000_0_111 = .instr (.andi { d := 3, a := 23, imm := 488, gn := 0, g := 7 }) ∧
    decodeWord 0b0011000_011101_101110_011110100_0_101 = .instr (.ori { d := 29, a := 46, imm := 244, gn := 0, g := 5 }) ∧
    decodeWord 0b0011001_111010_100001_000110101_1_001 = .instr (.xori { d := 58, a := 33, imm := 53, gn := 1, g := 1 }) ∧
    decodeWord 0b0011010_101011_011011_000111001_1_001 = .instr (.shli { d := 43, a := 27, imm := 57, gn := 1, g := 1 }) ∧
    decodeWord 0b0011010_100101_110110_010110010_0_000 = .instr (.shri { d := 37, a := 54, imm := 178, gn := 0, g := 0 }) ∧
    decodeWord 0b0011010_101111_011100_100101010_0_010 = .instr (.sari { d := 47, a := 28, imm := 298, gn := 0, g := 2 }) ∧
    decodeWord 0b0011010_001111_100100_110100110_1_100 = .instr (.roti { d := 15, a := 36, imm := 422, gn := 1, g := 4 }) ∧
    decodeWord 0b0011011_110001_100001_010000_0011_101 = .instr (.acq { d := 49, a := 33, b := 16, l := 3, g := 5 }) ∧
    decodeWord 0b0011100_000000_100100_000101_0110_001 = .instr (.rel { d := 0, a := 36, b := 5, l := 6, g := 1 }) ∧
    decodeWord 0b0011101_010010_101100_111000010_0_001 = .instr (.cmpi { d := 18, a := 44, imm := 450, gn := 0, g := 1 }) ∧
    decodeWord 0b0011110_000010_001110_011001001_1_101 = .instr (.movi { d := 2, a := 14, imm := 201, gn := 1, g := 5 }) ∧
    decodeWord 0b0011111_000000_110100_101010_100_0_101 = .instr (.fadd { d := 0, a := 52, b := 42, t := 4, gn := 0, g := 5 }) ∧
    decodeWord 0b0100000_110110_010001_010011_111_0_001 = .instr (.fsub { d := 54, a := 17, b := 19, t := 7, gn := 0, g := 1 }) ∧
    decodeWord 0b0100001_011011_011110_100100_101_1_110 = .instr (.fmul { d := 27, a := 30, b := 36, t := 5, gn := 1, g := 6 }) ∧
    decodeWord 0b0100010_100001_101100_010110_111_0_110 = .instr (.ffma { d := 33, a := 44, b := 22, t := 7, gn := 0, g := 6 }) ∧
    decodeWord 0b0100011_000010_001110_100110_101_0_111 = .instr (.fmin { d := 2, a := 14, b := 38, t := 5, gn := 0, g := 7 }) ∧
    decodeWord 0b0100100_001101_010000_111100_100_1_000 = .instr (.fmax { d := 13, a := 16, b := 60, t := 4, gn := 1, g := 0 }) ∧
    decodeWord 0b0100101_110000_110010_000101_110_1_010 = .instr (.fcmp { d := 48, a := 50, b := 5, t := 6, gn := 1, g := 2 }) ∧
    decodeWord 0b0100110_000110_000011_010010_001_1_100 = .instr (.fcvt { d := 6, a := 3, b := 18, t := 1, gn := 1, g := 4 }) ∧
    decodeWord 0b0100111_000010_001010_000000_100_1_011 = .instr (.frnd { d := 2, a := 10, b := 0, t := 4, gn := 1, g := 3 }) ∧
    decodeWord 0b0101000_111100_000110_000000_111_1_110 = .instr (.fscl { d := 60, a := 6, b := 0, t := 7, gn := 1, g := 6 }) := by decide

theorem test_words_3 :
    decodeWord 0b0101001_001101_111010_111000_000_0_110 = .instr (.idp8 { d := 13, a := 58, b := 56, t := 0, gn := 0, g := 6 }) ∧
    decodeWord 0b0101010_111011_010100_010010_000_1_000 = .instr (.idp4 { d := 59, a := 20, b := 18, t := 0, gn := 1, g := 0 }) ∧
    decodeWord 0b0101011_001110_100010_100010_011_0_000 = .instr (.fdp8 { d := 14, a := 34, b := 34, t := 3, gn := 0, g := 0 }) ∧
    decodeWord 0b0101100_011101_011000_110001_000_1_001 = .instr (.fdp4 { d := 29, a := 24, b := 49, t := 0, gn := 1, g := 1 }) ∧
    decodeWord 0b0101101_100010_100011_000011_0101_010 = .instr (.fdiv { d := 34, a := 35, b := 3, l := 5, g := 2 }) ∧
    decodeWord 0b0101110_101011_100001_000000_0110_010 = .instr (.frcp { d := 43, a := 33, b := 0, l := 6, g := 2 }) ∧
    decodeWord 0b0101110_110011_110111_000001_1111_011 = .instr (.frsq { d := 51, a := 55, b := 1, l := 15, g := 3 }) ∧
    decodeWord 0b0101110_000001_010001_000010_0101_011 = .instr (.fsqrt { d := 1, a := 17, b := 2, l := 5, g := 3 }) ∧
    decodeWord 0b0101110_100101_001110_000011_0011_001 = .instr (.fex2 { d := 37, a := 14, b := 3, l := 3, g := 1 }) ∧
    decodeWord 0b0101110_111001_010111_000100_0111_111 = .instr (.flg2 { d := 57, a := 23, b := 4, l := 7, g := 7 }) ∧
    decodeWord 0b0101110_101111_111111_000101_0110_111 = .instr (.fsin { d := 47, a := 63, b := 5, l := 6, g := 7 }) ∧
    decodeWord 0b0101110_001110_101100_000110_1011_001 = .instr (.fcos { d := 14, a := 44, b := 6, l := 11, g := 1 }) ∧
    decodeWord 0b0101111_101010_000000_000000_0000_000 = .instr (.rnd { d := 42, a := 0, b := 0, l := 0, g := 0 }) ∧
    decodeWord 0b0101111_010011_000000_000001_0001_100 = .instr (.rndf { d := 19, a := 0, b := 1, l := 1, g := 4 }) ∧
    decodeWord 0b0110000_000001_111111_0011_100_01_1_101 = .instr (.ld { d := 1, a := 63, l := 3, w := 4, sp := 1, sx := 1, g := 5 }) ∧
    decodeWord 0b0110001_001001_011011_1010_010_11_0_010 = .instr (.st { d := 9, a := 27, l := 10, w := 2, sp := 3, sx := 0, g := 2 }) ∧
    decodeWord 0b0110010_000100_011011_010111_1110_010 = .instr (.atomw { d := 4, a := 27, b := 23, l := 14, op := 2 }) ∧
    decodeWord 0b0110011_011101_010011_010010_0101_000 = .instr (.atomd { d := 29, a := 19, b := 18, l := 5, op := 0 }) ∧
    decodeWord 0b0110100_000001_010100_011001_0010_000 = .instr (.acas { d := 1, a := 20, b := 25, l := 2, op := 0 }) ∧
    decodeWord 0b0110101_001001_001010_000000_000_1_110 = .instr (.asput { d := 9, a := 10, b := 0, t := 0, gn := 1, g := 6 }) ∧
    decodeWord 0b0110110_110000_110010_011000_1000_100 = .instr (.shfl { d := 48, a := 50, b := 24, l := 8, g := 4 }) ∧
    decodeWord 0b0110111_000101_111110_000101_0100_001 = .instr (.netmv { d := 5, a := 62, b := 5, l := 4, g := 1 }) ∧
    decodeWord 0b0111000_000101_000011_000000_000_1_011 = .instr (.voteAll { d := 5, a := 3, b := 0, t := 0, gn := 1, g := 3 }) ∧
    decodeWord 0b0111000_000000_000110_000000_001_1_101 = .instr (.voteAny { d := 0, a := 6, b := 0, t := 1, gn := 1, g := 5 }) ∧
    decodeWord 0b0111000_011100_000110_000000_010_0_111 = .instr (.voteBallot { d := 28, a := 6, b := 0, t := 2, gn := 0, g := 7 }) := by decide

theorem test_words_4 :
    decodeWord 0b0111001_111110_011010_101100_0110_100 = .instr (.lred { d := 62, a := 26, b := 44, l := 6, g := 4 }) ∧
    decodeWord 0b0111010_0110011011110100100010_111 = .instr (.bra { off := 1686818, g := 7 }) ∧
    decodeWord 0b0111011_0011001101010101000111_011 = .instr (.brx { off := 841031, g := 3 }) ∧
    decodeWord 0b0111100_1011100001100001000100_110 = .instr (.call { off := 3020868, g := 6 }) ∧
    decodeWord 0b0111101_1000100001000111010010_110 = .instr (.callf { off := 2232786, g := 6 }) ∧
    decodeWord 0b0111110_000000_000000_000000_0110_010 = .instr (.ret { d := 0, a := 0, b := 0, l := 6, g := 2 }) ∧
    decodeWord 0b0111110_000000_010111_000001_1010_111 = .instr (.jmpr { d := 0, a := 23, b := 1, l := 10, g := 7 }) ∧
    decodeWord 0b0111110_000000_000000_000010_1110_000 = .instr (.exit { d := 0, a := 0, b := 2, l := 14, g := 0 }) ∧
    decodeWord 0b0111110_000000_101101_000011_0011_100 = .instr (.trap { d := 0, a := 45, b := 3, l := 3, g := 4 }) ∧
    decodeWord 0b0111110_000000_000000_000100_0001_010 = .instr (.tret { d := 0, a := 0, b := 4, l := 1, g := 2 }) ∧
    decodeWord 0b0111110_000000_000000_000101_0010_001 = .instr (.yield { d := 0, a := 0, b := 5, l := 2, g := 1 }) ∧
    decodeWord 0b0111110_000000_000000_000110_0000_000 = .instr (.bkpt { d := 0, a := 0, b := 6, l := 0, g := 0 }) ∧
    decodeWord 0b0111110_110010_000000_000111_0010_011 = .instr (.bar { d := 50, a := 0, b := 7, l := 2, g := 3 }) ∧
    decodeWord 0b0111110_000001_100101_001000_1100_100 = .instr (.waitt { d := 1, a := 37, b := 8, l := 12, g := 4 }) ∧
    decodeWord 0b0111110_110001_001001_001001_1111_100 = .instr (.ffrt { d := 49, a := 9, b := 9, l := 15, g := 4 }) ∧
    decodeWord 0b0111110_010101_100111_001010_0000_000 = .instr (.waita { d := 21, a := 39, b := 10, l := 0, g := 0 }) ∧
    decodeWord 0b0111110_011000_000000_001011_1101_001 = .instr (.fenceRel { d := 24, a := 0, b := 11, l := 13, g := 1 }) ∧
    decodeWord 0b0111110_100001_000000_001011_0110_011 = .instr (.fenceAcq { d := 33, a := 0, b := 11, l := 6, g := 3 }) ∧
    decodeWord 0b0111110_101010_000000_001011_0000_100 = .instr (.fenceFull { d := 42, a := 0, b := 11, l := 0, g := 4 }) ∧
    decodeWord 0b0111110_001011_000000_001011_0101_111 = .instr (.fenceLt { d := 11, a := 0, b := 11, l := 5, g := 7 }) ∧
    decodeWord 0b0111110_000100_101010_001011_0001_111 = .instr (.fenceHv { d := 4, a := 42, b := 11, l := 1, g := 7 }) ∧
    decodeWord 0b0111110_011011_101101_001100_1001_101 = .instr (.hgive { d := 27, a := 45, b := 12, l := 9, g := 5 }) ∧
    decodeWord 0b0111110_010010_010000_001101_0010_110 = .instr (.htake { d := 18, a := 16, b := 13, l := 2, g := 6 }) ∧
    decodeWord 0b0111110_000000_101000_001110_1001_010 = .instr (.prfm { d := 0, a := 40, b := 14, l := 9, g := 2 }) ∧
    decodeWord 0b0111110_000000_010010_001111_0101_011 = .instr (.vqput { d := 0, a := 18, b := 15, l := 5, g := 3 }) := by decide

theorem test_words_5 :
    decodeWord 0b0111110_010000_000000_010000_0111_001 = .instr (.vqget { d := 16, a := 0, b := 16, l := 7, g := 1 }) ∧
    decodeWord 0b0111110_011100_110110_010001_1100_110 = .instr (.launch { d := 28, a := 54, b := 17, l := 12, g := 6 }) ∧
    decodeWord 0b0111110_101011_001011_010010_0100_111 = .instr (.cwait { d := 43, a := 11, b := 18, l := 4, g := 7 }) ∧
    decodeWord 0b0111110_000001_000010_010011_1101_011 = .instr (.halt { d := 1, a := 2, b := 19, l := 13, g := 3 }) ∧
    decodeWord 0b0111110_110001_010011_010100_0011_010 = .instr (.mfs { d := 49, a := 19, b := 20, l := 3, g := 2 }) ∧
    decodeWord 0b0111110_001011_010001_010101_0100_110 = .instr (.mts { d := 11, a := 17, b := 21, l := 4, g := 6 }) ∧
    decodeWord 0b1000000_000000_000000_000000_000_0000 = .instr (.snop { d := 0, a := 0, b := 0, fn := 0, l := 0 }) ∧
    decodeWord 0b1000001_001001_000100_100011_000_0001 = .instr (.sadd { d := 9, a := 4, b := 35, fn := 0, l := 1 }) ∧
    decodeWord 0b1000010_011010_111110_100010_000_1111 = .instr (.ssub { d := 26, a := 62, b := 34, fn := 0, l := 15 }) ∧
    decodeWord 0b1000011_101001_101010_011001_000_0110 = .instr (.smul { d := 41, a := 42, b := 25, fn := 0, l := 6 }) ∧
    decodeWord 0b1000100_100110_001001_000001_000_1111 = .instr (.sand { d := 38, a := 9, b := 1, fn := 0, l := 15 }) ∧
    decodeWord 0b1000101_011111_000010_001011_000_0101 = .instr (.sor { d := 31, a := 2, b := 11, fn := 0, l := 5 }) ∧
    decodeWord 0b1000110_001100_101001_100100_000_0010 = .instr (.sxor { d := 12, a := 41, b := 36, fn := 0, l := 2 }) ∧
    decodeWord 0b1000111_100010_110001_101001_000_0100 = .instr (.sshl { d := 34, a := 49, b := 41, fn := 0, l := 4 }) ∧
    decodeWord 0b1001000_010010_111100_111001_000_0011 = .instr (.sshr { d := 18, a := 60, b := 57, fn := 0, l := 3 }) ∧
    decodeWord 0b1001001_110010_101001_000011_000_1110 = .instr (.ssar { d := 50, a := 41, b := 3, fn := 0, l := 14 }) ∧
    decodeWord 0b1001010_110100_000000_111111_110_1000 = .instr (.smin { d := 52, a := 0, b := 63, fn := 6, l := 8 }) ∧
    decodeWord 0b1001011_001100_011000_100111_111_1111 = .instr (.smax { d := 12, a := 24, b := 39, fn := 7, l := 15 }) ∧
    decodeWord 0b1001100_111011_010100_001000_110_0111 = .instr (.scmp { d := 59, a := 20, b := 8, fn := 6, l := 7 }) ∧
    decodeWord 0b1001101_100000_000000_1110011101110 = .instr (.saddi { d := 32, a := 0, imm := 7406 }) ∧
    decodeWord 0b1001110_111110_010100_1000100000001 = .instr (.sandi { d := 62, a := 20, imm := 4353 }) ∧
    decodeWord 0b1001111_110001_110100_0111110110010 = .instr (.sori { d := 49, a := 52, imm := 4018 }) ∧
    decodeWord 0b1010000_001001_010000_0000000111010 = .instr (.sshli { d := 9, a := 16, imm := 58 }) ∧
    decodeWord 0b1010000_101111_111110_0100000111001 = .instr (.sshri { d := 47, a := 62, imm := 2105 }) ∧
    decodeWord 0b1010000_010100_000000_1000000101000 = .instr (.ssari { d := 20, a := 0, imm := 4136 }) := by decide

theorem test_words_6 :
    decodeWord 0b1010001_010001_1111001010111101111 = .instr (.smovi { d := 17, imm := 497135 }) ∧
    decodeWord 0b1010010_110101_0010011011110100110 = .instr (.smovh { d := 53, imm := 79782 }) ∧
    decodeWord 0b1010011_100111_000010_0001100001001 = .instr (.sld { d := 39, a := 2, imm := 777 }) ∧
    decodeWord 0b1010100_110111_110010_0010000001001 = .instr (.sst { d := 55, a := 50, imm := 1033 }) ∧
    decodeWord 0b1010101_001011_0010111101111011100 = .instr (.sbz { a := 11, off := 97244 }) ∧
    decodeWord 0b1010110_000011_0011100111101001101 = .instr (.sbnz { a := 3, off := 118605 }) ∧
    decodeWord 0b1010111_101011_000000_0000000000101 = .instr (.srd { d := 43, a := 0, imm := 5 }) ∧
    decodeWord 0b1011000_000000_010111_0000000000000 = .instr (.swr { d := 0, a := 23, imm := 0 }) ∧
    decodeWord 0b1011001_111101_100001_010001_000_0000 = .instr (.vtos { d := 61, a := 33, b := 17, fn := 0, l := 0 }) ∧
    decodeWord 0b1011010_111110_110010_011101_000_0111 = .instr (.bind { d := 62, a := 50, b := 29, fn := 0, l := 7 }) ∧
    decodeWord 0b1011010_100101_111101_001010_001_1100 = .instr (.unbind { d := 37, a := 61, b := 10, fn := 1, l := 12 }) ∧
    decodeWord 0b1011011_001010_000101_111010_000_1110 = .instr (.hod { d := 10, a := 5, b := 58, fn := 0, l := 14 }) ∧
    decodeWord 0b1011100_110101_011101_000000_000_0111 = .instr (.loom { d := 53, a := 29, b := 0, fn := 0, l := 7 }) ∧
    decodeWord 0b1011101_010000_110101_000000_000_0011 = .instr (.task { d := 16, a := 53, b := 0, fn := 0, l := 3 }) ∧
    decodeWord 0b1011101_001010_011001_000000_001_1110 = .instr (.taskServe { d := 10, a := 25, b := 0, fn := 1, l := 14 }) ∧
    decodeWord 0b1011110_000000_111001_111101_000_0001 = .instr (.gset { d := 0, a := 57, b := 61, fn := 0, l := 1 }) ∧
    decodeWord 0b1011111_001111_000001_000000_000_0110 = .instr (.ksarm { d := 15, a := 1, b := 0, fn := 0, l := 6 }) ∧
    decodeWord 0b1100000_101110_111111_000000_000_0011 = .instr (.ksdis { d := 46, a := 63, b := 0, fn := 0, l := 3 }) ∧
    decodeWord 0b1100001_011111_111100_000000_000_1111 = .instr (.ksrd { d := 31, a := 60, b := 0, fn := 0, l := 15 }) ∧
    decodeWord 0b1100010_111111_101111_001000_000_0110 = .instr (.qfence { d := 63, a := 47, b := 8, fn := 0, l := 6 }) ∧
    decodeWord 0b1100011_111001_010010_011011_000_0100 = .instr (.asrd { d := 57, a := 18, b := 27, fn := 0, l := 4 }) ∧
    decodeWord 0b1100100_100101_001110_010001_000_0110 = .instr (.asrdp { d := 37, a := 14, b := 17, fn := 0, l := 6 }) ∧
    decodeWord 0b1100101_001010_011000_101110_000_0111 = .instr (.aswait { d := 10, a := 24, b := 46, fn := 0, l := 7 }) ∧
    decodeWord 0b1100110_000101_001011_000000_000_1000 = .instr (.netld { d := 5, a := 11, b := 0, fn := 0, l := 8 }) := by decide

/-! ### Ill-formed terms: each check of WellFormed refuses one -/

theorem test_ill_formed_lane : [Instr.clz { fa 0 with b := 1 }, .popc { fa 0 with b := 0 }, .brev { fa 0 with b := 3 }, .abs { fa 0 with b := 2 },
    .neg { fa 0 with b := 5 }, .not { fa 0 with b := 4 }, .mov (fa 1), .movs (fa 0), .shli (fi 128), .shri (fi 0), .sari (fi 384), .roti (fi 256),
    .frcp (fx 1), .frsq (fx 0), .fsqrt (fx 3), .fex2 (fx 2), .flg2 (fx 5), .fsin (fx 4), .fcos (fx 7), .rnd (fx 1), .rndf (fx 0),
    .ld (fm 5 0), .st (fm 7 0), .acas (fxa 2), .voteAll (fa 1), .voteAny (fa 0), .voteBallot (fa 1)].all (fun i => !WellFormed i) = true := by
  decide

theorem test_ill_formed_control : [Instr.ret (fx 1), .jmpr (fx 0), .exit (fx 1), .trap (fx 4), .tret (fx 3), .yield (fx 6), .bkpt (fx 5),
    .bar (fx 6), .waitt (fx 9), .ffrt (fx 8), .waita (fx 11), .fenceRel { fx 11 with d := 1 }, .fenceAcq { fx 11 with d := 0 },
    .fenceFull { fx 11 with d := 3 }, .fenceLt { fx 11 with d := 2 }, .fenceHv { fx 11 with d := 3 }, .hgive (fx 13), .htake (fx 12),
    .prfm (fx 15), .vqput (fx 14), .vqget (fx 15), .launch (fx 18), .cwait (fx 17), .halt (fx 20), .mfs { fx 20 with a := 28 },
    .mts { fx 21 with a := 28 }].all (fun i => !WellFormed i) = true := by decide

theorem test_ill_formed_uniform : [Instr.sshli (si0 0x800), .sshri (si0 0), .ssari (si0 0x1800), .srd (si0 6), .swr (si0 6), .bind (sa0 1),
    .unbind (sa0 0), .task (sa0 1), .taskServe (sa0 0)].all (fun i => !WellFormed i) = true := by decide

/-- Words that trap ILLEGAL: reserved majors, LD of width 5, special 28, function code 7 of the transcendentals. -/
theorem test_illegal_words : [0x04000000 + 0xFA000000, 0x60000140, 0x7C038A00, 0x5C000380, 0xAE000006].all (fun w =>
    match decodeWord (BitVec.ofNat 32 w) with
    | .illegal _ => true
    | _ => false) = true := by decide

/-! ### Effects: the numbers that spec/ gives with its rules -/

/-- A register of the lone thread after an instruction. -/
def after (s : State) (i : Instr) (n : Reg) : Option Word :=
  match exec i s with
  | .next t => (t.ctx? id0).map (fun c => c.regs.get n)
  | _ => none

def flagsAfter (s : State) (i : Instr) : Option (BitVec 5) :=
  match exec i s with
  | .next t => (t.ctx? id0).map (fun c => c.regs.fflags)
  | _ => none

/-- The lone thread with v2 and v3 written, under a prefix. -/
def two (x y : Word) (p : Option Pfx) : State :=
  let s := stage (Ctx.having (Ctx.having lone 2 x) 3 y)
  { s with cur := { s.cur with pfx := p } }

def satPfx : Pfx := { e := 0, m := 0, z := 0, rnd := 0, sat := 1, rsv := 0 }
def modePfx (k : BitVec 3) : Pfx := { satPfx with sat := 0, rnd := k }

/-- spec/19, ADD: 0x70 + 0x20 in a byte is 0x90, and 0x7F saturated. -/
theorem test_add_byte : (after (two 0x70 0x20 none) (.add (fa 3)) 1, after (two 0x70 0x20 none) (.add (fa 7)) 1) =
    (some 0x90, some 0x7F) := by decide

/-- spec/19, MULH.w: 0xFFFFFFFF by 2 is 0xFFFFFFFF signed. -/
theorem test_mulh_word : after (two 0xFFFFFFFF 2 none) (.mulh (fa 1)) 1 = some 0xFFFFFFFF := by decide

/-- spec/19, CLZ.b of 0x01F0. -/
theorem test_clz_byte : after (two 0x1F0 0 none) (.clz { fa 3 with b := 0 }) 1 = some 0x0808080808080700 := by decide

/-- spec/19, R363: BFX and BFI of the example. -/
theorem test_bfx_signed : after (two 0xABCD1234 0x10C10 none) (.bfx (fa 0)) 1 = some 0xFFFFFFFFFFFFFBCD := by decide
theorem test_bfi_inserts : after (two 0xABCD1234 0x10C10 none) (.bfi (fa 0)) 1 = some 0x02340000 := by decide

/-- spec/20, FADD.bf16: 1.0 + 2^-8 is a tie; RUP goes up; NX. -/
theorem test_fadd_tie : (after (two 0x3F80 0x3B80 none) (.fadd (fa 1)) 1, flagsAfter (two 0x3F80 0x3B80 none) (.fadd (fa 1)),
    after (two 0x3F80 0x3B80 (some (modePfx 3))) (.fadd (fa 1)) 1) = (some 0x3F80, some flagNX, some 0x3F81) := by decide

/-- The lone thread with the example of spec/20, R381 in v8 to v11. -/
def fourPairs (p : Option Pfx) : State :=
  let c := Ctx.having (Ctx.having (Ctx.having (Ctx.having lone 8 0x43FA00003F800000) 9 0x3B000000BE99999A) 10 0x43E0800043960000) 11
    0x7FC0000043E80000
  let s := stage c
  { s with cur := { s.cur with pfx := p } }

/-- spec/20, FCVT.f32.e4m3 of the example, plain and saturated: form code 2. -/
theorem test_fcvt_e4m3 : (after (fourPairs none) (.fcvt { fa 0 with d := 20, a := 8, b := 3 }) 20,
    after (fourPairs (some satPfx)) (.fcvt { fa 0 with d := 20, a := 8, b := 3 }) 20) =
    (some 0x7F7E7E7901AA7F38, some 0x7F7E7E7901AA7E38) := by decide

/-- spec/04: the first draw of a generator of key 0. -/
theorem test_first_draw : lone.regs.draw.1 = 0xE220A8397B1DCDAF := by decide

/-- spec/05, R141: the 2 MiB page of the worked walk. -/
def walkMem : List Host.Cell :=
  let e (n : Nat) : List Byte := leBytes 8 (0x1000 * n + 1)
  cellsWrite (cellsWrite (cellsWrite (cellsWrite [] hbmBase (e 1)) (hbmBase + 0x1000 + 8 * 36) (e 2)) (hbmBase + 0x2000 + 8 * 209) (e 3))
    (hbmBase + 0x3000 + 8 * 179) (leBytes 8 0x000000400020000F)

theorem test_worked_walk : ({ stage lone with mem := walkMem } : State).translate hbmBase 0x0000123456789ABC accLoad =
    .key (hbmBase + 0x4000389ABC) := by decide

/-- spec/03: commits of 2, 6, 4, 4 leave N 4, mean 4 and M2 8. -/
theorem test_worked_commits :
    let c (a : Nat × Word × Word) (x : Word) : Nat × Word × Word :=
      let n := a.1 + 1
      let delta := sub64 x.toNat a.2.1.toNat
      let mean := add64 a.2.1.toNat (div64 delta (nat64 n))
      (n, BitVec.ofNat 64 mean, BitVec.ofNat 64 (add64 a.2.2.toNat (mul64 delta (sub64 x.toNat mean))))
    [0x4000000000000000, 0x4018000000000000, 0x4010000000000000, 0x4010000000000000].foldl c (0, 0, 0) =
      (4, 0x4010000000000000, 0x4020000000000000) := by decide +kernel

/-- A step fetches and runs the placed instruction, the first one after reset: MOVI v1, -1 (R412). -/
theorem test_step_runs_placed : (match step (State.reset.withFetchWord 32 0x3C0FFFF0) with
    | .next t => (t.ctx? id0).map (fun c => c.regs.get 1)
    | _ => none) = some (BitVec.allOnes 64) := by decide

end Sys2Proof.Machine.Tests
end

