-- ==== Sys2Proof/Tests/Witness2.lean ====
section
/-!
SUPPORT. Sys2Proof/Tests/Witness2.lean: further states that meet the hypotheses of the statements, one for each clause
that Tests/Witness.lean leaves.
-/
namespace Sys2Proof.Machine.Tests
open Sys2Proof Sys2Proof.Machine

/-! ### The page walk -/

/-- Tables of the first n levels and an entry of the table of level n. -/
def leafPages (n : Nat) (e : Word) : List Host.Cell := cellsWrite (pages n) (hbmBase + 0x1000 * n) (leBytes 8 e.toNat)

/-- The walk from HBM byte 0 of address 0 meets the entry at the level. -/
def meets (n : Nat) (e : Word) : Bool :=
  let s : State := { stage lone with mem := leafPages n e }
  (s.cached hbmBase 0).isNone && (List.range (n + 1)).all (fun k =>
    s.memNat (hbmBase + 0x1000 * k) 8 == if k < n then 0x1000 * (k + 1) + 1 else e.toNat)

/-- An entry without V at each level, and a table entry at level 4. -/
theorem witness_PageWalk_tables : [(0, 0x2#64), (3, 0xFFFFFFFFFFFFFFFE#64), (4, 0x2#64), (4, 0x1#64)].all (fun x => meets x.1 x.2) =
    true := by decide

/-- Leaves at levels 0 and 1; with MT 3, a reserved bit, DEV without MT 1, an address that is not its page's, and one
in no stack. -/
theorem witness_PageWalk_bad : [(0, 0xF#64), (1, 0xF#64), (2, 0xCF#64), (3, 0x10F#64), (4, 0x001000000000000F#64),
    (3, 0x1000F#64), (4, 0xB2D06000F#64 + 0x2000000000#64)].all (fun x => meets x.1 x.2) = true := by decide

/-- Leaves at levels 2, 3 and 4 with every right, without R, without W; of host memory, and of another device. -/
theorem witness_PageWalk_served : [(2, 0xF#64), (3, 0xF#64), (4, 0xFFFF000F#64), (4, 0xB#64), (4, 0x7#64), (3, 0x8F#64),
    (2, 0x005000000000004F#64)].all (fun x => meets x.1 x.2) = true ∧
    Table.find ({ stage lone with routes := [(5, (23, 0))] } : State).routes 5 = some (23, 0) ∧ (stage lone).devnum = none := by decide

/-- A root in host memory, one in no stack, a page whose end lies in no stack, and a cached leaf. -/
theorem witness_PageWalk_places :
    (({ stage lone with mem := cellsWrite [] hostBase (leBytes 8 3) } : State).memNat hostBase 8 = 3) ∧
    48000000000 ≤ 48000000000 % 2 ^ 36 ∧ 47999942656 % 2 ^ 16 = 0 ∧ 47999942656 < 48000000000 ∧ 47999942656 + 0xFFFF ≥ 48000000000 ∧
    ((({ stage lone with tlb := [{ root := hbmBase, page := 0, size := 2 ^ 16, leaf := 0xF, level := 4 }] } : State).cached hbmBase 0).map
      Cached.level) = some 4 := by decide

/-! ### Loads, stores, atomics -/

def other (a : Access) (num : Nat) : Flight := { flight0 (.access a false) with num := num }
/-- The thread has an older access outstanding. -/
def queued (a : Access) : Ctx := { lone with inflight := [other a 3, flight0 (.access a false)] }

/-- The bytes of remote memory that an access names, with a route to their device. -/
def remote0 (n : Nat) (op : AccessOp) : Access := { acc0 n op with key := remoteKey 5 false 0x100 }
def afar (a : Access) : State :=
  { stage (flying (.access a false)) with devnum := some 0, routes := [(5, (23, 0))] }

theorem witness_Loads_waits : [(1, true), (8, false)].all (fun x =>
    let a := acc0 x.1 (.load x.2)
    let c := queued a
    airborne (stage c) c (flight0 (.access a false)) && (stage c).recordless c && c.olderOver 7 a.key a.size) = true := by decide

theorem witness_Loads_far : [(1, true), (8, false)].all (fun x =>
    let a := remote0 x.1 (.load x.2)
    let c := flying (.access a false)
    airborne (afar a) c (flight0 (.access a false)) && isRemoteKey a.key && a.asked.isNone &&
    (afar a).fromHome ((afar a).viewer c 7) a.key && Table.find (afar a).routes (remoteDev a.key) == some (23, 0) &&
    !c.olderOver 7 a.key a.size) = true := by decide

/-- Poison in the unit, and the halves of a pair. -/
theorem witness_Loads_poison :
    let a := acc0 8 (.load false)
    let c := flying (.access a false)
    let s : State := { handlerStage c with poison := [poisonUnit a.key] }
    s.ctxPoison c 7 a.key a.size = some (poisonUnit a.key) ∧ a.key - poisonUnit a.key ≤ a.addr.toNat ∧
    c.exposed (flight0 (.access a false)) = true ∧ handles0 s = true ∧ s.recordless c = true := by decide

theorem witness_Loads_halves : [true, false].all (fun low =>
    let a : Access := { acc0 16 (.load false) with half := some (low, List.replicate 8 0) }
    let c : Ctx := { lone with inflight := [{ flight0 (.access a false) with vdst := [1, 2] }] }
    let at_ := if low then a.key else a.key + 8
    !c.olderOver 7 at_ 8 && c.quiet 7 && ((stage c).ctxPoison c 7 at_ 8).isNone && (stage c).recordless c) = true := by decide

/-- A write that waits, one over a held object, and one to another device, for each of its operations. -/
theorem witness_Stores_others : [HomeOp.put [1, 2] false, .add 4 1, .reduce 0 4 [0, 0, 0, 0]].all (fun op =>
    let p := write0 op
    let q : PendingWrite := { p with after := [3] }
    let h : PendingWrite := { p with key := slabKey 0 0x87F }
    let r : PendingWrite := { p with key := remoteKey 5 false 0x100 }
    let with_ (p : PendingWrite) : State := { withLaunch slotted with stores := [p], devnum := some 0, routes := [(5, (23, 0))] }
    !({ stage lone with stores := [q, { p with num := 3 }] } : State).writeReady q &&
    (with_ h).writeReady h && (with_ h).touchesHeld h.key h.op.size && (with_ r).writeReady r && !(with_ r).touchesHeld r.key r.op.size &&
    isRemoteKey r.key && !r.sent && Table.find (with_ r).routes (remoteDev r.key) == some (23, 0)) = true := by decide

theorem witness_Atomics_others : [0, 8].all (fun code => [4, 8].all (fun n =>
    let op : AccessOp := .atomic code 1 0
    let a := acc0 n op
    let k (a : Access) : Ctx := flying (.access a false)
    let held : Access := { a with key := slabKey 0 0x87C }
    let far := remote0 n op
    (queued a).olderOver 7 a.key n && handles0 (handlerStage (k a)) && (k a).exposed (flight0 (.access a false)) &&
    (({ withLaunch slotted with ctxs := [k held] } : State).touchesHeld held.key n) &&
    firstPoison [poisonUnit a.key] a.key n == some (poisonUnit a.key) && decide (a.key - poisonUnit a.key ≤ a.addr.toNat) &&
    isRemoteKey far.key && far.asked.isNone && Table.find (afar far).routes (remoteDev far.key) == some (23, 0) &&
    ({ stage (k a) with stores := [write0 (.put [1] false)] } : State).stores.any (fun p =>
      ((stage (k a)).viewer (k a) 10).sees p && overlaps p.key p.op.size a.key n))) = true := by decide

/-! ### Waits for words, rendezvous, frames -/

theorem witness_WordWaits_others : [AccessOp.acq 5, .waita 4].all (fun op =>
    let a := acc0 8 op
    let c := flying (.access a false)
    let saved : State := { stage c with wgs := [{ wg0 with place := .saved 0 }] }
    !saved.resident 0 && (queued a).olderOver 7 a.key 8 && (stage c).resident 0 &&
    ({ stage c with fits := [(id0, 7, 9)] } : State).fitOf id0 7 == some 9 && ((stage c).fitOf id0 7).isNone &&
    firstPoison [poisonUnit a.key] a.key 8 == some (poisonUnit a.key) && c.exposed (flight0 (.access a false)) &&
    handles0 (handlerStage c) && !(isRemoteKey a.key && a.asked.isNone)) = true := by decide

/-- A word that a release event was the last to write, and one that it was not. -/
theorem witness_WordWaits_event : [true, false].all (fun event =>
    let a := acc0 8 (.waita 4)
    let s : State := { stage (flying (.access a false)) with
      marks := if event then [{ key := a.key, author := none, num := 0 }] else [] }
    s.eventAt a.key 8 == event && s.resident 0 && (flying (.access a false)).quiet 7) = true := by decide

theorem witness_Rendezvous_saved : rendezvousOnes.all (fun i =>
    let held (c : Ctx) : Ctx := { c with status := .rendezvous i none 0 placedPc 0x12 }
    let s : State := { pairUp (held lone) (held second) with wgs := [{ wg0 with place := .saved 0 }] }
    (s.liveOfTeam 0 0).head? == some (held lone) && !s.resident 0) = true := by decide

/-- A pending frame that a return ends, and one that it does not. -/
theorem witness_ForkedCalls_frames : [sa 0x10044, sa 0].all (fun ret =>
    let g : Frame := { regs := lone.regs, ret := ret, callPc := placedPc }
    let c : Ctx := { callee0 with frames := [g] }
    let s := stage c
    s.ctx? c.id == some c && (s.innermost 0 0).isNone && c.frames.head? == some g && c.id.lvl == 0 &&
    (g.ret == c.regs.lr && g.regs.get 63 == c.regs.get 63) == (ret == sa 0x10044) && !(s.queue 0).trace) = true := by decide

/-- A fork that a return does not end. -/
theorem witness_ForkedCalls_other :
    let g : Fork := { fork0 [0, 0, 0, 0] false with ret := sa 0 }
    let s : State := { stage callee0 with ctxs := [callee0, cont0], forks := [g] }
    s.innermost 0 0 = some g ∧ g.ret ≠ callee0.regs.lr ∧ s.ctx? id0 = some callee0 := by decide

/-! ### Halts, specials, tags, barriers, fences -/

theorem witness_Halts_force : runs (handlerStage lone) (.halt { fx 0 with d := 1 }) = true ∧ lone.trappable = true ∧
    handles0 (handlerStage lone) = true := by decide

/-- A halt of a nested handler that yields; of a saved workgroup, and with a load outstanding. -/
theorem witness_Halts_takes :
    let c : Ctx := { lone with haltReq := true, inHandler := true, nested := true, status := .yielding [] 3 }
    (stage c).ctx? id0 = some c ∧ (stage c).resident 0 = true ∧ c.inflight = [] ∧ (stage c).forks = [] ∧
    ({ stage c with wgs := [{ wg0 with place := .saved 0 }] } : State).resident 0 = false ∧
    ({ flying .result with haltReq := true } : Ctx).inflight ≠ [] := by decide

theorem witness_LaneSpecials_fixed : [0, 1, 2, 3, 4, 5, 6, 7, 15, 16, 17, 18, 20, 21, 22, 23, 24, 25, 26, 27].all (fun n =>
    runs (handlerStage lone) (.mts { fx 0 with a := BitVec.ofNat 6 n })) = true ∧ lone.trappable = true ∧
    handles0 (handlerStage lone) = true := by decide

/-- The tags and the barrier of a saved workgroup. -/
theorem witness_Tags_saved : ({ stage (flying (.waitt 1 true)) with wgs := [{ wg0 with place := .saved 0 }] } : State).wgs.all
    (fun w => w.place != .resident) = true := by decide

theorem witness_Barriers_saved :
    let w : Workgroup := { wg0 with place := .saved 0 }
    let s : State := { stage (flying (.bar 0 [])) with wgs := [w] }
    s.wg? 0 = some w ∧ w.place ≠ .resident ∧ (s.liveOfWg 0) ≠ [] := by decide

/-- A faulted store, one that has not entered the store path, an acknowledgement to come, and an older load. -/
theorem witness_Fences_waits :
    let p : PendingWrite := { write0 (.put [1] false) with parked := some (id0, 7) }
    let s : State := { stage lone with stores := [p], acks := [{ p with num := 4 }] }
    let c : Ctx := { lone with inflight := [other (acc0 8 (.load false)) 3, flight0 (.fence 2 0 [] [])] }
    s.parkedStore 9 = true ∧ s.stuck 9 = true ∧ s.outstanding 9 = true ∧ s.acks.all (fun e => e.num != 9) = true ∧
    (stage c).ctx? id0 = some c ∧ c.inflight.any (fun g => decide (g.num < 7) && g.accesses) = true ∧
    (stage lone).scopeOf lone 1 ≠ none ∧ (stage lone).scopeOf lone 4 ≠ none := by decide

theorem witness_Fences_hv_waits :
    let k : FlightKind := .hv [9] [191]
    let s : State := { stage (flying k) with stores := [write0 (.put [1] false)] }
    airborne s (flying k) (flight0 k) = true ∧ s.outstanding 9 = true ∧ s.pathOf 0 ≠ [] ∧ s.pathOf 191 = [] := by decide

/-! ### Owned buffers and vertical FIFOs -/

/-- A give of a handle that is FREE meanwhile, of one freed and held again, and of one of a saved workgroup. -/
theorem witness_Handles_gone : [(0, 5), (1, 6)].all (fun x =>
    let k : FlightKind := .hgive 0 63 5 0
    let s : State := { stage (flying k) with
      cores := [(0, { Core.init with handles := [(63, { state := x.1, seq := x.2, base := 0x1000, len := 0x100, holder := 0, dst := 0 })] })] }
    airborne s (flying k) (flight0 k) && (flying k).quiet 7 && s.resident 0 &&
    !((s.handle 0 63).seq == 5 && (s.handle 0 63).state == 1 && (s.handle 0 63).holder == 0)) = true ∧
    ({ stage (flying (.hgive 0 63 5 0)) with wgs := [{ wg0 with place := .saved 0 }] } : State).resident 0 = false := by decide

theorem witness_Handles_sampled :
    let s : State := { handlerStage lone with launches := [{ handled with rcd := handled.rcd.set 0x15 1 }] }
    runs s (.hgive (fx 0)) = true ∧ lone.trappable = true ∧ handles0 s = true ∧ s.launches.all (fun l => l.sampled) = true := by decide

/-- Each answer of HGIVE: a core that there is not, a stale handle, one that is not held, and one that is. -/
theorem witness_Handles_statuses : (192 * 2 ^ 24) / 2 ^ 24 ≥ 192 ∧ 191 < 192 ∧
    ((stage lone).handle 0 63).seq ≠ 5 ∧ (({ stage lone with cores := handleCore0 2 } : State).handle 0 63).state ≠ 1 ∧
    (({ stage lone with cores := handleCore0 1 } : State).handle 0 63).holder = 0 := by decide

/-- A saved team; a write of the team that is not in the store path; a gated partner with entries in the save area. -/
theorem witness_VerticalFifos_others :
    let k : FlightKind := .vqput 3
    let p : PendingWrite := { write0 (.put [1] false) with num := 3, parked := some (id0, 3) }
    let s : State := { stage (flying k) with stores := [p] }
    let g : State := { stage (flying .vqget) with
      cores := [(96, { Core.init with gated := true, spill := [{ lanes := List.replicate 32 0, writes := [] }] })] }
    (s.vqGathered 0 0).isSome = true ∧ s.ownWrites (flying k) 7 = [3] ∧ s.stuck 3 = true ∧ (g.core 96).gated = true ∧
    (g.core 96).spill ≠ [] ∧ (g.vqGathered 0 0).isSome = true ∧
    ({ stage (flying k) with wgs := [{ wg0 with place := .saved 0 }] } : State).wgs.all (fun w => w.place != .resident) = true ∧
    (flying k).flight? 7 = some (flight0 k) := by decide

/-! ### Uniform accesses, bindings, assay reads -/

/-- A thread whose team's SLD is outstanding, perhaps behind an older load of its own. -/
def loading (older : List Flight) : Ctx :=
  { lone with inflight := older ++ [{ flight0 (.access (acc0 8 (.load false)) true) with sdst := [1], vdst := [] }] }

theorem witness_UniformAccesses_completes :
    let c := loading []
    let a := acc0 8 (.load false)
    let p : PendingWrite := { write0 (.put [1] false) with num := 3 }
    let r : Viewer := { wg := 0, tix := none, team := 0, core := 0, upto := 7 }
    (stage c).ctx? id0 = some c ∧ (c.flight? 7).isSome = true ∧ (stage c).recordless c = true ∧ isRemoteKey a.key = false ∧
    (stage c).stores = [] ∧ c.olderOver 7 a.key 8 = false ∧ (stage c).readPoison r a.key 8 = none ∧ c.quiet 7 = true ∧
    (loading [other a 3]).olderOver 7 a.key 8 = true ∧ (r.sees p && overlaps p.key p.op.size a.key 8) = true ∧
    ({ stage c with poison := [poisonUnit a.key] } : State).readPoison r a.key 8 = some (poisonUnit a.key) ∧
    handles0 (handlerStage c) = true ∧ c.inflight.all c.exposed = true := by decide

/-- BIND of a region that is bound, of one that meets a bound one, of an object with 16 regions; UNBIND of a bound one. -/
theorem witness_TeamConfiguration_statuses :
    let key := slabKey 0 0x100
    let b (o : Nat) : Binding := { obj := key, at_ := key, base := slabKey 0 o, len := 64 }
    let s (l : List Binding) : State := { stage lone with bindings := l }
    let r (l : List Binding) (len : Nat) : Nat := ((s l).bindResult (sa 0x100).toNat (sa 0x200).toNat len).1
    (s []).objectKey (sa 0x100).toNat = some key ∧ (s []).bindPlace (sa 0x100).toNat = some key ∧
    (s []).regionPlace (sa 0x200).toNat 128 = some (slabKey 0 0x200) ∧ overlaps key 8 (slabKey 0 0x200) 128 = false ∧
    r [b 0x200] 64 = 0 ∧ r [b 0x240] 128 = 2 ∧ r ((List.range 16).map (fun n => b (0x400 + 64 * n))) 64 = 3 ∧ r [] 128 = 0 ∧
    ((s [b 0x200]).unbindResult (sa 0x100).toNat (sa 0x200).toNat).1 = 0 ∧
    ((s [b 0x200]).unbindResult (sa 0x100).toNat 0).1 = 0 ∧ ((s []).unbindResult 0x101 0).1 = 1 := by decide

/-- A list without repeats is its own list of distinct entries. -/
theorem eraseDups_of_nodup : ∀ l : List Nat, l.Nodup → l.eraseDups = l
  | [], _ => rfl
  | a :: l, h => by
    have h := List.nodup_cons.mp h
    have keep : l.filter (fun b => !b == a) = l := List.filter_eq_self.mpr (fun b hb => by
      have : b ≠ a := fun e => h.1 (e ▸ hb)
      simp [this])
    rw [List.eraseDups_cons, keep, eraseDups_of_nodup l h.2]

/-- 4096 objects, none of which is the object of the BIND. -/
theorem witness_TeamConfiguration_nospace :
    let bs : List Binding := (List.range 4096).map (fun n => { obj := hbmBase + n, at_ := 0, base := 2 ^ 60, len := 64 })
    (bs.map Binding.obj).eraseDups.length ≥ 4096 ∧ bs.filter (fun x => x.obj == slabKey 0 0x100) = [] := by
  refine ⟨?_, ?_⟩
  · have e : (List.range 4096).map (fun n => hbmBase + n) = List.range' hbmBase 4096 := by
      rw [List.range'_eq_map_range]
    simp only [List.map_map, Function.comp_def]
    rw [e, eraseDups_of_nodup _ (List.nodup_range' ..)]
    simp
  · have : ∀ n, (hbmBase + n == slabKey 0 0x100) = false := fun n => by
      simp only [beq_eq_false_iff_ne, hbmBase, slabKey, slabBase, ne_eq]
      omega
    simp [List.filter_map, Function.comp_def, this]

/-- Objects whose read traps, and copies that may not be written; a write of the team to the object; poison in it. -/
theorem witness_AssayReads_others :
    let w : Workgroup := { wg0 with scrOff := 0x1000, scrSize := 64 }
    let s : State := { teamStage (sa 0x1000) (sa 0x800) 0 with wgs := [w] }
    let p : PendingWrite := { write0 (.put [1] false) with key := slabKey 0 0x83F }
    let t : State := { s with stores := [p], nextNum := 10 }
    let trap (c : Chk ⊕ Nat) : Bool := match c with
      | .inl (.trap _ _) => true
      | _ => false
    trap (s.objCheck placedLaunch w (sa 0x7FFF80).toNat) = true ∧ trap (s.copyCheck placedLaunch w (sa 0x7FFFC0).toNat) = true ∧
    (t.teamViewer.sees p && overlaps p.key p.op.size (slabKey 0 0x800) 64) = true ∧
    (({ s with poison := [poisonUnit (slabKey 0 0x83F)] } : State).objPoison (sa 0x800).toNat (slabKey 0 0x800)).isSome = true ∧
    (s.objPoison (sa 0x800).toNat (slabKey 0 0x800)).isNone = true := by decide

theorem witness_AssayReads_waits :
    let k : FlightKind := .aswait (slabKey 0 0x800) 4
    let s : State := { handlerStage (flying k) with poison := [poisonUnit (slabKey 0 0x83F)] }
    ({ stage (flying k) with wgs := [{ wg0 with place := .saved 0 }] } : State).resident 0 = false ∧ s.resident 0 = true ∧
    (firstPoison s.poison (slabKey 0 0x800) 64).isSome = true ∧ handles0 s = true ∧ (flying k).exposed (flight0 k) = true := by decide

/-! ### Fault records, queues, launches -/

/-- A record answered RESOLVED whose load is on its way again. -/
theorem witness_FaultRecords_frees :
    let a := acc0 8 (.load false)
    let c := flying (.access a false)
    let r : FaultReq := { faultReq0 with resolved := true }
    let s : State := { stage c with cores := [(0, { Core.init with faultsOut := [(127, r)] })] }
    airborne s c (flight0 (.access a false)) = true ∧ (s.core 0).faultsOut = [(127, r)] ∧ r.who = [(id0, 7)] ∧ s.coreOf c = 0 ∧
    c.olderOver 7 a.key 8 = false ∧ s.ctxPoison c 7 a.key 8 = none ∧ c.quiet 7 = true := by decide

set_option maxRecDepth 20000 in
/-- A LAUNCH packet of a record that no grant covers; a queue number that there is not. -/
theorem witness_HostQueues_unreadable :
    let shell : Launch := Launch.ofRecord 1 (sa 0x7FFE00) [] 0 1 none none ((queueStage []).readGrants 0) []
    let got := (queueStage []).deskRead { launch := shell, wg := none, viewer := none, core := 0 } (sa 0x7FFE00).toNat 512 64
    (sa 0x7FFE00).toNat % 64 = 0 ∧ gotSome got = false ∧ (4096 ≥ 4096 ∧ 4095 < 4096) := by decide

set_option maxRecDepth 20000 in
/-- The end of a period on a device without work on its cores, with a queue that has held its slot for part of it. -/
theorem witness_HostQueues_keeps :
    let s : State := { queueStage [] with ctxs := [], teams := [], wgs := [], launches := [], slots := [(0, { slot0 with full := false })] }
    s.periodOver = true ∧ (s.wgs.all (fun w => w.place != .resident)) = true ∧ (s.slots.map Prod.fst).Nodup ∧
    (s.queue 0).head < (s.queue 0).doorbell ∧ ({ s with slots := [(0, { slot0 with full := true })] } : State).slots ≠ [] ∧
    ((s.queue 0).reg.map List.length) = some 128 := by decide

/-- A launch whose producer has not got far enough, one whose producer is done, and one behind a write. -/
theorem witness_LaunchLife_producer :
    let l : Launch := { slotted with phase := .waiting, rcd := slotted.rcd.take 0xB8 ++ leBytes 8 (sa 0xC00).toNat ++ slotted.rcd.drop 0xC0 }
    let s (status : Byte) : State := { withLaunch l with mem := cellsWrite [] (slabKey 0 0xC29) [status] }
    l.producer = (sa 0xC00).toNat ∧ l.consume = 0 ∧ (s 0).localSlab l.producer = some (slabKey 0 0xC00) ∧
    ((s 0).assayAt (slabKey 0 0xC00)).status = 0 ∧ ((s 1).assayAt (slabKey 0 0xC00)).status = 1 ∧ (s 1).mapped l.queue = true ∧
    ({ withLaunch l with stores := [write0 (.put [1] false)] } : State).outstanding 9 = true := by decide

set_option maxRecDepth 20000 in
/-- A failed grid whose workgroup retires now, and one whose workgroup has retired before. -/
theorem witness_LaunchLife_failed :
    let l : Launch := { completing with status := 7 }
    let s (p : Place) (cycle : Nat) : State :=
      { withLaunch l with ctxs := [{ lone with status := .exited }], wgs := [{ wg0 with place := p }], dcycle := cycle }
    let s0 (p : Place) (cycle : Nat) : State := (s p cycle).retireAll (fun w => w.launch == 1)
    (s .resident 5).launch? 1 = some l ∧ ((s0 .resident 5).launch? 1).isSome = true ∧
    (s0 .resident 5).launches.all (fun l => (s0 .resident 5).mayFinish l) = false ∧
    (s0 .retired 5).launches.all (fun l => (s0 .retired 5).mayFinish l) = true := by decide

/-- A commit, a deadline and a measurement of one cycle. -/
def committing (l : Launch) : Launch := { l with samples := [sample0] }

set_option maxRecDepth 20000 in
theorem witness_LaunchLimits_commit :
    let l : Launch := committing { slotted with rcd := slotted.rcd.take 0x30 ++ leBytes 8 10 ++ leBytes 8 1 ++ slotted.rcd.drop 0x40,
                                                energy := 2 ^ 32 }
    let s (cycle : Nat) : State := { withLaunch l with dcycle := cycle }
    (s 1024).nextSample l = some sample0 ∧ l.open_ = true ∧ l.deadline = 10 ∧ 1024 ≥ l.startCycle + l.deadline ∧
    l.energyLimit ≠ 0 ∧ l.energy ≥ l.energyLimit * 2 ^ 32 ∧ (s 1024).dcycle ≥ (s 1024).metered + 1024 ∧
    (s 1024).launches = [l] ∧ (s 9).launches.all (fun l => decide (9 < l.startCycle + l.deadline)) = true ∧
    ((match exec (.assayCommit 1) (s 1024) with
      | .next _ => true
      | _ => false) = true) := by decide

set_option maxRecDepth 20000 in
/-- A commit before the last position: without a stop slot of its own, with one whose width is met, and with one whose
width is not. -/
theorem witness_AssayUnit_width : [(0 : Word).toNat, 0x3FF0000000000000].all (fun target =>
    let l : Launch := { committing slotted with dimx := 3, rcd := slotted.rcd.set 0x08 3 }
    let s : State := { withLaunch l with dcycle := 5, mem := cellsWrite [] (slabKey 0 0x820) (leBytes 8 target) }
    l.total == 3 && (s.nextSample l).isSome && l.stop.isNone && l.committed + 1 != l.total && l.assay l.stopslot != 0 &&
    (s.localSlab (l.assay l.stopslot)).isSome && ({ l with rcd := placedLaunch.rcd } : Launch).assay 0 == 0) = true := by decide

/-! ### Pre-emption, return, migration -/

/-- A whole team of 32 threads, of which one runs, whose workgroup's copy is paused at a chunk. -/
def copying : Running := startOf { recOf 2 5 hodBytes with slices := [(0, 2)] } 0
def wholeTeam : State :=
  { saveStage with
    ctxs := (State.reset.place 32 0).ctxs
    cores := [(0, { Core.init with running := [(5, copying)] })] }

set_option maxRecDepth 20000 in
theorem witness_Preemption_frames :
    let w : Workgroup := { wg0 with leaving := true }
    let s : State := { wholeTeam with wgs := [w] }
    let s1 := s.pullRecords w
    s.wg? 0 = some w ∧ s.movable w = true ∧ s.rotationWaits w = false ∧ s.forks = [] ∧
    (s.threadsOf 0).all (fun c => c.trapNow.isNone) = true ∧ (s.threadsOf 0).length = 32 * w.teams ∧
    s.atBoundary 0 = true ∧ s.enginesQuiet w = true ∧ (s.queue 0).trace = false ∧
    (s.team? 0 0).isSome = true ∧ copying.rcd.owner = some 0 ∧
    ((s1.wg? 0).map (fun w => (s1.findRoom 0 (s1.imageBytes placedLaunch w)).isSome)) = some true := by decide

/-- A saved workgroup after an edge of the dispatcher's clock: with its turn, and without it. -/
def returning (w : Workgroup) : State := { savedStage with wgs := [w], dcycle := 5 }

set_option maxRecDepth 20000 in
theorem witness_Restoration :
    let w : Workgroup := { wg0 with place := .saved 0x100000 }
    let early : Workgroup := { w with num := 1, called := true, visit := 0 }
    let late : Workgroup := { w with called := true, visit := 1 }
    w.leftAt ≠ (returning w).dcycle ∧ ((returning w).restoreWg placedLaunch w).isSome = true ∧ (returning w).mapped 0 = true ∧
    (returning w).forks = [] ∧ ((returning w).queue 0).trace = false ∧ (returning w).mayReturn w = true ∧
    (returning w).mayReturn { w with ousted := true } = false ∧ (savedStage).mayReturn w = false ∧
    ({ returning late with wgs := [early, late] } : State).mayReturn late = false ∧
    ({ returning late with wgs := [early, late] } : State).mayReturn early = true ∧
    ((returning w).threadsOf 0).all (fun c => (returning w).ctx? c.id == some c) = true ∧
    (returning w).memNat (hbmBase + 0x100000 + 128 + 0x48) 1 = 0 := by decide

/-- A launch at MAXRES, and one that has failed. -/
theorem witness_Restoration_stays :
    let l : Launch := { placedLaunch with rcd := placedLaunch.rcd.take 0x28 ++ leBytes 4 1 ++ placedLaunch.rcd.drop 0x2C }
    let s : State := { stage lone with launches := [l] }
    l.maxres = 1 ∧ (s.seatedOf 1).length ≥ l.maxres ∧ ({ placedLaunch with status := 7 } : Launch).status ≠ 0 := by decide

/-- A workgroup that migrates with a fork open, and one that need not resolve any. -/
theorem witness_PowerAndMigration_fork :
    let f := fork0 [0, 0, 0, 0] false
    let s : State := { stage callee0 with ctxs := [callee0, cont0], forks := [f] }
    s.forks = [f] ∧ f.wg = 0 ∧ f.depth ≠ 0 ∧ (s.threadsOf 0).contains callee0 = true ∧ callee0.id.tix = f.tix ∧
    s.ctx? callee0.id = some callee0 ∧ (s.threadsOf 0).all (fun c => c.trapNow.isNone) = true ∧ s.movable wg0 = true ∧
    s.oneBarrier 0 = true ∧ s.hodOpen 0 = false ∧ (s.settleWg 0).forks = [] ∧
    ({ stage lone with stores := [write0 (.put [1] false)] } : State).atBoundary 0 = false := by decide

/-! ### The foreman and the engines -/

/-- Records that wait: for a write, for their WAIT word, and for a write to that word; and one that is refused. -/
theorem witness_ForemanStarts_waits :
    let r : QRec := { recOf 0 3 [] with rcd := (plainRecord 0x10000 0 3).take 0x20 ++ leBytes 8 (sa 0x900).toNat ++ (plainRecord 0x10000 0 3).drop 0x28 }
    let p : PendingWrite := { write0 (.put [1, 0, 0, 0] false) with key := slabKey 0 0x900, vis := [.core 0] }
    let s := headed 3 r
    taskWait r.rcd = (sa 0x900).toNat ∧ s.localSlab (taskWait r.rcd) = some (slabKey 0 0x900) ∧ s.mayStart 0 r = .go ∧
    ({ s with mem := cellsWrite [] (slabKey 0 0x900) [1] } : State).mayStart 0 r = .wait ∧
    (engineSees 0 r.owner p && overlaps p.key p.op.size (slabKey 0 0x900) 4) = true ∧
    ({ s with stores := [write0 (.put [1] false)] } : State).outstanding 9 = true ∧
    ({ r with owner := none, lostScratch := true } : QRec).lostScratch = true := by decide

/-- A task whose team has a write on its way, with a QFENCE behind it. -/
theorem witness_ForemanEnds_release :
    let x := startOf { recOf 0 3 [] with num := 1 } 0
    let f : QRec := { recOf 5 4 [] with fence := [1], num := 2 }
    let s : State := { stage { lone with status := .serving } with
      stores := [write0 (.put [1] false)]
      cores := [(0, { Core.init with running := [(3, x)], queues := [(4, [f])] })] }
    Table.find (s.core 0).running 3 = some x ∧ (s.teamPending x.teamWg x.team).contains 9 = true ∧ f.fence.contains x.rcd.num = true ∧
    (s.liveOfTeam x.teamWg x.team).all (fun c => c.status == .serving) = true := by decide

/-- A write to the bytes of a row that the Loom sees, and an object held there. -/
theorem witness_LoomRows_bars :
    let p : PendingWrite := { write0 (.put [1] false) with key := slabKey 0 0x700, vis := [.core 0] }
    let x := startOf (recOf 1 4 mmulRecord) 0
    let s : State := { running0 4 x with stores := [p] }
    s.engineBars 0 x.rcd.owner [(slabKey 0 0x700, 2)] = true ∧ (running0 4 x).engineBars 0 x.rcd.owner [(slabKey 0 0x700, 2)] = false ∧
    (withLaunch slotted).touchesHeld (slabKey 0 0x87F) 4 = true := by decide

/-- A held object in a chunk's place, a chunk not yet visible at the end of a copy, and one of another engine. -/
theorem witness_EngineTasks_chunks :
    let l := [(slabKey 0 0x800, HomeOp.put [1] false)]
    let h (engine : Nat) : HodChunk := { num := 3, core := 0, engine := engine, base := (sa 0x800).toNat, parts := l }
    let x : Running := { copying with progress := 2 }
    (withLaunch slotted).chunkHeld l = some (slabKey 0 0x800) ∧
    (stage lone).chunkHeld l = none ∧ ({ running0 5 x with chunks := [h 5] } : State).chunksLanded 0 5 = false ∧
    ({ running0 5 x with chunks := [h 4] } : State).settled 0 5 = true ∧ (running0 5 x).settled 0 5 = true ∧ hodCount hodBytes copying.rcd.slices = 2 ∧
    ({ stage lone with stores := [{ write0 (.put [1] false) with vis := [.core 0] }] } : State).engineBars 0 (some 0)
      [(slabKey 0 0x100, 1)] = true := by decide

/-! ### Collectives, links, the mailbox -/

set_option maxRecDepth 20000 in
/-- A chunk that goes out on a link, and members on links of either tier. -/
theorem witness_Collectives_hops :
    let c : CollChunk := { hop := some (23, 1), tier := 1, launch := 1, wg := 0, src := slabKey 0 0, msg := msg0 0 0 }
    ({ linked with collOut := [c] } : State).nextChunk 1 = some c ∧ 23 / 12 = 1 ∧ 11 / 12 = 0 ∧ 12 / 12 = 1 ∧
    Table.find linked.routes 1 = some (23, 0) ∧ (comm0 2).members = [0, 1] := by decide

theorem witness_LinksAndHost_atomics : [0, 8].all (fun code => linked.packetFate (hbmBase + 0x100) (.atomic code 8 1 0) == .served) = true ∧
    ({ linked with poison := [poisonUnit (hbmBase + 0x100)] } : State).poison ≠ [] ∧
    (linked.packetKey { packet0 (.load 8) with addr := 48000000000 }).isNone = true ∧
    ({ withLaunch slotted with devnum := some 0 } : State).packetFate (slabKey 0 0x800) (.store [1]) = .refused causeSLAB ∧
    Table.find ({ linked with routes := [] } : State).routes 1 = none := by decide

/-- A store and a load that come back unreached. -/
theorem witness_LinksAndHost_unreached :
    let q : PendingWrite := { write0 (.put [1] false) with key := remoteKey 5 false 0x100, sent := true, num := 5 }
    let a : Access := { remote0 8 (.load false) with asked := some 5 }
    let c := flying (.access a false)
    let s : State := { stage lone with devnum := some 1, stores := [q] }
    let t : State := { stage c with devnum := some 1 }
    s.stores.find? (fun q => q.num == 5 && q.sent) = some q ∧ q.src = some id0 ∧
    s.ctxs.filter (fun c => c.live && covers id0 c.id.wg c.id.tix) = [lone] ∧ s.ctx? lone.id = some lone ∧ (s.ctxs.map Ctx.id).Nodup ∧ (packet0 (.load 8)).src = 1 ∧ (packet0 (.load 8)).tag = 5 ∧
    t.stores.find? (fun q => q.num == 5 && q.sent) = none ∧
    t.ctxs.findSome? (fun c => c.asking 5) = some (c, flight0 (.access a false), a, false) ∧
    t.ctx? c.id = some c ∧ c.flight? 7 = some (flight0 (.access a false)) := by decide

/-- A write that its home has performed, and whose packet comes back all the same. -/
theorem witness_LinksAndHost_performed :
    let q : PendingWrite := { write0 (.put [1] false) with key := remoteKey 5 false 0x100, sent := true, num := 5 }
    let s : State := { stage lone with devnum := some 1, acks := [q] }
    s.asker 5 = .done q ∧ q.src = some id0 ∧ s.ctxs.filter (fun c => c.live && covers id0 c.id.wg c.id.tix) = [lone] := by decide

/-- A launch that uses communicator 15. -/
theorem witness_Mailbox_busy : ({ stage lone with launches := [{ placedLaunch with rcd := placedLaunch.rcd.set 0x130 15 }] } : State).launches.any
    (fun l => l.communicator == 15 && l.phase != .finished) = true ∧ 16 > 15 := by decide
end Sys2Proof.Machine.Tests
end

