-- ==== Sys2Proof/Tests/Witness3.lean ====
section
/-!
SUPPORT. Sys2Proof/Tests/Witness3.lean: further states that meet the hypotheses of the statements: checks of accesses and of
words, waits for an edge, loom-holding grids, chunks and rows that meet a held object, packets, and enclosures.
-/
namespace Sys2Proof.Machine.Tests
open Sys2Proof Sys2Proof.Machine

/-! ### Accesses, words and branches -/

/-- An owned buffer of another workgroup, whose last byte the access touches. -/
theorem witness_AccessChecks_handle :
    let e : Handle := { state := 1, seq := 0, base := 0x1000, len := 0x101, holder := 5, dst := 0 }
    let s : State := { stage lone with cores := [(0, { Core.init with handles := [(63, e)] })] }
    (s.core 0).handles = [(63, e)] ∧ e.state ≠ 0 ∧ 0x1100 < e.base + e.len ∧ e.base < 0x1100 + 8 ∧ e.holder ≠ wg0.num ∧
    s.touchesHeld (slabKey 0 0x1100) 8 = false ∧ 0x1100 + 8 ≤ 0x7F0000 := by decide

/-- A workgroup with 64 bytes of scratch at slab byte 0x1000, of which the stack of thread 0 is the first 16. -/
def stacked (stack : Nat) : State :=
  { stage (Ctx.having lone 62 (sa 0x1000)) with
    wgs := [{ wg0 with scrOff := 0x1000, scrSize := 64 }]
    launches := [{ placedLaunch with hdr := placedHeader.take 0x1C ++ leBytes 4 stack ++ placedHeader.drop 0x20 }] }

theorem witness_AccessChecks_stack : [16, 0].all (fun stack =>
    let s := stacked stack
    s.ctxs.all (fun c => (s.home? c).any (fun e => e.1.stack == stack && !e.1.sampled && e.1.scratch == 0 && e.2.scrOff == 0x1000)) &&
    decide ((fm 3 0).sp.toNat ≤ 1) && s.slabDecode (sa 0x1000).toNat == some (slabKey 0 0x1000) &&
    decide ((sa 0x1000).toNat % 8 = 0)) = true := by decide

/-- A BRA whose target lies in no grant, and a JMPR and a RET to a target that is no multiple of 4. -/
theorem witness_Branches_traps :
    let c : Ctx := { Ctx.having lone 2 2 with regs := { (Ctx.having lone 2 2).regs with lr := 2 } }
    let s := handlerStage c
    let b : LB := { lb0 with off := BitVec.ofInt 22 (-0x100000) }
    [Instr.bra b, .call b, .callf b, .jmpr (fx 0), .ret (fx 0)].all (runs s) = true ∧ s.cur.course.Nodup ∧
    (s.branchFault c (s.nextPc + BitVec.ofInt 64 (4 * b.off.toInt))).isSome = true ∧ (s.branchFault c (c.regs.get 2)).isSome = true ∧
    (s.branchFault c c.regs.lr).isSome = true ∧ c.trappable = true ∧ handles0 s = true := by decide

/-- A gathered BRX whose target lies in no grant. -/
theorem witness_Rendezvous_brxTraps :
    let b : LB := { lb0 with off := BitVec.ofInt 22 (-0x100000) }
    let u : State := { pairUp lone second with launches := [handled], cur := { issue0 with course := [id0, second.id] } }
    u.clear (.brx b) = true ∧ u.ctxs.all (u.acts (.brx b)) = true ∧ [id0, second.id].Nodup ∧
    u.ctxs.all (fun c => c.trappable && (u.branchFault c (placedPc + 4 + BitVec.ofInt 64 (4 * b.off.toInt))).isSome) = true ∧
    handles0 u = true := by decide

/-- A launch of 32 registers: register 40 is beyond them, as is the third operand of an FENCE.HV at v31. -/
def narrow : State := { handlerStage lone with launches := [{ handled with hdr := handled.hdr.set 2 32 }] }

theorem witness_Traps_words : narrow.cur.course.Nodup ∧ narrow.cur.course ≠ [] ∧
    (narrow.launchOf? 0).map (fun l => (l.regs, l.barriers)) = some (32, 16) ∧ handles0 narrow = true ∧ lone.trappable = true ∧
    (({ fa 0 with d := 40 } : LA).d.toNat = 40) ∧ (({ fx 0 with a := 31 } : LX).a.toNat + 2 = 33) ∧
    (({ fx 0 with a := 62 } : LX).a.toNat > 61) ∧ 16 ≤ 16 := by decide

/-- A RET whose record is the newer of two, and one that no record fits; an entry of another call in its place. -/
theorem witness_ForkedCalls_training :
    let r : CallRec := { pc := placedPc, ret := sa 0x10044, sp := 0 }
    let o : CallRec := { r with ret := 0 }
    let c : Ctx := { callee0 with calls := [o, r] }
    (stage c).ctx? c.id = some c ∧ c.calls = [o] ++ r :: [] ∧ r.ret = c.regs.lr ∧ r.sp = c.regs.get 63 ∧ o.ret ≠ c.regs.lr ∧
    ((stage c).part 0 0).preds = [] := by decide

/-- An illegal word at the program counter of a thread with a handler. -/
theorem witness_StepRuns_illegal :
    let s : State := { coded lone with
      launches := [handled]
      agenda := [.issue 0 0 .alu false]
      parts := [(0, { Part.init with icache := placedWords 32 0x1C00721D })]
      mem := cellsWrite [] (slabKey 0 0x10040) (leBytes 4 0x1C00721D) }
    let f : Fetched := { start := placedPc, pc := placedPc, pfx := none, warn := 0, word := 0x1C00721D, what := none }
    s.partCtxs 0 0 = [lone] ∧ s.codeWord lone placedPc = .word 0x1C00721D ∧
    (match decodeWord 0x1C00721D with
      | .illegal _ => true
      | _ => false) = true ∧ s.ready lone f = true ∧ handles0 s = true ∧ f.pipe ≠ .uniform := by decide

/-! ### Edges, waits and returns -/

/-- VQPUT of a sampled launch. -/
theorem witness_VerticalFifos_sampled :
    let l : Launch := { handled with rcd := handled.rcd.set 0x15 1 }
    let s : State := { handlerStage lone with launches := [l] }
    runs s (.vqput (fx 0)) = true ∧ l.sampled = true ∧ s.cur.course.Nodup ∧ handles0 s = true := by decide

/-- A child whose end the core has not yet seen, and an assay state that it has not. -/
theorem witness_ChildGrids_unseen :
    let s : State := { stage (flying (.cwait 2)) with
      launches := [placedLaunch, { placedLaunch with num := 2, parent := some 1, phase := .finished }]
      cores := [(0, { Core.init with newEnds := [2], newStates := [slabKey 0 0x800] })] }
    2 ∈ (s.core 0).newEnds ∧ (s.launch? 2).map Launch.phase = some .finished ∧ s.resident 0 = true ∧
    slabKey 0 0x800 ∈ (s.core 0).newStates := by decide

/-- An older ASWAIT for a generation above 4 and a younger one for an object past its generation. -/
theorem witness_AssayReads_younger :
    let o : Flight := { flight0 (.aswait (slabKey 0 0x800) 4) with num := 3 }
    let g : Flight := flight0 (.aswait (slabKey 0 0x900) 4)
    let c : Ctx := { lone with inflight := [o, g] }
    let s : State := { stage c with mem := cellsWrite [] (slabKey 0 0x938) [5] }
    (s.liveOfTeam 0 0).head? = some c ∧ o.num ≠ g.num ∧ c.inflight.all (fun x => !x.isTrap) = true ∧
    leNat (cellsRead s.mem (slabKey 0 0x838) 8) = 0 ∧ leNat (cellsRead s.mem (slabKey 0 0x938) 8) > 4 := by decide

/-- A launch that captures its producer's state. -/
theorem witness_AssayReads_captured :
    let l : Launch := { slotted with
      rcd := (slotted.rcd.take 0xB8 ++ leBytes 8 (sa 0xC00).toNat ++ slotted.rcd.drop 0xC0).set 0x23 2
      pinned := List.replicate 64 7 }
    let s : State := { teamStage (sa 0x1000) 0 0 with launches := [l] }
    l.producer = (sa 0xC00).toNat ∧ s.isProducer l (slabKey 0 0xC00) = true ∧ l.consume = 2 ∧ (l.pinned.take 64).length = 64 := by decide

/-- A waiting action of a saved workgroup. -/
theorem witness_Keystones_saved :
    let r : QRec := { blankRec with rcd := plainRecord 0x10000 0 3, fired := true }
    let k : Keystone := { Keystone.init with armed := true, pending := true, fired := true, kind := 2, rcd := some r, owner := some 0 }
    let s : State := { stage lone with wgs := [{ wg0 with place := .saved 0 }], keystones := [(keystoneKey 0 5, k)] }
    s.keystone 0 5 = k ∧ s.queueCount 0 (fieldAt r.rcd 0x2A 1) = 0 ∧ (s.wg? 0).map Workgroup.place = some (.saved 0) ∧ k.late = false := by
  decide

set_option maxRecDepth 20000 in
/-- A workgroup at its end with a copy that no queue has room for. -/
theorem witness_YieldPrefetchExit_copies :
    let w : Workgroup := { wg0 with copies := [{ k := 0, desc := hodBytes, entries := [] }] }
    let s : State := { stage { lone with status := .exited } with wgs := [w], cores := queueFilled 5 64 }
    s.wg? 0 = some w ∧ s.liveOfWg 0 = [] ∧ s.childrenOf 0 = [] ∧ w.heldFirings = [] ∧ w.copies ≠ [] ∧ s.queueFull w.core 5 = true := by
  decide

/-- A queue whose only launch waits, all packets of which are counted. -/
theorem witness_HostQueues_waiting :
    let s : State := { queueStage [] with
      launches := [{ placedLaunch with phase := .waiting }], queues := [(0, { queue0 with doorbell := 2 })], slots := [] }
    ¬ (s.queue 0).head < (s.queue 0).doorbell ∧ s.hasWork 0 = true ∧ s.waitingQueues [] 4095 = [0] := by decide

/-- A launch that is due, one whose last test was not met, one whose test counts from a later cycle, one without a test, and
the write that tests one. -/
theorem witness_LaunchLife_due :
    let l : Launch := { slotted with
      phase := .waiting, tests := [(0, true)], rcd := slotted.rcd.take 0xB8 ++ leBytes 8 (sa 0xC00).toNat ++ slotted.rcd.drop 0xC0 }
    let ready (t : List (Nat × Bool)) : Bool := (withLaunch { l with tests := t }).startReady { l with tests := t }
    ready [(0, true)] = true ∧ ready [(0, true), (0, false)] = false ∧ ready [(1, true)] = false ∧ ready [] = false ∧
    l.failing = none ∧ l.deadline = 0 ∧ (withLaunch l).dcycle < (withLaunch l).metered + 1024 ∧
    (withLaunch l).handleBars none (slabKey 0 0xC00) 128 = false ∧ (withLaunch l).localSlab l.producer = some (slabKey 0 0xC00) ∧ overlaps (slabKey 0 0xC29) 1 (slabKey 0 0xC00) 128 = true := by decide

/-- A launch that fails while it waits is finalised, where its slots are not held. -/
theorem witness_AssayUnit_waiting :
    let l : Launch := { slotted with phase := .waiting, status := 7, sent := 0 }
    ({ withLaunch l with wgs := [] } : State).mayFinalise l = true ∧ (withLaunch l).touchesHeld (slabKey 0 0x800) 128 = false := by decide

/-! ### Pre-emption, the foreman and the engines -/

/-- A workgroup that has been ordered off its core, and one that is leaving it. -/
theorem witness_Preemption_ordered :
    let s (w : Workgroup) : State := { saveStage with wgs := [w] }
    wg0.leaving = false ∧ (s wg0).movable wg0 = true ∧ (s wg0).preemptAsked wg0 = true ∧ (s wg0).rotationWaits wg0 = false ∧
    (s { wg0 with ordered := true }).wg? 0 = some { wg0 with ordered := true } ∧
    ((s { wg0 with ordered := true }).core 0).gated = false := by decide

/-- A Loom-holding workgroup of the grid beside the marked one; a workgroup that the stall rule has ousted. -/
theorem witness_Preemption_loom :
    let v : Workgroup := { wg0 with num := 1, loomHolding := true }
    let s : State := { saveStage with wgs := [{ wg0 with leaving := true }, v] }
    s.rotationWaits { wg0 with leaving := true } = true ∧ s.rotationWaits { wg0 with ousted := true } = false ∧
    saveStage.rotationWaits wg0 = false := by decide

set_option maxRecDepth 20000 in
/-- A queue without a save area. -/
theorem witness_Preemption_full :
    let w : Workgroup := { wg0 with leaving := true }
    let s : State := { withLaunch placedLaunch with wgs := [w], slots := [(0, { slot0 with passed := false })] }
    let s1 := s.pullRecords w
    s.rotationWaits w = false ∧ s.movable w = true ∧ s.atBoundary 0 = true ∧ s.enginesQuiet w = true ∧
    (s1.wg? 0).map (fun w => (s1.findRoom 0 (s1.imageBytes placedLaunch w)).isNone) = some true := by decide

/-- A record whose guard slot passed, while what the GSET released is on its way. -/
theorem witness_ForemanStarts_released :
    let g : QRec := { recOf 0 3 [] with rcd := (plainRecord 0x10000 0 3).set 0x29 5 }
    let w : Workgroup := { wg0 with guards := [(5, true)], guardAfter := [(5, [9])] }
    let s (l : List PendingWrite) : State := { headed 3 g with wgs := [w], stores := l }
    (s [write0 (.put [1] false)]).mayStart 0 g = .wait ∧ (s []).mayStart 0 g = .go ∧ w.guardWrites 5 = [9] := by decide

/-- A QFENCE that waits for a saved record, and an EOS record whose next record a write that the foreman sees covers. -/
theorem witness_ForemanEnds_saved :
    let w : Workgroup := { wg0 with place := .saved 0, savedRecs := [(4, { recOf 1 4 [] with num := 1 })] }
    let f : QRec := { recOf 4 4 [] with rcd := (plainRecord 0 4 4).take 0x30 ++ leBytes 8 (sa 0x200).toNat ++ List.replicate 8 0 }
    let p : PendingWrite := { write0 (.put [1] false) with key := slabKey 0 0x23F, vis := [.core 0] }
    ({ stage lone with wgs := [w] } : State).recOpen 1 = true ∧ (stage lone).recOpen 1 = false ∧
    ({ headed 4 f with stores := [p] } : State).eosCheck 0 f = .waits := by decide

/-- A drained row that touches a held object; a poisoned accumulator, a poisoned tile, and a row of the Loom on its way. -/
theorem witness_LoomRows_held :
    let s (x : Running) : State := { running0 4 x with launches := [slotted] }
    let x := startOf (recOf 1 4 (drainRecord (sa 0x87F).toNat)) 0
    let h : HodChunk := { num := 3, core := 0, engine := 4, base := 0, parts := [] }
    (s x).touchesHeld (slabKey 0 0x87F) (drainSize x.rcd.desc) = true ∧ x.status = 0 ∧
    ({ s x with poison := [poisonUnit (accKey 0 0)] } : State).accPoison 0 0 7 = true ∧
    ({ s x with poison := [poisonUnit (accKey 0 0)] } : State).accPoison 0 0 8 = false ∧
    ((none : Option Nat).or ({ tile0 with poisoned := some 5 } : Tile).poisoned) = some 5 ∧
    ({ s x with chunks := [h] } : State).chunksLanded 0 4 = false ∧ (s x).chunksLanded 0 4 = true := by decide

/-- A chunk to another device, and writes of a copy that have and have not been acknowledged. -/
theorem witness_EngineTasks_remote :
    let key := remoteKey 5 false 0x100
    let e : HodSent := { num := 3, core := 0, engine := 5, addr := 0, key := key, op := .put [1] false, lost := false }
    let s : State := { linked with routes := [(5, (23, 0))] }
    isRemoteKey key = true ∧ homeRest s.mem key (.put [1] false) = none ∧ Table.find s.routes (remoteDev key) = some (23, 0) ∧
    s.devnum.isSome = true ∧ s.chunkHeld [(key, .put [1] false)] = none ∧ s.lostSent 0 5 = [] ∧ s.settled 0 5 = true ∧
    ({ s with hodSent := [e] } : State).settled 0 5 = false ∧ ({ s with hodSent := [e] } : State).lostSent 0 5 = [] ∧
    ({ s with hodSent := [{ e with lost := true }] } : State).lostSent 0 5 ≠ [] := by decide

/-! ### Packets, forwarding and acknowledgements -/

/-- A packet for an owned buffer, a system area, a held object, and a byte of no stack. -/
theorem witness_LinksAndHost_refused :
    let s : State := { withLaunch slotted with devnum := some 0, cores := handleCore0 1 }
    s.handleBars none (slabKey 0 0x10FF) 8 = true ∧ slabRangeFree (slabKey 0 0x7F0000) 8 = false ∧
    s.touchesHeld (slabKey 0 0x87F) 1 = true ∧ s.handleBars none (slabKey 0 0x87F) 1 = false ∧
    isSlabKey (hbmBase + 47999999999) = false ∧ hbmValid (47999999999 + 8 - 1) = false ∧ hbmValid (0x100 + 8 - 1) = true := by decide

/-- Traffic for device 2, to which device 0 has no route, that came from device 1, to which it has one; and from device 3. -/
theorem witness_LinksAndHost_turns : linked.devnum = some 0 ∧ (0 : Nat) ≠ 2 ∧ Table.find linked.routes 2 = none ∧
    Table.find linked.routes 1 = some (23, 0) ∧ Table.find linked.routes 3 = none := by decide

set_option maxRecDepth 20000 in
/-- A continuation's load and a copy's write that come back; a copy's write that is acknowledged. -/
theorem witness_LinksAndHost_others :
    let a : Access := { remote0 8 (.load false) with asked := some 5 }
    let c : Ctx := { flying (.access a false) with id := { id0 with lvl := 1 } }
    let e : HodSent := { num := 5, core := 0, engine := 5, addr := 0, key := remoteKey 5 false 0x100, op := .put [1] false, lost := false }
    let s : State := { stage c with devnum := some 1 }
    let t : State := { running0 5 copying with devnum := some 1, hodSent := [e] }
    s.stores = [] ∧ s.ctxs.findSome? (fun c => c.asking 5) = some (c, flight0 (.access a false), a, false) ∧ s.ctx? c.id = some c ∧
    c.id.lvl ≠ 0 ∧ c.flight? 7 = some (flight0 (.access a false)) ∧ (stage lone).recordless lone = true ∧
    t.ctxs.findSome? (fun c => c.asking 5) = none ∧ t.hodSent.find? (fun e => e.num == 5) = some e ∧
    Table.find (t.core 0).running 5 = some copying ∧ copying.parked = false ∧
    t.hodSent.find? (fun e => e.num == 5 && !e.lost) = some e ∧ t.hodSent.find? (fun e => e.num == 6 && !e.lost) = none := by decide

/-! ### Real functions -/

/-- 0.75, which is no whole number and no power of two, and a mode without a draw. -/
theorem witness_TranscendentalEnclosures : fp32.operand FEnv.plain 0x3F400000 = .fin false (3 * 2 ^ 22) (-24) ∧ 3 * 2 ^ 22 ≠ 0 ∧
    FEnv.plain.mode = .rne := by decide

end Sys2Proof.Machine.Tests
end

