-- ==== Sys2Proof/Tests/Witness4.lean ====
section
/-!
SUPPORT. Sys2Proof/Tests/Witness4.lean: further states that meet the hypotheses of the statements: accesses to bytes that
another workgroup owns or that another device holds, teams at several words, copies that start together, and engines
that read and write on other devices.
-/
namespace Sys2Proof.Machine.Tests
open Sys2Proof Sys2Proof.Machine

/-! ### Accesses -/

/-- Core 0, whose handle entry 63 workgroup 5 holds: 64 bytes from a slab byte. -/
def ownedAt (base : Nat) : Table Core :=
  [(0, { Core.init with handles := [(63, { state := 1, seq := 0, base := base, len := 64, holder := 5, dst := 0 })] })]

def owned (s : State) (base : Nat) : State := { s with cores := ownedAt base }

/-- Bytes that another workgroup has come to own before a load, an atomic, a wait or a uniform load meets them. -/
theorem witness_Loads_owned : [(1, AccessOp.load true), (8, .load false), (4, .atomic 0 1 0), (8, .atomic 8 1 0), (8, .acq 5),
    (8, .waita 4)].all (fun x =>
    let a := acc0 x.1 x.2
    let c := flying (.access a false)
    let s := owned (handlerStage c) 0x100
    airborne s c (flight0 (.access a false)) && s.handleBars (some id0.wg) a.key a.size && !c.olderOver 7 a.key a.size &&
    c.exposed (flight0 (.access a false)) && s.freesNone c 7 && handles0 s && !s.touchesHeld a.key a.size && s.resident 0 &&
    s.stores.isEmpty && !isRemoteKey a.key) = true := by decide

/-- A continuation's load of such bytes, and of poisoned ones. -/
theorem witness_Loads_continuation :
    let a := acc0 8 (.load false)
    let c : Ctx := { flying (.access a false) with id := { id0 with lvl := 1 } }
    airborne (stage c) c (flight0 (.access a false)) = true ∧ c.id.lvl ≠ 0 ∧ c.olderOver 7 a.key 8 = false ∧
    (owned (stage c) 0x100).handleBars (some c.id.wg) a.key 8 = true ∧ (stage c).handleBars (some c.id.wg) a.key 8 = false ∧
    (({ stage c with poison := [poisonUnit a.key] } : State).ctxPoison c 7 a.key 8).isSome = true := by decide

/-- A write to another device without a route, with its thread and after the thread's end; one to an owned buffer. -/
theorem witness_Stores_unreached :
    let p : PendingWrite := { write0 (.put [1, 2] false) with key := remoteKey 5 false 0x100 }
    let holders (s : State) : List Ctx := s.ctxs.filter (fun c => c.live && covers id0 c.id.wg c.id.tix)
    let s (c : Ctx) : State := { stage c with stores := [p] }
    (s lone).writeReady p = true ∧ (s lone).touchesHeld p.key 2 = false ∧ isRemoteKey p.key = true ∧ p.sent = false ∧
    (s lone).devnum = none ∧ Table.find ({ s lone with devnum := some 0 } : State).routes (remoteDev p.key) = none ∧
    p.src = some id0 ∧ holders (s lone) = [lone] ∧ (s lone).ctx? lone.id = some lone ∧ holders (s { lone with status := .exited }) = [] ∧
    (s lone).handleBars (some 0) p.key 2 = false ∧
    (let q := write0 (.put [1, 2] false)
     let u : State := owned { stage lone with stores := [q] } 0x100
     q.src = some id0 ∧ u.writeReady q = true ∧ u.touchesHeld q.key 2 = false ∧ u.handleBars (some 0) q.key q.op.size = true) := by
  decide

theorem witness_UniformAccesses_owned :
    let c := loading []
    let s := owned (handlerStage c) 0x100
    s.handleBars (some 0) (slabKey 0 0x100) 8 = true ∧ handles0 s = true ∧ s.stores = [] ∧ s.ctx? c.id = some c ∧
    c.inflight.all c.exposed = true ∧ c.olderOver 7 (slabKey 0 0x100) 8 = false := by decide

/-- An ASWAIT that a write has shown its generation, one behind a write of its team, and one whose object is owned. -/
theorem witness_AssayReads_reads :
    let k : FlightKind := .aswait (slabKey 0 0x800) 4
    let s := handlerStage (flying k)
    let p : PendingWrite := { write0 (.put [1] false) with key := slabKey 0 0x83F, num := 3 }
    let r : Viewer := { wg := 0, tix := none, team := 0, core := 0, upto := 7 }
    ({ s with fits := [({ wg := 0, tix := 0, lvl := 1 }, 7, 9)] } : State).fitOf { wg := 0, tix := 32 * 0, lvl := 1 } 7 = some 9 ∧
    (r.sees p && overlaps p.key p.op.size (slabKey 0 0x800) 64) = true ∧
    (owned s 0x800).handleBars (some 0) (slabKey 0 0x800) 64 = true ∧ s.handleBars (some 0) (slabKey 0 0x800) 64 = false ∧
    handles0 (owned s 0x800) = true ∧ (flying k).exposed (flight0 k) = true := by decide

theorem witness_FaultRecords_open : (faulty [] [(127, { faultReq0 with resolved := true })]).handleBars (some 0) (slabKey 0 0x100) 8 =
    false := by decide

/-! ### Teams -/

/-- A team whose two threads wait at a VOTE and at a SHFL: what is left, its least program counter, and its group. -/
theorem witness_Rendezvous_split :
    let at_ (c : Ctx) (i : Instr) (pc : Word) : Ctx := { c with pc := pc, status := .rendezvous i none 0 pc 0x12 }
    let c0 := at_ second (.voteAny (fa 1)) placedPc
    let c1 := at_ lone (.shfl (fx 3)) (placedPc + 8)
    let s := pairUp c1 c0
    let live := s.liveOfTeam 0 0
    let left := live.filter (fun c => c.atRendezvous && (live.map Ctx.id).contains c.id)
    live.all Ctx.atRendezvous = true ∧ s.resident 0 = true ∧ left = [c1, c0] ∧ left.all (fun c => c0.pc.toNat ≤ c.pc.toNat) = true ∧
    left.filter (fun c => c.pc == c0.pc) = [c0] ∧ (left.filter (fun c => c.pc != c0.pc)).map Ctx.id = [id0] ∧
    ({ s with ctxs := [c1, { c0 with status := .running }], cur := { s.cur with course := [c0.id], start := placedPc } } : State).clear
      (.voteAny (fa 1)) = true ∧ (pairUp lone c0).teamGathered 0 0 = false := by decide

/-- A course of two threads that may both take a trap. -/
theorem witness_UniformOperations_traps :
    let s : State := { pairUp lone second with launches := [handled], cur := { issue0 with course := [id0, second.id] } }
    s.cur.course.Nodup ∧ s.cur.course.all (fun id => (s.ctx? id).any Ctx.trappable) = true ∧ handles0 s = true := by decide

def isTrapRead (r : TeamRead) : Bool :=
  match r with
  | .trap _ _ => true
  | _ => false

theorem witness_QueueCommands_trap :
    let s : State := teamStage (sa 0x7FFE00) 0 0
    s.uclear (.loom (sa0 0)) = true ∧ s.curDesk.isSome = true ∧ isTrapRead (s.deskRead desk0 (s.sreg 2).toNat 64 64) = true := by decide

set_option maxRecDepth 20000 in
/-- Two complete copies behind which a third waits for its team; with room for one of them; and with room for none. -/
theorem witness_HodCommands_several :
    let e : HodEntry := { team := 0, addr := sa 0x200, first := 0, last := 2, refused := 0, ring := none, tag := 0xFF, lost := false, writes := [] }
    let a (k : Nat) (l : List HodEntry) : CopyAsm := { k := k, desc := hodBytes, entries := l }
    let w : Workgroup := { wg0 with copies := [a 0 [e], a 1 [e]] ++ [a 2 []] }
    let s (n : Nat) : State := { stage lone with wgs := [w], cores := queueFilled 5 n }
    (s 62).wg? 0 = some w ∧ (s 62).liveOfTeam 0 0 ≠ [] ∧ w.teams = 1 ∧ (s 62).queueCount 0 5 + [a 0 [e], a 1 [e]].length = 64 ∧
    (s 63).queueCount 0 5 + [a 0 [e]].length = 64 ∧ (s 64).queueCount 0 5 = 64 ∧ (s 0).queueCount 0 5 + [a 0 [e], a 1 [e]].length ≤ 64 := by
  decide

/-! ### Launches -/

set_option maxRecDepth 20000 in
/-- A write that ends the PRODUCER object of a launch that waits, and one beside it. -/
theorem witness_LaunchLife_meets :
    let l : Launch := { slotted with phase := .waiting, rcd := slotted.rcd.take 0xB8 ++ leBytes 8 (sa 0xC00).toNat ++ slotted.rcd.drop 0xC0 }
    let t := (withLaunch l).homeStore (slabKey 0 0xC29) [1] false
    l.producer ≠ 0 ∧ (withLaunch l).localSlab l.producer = some (slabKey 0 0xC00) ∧
    overlaps (slabKey 0 0xC29) 1 (slabKey 0 0xC00) 128 = true ∧ (t.assayAt (slabKey 0 0xC00)).status ≠ 0 ∧
    overlaps (slabKey 0 0xC80) 1 (slabKey 0 0xC00) 128 = false := by decide

set_option maxRecDepth 20000 in
/-- A sampled CORESIDENT launch of which nothing has been sent out. -/
theorem witness_VisitOrder_coresident :
    let l := { unsent 1 with rcd := (unsent 1).rcd.set 0x15 1, counter := 0 }
    l.sampled = true ∧ l.coresident = true ∧ l.sent = 0 ∧ l.counter = 0 ∧ (empty l).launch? 1 = some l ∧ (empty l).maySend l = true ∧
    (empty l).forks = [] ∧ (State.sendAll 1 l.total (empty l)).isSome = true := by decide

/-! ### The foreman and the engines -/

/-- A server that the idle tree has ended, before the next edge of its core's clock. -/
theorem witness_ForemanEnds_ending :
    let v : Serve := { queue := 3, idle := true, d := 1, pc := placedPc, inTask := false, ending := true }
    let u : Team := { team0 with serve := some v }
    let s : State := { servingStage (recOf 0 3 []) with teams := [u], cores := [] }
    (s.core 0).gated = false ∧ s.teams.filter (fun t => t.serve.any Serve.ending && s.resident t.wg &&
      (s.wg? t.wg).any (fun w => w.core == 0)) = [u] ∧ u.serve = some v := by decide

/-- A slab byte of device 5, seen from device 0 with a route to it. -/
def farSa (o : Nat) : Word := BitVec.ofNat 64 (0x00F0000500000000 + o)
def farKey (o : Nat) : Nat := remoteKey 5 true (0x00F0000500000000 + o)
def routed (s : State) : State := { s with devnum := some 0, routes := [(5, (23, 0))] }

/-- A Quarry task whose vector is another device's: before it is asked for, without a route, and when it is. -/
theorem witness_ForemanStarts_remote :
    let d := leBytes 8 0 ++ leBytes 8 (farSa 0x400).toNat ++ leBytes 8 (sa 0x800).toNat ++ leBytes 4 1 ++ leBytes 4 32 ++ List.replicate 32 0
    let r := recOf 3 6 d
    let x : Running := startOf r 0
    (routed (headed 6 r)).mayStart 0 r = .go ∧ (routed (headed 6 r)).headOf 0 6 = some r ∧
    (routed (headed 6 r)).slabDecode (fieldAt d 8 8) = some (farKey 0x400) ∧ isRemoteKey (farKey 0x400) = true ∧
    (routed (headed 6 r)).engineBars 0 r.owner [(farKey 0x400, quarryVec d)] = false ∧
    Table.find (routed (running0 6 x)).routes (remoteDev (farKey 0x400)) = some (23, 0) ∧
    (running0 6 x).reaches (remoteDev (farKey 0x400)) = false ∧
    ({ routed (headed 6 r) with stores := [{ write0 (.put [1] false) with key := farKey 0x400, vis := [.core 0] }] } : State).engineBars 0
      r.owner [(farKey 0x400, quarryVec d)] = true := by decide

theorem witness_EngineTasks_vector :
    let d := leBytes 8 0 ++ leBytes 8 (farSa 0x400).toNat ++ leBytes 8 (sa 0x800).toNat ++ leBytes 4 1 ++ leBytes 4 32 ++ List.replicate 32 0
    let x : Running := startOf (recOf 3 6 d) 0
    let s (x : Running) : State := routed (running0 6 x)
    Table.find ((s x).core 0).running 6 = some x ∧ taskKind x.rcd.rcd = 3 ∧ x.vector = [] ∧ x.asked = [] ∧
    (s x).slabDecode (fieldAt x.rcd.desc 8 8) = some (farKey 0x400) ∧
    Table.find ((s { x with asked := [(7, 0)] }).core 0).running 6 = some { x with asked := [(7, 0)] } ∧
    ({ x with vector := [1] } : Running).vector ≠ [] ∧ (s x).chunks = [] ∧ (s x).hodSent = [] ∧ isRemoteKey (slabKey 0 0x800) = false := by
  decide

/-- A Loom task that has done its rows and whose one write to another device was lost. -/
theorem witness_EngineTasks_lost :
    let x : Running := { startOf (recOf 1 4 zeroRecord) 0 with done := true }
    let e (lost : Bool) : HodSent :=
      { num := 3, core := 0, engine := 4, addr := 0, key := farKey 0x700, op := .put [1] false, lost := lost }
    let s (l : List HodSent) : State := { routed (running0 4 x) with hodSent := l }
    (s [e true]).lostSent 0 4 = [e true] ∧ Table.find (s [e true]).routes (remoteDev (farKey 0x700)) = some (23, 0) ∧
    (s [e false]).lostSent 0 4 = [] ∧ (s [e false]).hodSent ≠ [] ∧ Table.find ((s []).core 0).running 4 = some x := by decide

def wloadFar : List Byte := wloadRecord.take 8 ++ leBytes 8 (farSa 0x700).toNat ++ wloadRecord.drop 16
def mmulFar : List Byte := mmulRecord.take 8 ++ leBytes 8 (farSa 0x700).toNat ++ mmulRecord.drop 16

/-- A WLOAD and an MMUL of another device's bytes, with a route and without one. -/
theorem witness_LoomRows_far :
    let x := startOf (recOf 1 4 wloadFar) 0
    let y := startOf (recOf 1 4 mmulFar) 0
    let s := routed (running0 4 x)
    let t := routed (running0 4 y)
    s.loomTask 0 0 = some x ∧ ((s.tileKeys wloadFar).filter (fun p => isRemoteKey p.1)).length = 1 ∧
    s.engineBars 0 x.rcd.owner (s.tileKeys wloadFar) = false ∧ x.asked = [] ∧
    (s.tileKeys wloadFar).all (fun p => Table.find s.routes (remoteDev p.1) == some (23, 0) && !(running0 4 x).reaches (remoteDev p.1)) =
      true ∧
    t.loomTask 0 1 = some y ∧ (t.core 0).tile = some tile0 ∧ t.slabDecode (mmulRow mmulFar y.progress) = some (farKey 0x700) ∧
    t.engineBars 0 y.rcd.owner [(farKey 0x700, (elemsRange (loomFmt mmulFar) 0 (loomKvalid tile0.rcd)).2)] = false := by decide

/-- A DRAIN of a row to another device. -/
theorem witness_LoomRows_farDrain :
    let r := drainRecord (farSa 0x700).toNat
    let x := startOf (recOf 1 4 r) 0
    let s := routed (running0 4 x)
    s.loomTask 0 2 = some x ∧ (s.core 0).tile = some tile0 ∧ fieldAt r 0x20 8 ≠ 0 ∧
    s.slabDecode (drainRow r x.progress) = some (farKey 0x700) ∧ s.devnum.isSome = true ∧ loomNvalid tile0.rcd = 1 ∧
    Table.find s.routes (remoteDev (farKey 0x700)) = some (23, 0) ∧ s.touchesHeld (farKey 0x700) (drainSize r) = false ∧
    s.engineBars 0 x.rcd.owner [(farKey 0x700, drainSize r * loomNvalid tile0.rcd)] = false := by decide

/-- A Loom's write that comes back. -/
theorem witness_LinksAndHost_engine :
    let e : HodSent := { num := 5, core := 0, engine := 4, addr := 0, key := farKey 0x100, op := .put [1] false, lost := false }
    let t : State := { stage lone with devnum := some 1, hodSent := [e] }
    t.devnum = some (packet0 (.load 8)).src ∧ t.stores = [] ∧ t.ctxs.findSome? (fun c => c.asking 5) = none ∧
    t.hodSent.find? (fun e => e.num == 5) = some e ∧ e.engine ≠ 5 := by decide

/-- A halt request made of a thread that stands halted in its handler. -/
theorem witness_MailboxDevice_requested :
    let c : Ctx := { lone with status := .halted placedPc, haltReq := true, inHandler := true }
    (stage c).ctx? c.id = some c ∧ (c.haltReq && c.inHandler) = true := by decide

/-! ### Releases, own objects and failures -/

/-- A release at scope pair whose write is still on its way to its home. -/
theorem witness_Fences_stands :
    let k : FlightKind := .fence 0 4 [9] []
    let s : State := { stage (flying k) with stores := [write0 (.put [1] false)] }
    airborne s (flying k) (flight0 k) = true ∧ s.fenceReady (flying k) (flight0 k) 0 4 [9] [] = true ∧ [9].filter s.pends ≠ [] ∧
    (s.scopeOf (flying k) 4).isSome = true ∧ s.scopeOf (flying k) 5 = none := by decide

/-- The slot object of a launch, in the open and in a buffer that another workgroup owns. -/
theorem witness_AssayReads_own :
    let s : State := { teamStage (sa 0x1000) (sa 0x800) 0 with launches := [slotted] }
    s.localSlab (sa 0x800).toNat = some (slabKey 0 0x800) ∧ slotted.sampled = false ∧ s.ownAssay slotted (slabKey 0 0x800) = true ∧
    s.handleBars (some wg0.num) (slabKey 0 0x800) 64 = false ∧
    (owned s 0x800).handleBars (some wg0.num) (slabKey 0 0x800) 64 = true := by decide

/-- A slot object that a start leaves, and one that it opens. -/
theorem witness_LaunchLife_owned :
    let l : Launch := { slotted with phase := .waiting }
    (owned (withLaunch l) 0x800).startReady l = true ∧ (owned (withLaunch l) 0x800).handleBars none (slabKey 0 0x800) 96 = true ∧
    (withLaunch l).handleBars none (slabKey 0 0x800) 96 = false := by decide

set_option maxRecDepth 20000 in
/-- A record of a core on which its launch has been stopped; a Hod copy's record; a record that was answered ABORTED. -/
theorem witness_FaultRecords_stops :
    let s : State := { stage (flying parkedLoad) with
      cores := [(0, { Core.init with faultsOut := [(127, faultReq0)], stops := [1] })] }
    let h : State := { running0 5 copying with
      cores := [(0, { Core.init with running := [(5, copying)], faultsOut := [(127, { faultReq0 with who := [], hod := true })] })] }
    faultReq0.launch ∈ (s.core 0).stops ∧ Table.find (s.core 0).faultsOut 127 = some faultReq0 ∧
    ((h.launch? 1).map Launch.failing) = some none ∧ Table.find (h.core 0).running 5 = some copying ∧
    leNat (cellsRead ({ s with mem := cellsWrite [] (faultKey 0 127 + 0x14) [3] } : State).mem (faultKey 0 127 + 0x14) 1) = 3 ∧
    leNat (cellsRead s.mem (faultKey 0 127 + 0x14) 1) ≠ 3 := by decide

/-- A stalled grid with YIELDOK, of whose workgroups the earlier one has room in the save area and the later one has not. -/
def passing : State :=
  let s := stalled 2
  let t (n : Nat) : Ctx := { lone with id := { id0 with wg := n }, inflight := [flight0 (.waitt 1 false)] }
  { s with
    ctxs := [t 0, t 1]
    wgs := [wg0, { wg0 with num := 1, visit := 1, scrOff := 0x2000, scrSize := 0x200000 }] }

set_option maxRecDepth 20000 in
theorem witness_LaunchLimits_passed : passing.launches.all (fun l => passing.stalls l && l.yieldok && decide (l.stall ≥ 65536) &&
    (firstBy (fun (a b : Workgroup) => decide (a.visit > b.visit)) (passing.stallCands l)).map Workgroup.num == some 0 &&
    (passing.residentOf 1).any (fun v => passing.movable v && (passing.saveRoom l v).isNone && decide (v.visit > wg0.visit))) = true := by
  decide

theorem witness_LaunchLimits_stops : (1 : Nat) ∈ (({ stage lone with cores := [(0, { Core.init with stops := [1] })] } : State).core 0).stops ∧
    ({ stage lone with wgs := [{ wg0 with place := .saved 0 }] } : State).wgs.all (fun w => w.place != .resident) = true := by decide

/-- A uniform word that issues, and one that waits at issue for room in its queue. -/
def taskStage (n : Nat) : State :=
  let w := (encode (.task (sa0 0))).getD 0
  { recordStage (plainRecord 0x10000 0 3) with
    mem := cellsWrite (cellsWrite [] (slabKey 0 0x200) (plainRecord 0x10000 0 3)) (slabKey 0 0x10040) (leBytes 4 w.toNat)
    parts := [(0, { Part.init with icache := placedWords 32 w.toNat })]
    cores := queueFilled 3 n }

set_option maxRecDepth 20000 in
theorem witness_StepRuns_uniform : [63, 64].all (fun n => match (taskStage n).prepare 0 0 .uniform false with
    | (t, some i) => (match exec i t with
      | .next u => (u.nextNum == t.nextNum) == (n == 64)
      | _ => false)
    | _ => false) = true := by decide

/-- A record that lies on this device. -/
theorem witness_TeamConfiguration_near :
    let s := teamStage (sa 0x100) 0 0
    (s.enginePieces s.curRoot (s.sreg (sa0 0).a).toNat 32 accNone).ranges.all (fun r => !isRemoteKey r.1) = true := by decide

end Sys2Proof.Machine.Tests
end

section
/-!
PROOF. One-sided Span traffic, its returns and acknowledgements, and the host's memory window (O50): first the rules about
replies, packets, poison and fault records, then one lemma for each case of the statement.
-/
namespace Sys2Proof.Machine

/-! ### What a write at home leaves to the links and the clerk -/

/-- A write at home leaves the routes, the traffic on the links, the device's number and the clerk's counts. -/
theorem homeStore_links (s : State) (key : Nat) (bytes : List Byte) (poisoned : Bool) :
    let t := s.homeStore key bytes poisoned
    t.routes = s.routes ∧ t.linkOut = s.linkOut ∧ t.devnum = s.devnum ∧ t.clerk = s.clerk := by
  obtain ⟨u, ⟨v, hu⟩, hf⟩ := homeStore_frame s key bytes poisoned
  rw [hf, hu]
  exact ⟨rfl, rfl, rfl, rfl⟩

theorem homeStore_poison (s : State) (key : Nat) (bytes : List Byte) (poisoned : Bool) :
    (s.homeStore key bytes poisoned).poison = poisonAfter s.poison key bytes.length poisoned := by
  obtain ⟨u, ⟨v, hu⟩, hf⟩ := homeStore_frame s key bytes poisoned
  rw [hf, hu]

theorem homeStore_sameThreads (s : State) (key : Nat) (bytes : List Byte) (poisoned : Bool) :
    SameThreads s (s.homeStore key bytes poisoned) :=
  ⟨homeStore_ctxs s key bytes poisoned, homeStore_teams s key bytes poisoned⟩

/-! ### Poisoned units -/

theorem poisonUnitSize_aligned (k : Nat) : poisonUnitSize (k / 32 * 32) = poisonUnitSize k := by
  have hhbm : isHbmKey (k / 32 * 32) = isHbmKey k := by
    rw [Bool.eq_iff_iff]
    simp only [isHbmKey, Bool.and_eq_true, decide_eq_true_eq]
    unfold hbmBase hostBase
    omega
  have hhost : isHostKey (k / 32 * 32) = isHostKey k := by
    rw [Bool.eq_iff_iff]
    simp only [isHostKey, Bool.and_eq_true, decide_eq_true_eq]
    unfold accBase hostBase
    omega
  have hremote : isRemoteKey (k / 32 * 32) = isRemoteKey k := by
    rw [Bool.eq_iff_iff]
    simp only [isRemoteKey, decide_eq_true_eq]
    unfold remoteBase
    omega
  have hslab : remoteIsSlab (k / 32 * 32) = remoteIsSlab k := by
    have hq : (k / 32 * 32 - remoteBase) / 2 ^ 64 = (k - remoteBase) / 2 ^ 64 := by
      unfold remoteBase
      omega
    rw [remoteIsSlab, remoteIsSlab, hq]
  simp only [poisonUnitSize, hhbm, hhost, hremote, hslab]

theorem poisonUnitSize_eq (k : Nat) : poisonUnitSize k = 64 ∨ poisonUnitSize k = 32 := by
  unfold poisonUnitSize
  split <;> simp

/-- The bytes of a 32-byte block lie in one unit. -/
theorem poisonUnit_aligned (k : Nat) : poisonUnit (k / 32 * 32) = poisonUnit k := by
  simp only [poisonUnit, poisonUnitSize_aligned]
  rcases poisonUnitSize_eq k with h | h <;> simp only [h] <;> omega

theorem poisonUnit_mem_unitsOf {k n j : Nat} (hj : j < n) : poisonUnit (k + j) ∈ unitsOf k n := by
  rw [unitsOf, if_neg (by omega), List.mem_eraseDups, List.mem_map]
  refine ⟨(k + j) / 32 - k / 32, ?_, ?_⟩
  · rw [List.mem_range]
    omega
  · rw [← poisonUnit_aligned (k + j)]
    congr 1
    omega

theorem mem_foldl_insert (u : Nat) : ∀ (l p : List Nat),
    u ∈ l.foldl (fun p u => if p.contains u then p else u :: p) p ↔ u ∈ p ∨ u ∈ l
  | [], p => by simp
  | v :: l, p => by
    rw [List.foldl_cons, mem_foldl_insert u l]
    split
    · rename_i hv
      have hv : v ∈ p := by simpa using hv
      grind
    · grind

/-- A poisoned write poisons every unit that it touches (R155). -/
theorem poisonUnit_mem_poisonAfter (poison : List Nat) {k n j : Nat} (hj : j < n) :
    poisonUnit (k + j) ∈ poisonAfter poison k n true := by
  rw [poisonAfter, if_pos rfl, mem_foldl_insert]
  exact .inr (poisonUnit_mem_unitsOf hj)

/-- A poisoned write cleans no unit. -/
theorem mem_poisonAfter_of_mem {poison : List Nat} {u : Nat} (k n : Nat) (hu : u ∈ poison) :
    u ∈ poisonAfter poison k n true := by
  rw [poisonAfter, if_pos rfl, mem_foldl_insert]
  exact .inl hu

/-! ### Replies to a packet -/

/-- Traffic leaves over this device's route to another one; where there is none, nothing leaves. -/
def State.respond (s : State) (dev : Nat) (out : Nat × Nat → LinkOut) : State :=
  { s with linkOut := s.linkOut ++ ((Table.find s.routes dev).map out).toList }

theorem answerTo_eq_respond (s : State) (p : SpanPkt) (bytes : List Byte) (bad : Bool) :
    s.answerTo p bytes bad = s.respond p.src (fun e => .answer e.1 e.2 p.src s.ownDev p.tag bytes bad) := by
  unfold State.answerTo State.respond
  cases Table.find s.routes p.src with
  | none => simp only [Option.map_none, Option.toList_none, List.append_nil]
  | some e => rfl

theorem refuseTo_eq_respond (s : State) (p : SpanPkt) (cause : Nat) :
    s.refuseTo p cause = s.respond p.src (fun e => .refusal e.1 e.2 p.src s.ownDev p.tag cause) := by
  unfold State.refuseTo State.respond
  cases Table.find s.routes p.src with
  | none => simp only [Option.map_none, Option.toList_none, List.append_nil]
  | some e => rfl

/-! ### The fate of a packet -/

/-- The bytes that a packet is answered with. -/
def answeredBytes : SpanOp → Nat
  | .load n => n
  | .atomic _ n _ _ => n
  | _ => 0

theorem answered_eq (op : SpanOp) : (if readsSpan op then spanBytes op else 0) = answeredBytes op := by
  cases op <;> rfl

/-- A packet that writes bytes of an object that a launch holds (R74). -/
def State.heldBars (s : State) (k : Nat) (op : SpanOp) : Bool :=
  match op with
  | .load _ => false
  | _ => s.touchesHeld k (spanBytes op)

theorem heldBars_iff {s : State} {k : Nat} {op : SpanOp} :
    s.heldBars k op = true ↔ (∀ n, op ≠ .load n) ∧ s.touchesHeld k (spanBytes op) = true := by
  cases op <;> simp [State.heldBars]

/-- A packet for slab bytes that this device does not serve: the bytes reach a system area (R127), or the packet writes and
they touch an object that a launch holds (R74). -/
def State.barsPacket (s : State) (k : Nat) (op : SpanOp) : Prop :=
  slabRangeFree k (spanBytes op) = false ∨ ((∀ n, op ≠ .load n) ∧ s.touchesHeld k (spanBytes op) = true)

theorem packetFate_of_owned {s : State} {k : Nat} {op : SpanOp} (h : s.handleBars none k (spanBytes op) = true) :
    s.packetFate k op = .refused causeHANDLE := by
  simp only [State.packetFate, h, if_true]

theorem packetFate_of_slab {s : State} {k : Nat} {op : SpanOp} (h : s.handleBars none k (spanBytes op) = false)
    (hk : isSlabKey k = true) :
    (s.barsPacket k op → s.packetFate k op = .refused causeSLAB) ∧
    (¬ s.barsPacket k op → s.packetFate k op = .served) := by
  have hfate : s.packetFate k op =
      if slabRangeFree k (spanBytes op) && !s.heldBars k op then .served else .refused causeSLAB := by
    cases op <;> simp only [State.packetFate, State.heldBars, h, hk, Bool.false_eq_true, if_false, if_true] <;> rfl
  rw [hfate, State.barsPacket, ← heldBars_iff]
  cases slabRangeFree k (spanBytes op) <;> cases s.heldBars k op <;> simp

theorem packetFate_of_hbm {s : State} {k : Nat} {op : SpanOp} (h : s.handleBars none k (spanBytes op) = false)
    (hk : isSlabKey k = false) :
    (hbmValid (k - hbmBase + spanBytes op - 1) = false → s.packetFate k op = .nowhere) ∧
    (hbmValid (k - hbmBase + spanBytes op - 1) = true → s.packetFate k op = .served) := by
  simp only [State.packetFate, h, hk, Bool.false_eq_true, if_false]
  exact ⟨fun hv => by simp only [hv, Bool.false_eq_true, if_false], fun hv => by simp only [hv, if_true]⟩

theorem packetFate_served {s : State} {k : Nat} {op : SpanOp} (h : s.handleBars none k (spanBytes op) = false)
    (hslab : isSlabKey k = true → ¬ s.barsPacket k op)
    (hhbm : isSlabKey k = false → hbmValid (k - hbmBase + spanBytes op - 1) = true) : s.packetFate k op = .served := by
  cases hk : isSlabKey k with
  | true => exact (packetFate_of_slab h hk).2 (hslab hk)
  | false => exact (packetFate_of_hbm h hk).2 (hhbm hk)

/-! ### SPAN_ONE_SIDED_ARRIVAL -/

/-- An answer, or a refusal, leaves on this device's route to the packet's origin. -/
def Replies (s t : State) (p : SpanPkt) (out : Nat × Nat → LinkOut) : Prop :=
  t.linkOut = s.linkOut ++ ((Table.find s.routes p.src).map out).toList

theorem arrival_elsewhere {s : State} {p : SpanPkt} (h : s.devnum ≠ some p.dev) : Stays s (.spanOneSidedArrival p) := by
  show execSpanOneSidedArrival p s = .next s
  rw [execSpanOneSidedArrival, if_pos (by simpa using h)]

/-- A packet that only meets a reply changes what is on the links. -/
theorem answers_respond {s : State} {i : Instr} {p : SpanPkt} {out : Nat × Nat → LinkOut}
    (h : exec i s = .next (s.respond p.src out)) :
    Answers s i (fun t => t = { s with linkOut := t.linkOut } ∧ Replies s t p out) :=
  ⟨_, h, rfl, rfl⟩

section
variable {s : State} {p : SpanPkt} {k : Nat}

theorem arrival_unnamed (hd : s.devnum = some p.dev) (hk : s.packetKey p = none) :
    Answers s (.spanOneSidedArrival p) (fun t => t = { s with linkOut := t.linkOut } ∧
      Replies s t p (fun e => .answer e.1 e.2 p.src s.ownDev p.tag (List.replicate (answeredBytes p.op) 0) false)) := by
  apply answers_respond
  show execSpanOneSidedArrival p s = _
  simp only [execSpanOneSidedArrival, hd, bne_self_eq_false, Bool.false_eq_true, if_false, hk, answered_eq,
    answerTo_eq_respond]

/-- What becomes of a packet whose bytes have a key here. -/
theorem exec_arrival (hd : s.devnum = some p.dev) (hk : s.packetKey p = some k) :
    (s.packetFate k p.op = .nowhere → exec (.spanOneSidedArrival p) s =
      .next (s.answerTo p (List.replicate (answeredBytes p.op) 0) false)) ∧
    (∀ cause, s.packetFate k p.op = .refused cause → exec (.spanOneSidedArrival p) s = .next (s.refuseTo p cause)) ∧
    (s.packetFate k p.op = .served → exec (.spanOneSidedArrival p) s =
      .next ((s.serve k p.op).answerTo p (cellsRead s.mem k (answeredBytes p.op))
        (firstPoison s.poison k (answeredBytes p.op)).isSome)) := by
  have he : exec (.spanOneSidedArrival p) s = execSpanOneSidedArrival p s := rfl
  simp only [he, execSpanOneSidedArrival, hd, bne_self_eq_false, Bool.false_eq_true, if_false, hk, answered_eq]
  exact ⟨fun h => by rw [h], fun cause h => by rw [h], fun h => by rw [h]⟩

theorem arrival_nowhere (hd : s.devnum = some p.dev) (hk : s.packetKey p = some k) (hf : s.packetFate k p.op = .nowhere) :
    Answers s (.spanOneSidedArrival p) (fun t => t = { s with linkOut := t.linkOut } ∧
      Replies s t p (fun e => .answer e.1 e.2 p.src s.ownDev p.tag (List.replicate (answeredBytes p.op) 0) false)) := by
  obtain ⟨hnowhere, -, -⟩ := exec_arrival hd hk
  exact answers_respond (by rw [hnowhere hf, answerTo_eq_respond])

theorem arrival_refused {cause : Nat} (hd : s.devnum = some p.dev) (hk : s.packetKey p = some k)
    (hf : s.packetFate k p.op = .refused cause) :
    Answers s (.spanOneSidedArrival p) (fun t => t = { s with linkOut := t.linkOut } ∧
      Replies s t p (fun e => .refusal e.1 e.2 p.src s.ownDev p.tag cause)) := by
  obtain ⟨-, hrefused, -⟩ := exec_arrival hd hk
  exact answers_respond (by rw [hrefused cause hf, refuseTo_eq_respond])

/-- Doing what a packet asks for leaves the routes, the traffic on the links, and the device's number. -/
theorem serve_links (s : State) (k : Nat) (op : SpanOp) :
    (s.serve k op).routes = s.routes ∧ (s.serve k op).linkOut = s.linkOut ∧ (s.serve k op).devnum = s.devnum := by
  have hstore (bytes : List Byte) (bad : Bool) : (s.homeStore k bytes bad).routes = s.routes ∧
      (s.homeStore k bytes bad).linkOut = s.linkOut ∧ (s.homeStore k bytes bad).devnum = s.devnum := by
    obtain ⟨hroutes, hlinks, hdev, -⟩ := homeStore_links s k bytes bad
    exact ⟨hroutes, hlinks, hdev⟩
  cases op with
  | store bytes bad => exact hstore bytes bad
  | load n => exact ⟨rfl, rfl, rfl⟩
  | atomic code n y expect =>
    simp only [State.serve]
    split
    · exact ⟨rfl, rfl, rfl⟩
    · exact hstore _ _
  | reduce code size bytes => exact hstore _ _

/-- A packet that is served leaves the state of its service, with its answer on the link. -/
theorem arrival_served (hd : s.devnum = some p.dev) (hk : s.packetKey p = some k) (hf : s.packetFate k p.op = .served) :
    Answers s (.spanOneSidedArrival p) (fun t => t = { s.serve k p.op with linkOut := t.linkOut } ∧
      Replies s t p (fun e => .answer e.1 e.2 p.src s.ownDev p.tag (cellsRead s.mem k (answeredBytes p.op))
        (firstPoison s.poison k (answeredBytes p.op)).isSome)) := by
  obtain ⟨-, -, hserved⟩ := exec_arrival hd hk
  obtain ⟨hroutes, hlinks, hdev⟩ := serve_links s k p.op
  refine ⟨_, hserved hf, ?_, ?_⟩
  · rw [answerTo_eq_respond]
    rfl
  · rw [answerTo_eq_respond]
    simp only [Replies, State.respond, State.ownDev, hroutes, hlinks, hdev]

theorem arrival_store {bytes : List Byte} {bad : Bool} (hd : s.devnum = some p.dev) (hk : s.packetKey p = some k)
    (hf : s.packetFate k p.op = .served) (ho : p.op = .store bytes bad) :
    Answers s (.spanOneSidedArrival p) (fun t => Stored s t k bytes ∧
      Replies s t p (fun e => .answer e.1 e.2 p.src s.ownDev p.tag [] false) ∧ SameThreads s t ∧
      (bad = true → ∀ j < bytes.length, poisonUnit (k + j) ∈ t.poison)) := by
  obtain ⟨t, he, ht, hr⟩ := arrival_served hd hk hf
  rw [ho] at ht hr
  refine ⟨t, he, ?_, hr, ?_, ?_⟩
  · rw [ht]
    exact stored_homeStore s k bytes bad
  · rw [ht]
    exact homeStore_sameThreads s k bytes bad
  · rintro rfl j hj
    rw [ht]
    show _ ∈ (s.homeStore k bytes true).poison
    rw [homeStore_poison]
    exact poisonUnit_mem_poisonAfter s.poison hj

theorem arrival_load {n : Nat} (hd : s.devnum = some p.dev) (hk : s.packetKey p = some k)
    (hf : s.packetFate k p.op = .served) (ho : p.op = .load n) :
    Answers s (.spanOneSidedArrival p) (fun t => t = { s with linkOut := t.linkOut } ∧
      Replies s t p (fun e => .answer e.1 e.2 p.src s.ownDev p.tag (cellsRead s.mem k n) (firstPoison s.poison k n).isSome)) := by
  obtain ⟨t, he, ht, hr⟩ := arrival_served hd hk hf
  rw [ho] at ht hr
  exact ⟨t, he, ht, hr⟩

theorem arrival_atomic {code n : Nat} {y expect : Word} (hd : s.devnum = some p.dev) (hk : s.packetKey p = some k)
    (hf : s.packetFate k p.op = .served) (ho : p.op = .atomic code n y expect) :
    Answers s (.spanOneSidedArrival p) (fun t => SameThreads s t ∧
      Replies s t p (fun e => .answer e.1 e.2 p.src s.ownDev p.tag (cellsRead s.mem k n) (firstPoison s.poison k n).isSome) ∧
      ((firstPoison s.poison k n).isSome = true → t.mem = s.mem) ∧
      (firstPoison s.poison k n = none →
        Stored s t k (leBytes n (atomicFn code n (leNat (cellsRead s.mem k n)) y.toNat expect.toNat)))) := by
  obtain ⟨t, he, ht, hr⟩ := arrival_served hd hk hf
  rw [ho] at ht hr
  refine ⟨t, he, ?_⟩
  cases hp : firstPoison s.poison k n with
  | some u =>
    have hs : s.serve k (.atomic code n y expect) = s := by simp only [State.serve, hp, Option.isSome_some, if_true]
    rw [hs] at ht
    refine ⟨?_, hp ▸ hr, fun _ => ?_, fun h => nomatch h⟩
    · rw [ht]
      exact ⟨rfl, rfl⟩
    · rw [ht]
  | none =>
    have hs : s.serve k (.atomic code n y expect) =
        s.homeStore k (leBytes n (atomicFn code n (leNat (cellsRead s.mem k n)) y.toNat expect.toNat)) false := by
      simp only [State.serve, hp, Option.isSome_none, Bool.false_eq_true, if_false]
      rfl
    rw [hs] at ht
    refine ⟨?_, hp ▸ hr, fun h => (by simp at h), fun _ => ?_⟩
    · rw [ht]
      exact homeStore_sameThreads s k _ false
    · rw [ht]
      exact stored_homeStore s k _ false

theorem arrival_reduce {code size : Nat} {bytes : List Byte} (hd : s.devnum = some p.dev) (hk : s.packetKey p = some k)
    (hf : s.packetFate k p.op = .served) (ho : p.op = .reduce code size bytes) :
    Answers s (.spanOneSidedArrival p) (fun t => Stored s t k (redBytes s.mem code size (bytes.length / size) k bytes) ∧
      Replies s t p (fun e => .answer e.1 e.2 p.src s.ownDev p.tag [] false) ∧ SameThreads s t) := by
  obtain ⟨t, he, ht, hr⟩ := arrival_served hd hk hf
  rw [ho] at ht hr
  refine ⟨t, he, ?_, hr, ?_⟩
  · rw [ht]
    exact stored_homeStore s k _ false
  · rw [ht]
    exact homeStore_sameThreads s k _ false

end

/-! ### SPAN_FORWARD -/

/-- Traffic for another device goes on over its route, and traffic for this one, or for a device without a number, stays. -/
theorem forward_passes (s : State) (x : SpanTraffic) :
    ((s.devnum = none ∨ s.devnum = some (trafficDest x)) → Stays s (.spanForward x)) ∧
    ∀ d e, s.devnum = some d → d ≠ trafficDest x → Table.find s.routes (trafficDest x) = some e →
      exec (.spanForward x) s = .next { s with linkOut := s.linkOut ++ [trafficOut e.1 x] } := by
  have he : exec (.spanForward x) s = execSpanForward x s := rfl
  refine ⟨fun h => ?_, fun d e hd hne hr => ?_⟩
  · rw [Stays, he, execSpanForward, if_pos (h.imp_left (by simp [·]))]
  · rw [he, execSpanForward, if_neg (by simp [hd, hne])]
    simp only [hr, Option.map_some, Option.orElse_some, Option.getD_some]

/-- Where the route of traffic is invalid, it turns back to its origin, or stays where there is no route to that either. -/
theorem forward_turns (s : State) {x y : SpanTraffic} (hy : turnBack x = some y) :
    ∀ d, s.devnum = some d → d ≠ trafficDest x → Table.find s.routes (trafficDest x) = none →
      (∀ e, Table.find s.routes (trafficDest y) = some e →
        exec (.spanForward x) s = .next { s with linkOut := s.linkOut ++ [trafficOut e.1 y] }) ∧
      (Table.find s.routes (trafficDest y) = none → Stays s (.spanForward x)) := by
  intro d hd hne hr
  have he : exec (.spanForward x) s = execSpanForward x s := rfl
  rw [Stays, he, execSpanForward, if_neg (by simp [hd, hne])]
  simp only [hr, Option.map_none, Option.orElse_none, hy, Option.bind_some]
  exact ⟨fun e hb => by rw [hb]; rfl, fun hb => by rw [hb]; rfl⟩

/-! ### Fault records, and contexts that are held -/

/-- A request that parks nothing, or an instruction that is still outstanding, waits for a record of its core. -/
theorem postFaults_posts {s : State} (core : Nat) {r : FaultReq}
    (h : r.who = [] ∨ ∃ w ∈ r.who, s.holds w.1 w.2 = true) :
    s.postFaults core [r] = s.onCore core (fun c => { c with faultsWaiting := c.faultsWaiting ++ [r] }) := by
  have hr : (r.who.isEmpty || r.who.any (fun w => s.holds w.1 w.2)) = true := by
    simpa only [Bool.or_eq_true, List.isEmpty_iff, List.any_eq_true] using h
  simp only [State.postFaults, List.filter_cons, hr, if_true, List.filter_nil, List.isEmpty_cons, Bool.false_eq_true,
    if_false]

theorem faultsWaiting_onCore (s : State) (n : Nat) (r : FaultReq) :
    ((s.onCore n (fun c => { c with faultsWaiting := c.faultsWaiting ++ [r] })).core n).faultsWaiting =
      (s.core n).faultsWaiting ++ [r] := by
  rw [core_onCore, if_pos rfl]

theorem ctx?_mapCtx {s : State} {g : Ctx → Ctx} (hg : ∀ c, (g c).id = c.id) (id : CtxId) :
    (s.mapCtx g).ctx? id = (s.ctx? id).map g := by
  simp only [State.ctx?, State.mapCtx_ctxs, List.find?_map, Function.comp_def, hg]

theorem holds_of_mem {s : State} {id : CtxId} {num : Nat} {c : Ctx} {f : Flight} (hc : s.ctx? id = some c)
    (hf : f ∈ c.inflight) (hn : f.num = num) : s.holds id num = true := by
  rw [State.holds, hc, Option.bind_some, Ctx.flight?, List.find?_isSome]
  exact ⟨f, hf, by simp [hn]⟩

/-- Every outstanding instruction of a context changes in its place. -/
def Ctx.onFlights (g : Flight → Flight) (c : Ctx) : Ctx := { c with inflight := c.inflight.map g }

theorem flight?_onFlights {c : Ctx} {num : Nat} {f : Flight} {g : Flight → Flight} (hf : c.flight? num = some f)
    (hg : ∀ f, (g f).num = f.num) : (c.onFlights g).flight? num = some (g f) := by
  rw [Ctx.flight?] at hf
  simp only [Ctx.flight?, Ctx.onFlights, List.find?_map, Function.comp_def, hg, hf, Option.map_some]

/-- The instruction of a number waits for something else. -/
def Flight.toKind (num : Nat) (k : FlightKind) (f : Flight) : Flight := if f.num = num then { f with what := k } else f

theorem toKind_num (num : Nat) (k : FlightKind) (f : Flight) : (f.toKind num k).num = f.num := by
  unfold Flight.toKind
  split <;> rfl

theorem setKind_eq (s : State) (id : CtxId) (num : Nat) (k : FlightKind) :
    s.setKind id num k = s.onCtx id (Ctx.onFlights (Flight.toKind num k)) := rfl

/-- The access of the instruction of a number changes. -/
def Flight.onAccess (num : Nat) (g : Access → Access) (f : Flight) : Flight :=
  if f.num = num then (match f.what with
    | .access a u => { f with what := .access (g a) u }
    | _ => f) else f

theorem onAccess_num (num : Nat) (g : Access → Access) (f : Flight) : (f.onAccess num g).num = f.num := by
  unfold Flight.onAccess
  split
  · split <;> rfl
  · rfl

theorem unask_eq (s : State) (c : Ctx) (f : Flight) : s.unask c f false =
    s.onCtx c.id (Ctx.onFlights (Flight.onAccess f.num (fun a => { a with asked := none }))) := rfl

/-- Instructions of one context change in their places: the others' contexts stay, and each is found as it is now. -/
theorem onFlights_what {s : State} {c : Ctx} {f : Flight} {g : Flight → Flight} (hc : s.ctx? c.id = some c)
    (hf : c.flight? f.num = some f) (hg : ∀ f, (g f).num = f.num) :
    let t := s.onCtx c.id (Ctx.onFlights g)
    OnlyCtx s t c.id ∧ ((t.ctx? c.id).bind (fun x => x.flight? f.num)).map Flight.what = some (g f).what := by
  have hx (other : CtxId) := ctx?_onCtx (s := s) (id := c.id) (g := Ctx.onFlights g) (fun _ => rfl) other
  refine ⟨fun other ho => ?_, ?_⟩
  · rw [hx, if_neg ho]
  · rw [hx, if_pos rfl, hc, Option.map_some, Option.bind_some, flight?_onFlights hf hg, Option.map_some]

/-- In the contexts' list, whose names differ, a context is found under its name. -/
theorem ctx?_of_mem {s : State} {c : Ctx} (hn : (s.ctxs.map Ctx.id).Nodup) (hc : c ∈ s.ctxs) : s.ctx? c.id = some c := by
  cases hx : s.ctx? c.id with
  | none => exact absurd (List.find?_eq_none.mp hx c hc) (by simp)
  | some d =>
    obtain ⟨hd, hid⟩ := State.ctx?_mem hx
    rw [List.inj_on_of_nodup_map hn hd hc hid]

/-! ### What the name of a packet stands for -/

section
variable {s : State} {tag : Nat}

theorem asker_write {q : PendingWrite} (h : s.stores.find? (fun q => q.num == tag && q.sent) = some q) :
    s.asker tag = .write q := by
  simp only [State.asker, h]

theorem asker_access {c : Ctx} {f : Flight} {a : Access} {u : Bool}
    (hq : s.stores.find? (fun q => q.num == tag && q.sent) = none)
    (h : s.ctxs.findSome? (fun c => c.asking tag) = some (c, f, a, u)) : s.asker tag = .access c f a u := by
  simp only [State.asker, hq, h]

theorem asker_copied {e : HodSent} (hq : s.stores.find? (fun q => q.num == tag && q.sent) = none)
    (hc : s.ctxs.findSome? (fun c => c.asking tag) = none)
    (h : s.hodSent.find? (fun e => e.num == tag) = some e) : s.asker tag = .copied e := by
  simp only [State.asker, hq, hc, h]

/-- What asks under a name is an outstanding access of its context. -/
theorem asking_what {c : Ctx} {f : Flight} {a : Access} {u : Bool}
    (h : s.ctxs.findSome? (fun c => c.asking tag) = some (c, f, a, u)) : f.what = .access a u := by
  obtain ⟨d, -, hd⟩ := List.exists_of_findSome?_eq_some h
  obtain ⟨g, -, hg⟩ := List.exists_of_findSome?_eq_some hd
  split at hg
  · split at hg
    · simp only [Option.some.injEq, Prod.mk.injEq] at hg
      obtain ⟨-, rfl, rfl, rfl⟩ := hg
      assumption
    · cases hg
  · cases hg

end

/-! ### SPAN_RETURN_UNREACH -/

theorem return_elsewhere {s : State} {p : SpanPkt} (h : s.devnum ≠ some p.src) : Stays s (.spanReturnUnreach p) := by
  show execSpanReturnUnreach p s = .next s
  rw [execSpanReturnUnreach, if_pos (by simpa using h)]

/-- What a packet that has come back is for, by what its name stands for here. -/
theorem exec_return {s : State} {p : SpanPkt} (hd : s.devnum = some p.src) :
    (∀ q, s.asker p.tag = .write q → exec (.spanReturnUnreach p) s = .next (s.loseWrite q)) ∧
    (∀ c f a u, s.asker p.tag = .access c f a u → c.id.lvl ≠ 0 → exec (.spanReturnUnreach p) s = .next (s.unask c f u)) ∧
    (∀ c f a u, s.asker p.tag = .access c f a u → c.id.lvl = 0 →
      ∃ acc, exec (.spanReturnUnreach p) s = .next (s.loseAccess c f a u acc)) ∧
    (∀ e, s.asker p.tag = .copied e → exec (.spanReturnUnreach p) s = .next (s.lostWrite e)) ∧
    (∀ q, s.asker p.tag = .done q → exec (.spanReturnUnreach p) s = .next (s.unreached q)) := by
  have he : exec (.spanReturnUnreach p) s = execSpanReturnUnreach p s := rfl
  simp only [he, execSpanReturnUnreach, hd, bne_self_eq_false, Bool.false_eq_true, if_false]
  refine ⟨fun q h => ?_, fun c f a u h hl => ?_, fun c f a u h hl => ?_, fun e h => ?_, fun q h => ?_⟩
  · rw [h]
  · rw [h]
    simp only [if_pos hl]
  · rw [h]
    simp only [hl, ne_eq, not_true_eq_false, if_false]
    exact ⟨_, rfl⟩
  · rw [h]
  · rw [h]

/-! #### A write that comes back -/

/-- The contexts that a write stands for at its source, each with the write as an outstanding instruction in its place. -/
def PendingWrite.holdIn (q : PendingWrite) (id : CtxId) (what : FlightKind) (c : Ctx) : Ctx :=
  if c.live && covers id c.id.wg c.id.tix then
    { c with inflight := insertFlight (q.flight c what) (c.inflight.filter (fun f => f.what != .rel q.num)) }
  else c

theorem holdStore_eq (s : State) (q : PendingWrite) (id : CtxId) (what : FlightKind) :
    s.holdStore q id what = s.mapCtx (q.holdIn id what) := rfl

theorem holdIn_id (q : PendingWrite) (id : CtxId) (what : FlightKind) (c : Ctx) : (q.holdIn id what c).id = c.id := by
  unfold PendingWrite.holdIn
  split <;> rfl

theorem holdIn_regs (q : PendingWrite) (id : CtxId) (what : FlightKind) (c : Ctx) : (q.holdIn id what c).regs = c.regs := by
  unfold PendingWrite.holdIn
  split <;> rfl

theorem mem_storers {s : State} {id : CtxId} {c : Ctx} (h : c ∈ s.storers id) :
    c ∈ s.ctxs ∧ (c.live && covers id c.id.wg c.id.tix) = true :=
  List.mem_filter.mp h

/-- The write is outstanding in every context that it stands for. -/
theorem flight_mem_holdIn {s : State} {q : PendingWrite} {id : CtxId} {c : Ctx} (what : FlightKind)
    (h : c ∈ s.storers id) : q.flight c what ∈ (q.holdIn id what c).inflight := by
  rw [PendingWrite.holdIn, if_pos (mem_storers h).2]
  exact List.mem_append_right _ (List.mem_cons_self ..)

/-- What a thread waits for whose write has come back: the write's replay. -/
def PendingWrite.lostKind (q : PendingWrite) (id : CtxId) (bytes : List Byte) : FlightKind :=
  .parked { addr := q.addr, key := q.key, size := bytes.length, op := .store bytes } (id.lvl == 1)

/-- The write waits in its store path for the replay at its first thread. -/
def PendingWrite.lostAt (q : PendingWrite) (c : Ctx) (x : PendingWrite) : PendingWrite :=
  if x.num = q.num then { x with parked := some (c.id, q.num), sent := false } else x

/-- A write that comes back waits at the threads that it stands for, and is recorded with reason UNREACH (log entry 63). -/
theorem loseWrite_eq {s : State} {q : PendingWrite} {id : CtxId} {c : Ctx} {cs : List Ctx} {bytes : List Byte} {bad : Bool}
    (hsrc : q.src = some id) (hop : q.op = .put bytes bad) (hst : s.storers id = c :: cs) (hc : s.ctx? c.id = some c) :
    ∃ r : FaultReq, s.loseWrite q =
      ({ s.mapCtx (q.holdIn id (q.lostKind id bytes)) with stores := s.stores.map (q.lostAt c) } : State).onCore (s.coreOf c)
        (fun k => { k with faultsWaiting := k.faultsWaiting ++ [r] }) ∧
      r.addr = q.addr ∧ r.reason = reasonUNREACH ∧ r.access = accStore ∧ r.level = s.levelOf id.wg q.addr.toNat ∧
      r.who = (c :: cs).map (fun k => (k.id, q.num)) := by
  simp only [State.loseWrite, hsrc, hop, hst, holdStore_eq]
  refine ⟨_, postFaults_posts _ (.inr ⟨(c.id, q.num), List.mem_cons_self .., ?_⟩), rfl, rfl, rfl, rfl, rfl⟩
  have hm : c ∈ s.storers id := by rw [hst]; exact List.mem_cons_self ..
  refine holds_of_mem (c := q.holdIn id (q.lostKind id bytes) c) ?_ (flight_mem_holdIn _ hm) rfl
  show (s.mapCtx (q.holdIn id (q.lostKind id bytes))).ctx? c.id = _
  rw [ctx?_mapCtx (holdIn_id q id _), hc, Option.map_some]

theorem return_write {s : State} {p : SpanPkt} {q : PendingWrite} {id : CtxId} {c : Ctx} {cs : List Ctx} {bytes : List Byte}
    {bad : Bool} (hd : s.devnum = some p.src) (hq : s.stores.find? (fun q => q.num == p.tag && q.sent) = some q)
    (hsrc : q.src = some id) (hop : q.op = .put bytes bad) (hst : s.storers id = c :: cs) (hc : s.ctx? c.id = some c) :
    Answers s (.spanReturnUnreach p) (fun t => t.mem = s.mem ∧ t.teams = s.teams ∧ t.stores = s.stores.map (q.lostAt c) ∧
      ((s.ctxs.map Ctx.id).Nodup → ∀ k ∈ c :: cs, ∃ k', t.ctx? k.id = some k' ∧ k'.regs = k.regs ∧
        ∃ g ∈ k'.inflight, g.num = q.num ∧ g.what = q.lostKind id bytes) ∧
      ∃ r, (t.core (s.coreOf c)).faultsWaiting = (s.core (s.coreOf c)).faultsWaiting ++ [r] ∧ r.addr = q.addr ∧
        r.reason = reasonUNREACH ∧ r.access = accStore ∧ r.level = s.levelOf id.wg q.addr.toNat ∧
        r.who = (c :: cs).map (fun k => (k.id, q.num))) := by
  obtain ⟨r, ht, hr⟩ := loseWrite_eq hsrc hop hst hc
  obtain ⟨hwrite, -, -, -, -⟩ := exec_return hd
  refine ⟨_, hwrite q (asker_write hq), ?_⟩
  rw [ht]
  refine ⟨rfl, rfl, rfl, fun hn k hk => ?_, r, faultsWaiting_onCore _ _ r, hr⟩
  have hk : k ∈ s.storers id := by rw [hst]; exact hk
  refine ⟨q.holdIn id (q.lostKind id bytes) k, ?_, holdIn_regs .., _, flight_mem_holdIn _ hk, rfl, rfl⟩
  show (s.mapCtx (q.holdIn id (q.lostKind id bytes))).ctx? k.id = _
  rw [ctx?_mapCtx (holdIn_id q id _), ctx?_of_mem hn (mem_storers hk).1, Option.map_some]

/-! #### An access that comes back -/

/-- What an instruction waits for whose access has come back: the access's replay. -/
def Access.waiting (a : Access) : FlightKind :=
  .parked { addr := a.addr, key := a.key, size := a.size, op := a.op } false

/-- An access that comes back waits for its replay, and is recorded with reason UNREACH (log entry 63). -/
theorem loseAccess_eq {s : State} {c : Ctx} {f : Flight} (a : Access) (acc : Nat) (hc : s.ctx? c.id = some c)
    (hf : c.flight? f.num = some f) (hr : s.recordless c = true) :
    ∃ r : FaultReq, s.loseAccess c f a false acc =
      (s.setKind c.id f.num a.waiting).onCore (s.coreOf c)
        (fun k => { k with faultsWaiting := k.faultsWaiting ++ [r] }) ∧
      r.addr = a.addr ∧ r.reason = reasonUNREACH ∧ r.level = s.levelOf c.id.wg a.addr.toNat ∧ r.who = [(c.id, f.num)] := by
  simp only [State.loseAccess, State.holders, Bool.false_eq_true, if_false, List.foldl_cons, List.foldl_nil,
    replayDone_none hr, List.map_cons, List.map_nil]
  refine ⟨_, postFaults_posts _ (.inr ⟨(c.id, f.num), List.mem_singleton_self _, ?_⟩), rfl, rfl, rfl, rfl⟩
  obtain ⟨-, hwhat⟩ := onFlights_what hc hf (toKind_num f.num a.waiting)
  rw [← setKind_eq] at hwhat
  show Option.isSome (((s.setKind c.id f.num a.waiting).ctx? c.id).bind (fun x => x.flight? f.num)) = true
  rw [← Option.isSome_map (f := Flight.what), hwhat, Option.isSome_some]

theorem return_access {s : State} {p : SpanPkt} {c : Ctx} {f : Flight} {a : Access} (hd : s.devnum = some p.src)
    (hq : s.stores.find? (fun q => q.num == p.tag && q.sent) = none)
    (ha : s.ctxs.findSome? (fun c => c.asking p.tag) = some (c, f, a, false)) (hc : s.ctx? c.id = some c)
    (hf : c.flight? f.num = some f) (hl : c.id.lvl = 0) (hr : s.recordless c = true) :
    Answers s (.spanReturnUnreach p) (fun t => t.mem = s.mem ∧ t.teams = s.teams ∧ OnlyCtx s t c.id ∧
      ((t.ctx? c.id).bind (fun x => x.flight? f.num)).map Flight.what =
        some (.parked { addr := a.addr, key := a.key, size := a.size, op := a.op } false) ∧
      ∃ r, (t.core (s.coreOf c)).faultsWaiting = (s.core (s.coreOf c)).faultsWaiting ++ [r] ∧ r.addr = a.addr ∧
        r.reason = reasonUNREACH ∧ r.level = s.levelOf c.id.wg a.addr.toNat ∧ r.who = [(c.id, f.num)]) := by
  obtain ⟨-, -, haccess, -, -⟩ := exec_return hd
  obtain ⟨acc, he⟩ := haccess c f a false (asker_access hq ha) hl
  obtain ⟨r, ht, hrec⟩ := loseAccess_eq a acc hc hf hr
  refine ⟨_, he, ?_⟩
  rw [ht]
  obtain ⟨hother, hwhat⟩ := onFlights_what hc hf (toKind_num f.num a.waiting)
  rw [Flight.toKind, if_pos rfl] at hwhat
  exact ⟨rfl, rfl, hother, hwhat, r, faultsWaiting_onCore _ _ r, hrec⟩

/-- An access of a continuation that comes back is to be sent again (R207). -/
theorem return_continuation {s : State} {p : SpanPkt} {c : Ctx} {f : Flight} {a : Access} (hd : s.devnum = some p.src)
    (hq : s.stores.find? (fun q => q.num == p.tag && q.sent) = none)
    (ha : s.ctxs.findSome? (fun c => c.asking p.tag) = some (c, f, a, false)) (hc : s.ctx? c.id = some c)
    (hf : c.flight? f.num = some f) (hl : c.id.lvl ≠ 0) :
    Answers s (.spanReturnUnreach p) (fun t => t = { s with ctxs := t.ctxs } ∧ OnlyCtx s t c.id ∧
      ((t.ctx? c.id).bind (fun x => x.flight? f.num)).map Flight.what = some (.access { a with asked := none } false)) := by
  obtain ⟨-, hcont, -, -, -⟩ := exec_return hd
  refine ⟨_, hcont c f a false (asker_access hq ha) hl, rfl, ?_⟩
  rw [unask_eq]
  obtain ⟨hother, hwhat⟩ := onFlights_what hc hf (onAccess_num f.num (fun a => { a with asked := none }))
  rw [Flight.onAccess, if_pos rfl, asking_what ha] at hwhat
  exact ⟨hother, hwhat⟩

/-! #### A write of an engine that comes back -/

/-- A walk reads memory alone. -/
theorem walkFrom_congr {s t : State} (h : t.mem = s.mem) (addr : Nat) : ∀ fuel table,
    walkFrom t addr fuel table = walkFrom s addr fuel table
  | 0, _ => rfl
  | fuel + 1, table => by
    have hn (k n : Nat) : t.memNat k n = s.memNat k n := by rw [State.memNat, State.memNat, h]
    have ih := walkFrom_congr h addr fuel
    unfold walkFrom
    simp only [hn, ih]

theorem walkLevel_congr {s t : State} (hm : t.mem = s.mem) (hc : t.tlb = s.tlb) (root addr : Nat) :
    t.walkLevel root addr = s.walkLevel root addr := by
  simp only [State.walkLevel, State.leafOf, State.cached, hc, walkFrom_congr hm]

/-- The writes of engines, with one of them to be sent again. -/
def State.loseSent (s : State) (e : HodSent) : State :=
  { s with hodSent := s.hodSent.map (fun x => if x.num = e.num then { x with lost := true } else x) }

theorem lostWrite_of_copy {s : State} {e : HodSent} {x : Running} (he : e.engine = 5)
    (hx : Table.find (s.core e.core).running 5 = some x) (hp : x.parked = false) :
    s.lostWrite e = (s.loseSent e).hodFault e.core x e.addr accEngineWrite reasonUNREACH
      (s.walkLevel (s.recRoot x.rcd) e.addr) := by
  have hx' : Table.find ((s.loseSent e).core e.core).running 5 = some x := hx
  rw [← walkLevel_congr (s := s) (t := s.loseSent e) rfl rfl]
  unfold State.lostWrite
  simp only
  rw [← State.loseSent, hx']
  simp only [Option.filter, he, hp, beq_self_eq_true, Bool.not_false, Bool.and_self, if_true]
  rfl

theorem lostWrite_of_other {s : State} {e : HodSent} (he : e.engine ≠ 5) : s.lostWrite e = s.loseSent e := by
  unfold State.lostWrite
  simp only
  rw [← State.loseSent]
  cases Table.find ((s.loseSent e).core e.core).running 5 <;> simp [Option.filter, he]

/-- The running task of a queue, after it was changed. -/
theorem find_running_map (q : Nat) (g : Running → Running) : ∀ t : Table Running,
    Table.find (t.map (fun e => if e.1 = q then (q, g e.2) else e)) q = (Table.find t q).map g
  | [] => rfl
  | (k, x) :: t => by
    by_cases hk : k = q
    · simp only [List.map_cons, hk, if_true, Table.find, Option.map_some]
    · simp only [List.map_cons, hk, if_false, Table.find, find_running_map q g t]

/-- A copy that stops at a fault parks its task, and a request of its own waits for a record (R143, R175). -/
theorem hodFault_eq (s : State) (core : Nat) (x : Running) (addr acc reason level : Nat) :
    ∃ r : FaultReq, s.hodFault core x addr acc reason level =
      (s.onRunning core 5 (fun x => { x with parked := true })).onCore core (fun k =>
        { k with faultsWaiting := k.faultsWaiting ++ [r] }) ∧
      r.addr = BitVec.ofNat 64 addr ∧ r.reason = reason ∧ r.agent = 2 ∧ r.access = acc ∧ r.level = level ∧ r.hod = true := by
  simp only [State.hodFault]
  exact ⟨_, postFaults_posts core (.inl rfl), rfl, rfl, rfl, rfl, rfl, rfl⟩

theorem return_copy {s : State} {p : SpanPkt} {e : HodSent} {x : Running} (hd : s.devnum = some p.src)
    (hq : s.stores.find? (fun q => q.num == p.tag && q.sent) = none)
    (hc : s.ctxs.findSome? (fun c => c.asking p.tag) = none) (hs : s.hodSent.find? (fun e => e.num == p.tag) = some e)
    (he : e.engine = 5) (hx : Table.find (s.core e.core).running 5 = some x) (hp : x.parked = false) :
    Answers s (.spanReturnUnreach p) (fun t => SameThreads s t ∧ t.mem = s.mem ∧
      (∃ y, Table.find (t.core e.core).running 5 = some y ∧ y.parked = true) ∧ (∃ d ∈ t.hodSent, d.num = e.num ∧ d.lost = true) ∧
      ∃ r, (t.core e.core).faultsWaiting = (s.core e.core).faultsWaiting ++ [r] ∧ r.addr = BitVec.ofNat 64 e.addr ∧
        r.reason = reasonUNREACH ∧ r.agent = 2 ∧ r.access = accEngineWrite ∧
        r.level = s.walkLevel (s.recRoot x.rcd) e.addr ∧ r.hod = true) := by
  obtain ⟨r, ht, hr⟩ := hodFault_eq (s.loseSent e) e.core x e.addr accEngineWrite reasonUNREACH
    (s.walkLevel (s.recRoot x.rcd) e.addr)
  obtain ⟨-, -, -, hcopied, -⟩ := exec_return hd
  refine ⟨_, hcopied e (asker_copied hq hc hs), ?_⟩
  rw [lostWrite_of_copy he hx hp, ht]
  refine ⟨⟨rfl, rfl⟩, rfl, ⟨{ x with parked := true }, ?_, rfl⟩, ⟨{ e with lost := true }, ?_, rfl, rfl⟩, r, ?_, hr⟩
  · rw [core_onCore, if_pos rfl, State.onRunning, core_onCore, if_pos rfl]
    show Table.find (List.map _ (s.core e.core).running) 5 = _
    rw [find_running_map 5 (fun x => { x with parked := true }), hx, Option.map_some]
  · exact List.mem_map.mpr ⟨e, List.mem_of_find?_eq_some hs, if_pos rfl⟩
  · rw [faultsWaiting_onCore, State.onRunning, core_onCore, if_pos rfl]
    rfl

theorem return_engine {s : State} {p : SpanPkt} {e : HodSent} (hd : s.devnum = some p.src)
    (hq : s.stores.find? (fun q => q.num == p.tag && q.sent) = none)
    (hc : s.ctxs.findSome? (fun c => c.asking p.tag) = none) (hs : s.hodSent.find? (fun e => e.num == p.tag) = some e)
    (he : e.engine ≠ 5) :
    Answers s (.spanReturnUnreach p) (fun t => t = { s with hodSent := t.hodSent } ∧
      t.hodSent = s.hodSent.map (fun x => if x.num = e.num then { x with lost := true } else x)) := by
  obtain ⟨-, -, -, hcopied, -⟩ := exec_return hd
  refine ⟨_, hcopied e (asker_copied hq hc hs), ?_⟩
  rw [lostWrite_of_other he]
  exact ⟨rfl, rfl⟩

/-! #### A write that its home has performed -/

theorem return_performed {s : State} {p : SpanPkt} {q : PendingWrite} {id : CtxId} {c : Ctx} {cs : List Ctx}
    (hd : s.devnum = some p.src) (ha : s.asker p.tag = .done q) (hsrc : q.src = some id) (hst : s.storers id = c :: cs) :
    Answers s (.spanReturnUnreach p) (fun t =>
      t = { s with acks := s.acks.filter (fun e => e.num != q.num), cores := t.cores } ∧
      ∃ r, (t.core (s.coreOf c)).faultsWaiting = (s.core (s.coreOf c)).faultsWaiting ++ [r] ∧ r.addr = q.addr ∧
        r.reason = reasonUNREACH ∧ r.access = accStore ∧ r.level = s.levelOf c.id.wg q.addr.toNat ∧ r.who = []) := by
  obtain ⟨-, -, -, -, hdone⟩ := exec_return hd
  refine ⟨_, hdone q ha, ?_⟩
  simp only [State.unreached, hsrc, Option.map_some, Option.getD_some, hst]
  rw [postFaults_posts _ (.inl rfl)]
  exact ⟨rfl, _, faultsWaiting_onCore _ _ _, rfl, rfl, rfl, rfl, rfl⟩

/-! ### SPAN_ACKNOWLEDGEMENT -/

theorem acknowledgement_of_store {s : State} {num : Nat} (h : s.hodSent.find? (fun e => e.num == num && !e.lost) = none) :
    exec (.spanAcknowledgement num) s = .next { s with acks := s.acks.filter (fun e => e.num != num) } := by
  show execSpanAcknowledgement num s = _
  rw [execSpanAcknowledgement, h]

/-- An engine's write stands at its home once it is acknowledged (log entry 83). -/
theorem acknowledgement_of_engine {s : State} {num : Nat} {e : HodSent}
    (h : s.hodSent.find? (fun e => e.num == num && !e.lost) = some e) :
    Answers s (.spanAcknowledgement num) (fun t => t = { s with
        mem := t.mem
        poison := t.poison
        marks := t.marks
        hodSent := s.hodSent.filter (fun x => x.num != e.num) } ∧ Stored s t e.key (homeBytes s.mem e.key e.op)) := by
  have he : exec (.spanAcknowledgement num) s = .next (s.hodStands e) := by
    show execSpanAcknowledgement num s = _
    rw [execSpanAcknowledgement, h]
  refine ⟨_, he, ?_⟩
  rw [State.hodStands, unmark_frame]
  exact ⟨rfl, fun hw a => cellRead_cellsWrite _ hw e.key a⟩

/-! ### The host's window (R266) -/

theorem clerkCount_get (s : State) (kind : Nat) : Table.get (s.clerkCount kind).clerk 0 kind = Table.get s.clerk 0 kind + 1 := by
  rw [State.clerkCount, Table.get, Table.find_set, if_pos rfl, Option.getD_some]

/-- An access that meets a byte of no stack is counted, and nothing else changes. -/
theorem countHole_eq (s : State) (b : Bool) : ∃ l, (if b then s.clerkCount clerkHole else s) = { s with clerk := l } ∧
    Table.get l 0 3 = Table.get s.clerk 0 3 + (if b then 1 else 0) := by
  cases b with
  | false => exact ⟨s.clerk, rfl, rfl⟩
  | true => exact ⟨_, rfl, clerkCount_get s clerkHole⟩

theorem hostMemRead_beyond {s : State} {addr size : Nat} (h : addr + size > 2 ^ 39) : Stays s (.hostMemRead addr size) := by
  show execHostMemRead addr size s = .next s
  rw [execHostMemRead, if_pos (by unfold windowBytes; omega)]

theorem hostMemRead_within {s : State} {addr size : Nat} (h : addr + size ≤ 2 ^ 39) :
    Answers s (.hostMemRead addr size) (fun t => SameThreads s t ∧ t.mem = s.mem ∧
      t.hostData = (List.range size).map (fun i => if hbmValid (addr + i) then cellRead s.mem (hbmBase + addr + i) else 0) ∧
      t.hostPoison = (firstPoison s.poison (hbmBase + addr) size).isSome ∧
      Table.get t.clerk 0 3 = Table.get s.clerk 0 3 + (if holeIn addr size then 1 else 0)) := by
  have he : exec (.hostMemRead addr size) s = execHostMemRead addr size s := rfl
  rw [execHostMemRead, if_neg (by unfold windowBytes; omega)] at he
  refine ⟨_, he, ?_⟩
  simp only
  obtain ⟨l, ht, hl⟩ := countHole_eq { s with
    hostData := (List.range size).map (fun i => if hbmValid (addr + i) then cellRead s.mem (hbmBase + addr + i) else 0)
    hostPoison := (firstPoison s.poison (hbmBase + addr) size).isSome } (holeIn addr size)
  rw [ht]
  exact ⟨⟨rfl, rfl⟩, rfl, rfl, rfl, hl⟩

theorem hostMemWrite_beyond {s : State} {addr : Nat} {bytes : List Byte} {poisoned : Bool} (h : addr + bytes.length > 2 ^ 39) :
    Stays s (.hostMemWrite addr bytes poisoned) := by
  show execHostMemWrite addr bytes poisoned s = .next s
  rw [execHostMemWrite, if_pos (by unfold windowBytes; omega)]

/-- A byte of memory is one of stack i that a host write of n bytes covers. -/
def hostCovers (addr n i a : Nat) : Bool :=
  decide (hbmBase + max addr (i * 2 ^ 36) ≤ a) && decide (a < hbmBase + min (addr + n) (i * 2 ^ 36 + Config.stackBytes))

/-- The bytes of the window that lie in a stack are those of its eight stacks. -/
theorem hostCovers_any {addr n : Nat} (h : addr + n ≤ 2 ^ 39) (a : Nat) :
    (List.range 8).any (fun i => hostCovers addr n i a) = true ↔
      hbmBase + addr ≤ a ∧ a < hbmBase + addr + n ∧ hbmValid (a - hbmBase) = true := by
  simp only [List.any_eq_true, List.mem_range, hostCovers, hbmValid, Bool.and_eq_true, decide_eq_true_eq]
  unfold Config.stackBytes hbmBase
  constructor
  · rintro ⟨i, hi, hlo, hhi⟩
    omega
  · rintro ⟨hlo, hhi, hv, hs⟩
    exact ⟨(a - 2 ^ 64) / 2 ^ 36, by omega, by omega, by omega⟩

/-- The part of a host write for one stack is a write at home of the bytes that fall into it, or nothing. -/
theorem hostPut_cases (addr : Nat) (bytes : List Byte) (poisoned : Bool) (s : State) (i : Nat) :
    (s.hostPut addr bytes poisoned i = s ∧ ∀ a, hostCovers addr bytes.length i a = false) ∨
    ∃ lo part, s.hostPut addr bytes poisoned i = s.homeStore lo part poisoned ∧
      (∀ a, hostCovers addr bytes.length i a = true ↔ lo ≤ a ∧ a < lo + part.length) ∧
      ∀ a, lo ≤ a → a < lo + part.length → part.getD (a - lo) 0 = bytes.getD (a - (hbmBase + addr)) 0 := by
  have hcovers (a : Nat) : hostCovers addr bytes.length i a = true ↔ hbmBase + max addr (i * 2 ^ 36) ≤ a ∧
      a < hbmBase + min (addr + bytes.length) (i * 2 ^ 36 + Config.stackBytes) := by
    rw [hostCovers, Bool.and_eq_true, decide_eq_true_eq, decide_eq_true_eq]
  simp only [State.hostPut]
  generalize hlo : max addr (i * 2 ^ 36) = lo at hcovers ⊢
  generalize hhi : min (addr + bytes.length) (i * 2 ^ 36 + Config.stackBytes) = hi at hcovers ⊢
  by_cases h : lo < hi
  · have hlen : ((bytes.drop (lo - addr)).take (hi - lo)).length = hi - lo := by
      rw [List.length_take, List.length_drop]
      omega
    refine .inr ⟨hbmBase + lo, (bytes.drop (lo - addr)).take (hi - lo), if_pos h, fun a => ?_, fun a ha hb => ?_⟩
    · rw [hcovers, hlen]
      omega
    · rw [hlen] at hb
      rw [List.getD_eq_getElem?_getD, List.getD_eq_getElem?_getD, List.getElem?_take_of_lt (by omega), List.getElem?_drop,
        show lo - addr + (a - (hbmBase + lo)) = a - (hbmBase + addr) by omega]
  · refine .inl ⟨if_neg h, fun a => ?_⟩
    rw [← Bool.not_eq_true, hcovers]
    omega

section
variable {addr : Nat} {bytes : List Byte} {poisoned : Bool}

/-- Every byte after the part of a host write for one stack. -/
theorem hostPut_cellRead {s : State} (h : s.memOk = true) (i a : Nat) :
    cellRead (s.hostPut addr bytes poisoned i).mem a =
      if hostCovers addr bytes.length i a then bytes.getD (a - (hbmBase + addr)) 0 else cellRead s.mem a := by
  rcases hostPut_cases addr bytes poisoned s i with ⟨hs, hnone⟩ | ⟨lo, part, hs, hcov, hpart⟩
  · rw [hs, hnone a, if_neg Bool.false_ne_true]
  · rw [hs, stored_homeStore s lo part poisoned h a]
    by_cases ha : lo ≤ a ∧ a < lo + part.length
    · rw [if_pos ha, if_pos ((hcov a).mpr ha), hpart a ha.1 ha.2]
    · rw [if_neg ha, if_neg (fun hc => ha ((hcov a).mp hc))]

theorem memOk_hostPut {s : State} (h : s.memOk = true) (i : Nat) : (s.hostPut addr bytes poisoned i).memOk = true := by
  rcases hostPut_cases addr bytes poisoned s i with ⟨hs, -⟩ | ⟨lo, part, hs, -, -⟩
  · rwa [hs]
  · rw [hs]
    exact memOk_homeStore s lo part poisoned h

/-- The part of a host write for one stack changes no thread, and nothing that the clerk counts. -/
theorem hostPut_frame (s : State) (i : Nat) :
    SameThreads s (s.hostPut addr bytes poisoned i) ∧ (s.hostPut addr bytes poisoned i).clerk = s.clerk := by
  rcases hostPut_cases addr bytes poisoned s i with ⟨hs, -⟩ | ⟨lo, part, hs, -, -⟩
  · rw [hs]
    exact ⟨⟨rfl, rfl⟩, rfl⟩
  · obtain ⟨-, -, -, hclerk⟩ := homeStore_links s lo part poisoned
    rw [hs]
    exact ⟨homeStore_sameThreads s lo part poisoned, hclerk⟩

/-- A poisoned part of a host write poisons the units of its bytes, and cleans none. -/
theorem hostPut_poison (s : State) (i : Nat) :
    (∀ u ∈ s.poison, u ∈ (s.hostPut addr bytes true i).poison) ∧
    ∀ a, hostCovers addr bytes.length i a = true → poisonUnit a ∈ (s.hostPut addr bytes true i).poison := by
  rcases hostPut_cases addr bytes true s i with ⟨hs, hnone⟩ | ⟨lo, part, hs, hcov, -⟩
  · rw [hs]
    exact ⟨fun _ hu => hu, fun a ha => absurd ha (by rw [hnone a]; exact Bool.false_ne_true)⟩
  · rw [hs, homeStore_poison]
    refine ⟨fun u hu => mem_poisonAfter_of_mem lo _ hu, fun a ha => ?_⟩
    obtain ⟨hlo, hhi⟩ := (hcov a).mp ha
    obtain ⟨j, rfl⟩ := Nat.exists_eq_add_of_le hlo
    exact poisonUnit_mem_poisonAfter s.poison (by omega)

/-- Every byte after the parts of a host write for several stacks. -/
theorem hostPuts_cellRead (a : Nat) : ∀ (l : List Nat) {s : State}, s.memOk = true →
    cellRead (l.foldl (State.hostPut addr bytes poisoned) s).mem a =
      if l.any (fun i => hostCovers addr bytes.length i a) then bytes.getD (a - (hbmBase + addr)) 0 else cellRead s.mem a
  | [], s, _ => rfl
  | i :: l, s, h => by
    rw [List.foldl_cons, hostPuts_cellRead a l (memOk_hostPut h i), hostPut_cellRead h, List.any_cons]
    cases hostCovers addr bytes.length i a <;> simp

theorem hostPuts_frame (l : List Nat) (s : State) :
    let t := l.foldl (State.hostPut addr bytes poisoned) s
    SameThreads s t ∧ t.clerk = s.clerk := by
  refine foldl_inv (fun t => SameThreads s t ∧ t.clerk = s.clerk) _ l ?_ s ⟨⟨rfl, rfl⟩, rfl⟩
  rintro t i ⟨⟨hctxs, hteams⟩, hclerk⟩
  obtain ⟨⟨hctxs', hteams'⟩, hclerk'⟩ := hostPut_frame (addr := addr) (bytes := bytes) (poisoned := poisoned) t i
  exact ⟨⟨hctxs'.trans hctxs, hteams'.trans hteams⟩, hclerk'.trans hclerk⟩

theorem hostPuts_poison {a : Nat} : ∀ (l : List Nat) (s : State),
    (poisonUnit a ∈ s.poison ∨ l.any (fun i => hostCovers addr bytes.length i a) = true) →
      poisonUnit a ∈ (l.foldl (State.hostPut addr bytes true) s).poison
  | [], s, h => by simpa using h
  | i :: l, s, h => by
    rw [List.foldl_cons]
    obtain ⟨hkept, hnew⟩ := hostPut_poison (addr := addr) (bytes := bytes) s i
    rw [List.any_cons, Bool.or_eq_true] at h
    apply hostPuts_poison l
    rcases h with h | h | h
    · exact .inl (hkept _ h)
    · exact .inl (hnew a h)
    · exact .inr h

theorem hostMemWrite_within {s : State} (h : addr + bytes.length ≤ 2 ^ 39) :
    Answers s (.hostMemWrite addr bytes poisoned) (fun t => SameThreads s t ∧
      (s.memOk = true → ∀ a, cellRead t.mem a =
        if hbmBase + addr ≤ a ∧ a < hbmBase + addr + bytes.length ∧ hbmValid (a - hbmBase) = true
        then bytes.getD (a - (hbmBase + addr)) 0 else cellRead s.mem a) ∧
      (poisoned = true → ∀ k < bytes.length, hbmValid (addr + k) = true → poisonUnit (hbmBase + addr + k) ∈ t.poison) ∧
      Table.get t.clerk 0 3 = Table.get s.clerk 0 3 + (if holeIn addr bytes.length then 1 else 0)) := by
  have he : exec (.hostMemWrite addr bytes poisoned) s = execHostMemWrite addr bytes poisoned s := rfl
  rw [execHostMemWrite, if_neg (by unfold windowBytes; omega)] at he
  refine ⟨_, he, ?_⟩
  simp only
  obtain ⟨hsame, hclerk⟩ := hostPuts_frame (addr := addr) (bytes := bytes) (poisoned := poisoned) (List.range 8) s
  obtain ⟨l, ht, hl⟩ := countHole_eq ((List.range 8).foldl (State.hostPut addr bytes poisoned) s) (holeIn addr bytes.length)
  rw [ht]
  refine ⟨hsame, fun hw a => ?_, ?_, by rw [hl, hclerk]⟩
  · show cellRead ((List.range 8).foldl (State.hostPut addr bytes poisoned) s).mem a = _
    rw [hostPuts_cellRead a _ hw]
    simp only [hostCovers_any h]
  · rintro rfl k hk hv
    refine hostPuts_poison _ s (.inr ((hostCovers_any h _).mpr ⟨by omega, by omega, ?_⟩))
    rwa [show hbmBase + addr + k - hbmBase = addr + k by omega]

end

/-! ### The obligation -/

/-- Settles O50 clause by clause: what arrives is served, refused or unnamed by its fate at its key; what is for another device
passes or turns back; what comes back is what its name stands for here; and the host's window is its eight stacks. -/
theorem linksAndHost : Obligations.LinksAndHost := by
  unfold Obligations.LinksAndHost
  refine ⟨fun s p num => ⟨arrival_elsewhere, arrival_unnamed, fun k hd hk => ?arrival, ?forward, return_elsewhere,
    fun q id c cs bytes bad => return_write, fun c f a hd hq ha hc hf => ?access, fun e x => return_copy,
    fun e => return_engine, fun q id c cs => return_performed, acknowledgement_of_store,
    fun e => acknowledgement_of_engine⟩, fun s addr size bytes poisoned => ⟨hostMemRead_beyond, hostMemRead_within,
    hostMemWrite_beyond, hostMemWrite_within⟩⟩
  case arrival =>
    refine ⟨fun ho => arrival_refused hd hk (packetFate_of_owned ho),
      fun ho hslab hb => arrival_refused hd hk ((packetFate_of_slab ho hslab).1 hb),
      fun ho hslab hv => arrival_nowhere hd hk ((packetFate_of_hbm ho hslab).1 hv), fun ho hslab hhbm => ?_⟩
    have hf : s.packetFate k p.op = .served := packetFate_served ho hslab hhbm
    exact ⟨fun _ _ => arrival_store hd hk hf, fun _ => arrival_load hd hk hf, fun _ _ _ _ => arrival_atomic hd hk hf,
      fun _ _ _ => arrival_reduce hd hk hf⟩
  case forward =>
    exact ⟨forward_passes s (.oneSided p), forward_turns s (x := .oneSided p) rfl, forward_passes s (.returned p),
      fun chan dev src tag bytes bad => ⟨forward_passes s (.answer chan dev src tag bytes bad),
        forward_turns s (x := .answer chan dev src tag bytes bad) rfl⟩,
      fun chan dev src tag cause => ⟨forward_passes s (.refusal chan dev src tag cause),
        forward_turns s (x := .refusal chan dev src tag cause) rfl⟩,
      fun dev src m => ⟨forward_passes s (.chunk dev src m), forward_turns s (x := .chunk dev src m) rfl⟩,
      fun chan dev tag => forward_passes s (.returnedAnswer chan dev tag),
      fun dev m => forward_passes s (.returnedChunk dev m)⟩
  case access =>
    exact ⟨return_access hd hq ha hc hf, return_continuation hd hq ha hc hf⟩

end Sys2Proof.Machine
end

section
/-!
PROOF. Where a lane access lies (O10): the statement fails for a handle entry that owns no byte.
-/
namespace Sys2Proof.Machine

/-- A handle entry that workgroup 1 holds and that owns no byte, at offset 1 of its slice. -/
def emptyHandle : Handle := { state := 1, seq := 0, base := 1, len := 0, holder := 1, dst := 0 }

/-- The machine after reset, with that entry in the slab controller of core 0. -/
def emptyHandleState : State :=
  { State.reset with cores := [(0, { Core.init with handles := [(0, emptyHandle)] })] }

/-- A workgroup of the placed launch, which does not hold the entry. -/
def otherWorkgroup : Workgroup := freshWorkgroup 0 1 0 0 0 0 1 0 0

/-- An owned buffer of no byte overlaps nothing, so a load of two bytes around its place goes through. -/
theorem checkAddr_around_emptyHandle :
    emptyHandleState.checkAddr placedLaunch otherWorkgroup 0 0 0x00F00FFF00000000 2 accLoad false = .key (slabKey 0 0) := by
  decide

/-- Refutes O10 in its clause on owned buffers, which names the overlap by off < base + len and base < off + n alone: both hold
of an entry of length 0 strictly inside the access, which touches none of the entry's bytes and does not trap. The statement
speaks of every state; no HTAKE makes such an entry (State.htakeRangeBad). -/
theorem not_accessChecks : ¬ Obligations.AccessChecks := by
  unfold Obligations.AccessChecks
  rintro ⟨-, hslab, -⟩
  obtain ⟨-, -, -, -, -, howned⟩ := hslab emptyHandleState placedLaunch otherWorkgroup 0 2 accLoad 0 0 (by decide) (by decide)
    (by decide) (by decide) (by decide) (by decide)
  have htrap := howned (by decide) (by decide)
    ⟨_, List.mem_singleton_self _, by decide, by decide, by decide⟩
    ⟨(0, emptyHandle), List.mem_singleton_self _, by decide, by decide, by decide, by decide⟩
  rw [show 0x00F00FFF00000000 + 0 * 2 ^ 23 + 0 = 0x00F00FFF00000000 from rfl, checkAddr_around_emptyHandle] at htrap
  exact Verdict.noConfusion htrap

end Sys2Proof.Machine
end

section
/-!
PROOF. A step runs the instruction that its word decodes to (O56): what a thread that is alone on its partition fetches, that
its pipe picks it, and what the issue leaves of the state.
-/
namespace Sys2Proof.Machine

/-! ### The step of an issue -/

theorem step_of_issue {s : State} {ms : List Move} {core part : Nat} {pipe : Pipe} {defer : Bool}
    (h : s.agenda = .issue core part pipe defer :: ms) :
    step s = ({ s with agenda := ms } : State).issue core part pipe defer := by
  rw [step, State.advance, h]
  rfl

theorem step_of_event {s : State} {i : Instr} {ms : List Move} (h : s.agenda = .event i :: ms) :
    step s = exec i { s with
      agenda := ms
      cur := Issue.idle } := by
  rw [step, State.advance, h]
  rfl

section
variable {s t : State} {core part : Nat} {pipe : Pipe} {defer : Bool} {i : Instr}

theorem issue_of_none (h : s.prepare core part pipe defer = (t, none)) : s.issue core part pipe defer = .next t := by
  rw [State.issue, h]

theorem issue_of_some (h : s.prepare core part pipe defer = (t, some i)) (hp : pipe ≠ .uniform) :
    s.issue core part pipe defer = exec i t := by
  rw [State.issue, h]
  simp only [hp, false_and, if_false]
  cases exec i t <;> rfl

theorem issue_uniform {u : State} (h : s.prepare core part .uniform defer = (t, some i)) (hu : exec i t = .next u) :
    s.issue core part .uniform defer =
      .next (if u.nextNum = t.nextNum then (s.tendAll core part).stood core part t.cur.wg t.cur.team else u) := by
  rw [State.issue, h]
  simp only [hu, true_and]

end

/-! ### What a thread fetches -/

/-- A word of its own, without a prefix, as a context at it fetches it. -/
def Ctx.plainFetch (c : Ctx) (w : Code) (what : Option Instr) : Fetched :=
  { start := c.pc, pc := c.pc, pfx := none, warn := 0, word := w, what := what }

theorem fetchFuel_succ : fetchFuel = (2 ^ 62 - 1) + 1 := rfl

section
variable {s : State} {c : Ctx} {w : Code}

theorem fetch_of_instr {i : Instr} (hw : s.codeWord c c.pc = .word w) (hd : decodeWord w = .instr i) :
    s.fetch c = .got (c.plainFetch w (some i)) := by
  rw [State.fetch, fetchFuel_succ, fetchFrom, hw]
  simp only [hd, Ctx.plainFetch]

theorem fetch_of_illegal {why : String} (hw : s.codeWord c c.pc = .word w) (hd : decodeWord w = .illegal why) :
    s.fetch c = .got (c.plainFetch w none) := by
  rw [State.fetch, fetchFuel_succ, fetchFrom, hw]
  simp only [hd, Ctx.plainFetch]

end

/-! ### A thread that is alone on its partition is picked -/

theorem filterMap_range_single {α : Type} (e : α) {k : Nat} : ∀ {n : Nat}, k < n →
    (List.range n).filterMap (fun h => if k = h then some e else none) = [e]
  | 0, h => absurd h (Nat.not_lt_zero k)
  | n + 1, h => by
    rw [List.range_succ, List.filterMap_append]
    rcases Nat.lt_succ_iff_lt_or_eq.mp h with hlt | rfl
    · simp only [filterMap_range_single e hlt, List.filterMap_cons, List.filterMap_nil, if_neg (Nat.ne_of_lt hlt),
        List.append_nil]
    · rw [List.filterMap_eq_nil_iff.mpr (fun a ha => if_neg (Nat.ne_of_gt (List.mem_range.mp ha)))]
      simp only [List.filterMap_cons, List.filterMap_nil, if_true, List.nil_append]

/-- A ready context runs, no halt of it is due, and the instruction lies inside every window. -/
theorem ready_running {s : State} {c : Ctx} {f : Fetched} (h : s.ready c f = true) :
    c.status = .running ∧ c.halting = false ∧ c.windowOk = true := by
  simp only [State.ready, Bool.and_eq_true, Bool.not_eq_true', beq_iff_eq] at h
  obtain ⟨⟨⟨hrun, hhalt⟩, hwin⟩, -⟩ := h
  exact ⟨hrun, hhalt, hwin⟩

section
variable {s : State} {core part : Nat} {pipe : Pipe} {c : Ctx} {f : Fetched}

/-- Tending leaves a ready context with nothing outstanding as it is. -/
theorem tend_of_ready (hc : s.ctx? c.id = some c) (hf : s.fetch c = .got f) (hr : s.ready c f = true)
    (hi : c.inflight = []) : s.tend c.id = s := by
  obtain ⟨hrun, hhalt, -⟩ := ready_running hr
  have hstall : stallsOn c f = false := by
    unfold stallsOn
    rw [hi]
    cases f.what <;> simp
  have htrap : c.trapNow = none := by rw [Ctx.trapNow, hi]
  simp only [State.tend, hc, hrun, hhalt, hf, hstall, htrap, bne_self_eq_false, Bool.false_eq_true, if_false, ite_self]

theorem tendAll_of_ready (hp : s.partCtxs core part = [c]) (hc : s.ctx? c.id = some c) (hf : s.fetch c = .got f)
    (hr : s.ready c f = true) (hi : c.inflight = []) : s.tendAll core part = s := by
  rw [State.tendAll, hp]
  exact tend_of_ready hc hf hr hi

theorem readyNow_alone (hp : s.partCtxs core part = [c]) (hf : s.fetch c = .got f) (hr : s.ready c f = true)
    (hpipe : f.pipe = pipe) (hn : s.issuedNow core part c = false) : s.readyNow core part pipe = [(c, f)] := by
  simp only [State.readyNow, State.readyFor, hp, State.got?, hf, hpipe, hr, List.filterMap_cons, List.filterMap_nil, and_self,
    if_true, List.filter_cons, hn, Bool.not_false, List.filter_nil]

theorem pickPc_alone (s : State) (core part : Nat) (pipe : Pipe) (c : Ctx) (f : Fetched) :
    s.pickPc core part pipe [(c, f)] = some c.pc := by
  unfold State.pickPc
  simp only
  split
  · rename_i p ps hp
    have hm : p ∈ p :: ps := List.mem_cons_self ..
    rw [← hp, List.mem_map] at hm
    obtain ⟨e, he, rfl⟩ := hm
    simp only [List.mem_filter, List.any_cons, List.any_nil, Bool.or_false, Bool.and_eq_true, beq_iff_eq] at he
    rw [← he.2.2]
  · split
    · rename_i p hp
      simp only [overduePc, List.map_cons, List.map_nil, List.filter_cons, List.filter_nil] at hp
      split at hp
      · simpa [firstBy, eq_comm] using hp
      · simp [firstBy] at hp
    · split <;> rfl

/-- The request entries that a ready context takes are free. -/
theorem withEntries_alone (hr : s.ready c f = true) : s.withEntries (s.freeEntries (s.coreOf c)) [(c, f)] = [(c, f)] := by
  rw [State.withEntries, State.withEntries]
  refine if_pos ?_
  cases hw : f.what with
  | none => simp
  | some i =>
    simp only [State.ready, hw, Bool.and_eq_true, Bool.or_eq_true] at hr
    obtain ⟨-, ⟨⟨-, hacts⟩, -⟩, -⟩ := hr
    simp only
    split
    · rename_i ha
      simp only [ha, bne_self_eq_false, Bool.false_eq_true, false_or, Bool.not_eq_true'] at hacts
      simpa [State.requestBars] using hacts.2
    · exact Nat.zero_le _

/-- Of one entry, the home lanes pick that entry. -/
theorem lanes_alone (older : Ctx × Fetched → Ctx × Fetched → Bool) (hl : c.lane < 32) :
    (List.range 32).filterMap (fun h => firstBy older ([(c, f)].filter (fun e => e.1.lane == h))) = [(c, f)] := by
  refine (List.filterMap_congr fun h _ => ?_).trans (filterMap_range_single (c, f) hl)
  by_cases hh : c.lane = h
  · simp only [List.filter_cons, hh, beq_self_eq_true, if_true, List.filter_nil, firstBy]
  · simp only [List.filter_cons, beq_eq_false_iff_ne.mpr hh, Bool.false_eq_true, if_false, List.filter_nil, firstBy, if_neg hh]

theorem courseAt_alone (hr : s.ready c f = true) (hl : c.lane < 32) : s.courseAt [(c, f)] c.pc = [(c, f)] := by
  have hat : [(c, f)].filter (fun e => e.1.pc == c.pc) = [(c, f)] := by
    rw [List.filter_singleton, beq_self_eq_true, cond_true]
  have hsame : [(c, f)].filter (fun x => x.2 == f) = [(c, f)] := by
    rw [List.filter_singleton, beq_self_eq_true, cond_true]
  unfold State.courseAt
  simp only [hat, lanes_alone _ hl, firstBy, hsame]
  exact withEntries_alone hr

theorem pick_alone (hp : s.partCtxs core part = [c]) (hf : s.fetch c = .got f) (hr : s.ready c f = true)
    (hl : c.lane < 32) (hpipe : f.pipe = pipe) (hu : pipe ≠ .uniform) (hn : s.issuedNow core part c = false) :
    s.pick core part pipe = some (f, [c.id], c.id.wg, c.team) := by
  have hnow := readyNow_alone hp hf hr hpipe hn
  cases pipe with
  | uniform => exact absurd rfl hu
  | alu => simp only [State.pick, hnow, pickPc_alone, courseAt_alone hr hl, List.map_cons, List.map_nil]
  | long => simp only [State.pick, hnow, pickPc_alone, courseAt_alone hr hl, List.map_cons, List.map_nil]

end

/-! ### What an issue notes -/

theorem reissued_recordless {s : State} {core : Nat} (h : (s.core core).faultsOut = []) (ids : List CtxId) :
    s.reissued core ids = s := by
  rw [State.reissued, h]
  rfl

theorem stamp_kept (c : Ctx) (pipe : Pipe) (t : Nat) : ∃ alu long uni, c.stamp pipe t =
    { c with lastAlu := alu, lastLong := long, lastUni := uni, passed := 0 } := by
  cases pipe <;> exact ⟨_, _, _, rfl⟩

theorem stamp_id (c : Ctx) (pipe : Pipe) (t : Nat) : (c.stamp pipe t).id = c.id := by
  obtain ⟨_, _, _, h⟩ := stamp_kept c pipe t
  rw [h]

theorem sawIssue_id (c : Ctx) (ids : List CtxId) : (c.sawIssue ids).id = c.id := by
  unfold Ctx.sawIssue
  split <;> rfl

/-- What an issue notes in every context: that others have issued, when it issued itself, that it was passed over. -/
def Ctx.noted (ready ids : List CtxId) (pipe : Pipe) (t : Nat) (c : Ctx) : Ctx :=
  let c := c.sawIssue ids
  if ids.contains c.id then c.stamp pipe t
  else if ready.contains c.id then { c with passed := c.passed + 1 }
  else c

theorem noted_id (ready ids : List CtxId) (pipe : Pipe) (t : Nat) (c : Ctx) : (c.noted ready ids pipe t).id = c.id := by
  simp only [Ctx.noted]
  split
  · rw [stamp_id, sawIssue_id]
  · split <;> exact sawIssue_id c ids

theorem noted_self {c : Ctx} (hrun : c.status = .running) (ready : List CtxId) (pipe : Pipe) (t : Nat) :
    c.noted ready [c.id] pipe t = c.stamp pipe t := by
  have hsaw : c.sawIssue [c.id] = c := by rw [Ctx.sawIssue, hrun]
  simp only [Ctx.noted, hsaw, List.contains_cons, beq_self_eq_true, Bool.true_or, if_true]

/-- An issue ends the stall of the launches of its threads (R61). -/
def Launch.noted (issued : List Nat) (l : Launch) : Launch := if issued.contains l.num then { l with stall := 0 } else l

/-- A launch that an issue notes keeps its number, handler and queue. -/
theorem Launch.noted_kept (issued : List Nat) (l : Launch) :
    (l.noted issued).num = l.num ∧ (l.noted issued).handler = l.handler ∧ (l.noted issued).queue = l.queue := by
  unfold Launch.noted
  split <;> exact ⟨rfl, rfl, rfl⟩

/-- What an issue notes on a core without fault records. -/
theorem noteIssue_frame {s : State} {core : Nat} (h : (s.core core).faultsOut = []) (part : Nat) (pipe : Pipe) (f : Fetched)
    (ready ids : List CtxId) : ∃ (parts : Table Part) (forks : List Fork) (issued : List Nat) (time : Nat),
      s.noteIssue core part pipe f ready ids = { s with
        ctxs := s.ctxs.map (Ctx.noted ready ids pipe time)
        parts := parts
        forks := forks
        launches := s.launches.map (Launch.noted issued) } := by
  refine ⟨(s.noteIssue core part pipe f ready ids).parts, (s.noteIssue core part pipe f ready ids).forks,
    ids.map (fun id => ((s.wg? id.wg).map Workgroup.launch).getD 0), (s.part core part).clock + 1, ?_⟩
  unfold State.noteIssue
  simp only [reissued_recordless h]
  rfl

theorem launch?_map {s t : State} {g : Launch → Launch} (ht : t.launches = s.launches.map g) (hg : ∀ l, (g l).num = l.num)
    (n : Nat) : t.launch? n = (s.launch? n).map g := by
  simp only [State.launch?, ht, List.find?_map, Function.comp_def, hg]

theorem launchOf?_map {s t : State} {g : Launch → Launch} (hw : t.wgs = s.wgs) (ht : t.launches = s.launches.map g)
    (hg : ∀ l, (g l).num = l.num) (wg : Nat) : t.launchOf? wg = (s.launchOf? wg).map g := by
  simp only [State.launchOf?, State.wg?, hw, launch?_map ht hg, Option.map_bind, Function.comp_def]

/-! ### A trap of the word at which a thread stands -/

theorem trace_untraced {s : State} {c : Ctx} {l : Launch} (hl : s.launchOf? c.id.wg = some l)
    (hq : (s.queue l.queue).trace = false) (kind : Nat) (pc : Word) : s.trace c kind pc = s := by
  simp only [State.trace, hl, hq, Bool.not_false, if_true]

/-- The context in its handler, after the trap of the word at which it stood (R242, R243). -/
def Ctx.raised (handler : Word) (cause : Nat) (addr pc : Word) (word : Code) (c : Ctx) : Ctx :=
  (c.goto (pc + 4)).enter handler cause addr pc word

theorem onCtx_onCtx (s : State) (id : CtxId) {g k : Ctx → Ctx} (hg : ∀ c, (g c).id = c.id) :
    (s.onCtx id g).onCtx id k = s.onCtx id (fun c => k (g c)) := by
  simp only [State.onCtx, State.mapCtx, List.map_map]
  congr 1
  apply List.map_congr_left
  intro c _
  by_cases h : c.id = id <;> simp [h, hg]

/-- The trap that waits at the word that issues. -/
def State.trapHere (s : State) (cause : Nat) (addr : Word) : Flight :=
  { num := s.nextNum, look := 0, since := 0, vdst := [], pdst := [], sdst := [], pc := s.cur.pc, word := s.cur.word,
    what := .trap cause addr }

/-- A context goes on with one more instruction outstanding. -/
def Ctx.gotoWith (pc : Word) (f : Flight) (c : Ctx) : Ctx :=
  { c.goto pc with inflight := (c.goto pc).inflight ++ [f] }

/-- A number has been given to an outstanding instruction. -/
def State.numbered (s : State) : State := { s with nextNum := s.nextNum + 1 }

theorem gotoWith_id (pc : Word) (f : Flight) (c : Ctx) : (c.gotoWith pc f).id = c.id := rfl

theorem raise_eq (s : State) (id : CtxId) (cause : Nat) (addr : Word) : s.raise id cause addr =
    (s.numbered.onCtx id (Ctx.gotoWith (s.cur.pc + 4) (s.trapHere cause addr))).settle id := rfl

/-- A running thread whose one outstanding instruction is a trap that is due takes it. -/
theorem settle_takes {s : State} {id : CtxId} {d : Ctx} {f : Flight} {cause : Nat} {addr : Word} (hd : s.ctx? id = some d)
    (hi : d.inflight = [f]) (hrun : d.status = .running) (hlvl : d.id.lvl = 0) (hdue : f.look ≤ f.since)
    (hf : f.what = .trap cause addr) : s.settle id = s.takeTrap id cause addr f.pc f.word := by
  have hnow : d.trapNow = some f := by simp only [Ctx.trapNow, hi, hf, List.all_nil, if_true]
  simp only [State.settle, hd, hnow, hrun, hlvl, hf, ge_iff_le, hdue, decide_true, beq_self_eq_true, Bool.and_self, if_true]

/-- A thread outside its handler takes a trap, where its launch has a handler and no trace. -/
theorem takeTrap_enters {s : State} {id : CtxId} {d : Ctx} {h : Word} (hd : s.ctx? id = some d) (hout : d.inHandler = false)
    (hh : s.handles d h) (cause : Nat) (addr fpc : Word) (word : Code) : s.takeTrap id cause addr fpc word =
      (s.dropParked (fun e => e == id)).onCtx id (fun c => c.enter h cause addr fpc word) := by
  obtain ⟨l, hl, hhandler, htrace⟩ := hh
  obtain ⟨-, rfl⟩ := State.ctx?_mem hd
  simp only [State.takeTrap, hd, hl, hout, Bool.false_eq_true, if_false, hhandler, trace_untraced hl htrace]

/-- A thread outside its handler, with nothing outstanding, traps at the word that issues. -/
theorem raise_enters {s : State} {c : Ctx} {h : Word} (hc : s.ctx? c.id = some c) (ht : c.trappable = true)
    (hh : s.handles c h) (cause : Nat) (addr : Word) :
    s.raise c.id cause addr = (s.numbered.dropParked (fun e => e == c.id)).onCtx c.id
      (Ctx.raised h cause addr s.cur.pc s.cur.word) := by
  simp only [Ctx.trappable, Bool.and_eq_true, List.isEmpty_iff, beq_iff_eq, Bool.not_eq_true'] at ht
  obtain ⟨⟨⟨hi, hrun⟩, hout⟩, hlvl⟩ := ht
  have hid := gotoWith_id (s.cur.pc + 4) (s.trapHere cause addr)
  have hd : (s.numbered.onCtx c.id (Ctx.gotoWith (s.cur.pc + 4) (s.trapHere cause addr))).ctx? c.id =
      some (c.gotoWith (s.cur.pc + 4) (s.trapHere cause addr)) := by
    rw [ctx?_onCtx hid, if_pos rfl, show s.numbered.ctx? c.id = some c from hc, Option.map_some]
  have hdi : (c.gotoWith (s.cur.pc + 4) (s.trapHere cause addr)).inflight = [s.trapHere cause addr] := by
    simp only [Ctx.gotoWith, Ctx.goto, Ctx.tick, hi, List.map_nil, List.nil_append]
  rw [raise_eq, settle_takes hd hdi hrun hlvl (le_refl 0) rfl, takeTrap_enters hd hout hh]
  exact onCtx_onCtx (s.numbered.dropParked (fun e => e == c.id)) c.id hid

/-- What a trap at the word that issues leaves of the state. -/
theorem raise_frame {s : State} {c : Ctx} {h : Word} (hc : s.ctx? c.id = some c) (ht : c.trappable = true)
    (hh : s.handles c h) (cause : Nat) (addr : Word) :
    let t := s.raise c.id cause addr
    t.mem = s.mem ∧ t.teams = s.teams ∧ t.wgs = s.wgs ∧
      t.ctx? c.id = some (c.raised h cause addr s.cur.pc s.cur.word) ∧ OnlyCtx s t c.id := by
  simp only [raise_enters hc ht hh]
  have hx (other : CtxId) := ctx?_onCtx (s := s.numbered.dropParked (fun e => e == c.id)) (id := c.id)
    (g := Ctx.raised h cause addr s.cur.pc s.cur.word) (fun _ => rfl) other
  refine ⟨rfl, rfl, rfl, ?_, fun other ho => ?_⟩
  · rw [hx, if_pos rfl, show (s.numbered.dropParked (fun e => e == c.id)).ctx? c.id = some c from hc, Option.map_some]
  · rw [hx, if_neg ho]
    rfl

/-! ### The issue of a thread that is alone on its partition -/

section
variable {s : State} {core part : Nat} {pipe : Pipe} {c : Ctx} {f : Fetched}

/-- The state in which the instruction of such a thread acts. -/
def State.issuing (s : State) (core part : Nat) (pipe : Pipe) (c : Ctx) (f : Fetched) (defer : Bool) : State :=
  { s.noteIssue core part pipe f [c.id] [c.id] with cur := issueOf core part c.id.wg c.team [c.id] f defer }

theorem prepare_alone (hp : s.partCtxs core part = [c]) (hc : s.ctx? c.id = some c) (hf : s.fetch c = .got f)
    (hr : s.ready c f = true) (hi : c.inflight = []) (hl : c.lane < 32) (hb : (s.part core part).busy pipe = false)
    (hpipe : f.pipe = pipe) (hu : pipe ≠ .uniform) (hn : s.issuedNow core part c = false) (defer : Bool) :
    s.prepare core part pipe defer = (match f.what with
      | some i => (s.issuing core part pipe c f defer, some i)
      | none => ((s.issuing core part pipe c f defer).raise c.id causeILLEGAL 0, none)) := by
  rw [State.prepare, tendAll_of_ready hp hc hf hr hi, State.pickIssue]
  simp only [hb, Bool.false_eq_true, if_false, pick_alone hp hf hr hl hpipe hu hn, readyNow_alone hp hf hr hpipe hn,
    List.map_cons, List.map_nil, List.foldl_cons, List.foldl_nil]
  rfl

/-- The issuing thread itself, as its issue is noted. -/
theorem issuing_frame (hc : s.ctx? c.id = some c) (hrun : c.status = .running) (hq : (s.core core).faultsOut = [])
    (defer : Bool) : let t := s.issuing core part pipe c f defer
    t.mem = s.mem ∧ t.teams = s.teams ∧ t.wgs = s.wgs ∧ t.cur = issueOf core part c.id.wg c.team [c.id] f defer ∧
      (∃ alu long uni, t.ctx? c.id = some { c with lastAlu := alu, lastLong := long, lastUni := uni, passed := 0 }) ∧
      ∀ h, s.handles c h → t.handles c h := by
  obtain ⟨parts, forks, issued, time, hnote⟩ := noteIssue_frame hq part pipe f [c.id] [c.id]
  simp only [State.issuing, hnote]
  refine ⟨trivial, trivial, trivial, trivial, ?_, ?_⟩
  · obtain ⟨alu, long, uni, hstamp⟩ := stamp_kept c pipe time
    refine ⟨alu, long, uni, ?_⟩
    rw [← hstamp, ← noted_self hrun [c.id] pipe time]
    show (s.mapCtx (Ctx.noted [c.id] [c.id] pipe time)).ctx? c.id = _
    rw [ctx?_mapCtx (noted_id _ _ _ _), hc, Option.map_some]
  · rintro h ⟨l, hl, hh, htr⟩
    obtain ⟨-, hhandler, hqueue⟩ := l.noted_kept issued
    have hlaunch (t : State) (hw : t.wgs = s.wgs) (ht : t.launches = s.launches.map (Launch.noted issued)) :
        t.launchOf? c.id.wg = some (l.noted issued) := by
      rw [launchOf?_map hw ht (fun l => (l.noted_kept issued).1), hl, Option.map_some]
    exact ⟨l.noted issued, hlaunch _ rfl rfl, hhandler.trans hh, by rw [hqueue]; exact htr⟩

end

/-- The step of a thread alone on its partition, whose word decodes to an instruction. -/
theorem step_instr_alone {s s0 : State} {ms : List Move} {core part : Nat} {pipe : Pipe} {defer : Bool} {c : Ctx} {f : Fetched}
    {i : Instr} (hs : s.agenda = .issue core part pipe defer :: ms) (h0 : s0 = { s with agenda := ms })
    (hprep : s0.prepare core part pipe defer = (s0.issuing core part pipe c f defer, some i)) (hu : pipe ≠ .uniform)
    (hc : s0.ctx? c.id = some c) (hrun : c.status = .running) (hq : (s0.core core).faultsOut = []) :
    ∃ t, step s = exec i t ∧ t.mem = s.mem ∧ t.teams = s.teams ∧ t.wgs = s.wgs ∧
      t.cur = issueOf core part c.id.wg c.team [c.id] f defer ∧ (t.ctx? c.id).map Ctx.regs = some c.regs ∧
      (t.ctx? c.id).map Ctx.pc = some c.pc := by
  obtain ⟨hmem, hteams, hwgs, hcur, ⟨alu, long, uni, hctx⟩, -⟩ := issuing_frame (f := f) (part := part) (pipe := pipe) hc hrun hq defer
  subst h0
  refine ⟨_, (step_of_issue hs).trans (issue_of_some hprep hu), hmem, hteams, hwgs, hcur, ?_, ?_⟩
  · rw [hctx, Option.map_some]
  · rw [hctx, Option.map_some]

/-- The step of a thread alone on its partition, whose word traps. -/
theorem step_illegal_alone {s s0 : State} {ms : List Move} {core part : Nat} {pipe : Pipe} {defer : Bool} {c : Ctx} {w : Code}
    {h : Word} (hs : s.agenda = .issue core part pipe defer :: ms) (h0 : s0 = { s with agenda := ms })
    (hprep : s0.prepare core part pipe defer =
      ((s0.issuing core part pipe c (c.plainFetch w none) defer).raise c.id causeILLEGAL 0, none))
    (hc : s0.ctx? c.id = some c) (ht : c.trappable = true) (hq : (s0.core core).faultsOut = []) (hh : s0.handles c h) :
    ∃ t d, step s = .next t ∧ t.mem = s.mem ∧ t.teams = s.teams ∧ t.wgs = s.wgs ∧ t.ctx? c.id = some d ∧
      let x := c.trapped c.regs h causeILLEGAL 0 c.pc (c.pc + 4) w
      d.pc = x.pc ∧ d.regs = x.regs ∧ d.shadow = x.shadow ∧ d.inHandler = true ∧ d.inflight = [] := by
  have hrun : c.status = .running := by
    simp only [Ctx.trappable, Bool.and_eq_true, beq_iff_eq] at ht
    exact ht.1.1.2
  obtain ⟨hmem, hteams, hwgs, hcur, ⟨alu, long, uni, hctx⟩, hhandles⟩ :=
    issuing_frame (f := c.plainFetch w none) (part := part) (pipe := pipe) hc hrun hq defer
  obtain ⟨hmem', hteams', hwgs', hctx', -⟩ := raise_frame
    (c := { c with lastAlu := alu, lastLong := long, lastUni := uni, passed := 0 }) hctx ht (hhandles h hh) causeILLEGAL 0
  subst h0
  refine ⟨_, _, (step_of_issue hs).trans (issue_of_none hprep), hmem'.trans hmem, hteams'.trans hteams, hwgs'.trans hwgs,
    hctx', ?_⟩
  rw [hcur]
  exact ⟨rfl, rfl, rfl, rfl, rfl⟩

/-- Settles O56: the picker fetches the word at the thread's program counter, and as nothing stands in its way the issue
runs what the word decodes to; an event of the agenda runs as its instruction by definition. -/
theorem stepRuns : Obligations.StepRuns := by
  intro s ms core part pipe defer
  refine ⟨fun i hs => step_of_event hs, fun hs => ⟨fun t i hp => ⟨?_, ?_, ?_⟩, fun t hp => ?_, ?_, ?_⟩⟩
  · exact fun hu => (step_of_issue hs).trans (issue_of_some hp hu)
  · rintro u rfl hx hne
    rw [step_of_issue hs, issue_uniform hp hx, if_neg hne]
  · rintro u rfl hx heq
    rw [step_of_issue hs, issue_uniform hp hx, if_pos heq]
  · exact (step_of_issue hs).trans (issue_of_none hp)
  · intro c w i f hu hp hc hl hi hb hq hn hw hd hpipe hr
    exact step_instr_alone hs rfl (prepare_alone hp hc (fetch_of_instr hw hd) hr hi hl hb hpipe hu hn defer) hu hc
      (ready_running hr).1 hq
  · intro c w why h f hu hp hc hl hb hq hn hw hd hpipe hr ht hh
    have hi : c.inflight = [] := by
      simp only [Ctx.trappable, Bool.and_eq_true, List.isEmpty_iff] at ht
      exact ht.1.1.1
    exact step_illegal_alone hs rfl (prepare_alone hp hc (fetch_of_illegal hw hd) hr hi hl hb hpipe hu hn defer) hc ht hq hh

end Sys2Proof.Machine
end

section
/-!
PROOF. What writes at home, firings and squashed forks keep: the workgroups but for their tags, barriers and held firings, the
launches but for the tests of their PRODUCERs, the owned buffers, the device number and the dispatcher's clock. The proofs of
O38 to O41 rest on it.
-/
namespace Sys2Proof.Machine

/-- A workgroup but for what a firing changes in it. -/
def Workgroup.still (w : Workgroup) : Workgroup :=
  { w with
    tags := 0
    bars := []
    heldFirings := [] }

/-- A launch but for the tests of its PRODUCER. -/
def Launch.untested (l : Launch) : Launch := { l with tests := [] }

/-- What a step that only writes at home, fires counters or squashes forks keeps. -/
structure Kept (s t : State) : Prop where
  wgs : t.wgs.map Workgroup.still = s.wgs.map Workgroup.still
  launches : t.launches.map Launch.untested = s.launches.map Launch.untested
  handles : ∀ k, (t.core k).handles = (s.core k).handles
  listed : ∀ k, (Table.find s.cores k).isSome = true → (Table.find t.cores k).isSome = true
  devnum : t.devnum = s.devnum
  dcycle : t.dcycle = s.dcycle
  queues : t.queues = s.queues

theorem Kept.refl (s : State) : Kept s s := ⟨rfl, rfl, fun _ => rfl, fun _ h => h, rfl, rfl, rfl⟩

theorem Kept.trans {s t u : State} (h1 : Kept s t) (h2 : Kept t u) : Kept s u :=
  ⟨h2.wgs.trans h1.wgs, h2.launches.trans h1.launches, fun k => (h2.handles k).trans (h1.handles k),
    fun k h => h2.listed k (h1.listed k h), h2.devnum.trans h1.devnum, h2.dcycle.trans h1.dcycle, h2.queues.trans h1.queues⟩

theorem kept_foldl {α : Type} {g : State → α → State} (h : ∀ s a, Kept s (g s a)) (l : List α) (s : State) :
    Kept s (l.foldl g s) :=
  foldl_inv (fun t => Kept s t) g l (fun t a ht => ht.trans (h t a)) s (Kept.refl s)

/-! ### Steps that touch none of it -/

theorem kept_of_same {s t : State} (hw : t.wgs = s.wgs) (hl : t.launches = s.launches) (hc : t.cores = s.cores)
    (hd : t.devnum = s.devnum) (hy : t.dcycle = s.dcycle) (hq : t.queues = s.queues) : Kept s t :=
  ⟨by rw [hw], by rw [hl], fun k => by rw [State.core, hc]; rfl, fun k h => by rw [hc]; exact h, hd, hy, hq⟩

theorem kept_onPart (s : State) (core part : Nat) (g : Part → Part) : Kept s (s.onPart core part g) :=
  kept_of_same rfl rfl rfl rfl rfl rfl

theorem kept_onKeystone (s : State) (ctrl num : Nat) (g : Keystone → Keystone) : Kept s (s.onKeystone ctrl num g) :=
  kept_of_same rfl rfl rfl rfl rfl rfl

theorem kept_onCtx (s : State) (id : CtxId) (g : Ctx → Ctx) : Kept s (s.onCtx id g) := kept_of_same rfl rfl rfl rfl rfl rfl

theorem kept_writeRing (s : State) (core : Nat) (owner : Option Nat) (ring ringN : Nat) (rcd : List Byte) (after : List Nat) :
    Kept s (s.writeRing core owner ring ringN rcd after) := kept_of_same rfl rfl rfl rfl rfl rfl

/-! ### One core, one workgroup -/

theorem kept_onCore (s : State) (n : Nat) {g : Core → Core} (hg : ∀ c, (g c).handles = c.handles) : Kept s (s.onCore n g) := by
  refine ⟨rfl, rfl, fun k => ?_, fun k h => ?_, rfl, rfl, rfl⟩
  · rw [core_onCore]
    split
    · rename_i hk
      rw [hg, hk]
    · rfl
  · rw [State.onCore_cores, Table.find_set]
    split
    · rfl
    · exact h

theorem kept_onWg (s : State) (n : Nat) {g : Workgroup → Workgroup} (hg : ∀ w, (g w).still = w.still) : Kept s (s.onWg n g) := by
  refine ⟨?_, rfl, fun _ => rfl, fun _ h => h, rfl, rfl, rfl⟩
  rw [State.onWg_wgs, List.map_map]
  refine List.map_congr_left (fun w _ => ?_)
  simp only [Function.comp]
  split
  · exact hg w
  · rfl

/-! ### Firings -/

theorem kept_setTag (s : State) (wg t : Nat) : Kept s (s.setTag wg t) := kept_onWg s wg (fun _ => rfl)

theorem kept_numbers (s : State) (num enq : Nat) : Kept s { s with nextNum := num, enqueued := enq } :=
  kept_of_same rfl rfl rfl rfl rfl rfl

theorem kept_enqueue (s : State) (core q : Nat) (r : QRec) : Kept s (s.enqueue core q r) := by
  refine Kept.trans (kept_onCore s core ?_) (kept_numbers _ _ _)
  exact fun _ => rfl

theorem kept_ksAct (s : State) (ctrl num : Nat) (k : Keystone) : Kept s (s.ksAct ctrl num k) := by
  unfold State.ksAct
  split
  · split
    · exact kept_setTag s _ _
    · exact Kept.refl s
  · split
    · exact kept_onWg s _ (fun _ => rfl)
    · exact Kept.refl s
  · split
    · simp only
      split
      · refine Kept.trans (kept_onCore s k.core ?_) (kept_onKeystone _ ctrl num _)
        exact fun _ => rfl
      · exact kept_enqueue s _ _ _
    · exact Kept.refl s
  · exact kept_writeRing s _ _ _ _ _ _

theorem kept_ksAction (s : State) (ctrl num : Nat) (k : Keystone) : Kept s (s.ksAction ctrl num k) := by
  unfold State.ksAction
  split
  · exact kept_onWg s _ (fun _ => rfl)
  · exact kept_ksAct s ctrl num k

theorem kept_ksFire (fuel : Nat) : ∀ (s : State) (ctrl num : Nat), Kept s (s.ksFire ctrl num fuel) := by
  induction fuel with
  | zero => exact fun s _ _ => Kept.refl s
  | succ fuel ih =>
    intro s ctrl num
    unfold State.ksFire
    simp only
    split
    · exact Kept.refl s
    · split
      · exact kept_onKeystone s ctrl num _
      · split
        · exact (kept_ksAction s ctrl num _).trans ((kept_onKeystone _ ctrl num _).trans (ih _ ctrl num))
        · exact (kept_ksAction s ctrl num _).trans (kept_onKeystone _ ctrl num _)

theorem kept_ksCount (s : State) (ctrl num n : Nat) : Kept s (s.ksCount ctrl num n) := by
  unfold State.ksCount
  simp only
  split
  · exact (kept_onKeystone s ctrl num _).trans (kept_ksFire _ _ ctrl num)
  · exact kept_onKeystone s ctrl num _

theorem kept_count (s : State) (key n : Nat) : Kept s (s.count key n) := by
  rw [State.count]
  apply kept_foldl
  intro s e
  apply kept_ksCount

/-! ### Writes at home -/

theorem testStart_untested (s : State) (from_ key n : Nat) (l : Launch) :
    (s.testStart from_ key n l).untested = l.untested := by
  rw [testStart_tests]
  rfl

theorem kept_tests (s : State) {g : Launch → Launch} (hg : ∀ l, (g l).untested = l.untested) :
    Kept s { s with launches := s.launches.map g } := by
  refine ⟨rfl, ?_, fun _ => rfl, fun _ h => h, rfl, rfl, rfl⟩
  rw [List.map_map]
  exact List.map_congr_left (fun l _ => hg l)

theorem kept_testStarts (s : State) (key n : Nat) : Kept s (s.testStarts key n) :=
  kept_tests s (fun l => testStart_untested s _ key n l)

theorem kept_testNow (s : State) (key n : Nat) : Kept s (s.testNow key n) :=
  kept_tests s (fun l => testStart_untested s _ key n l)

theorem kept_homeStore (s : State) (key : Nat) (bytes : List Byte) (poisoned : Bool) : Kept s (s.homeStore key bytes poisoned) := by
  let w : State := { s with mem := cellsWrite s.mem key bytes, poison := poisonAfter s.poison key bytes.length poisoned }
  have hw : Kept s w := kept_of_same rfl rfl rfl rfl rfl rfl
  have hu : Kept w (w.unmark key bytes.length) := by
    rw [unmark_frame]
    exact kept_of_same rfl rfl rfl rfl rfl rfl
  have hn (v : State) : Kept v (v.noteFits key bytes.length) := by
    rw [noteFits_frame]
    exact kept_of_same rfl rfl rfl rfl rfl rfl
  exact (((hw.trans hu).trans (hn _)).trans (kept_testStarts _ _ _)).trans (kept_count _ _ _)

/-! ### Squashed forks -/

theorem kept_trace (s : State) (c : Ctx) (kind : Nat) (pc : Word) : Kept s (s.trace c kind pc) := by
  unfold State.trace
  split
  · exact Kept.refl s
  · simp only
    split
    · exact Kept.refl s
    · split
      · exact Kept.refl s
      · split
        all_goals
          refine (kept_homeStore s _ _ _).trans (Kept.trans (kept_onCore _ _ ?_) (kept_homeStore _ _ _ _))
          exact fun _ => rfl

theorem kept_slotsMoved (s : State) (core part : Nat) (issued : List (Nat × Nat)) : Kept s (s.slotsMoved core part issued) :=
  kept_of_same rfl rfl rfl rfl rfl rfl

theorem kept_closeFork (s : State) (f : Fork) : Kept s (s.closeFork f) := kept_of_same rfl rfl rfl rfl rfl rfl

theorem kept_squashFork (s : State) (f : Fork) : Kept s (s.squashFork f) := by
  unfold State.squashFork
  simp only
  split
  · exact ((kept_trace s _ 6 f.ret).trans ((kept_onPart _ _ _ _).trans (kept_slotsMoved _ _ _ _))).trans (kept_closeFork _ f)
  · exact kept_closeFork s f

theorem kept_collapseFuel (wg tix : Nat) (fuel : Nat) : ∀ s : State, Kept s (s.collapseFuel wg tix fuel) := by
  induction fuel with
  | zero => exact Kept.refl
  | succ fuel ih =>
    intro s
    unfold State.collapseFuel
    split
    · exact Kept.refl s
    · exact ((kept_squashFork s _).trans (kept_onCtx _ _ _)).trans (ih _)

theorem kept_collapseCore (s : State) (core : Nat) : Kept s (s.collapseCore core) := by
  unfold State.collapseCore
  apply kept_foldl
  intro s f
  exact kept_collapseFuel f.wg f.tix 4 s

/-! ### Reading off what is kept -/

section
variable {s t : State}

theorem Kept.wgs_length (h : Kept s t) : t.wgs.length = s.wgs.length := by
  have := congrArg List.length h.wgs
  rwa [List.length_map, List.length_map] at this

theorem launch?_untested (s : State) (n : Nat) : (s.launch? n).map Launch.untested =
    (s.launches.map Launch.untested).find? (fun l => l.num == n) := by
  rw [List.find?_map]
  rfl

theorem Kept.launch? (h : Kept s t) (n : Nat) : (t.launch? n).map Launch.untested = (s.launch? n).map Launch.untested := by
  rw [launch?_untested, launch?_untested, h.launches]

/-- A launch is found again, and only the tests of its PRODUCER may have changed. -/
theorem Kept.find {n : Nat} {l : Launch} (h : Kept s t) (hl : s.launch? n = some l) :
    ∃ l', t.launch? n = some l' ∧ l'.untested = l.untested := by
  have hx := h.launch? n
  rw [hl, Option.map_some, Option.map_eq_some_iff] at hx
  exact hx

end

end Sys2Proof.Machine
end

section
/-!
PROOF. Workgroups are placed on the first core that admits them, with fresh threads (O40).
-/
namespace Sys2Proof.Machine

/-! ### What a placement adds -/

/-- The launch after it has sent a workgroup out. -/
def Launch.sentTo (counter core : Nat) (l : Launch) : Launch :=
  { l with
    sent := l.sent + 1
    counter := counter
    lastCore := core }

theorem sentTo_num (counter core : Nat) (l : Launch) : (l.sentTo counter core).num = l.num := rfl

theorem sendOut_eq (s : State) (l : Launch) : s.sendOut l = l.coreOrder.findSome? (fun core =>
    (s.admitTo core l).map (fun r => (r.2.2.placeWg l core r.1 r.2.1 l.nextVisit.1 l.sent).onLaunch l.num
      (Launch.sentTo l.nextVisit.2 core))) := rfl

section
variable {s : State} {l : Launch}

/-- Threads and teams of a workgroup as they start. -/
def State.freshThreads (s : State) (l : Launch) (core off lin : Nat) : List Ctx :=
  (List.range (32 * l.teams)).map (fun t => freshCtx s.nextWg t l.entry
    (s.slabAddr core (off + l.scratch + (t + 1) * l.stack)) (rngKey l.seed lin t))

def State.freshTeams (s : State) (l : Launch) (seats : List (Nat × Nat)) : List Team :=
  seats.zipIdx.map (fun e => freshTeam s.nextWg e.2 e.1.1 e.1.2 l.startRegs)

/-- The workgroup that a placement adds, on its way to its core. -/
def State.freshGroup (s : State) (l : Launch) (core off lin visit : Nat) : Workgroup :=
  { freshWorkgroup s.nextWg l.num core lin visit s.nextNum l.teams off l.scratchBytes with arriving := true }

theorem placeWg_adds (s : State) (l : Launch) (core : Nat) (seats : List (Nat × Nat)) (off lin visit : Nat) :
    let t := s.placeWg l core seats off lin visit
    t.ctxs = s.ctxs ++ s.freshThreads l core off lin ∧ t.teams = s.teams ++ s.freshTeams l seats ∧
      t.wgs = s.wgs ++ [s.freshGroup l core off lin visit] ∧ t.launches = s.launches := by
  unfold State.placeWg
  simp only
  obtain ⟨cores, h⟩ := flushL1_frame
    { s with
      ctxs := s.ctxs ++ s.freshThreads l core off lin
      teams := s.teams ++ s.freshTeams l seats
      wgs := s.wgs ++ [s.freshGroup l core off lin visit]
      nextWg := s.nextWg + 1
      nextNum := s.nextNum + 1 } core
  simp only [State.freshThreads, State.freshTeams, State.freshGroup] at h ⊢
  rw [h]
  exact ⟨rfl, rfl, rfl, rfl⟩

theorem freshRegs_get (top key : Word) (k : Reg) : (freshRegs top key).get k = if k = 63 then top else 0 := by
  have hk : ((63 : Nat) = k.toNat) ↔ k = 63 := ⟨fun h => BitVec.eq_of_toNat_eq h.symm, fun h => by rw [h]; rfl⟩
  simp only [Regs.get, freshRegs, Vector.getElem_set, Vector.getElem_replicate, hk]

theorem startRegs_get (l : Launch) (wg idx part slot : Nat) (k : Reg) : (freshTeam wg idx part slot l.startRegs).get k =
    if 1 ≤ k.toNat ∧ k.toNat ≤ 15 then BitVec.ofNat 64 (l.arg (k.toNat - 1)) else 0 := by
  have hk : k = 0 ↔ k.toNat = 0 := ⟨fun h => by rw [h]; rfl, fun h => BitVec.eq_of_toNat_eq h⟩
  simp only [Team.get, freshTeam, Launch.startRegs, Vector.getElem_ofFn, hk]
  by_cases h0 : k.toNat = 0
  · simp [h0]
  · by_cases h15 : k.toNat ≤ 15
    · rw [if_neg h0, if_neg (by omega), if_pos (by omega)]
    · rw [if_neg h0, if_pos (by omega), if_neg (by omega)]

/-- Every thread of a fresh workgroup is as R31 says. -/
theorem fresh_thread {core off lin : Nat} {c : Ctx} (hc : c ∈ s.freshThreads l core off lin) :
    c.id.wg = s.nextWg ∧ c.id.lvl = 0 ∧ c.pc = l.entry ∧ c.status = .running ∧ c.inflight = [] ∧ c.inHandler = false ∧
      c.fdepth = 0 ∧ (∀ k : Reg, k ≠ 63 → c.regs.get k = 0) ∧
      c.regs.get 63 = s.slabAddr core (off + l.scratch + (c.id.tix + 1) * l.stack) ∧ c.regs.p = 0 ∧ c.regs.lr = 0 ∧
      c.regs.mode = 0 ∧ c.regs.fflags = 0 ∧ c.regs.warn = 0 ∧ c.regs.bcur = 0 ∧ c.regs.acc = 0 ∧ c.regs.rngc = 0 ∧
      c.regs.rngk.toNat = (l.seed + lin * 0x9E3779B97F4A7C15 + c.id.tix * 0xD1B54A32D192ED03) % 2 ^ 64 := by
  simp only [State.freshThreads, List.mem_map] at hc
  obtain ⟨t, -, rfl⟩ := hc
  refine ⟨rfl, rfl, rfl, rfl, rfl, rfl, rfl, fun k hk => ?_, ?_, rfl, rfl, rfl, rfl, rfl, rfl, rfl, rfl, BitVec.toNat_ofNat _ _⟩
  · exact (freshRegs_get _ _ k).trans (if_neg hk)
  · exact (freshRegs_get _ _ 63).trans (if_pos rfl)

theorem freshThreads_tix (s : State) (l : Launch) (core off lin : Nat) :
    (s.freshThreads l core off lin).map (fun c => c.id.tix) = List.range (32 * l.teams) := by
  rw [State.freshThreads, List.map_map]
  exact List.map_id _

theorem freshTeams_get {seats : List (Nat × Nat)} {u : Team} (hu : u ∈ s.freshTeams l seats) (k : Reg) :
    u.get k = if 1 ≤ k.toNat ∧ k.toNat ≤ 15 then BitVec.ofNat 64 (l.arg (k.toNat - 1)) else 0 := by
  simp only [State.freshTeams, List.mem_map] at hu
  obtain ⟨e, -, rfl⟩ := hu
  exact startRegs_get l _ _ _ _ k

/-! ### The core that a workgroup goes to -/

theorem sendOut_none (h : ∀ k ∈ l.coreOrder, s.admitTo k l = none) : s.sendOut l = none := by
  rw [sendOut_eq, List.findSome?_eq_none_iff]
  intro k hk
  rw [h k hk, Option.map_none]

theorem sendOut_first {before rest : List Nat} {core off : Nat} {seats : List (Nat × Nat)}
    (horder : l.coreOrder = before ++ core :: rest) (hbefore : ∀ k ∈ before, s.admitTo k l = none)
    (hroom : s.room core true l = some (seats, off)) :
    s.sendOut l = some ((s.placeWg l core seats off l.nextVisit.1 l.sent).onLaunch l.num (Launch.sentTo l.nextVisit.2 core)) := by
  have hadmit : s.admitTo core l = some (seats, off, s) := by rw [State.admitTo, hroom]
  rw [sendOut_eq, horder, List.findSome?_append, List.findSome?_eq_none_iff.mpr, Option.none_or, List.findSome?_cons, hadmit]
  · rfl
  · intro k hk
    rw [hbefore k hk, Option.map_none]

/-- A core that admits a workgroup has at most collapsed forks for it. -/
theorem admitTo_kept {core : Nat} {r : List (Nat × Nat) × Nat × State} (h : s.admitTo core l = some r) : Kept s r.2.2 := by
  unfold State.admitTo at h
  split at h
  · cases h
    exact Kept.refl s
  · split at h
    · simp only [Option.map_eq_some_iff] at h
      obtain ⟨r', -, rfl⟩ := h
      exact kept_collapseCore s core
    · cases h

theorem launch?_onLaunch {n : Nat} {g : Launch → Launch} (hl : s.launch? n = some l) (hg : ∀ l, (g l).num = l.num) :
    (s.onLaunch n g).launch? n = some (g l) := by
  have hn : l.num = n := by simpa using List.find?_some hl
  rw [launch?_map (s := s) (g := fun l => if l.num = n then g l else l) rfl, hl, Option.map_some, if_pos hn]
  intro l
  split
  · exact hg l
  · rfl

/-- A launch that sends out a workgroup has one more, and one more sent. -/
theorem sendOut_counts {n : Nat} {t : State} (hl : s.launch? n = some l) (hn : l.num = n) (h : s.sendOut l = some t) :
    t.wgs.length = s.wgs.length + 1 ∧ ∃ m, t.launch? n = some m ∧ m.num = n ∧ m.sent = l.sent + 1 := by
  rw [sendOut_eq] at h
  obtain ⟨core, -, hcore⟩ := List.exists_of_findSome?_eq_some h
  obtain ⟨r, hr, rfl⟩ := Option.map_eq_some_iff.mp hcore
  have hkept := admitTo_kept hr
  obtain ⟨m, hm, hml⟩ := hkept.find hl
  obtain ⟨-, -, hwgs, hlaunches⟩ := placeWg_adds r.2.2 l core r.1 r.2.1 l.nextVisit.1 l.sent
  have hplaced : (r.2.2.placeWg l core r.1 r.2.1 l.nextVisit.1 l.sent).launch? n = some m := by
    rw [State.launch?, hlaunches]
    exact hm
  have hsent : m.untested.sent = l.untested.sent := congrArg Launch.sent hml
  have hnum : m.untested.num = l.untested.num := congrArg Launch.num hml
  refine ⟨?_, Launch.sentTo l.nextVisit.2 core m, ?_, hnum.trans hn, congrArg (· + 1) hsent⟩
  · rw [State.onLaunch_wgs, hwgs, List.length_append, hkept.wgs_length]
    rfl
  · rw [hn]
    exact launch?_onLaunch hplaced (sentTo_num _ _)

theorem sendAll_counts {n : Nat} : ∀ {k : Nat} {s : State} {l : Launch} {t : State}, s.launch? n = some l → l.num = n →
    State.sendAll n k s = some t → t.wgs.length = s.wgs.length + k ∧ (t.launch? n).map Launch.sent = some (l.sent + k)
  | 0, s, l, t, hl, _, h => by
    cases h
    rw [hl]
    exact ⟨rfl, rfl⟩
  | k + 1, s, l, t, hl, hn, h => by
    rw [State.sendAll, hl] at h
    obtain ⟨u, hu, ht⟩ := Option.bind_eq_some_iff.mp h
    obtain ⟨hwgs, m, hm, hmn, hsent⟩ := sendOut_counts hl hn hu
    obtain ⟨hwgs', hsent'⟩ := sendAll_counts hm hmn ht
    rw [hwgs', hwgs, hsent', hsent, Nat.add_right_comm, Nat.add_assoc, Nat.add_right_comm l.sent 1 k, Nat.add_assoc l.sent k 1]
    exact ⟨rfl, rfl⟩

/-! ### The two events -/

theorem exec_dispatch {n : Nat} (hl : s.launch? n = some l) : exec (.workgroupDispatch n) s =
    .next (if !l.coresident && s.maySend l then (s.sendOut l).getD s else s) := by
  show execWorkgroupDispatch n s = _
  rw [execWorkgroupDispatch, hl]

theorem exec_coresident {n : Nat} (hl : s.launch? n = some l) : exec (.coresidentPlacement n) s =
    .next (if l.coresident && l.sent == 0 && s.maySend l then (State.sendAll n l.total s).getD s else s) := by
  show execCoresidentPlacement n s = _
  rw [execCoresidentPlacement, hl]

end

/-- Settles O40: a dispatch finds the first core of the launch's order that admits the workgroup, and a placement adds fresh
threads, teams and the workgroup; a coresident placement repeats it, or leaves the state. -/
theorem placement : Obligations.Placement := by
  intro s n l hl hn
  refine ⟨fun hm => ?_, fun hm hc => ⟨fun hnone => ?_, ?_⟩, fun hm hc hs => ⟨fun hnone => ?_, fun t ht => ?_⟩⟩
  · rw [Stays, Stays, exec_dispatch hl, exec_coresident hl, hm, Bool.and_false, Bool.and_false]
    exact ⟨rfl, rfl⟩
  · rw [Stays, exec_dispatch hl, sendOut_none hnone, Option.getD_none, ite_self]
  · intro before core rest seats off horder hbefore hroom
    obtain ⟨hctxs, hteams, hwgs, hlaunches⟩ := placeWg_adds s l core seats off l.nextVisit.1 l.sent
    have hexec : exec (.workgroupDispatch n) s = .next
        ((s.placeWg l core seats off l.nextVisit.1 l.sent).onLaunch l.num (Launch.sentTo l.nextVisit.2 core)) := by
      rw [exec_dispatch hl, hc, hm, sendOut_first horder hbefore hroom]
      rfl
    refine ⟨_, hexec, ⟨_, hwgs, rfl, hn, rfl, rfl, rfl, rfl, rfl, rfl, rfl⟩,
      ⟨_, hctxs, freshThreads_tix s l core off l.nextVisit.1, fun c h => fresh_thread h⟩, ⟨_, hteams, ?_, fun u => freshTeams_get⟩, ?_⟩
    · rw [State.freshTeams, List.length_map, List.length_zipIdx]
    · rw [hn, launch?_onLaunch (l := l) _ (sentTo_num _ _)]
      · rfl
      · rw [State.launch?, hlaunches]
        exact hl
  · rw [Stays, exec_coresident hl, hnone, Option.getD_none, ite_self]
  · obtain ⟨hwgs, hsent⟩ := sendAll_counts hl hn ht
    rw [hs, Nat.zero_add] at hsent
    refine ⟨?_, hwgs, hsent⟩
    rw [exec_coresident hl, hc, hs, hm, ht]
    rfl

end Sys2Proof.Machine
end

section
/-!
PROOF. What the assay unit's writes of objects do and leave: memory takes the bytes of each object that is not in an owned
buffer, and threads, teams and everything that `Kept` names stay.
-/
namespace Sys2Proof.Machine

/-! ### What is read off a state that is kept -/

section
variable {s t : State}

theorem Kept.handleBars (h : Kept s t) (wg : Option Nat) (k n : Nat) : t.handleBars wg k n = s.handleBars wg k n := by
  rw [State.handleBars, State.handleBars, h.handles]

theorem Kept.localSlab (h : Kept s t) (addr : Nat) : t.localSlab addr = s.localSlab addr := by
  rw [State.localSlab, State.localSlab, State.slabDecode, State.slabDecode, h.devnum]

theorem Kept.slotsOf (h : Kept s t) (l : Launch) : t.slotsOf l = s.slotsOf l := by
  simp only [State.slotsOf, h.localSlab]

end

/-! ### One write -/

theorem crossing_frame (s : State) (g : Core → Core) : ∃ cores, s.crossing g = { s with cores := cores } := by
  unfold State.crossing
  refine foldl_inv (fun t => ∃ cores, t = { s with cores := cores }) _ _ ?_ s ⟨s.cores, rfl⟩
  rintro _ k ⟨cores, rfl⟩
  exact ⟨_, rfl⟩

theorem kept_crossing (s : State) {g : Core → Core} (hg : ∀ c, (g c).handles = c.handles) : Kept s (s.crossing g) :=
  kept_foldl (fun s k => kept_onCore s k hg) _ s

theorem kept_markEvent (s : State) (key n : Nat) : Kept s (s.markEvent key n) := kept_of_same rfl rfl rfl rfl rfl rfl

theorem markEvent_mem (s : State) (key n : Nat) : (s.markEvent key n).mem = s.mem := rfl
theorem testNow_mem (s : State) (key n : Nat) : (s.testNow key n).mem = s.mem := rfl

/-- A core that has yet to see an object's new state. -/
def Core.sawState (key : Nat) (c : Core) : Core := { c with newStates := c.newStates ++ [key] }

theorem sawState_handles (key : Nat) (c : Core) : (c.sawState key).handles = c.handles := rfl

theorem putAssay_eq (s : State) (key : Nat) (a : Assay) : s.putAssay key a = if s.handleBars none key 96 then s
    else (((s.crossing (Core.sawState key)).homeStore key a.bytes false).markEvent key 96).testNow key 96 := rfl

theorem kept_putAssay (s : State) (key : Nat) (a : Assay) : Kept s (s.putAssay key a) := by
  rw [putAssay_eq]
  split
  · exact Kept.refl s
  · exact (((kept_crossing s (sawState_handles key)).trans (kept_homeStore _ key a.bytes false)).trans (kept_markEvent _ key 96)).trans
      (kept_testNow _ key 96)

theorem putAssay_mem (s : State) (key : Nat) (a : Assay) :
    (s.putAssay key a).mem = if s.handleBars none key 96 then s.mem else cellsWrite s.mem key a.bytes := by
  rw [putAssay_eq]
  split
  · rfl
  · obtain ⟨cores, h⟩ := crossing_frame s (Core.sawState key)
    rw [testNow_mem, markEvent_mem, homeStore_mem, h]

/-- What no write at home touches: threads, teams, forks, the meter, and the slots of the queues. -/
structure Aside (s t : State) : Prop where
  ctxs : t.ctxs = s.ctxs
  teams : t.teams = s.teams
  metered : t.metered = s.metered
  slots : t.slots = s.slots

theorem Aside.refl (s : State) : Aside s s := ⟨rfl, rfl, rfl, rfl⟩

theorem Aside.trans {s t u : State} (h1 : Aside s t) (h2 : Aside t u) : Aside s u :=
  ⟨h2.ctxs.trans h1.ctxs, h2.teams.trans h1.teams, h2.metered.trans h1.metered, h2.slots.trans h1.slots⟩

theorem Aside.sameThreads {s t : State} (h : Aside s t) : SameThreads s t := ⟨h.ctxs, h.teams⟩

theorem aside_homeStore (s : State) (key : Nat) (bytes : List Byte) (poisoned : Bool) :
    Aside s (s.homeStore key bytes poisoned) := by
  obtain ⟨u, ⟨v, hu⟩, hf⟩ := homeStore_frame s key bytes poisoned
  rw [hf, hu]
  exact ⟨rfl, rfl, rfl, rfl⟩

theorem aside_crossing (s : State) (g : Core → Core) : Aside s (s.crossing g) := by
  obtain ⟨cores, h⟩ := crossing_frame s g
  rw [h]
  exact ⟨rfl, rfl, rfl, rfl⟩

theorem aside_markEvent (s : State) (key n : Nat) : Aside s (s.markEvent key n) := ⟨rfl, rfl, rfl, rfl⟩
theorem aside_testNow (s : State) (key n : Nat) : Aside s (s.testNow key n) := ⟨rfl, rfl, rfl, rfl⟩

theorem aside_putAssay (s : State) (key : Nat) (a : Assay) : Aside s (s.putAssay key a) := by
  rw [putAssay_eq]
  split
  · exact Aside.refl s
  · exact (((aside_crossing s _).trans (aside_homeStore _ key a.bytes false)).trans (aside_markEvent _ key 96)).trans
      (aside_testNow _ key 96)

/-! ### Writes of several objects -/

/-- The writes of objects one after another, each as a function of the object that stands at its key. -/
def State.putEach (s : State) (slots : List (Nat × Nat)) (g : Nat → Assay → Assay) : State :=
  slots.foldl (fun s e => s.putAssay e.2 (g e.1 (s.assayAt e.2))) s

theorem openSlots_eq (s : State) (l : Launch) : s.openSlots l = s.putEach (s.slotsOf l) (fun _ a => a.opened l) := rfl

/-- The part of a sample that a slot takes. -/
def Sample.into (x : Sample) (l : Launch) (k : Nat) (a : Assay) : Assay :=
  a.commit (x.values.getD k 0).toNat (x.nans.getD k false || l.nanSlots.contains k) x.gmin x.gmax l.sent

theorem commitSlots_eq (s : State) (l : Launch) (x : Sample) : s.commitSlots l x = s.putEach (s.slotsOf l) (x.into l) := rfl

theorem kept_putEach (s : State) (slots : List (Nat × Nat)) (g : Nat → Assay → Assay) : Kept s (s.putEach slots g) := by
  unfold State.putEach
  apply kept_foldl
  intro s e
  apply kept_putAssay

theorem aside_putEach (s : State) (slots : List (Nat × Nat)) (g : Nat → Assay → Assay) : Aside s (s.putEach slots g) :=
  foldl_inv (fun t => Aside s t) _ slots (fun t e h => h.trans (aside_putAssay t e.2 _)) s (Aside.refl s)

/-- Two states with the same memory and the same owned buffers agree on what the writes leave in memory. -/
theorem putEach_mem_congr (g : Nat → Assay → Assay) : ∀ {slots : List (Nat × Nat)} {s t : State}, s.mem = t.mem →
    (∀ k, s.handleBars none k 96 = t.handleBars none k 96) → (s.putEach slots g).mem = (t.putEach slots g).mem
  | [], _, _, hm, _ => hm
  | e :: slots, s, t, hm, hb => by
    have hat : s.assayAt e.2 = t.assayAt e.2 := by rw [State.assayAt, State.assayAt, hm]
    refine putEach_mem_congr g (slots := slots) ?_ (fun k => ?_)
    · rw [putAssay_mem, putAssay_mem, hb, hm, hat]
    · rw [(kept_putAssay s e.2 _).handleBars, (kept_putAssay t e.2 _).handleBars, hb]

end Sys2Proof.Machine
end

section
/-!
PROOF. Deadline and energy rules: a commit of the cycle goes first, and a launch that is still running then stops (O41).
-/
namespace Sys2Proof.Machine

/-! ### Lists of launches -/

/-- Two lists are related place by place where a number of the second is a function of the first. -/
theorem each_of_map {α β : Type} {g : α → β} {k : α → β} : ∀ {l l' : List α}, l'.map g = l.map k →
    Each (fun a b => g b = k a) l l'
  | [], [], _ => trivial
  | [], b :: bs, h => by cases h
  | a :: as, [], h => by cases h
  | a :: as, b :: bs, h => by
    rw [List.map_cons, List.map_cons, List.cons.injEq] at h
    exact ⟨h.1, each_of_map h.2⟩

theorem map_onLaunch (s : State) (n : Nat) {α : Type} {k : Launch → α} {g : Launch → Launch} (hg : ∀ l, k (g l) = k l) :
    (s.onLaunch n g).launches.map k = s.launches.map k := by
  rw [State.onLaunch_launches, List.map_map]
  refine List.map_congr_left (fun l _ => ?_)
  simp only [Function.comp]
  split
  · exact hg l
  · rfl

theorem aside_onLaunch (s : State) (n : Nat) (g : Launch → Launch) : Aside s (s.onLaunch n g) := ⟨rfl, rfl, rfl, rfl⟩

/-! ### What a commit and a stop keep of a launch -/

/-- A launch but for its samples, its window and its stop. -/
def Launch.lasting (l : Launch) : Launch :=
  { l with
    committed := 0
    discarded := 0
    samples := []
    lastCommit := 0
    nanSlots := []
    stop := none
    tests := [] }

theorem cutSamples_lasting (l : Launch) : l.cutSamples.lasting = l.lasting := by
  unfold Launch.cutSamples
  split <;> rfl

theorem cutSamples_stop (l : Launch) : l.cutSamples.stop = l.stop := by
  unfold Launch.cutSamples
  split <;> rfl

theorem cutSamples_lastCommit (l : Launch) : l.cutSamples.lastCommit = l.lastCommit := by
  unfold Launch.cutSamples
  split <;> rfl

theorem stopFor_lasting (l : Launch) (reason cycle : Nat) : (l.stopFor reason cycle).lasting = l.lasting :=
  cutSamples_lasting _

theorem stopFor_stop (l : Launch) (reason cycle : Nat) : (l.stopFor reason cycle).stop = some reason := cutSamples_stop _

theorem afterCommit_lasting (l : Launch) (x : Sample) (cycle : Nat) (width : Bool) :
    (l.afterCommit x cycle width).lasting = l.lasting := cutSamples_lasting _

/-- The stop that a commit leaves (R83, R86). -/
theorem afterCommit_stop (l : Launch) (x : Sample) (cycle : Nat) (width : Bool) :
    (l.afterCommit x cycle width).stop = (match l.stop with
      | some r => some r
      | none => if l.committed + 1 = l.total then some 4 else if width then some 1 else none) := cutSamples_stop _

theorem num_of_lasting {l m : Launch} (h : m.lasting = l.lasting) : m.num = l.num := by
  have hn : m.lasting.num = l.lasting.num := congrArg Launch.num h
  exact hn

/-- Of two launches that differ in samples, window and stop only, each that has no stop is open or not as the other. -/
theorem open_of_lasting {l m : Launch} (h : m.lasting = l.lasting) (ho : l.open_ = true) : m.open_ = m.stop.isNone := by
  have hp : m.lasting.phase = l.lasting.phase := congrArg Launch.phase h
  have hs : m.lasting.status = l.lasting.status := congrArg Launch.status h
  simp only [Launch.open_, Bool.and_eq_true] at ho
  obtain ⟨⟨hphase, hstatus⟩, -⟩ := ho
  rw [Launch.open_, show m.phase = l.phase from hp, show m.status = l.status from hs, hphase, hstatus, Bool.true_and,
    Bool.true_and]

/-! ### Rules as functions of the state -/

/-- A launch that a rule would stop, if it still runs. -/
def Launch.ruled (reason cycle : Nat) (l : Launch) : Launch := if l.open_ then l.stopFor reason cycle else l

theorem ruled_lasting (reason cycle : Nat) (l : Launch) : (l.ruled reason cycle).lasting = l.lasting := by
  unfold Launch.ruled
  split
  · exact stopFor_lasting l reason cycle
  · rfl

theorem ruled_num (reason cycle : Nat) (l : Launch) : (l.ruled reason cycle).num = l.num :=
  num_of_lasting (ruled_lasting reason cycle l)

/-- The stop of a launch that may be stopped: the reason that stands, else the rule's. -/
theorem ruled_stop {reason cycle : Nat} {l : Launch} (ho : l.open_ = l.stop.isNone) :
    (l.ruled reason cycle).stop = some (l.stop.getD reason) := by
  unfold Launch.ruled
  cases hs : l.stop with
  | none => rw [if_pos (by rw [ho, hs]; rfl), stopFor_stop]; rfl
  | some r => rw [if_neg (by rw [ho, hs]; exact Bool.false_ne_true), hs]; rfl

theorem ruleStops_eq (s : State) (n reason : Nat) :
    s.ruleStops n reason = (s.commitDue n).onLaunch n (Launch.ruled reason (s.commitDue n).dcycle) := rfl

/-- What the rules keep: threads, teams, the meter, and the launches but for samples, windows and stops. -/
structure Ruled (s t : State) : Prop where
  aside : Aside s t
  dcycle : t.dcycle = s.dcycle
  launches : t.launches.map Launch.lasting = s.launches.map Launch.lasting

theorem Ruled.refl (s : State) : Ruled s s := ⟨Aside.refl s, rfl, rfl⟩

theorem Ruled.trans {s t u : State} (h1 : Ruled s t) (h2 : Ruled t u) : Ruled s u :=
  ⟨h1.aside.trans h2.aside, h2.dcycle.trans h1.dcycle, h2.launches.trans h1.launches⟩

theorem ruled_onLaunch (s : State) (n : Nat) {g : Launch → Launch} (hg : ∀ l, (g l).lasting = l.lasting) :
    Ruled s (s.onLaunch n g) := ⟨aside_onLaunch s n g, rfl, map_onLaunch s n hg⟩

theorem ruled_putEach (s : State) (slots : List (Nat × Nat)) (g : Nat → Assay → Assay) : Ruled s (s.putEach slots g) := by
  have hk := kept_putEach s slots g
  refine ⟨aside_putEach s slots g, hk.dcycle, ?_⟩
  have h := congrArg (List.map Launch.lasting) hk.launches
  rwa [List.map_map, List.map_map] at h

/-- The commit of a sample that may commit. -/
theorem commitDue_some {s : State} {n : Nat} {l : Launch} {x : Sample} (hl : s.launch? n = some l)
    (hx : s.nextSample l = some x) : s.commitDue n = (s.commitSlots l x).onLaunch n (fun m =>
      m.afterCommit x s.dcycle ((s.commitSlots l x).widthStops l)) := by
  have hd : (s.commitSlots l x).dcycle = s.dcycle := by
    rw [commitSlots_eq]
    exact (kept_putEach s _ _).dcycle
  simp only [State.commitDue, hl, hx, hd]

theorem commitDue_none {s : State} {n : Nat} (h : ∀ l, s.launch? n = some l → s.nextSample l = none) : s.commitDue n = s := by
  unfold State.commitDue
  split
  · rfl
  · rename_i l hl
    rw [h l hl]

theorem commitDue_waits {s : State} {n : Nat} {l : Launch} (hl : s.launch? n = some l) (hx : s.nextSample l = none) :
    s.commitDue n = s := by
  refine commitDue_none (fun m h => ?_)
  rw [hl] at h
  cases h
  exact hx

theorem ruled_commitDue (s : State) (n : Nat) : Ruled s (s.commitDue n) := by
  cases hl : s.launch? n with
  | none =>
    rw [commitDue_none (fun l h => by rw [hl] at h; cases h)]
    exact Ruled.refl s
  | some l =>
    cases hx : s.nextSample l with
    | none =>
      rw [commitDue_waits hl hx]
      exact Ruled.refl s
    | some x =>
      rw [commitDue_some hl hx, commitSlots_eq]
      exact (ruled_putEach s _ _).trans (ruled_onLaunch _ n (fun m => afterCommit_lasting m _ _ _))

theorem ruled_ruleStops (s : State) (n reason : Nat) : Ruled s (s.ruleStops n reason) := by
  rw [ruleStops_eq]
  exact (ruled_commitDue s n).trans (ruled_onLaunch _ n (ruled_lasting reason _))

theorem ruled_checkDeadline (s : State) (n : Nat) : Ruled s (s.checkDeadline n) := by
  unfold State.checkDeadline
  split
  · split
    · exact ruled_ruleStops s n 2
    · exact Ruled.refl s
  · exact Ruled.refl s

theorem ruled_checkEnergy (s : State) (n : Nat) : Ruled s (s.checkEnergy n) := by
  unfold State.checkEnergy
  split
  · split
    · exact (ruled_checkDeadline s n).trans (ruled_ruleStops _ n 3)
    · exact Ruled.refl s
  · exact Ruled.refl s

/-- A launch is found again after the rules, and differs in samples, window and stop only. -/
theorem Ruled.find {s t : State} {n : Nat} {l : Launch} (h : Ruled s t) (hl : s.launch? n = some l) :
    ∃ m, t.launch? n = some m ∧ m.lasting = l.lasting := by
  have hfind (v : State) : (v.launch? n).map Launch.lasting = (v.launches.map Launch.lasting).find? (fun l => l.num == n) := by
    rw [List.find?_map]
    rfl
  have hx : (t.launch? n).map Launch.lasting = (s.launch? n).map Launch.lasting := by rw [hfind, hfind, h.launches]
  rw [hl, Option.map_some, Option.map_eq_some_iff] at hx
  exact hx

/-! ### A rule that fires -/

section
variable {s : State} {n : Nat} {l : Launch}

theorem ruleStops_mem (s : State) (n reason : Nat) : (s.ruleStops n reason).mem = (s.commitDue n).mem := rfl

/-- A rule stops an open launch for its reason, unless the commit of the cycle has stopped it. -/
theorem ruleStops_stop {reason : Nat} (hl : s.launch? n = some l) (ho : l.open_ = true) :
    ((s.ruleStops n reason).launch? n).map Launch.stop =
      ((s.commitDue n).launch? n).map (fun m => some (m.stop.getD reason)) := by
  obtain ⟨m, hm, hml⟩ := (ruled_commitDue s n).find hl
  rw [ruleStops_eq, launch?_onLaunch hm (ruled_num _ _), hm, Option.map_some, Option.map_some,
    ruled_stop (open_of_lasting hml ho)]

theorem exec_assayCommit (s : State) (n : Nat) : exec (.assayCommit n) s = .next (s.commitDue n) := rfl

/-- A rule fires at its own event: threads stay, and the commit of the cycle gives the memory. -/
theorem ruleStops_answers {reason : Nat} (hl : s.launch? n = some l) (ho : l.open_ = true) :
    let t := s.ruleStops n reason
    SameThreads s t ∧ (s.nextSample l = none → t.mem = s.mem ∧ (t.launch? n).map Launch.stop = some (some reason)) ∧
      ∀ u, exec (.assayCommit n) s = .next u → t.mem = u.mem ∧
        (t.launch? n).map Launch.stop = (u.launch? n).map (fun m => some (m.stop.getD reason)) := by
  refine ⟨(ruled_ruleStops s n reason).aside.sameThreads, fun hx => ?_, fun u hu => ?_⟩
  · have hsame : s.commitDue n = s := commitDue_waits hl hx
    have hstop : l.stop = none := by
      simp only [Launch.open_, Bool.and_eq_true, Option.isNone_iff_eq_none] at ho
      exact ho.2
    refine ⟨by rw [ruleStops_mem, hsame], ?_⟩
    rw [ruleStops_stop hl ho, hsame, hl, Option.map_some, hstop]
    rfl
  · rw [exec_assayCommit] at hu
    cases hu
    exact ⟨ruleStops_mem s n reason, ruleStops_stop hl ho⟩

theorem pastDeadline_iff : s.pastDeadline l = true ↔
    l.open_ = true ∧ l.deadline ≠ 0 ∧ s.dcycle ≥ l.startCycle + l.deadline := by
  simp only [State.pastDeadline, Bool.and_eq_true, bne_iff_ne, ne_eq, decide_eq_true_eq, and_assoc]

theorem exec_deadlineRule (hl : s.launch? n = some l) :
    exec (.deadlineRule n) s = .next (if s.pastDeadline l then s.ruleStops n 2 else s) := by
  show execDeadlineRule n s = _
  rw [execDeadlineRule, State.checkDeadline, hl]

end

end Sys2Proof.Machine
end

section
/-!
PROOF. The energy measurement: every started launch takes its share, and each that has used its energy stops (O41).
-/
namespace Sys2Proof.Machine

/-! ### The measurement -/

/-- The state in which every launch has taken its share, and none has been looked at yet. -/
def State.metering (s : State) (energies : List Nat) : State :=
  { s with
    launches := s.launches.map (s.metered1 energies)
    metered := s.dcycle }

theorem measure_eq (s : State) (energies : List Nat) : s.measure energies =
    ((s.metering energies).launches.map Launch.num).foldl State.checkEnergy (s.metering energies) := rfl

theorem exec_energyMeasurement (s : State) (energies : List Nat) : exec (.energyMeasurement energies) s =
    .next (if s.dcycle < s.metered + 1024 then s else s.measure energies) := rfl

/-- The energy that a launch has used with its share of a measurement. -/
def State.used (s : State) (energies : List Nat) (l : Launch) : Nat :=
  l.energy + (energies.zipIdx.map (fun x => s.energyShare x.2 x.1 l.num)).sum

theorem metered1_eq (s : State) (energies : List Nat) (l : Launch) : s.metered1 energies l =
    { l with energy := if l.phase = .started then s.used energies l else l.energy } := by
  unfold State.metered1
  by_cases h : l.phase = .started
  · simp only [h, bne_self_eq_false, Bool.false_eq_true, if_false, if_true, State.used]
  · simp only [bne_iff_ne, ne_eq, h, not_false_eq_true, if_true, if_false]

theorem ruled_measure (s : State) (energies : List Nat) : Ruled (s.metering energies) (s.measure energies) :=
  foldl_inv (fun t => Ruled (s.metering energies) t) _ _ (fun t n h => h.trans (ruled_checkEnergy t n)) _ (Ruled.refl _)

theorem measure_metered (s : State) (energies : List Nat) : (s.measure energies).metered = s.dcycle :=
  (ruled_measure s energies).aside.metered

/-- Every started launch has its share added. -/
theorem measure_energies (s : State) (energies : List Nat) :
    Each (fun a b => b.energy = if a.phase = .started then s.used energies a else a.energy) s.launches
      (s.measure energies).launches := by
  apply each_of_map
  have h := congrArg (List.map Launch.energy) (ruled_measure s energies).launches
  rw [List.map_map, List.map_map] at h
  have hm : (s.measure energies).launches.map Launch.energy = (s.metering energies).launches.map Launch.energy := h
  rw [hm, State.metering, List.map_map]
  refine List.map_congr_left (fun l _ => ?_)
  rw [Function.comp, metered1_eq]

/-! ### A measurement in a cycle without a commit -/

/-- What a measurement does to a launch in a cycle without a commit (R85, R86). -/
def State.limits (s : State) (l : Launch) : Launch :=
  if l.spent then l.stopFor (if s.pastDeadline l then 2 else 3) s.dcycle else l

theorem spent_open {l : Launch} (h : l.spent = true) : l.open_ = true := by
  simp only [Launch.spent, Bool.and_eq_true] at h
  exact h.1.1

theorem onLaunch_congr {s : State} {n : Nat} {g k : Launch → Launch} (h : ∀ l ∈ s.launches, l.num = n → g l = k l) :
    s.onLaunch n g = s.onLaunch n k := by
  simp only [State.onLaunch]
  congr 1
  refine List.map_congr_left (fun l hl => ?_)
  split
  · exact h l hl ‹_›
  · rfl

theorem onLaunch_id {s : State} {n : Nat} {g : Launch → Launch} (h : ∀ l ∈ s.launches, l.num = n → g l = l) :
    s.onLaunch n g = s := by
  have hid : s.launches.map (fun l => if l.num = n then g l else l) = s.launches := by
    conv_rhs => rw [← List.map_id s.launches]
    refine List.map_congr_left (fun l hl => ?_)
    split
    · exact h l hl ‹_›
    · rfl
  rw [State.onLaunch, hid]

theorem onLaunch_onLaunch (s : State) (n : Nat) {g k : Launch → Launch} (hg : ∀ l, (g l).num = l.num) :
    (s.onLaunch n g).onLaunch n k = s.onLaunch n (fun l => k (g l)) := by
  simp only [State.onLaunch, List.map_map]
  congr 1
  refine List.map_congr_left (fun l _ => ?_)
  by_cases h : l.num = n <;> simp [h, hg]

/-- A launch that has been stopped in this cycle commits nothing more in it (R448). -/
theorem nextSample_stopFor (s : State) (l : Launch) (reason : Nat) : s.nextSample (l.stopFor reason s.dcycle) = none := by
  have hlate (x : Sample) : ¬ s.dcycle > max x.ready (l.stopFor reason s.dcycle).lastCommit := by
    rw [Launch.stopFor, cutSamples_lastCommit]
    exact Nat.not_lt.mpr ((Nat.le_max_right _ _).trans (Nat.le_max_right _ _))
  unfold State.nextSample
  split
  · rfl
  · simp only [hlate, decide_false, Bool.false_and]
    exact Option.filter_eq_none_iff.mpr (fun _ _ => Bool.false_ne_true)

theorem ruled_ruled (reason other cycle : Nat) {l : Launch} (ho : l.open_ = true) :
    (l.ruled reason cycle).ruled other cycle = l.stopFor reason cycle := by
  rw [Launch.ruled, Launch.ruled, if_pos ho, if_neg]
  rw [Launch.open_, stopFor_stop, Option.isNone_some, Bool.and_false]
  exact Bool.false_ne_true

section
variable {s : State} {n : Nat} {l : Launch}

/-- In a cycle without a commit a rule changes its launch only. -/
theorem ruleStops_quiet (hl : s.launch? n = some l) (hx : s.nextSample l = none) (reason : Nat) :
    s.ruleStops n reason = s.onLaunch n (Launch.ruled reason s.dcycle) := by
  rw [ruleStops_eq, commitDue_waits hl hx]

/-- A spent launch whose deadline has come too is stopped by the deadline rule, and the energy rule finds it stopped. -/
theorem ruleStops_twice (hl : s.launch? n = some l) (hx : s.nextSample l = none) (ho : l.open_ = true) :
    (s.ruleStops n 2).ruleStops n 3 = s.onLaunch n (fun l => (l.ruled 2 s.dcycle).ruled 3 s.dcycle) := by
  have hfound : (s.onLaunch n (Launch.ruled 2 s.dcycle)).launch? n = some (l.stopFor 2 s.dcycle) := by
    rw [launch?_onLaunch hl (ruled_num _ _), Launch.ruled, if_pos ho]
  rw [ruleStops_quiet hl hx, ruleStops_quiet hfound (nextSample_stopFor s l 2)]
  exact onLaunch_onLaunch s n (ruled_num 2 s.dcycle)

theorem checkEnergy_quiet (hl : s.launch? n = some l) (hx : s.nextSample l = none)
    (hone : ∀ m ∈ s.launches, m.num = n → m = l) : s.checkEnergy n = s.onLaunch n s.limits := by
  simp only [State.checkEnergy, hl]
  split
  · rename_i hspent
    have ho := spent_open hspent
    simp only [State.checkDeadline, hl]
    split
    · rename_i hpast
      rw [ruleStops_twice hl hx ho]
      refine onLaunch_congr (fun m hm hn => ?_)
      rw [hone m hm hn, ruled_ruled 2 3 _ ho, State.limits, if_pos hspent, if_pos hpast]
    · rename_i hpast
      rw [ruleStops_quiet hl hx]
      refine onLaunch_congr (fun m hm hn => ?_)
      rw [hone m hm hn, Launch.ruled, if_pos ho, State.limits, if_pos hspent, if_neg hpast]
  · rename_i hspent
    refine (onLaunch_id (fun m hm hn => ?_)).symm
    rw [hone m hm hn, State.limits, if_neg hspent]

/-- The launches of some numbers have been looked at. -/
def State.limitedOn (s : State) (done : List Nat) : State :=
  { s with launches := s.launches.map (fun l => if l.num ∈ done then s.limits l else l) }

theorem limits_num (s : State) (l : Launch) : (s.limits l).num = l.num := by
  unfold State.limits
  split
  · exact num_of_lasting (stopFor_lasting l _ _)
  · rfl

theorem limitedOn_num (s : State) (done : List Nat) (l : Launch) : (if l.num ∈ done then s.limits l else l).num = l.num := by
  split
  · exact limits_num s l
  · rfl

/-- In a list without double numbers, a launch is the one that its number finds. -/
theorem launch?_of_mem (hn : (s.launches.map Launch.num).Nodup) (hl : l ∈ s.launches) : s.launch? l.num = some l := by
  cases hx : s.launch? l.num with
  | none => exact absurd (List.find?_eq_none.mp hx l hl) (by simp)
  | some m =>
    have hnum : m.num = l.num := by simpa using List.find?_some hx
    rw [List.inj_on_of_nodup_map hn (List.mem_of_find?_eq_some hx) hl hnum]

theorem checkEnergy_limitedOn {done : List Nat} (hnodup : (s.launches.map Launch.num).Nodup) (hl : l ∈ s.launches)
    (hx : s.nextSample l = none) (hn : l.num ∉ done) :
    (s.limitedOn done).checkEnergy l.num = s.limitedOn (done ++ [l.num]) := by
  have hfind : (s.limitedOn done).launch? l.num = some l := by
    rw [launch?_map (s := s) rfl (limitedOn_num s done), launch?_of_mem hnodup hl, Option.map_some, if_neg hn]
  rw [checkEnergy_quiet hfind hx]
  · simp only [State.limitedOn, State.onLaunch, List.map_map]
    congr 1
    refine List.map_congr_left (fun m _ => ?_)
    by_cases hm : m.num = l.num
    · simp only [Function.comp, hm, hn, if_false, if_true, List.mem_append, List.mem_singleton, or_true]
      rfl
    · simp only [Function.comp, limitedOn_num, hm, if_false, List.mem_append, List.mem_singleton, or_false]
  · intro m hm hnum
    obtain ⟨k, hk, rfl⟩ := List.mem_map.mp hm
    rw [limitedOn_num] at hnum
    rw [List.inj_on_of_nodup_map hnodup hk hl hnum, if_neg hn]

theorem foldl_checkEnergy (hnodup : (s.launches.map Launch.num).Nodup) (hx : ∀ l ∈ s.launches, s.nextSample l = none) :
    ∀ (ns done : List Nat), (∀ n ∈ ns, n ∈ s.launches.map Launch.num) → ns.Nodup → (∀ n ∈ ns, n ∉ done) →
      ns.foldl State.checkEnergy (s.limitedOn done) = s.limitedOn (done ++ ns)
  | [], done, _, _, _ => by rw [List.append_nil]; rfl
  | n :: ns, done, hall, hns, hdone => by
    obtain ⟨l, hl, rfl⟩ := List.mem_map.mp (hall n (List.mem_cons_self ..))
    rw [List.foldl_cons, checkEnergy_limitedOn hnodup hl (hx l hl) (hdone _ (List.mem_cons_self ..)),
      foldl_checkEnergy hnodup hx ns (done ++ [l.num]) (fun m hm => hall m (List.mem_cons_of_mem _ hm))
        (List.nodup_cons.mp hns).2, List.append_assoc]
    · rfl
    · intro m hm hmd
      rcases List.mem_append.mp hmd with h | h
      · exact hdone m (List.mem_cons_of_mem _ hm) h
      · rw [List.mem_singleton.mp h] at hm
        exact (List.nodup_cons.mp hns).1 hm

/-- A measurement in a cycle without a commit looks at every launch by itself. -/
theorem measure_quiet (energies : List Nat) (hnodup : (s.launches.map Launch.num).Nodup)
    (hx : ∀ l ∈ s.launches, s.nextSample l = none) : s.measure energies =
      { s.metering energies with launches := s.launches.map (fun l => s.limits (s.metered1 energies l)) } := by
  let v := s.metering energies
  have hnums : v.launches.map Launch.num = s.launches.map Launch.num := by
    simp only [v, State.metering, List.map_map]
    exact List.map_congr_left (fun l _ => by rw [Function.comp, metered1_eq])
  have hv : v.limitedOn [] = v := by
    simp only [State.limitedOn, List.not_mem_nil, if_false, List.map_id']
  have hxv : ∀ l ∈ v.launches, v.nextSample l = none := by
    intro l hl
    obtain ⟨m, hm, rfl⟩ := List.mem_map.mp hl
    rw [metered1_eq]
    exact hx m hm
  have hfold := foldl_checkEnergy (s := v) (hnums ▸ hnodup) hxv _ [] (fun _ h => h) (hnums ▸ hnodup)
    (fun _ _ => List.not_mem_nil)
  rw [hv, List.nil_append] at hfold
  rw [measure_eq, hfold]
  show { v with launches := v.launches.map _ } = { v with launches := _ }
  congr 1
  simp only [v, State.metering, List.map_map]
  refine List.map_congr_left (fun l hl => ?_)
  rw [Function.comp, if_pos]
  · rfl
  · exact List.mem_map.mpr ⟨l, hl, rfl⟩

end

end Sys2Proof.Machine
end

section
/-!
PROOF. The commit of a metered launch, the stall rule, and what a core stops (O41).
-/
namespace Sys2Proof.Machine

/-! ### A commit does not see the energy -/

section
variable {s : State} {n : Nat} {l : Launch}

/-- A launch with some energy used. -/
def Launch.charged (energy : Nat) (l : Launch) : Launch := { l with energy := energy }

/-- The stop that a commit leaves in its launch. -/
theorem commitDue_stop {x : Sample} (hl : s.launch? n = some l) (hx : s.nextSample l = some x) :
    ((s.commitDue n).launch? n).map Launch.stop =
      some (l.afterCommit x s.dcycle ((s.commitSlots l x).widthStops l)).stop := by
  obtain ⟨m, hm, hml⟩ := (kept_putEach s (s.slotsOf l) (x.into l)).find hl
  rw [← commitSlots_eq] at hm
  have hstop : m.untested.stop = l.untested.stop := congrArg Launch.stop hml
  have hcommitted : m.untested.committed = l.untested.committed := congrArg Launch.committed hml
  have htotal : m.untested.total = l.untested.total := congrArg Launch.total hml
  rw [commitDue_some hl hx, launch?_onLaunch hm (fun k => num_of_lasting (afterCommit_lasting k _ _ _)), Option.map_some,
    afterCommit_stop, afterCommit_stop, show m.stop = l.stop from hstop, show m.committed = l.committed from hcommitted,
    show m.total = l.total from htotal]

/-- The width rule reads memory and the device number only. -/
theorem widthStops_congr {t : State} (hm : s.mem = t.mem) (hd : s.devnum = t.devnum) (l : Launch) :
    s.widthStops l = t.widthStops l := by
  unfold State.widthStops State.localSlab State.slabDecode State.assayAt
  rw [hm, hd]

theorem widthStops_charged (e : Nat) (x : Sample) (l : Launch) :
    ((s.commitSlots (l.charged e) x).widthStops (l.charged e)) = (s.commitSlots l x).widthStops l := rfl

theorem metered1_charged (s : State) (energies : List Nat) (l : Launch) : ∃ e, s.metered1 energies l = l.charged e :=
  ⟨_, metered1_eq s energies l⟩

theorem metered1_num (s : State) (energies : List Nat) (l : Launch) : (s.metered1 energies l).num = l.num := by
  rw [metered1_eq]

/-- What a commit writes does not depend on the meter. -/
theorem widthStops_metering (energies : List Nat) (l : Launch) (x : Sample) :
    ((s.metering energies).commitSlots l x).widthStops l = (s.commitSlots l x).widthStops l := by
  have hk := kept_putEach s (s.slotsOf l) (x.into l)
  have hk' := kept_putEach (s.metering energies) (s.slotsOf l) (x.into l)
  have hm : ((s.metering energies).putEach (s.slotsOf l) (x.into l)).mem = (s.putEach (s.slotsOf l) (x.into l)).mem :=
    putEach_mem_congr (x.into l) rfl (fun _ => rfl)
  exact widthStops_congr hm (hk'.devnum.trans hk.devnum.symm) l

/-- A launch that a measurement has charged stops at the same commit. -/
theorem commitDue_stop_metering (energies : List Nat) (hl : s.launch? n = some l) :
    (((s.metering energies).commitDue n).launch? n).map Launch.stop = ((s.commitDue n).launch? n).map Launch.stop := by
  obtain ⟨e, he⟩ := metered1_charged s energies l
  have hl' : (s.metering energies).launch? n = some (l.charged e) := by
    rw [launch?_map (s := s) rfl (metered1_num s energies), hl, Option.map_some, he]
  cases hx : s.nextSample l with
  | none =>
    rw [commitDue_waits hl hx, commitDue_waits hl' hx, hl, hl']
    rfl
  | some x =>
    rw [commitDue_stop hl hx, commitDue_stop hl' hx, widthStops_charged, widthStops_metering, afterCommit_stop,
      afterCommit_stop]
    rfl

end

/-! ### The stall rule -/

theorem queue_onQueue (s : State) (q : Nat) (g : HostQueue → HostQueue) (r : Nat) :
    (s.onQueue q g).queue r = if r = q then g (s.queue q) else s.queue r := by
  show Table.get (Table.set s.queues q (g (s.queue q))) _ r = _
  unfold Table.get
  rw [Table.find_set]
  split <;> rfl

theorem wg?_map {s t : State} {g : Workgroup → Workgroup} (ht : t.wgs = s.wgs.map g) (hg : ∀ w, (g w).num = w.num) (n : Nat) :
    t.wg? n = (s.wg? n).map g := by
  simp only [State.wg?, ht, List.find?_map, Function.comp_def, hg]

/-! #### Threads that stop -/

theorem kept_stopThreads (s : State) (sel : Nat → Bool) : Kept s (s.stopThreads sel) := by
  have hforks : Kept s ((s.forks.filter (fun f => sel f.wg)).foldl State.squashFork s) := by
    apply kept_foldl
    exact kept_squashFork
  exact hforks.trans (kept_of_same rfl rfl rfl rfl rfl rfl)

theorem stopThreads_exited {s : State} {sel : Nat → Bool} {c : Ctx} (hc : c ∈ (s.stopThreads sel).ctxs)
    (hsel : sel c.id.wg = true) : c.status = .exited ∧ c.inflight = [] := by
  unfold State.stopThreads State.dropParked at hc
  simp only [List.mem_map] at hc
  obtain ⟨d, -, rfl⟩ := hc
  by_cases h : sel d.id.wg = true
  · rw [if_pos h]
    exact ⟨rfl, rfl⟩
  · rw [if_neg h] at hsel
    exact absurd hsel h

/-! #### A launch that fails -/

/-- The launches that end with one that fails: itself and its unfinished descendants. -/
def State.dying (s : State) (n m : Nat) : Bool :=
  s.descends n 12 m && (match s.launch? m with
    | some l => l.phase != .finished && l.status == 0
    | none => false)

def State.dyingNums (s : State) (n : Nat) : List Nat := (s.launches.filter (fun l => s.dying n l.num)).map Launch.num

/-- A workgroup of such a launch that is on no core. -/
def State.dyingAway (s : State) (n g : Nat) : Bool :=
  match s.wg? g with
  | some w => w.place != .resident && s.dying n w.launch
  | none => false

/-- A launch that ends so takes its status. -/
def Launch.died (gone : List Nat) (n status : Nat) (l : Launch) : Launch :=
  if gone.contains l.num then { l with status := if l.num == n then status else 7 } else l

def Core.stopping (gone : List Nat) (c : Core) : Core := { c with stops := c.stops ++ gone }

def State.onCores (s : State) (ks : List Nat) (g : Core → Core) : State := ks.foldl (fun s k => s.onCore k g) s

/-- A launch has failed, and no core has been told yet. -/
def State.failing (s : State) (n status : Nat) : State :=
  { s.stopThreads (s.dyingAway n) with
    launches := (s.stopThreads (s.dyingAway n)).launches.map (Launch.died (s.dyingNums n) n status) }

theorem failLaunch_eq (s : State) (n status : Nat) : s.failLaunch n status =
    (s.failing n status).onCores (s.failing n status).coresInUse (Core.stopping (s.dyingNums n)) := rfl

theorem onCores_frame (s : State) (ks : List Nat) (g : Core → Core) : ∃ cores, s.onCores ks g = { s with cores := cores } := by
  refine foldl_inv (fun t => ∃ cores, t = { s with cores := cores }) _ ks ?_ s ⟨s.cores, rfl⟩
  rintro _ k ⟨cores, rfl⟩
  exact ⟨_, rfl⟩

/-- Each of some cores is told of a launch that stops. -/
theorem onCores_stops {gone : List Nat} {n : Nat} (hn : n ∈ gone) : ∀ {ks : List Nat} {s : State} {k : Nat},
    (k ∈ ks ∨ n ∈ (s.core k).stops) → n ∈ ((s.onCores ks (Core.stopping gone)).core k).stops
  | [], s, k, h => h.resolve_left List.not_mem_nil
  | a :: ks, s, k, h => by
    refine onCores_stops hn (s := s.onCore a (Core.stopping gone)) (ks := ks) ?_
    by_cases hk : k = a
    · refine Or.inr ?_
      rw [core_onCore, if_pos hk]
      exact List.mem_append_right _ hn
    · rw [core_onCore, if_neg hk]
      exact h.imp_left (fun h => (List.mem_cons.mp h).resolve_left hk)

theorem Kept.residentCores {s t : State} (h : Kept s t) :
    (t.wgs.filter (fun w => w.place == .resident)).map Workgroup.core =
      (s.wgs.filter (fun w => w.place == .resident)).map Workgroup.core := by
  have hstill (v : State) : (v.wgs.filter (fun w => w.place == .resident)).map Workgroup.core =
      ((v.wgs.map Workgroup.still).filter (fun w => w.place == .resident)).map Workgroup.core := by
    rw [List.filter_map, List.map_map]
    rfl
  rw [hstill t, hstill s, h.wgs]

theorem find_isSome_iff {α : Type} (t : Table α) (k : Nat) : (Table.find t k).isSome = true ↔ k ∈ t.map Prod.fst := by
  induction t with
  | nil => simp [Table.find]
  | cons e t ih =>
    obtain ⟨a, v⟩ := e
    simp only [Table.find, List.map_cons, List.mem_cons]
    by_cases h : a = k
    · simp [h]
    · rw [if_neg h, ih]
      exact (or_iff_right (fun hk => h hk.symm)).symm

theorem Kept.coresInUse {s t : State} (h : Kept s t) {k : Nat} (hk : k ∈ s.coresInUse) : k ∈ t.coresInUse := by
  rw [State.coresInUse, List.mem_eraseDups, List.mem_append] at hk ⊢
  rw [h.residentCores]
  refine hk.imp_left (fun hs => ?_)
  exact (find_isSome_iff _ k).mp (h.listed k ((find_isSome_iff _ k).mpr hs))

section
variable {s : State} {n : Nat} {l : Launch}

theorem dying_self (hl : s.launch? n = some l) (hp : l.phase ≠ .finished) (hs : l.status = 0) : s.dying n n = true := by
  simp only [State.dying, hl, hs, State.descends, beq_self_eq_true, Bool.true_or, Bool.true_and, Bool.and_true, bne_iff_ne,
    ne_eq, hp, not_false_eq_true]

theorem mem_dyingNums (hl : s.launch? n = some l) (hp : l.phase ≠ .finished) (hs : l.status = 0) : n ∈ s.dyingNums n := by
  have hn : l.num = n := by simpa using List.find?_some hl
  refine List.mem_map.mpr ⟨l, List.mem_filter.mpr ⟨List.mem_of_find?_eq_some hl, ?_⟩, hn⟩
  rw [hn]
  exact dying_self hl hp hs

theorem died_num (gone : List Nat) (n status : Nat) (l : Launch) : (l.died gone n status).num = l.num := by
  unfold Launch.died
  split <;> rfl

/-- A running launch that fails takes its status; the cores in use are told, and threads of workgroups away have exited. -/
theorem failLaunch_fails (hl : s.launch? n = some l) (hp : l.phase ≠ .finished) (hs : l.status = 0) (status : Nat) :
    let t := s.failLaunch n status
    (t.launch? n).map Launch.status = some status ∧ (∀ k ∈ s.coresInUse, n ∈ (t.core k).stops) ∧
      ∀ c ∈ t.ctxs, ∀ w, s.wg? c.id.wg = some w → w.launch = n → w.place ≠ .resident → c.status = .exited := by
  have hgone := mem_dyingNums hl hp hs
  have hkept := kept_stopThreads s (s.dyingAway n)
  obtain ⟨m, hm, -⟩ := hkept.find hl
  have hmn : m.num = n := by simpa using List.find?_some hm
  have hlaunch : (s.failing n status).launch? n = some (m.died (s.dyingNums n) n status) := by
    rw [launch?_map (s := s.stopThreads (s.dyingAway n)) rfl (died_num _ n status), hm, Option.map_some]
  obtain ⟨cores, hcores⟩ := onCores_frame (s.failing n status) (s.failing n status).coresInUse (Core.stopping (s.dyingNums n))
  simp only [failLaunch_eq]
  refine ⟨?_, fun k hk => onCores_stops hgone (Or.inl (hkept.coresInUse hk)), fun c hc w hw hwn hplace => ?_⟩
  · rw [hcores]
    show ((s.failing n status).launch? n).map Launch.status = some status
    rw [hlaunch, Option.map_some, Launch.died, hmn, if_pos (List.contains_iff_mem.mpr hgone), if_pos (beq_self_eq_true n)]
  · rw [hcores] at hc
    have haway : s.dyingAway n c.id.wg = true := by
      simp only [State.dyingAway, hw, hwn, dying_self hl hp hs, Bool.and_true, bne_iff_ne]
      exact hplace
    exact (stopThreads_exited hc haway).1

end

/-! #### What a core stops -/

theorem freeFault_ctxs (s : State) (core i : Nat) : (s.freeFault core i).ctxs = s.ctxs := homeStore_ctxs s _ _ _

theorem dropFaults_ctxs (s : State) (core : Nat) (dead : Nat → Bool) : (s.dropFaults core dead).ctxs = s.ctxs := by
  unfold State.dropFaults
  refine foldl_inv (fun t => t.ctxs = s.ctxs) _ _ (fun t i h => (freeFault_ctxs t core i).trans h) _ ?_
  rw [State.onCore_ctxs]
  refine foldl_inv (fun t : State => t.ctxs = s.ctxs) _ _ ?_ s rfl
  exact fun _ _ h => h

/-- The threads of a workgroup on a core that has yet to meet the stop of its launch. -/
def State.stopsHere (s : State) (core g : Nat) : Bool :=
  match s.wg? g with
  | some w => w.core == core && (s.core core).stops.contains w.launch
  | none => false

theorem meetStops_eq {s : State} {core : Nat} (h : (s.core core).stops ≠ []) : s.meetStops core =
    ((s.stopThreads (s.stopsHere core)).dropFaults core (fun n => (s.core core).stops.contains n)).onCore core
      (fun c => { c with stops := [] }) := by
  unfold State.meetStops
  simp only [List.isEmpty_iff, h, if_false]
  rfl

theorem meetStops_stops {s : State} {core n : Nat} (hn : n ∈ (s.core core).stops) : let t := s.meetStops core
    (t.core core).stops = [] ∧ ∀ c ∈ t.ctxs, ∀ w, s.wg? c.id.wg = some w → w.core = core → w.launch = n →
      c.status = .exited ∧ c.inflight = [] := by
  simp only [meetStops_eq (List.ne_nil_of_mem hn)]
  refine ⟨?_, fun c hc w hw hcore hlaunch => ?_⟩
  · rw [core_onCore, if_pos rfl]
  · rw [State.onCore_ctxs, dropFaults_ctxs] at hc
    refine stopThreads_exited hc ?_
    rw [State.stopsHere, hw]
    simp only [hcore, hlaunch, beq_self_eq_true, Bool.true_and]
    exact List.contains_iff_mem.mpr hn

/-! #### A launch that stalls and yields -/

/-- A workgroup that the stall rule pre-empts. -/
def Workgroup.yielding (w : Workgroup) : Workgroup :=
  { w with
    ousted := true
    ordered := true }

def Launch.unstalled (l : Launch) : Launch := { l with stall := 0 }

def HostQueue.saveFull (h : HostQueue) : HostQueue := { h with qerr := qerrSAVEFULL }

/-- The state after the stall rule has looked for room (R255). -/
def State.stallLooked (s : State) (l : Launch) : State :=
  if s.passedOver l then s.onHead l.queue HostQueue.saveFull else s

section
variable {s : State} {n : Nat} {l : Launch}

theorem exec_gridStall (hl : s.launch? n = some l) : exec (.gridStall n) s =
    .next (if l.stall < 65536 ∨ !s.stalls l then s
      else if !l.yieldok then s.failLaunch n statusGRID_STALL
      else match firstBy (fun a b => decide (a.visit > b.visit)) (s.stallCands l) with
        | none => (s.stallLooked l).failLaunch n statusGRID_STALL
        | some w => ((((s.stallLooked l).onLaunch n Launch.unstalled).onWg w.num (fun w => { w with ousted := true })).orderOff
            w.num)) := by
  show execGridStall n s = _
  rw [execGridStall, hl]
  rfl

theorem stallLooked_frame (s : State) (l : Launch) :
    ∃ mem queues, s.stallLooked l = { s with mem := mem, queues := queues } := by
  unfold State.stallLooked
  split
  · exact ⟨_, _, rfl⟩
  · exact ⟨_, _, rfl⟩

/-- A launch for which the stall rule counts is running. -/
theorem stalls_running (h : s.stalls l = true) : l.phase ≠ .finished ∧ l.status = 0 := by
  simp only [State.stalls, Launch.remains, Bool.and_eq_true, beq_iff_eq] at h
  obtain ⟨⟨⟨⟨⟨hphase, hstatus⟩, -⟩, -⟩, -⟩, -⟩ := h
  exact ⟨by rw [hphase]; exact Phase.noConfusion, hstatus⟩

theorem firstBy_nil {α : Type} {before : α → α → Bool} {l : List α} (h : l = []) : firstBy before l = none := by rw [h]; rfl

/-- A stalled launch that cannot yield fails. -/
theorem gridStall_fails (hl : s.launch? n = some l) (hlong : l.stall ≥ 65536) (hstalls : s.stalls l = true)
    (hno : l.yieldok = false ∨ s.stallCands l = []) : ∃ mem queues,
      exec (.gridStall n) s = .next (({ s with mem := mem, queues := queues } : State).failLaunch n 2) := by
  rw [exec_gridStall hl, hstalls, if_neg (by simp [Nat.not_lt.mpr hlong])]
  cases hy : l.yieldok with
  | false => exact ⟨s.mem, s.queues, rfl⟩
  | true =>
    have hnone := hno.resolve_left (by rw [hy]; exact Bool.noConfusion)
    rw [firstBy_nil hnone]
    obtain ⟨mem, queues, h⟩ := stallLooked_frame s l
    rw [h]
    exact ⟨mem, queues, rfl⟩

theorem onWg_onWg (s : State) (n : Nat) {g k : Workgroup → Workgroup} (hg : ∀ w, (g w).num = w.num) :
    (s.onWg n g).onWg n k = s.onWg n (fun w => k (g w)) := by
  simp only [State.onWg, List.map_map]
  congr 1
  refine List.map_congr_left (fun w _ => ?_)
  by_cases h : w.num = n <;> simp [h, hg]

theorem gridStall_yields {w : Workgroup} (hl : s.launch? n = some l) (hlong : l.stall ≥ 65536) (hstalls : s.stalls l = true)
    (hy : l.yieldok = true) (hw : firstBy (fun a b => decide (a.visit > b.visit)) (s.stallCands l) = some w) :
    exec (.gridStall n) s = .next (((s.stallLooked l).onLaunch n Launch.unstalled).onWg w.num Workgroup.yielding) := by
  rw [exec_gridStall hl, hstalls, hy, hw, if_neg (by simp [Nat.not_lt.mpr hlong])]
  exact congrArg _ (onWg_onWg _ w.num (fun _ => rfl))

/-- The rule has passed over a workgroup: one of a later visit that there is no room for. -/
theorem passedOver_iff {w : Workgroup} (hn : l.num = n) (hw : firstBy (fun a b => decide (a.visit > b.visit)) (s.stallCands l) = some w) :
    s.passedOver l = true ↔
      ∃ v ∈ s.residentOf n, s.movable v = true ∧ s.saveRoom l v = none ∧ v.visit > w.visit := by
  simp only [← hn, State.passedOver, hw, List.any_eq_true, Bool.and_eq_true, Option.isNone_iff_eq_none, Option.all_some,
    decide_eq_true_eq, and_assoc]

end

/-- The clauses of the measurement. -/
theorem measure_answers {s : State} {n : Nat} {l : Launch} {energies : List Nat} (hl : s.launch? n = some l)
    (hdue : ¬ s.dcycle < s.metered + 1024) :
    let due (a : Launch) : Prop := a.open_ = true ∧ a.deadline ≠ 0 ∧ s.dcycle ≥ a.startCycle + a.deadline
    let spent (a : Launch) : Prop := a.open_ = true ∧ a.energyLimit ≠ 0 ∧ s.used energies a ≥ a.energyLimit * 2 ^ 32
    Answers s (.energyMeasurement energies) (fun t =>
      t.metered = s.dcycle ∧ SameThreads s t ∧
      Each (fun a b => b.energy = if a.phase = .started then s.used energies a else a.energy) s.launches t.launches ∧
      ((∀ m ∈ s.launches, s.nextSample m = none) → (s.launches.map Launch.num).Nodup → t.mem = s.mem ∧
        Each (fun a b => (spent a → due a → b.stop = some 2) ∧ (spent a → ¬due a → b.stop = some 3) ∧
          (¬spent a → b.stop = a.stop)) s.launches t.launches) ∧
      (∀ u, s.launches = [l] → spent l → ¬due l → exec (.assayCommit n) s = .next u →
        (t.launch? n).map Launch.stop = (u.launch? n).map (fun m => some (m.stop.getD 3)))) := by
  intro due spent
  have hpast (a : Launch) : s.pastDeadline (s.metered1 energies a) = true ↔ due a := by
    rw [metered1_eq]
    exact pastDeadline_iff
  have hspent (a : Launch) : (s.metered1 energies a).spent = true ↔ spent a := by
    rw [metered1_eq]
    simp only [Launch.spent, Bool.and_eq_true, bne_iff_ne, ne_eq, decide_eq_true_eq, spent, and_assoc]
    refine and_congr_right (fun ho => and_congr_right (fun _ => ?_))
    have hp : a.phase = .started := by
      simp only [Launch.open_, Bool.and_eq_true, beq_iff_eq] at ho
      exact ho.1.1
    show (if a.phase = .started then _ else _) ≥ _ ↔ _
    rw [if_pos hp]
    rfl
  refine ⟨s.measure energies, ?_, measure_metered s energies, ?_, measure_energies s energies, fun hx hnodup => ?_,
    fun u hone hs hd hu => ?_⟩
  · rw [exec_energyMeasurement, if_neg hdue]
  · exact (ruled_measure s energies).aside.sameThreads
  · rw [measure_quiet energies hnodup hx]
    refine ⟨rfl, each_map (fun a _ => ⟨fun hs hd => ?_, fun hs hd => ?_, fun hs => ?_⟩)⟩
    · rw [State.limits, if_pos ((hspent a).mpr hs), if_pos ((hpast a).mpr hd), stopFor_stop]
    · rw [State.limits, if_pos ((hspent a).mpr hs), if_neg (mt (hpast a).mp hd), stopFor_stop]
    · rw [State.limits, if_neg (mt (hspent a).mp hs), metered1_eq]
  · have hn : l.num = n := by simpa using List.find?_some hl
    have hl' : (s.metering energies).launch? n = some (s.metered1 energies l) := by
      rw [launch?_map (s := s) rfl (metered1_num s energies), hl, Option.map_some]
    have hnot : (s.metering energies).pastDeadline (s.metered1 energies l) = false :=
      Bool.eq_false_iff.mpr (mt (hpast l).mp hd)
    have hlaunches : (s.metering energies).launches = [s.metered1 energies l] := congrArg (List.map _) hone
    have hrun : s.measure energies = (s.metering energies).ruleStops n 3 := by
      rw [measure_eq, hlaunches, List.map_cons, List.map_nil, List.foldl_cons, List.foldl_nil, metered1_num, hn,
        State.checkEnergy, hl']
      simp only [(hspent l).mpr hs, if_true, State.checkDeadline, hl', hnot, Bool.false_eq_true, if_false]
    rw [exec_assayCommit] at hu
    cases hu
    rw [hrun, ruleStops_stop hl' (spent_open ((hspent l).mpr hs))]
    have hstops := congrArg (Option.map (fun r => some (Option.getD r 3))) (commitDue_stop_metering energies hl)
    rwa [Option.map_map, Option.map_map] at hstops

/-- Settles O41: a rule that fires makes the commit of the cycle and stops the launch if it still runs; the measurement does
that for every launch after its share; the stall rule fails the launch or orders a workgroup off; a core that meets a stop
ends the threads. -/
theorem launchLimits : Obligations.LaunchLimits := by
  intro s n l energies hl hn due used spent
  refine ⟨fun hd => ?_, fun hd => ?_, fun h => ?_, fun h => ?_, fun h => measure_answers hl (Nat.not_lt.mpr h), fun h => ?_,
    fun hlong hstalls hno => ?_, fun k hk => meetStops_stops hk, fun w hlong hstalls hy hw => ?_⟩
  · rw [Stays, exec_deadlineRule hl, if_neg (mt pastDeadline_iff.mp hd)]
  · exact ⟨_, by rw [exec_deadlineRule hl, if_pos (pastDeadline_iff.mpr hd)], ruleStops_answers hl hd.1⟩
  · rw [Stays, exec_energyMeasurement, if_pos h]
  · rw [State.measureDue, if_neg (Nat.not_lt.mpr h), measure_metered]
  · rw [Stays, exec_gridStall hl, if_pos]
    rwa [Bool.not_eq_true']
  · obtain ⟨hphase, hstatus⟩ := stalls_running hstalls
    obtain ⟨mem, queues, hexec⟩ := gridStall_fails hl hlong hstalls hno
    exact ⟨_, hexec, failLaunch_fails (s := { s with mem := mem, queues := queues }) hl hphase hstatus 2⟩
  · intro passed
    refine ⟨_, gridStall_yields hl hlong hstalls hy hw, ?_⟩
    obtain ⟨mem, queues, hframe⟩ := stallLooked_frame s l
    refine ⟨?_, ?_, ?_, fun hp => ?_, fun hp => ?_⟩
    · rw [hframe]
      exact ⟨rfl, rfl⟩
    · have hfound : (s.stallLooked l).launch? n = some l := by
        rw [hframe]
        exact hl
      show (((s.stallLooked l).onLaunch n Launch.unstalled).launch? n).map Launch.stall = some 0
      rw [launch?_onLaunch (g := Launch.unstalled) hfound (fun _ => rfl)]
      rfl
    · rw [hframe, wg?_map (s := s) rfl (fun v => by split <;> rfl), Option.map_map]
      cases hv : s.wg? w.num with
      | none => rfl
      | some v =>
        have hnum : v.num = w.num := by simpa using List.find?_some hv
        simp only [Option.map_some, Function.comp, hnum, if_true]
        rfl
    · have hpass : s.passedOver l = true := (passedOver_iff hn hw).mpr hp
      rw [State.stallLooked, if_pos hpass]
      show ((s.onQueue l.queue HostQueue.saveFull).queue l.queue).qerr = 4
      rw [queue_onQueue, if_pos rfl]
      rfl
    · have hpass : ¬ s.passedOver l = true := fun h => hp ((passedOver_iff hn hw).mp h)
      rw [State.stallLooked, if_neg hpass]
      exact ⟨rfl, rfl⟩

end Sys2Proof.Machine
end

section
/-!
PROOF. The start of a launch: when it may start, the tests of its PRODUCER, and the form that its slot objects take (O39).
-/
namespace Sys2Proof.Machine

/-! ### When a launch may start -/

section
variable {s : State} {n : Nat} {l : Launch}

theorem startReady_iff (s : State) (l : Launch) : s.startReady l = true ↔
    l.phase = .waiting ∧ l.status = 0 ∧ (l.depth = 1 → s.mapped l.queue = true) ∧ (∀ m ∈ l.after, s.outstanding m = false) ∧
      (∀ e ∈ s.slotsOf l, s.touchesHeld e.2 128 = false) ∧ (l.producer = 0 ∨ l.due s.dcycle = true) := by
  simp only [State.startReady, Bool.and_eq_true, beq_iff_eq, Bool.or_eq_true, bne_iff_ne, Bool.not_eq_true',
    List.any_eq_false, Bool.not_eq_true, and_assoc, ← imp_iff_not_or, ne_eq]

/-! ### The tests of a PRODUCER -/

/-- The tests that count in a cycle, and the last of them. -/
def Launch.counting (l : Launch) (now : Nat) : Option (Nat × Bool) :=
  (l.tests.filter (fun e => decide (e.1 ≤ now))).getLast?

theorem due_eq (l : Launch) (now : Nat) : l.due now = ((l.counting now).map Prod.snd).getD false := rfl

/-- A test that counts from the next cycle on leaves this cycle's as it is. -/
theorem counting_tested (l : Launch) (now : Nat) (met : Bool) : (l.tested now (now + 1) met).counting now = l.counting now := by
  have hlast : ∀ e ∈ (l.counting now).toList, decide (e.1 ≤ now) = true := by
    intro e he
    have hmem : e ∈ l.tests.filter (fun e => decide (e.1 ≤ now)) := List.mem_of_getLast? (Option.mem_toList.mp he)
    exact (List.mem_filter.mp hmem).2
  have htests : (l.tested now (now + 1) met).tests = (l.counting now).toList ++ [(now + 1, met)] := by
    simp only [Launch.tested, Nat.not_succ_le_self, if_false, Launch.counting]
  rw [Launch.counting, htests, List.filter_append, List.filter_eq_self.mpr hlast]
  simp only [List.filter_cons, Nat.not_succ_le_self, decide_false, Bool.false_eq_true, if_false, List.filter_nil,
    List.append_nil]
  cases l.counting now <;> rfl

/-- From the next cycle on that test is the last that counts. -/
theorem due_tested (l : Launch) {now c : Nat} (hc : now < c) (met : Bool) : (l.tested now (now + 1) met).due c = met := by
  have hlast : ([(now + 1, met)] : List (Nat × Bool)).filter (fun e => decide (e.1 ≤ c)) = [(now + 1, met)] := by
    simp only [List.filter_cons, Nat.succ_le_of_lt hc, decide_true, if_true, List.filter_nil]
  rw [due_eq, Launch.counting, Launch.tested, List.filter_append, hlast, List.getLast?_append]
  rfl

/-- The start condition of a launch with a PRODUCER. -/
theorem producerReady_iff {k : Nat} (hp : l.producer ≠ 0) (hk : s.localSlab l.producer = some k) : s.producerReady l = true ↔
    s.handleBars none k 128 = false ∧ ((s.assayAt k).status ≠ 0 ∨
      (l.consume ≠ 0 ∧ ((s.assayAt k).n ≥ l.nstart ∨ le64 (s.assayAt k).halfwidth l.startwidth = true))) := by
  simp only [State.producerReady, hp, if_false, hk, Bool.and_eq_true, Bool.not_eq_true', Bool.or_eq_true, bne_iff_ne, ne_eq,
    decide_eq_true_eq]

/-- A write at home tests the launches as memory stands after it. -/
theorem homeStore_tests (s : State) (key : Nat) (bytes : List Byte) (poisoned : Bool) : ∃ w : State, Kept s w ∧
    w.mem = (s.homeStore key bytes poisoned).mem ∧
    (s.homeStore key bytes poisoned).launches = s.launches.map (w.testStart (s.dcycle + 1) key bytes.length) := by
  let v : State := { s with mem := cellsWrite s.mem key bytes, poison := poisonAfter s.poison key bytes.length poisoned }
  have hw : ∃ marks fits, (v.unmark key bytes.length).noteFits key bytes.length =
      { v with marks := marks, fits := fits } := by
    rw [noteFits_frame, unmark_frame]
    exact ⟨_, _, rfl⟩
  obtain ⟨marks, fits, hw⟩ := hw
  have hfires := fires_count ((({ v with marks := marks, fits := fits } : State)).testStarts key bytes.length) key bytes.length
  refine ⟨{ v with marks := marks, fits := fits }, kept_of_same rfl rfl rfl rfl rfl rfl, (homeStore_mem ..).symm, ?_⟩
  rw [State.homeStore]
  show (State.count (State.testStarts ((v.unmark key bytes.length).noteFits key bytes.length) _ _) _ _).launches = _
  rw [hw, hfires]
  rfl

theorem testStart_num (s : State) (from_ key n : Nat) (l : Launch) : (s.testStart from_ key n l).num = l.num := by
  rw [testStart_tests]

/-- A waiting launch after a write that touches its PRODUCER. -/
theorem homeStore_tested {k : Nat} (hl : s.launch? n = some l) (hw : l.phase = .waiting) (hp : l.producer ≠ 0)
    (hk : s.localSlab l.producer = some k) (key : Nat) (bytes : List Byte) (poisoned : Bool)
    (hover : overlaps key bytes.length k 128 = true) : ∃ met, (s.homeStore key bytes poisoned).launch? n =
      some (l.tested s.dcycle (s.dcycle + 1) met) ∧ (met = true ↔ s.handleBars none k 128 = false ∧
        (((s.homeStore key bytes poisoned).assayAt k).status ≠ 0 ∨ (l.consume ≠ 0 ∧
          (((s.homeStore key bytes poisoned).assayAt k).n ≥ l.nstart ∨
            le64 ((s.homeStore key bytes poisoned).assayAt k).halfwidth l.startwidth = true)))) := by
  obtain ⟨w, hkept, hmem, hlaunches⟩ := homeStore_tests s key bytes poisoned
  have hk' : w.localSlab l.producer = some k := (hkept.localSlab _).trans hk
  refine ⟨w.producerReady l, ?_, ?_⟩
  · rw [launch?_map hlaunches (testStart_num w _ _ _), hl, Option.map_some, State.testStart, hw]
    simp only [beq_self_eq_true, Bool.true_and, bne_iff_ne, ne_eq, hp, not_false_eq_true, if_true, hk', hover, hkept.dcycle]
  · rw [producerReady_iff hp hk', hkept.handleBars, State.assayAt, State.assayAt, hmem]

/-- A write that does not touch its PRODUCER leaves a launch's tests. -/
theorem homeStore_untested (hl : s.launch? n = some l) (key : Nat) (bytes : List Byte) (poisoned : Bool)
    (hapart : ∀ k, l.producer ≠ 0 → s.localSlab l.producer = some k → overlaps key bytes.length k 128 = false) :
    (s.homeStore key bytes poisoned).launch? n = some l := by
  obtain ⟨w, hkept, -, hlaunches⟩ := homeStore_tests s key bytes poisoned
  rw [launch?_map hlaunches (testStart_num w _ _ _), hl, Option.map_some, State.testStart]
  split
  · rename_i k hk
    split at hk
    · rename_i hcond
      simp only [Bool.and_eq_true, bne_iff_ne] at hcond
      rw [hkept.localSlab] at hk
      rw [hapart k hcond.2 hk]
      rfl
    · cases hk
  · rfl

end

end Sys2Proof.Machine
end

section
/-!
PROOF. The slot objects of a launch that starts, and its start in a cycle of the dispatcher (O39).
-/
namespace Sys2Proof.Machine

/-! ### The objects that several writes leave -/

theorem leBytes_length : ∀ (n x : Nat), (leBytes n x).length = n
  | 0, _ => rfl
  | n + 1, x => congrArg (· + 1) (leBytes_length n (x / 256))

theorem assay_bytes_length (a : Assay) : a.bytes.length = 96 := by
  simp only [Assay.bytes, List.length_append, leBytes_length]

/-- Objects lie apart: a write of one leaves the bytes of another. -/
theorem cellsRead_object_apart {m : List Host.Cell} (h : Memory.wf m = true) {k k' : Nat} (hk : k % 128 = 0)
    (hk' : k' % 128 = 0) (hne : k ≠ k') (a : Assay) : cellsRead (cellsWrite m k a.bytes) k' 128 = cellsRead m k' 128 := by
  apply cellsRead_cellsWrite_apart h
  rw [assay_bytes_length]
  omega

theorem putAssay_memOk (s : State) (key : Nat) (a : Assay) (h : s.memOk = true) : (s.putAssay key a).memOk = true := by
  rw [State.memOk, putAssay_mem]
  split
  · exact h
  · exact wf_cellsWrite _ _ _ h

/-- A write of one object leaves every other one. -/
theorem putAssay_apart {s : State} (h : s.memOk = true) {k k' : Nat} (hk : k % 128 = 0) (hk' : k' % 128 = 0) (hne : k ≠ k')
    (a : Assay) : cellsRead (s.putAssay k a).mem k' 128 = cellsRead s.mem k' 128 := by
  rw [putAssay_mem]
  split
  · rfl
  · exact cellsRead_object_apart h hk hk' hne a

/-- The first bytes of an object. -/
theorem cellsRead_96 {m m' : List Host.Cell} {k : Nat} (h : cellsRead m k 128 = cellsRead m' k 128) :
    cellsRead m k 96 = cellsRead m' k 96 := by
  refine cellsRead_congr 96 k (fun j hj => ?_)
  have hj' : j < 128 := by omega
  rw [← cellsRead_getD m 128 k j hj', ← cellsRead_getD m' 128 k j hj', h]

/-- Objects at none of the keys that are written stay. -/
theorem putEach_apart (g : Nat → Assay → Assay) {k : Nat} (hk : k % 128 = 0) : ∀ {slots : List (Nat × Nat)} {s : State},
    s.memOk = true → (∀ e ∈ slots, e.2 % 128 = 0) → (∀ e ∈ slots, e.2 ≠ k) →
      cellsRead (s.putEach slots g).mem k 128 = cellsRead s.mem k 128
  | [], _, _, _, _ => rfl
  | e :: slots, s, hm, ha, hne => by
    have htail := putEach_apart g hk (slots := slots) (putAssay_memOk s e.2 (g e.1 (s.assayAt e.2)) hm)
      (fun x hx => ha x (List.mem_cons_of_mem _ hx)) (fun x hx => hne x (List.mem_cons_of_mem _ hx))
    exact htail.trans (putAssay_apart hm (ha e (List.mem_cons_self ..)) hk (hne e (List.mem_cons_self ..)) _)

/-- Each object that is written takes its new form, and one in an owned buffer stays. -/
theorem putEach_writes (g : Nat → Assay → Assay) : ∀ {slots : List (Nat × Nat)} {s : State}, s.memOk = true →
    (slots.map Prod.snd).Nodup → (∀ e ∈ slots, e.2 % 128 = 0) → ∀ e ∈ slots,
      cellsRead (s.putEach slots g).mem e.2 96 =
        if s.handleBars none e.2 96 then cellsRead s.mem e.2 96 else (g e.1 (s.assayAt e.2)).bytes
  | [], _, _, _, _, e, he => absurd he List.not_mem_nil
  | x :: slots, s, hm, hn, ha, e, he => by
    obtain ⟨hx, hn'⟩ := List.nodup_cons.mp hn
    have hm' := putAssay_memOk s x.2 (g x.1 (s.assayAt x.2)) hm
    have ha' : ∀ e ∈ slots, e.2 % 128 = 0 := fun e h => ha e (List.mem_cons_of_mem _ h)
    have hxa := ha x (List.mem_cons_self ..)
    rcases List.mem_cons.mp he with rfl | hin
    · have hrest := putEach_apart g hxa hm' ha' (fun y hy hye => hx (hye ▸ List.mem_map_of_mem hy))
      rw [State.putEach, List.foldl_cons, ← State.putEach, cellsRead_96 hrest, putAssay_mem]
      split
      · rfl
      · rw [← assay_bytes_length (g e.1 (s.assayAt e.2)), cellsRead_cellsWrite hm]
    · have hne : x.2 ≠ e.2 := fun h => hx (h ▸ List.mem_map_of_mem hin)
      have hsame := putAssay_apart hm hxa (ha' e hin) hne (g x.1 (s.assayAt x.2))
      have hat : (s.putAssay x.2 (g x.1 (s.assayAt x.2))).assayAt e.2 = s.assayAt e.2 := congrArg Assay.read hsame
      rw [State.putEach, List.foldl_cons, ← State.putEach, putEach_writes g hm' hn' ha' e hin, hat, cellsRead_96 hsame,
        (kept_putAssay s x.2 _).handleBars]

/-! ### The start -/

section
variable {s : State} {n : Nat} {l : Launch}

/-- What a launch's start sets in it. -/
def State.started (s : State) (l : Launch) : Launch → Launch := fun m =>
  { m with
    phase := .started
    startCycle := s.dcycle
    pinned := match (if l.producer ≠ 0 ∧ l.consume = 2 then s.localSlab l.producer else none) with
      | some k => cellsRead s.mem k 128
      | none => []
    grants := if l.depth = 1 then s.readGrants l.queue else l.grants
    words := s.codeNow m }

/-- The state with the launch started, before its queue has passed a pre-emption point. -/
def State.startedState (s : State) (l : Launch) : State := (s.openSlots l).onLaunch l.num (s.started l)

theorem startLaunch_not (hl : s.launch? n = some l) (h : ¬ s.startReady l = true) : s.startLaunch n = s := by
  simp only [State.startLaunch, hl, h, Bool.not_false, if_true]

theorem startLaunch_starts (hl : s.launch? n = some l) (hn : l.num = n) (h : s.startReady l = true) : s.startLaunch n =
    if l.depth = 1 then ((s.startedState l).noteStart l).passSlot l.queue else s.startedState l := by
  simp only [State.startLaunch, hl, h, Bool.not_true, Bool.false_eq_true, if_false, State.startedState, hn]
  rfl

/-- What the start leaves but for the captured order of starts and the slots of the queues. -/
theorem startLaunch_frame (hl : s.launch? n = some l) (hn : l.num = n) (h : s.startReady l = true) :
    ∃ capture slots, s.startLaunch n = { s.startedState l with capture := capture, slots := slots } := by
  rw [startLaunch_starts hl hn h]
  split
  · exact ⟨_, _, rfl⟩
  · exact ⟨_, _, rfl⟩

theorem started_num (s : State) (l m : Launch) : (s.started l m).num = m.num := rfl

theorem startedState_launch (hl : s.launch? n = some l) (hn : l.num = n) :
    ∃ m, (s.startedState l).launch? n = some (s.started l m) ∧ m.untested = l.untested := by
  obtain ⟨m, hm, hml⟩ := (kept_putEach s (s.slotsOf l) (fun _ a => a.opened l)).find hl
  refine ⟨m, ?_, hml⟩
  rw [State.startedState, openSlots_eq, hn]
  exact launch?_onLaunch hm (started_num s l)

theorem startedState_clock (s : State) (l : Launch) :
    (s.startedState l).dcycle = s.dcycle ∧ (s.startedState l).metered = s.metered := by
  rw [State.startedState, State.onLaunch_dcycle, State.onLaunch_metered, openSlots_eq]
  exact ⟨(kept_putEach s _ _).dcycle, (aside_putEach s _ _).metered⟩

/-- The bytes of a slot object as a start leaves it, as R75 lists them. -/
theorem opened_bytes (a : Assay) (l : Launch) : (a.opened l).bytes =
    leBytes 8 0 ++ leBytes 8 0 ++ leBytes 8 0 ++ leBytes 8 0x7FF0000000000000 ++ leBytes 8 a.target ++
      leBytes 1 a.confidence ++ leBytes 1 0 ++ leBytes 2 a.reserved ++ leBytes 4 l.nmin ++ leBytes 8 l.total ++
      leBytes 8 0 ++ leBytes 8 (2 ^ 64 - 1) ++ leBytes 8 0 ++ leBytes 8 l.producer ++ leBytes 8 0 := by
  have hinf : binary64.infCode = 0x7FF0000000000000 := by decide
  simp only [Assay.bytes, Assay.opened, hinf]

/-- The start of a launch that may start. -/
theorem launchStart_answers (hl : s.launch? n = some l) (hn : l.num = n) (h : s.startReady l = true) :
    Answers s (.launchStart n) (fun t => SameThreads s t ∧
      (∃ l', t.launch? n = some l' ∧ l'.phase = .started ∧ l'.startCycle = s.dcycle ∧ l'.status = l.status) ∧
      (((s.slotsOf l).map Prod.snd).Nodup → (∀ e ∈ s.slotsOf l, e.2 % 128 = 0) → ∀ e ∈ s.slotsOf l,
        (s.handleBars none e.2 96 = true → Holds s t e.2 (cellsRead s.mem e.2 96)) ∧
        (s.handleBars none e.2 96 = false → Holds s t e.2 ((s.assayAt e.2).opened l).bytes))) := by
  obtain ⟨capture, slots, ht⟩ := startLaunch_frame hl hn h
  have haside := aside_putEach s (s.slotsOf l) (fun _ a => a.opened l)
  obtain ⟨m, hm, hml⟩ := startedState_launch hl hn
  have hstatus : m.untested.status = l.untested.status := congrArg Launch.status hml
  have hmem : (s.startLaunch n).mem = (s.putEach (s.slotsOf l) (fun _ a => a.opened l)).mem := by
    rw [ht]
    rfl
  refine ⟨s.startLaunch n, rfl, ?_, ?_, fun hnodup haligned e he => ⟨fun hb hok => ?_, fun hb hok => ?_⟩⟩
  · rw [ht]
    exact haside.sameThreads
  · rw [ht]
    exact ⟨_, hm, rfl, rfl, hstatus⟩
  · rw [hmem, cellsRead_length, putEach_writes _ hok hnodup haligned e he, if_pos hb]
  · rw [hmem, assay_bytes_length, putEach_writes _ hok hnodup haligned e he, if_neg (by rw [hb]; exact Bool.false_ne_true)]

/-! ### A cycle of the dispatcher -/

theorem countStall_phase (s : State) (l : Launch) : (s.countStall l).num = l.num ∧ (s.countStall l).phase = l.phase := by
  unfold State.countStall
  split <;> exact ⟨rfl, rfl⟩

theorem meetFailures_none (h : ∀ l ∈ s.launches, l.failing = none) : s.meetFailures = s := by
  have hfold : ∀ (ls : List Launch), (∀ l ∈ ls, l.failing = none) → ls.foldl (fun s l => match l.failing with
      | some e => if l.phase != .finished && l.status == 0 && decide (e.2 ≤ s.dcycle) then s.failLaunch l.num e.1 else s
      | none => s) s = s := by
    intro ls hls
    induction ls with
    | nil => rfl
    | cons a ls ih =>
      rw [List.foldl_cons, hls a (List.mem_cons_self ..)]
      exact ih (fun l hl => hls l (List.mem_cons_of_mem _ hl))
  exact hfold s.launches h

theorem checkDeadline_none (hl : s.launch? n = some l) (hd : l.deadline = 0) : s.checkDeadline n = s := by
  simp only [State.checkDeadline, hl, State.pastDeadline, hd, bne_self_eq_false, Bool.and_false, Bool.false_and,
    Bool.false_eq_true, if_false]

/-- The state in which a cycle of the dispatcher counts stalls. -/
def State.cycleChecked (s : State) : State :=
  ((s.meetFailures.launches.map Launch.num).foldl State.checkDeadline s.meetFailures.startDue).measureDue

theorem dispCycle_phase (s : State) (n : Nat) :
    (s.dispCycle.launch? n).map Launch.phase = (s.cycleChecked.launch? n).map Launch.phase := by
  have hlaunches : s.dispCycle.launches = s.cycleChecked.launches.map s.cycleChecked.countStall := rfl
  rw [launch?_map hlaunches (fun l => (countStall_phase _ l).1), Option.map_map]
  exact congrArg (fun g => (s.cycleChecked.launch? n).map g) (funext fun l => (countStall_phase _ l).2)

/-- A cycle of the dispatcher starts the one launch there is, whose PRODUCER has met its start condition. -/
theorem dispCycle_starts (hl : s.launch? n = some l) (hn : l.num = n) (h : s.startReady l = true) (hp : l.producer ≠ 0)
    (hone : s.launches = [l]) (hf : l.failing = none) (hd : l.deadline = 0) (hm : s.dcycle < s.metered + 1024) :
    (s.dispCycle.launch? n).map Launch.phase = some .started := by
  have hfail : s.meetFailures = s := meetFailures_none (fun m hm => by
    rw [hone, List.mem_singleton] at hm
    rw [hm, hf])
  have hstart : s.startDue = s.startLaunch n := by
    simp only [State.startDue, hone, List.filter_cons, List.filter_nil, bne_iff_ne, ne_eq, hp, not_false_eq_true, h,
      Bool.and_true, if_true, List.map_cons, List.map_nil, List.foldl_cons, List.foldl_nil, hn]
  obtain ⟨capture, slots, ht⟩ := startLaunch_frame hl hn h
  obtain ⟨m, hfound, hml⟩ := startedState_launch hl hn
  have hfound' : (s.startLaunch n).launch? n = some (s.started l m) := by
    rw [ht]
    exact hfound
  have hdead : (s.started l m).deadline = 0 := by
    have hrcd : m.untested.deadline = l.untested.deadline := congrArg Launch.deadline hml
    exact hrcd.trans hd
  have hmeter : (s.startLaunch n).measureDue = s.startLaunch n := by
    refine if_pos ?_
    obtain ⟨hcycle, hmetered⟩ := startedState_clock s l
    rw [ht]
    show (s.startedState l).dcycle < (s.startedState l).metered + 1024
    rw [hcycle, hmetered]
    exact hm
  have hchecked : s.cycleChecked = s.startLaunch n := by
    rw [State.cycleChecked, hfail, hstart, hone, List.map_cons, List.map_nil, hn, List.foldl_cons, List.foldl_nil,
      checkDeadline_none hfound' hdead, hmeter]
  rw [dispCycle_phase, hchecked, hfound', Option.map_some]
  rfl

end

end Sys2Proof.Machine
end

section
/-!
PROOF. The end of a grid and its completion record, and the whole of O39.
-/
namespace Sys2Proof.Machine

section
variable {s : State} {n : Nat} {l : Launch}

/-! ### The completion record -/

/-- The traffic and the number that a completion record takes before it is written. -/
def State.recordSent (s : State) (k : Nat) (rcd : List Byte) : State :=
  { s.spanOut k s.nextNum (.store rcd) with nextNum := s.nextNum + 1 }

theorem recordSent_frame (s : State) (k : Nat) (rcd : List Byte) :
    ∃ links num, s.recordSent k rcd = { s with linkOut := links, nextNum := num } := by
  obtain ⟨links, h⟩ := spanOut_frame s k s.nextNum (.store rcd)
  rw [State.recordSent, h]
  exact ⟨_, _, rfl⟩

theorem writeCompletion_eq (s : State) (l : Launch) (rcd : List Byte) : s.writeCompletion l rcd =
    if l.complete = 0 then s else match s.mayComplete l l.complete with
      | some k => ((s.recordSent k rcd).homeStore k rcd false).markEvent k 32
      | none => s.clerkCount clerkRecord := rfl

theorem kept_recordSent (s : State) (k : Nat) (rcd : List Byte) : Kept s (s.recordSent k rcd) := by
  obtain ⟨links, num, h⟩ := recordSent_frame s k rcd
  rw [h]
  exact kept_of_same rfl rfl rfl rfl rfl rfl

theorem aside_recordSent (s : State) (k : Nat) (rcd : List Byte) : Aside s (s.recordSent k rcd) := by
  obtain ⟨links, num, h⟩ := recordSent_frame s k rcd
  rw [h]
  exact ⟨rfl, rfl, rfl, rfl⟩

theorem kept_clerkCount (s : State) (kind : Nat) : Kept s (s.clerkCount kind) := kept_of_same rfl rfl rfl rfl rfl rfl
theorem aside_clerkCount (s : State) (kind : Nat) : Aside s (s.clerkCount kind) := ⟨rfl, rfl, rfl, rfl⟩

theorem kept_writeCompletion (s : State) (l : Launch) (rcd : List Byte) : Kept s (s.writeCompletion l rcd) := by
  rw [writeCompletion_eq]
  split
  · exact Kept.refl s
  · split
    · exact ((kept_recordSent s _ rcd).trans (kept_homeStore _ _ rcd false)).trans (kept_markEvent _ _ 32)
    · exact kept_clerkCount s _

theorem aside_writeCompletion (s : State) (l : Launch) (rcd : List Byte) : Aside s (s.writeCompletion l rcd) := by
  rw [writeCompletion_eq]
  split
  · exact Aside.refl s
  · split
    · exact ((aside_recordSent s _ rcd).trans (aside_homeStore _ _ rcd false)).trans (aside_markEvent _ _ 32)
    · exact aside_clerkCount s _

theorem writeCompletion_unwritten (h : l.complete = 0 ∨ s.mayComplete l l.complete = none) (rcd : List Byte) :
    (s.writeCompletion l rcd).mem = s.mem := by
  rw [writeCompletion_eq]
  split
  · rfl
  · rename_i h0
    rw [h.resolve_left h0]
    rfl

theorem writeCompletion_mem {k : Nat} (h0 : l.complete ≠ 0) (hk : s.mayComplete l l.complete = some k) (rcd : List Byte) :
    (s.writeCompletion l rcd).mem = cellsWrite s.mem k rcd := by
  obtain ⟨links, num, h⟩ := recordSent_frame s k rcd
  rw [writeCompletion_eq, if_neg h0, hk]
  simp only [markEvent_mem, homeStore_mem]
  rw [h]

/-! ### The end of a grid -/

/-- The completion record of a grid that finishes. -/
def State.endRecord (s : State) (l : Launch) : List Byte :=
  completionRecord l.status l.depth l.sent l.retired (if l.phase = .waiting then 0 else s.dcycle - l.startCycle)

def Launch.ended (l : Launch) : Launch := { l with phase := .finished }

/-- A core that has yet to see a launch's end. -/
def Core.sawEnd (n : Nat) (c : Core) : Core := { c with newEnds := c.newEnds ++ [n] }

theorem finishGrid_eq (s : State) (l : Launch) : s.finishGrid l =
    let u := (((s.writeCompletion l (s.endRecord l)).onLaunch l.num Launch.ended).noteDigest l.num).crossing
      (Core.sawEnd l.num)
    if l.depth = 1 then u.passSlot l.queue else u := rfl

theorem noteDigest_frame (s : State) (n : Nat) : ∃ capture, s.noteDigest n = { s with capture := capture } := by
  unfold State.noteDigest
  split
  · split <;> exact ⟨_, rfl⟩
  · exact ⟨_, rfl⟩

/-- What a grid's end changes behind its completion record. -/
theorem finishGrid_frame (s : State) (l : Launch) : ∃ capture cores slots, s.finishGrid l =
    { (s.writeCompletion l (s.endRecord l)).onLaunch l.num Launch.ended with
      capture := capture
      cores := cores
      slots := slots } := by
  obtain ⟨capture, hd⟩ := noteDigest_frame ((s.writeCompletion l (s.endRecord l)).onLaunch l.num Launch.ended) l.num
  obtain ⟨cores, hc⟩ := crossing_frame (((s.writeCompletion l (s.endRecord l)).onLaunch l.num Launch.ended).noteDigest l.num)
    (Core.sawEnd l.num)
  rw [finishGrid_eq]
  simp only [hc]
  rw [hd]
  split
  · exact ⟨_, _, _, rfl⟩
  · exact ⟨_, _, _, rfl⟩

theorem finishGrid_launch (hl : s.launch? n = some l) (hn : l.num = n) :
    ((s.finishGrid l).launch? n).map Launch.phase = some .finished := by
  obtain ⟨capture, cores, slots, h⟩ := finishGrid_frame s l
  obtain ⟨m, hm, -⟩ := (kept_writeCompletion s l (s.endRecord l)).find hl
  rw [h]
  show (((s.writeCompletion l (s.endRecord l)).onLaunch l.num Launch.ended).launch? n).map Launch.phase = _
  rw [hn, launch?_onLaunch (g := Launch.ended) hm (fun _ => rfl)]
  rfl

theorem finishGrid_mem (s : State) (l : Launch) : (s.finishGrid l).mem = (s.writeCompletion l (s.endRecord l)).mem := by
  obtain ⟨capture, cores, slots, h⟩ := finishGrid_frame s l
  rw [h]
  rfl

theorem finishGrid_threads (s : State) (l : Launch) : SameThreads s (s.finishGrid l) := by
  obtain ⟨capture, cores, slots, h⟩ := finishGrid_frame s l
  rw [h]
  exact (aside_writeCompletion s l (s.endRecord l)).sameThreads

/-- The workgroups of a grid that may retire only now, at its GRID_FINISH. -/
def State.lastRetired (s : State) (n : Nat) (l0 : Launch) : State :=
  s.retireAll (fun w => w.launch == n && (l0.status != 0 || (s.liveOfWg w.num).isEmpty))

theorem exec_gridFinish {l0 : Launch} (hl0 : s.launch? n = some l0) (hl : (s.lastRetired n l0).launch? n = some l) :
    exec (.gridFinish n) s = .next (if (s.lastRetired n l0).mayFinish l then
      ((s.lastRetired n l0).finishGrid l).retireAll (fun w => ((s.lastRetired n l0).liveOfWg w.num).isEmpty && w.place == .resident)
      else s.lastRetired n l0) := by
  have hl' : (s.retireAll (fun w => w.launch == n && (l0.status != 0 || (s.liveOfWg w.num).isEmpty))).launch? n = some l := hl
  show execGridFinish n s = _
  simp only [execGridFinish, hl0, hl']
  rfl

theorem exec_launchStart (s : State) (n : Nat) : exec (.launchStart n) s = .next (s.startLaunch n) := rfl

end

/-- Settles O39: the model's tests are those of R64, R74 and R95; a start writes the slot objects one after another and then
marks the launch; a grid's end writes its record first, and what follows touches neither memory nor threads. -/
theorem launchLife : Obligations.LaunchLife := by
  refine ⟨fun s n l hl hn => ?_, fun s n l0 l hl0 _ => ?_⟩
  · intro ready
    have hready : s.startReady l = true ↔ ready := startReady_iff s l
    refine ⟨fun hr => ?_, fun hw key bytes poisoned => ⟨fun k hp hk hover => ?_, fun hapart => ?_⟩, fun hr hp hone hf hd hm => ?_,
      fun hr => ?_⟩
    · rw [Stays, exec_launchStart, startLaunch_not hl (mt hready.mp hr)]
    · obtain ⟨met, hfound, hmet⟩ := homeStore_tested hl hw hp hk key bytes poisoned hover
      refine ⟨_, hfound, ?_, fun c hc => ?_⟩
      · rw [due_eq, due_eq, counting_tested]
      · rw [due_tested l hc]
        exact hmet
    · rw [homeStore_untested hl key bytes poisoned hapart, Option.map_some]
    · exact dispCycle_starts hl hn (hready.mpr hr) hp hone hf hd hm
    · obtain ⟨t, ht, hthreads, hlaunch, hslots⟩ := launchStart_answers hl hn (hready.mpr hr)
      refine ⟨t, ht, hthreads, hlaunch, fun hnodup haligned e he => ⟨(hslots hnodup haligned e he).1, fun hb => ?_⟩⟩
      rw [← opened_bytes]
      exact (hslots hnodup haligned e he).2 hb
  · intro s0 hl hn
    have hlive (g : Nat) : (s0.finishGrid l).liveOfWg g = s0.liveOfWg g := by
      rw [State.liveOfWg, State.liveOfWg, (finishGrid_threads s0 l).1]
    have hexec := exec_gridFinish hl0 hl
    refine ⟨fun hm => ?_, fun hm => ⟨s0.finishGrid l, ?_, finishGrid_launch hl hn, finishGrid_threads s0 l, fun h => ?_,
      fun k h0 hk hok a => ?_⟩⟩
    · rw [hexec]
      exact congrArg _ (if_neg (by rw [show (s.lastRetired n l0).mayFinish l = false from hm]; exact Bool.false_ne_true))
    · rw [hexec, if_pos (show (s.lastRetired n l0).mayFinish l = true from hm)]
      simp only [hlive]
      rfl
    · rw [finishGrid_mem, writeCompletion_unwritten h]
    · rw [finishGrid_mem, writeCompletion_mem h0 hk]
      exact cellRead_cellsWrite _ hok k a

end Sys2Proof.Machine
end

section
/-!
PROOF. Doorbells and packets: what HEAD and QERR become, in the queue and in the copies of its descriptor (O38).
-/
namespace Sys2Proof.Machine

/-! ### The same bytes at several places -/

/-- The same bytes written at each of some keys. -/
def cellsWriteAll (bytes : List Byte) (keys : List Nat) (m : List Host.Cell) : List Host.Cell :=
  keys.foldl (fun m k => cellsWrite m k bytes) m

section
variable {bytes : List Byte}

theorem wf_cellsWriteAll : ∀ (keys : List Nat) {m : List Host.Cell}, Memory.wf m = true →
    Memory.wf (cellsWriteAll bytes keys m) = true
  | [], _, h => h
  | k :: keys, m, h => wf_cellsWriteAll keys (wf_cellsWrite bytes m k h)

theorem cellRead_cellsWriteAll_outside {a : Nat} : ∀ {keys : List Nat} {m : List Host.Cell}, Memory.wf m = true →
    (∀ k ∈ keys, ¬(k ≤ a ∧ a < k + bytes.length)) → cellRead (cellsWriteAll bytes keys m) a = cellRead m a
  | [], _, _, _ => rfl
  | k :: keys, m, h, ha => by
    have hrest := cellRead_cellsWriteAll_outside (keys := keys) (wf_cellsWrite bytes m k h)
      (fun x hx => ha x (List.mem_cons_of_mem _ hx))
    exact hrest.trans ((cellRead_cellsWrite bytes h k a).trans (if_neg (ha k (List.mem_cons_self ..))))

/-- Bytes that stand at a key go on standing there while they are written at the same key or apart from it. -/
theorem cellsRead_cellsWriteAll_stays {key : Nat} : ∀ {keys : List Nat} {m : List Host.Cell}, Memory.wf m = true →
    (∀ k ∈ keys, k = key ∨ key + bytes.length ≤ k ∨ k + bytes.length ≤ key) → cellsRead m key bytes.length = bytes →
      cellsRead (cellsWriteAll bytes keys m) key bytes.length = bytes
  | [], _, _, _, hb => hb
  | k :: keys, m, h, hk, hb => by
    refine cellsRead_cellsWriteAll_stays (keys := keys) (wf_cellsWrite bytes m k h)
      (fun x hx => hk x (List.mem_cons_of_mem _ hx)) ?_
    rcases hk k (List.mem_cons_self ..) with rfl | hapart
    · exact cellsRead_cellsWrite h k bytes
    · rw [cellsRead_cellsWrite_apart h hapart, hb]

theorem cellsRead_cellsWriteAll {key : Nat} : ∀ {keys : List Nat} {m : List Host.Cell}, Memory.wf m = true → key ∈ keys →
    (∀ k ∈ keys, k = key ∨ key + bytes.length ≤ k ∨ k + bytes.length ≤ key) →
      cellsRead (cellsWriteAll bytes keys m) key bytes.length = bytes
  | [], _, _, hin, _ => absurd hin List.not_mem_nil
  | k :: keys, m, h, hin, hk => by
    have hk' : ∀ x ∈ keys, x = key ∨ key + bytes.length ≤ x ∨ x + bytes.length ≤ key :=
      fun x hx => hk x (List.mem_cons_of_mem _ hx)
    rcases List.mem_cons.mp hin with rfl | hin'
    · exact cellsRead_cellsWriteAll_stays (m := cellsWrite m key bytes) (wf_cellsWrite bytes m key h) hk' (cellsRead_cellsWrite h key bytes)
    · exact cellsRead_cellsWriteAll (m := cellsWrite m k bytes) (wf_cellsWrite bytes m k h) hin' hk'

end

/-! ### HEAD and QERR change -/

/-- The bytes of HEAD and QERR in a descriptor. -/
def HostQueue.headBytes (h : HostQueue) : List Byte := leBytes 8 h.head ++ leBytes 4 h.qerr

theorem headBytes_length (h : HostQueue) : h.headBytes.length = 12 := by
  rw [HostQueue.headBytes, List.length_append, leBytes_length, leBytes_length]

/-- Where the copies of a queue's HEAD and QERR stand: in the system areas of its slots. -/
def State.headKeys (s : State) (q : Nat) : List Nat :=
  (s.slots.filter (fun e => e.2.queue == q)).map (fun e => slabKey e.1 0x7F0040)

theorem headKeys_apart {s : State} {q k k' : Nat} (hk : k ∈ s.headKeys q) (hk' : k' ∈ s.headKeys q) :
    k' = k ∨ k + 12 ≤ k' ∨ k' + 12 ≤ k := by
  obtain ⟨e, -, rfl⟩ := List.mem_map.mp hk
  obtain ⟨e', -, rfl⟩ := List.mem_map.mp hk'
  simp only [slabKey]
  omega

theorem mem_headKeys {s : State} {q : Nat} {e : Nat × QSlot} (he : e ∈ s.slots) (hq : e.2.queue = q) :
    slabKey e.1 0x7F0040 ∈ s.headKeys q :=
  List.mem_map_of_mem (f := fun e : Nat × QSlot => slabKey e.1 0x7F0040) (List.mem_filter.mpr ⟨he, beq_iff_eq.mpr hq⟩)

theorem onHead_mem (s : State) (q : Nat) (g : HostQueue → HostQueue) :
    (s.onHead q g).mem = cellsWriteAll (g (s.queue q)).headBytes (s.headKeys q) s.mem := by
  have hq : (s.onQueue q g).queue q = g (s.queue q) := by rw [queue_onQueue, if_pos rfl]
  simp only [State.onHead, hq, cellsWriteAll, State.headKeys, List.foldl_map]
  rfl

/-- A queue becomes another, and no other queue changes. -/
def QueueBecomes (s t : State) (q : Nat) (h : HostQueue) : Prop := t.queue q = h ∧ ∀ k, k ≠ q → t.queue k = s.queue k

/-- HEAD and QERR of a queue stand in its slots' copies, and no other byte of memory has changed. -/
def HeadCopied (s t : State) (q : Nat) (h : HostQueue) : Prop := s.memOk = true →
  (∀ e ∈ s.slots, e.2.queue = q → cellsRead t.mem (slabKey e.1 0x7F0040) 12 = leBytes 8 h.head ++ leBytes 4 h.qerr) ∧
  ∀ a, (∀ e ∈ s.slots, e.2.queue = q → ¬(slabKey e.1 0x7F0040 ≤ a ∧ a < slabKey e.1 0x7F0040 + 12)) →
    cellRead t.mem a = cellRead s.mem a

theorem onHead_becomes (s : State) (q : Nat) (g : HostQueue → HostQueue) :
    QueueBecomes s (s.onHead q g) q (g (s.queue q)) := by
  constructor
  · show (s.onQueue q g).queue q = _
    rw [queue_onQueue, if_pos rfl]
  · intro k hk
    show (s.onQueue q g).queue k = _
    rw [queue_onQueue, if_neg hk]

theorem QueueBecomes.trans {s t u : State} {q : Nat} {h h' : HostQueue} (h1 : QueueBecomes s t q h)
    (h2 : QueueBecomes t u q h') : QueueBecomes s u q h' := ⟨h2.1, fun k hk => (h2.2 k hk).trans (h1.2 k hk)⟩

/-- HEAD and QERR written over a memory that differs from the first at their places only. -/
theorem headCopied_of_mem {s t : State} {q : Nat} {h : HostQueue} {m : List Host.Cell}
    (ht : t.mem = cellsWriteAll h.headBytes (s.headKeys q) m) (hm : s.memOk = true → Memory.wf m = true ∧
      ∀ a, (∀ k ∈ s.headKeys q, ¬(k ≤ a ∧ a < k + 12)) → cellRead m a = cellRead s.mem a) : HeadCopied s t q h := by
  intro hok
  obtain ⟨hwf, hout⟩ := hm hok
  refine ⟨fun e he hq => ?_, fun a ha => ?_⟩
  · have hread := cellsRead_cellsWriteAll (bytes := h.headBytes) hwf (mem_headKeys he hq)
      (fun k hk => by rw [headBytes_length]; exact headKeys_apart (mem_headKeys he hq) hk)
    rw [headBytes_length] at hread
    rw [ht]
    exact hread
  · have ha' : ∀ k ∈ s.headKeys q, ¬(k ≤ a ∧ a < k + 12) := by
      intro k hk
      obtain ⟨e, he, rfl⟩ := List.mem_map.mp hk
      obtain ⟨hin, hq⟩ := List.mem_filter.mp he
      exact ha e hin (beq_iff_eq.mp hq)
    rw [ht, cellRead_cellsWriteAll_outside hwf (by rwa [headBytes_length]), hout a ha']

theorem onHead_copied (s : State) (q : Nat) (g : HostQueue → HostQueue) : HeadCopied s (s.onHead q g) q (g (s.queue q)) :=
  headCopied_of_mem (onHead_mem s q g) (fun hok => ⟨hok, fun _ _ => rfl⟩)

/-! ### A packet consumed -/

section
variable {s : State} {q : Nat} {p : List Byte}

/-- A queue with one packet consumed, and one whose packet was bad. -/
def HostQueue.done (h : HostQueue) : HostQueue := { h with head := h.head + 1 }

def HostQueue.bad (h : HostQueue) : HostQueue := { h with qerr := qerrBADPACKET }

theorem consume_becomes (s : State) (q : Nat) (p : List Byte) : QueueBecomes s (s.consume q p) q (s.queue q).done :=
  onHead_becomes s q HostQueue.done

theorem consume_copied (s : State) (q : Nat) (p : List Byte) : HeadCopied s (s.consume q p) q (s.queue q).done :=
  onHead_copied s q HostQueue.done

/-- A bad packet is consumed, and records BADPACKET. -/
def State.badPacket (s : State) (q : Nat) (p : List Byte) : State := (s.consume q p).onHead q HostQueue.bad

theorem badPacket_becomes (s : State) (q : Nat) (p : List Byte) :
    QueueBecomes s (s.badPacket q p) q (s.queue q).done.bad := by
  have h := consume_becomes s q p
  have h' := onHead_becomes (s.consume q p) q HostQueue.bad
  rw [h.1] at h'
  exact h.trans h'

theorem badPacket_copied (s : State) (q : Nat) (p : List Byte) : HeadCopied s (s.badPacket q p) q (s.queue q).done.bad := by
  have hmem : (s.badPacket q p).mem = cellsWriteAll (s.queue q).done.bad.headBytes (s.headKeys q)
      (cellsWriteAll (s.queue q).done.headBytes (s.headKeys q) s.mem) := by
    rw [State.badPacket, onHead_mem, (consume_becomes s q p).1, ← onHead_mem s q HostQueue.done]
    rfl
  refine headCopied_of_mem hmem (fun hok => ⟨wf_cellsWriteAll _ hok, fun a ha => ?_⟩)
  exact cellRead_cellsWriteAll_outside hok (by rwa [headBytes_length])

theorem onHead_launches (s : State) (q : Nat) (g : HostQueue → HostQueue) : (s.onHead q g).launches = s.launches := rfl

theorem consume_launches (s : State) (q : Nat) (p : List Byte) : (s.consume q p).launches = s.launches := rfl

theorem badPacket_launches (s : State) (q : Nat) (p : List Byte) : (s.badPacket q p).launches = s.launches := by
  rw [State.badPacket, onHead_launches, consume_launches]

/-! ### Doorbells -/

def HostQueue.back (h : HostQueue) : HostQueue := { h with qerr := qerrBACK }

def HostQueue.overflown (h : HostQueue) : HostQueue := { h with qerr := qerrOVERFLOW }

theorem exec_doorbell (s : State) (q count : Nat) : exec (.doorbell q count) s =
    .next (if q ≥ Config.hostQueues then s
      else if count < (s.queue q).doorbell then s.onHead q HostQueue.back
      else if count > (s.queue q).head + (s.queue q).ringN then s.onHead q HostQueue.overflown
      else s.onQueue q (fun h => { h with doorbell := count % 2 ^ 64 })) := rfl

section
variable {count : Nat}

theorem doorbell_above (hq : 4096 ≤ q) : Stays s (.doorbell q count) := by
  have hq' : q ≥ Config.hostQueues := hq
  rw [Stays, exec_doorbell, if_pos hq']

theorem doorbell_back (hq : q < 4096) (hb : count < (s.queue q).doorbell) :
    exec (.doorbell q count) s = .next (s.onHead q HostQueue.back) := by
  have hq' : ¬ q ≥ Config.hostQueues := Nat.not_le.mpr hq
  rw [exec_doorbell, if_neg hq', if_pos hb]

theorem doorbell_overflown (hq : q < 4096) (hb : (s.queue q).doorbell ≤ count) (ho : (s.queue q).head + (s.queue q).ringN < count) :
    exec (.doorbell q count) s = .next (s.onHead q HostQueue.overflown) := by
  have hq' : ¬ q ≥ Config.hostQueues := Nat.not_le.mpr hq
  rw [exec_doorbell, if_neg hq', if_neg (Nat.not_lt.mpr hb), if_pos ho]

theorem doorbell_counts (hq : q < 4096) (hb : (s.queue q).doorbell ≤ count) (ho : count ≤ (s.queue q).head + (s.queue q).ringN) :
    exec (.doorbell q count) s = .next (s.onQueue q (fun h => { h with doorbell := count % 2 ^ 64 })) := by
  have hq' : ¬ q ≥ Config.hostQueues := Nat.not_le.mpr hq
  rw [exec_doorbell, if_neg hq', if_neg (Nat.not_lt.mpr hb), if_neg (Nat.not_lt.mpr ho)]

end

/-! ### Packets -/

/-- The launch of a packet's record, before its checks. -/
def State.packetShell (s : State) (q addr : Nat) (rcd : List Byte) : Launch :=
  Launch.ofRecord s.nextLaunch (BitVec.ofNat 64 addr) rcd q 1 none none (s.readGrants q) []

/-- The read of a packet's record. -/
def State.packetRead (s : State) (q addr : Nat) : TeamRead :=
  s.deskRead { launch := s.packetShell q addr [], wg := none, viewer := none, core := 0 } addr 512 64

/-- The state in which a packet's record is judged: the packet is consumed, what the part reads elsewhere is asked for. -/
def State.packetAsked (s : State) (q : Nat) (p : List Byte) (addr : Nat) (l : Launch) : State :=
  ((s.consume q p).fetchFar (s.ptRoot q) addr 512).fetchHeader l

theorem exec_packetNop (hp : s.packet q = some p) : exec (.packetNop q) s =
    .next (if packetKind p = some 0 then s.consume q p else s) := by
  show execPacketNop q s = _
  rw [execPacketNop, hp]

theorem exec_packetOtherKind (hp : s.packet q = some p) : exec (.packetOtherKind q) s =
    .next (if packetKind p = none then s.badPacket q p else s) := by
  show execPacketOtherKind q s = _
  rw [execPacketOtherKind, hp]
  rfl

theorem exec_packetLaunch (hp : s.packet q = some p) (hkind : packetKind p = some 1) : exec (.packetLaunch q) s =
    .next (if s.headWaits q then s
      else if fieldAt p 8 8 % 64 ≠ 0 then s.badPacket q p
      else match s.packetRead q (fieldAt p 8 8) with
        | .got rcd =>
          let r := s.checkLaunch none (s.packetShell q (fieldAt p 8 8) rcd)
          let t := s.packetAsked q p (fieldAt p 8 8) r.2
          if r.1 = 0 then t.acceptLaunch r.2 else t.refuseLaunch r.2 r.1
        | _ => s.badPacket q p) := by
  show execPacketLaunch q s = _
  rw [execPacketLaunch, hp]
  simp only [hkind, ne_eq, not_true_eq_false, false_or]
  rfl

theorem packet_none (h : s.packet q = none) :
    Stays s (.packetNop q) ∧ Stays s (.packetLaunch q) ∧ Stays s (.packetOtherKind q) := by
  refine ⟨?_, ?_, ?_⟩
  · show execPacketNop q s = _
    rw [execPacketNop, h]
  · show execPacketLaunch q s = _
    rw [execPacketLaunch, h]
  · show execPacketOtherKind q s = _
    rw [execPacketOtherKind, h]

theorem packetAsked_frame (s : State) (q : Nat) (p : List Byte) (addr : Nat) (l : Launch) :
    ∃ links num, s.packetAsked q p addr l = { s.consume q p with linkOut := links, nextNum := num } := by
  obtain ⟨links, num, h⟩ := fetchFar_frame (s.consume q p) (s.ptRoot q) addr 512
  rw [State.packetAsked, h, State.fetchHeader]
  split
  · exact ⟨links, num, rfl⟩
  · obtain ⟨links', num', h'⟩ := fetchFar_frame { s.consume q p with linkOut := links, nextNum := num }
      (({ s.consume q p with linkOut := links, nextNum := num } : State).ptRoot l.queue) (l.entry - 64).toNat 64
    rw [h']
    exact ⟨links', num', rfl⟩

/-- A record that passes its checks becomes the next launch. -/
theorem accepted_answers (s : State) (q : Nat) (p : List Byte) (addr : Nat) (l : Launch) :
    let t := (s.packetAsked q p addr l).acceptLaunch l
    QueueBecomes s t q (s.queue q).done ∧ HeadCopied s t q (s.queue q).done ∧
      t.launches = s.launches ++ [{ l with
        tests := if l.producer = 0 then [] else [(s.dcycle, t.producerReady l)] }] ∧ t.nextLaunch = s.nextLaunch + 1 := by
  obtain ⟨links, num, h⟩ := packetAsked_frame s q p addr l
  simp only [h]
  exact ⟨consume_becomes s q p, consume_copied s q p, rfl, rfl⟩

/-- A record that is refused leaves the queue as every packet does, and adds no launch. -/
theorem refused_answers (s : State) (q : Nat) (p : List Byte) (addr status : Nat) (l : Launch) :
    let t := (s.packetAsked q p addr l).refuseLaunch l status
    t.queue q = (s.queue q).done ∧ t.undue = s.undue := by
  obtain ⟨links, num, h⟩ := packetAsked_frame s q p addr l
  have hkept := kept_writeCompletion (s.packetAsked q p addr l) l (completionRecord status l.depth 0 0 0)
  have hqueue : (s.packetAsked q p addr l).queue q = (s.queue q).done := by
    rw [h]
    exact (consume_becomes s q p).1
  have hlaunches : (s.packetAsked q p addr l).launches = s.launches := by
    rw [h]
    rfl
  refine ⟨?_, ?_⟩
  · rw [← hqueue, State.refuseLaunch, State.queue, State.queue, hkept.queues]
  · have hl := hkept.launches
    rw [hlaunches] at hl
    exact hl

end

end Sys2Proof.Machine
end

section
/-!
PROOF. The assignment of queue slots, and the whole of O38.
-/
namespace Sys2Proof.Machine

/-! ### Tables of slots -/

theorem find_setAll_other {α β : Type} {k : β → Nat} {g : β → α} {i : Nat} : ∀ {l : List β} {t : Table α}, (∀ e ∈ l, k e ≠ i) →
    Table.find (l.foldl (fun t e => Table.set t (k e) (g e)) t) i = Table.find t i
  | [], _, _ => rfl
  | e :: l, t, h => by
    have hrest := find_setAll_other (g := g) (l := l) (t := Table.set t (k e) (g e)) (fun x hx => h x (List.mem_cons_of_mem _ hx))
    rw [List.foldl_cons, hrest, Table.find_set, if_neg (fun he => h e (List.mem_cons_self ..) he.symm)]

theorem find_setAll {α β : Type} {k : β → Nat} {g : β → α} : ∀ {l : List β} {t : Table α}, (l.map k).Nodup → ∀ e ∈ l,
    Table.find (l.foldl (fun t e => Table.set t (k e) (g e)) t) (k e) = some (g e)
  | [], _, _, e, he => absurd he List.not_mem_nil
  | x :: l, t, hn, e, he => by
    obtain ⟨hx, hn'⟩ := List.nodup_cons.mp hn
    rw [List.foldl_cons]
    rcases List.mem_cons.mp he with rfl | hin
    · rw [find_setAll_other (fun y hy hye => hx (by rw [← hye]; exact List.mem_map_of_mem hy)), Table.find_set, if_pos rfl]
    · exact find_setAll hn' e hin

theorem find_mem {α : Type} {t : Table α} {k : Nat} {v : α} (h : Table.find t k = some v) : (k, v) ∈ t := by
  induction t with
  | nil => cases h
  | cons e t ih =>
    obtain ⟨a, w⟩ := e
    rw [Table.find] at h
    split at h
    · rename_i ha
      cases h
      rw [ha]
      exact List.mem_cons_self ..
    · exact List.mem_cons_of_mem _ (ih h)

/-! ### Queues take slots -/

/-- A queue takes a slot. -/
def State.mapQueue (full : Bool) (s : State) (e : Nat × Nat) : State :=
  { s with
    slots := Table.set s.slots e.1 { queue := e.2, passed := false, full := full }
    rotLast := e.2
    mem := cellsWrite s.mem (slabKey e.1 Config.systemArea) (s.queue e.2).descNow }.onQueue e.2
    (fun h => { h with desc := h.reg, trace := fieldAt (((s.queue e.2).reg).getD []) 0x30 8 != 0 })

theorem mapQueues_eq (s : State) (l : List (Nat × Nat)) (full : Bool) : s.mapQueues l full = l.foldl (State.mapQueue full) s := rfl

theorem mapQueues_slots (full : Bool) : ∀ (l : List (Nat × Nat)) (s : State), (l.foldl (State.mapQueue full) s).slots =
    l.foldl (fun t e => Table.set t e.1 { queue := e.2, passed := false, full := full }) s.slots
  | [], _ => rfl
  | e :: l, s => mapQueues_slots full l (s.mapQueue full e)

theorem mapQueue_queue (full : Bool) (s : State) (e : Nat × Nat) (q : Nat) : (s.mapQueue full e).queue q =
    if q = e.2 then { s.queue e.2 with
      desc := (s.queue e.2).reg
      trace := fieldAt (((s.queue e.2).reg).getD []) 0x30 8 != 0 } else s.queue q := queue_onQueue _ _ _ _

/-- What a queue's place in a slot does not change: its registration, its doorbell, HEAD and QERR. -/
theorem mapQueue_reg (full : Bool) (s : State) (e : Nat × Nat) (q : Nat) : ((s.mapQueue full e).queue q).reg = (s.queue q).reg := by
  rw [mapQueue_queue]
  split
  · rename_i h
    rw [h]
  · rfl

/-- A descriptor that is copied from the registration stays so. -/
theorem mapQueues_desc (full : Bool) {q : Nat} : ∀ (l : List (Nat × Nat)) {s : State}, (s.queue q).desc = (s.queue q).reg →
    ((l.foldl (State.mapQueue full) s).queue q).desc = (s.queue q).reg
  | [], _, h => h
  | e :: l, s, h => by
    have hnext : ((s.mapQueue full e).queue q).desc = ((s.mapQueue full e).queue q).reg := by
      rw [mapQueue_queue]
      split
      · rfl
      · exact h
    rw [List.foldl_cons, mapQueues_desc full l hnext, mapQueue_reg]

theorem descNow_length_le (h : HostQueue) : h.descNow.length ≤ 128 := by
  simp only [HostQueue.descNow, List.length_append, leBytes_length, List.length_take]
  omega

/-- The descriptor in one slot's system area stays while other slots take queues. -/
theorem mapQueues_mem_apart (full : Bool) {i n : Nat} (hn : n ≤ 128) : ∀ (l : List (Nat × Nat)) {s : State}, s.memOk = true →
    (∀ e ∈ l, e.1 ≠ i) → cellsRead (l.foldl (State.mapQueue full) s).mem (slabKey i Config.systemArea) n =
      cellsRead s.mem (slabKey i Config.systemArea) n
  | [], _, _, _ => rfl
  | e :: l, s, hm, hne => by
    have hi := hne e (List.mem_cons_self ..)
    have hlen := descNow_length_le (s.queue e.2)
    have hok : (s.mapQueue full e).memOk = true := wf_cellsWrite _ _ _ hm
    have hrest := mapQueues_mem_apart full hn l hok (fun x hx => hne x (List.mem_cons_of_mem _ hx))
    refine hrest.trans (cellsRead_cellsWrite_apart hm ?_)
    simp only [slabKey]
    omega

/-! ### Which slots are filled -/

theorem fillSlots_fst : ∀ (is qs : List Nat), ∃ rest, is = (fillSlots is qs).map Prod.fst ++ rest
  | [], qs => ⟨[], by cases qs <;> rfl⟩
  | i :: is, [] => ⟨i :: is, rfl⟩
  | i :: is, q :: qs => by
    obtain ⟨rest, h⟩ := fillSlots_fst is qs
    exact ⟨rest, by rw [fillSlots, List.map_cons, List.cons_append, ← h]⟩

theorem fillSlots_mem {is qs : List Nat} {e : Nat × Nat} (h : e ∈ fillSlots is qs) : e.1 ∈ is := by
  obtain ⟨rest, hr⟩ := fillSlots_fst is qs
  rw [hr]
  exact List.mem_append_left _ (List.mem_map_of_mem h)

section
variable {s : State}

theorem emptySlots_not_mem {i : Nat} (h : i ∈ s.slots.map Prod.fst) : i ∉ s.emptySlots := by
  intro he
  obtain ⟨e, hin, rfl⟩ := List.mem_map.mp h
  have hno := (List.mem_filter.mp he).2
  simp only [Bool.not_eq_true', List.any_eq_false, beq_iff_eq] at hno
  exact hno e hin rfl

/-! ### Rotation -/

theorem hasWork_iff (s : State) (q : Nat) : s.hasWork q = true ↔ (s.queue q).head < (s.queue q).doorbell ∨
    ∃ l ∈ s.launches, l.queue = q ∧ l.depth = 1 ∧ l.phase = .waiting := by
  simp only [State.hasWork, State.headWaits, Bool.or_eq_true, decide_eq_true_eq, List.any_eq_true, Bool.and_eq_true, beq_iff_eq,
    and_assoc]

/-- The slots that keep their queue as a new period begins, marked as held from its start. -/
def State.rotatedKept (s : State) : State :=
  { s with slots := s.rotated.1.foldl (fun t e => Table.set t e.1 { e.2 with passed := false, full := true }) [] }

/-- A queue that loses its slot as a period ends. -/
def State.loses (s : State) (q : Nat) : Bool :=
  s.mapped q && !(s.rotated.1.any (fun e => e.2.queue == q)) && !(s.rotated.2.any (fun e => e.2 == q))

/-- The workgroups that have to leave their cores before the slots are assigned anew. -/
def State.leavingGroups (s : State) : List Workgroup :=
  s.wgs.filter (fun w => w.place == .resident && (match s.launch? w.launch with
    | some l => s.loses l.queue && l.status == 0
    | none => false))

theorem exec_queueRotation (s : State) : exec .queueRotation s = .next (
    if s.periodOver then
      if s.leavingGroups.isEmpty then s.rotatedKept.mapQueues s.rotated.2 true
      else (s.leavingGroups.filter (fun w => s.movable w && !s.rotationWaits w)).foldl (fun s w => s.orderOff w.num) s
    else s.mapQueues (fillSlots s.emptySlots (s.waitingQueues (s.slots.map (fun e => e.2.queue)) s.rotLast ++
      s.strandedQueues (s.slots.map (fun e => e.2.queue)) s.rotLast)) false) := rfl

theorem leavingGroups_idle (h : ∀ w ∈ s.wgs, w.place ≠ .resident) : s.leavingGroups = [] :=
  List.filter_eq_nil_iff.mpr (fun w hw => by
    rw [beq_eq_false_iff_ne.mpr (h w hw), Bool.false_and]
    exact Bool.false_ne_true)

theorem leavingGroups_unmapped (h : s.slots = []) : s.leavingGroups = [] := by
  refine List.filter_eq_nil_iff.mpr (fun w _ => ?_)
  have hl (q : Nat) : s.loses q = false := by rw [State.loses, State.mapped, h]; rfl
  split
  · rw [hl, Bool.false_and, Bool.and_false]
    exact Bool.false_ne_true
  · rw [Bool.and_false]
    exact Bool.false_ne_true

theorem rotation_mid (h : s.periodOver = false) : exec .queueRotation s = .next (s.mapQueues
    (fillSlots s.emptySlots (s.waitingQueues (s.slots.map (fun e => e.2.queue)) s.rotLast ++
      s.strandedQueues (s.slots.map (fun e => e.2.queue)) s.rotLast)) false) := by
  rw [exec_queueRotation, h, if_neg Bool.false_ne_true]

theorem rotation_end (h : s.periodOver = true) (hl : s.leavingGroups = []) :
    exec .queueRotation s = .next (s.rotatedKept.mapQueues s.rotated.2 true) := by
  rw [exec_queueRotation, if_pos h, hl]
  rfl

/-- Every slot that was filled keeps its queue while no period ends. -/
theorem rotation_keeps {l : List (Nat × Nat)} {full : Bool} {i : Nat} {v : QSlot} (hv : Table.find s.slots i = some v)
    (hl : ∀ e ∈ l, e.1 ≠ i) : Table.find (s.mapQueues l full).slots i = some v := by
  rw [mapQueues_eq, mapQueues_slots, find_setAll_other hl, hv]

/-! #### As a period ends -/

/-- A slot that keeps its queue: one with work, that has been held for less than a full period. -/
def State.keepsSlot (s : State) (e : Nat × QSlot) : Bool := s.hasWork e.2.queue && !e.2.full

/-- The slots for which a rotation has a choice: the empty ones, and those that no queue keeps. -/
def State.freeSlots (s : State) : List Nat := s.emptySlots ++ (s.slots.filter (fun e => !s.keepsSlot e)).map Prod.fst

/-- The slots that the queues with work take. -/
def State.newSlots (s : State) : List (Nat × Nat) :=
  fillSlots s.freeSlots (s.waitingQueues ((s.slots.filter s.keepsSlot).map (fun e => e.2.queue)) s.rotLast)

theorem rotated_fst (s : State) : ∃ stay : Nat × QSlot → Bool,
    s.rotated.1 = s.slots.filter s.keepsSlot ++ (s.slots.filter (fun e => !s.keepsSlot e)).filter stay := ⟨_, rfl⟩

theorem rotated_snd (s : State) : ∃ more, s.rotated.2 = s.newSlots ++ more ∧
    ∀ e ∈ more, e.1 ∈ s.freeSlots ∧ s.newSlots.any (fun n => n.1 == e.1) = false := by
  have hsnd : ∃ (left : Nat → Bool) (stranded : List Nat), s.rotated.2 = s.newSlots ++
      fillSlots (s.freeSlots.filter (fun i => !(s.newSlots.any (fun n => n.1 == i)) && left i)) stranded := ⟨_, _, rfl⟩
  obtain ⟨left, stranded, h⟩ := hsnd
  refine ⟨_, h, fun e he => ?_⟩
  obtain ⟨hfree, hno⟩ := List.mem_filter.mp (fillSlots_mem he)
  rw [Bool.and_eq_true, Bool.not_eq_true'] at hno
  exact ⟨hfree, hno.1⟩

/-- A queue that keeps its slot is not among those of the new assignment. -/
theorem rotated_fst_ne (hnodup : (s.slots.map Prod.fst).Nodup) {i : Nat} {v : QSlot} (hv : (i, v) ∈ s.slots)
    (hkeep : s.keepsSlot (i, v) = true) : ∀ e ∈ s.rotated.2, e.1 ≠ i := by
  have hfree : i ∉ s.freeSlots := by
    intro h
    rcases List.mem_append.mp h with he | ho
    · exact emptySlots_not_mem (List.mem_map_of_mem hv) he
    · obtain ⟨e, he, rfl⟩ := List.mem_map.mp ho
      obtain ⟨hin, hno⟩ := List.mem_filter.mp he
      rw [List.inj_on_of_nodup_map hnodup hin hv rfl, hkeep] at hno
      cases hno
  obtain ⟨more, h, hmore⟩ := rotated_snd s
  rw [h]
  intro e he hei
  rcases List.mem_append.mp he with hnew | hleft
  · exact hfree (hei ▸ fillSlots_mem hnew)
  · exact hfree (hei ▸ (hmore e hleft).1)

theorem rotated_kept_nodup (hnodup : (s.slots.map Prod.fst).Nodup) : (s.rotated.1.map Prod.fst).Nodup := by
  obtain ⟨stay, h⟩ := rotated_fst s
  rw [h, List.map_append]
  refine List.nodup_append.mpr ⟨(hnodup.sublist ((List.filter_sublist).map _)),
    hnodup.sublist ((List.filter_sublist.trans List.filter_sublist).map _), ?_⟩
  intro a ha b hb hab
  obtain ⟨x, hx, rfl⟩ := List.mem_map.mp ha
  obtain ⟨y, hy, hyx⟩ := List.mem_map.mp hb
  obtain ⟨hxin, hxk⟩ := List.mem_filter.mp hx
  obtain ⟨hyin, hyk⟩ := List.mem_filter.mp (List.mem_filter.mp hy).1
  rw [List.inj_on_of_nodup_map hnodup hyin hxin (hyx.trans hab.symm), hxk] at hyk
  cases hyk

theorem rotation_kept (hnodup : (s.slots.map Prod.fst).Nodup) {i : Nat} {v : QSlot} (hv : Table.find s.slots i = some v)
    (hkeep : s.keepsSlot (i, v) = true) : Table.find (s.rotatedKept.mapQueues s.rotated.2 true).slots i =
      some { queue := v.queue, passed := false, full := true } := by
  have hin := find_mem hv
  obtain ⟨stay, h⟩ := rotated_fst s
  have hmem : (i, v) ∈ s.rotated.1 := by
    rw [h]
    exact List.mem_append_left _ (List.mem_filter.mpr ⟨hin, hkeep⟩)
  rw [mapQueues_eq, mapQueues_slots, find_setAll_other (rotated_fst_ne hnodup hin hkeep), State.rotatedKept]
  exact find_setAll (k := Prod.fst) (g := fun e : Nat × QSlot => { e.2 with passed := false, full := true })
    (rotated_kept_nodup hnodup) (i, v) hmem

/-! #### When no queue holds a slot -/

theorem emptySlots_all (h : s.slots = []) : s.emptySlots = List.range Config.queueSlots := by
  rw [State.emptySlots, h]
  exact List.filter_eq_self.mpr (fun _ _ => rfl)

/-- Slot 0 takes the first of the queues that wait, and no later assignment takes it. -/
theorem rotated_first {q : Nat} {qs : List Nat} (hs : s.slots = []) (hw : s.waitingQueues [] s.rotLast = q :: qs) :
    ∃ rest, s.rotated.2 = (0, q) :: rest ∧ ∀ e ∈ rest, e.1 ≠ 0 := by
  have hrange : List.range Config.queueSlots = 0 :: (List.range 127).map Nat.succ := List.range_succ_eq_map
  have hnew : s.newSlots = (0, q) :: fillSlots ((List.range 127).map Nat.succ) qs := by
    rw [State.newSlots, State.freeSlots, emptySlots_all hs, hs, hrange]
    simp only [List.filter_nil, List.map_nil, List.append_nil, hw]
    rfl
  obtain ⟨more, h, hmore⟩ := rotated_snd s
  rw [hnew] at h hmore
  refine ⟨fillSlots ((List.range 127).map Nat.succ) qs ++ more, h, fun e he h0 => ?_⟩
  rcases List.mem_append.mp he with hn | hl
  · obtain ⟨x, -, hx⟩ := List.mem_map.mp (fillSlots_mem hn)
    rw [h0] at hx
    exact Nat.succ_ne_zero x hx
  · have hno := (hmore e hl).2
    rw [h0, List.any_cons, beq_self_eq_true, Bool.true_or] at hno
    cases hno

/-- The first of the waiting queues is the lowest with work behind the last one served. -/
theorem waitingQueues_first {q : Nat} {qs : List Nat} (hsorted : List.Pairwise (fun a b => a < b) (s.queues.map Prod.fst))
    (hw : s.waitingQueues [] s.rotLast = q :: qs) : s.hasWork q = true ∧
      ∀ k, s.hasWork k = true → (Table.find s.queues k).isSome = true → k > s.rotLast → s.rotLast < q ∧ q ≤ k := by
  have hmem : q ∈ s.waitingQueues [] s.rotLast := by rw [hw]; exact List.mem_cons_self ..
  simp only [State.waitingQueues, State.queuesAfter, List.contains_nil, Bool.not_false, Bool.and_true] at hw hmem
  refine ⟨?_, fun k hk hfind hlast => ?_⟩
  · rcases List.mem_append.mp hmem with h | h
    · exact (List.mem_filter.mp (List.mem_filter.mp h).1).2
    · exact (List.mem_filter.mp (List.mem_filter.mp h).1).2
  · have hin : k ∈ ((s.queues.map Prod.fst).filter s.hasWork).filter (fun q => decide (q > s.rotLast)) :=
      List.mem_filter.mpr ⟨List.mem_filter.mpr ⟨(find_isSome_iff _ k).mp hfind, hk⟩, decide_eq_true hlast⟩
    obtain ⟨x, xs, hx⟩ := List.exists_cons_of_ne_nil (List.ne_nil_of_mem hin)
    have hqx : x = q := by
      rw [hx, List.cons_append] at hw
      exact (List.cons.inj hw).1
    have hafter : x ∈ ((s.queues.map Prod.fst).filter s.hasWork).filter (fun q => decide (q > s.rotLast)) := by
      rw [hx]; exact List.mem_cons_self ..
    refine ⟨hqx ▸ of_decide_eq_true (List.mem_filter.mp hafter).2, ?_⟩
    have hpair := (hsorted.filter s.hasWork).filter (fun q => decide (q > s.rotLast))
    rw [hx] at hin hpair
    rcases List.mem_cons.mp hin with rfl | hrest
    · exact hqx ▸ le_refl _
    · exact hqx ▸ Nat.le_of_lt (List.rel_of_pairwise_cons hpair hrest)

/-- The descriptor of a whole registration, with HEAD and QERR as they are. -/
theorem descNow_of_reg {h : HostQueue} {d : List Byte} (hd : h.reg = some d) (hlen : d.length = 128) :
    h.descNow = d.take 0x40 ++ leBytes 8 h.head ++ leBytes 4 h.qerr ++ d.drop 0x4C := by
  have hdrop : (d.drop 0x4C).take 52 = d.drop 0x4C := List.take_of_length_le (by rw [List.length_drop, hlen])
  simp only [HostQueue.descNow, hd, Option.getD_some, hdrop]

theorem rotation_first {q : Nat} {rest : List (Nat × Nat)} (h2 : s.rotated.2 = (0, q) :: rest)
    (hrest : ∀ e ∈ rest, e.1 ≠ 0) : let t := s.rotatedKept.mapQueues s.rotated.2 true
    Table.find t.slots 0 = some { queue := q, passed := false, full := true } ∧ (t.queue q).desc = (s.queue q).reg ∧
      ∀ d, (s.queue q).reg = some d → d.length = 128 → Holds s t (slabKey 0 0x7F0000)
        (d.take 0x40 ++ leBytes 8 (s.queue q).head ++ leBytes 4 (s.queue q).qerr ++ d.drop 0x4C) := by
  have hqueue : (s.rotatedKept.mapQueue true (0, q)).queue q = { s.queue q with
      desc := (s.queue q).reg
      trace := fieldAt (((s.queue q).reg).getD []) 0x30 8 != 0 } := by
    rw [mapQueue_queue, if_pos rfl]
    rfl
  simp only [h2, mapQueues_eq, List.foldl_cons]
  refine ⟨?_, ?_, fun d hd hlen hok => ?_⟩
  · rw [mapQueues_slots, find_setAll_other hrest]
    show Table.find (Table.set s.rotatedKept.slots 0 _) 0 = _
    rw [Table.find_set, if_pos rfl]
  · rw [mapQueues_desc true rest (by rw [hqueue]), hqueue]
  · have hbytes := descNow_of_reg hd hlen
    have hlen' : (d.take 0x40 ++ leBytes 8 (s.queue q).head ++ leBytes 4 (s.queue q).qerr ++ d.drop 0x4C).length = 128 := by
      simp only [List.length_append, leBytes_length, List.length_take, List.length_drop, hlen]
      rfl
    have hmem : (s.rotatedKept.mapQueue true (0, q)).mem =
        cellsWrite s.mem (slabKey 0 Config.systemArea) (s.queue q).descNow := rfl
    have hok' : (s.rotatedKept.mapQueue true (0, q)).memOk = true := wf_cellsWrite _ _ _ hok
    rw [hlen', ← hbytes]
    refine (mapQueues_mem_apart true (le_refl 128) rest hok' hrest).trans ?_
    rw [hmem, ← hlen', ← hbytes]
    exact cellsRead_cellsWrite hok _ _

end

/-- Settles O38: HEAD and QERR change through one operation, which writes the same bytes to every copy; a period's end fills
slots that are empty or lost, so a kept slot is not written, and with none held slot 0 is filled first. -/
theorem hostQueues : Obligations.HostQueues := by
  refine ⟨fun s q count p => ?_, fun s => ?_⟩
  · intro h becomes copied ring done bad
    refine ⟨fun hq => ⟨fun hb => ?_, fun hb ho => ?_, fun hb ho => ?_⟩, fun hq => ?_, packet_none, fun hp => ⟨fun hk => ?_,
      fun hk => ?_, fun hk => ?_⟩⟩
    · exact ⟨_, doorbell_back hq hb, onHead_becomes s q HostQueue.back, onHead_copied s q HostQueue.back⟩
    · exact ⟨_, doorbell_overflown hq hb ho, onHead_becomes s q HostQueue.overflown, onHead_copied s q HostQueue.overflown⟩
    · refine ⟨_, doorbell_counts hq hb ho, ⟨?_, fun k hk => ?_⟩, rfl⟩
      · rw [queue_onQueue, if_pos rfl]
      · rw [queue_onQueue, if_neg hk]
    · exact doorbell_above hq
    · refine ⟨s.consume q p, ?_, consume_becomes s q p, consume_copied s q p, consume_launches s q p⟩
      rw [exec_packetNop hp, if_pos hk]
    · refine ⟨s.badPacket q p, ?_, badPacket_becomes s q p, badPacket_copied s q p, badPacket_launches s q p⟩
      rw [exec_packetOtherKind hp, if_pos hk]
    · intro addr shell got
      have hexec := exec_packetLaunch hp hk
      refine ⟨fun hw => ?_, fun hw ha => ?_, fun hw ha hno => ?_, fun rcd l hw ha hgot hc => ?_, fun rcd l n hw ha hgot hc hn => ?_⟩
      · rw [Stays, hexec, hw, if_pos rfl]
      · refine ⟨s.badPacket q p, ?_, badPacket_becomes s q p, badPacket_copied s q p, badPacket_launches s q p⟩
        rw [hexec, hw, if_neg Bool.false_ne_true, if_pos ha]
      · refine ⟨s.badPacket q p, ?_, badPacket_becomes s q p, badPacket_copied s q p, badPacket_launches s q p⟩
        rw [hexec, hw, if_neg Bool.false_ne_true, if_neg (not_not.mpr ha)]
        cases hg : s.packetRead q (fieldAt p 8 8) with
        | got rcd => exact absurd hg (hno rcd)
        | _ => rfl
      · refine ⟨_, ?_, accepted_answers s q p addr l⟩
        have hg : s.packetRead q (fieldAt p 8 8) = .got rcd := hgot
        have hc' : s.checkLaunch none (s.packetShell q (fieldAt p 8 8) rcd) = (0, l) := hc
        rw [hexec, hw, if_neg Bool.false_ne_true, if_neg (not_not.mpr ha), hg]
        simp only [hc', if_true]
        rfl
      · refine ⟨_, ?_, refused_answers s q p addr n l⟩
        have hg : s.packetRead q (fieldAt p 8 8) = .got rcd := hgot
        have hc' : s.checkLaunch none (s.packetShell q (fieldAt p 8 8) rcd) = (n, l) := hc
        rw [hexec, hw, if_neg Bool.false_ne_true, if_neg (not_not.mpr ha), hg]
        simp only [hc', hn, if_false]
        rfl
  · intro work
    have hwork (q : Nat) : s.hasWork q = true ↔ work q := hasWork_iff s q
    refine ⟨fun h => ⟨_, rotation_mid h, fun i v hv => ?_⟩, fun h hidle hnodup => ⟨_, rotation_end h (leavingGroups_idle hidle),
      fun i v hv hfull hw => ?_⟩, fun q qs hsorted hs hw => ?_⟩
    · refine rotation_keeps hv (fun e he hei => ?_)
      have hin : i ∈ s.slots.map Prod.fst := List.mem_map_of_mem (f := Prod.fst) (find_mem hv)
      exact emptySlots_not_mem hin (hei ▸ fillSlots_mem he)
    · exact rotation_kept hnodup hv (by rw [State.keepsSlot, (hwork v.queue).mpr hw, hfull]; rfl)
    · have hover : s.periodOver = true := by rw [State.periodOver, hs]; rfl
      obtain ⟨rest, h2, hrest⟩ := rotated_first hs hw
      obtain ⟨hslot, hdesc, hholds⟩ := rotation_first h2 hrest
      obtain ⟨hq, hfirst⟩ := waitingQueues_first hsorted hw
      exact ⟨_, rotation_end hover (leavingGroups_unmapped hs), hslot, hdesc, (hwork q).mp hq, hholds,
        fun k hk => hfirst k ((hwork k).mpr hk)⟩

end Sys2Proof.Machine
end

section
/-!
PROOF. O16 fails in the trap of a gathered BRX: the context that the statement names keeps its count of instructions,
and the BRX that issues is one more.
-/
namespace Sys2Proof.Machine
open Sys2Proof Sys2Proof.Machine.Tests

/-- A BRX whose target lies in no grant. -/
def farBranch : LB := { lb0 with off := BitVec.ofInt 22 (-0x100000) }

/-- The one thread of a team, which waits at that BRX. -/
def waitingBrx : Ctx := { lone with status := .rendezvous (.brx farBranch) none 0 placedPc 0x12 }

/-- That thread in a launch with a handler at TRAPH. -/
def gatheredBrx : State := handlerStage waitingBrx

/-- The state in which the BRX issues. -/
def issuedBrx : State :=
  { handlerStage lone with
    cur := { issue0 with course := [id0], start := placedPc, pc := placedPc, pfx := none, word := 0x12, warn := 0 } }

/-- The BRX acts for its thread, its target fails a check, and the thread has a handler to trap to. -/
theorem issuedBrx_traps :
    issuedBrx.ctx? id0 = some lone ∧
    fate (issuedBrx.shp (.brx farBranch)) (issuedBrx.pfx (.brx farBranch)) lone.regs = .acts ∧
    issuedBrx.clear (.brx farBranch) = true ∧ lone.trappable = true ∧
    (issuedBrx.branchFault lone (placedPc + 4 + BitVec.ofInt 64 (4 * farBranch.off.toInt))).isSome = true := by decide

theorem issuedBrx_handles : issuedBrx.handles lone (sa 0x400) :=
  ⟨handled, rfl, by decide, by decide⟩

/-- The release counts the BRX as an instruction of its thread (R148). -/
theorem gatheredBrx_counts :
    ((gatheredBrx.releaseGroups 0 0 1 [id0]).ctx? id0).map Ctx.count = some 1 := by decide

theorem gatheredBrx_left : (gatheredBrx.liveOfTeam 0 0).filter (fun c => c.atRendezvous && [id0].contains c.id) =
    [waitingBrx] := by decide

/-- Refutes O16: a BRX whose target fails a check, released for its only thread, raises the thread's count of
instructions (R148) from 0 to 1 before it traps, but the statement has the whole context after the trap be
`Ctx.trapped`, which keeps the count. -/
theorem not_rendezvous : ¬ Obligations.Rendezvous := by
  unfold Obligations.Rendezvous
  rintro ⟨-, -, hgroup⟩
  obtain ⟨hctx, hacts, hclear, htrappable, hfault⟩ := issuedBrx_traps
  obtain ⟨⟨cause, addr⟩, hfault⟩ := Option.isSome_iff_exists.mp hfault
  have hgroup := hgroup gatheredBrx 0 0 0 [id0] waitingBrx (.brx farBranch) none 0 placedPc 0x12
  simp only [gatheredBrx_left] at hgroup
  obtain ⟨-, -, -, -, -, -, -, -, -, htraps⟩ := hgroup (by simp) (by simp) (by simp [waitingBrx]) hclear
  have hall : issuedBrx.allAct (.brx farBranch) (fun c => c.trappable = true ∧ issuedBrx.handles c (sa 0x400) ∧
      issuedBrx.branchFault c (placedPc + 4 + BitVec.ofInt 64 (4 * farBranch.off.toInt)) = some (cause, addr)) := by
    intro c hc _
    obtain rfl : c = lone := List.mem_singleton.mp hc
    exact ⟨htrappable, issuedBrx_handles, hfault⟩
  obtain ⟨t, (hfirst : gatheredBrx.releaseGroups 0 0 1 [id0] = t), -, hactors, -, -⟩ := htraps farBranch (sa 0x400) (fun _ => cause) (fun _ => addr) rfl
    (List.nodup_singleton _) hall
  have htrapped := hactors id0 (List.mem_singleton.mpr rfl) lone hctx hacts
  have hcount : (t.ctx? id0).map Ctx.count = some 1 := by rw [← hfirst]; exact gatheredBrx_counts
  rw [htrapped] at hcount
  exact absurd hcount (by simp [Ctx.trapped, lone, freshCtx])

end Sys2Proof.Machine
end

section
/-!
PROOF. The visit order of R68 (O59): the sequence takes every index below n once, of two places next to each other it skips at
most one, so that the steps of `visitFrom` never run out.
-/
namespace Sys2Proof.Machine

/-! ### The reversal of bits -/

theorem bitReverse_lt : ∀ m j : Nat, bitReverse m j < 2 ^ m
  | 0, _ => Nat.one_pos
  | m + 1, j => by
    have hlow := bitReverse_lt m (j / 2)
    have htop : 2 ^ m * (j % 2) ≤ 2 ^ m * 1 := Nat.mul_le_mul_left _ (by omega)
    rw [bitReverse, Nat.pow_succ]
    omega

theorem bitReverse_testBit : ∀ {m i : Nat} (j : Nat), i < m → (bitReverse m j).testBit i = j.testBit (m - 1 - i)
  | 0, _, _, h => absurd h (Nat.not_lt_zero _)
  | m + 1, i, j, h => by
    rw [bitReverse, Nat.testBit_two_pow_mul_add _ (bitReverse_lt m (j / 2))]
    split
    · rename_i hi
      rw [bitReverse_testBit (j / 2) hi, Nat.testBit_div_two]
      congr 1
      omega
    · obtain rfl : i = m := by omega
      simp

theorem bitReverse_bitReverse {m j : Nat} (hj : j < 2 ^ m) : bitReverse m (bitReverse m j) = j := by
  refine Nat.eq_of_testBit_eq (fun i => ?_)
  by_cases hi : i < m
  · rw [bitReverse_testBit _ hi, bitReverse_testBit _ (by omega)]
    congr 1
    omega
  · have hm : 2 ^ m ≤ 2 ^ i := Nat.pow_le_pow_right Nat.two_pos (by omega)
    rw [Nat.testBit_lt_two_pow ((bitReverse_lt m _).trans_le hm), Nat.testBit_lt_two_pow (hj.trans_le hm)]

/-! ### The sequence of R68 -/

/-- The index at place j of R68's sequence for 2^m places. -/
def visitIndex (m seed j : Nat) : Nat := bitReverse m j ^^^ (seed % 2 ^ m)

theorem visitIndex_lt (m seed j : Nat) : visitIndex m seed j < 2 ^ m :=
  Nat.xor_lt_two_pow (bitReverse_lt m j) (Nat.mod_lt _ (Nat.two_pow_pos m))

/-- The place of an index in the sequence. -/
theorem visitIndex_place {m c : Nat} (seed : Nat) (hc : c < 2 ^ m) :
    ∃ j < 2 ^ m, visitIndex m seed j = c := by
  have hx : c ^^^ (seed % 2 ^ m) < 2 ^ m := Nat.xor_lt_two_pow hc (Nat.mod_lt _ (Nat.two_pow_pos m))
  refine ⟨bitReverse m (c ^^^ (seed % 2 ^ m)), bitReverse_lt m _, ?_⟩
  rw [visitIndex, bitReverse_bitReverse hx, Nat.xor_assoc, Nat.xor_self, Nat.xor_zero]

theorem visitIndex_inj {m seed i j : Nat} (hi : i < 2 ^ m) (hj : j < 2 ^ m) (h : visitIndex m seed i = visitIndex m seed j) :
    i = j := by
  have hrev := congrArg (bitReverse m) (Nat.xor_right_injective (x := seed % 2 ^ m) (by simpa [visitIndex, Nat.xor_comm] using h))
  rwa [bitReverse_bitReverse hi, bitReverse_bitReverse hj] at hrev

/-- The indexes below n of the sequence, over d places from place j on. -/
def visitRun (n m seed j d : Nat) : List Nat := ((List.range' j d).map (visitIndex m seed)).filter (fun c => decide (c < n))

theorem visitRun_succ (n m seed j d : Nat) : visitRun n m seed j (d + 1) =
    if visitIndex m seed j < n then visitIndex m seed j :: visitRun n m seed (j + 1) d else visitRun n m seed (j + 1) d := by
  simp only [visitRun, List.range'_succ, List.map_cons, List.filter_cons, decide_eq_true_eq]

theorem visitRun_perm {n m : Nat} (seed : Nat) (hn : n ≤ 2 ^ m) : (visitRun n m seed 0 (2 ^ m)).Perm (List.range n) := by
  have hinj : ∀ i ∈ List.range' 0 (2 ^ m), ∀ j ∈ List.range' 0 (2 ^ m), visitIndex m seed i = visitIndex m seed j → i = j := by
    intro i hi j hj
    simp only [List.mem_range'_1] at hi hj
    exact visitIndex_inj (by omega) (by omega)
  have hnodup : (visitRun n m seed 0 (2 ^ m)).Nodup := ((List.nodup_map_iff_inj_on List.nodup_range').mpr hinj).filter _
  refine (List.perm_ext_iff_of_nodup hnodup List.nodup_range).mpr (fun c => ?_)
  simp only [visitRun, List.mem_filter, List.mem_map, List.mem_range'_1, List.mem_range, decide_eq_true_eq]
  refine ⟨fun h => h.2, fun hc => ⟨?_, hc⟩⟩
  obtain ⟨j, hj, hx⟩ := visitIndex_place seed (hc.trans_le hn)
  exact ⟨j, ⟨j.zero_le, by omega⟩, hx⟩

/-! ### Skipped places -/

/-- Of an even place and the one behind it, at most one holds an index that is not visited: they differ in the top bit. -/
theorem visitIndex_pair {n m seed j : Nat} (hm : 2 ^ m < n) (hj : j % 2 = 0) :
    visitIndex (m + 1) seed j < n ∨ visitIndex (m + 1) seed (j + 1) < n := by
  have hbit (i : Nat) : (visitIndex (m + 1) seed i).testBit m = (i.testBit 0 ^^ (seed % 2 ^ (m + 1)).testBit m) := by
    rw [visitIndex, Nat.testBit_xor, bitReverse_testBit _ (Nat.lt_succ_self m)]
    simp
  have hlow {i : Nat} (h : (visitIndex (m + 1) seed i).testBit m = false) : visitIndex (m + 1) seed i < n := by
    refine lt_trans (Nat.lt_pow_two_of_testBit _ (fun k hk => ?_)) hm
    rcases Nat.eq_or_lt_of_le hk with rfl | hk
    · exact h
    · exact Nat.testBit_lt_two_pow ((visitIndex_lt _ _ _).trans_le (Nat.pow_le_pow_right Nat.two_pos hk))
  have heven : j.testBit 0 = false := by simp [Nat.testBit_zero, hj]
  have hodd : (j + 1).testBit 0 = true := by
    rw [Nat.testBit_zero, decide_eq_true_eq]
    omega
  cases hs : (seed % 2 ^ (m + 1)).testBit m with
  | false => exact .inl (hlow (by rw [hbit, heven, hs]; rfl))
  | true => exact .inr (hlow (by rw [hbit, hodd, hs]; rfl))

/-- Behind a skipped place, with an index left to visit, one of the next two places holds one. -/
theorem visitIndex_next {n m seed j d : Nat} (hm : m = 0 ∨ 2 ^ (m - 1) < n) (hj : j + (d + 1) = 2 ^ m)
    (hskip : ¬visitIndex m seed j < n) (hleft : visitRun n m seed (j + 1) d ≠ []) :
    visitIndex m seed (j + 1) < n ∨ visitIndex m seed (j + 2) < n := by
  cases d with
  | zero => exact absurd rfl hleft
  | succ d =>
    cases m with
    | zero =>
      rw [Nat.pow_zero] at hj
      omega
    | succ m =>
      have hm : 2 ^ m < n := by simpa using hm
      rcases Nat.mod_two_eq_zero_or_one j with h | h
      · exact .inl ((visitIndex_pair hm h).resolve_left hskip)
      · exact visitIndex_pair hm (by omega)

theorem orderBits_eq {n m : Nat} (h0 : 0 < n) (hn : n ≤ 2 ^ m) (hm : m = 0 ∨ 2 ^ (m - 1) < n) : orderBits n = m := by
  unfold orderBits
  cases m with
  | zero => rw [if_pos (by simpa using hn)]
  | succ m =>
    have hm : 2 ^ m < n := by simpa using hm
    have hpos := Nat.two_pow_pos m
    have hlog : Nat.log2 (n - 1) = m := (Nat.log2_eq_iff (by omega)).mpr ⟨by omega, by omega⟩
    rw [if_neg (by omega), hlog]

section
variable {n m seed : Nat}

theorem visitFrom_hit {fuel j : Nat} (hm : orderBits n = m) (h : visitIndex m seed j < n) :
    visitFrom n seed (fuel + 1) j = (visitIndex m seed j, j + 1) := by
  subst hm
  exact if_pos h

theorem visitFrom_skip {fuel j : Nat} (hm : orderBits n = m) (h : ¬visitIndex m seed j < n) :
    visitFrom n seed (fuel + 1) j = visitFrom n seed fuel (j + 1) := by
  subst hm
  exact if_neg h

/-- Where one of the next two places is visited, a skipped place makes no difference. -/
theorem visitFrom_skipped {j : Nat} (hm : orderBits n = m) (h : ¬visitIndex m seed j < n)
    (hnext : visitIndex m seed (j + 1) < n ∨ visitIndex m seed (j + 2) < n) :
    visitFrom n seed 4 j = visitFrom n seed 4 (j + 1) := by
  rw [visitFrom_skip hm h]
  by_cases h1 : visitIndex m seed (j + 1) < n
  · rw [visitFrom_hit hm h1, visitFrom_hit hm h1]
  · have h2 := hnext.resolve_left h1
    rw [visitFrom_skip hm h1, visitFrom_skip hm h1, visitFrom_hit hm h2, visitFrom_hit hm h2]

/-- As many dispatches as there are indexes left send out these, in the order of the sequence. -/
theorem visits_eq_visitRun (hbits : orderBits n = m) (hm : m = 0 ∨ 2 ^ (m - 1) < n) : ∀ {d j : Nat}, j + d = 2 ^ m →
    visits n seed (visitRun n m seed j d).length j = visitRun n m seed j d
  | 0, _, _ => rfl
  | d + 1, j, hj => by
    have ih := visits_eq_visitRun hbits hm (d := d) (j := j + 1) (by omega)
    rw [visitRun_succ]
    split
    · rename_i h
      rw [List.length_cons, visits, visitFrom_hit hbits h, ih]
    · rename_i h
      cases hrun : visitRun n m seed (j + 1) d with
      | nil => rfl
      | cons c cs =>
        rw [hrun, List.length_cons, visits] at ih
        have hnext := visitIndex_next hm hj h (by rw [hrun]; exact List.cons_ne_nil c cs)
        rw [List.length_cons, visits, visitFrom_skipped hbits h hnext, ih]

/-- The order in which a launch of n workgroups sends them out is R68's, and it takes each once. -/
theorem visits_order (h0 : 0 < n) (hn : n ≤ 2 ^ m) (hm : m = 0 ∨ 2 ^ (m - 1) < n) :
    visits n seed n 0 = visitRun n m seed 0 (2 ^ m) ∧ (visitRun n m seed 0 (2 ^ m)).Perm (List.range n) := by
  have hperm := visitRun_perm seed hn
  have hlen : (visitRun n m seed 0 (2 ^ m)).length = n := by rw [hperm.length_eq, List.length_range]
  have h := visits_eq_visitRun (seed := seed) (orderBits_eq h0 hn hm) hm (j := 0) (Nat.zero_add (2 ^ m))
  rw [hlen] at h
  exact ⟨h, hperm⟩

end

end Sys2Proof.Machine
end

section
/-!
PROOF. Dispatches follow the visit order, one at a time or all together: the whole of O59.
-/
namespace Sys2Proof.Machine

/-! ### What one dispatch adds -/

section
variable {s t : State} {l : Launch} {n : Nat}

theorem nextVisit_sampled (h : l.sampled = true) : l.nextVisit = visitFrom l.total l.seed 4 l.counter := by
  rw [Launch.nextVisit, h, if_pos rfl]

/-- Admission collapses the forks of other threads at most; without forks it leaves the state as it is. -/
theorem admitTo_forkless {core : Nat} {r : List (Nat × Nat) × Nat × State} (hf : s.forks = []) (h : s.admitTo core l = some r) :
    r.2.2 = s := by
  have hcollapse : s.collapseCore core = s := by rw [State.collapseCore, hf]; rfl
  unfold State.admitTo at h
  split at h
  · cases h
    rfl
  · split at h
    · obtain ⟨r', -, rfl⟩ := Option.map_eq_some_iff.mp h
      exact hcollapse
    · cases h

/-- A launch that sends a workgroup out places it somewhere, after forks may have collapsed. -/
theorem sendOut_places (h : s.sendOut l = some t) : ∃ u core seats off, Kept s u ∧ (s.forks = [] → u = s) ∧
    t = (u.placeWg l core seats off l.nextVisit.1 l.sent).onLaunch l.num (Launch.sentTo l.nextVisit.2 core) := by
  rw [sendOut_eq] at h
  obtain ⟨core, -, hcore⟩ := List.exists_of_findSome?_eq_some h
  obtain ⟨r, hr, rfl⟩ := Option.map_eq_some_iff.mp hcore
  exact ⟨r.2.2, core, r.1, r.2.1, admitTo_kept hr, fun hf => admitTo_forkless hf hr, rfl⟩

theorem flushL1_forks (s : State) (core : Nat) : (s.flushL1 core).forks = s.forks := by
  obtain ⟨cores, h⟩ := flushL1_frame s core
  rw [h]

theorem placeWg_forks (s : State) (l : Launch) (core : Nat) (seats : List (Nat × Nat)) (off lin visit : Nat) :
    (s.placeWg l core seats off lin visit).forks = s.forks := flushL1_forks _ core

/-- A launch whose workgroup is placed counts it and steps its counter. -/
theorem placed_launch {u : State} {l' : Launch} (hl : u.launch? n = some l') (hn : l.num = n) (core : Nat)
    (seats : List (Nat × Nat)) (off lin visit counter : Nat) :
    ((u.placeWg l core seats off lin visit).onLaunch l.num (Launch.sentTo counter core)).launch? n =
      some (l'.sentTo counter core) := by
  obtain ⟨-, -, -, hlaunches⟩ := placeWg_adds u l core seats off lin visit
  rw [hn]
  refine launch?_onLaunch ?_ (sentTo_num _ _)
  rw [State.launch?, hlaunches]
  exact hl

theorem fresh_key {core off lin : Nat} {c : Ctx} (hc : c ∈ s.freshThreads l core off lin) :
    c.id.wg = s.nextWg ∧ c.regs.rngk.toNat =
      (l.seed + lin * 0x9E3779B97F4A7C15 + c.id.tix * 0xD1B54A32D192ED03) % 2 ^ 64 := by
  obtain ⟨t, -, rfl⟩ := List.mem_map.mp hc
  exact ⟨rfl, BitVec.toNat_ofNat _ _⟩

/-- Coresident workgroups go out one after another, each the next of the visit order, with the keys of R121. -/
theorem sendAll_visits {total seed : Nat} : ∀ {k : Nat} {s : State} {l : Launch} {t : State}, s.launch? n = some l → l.num = n →
    l.sampled = true → l.total = total → l.seed = seed → s.forks = [] → State.sendAll n k s = some t →
    ∃ ws new, t.wgs = s.wgs ++ ws ∧ ws.map Workgroup.lin = visits total seed k l.counter ∧
      ws.map Workgroup.visit = List.range' l.sent k ∧ t.ctxs = s.ctxs ++ new ∧
      ∀ c ∈ new, ∃ w ∈ ws, c.id.wg = w.num ∧ w.launch = n ∧ c.regs.rngk.toNat =
        (seed + w.lin * 0x9E3779B97F4A7C15 + c.id.tix * 0xD1B54A32D192ED03) % 2 ^ 64
  | 0, s, l, t, _, _, _, _, _, _, h => by
    cases h
    exact ⟨[], [], (List.append_nil _).symm, rfl, rfl, (List.append_nil _).symm, by simp⟩
  | k + 1, s, l, t, hl, hn, hsampled, htotal, hseed, hf, h => by
    rw [State.sendAll, hl] at h
    obtain ⟨u, hu, ht⟩ := Option.bind_eq_some_iff.mp h
    obtain ⟨v, core, seats, off, -, hv, rfl⟩ := sendOut_places hu
    obtain rfl := hv hf
    obtain ⟨hctxs, -, hwgs, -⟩ := placeWg_adds v l core seats off l.nextVisit.1 l.sent
    have hf' := (placeWg_forks v l core seats off l.nextVisit.1 l.sent).trans hf
    obtain ⟨ws, new, hws, hlin, hvisit, hnew, hkeys⟩ :=
      sendAll_visits (placed_launch hl hn core seats off _ _ _) hn hsampled htotal hseed hf' ht
    rw [State.onLaunch_wgs, hwgs, List.append_assoc] at hws
    rw [State.onLaunch_ctxs, hctxs, List.append_assoc] at hnew
    refine ⟨_, _, hws, ?_, ?_, hnew, fun c hc => ?_⟩
    · rw [← htotal, ← hseed] at hlin ⊢
      rw [List.map_append, hlin, visits, ← nextVisit_sampled hsampled]
      rfl
    · rw [List.map_append, hvisit, List.range'_succ]
      rfl
    · rcases List.mem_append.mp hc with hc | hc
      · obtain ⟨hwg, hkey⟩ := fresh_key hc
        exact ⟨_, List.mem_append_left _ (List.mem_singleton.mpr rfl), hwg, hn, hseed ▸ hkey⟩
      · obtain ⟨w, hw, hrest⟩ := hkeys c hc
        exact ⟨w, List.mem_append_right _ hw, hrest⟩

end

/-- Settles O59: the sequence of R68 is a permutation, of two places next to each other at most one is skipped, so a step of
the counter never runs out, and both events take the launch's next index. -/
theorem visitOrder : Obligations.VisitOrder := by
  refine ⟨fun n m seed h0 hn hm => ?_, fun s n l hl hln hsampled hm => ⟨fun hc hsome => ?_, fun u hc hs hj hf hu => ?_⟩⟩
  · obtain ⟨hvisits, hperm⟩ := visits_order (seed := seed) h0 hn hm
    rw [visitRun, ← List.range_eq_range'] at hvisits hperm
    exact ⟨fun j _ => ⟨bitReverse_lt m j, fun i => bitReverse_testBit j⟩, hvisits, hperm⟩
  · obtain ⟨t, ht⟩ := Option.isSome_iff_exists.mp hsome
    have hexec : exec (.workgroupDispatch n) s = .next t := by
      rw [exec_dispatch hl, hc, hm, ht]
      rfl
    obtain ⟨u, core, seats, off, hkept, -, rfl⟩ := sendOut_places ht
    obtain ⟨l', hl', hsame⟩ := hkept.find hl
    obtain ⟨hctxs, -, hwgs, -⟩ := placeWg_adds u l core seats off l.nextVisit.1 l.sent
    rw [← nextVisit_sampled hsampled]
    have hsent : l'.untested.sent = l.untested.sent := congrArg Launch.sent hsame
    refine ⟨_, hexec, ⟨_, _, hwgs, hln, rfl, rfl, _, _, hctxs, ?_, fun c hcnew => fresh_key hcnew⟩, ?_, ?_⟩
    · rw [State.freshThreads, List.length_map, List.length_range]
    · rw [placed_launch hl' hln]
      rfl
    · rw [placed_launch hl' hln, Option.map_some]
      exact congrArg (fun k => some (k + 1)) hsent
  · have hexec : exec (.coresidentPlacement n) s = .next u := by
      rw [exec_coresident hl, hc, hs, hm, hu]
      rfl
    have h := sendAll_visits hl hln hsampled rfl rfl hf hu
    rw [hj, hs, ← List.range_eq_range'] at h
    exact ⟨u, hexec, h⟩

end Sys2Proof.Machine
end

section
/-!
PROOF. What an ASPUT posts to the pending sums of its workgroups (O42).
-/
namespace Sys2Proof.Machine

/-! ### The slot that an ASPUT names -/

theorem slotKnown_iff (s : State) (c : Ctx) (k : Nat) :
    s.slotKnown c k = true ↔ k ≤ 7 ∧ ∃ l, s.launchOf? c.id.wg = some l ∧ l.assay k ≠ 0 := by
  rw [State.slotKnown, Bool.and_eq_true, decide_eq_true_eq]
  cases s.launchOf? c.id.wg <;> simp

/-- A workgroup whose pending sum of a slot takes some values. -/
def Workgroup.posts (k : Nat) (xs : List Nat) (w : Workgroup) : Workgroup :=
  { w with sums := Table.set w.sums k (xs.foldl Pending.post (w.sum k)) }

theorem posts_sum (k : Nat) (xs : List Nat) (w : Workgroup) (j : Nat) :
    (w.posts k xs).sum j = if j = k then xs.foldl Pending.post (w.sum k) else w.sum j := by
  rw [Workgroup.sum, Workgroup.posts, Table.get, Table.find_set]
  split <;> rfl

theorem asputThread_eq (f : LA) (s : State) (c : Ctx) : asputThread f s c =
    if s.slotKnown c f.d.toNat then s.onWg c.id.wg (Workgroup.posts f.d.toNat (asputValues f c.regs)) else s := rfl

theorem asputThread_frame (f : LA) (s : State) (c : Ctx) : ∃ wgs, asputThread f s c = { s with wgs := wgs } := by
  rw [asputThread_eq]
  split
  · exact ⟨_, rfl⟩
  · exact ⟨s.wgs, rfl⟩

theorem asputThreads_frame (f : LA) (cs : List Ctx) (s : State) :
    ∃ wgs, cs.foldl (asputThread f) s = { s with wgs := wgs } := by
  refine foldl_inv (fun t => ∃ wgs, t = { s with wgs := wgs }) _ cs ?_ s ⟨s.wgs, rfl⟩
  rintro _ c ⟨wgs, rfl⟩
  obtain ⟨wgs', h⟩ := asputThread_frame f { s with wgs := wgs } c
  exact ⟨wgs', by rw [h]⟩

/-- One thread posts its values to its own workgroup, where its launch has the slot. -/
theorem asputThread_wg {f : LA} {s : State} {c : Ctx} {n : Nat} {w : Workgroup} (hw : s.wg? n = some w) :
    (asputThread f s c).wg? n = some (if s.slotKnown c f.d.toNat = true ∧ w.num = c.id.wg then
      w.posts f.d.toNat (asputValues f c.regs) else w) := by
  rw [asputThread_eq]
  by_cases hk : s.slotKnown c f.d.toNat = true
  · have hmap : (s.onWg c.id.wg (Workgroup.posts f.d.toNat (asputValues f c.regs))).wg? n =
        (s.wg? n).map (fun v => if v.num = c.id.wg then v.posts f.d.toNat (asputValues f c.regs) else v) :=
      wg?_map rfl (fun v => by split <;> rfl) n
    rw [if_pos hk, hmap, hw, Option.map_some]
    simp only [hk, true_and]
  · rw [if_neg hk, if_neg (fun h => hk h.1), hw]

/-- What a list of threads has posted: the other sums stay, and the slot's takes the values of the workgroup's threads, in
their order, where the launch has the slot. -/
theorem asputThreads_sum {f : LA} {n : Nat} : ∀ {cs : List Ctx} {s : State} {w : Workgroup}, s.wg? n = some w → w.num = n →
    ∃ w', (cs.foldl (asputThread f) s).wg? n = some w' ∧ (∀ k, k ≠ f.d.toNat → w'.sum k = w.sum k) ∧
      ∀ l, s.launch? w.launch = some l → f.d.toNat ≤ 7 → l.assay f.d.toNat ≠ 0 → w'.sum f.d.toNat =
        ((cs.filter (fun c => c.id.wg == n)).flatMap (fun c => asputValues f c.regs)).foldl Pending.post (w.sum f.d.toNat)
  | [], s, w, hw, _ => ⟨w, hw, fun _ _ => rfl, fun _ _ _ _ => rfl⟩
  | c :: cs, s, w, hw, hn => by
    have hw1 := asputThread_wg (f := f) (c := c) hw
    obtain ⟨wgs, hframe⟩ := asputThread_frame f s c
    have hlaunch (k : Nat) : (asputThread f s c).launch? k = s.launch? k := by rw [hframe]; rfl
    obtain ⟨w', hw', hothers, hslot⟩ := asputThreads_sum (cs := cs) hw1 (by split <;> exact hn)
    refine ⟨w', hw', fun k hk => ?_, fun l hl h7 ha => ?_⟩
    · rw [hothers k hk]
      split
      · rw [posts_sum, if_neg hk]
      · rfl
    · rw [hslot l (by rw [hlaunch, ← hl]; congr 1; split <;> rfl) h7 ha]
      by_cases hc : c.id.wg = n
      · have hknown : s.slotKnown c f.d.toNat = true :=
          (slotKnown_iff s c _).mpr ⟨h7, l, by rw [State.launchOf?, hc, hw]; exact hl, ha⟩
        rw [if_pos ⟨hknown, hn.trans hc.symm⟩, posts_sum, if_pos rfl, List.filter_cons_of_pos (by simpa using hc),
          List.flatMap_cons, List.foldl_append]
      · rw [if_neg (fun h => hc (h.2.symm.trans hn)), List.filter_cons_of_neg (by simpa using hc)]

/-! ### The threads of an ASPUT -/

/-- The registers of an acting thread: those that the word leaves, and FIELDRES where its launch does not have the slot. -/
theorem asput_regs (s : State) (f : LA) (c : Ctx) : ∃ r, Issues s (.asput f) r .result c (laneActs s (.asput f) (asputDo s f) c) ∧
    (s.slotKnown c f.d.toNat = true → r = s.recorded (.asput f) c) ∧
    (¬s.slotKnown c f.d.toNat = true →
      r = { s.recorded (.asput f) c with warn := (s.recorded (.asput f) c).warn ||| warnFIELDRES }) := by
  refine ⟨{ s.recorded (.asput f) c with
    warn := (s.recorded (.asput f) c).warn ||| warnIf (!s.slotKnown c f.d.toNat) warnFIELDRES }, rfl, fun h => ?_, fun h => ?_⟩
  · simp [h, warnIf]
  · rw [Bool.not_eq_true] at h
    simp [h, warnIf]

theorem exec_asput {s : State} {f : LA} (hs : s.clear (.asput f) = true) : exec (.asput f) s =
    .next ((s.actors (.asput f)).foldl (asputThread f) (lane (.asput f) (asputDo s f) s)) := by
  rw [← acting_eq_actors (d := asputDo s f) (laneFault_none hs (fun _ => rfl) (fun _ => rfl))]
  rfl

end Sys2Proof.Machine
end

section
/-!
PROOF. The commit of a sample, the finalisation of a launch's slots, and the whole of O42.
-/
namespace Sys2Proof.Machine

/-! ### A launch that has committed a sample -/

theorem cutSamples_committed (l : Launch) : l.cutSamples.committed = l.committed := by
  unfold Launch.cutSamples
  split <;> rfl

theorem afterCommit_committed (l : Launch) (x : Sample) (cycle : Nat) (width : Bool) :
    (l.afterCommit x cycle width).committed = l.committed + 1 := cutSamples_committed _

theorem afterCommit_lastCommit (l : Launch) (x : Sample) (cycle : Nat) (width : Bool) :
    (l.afterCommit x cycle width).lastCommit = cycle := cutSamples_lastCommit _

section
variable {s : State} {n : Nat} {l : Launch} {x : Sample}

/-- The sample that commits next is the one of the next position, in a later cycle (R79, R448). -/
theorem nextSample_some (h : s.nextSample l = some x) :
    x ∈ l.samples ∧ x.visit = l.committed ∧ s.dcycle > x.ready ∧ s.dcycle > l.lastCommit := by
  unfold State.nextSample at h
  split at h
  · cases h
  · obtain ⟨hfind, hready⟩ := Option.filter_eq_some_iff.mp h
    simp only [Bool.and_eq_true, decide_eq_true_eq] at hready
    exact ⟨List.mem_of_find?_eq_some hfind, by simpa using List.find?_some hfind, by omega, by omega⟩

/-- The launch that a commit leaves: its window has moved on, and it stops as R83 and R86 say. -/
theorem commitDue_launch (hl : s.launch? n = some l) (hx : s.nextSample l = some x) :
    ∃ l', (s.commitDue n).launch? n = some l' ∧ l'.committed = l.committed + 1 ∧ l'.lastCommit = s.dcycle ∧
      l'.stop = (l.afterCommit x s.dcycle ((s.commitSlots l x).widthStops l)).stop := by
  have hstop := commitDue_stop hl hx
  obtain ⟨m, hm, hml⟩ := (kept_putEach s (s.slotsOf l) (x.into l)).find hl
  rw [← commitSlots_eq] at hm
  have hcommitted : m.untested.committed = l.untested.committed := congrArg Launch.committed hml
  have hfound := launch?_onLaunch hm (g := fun k => k.afterCommit x s.dcycle ((s.commitSlots l x).widthStops l))
    (fun k => num_of_lasting (afterCommit_lasting k _ _ _))
  rw [← commitDue_some hl hx] at hfound
  refine ⟨_, hfound, ?_, afterCommit_lastCommit m _ _ _, ?_⟩
  · rw [afterCommit_committed]
    exact congrArg (· + 1) hcommitted
  · rwa [hfound, Option.map_some, Option.some.injEq] at hstop

theorem commitDue_mem (hl : s.launch? n = some l) (hx : s.nextSample l = some x) :
    (s.commitDue n).mem = (s.putEach (s.slotsOf l) (x.into l)).mem := by
  rw [commitDue_some hl hx, commitSlots_eq]
  rfl

/-- The width rule's test without a stop slot, and with one whose object lies on this device (R83). -/
theorem widthStops_without (h : l.assay l.stopslot = 0) : s.widthStops l = false := by
  rw [State.widthStops, h]
  rfl

theorem widthStops_slot {o : Nat} (h : l.assay l.stopslot ≠ 0) (ho : s.localSlab (l.assay l.stopslot) = some o) :
    s.widthStops l = true ↔ (s.assayAt o).n ≥ l.nmin ∧ le64 (s.assayAt o).halfwidth (s.assayAt o).target = true := by
  simp only [State.widthStops, ho, Bool.and_eq_true, decide_eq_true_eq, bne_iff_ne, ne_eq, h, not_false_eq_true, true_and]

/-- The width rule's test of a commit reads what the commit has left in the stop slot's object. -/
theorem widthStops_commit {o : Nat} (hl : s.launch? n = some l) (hx : s.nextSample l = some x)
    (h : l.assay l.stopslot ≠ 0) (ho : s.localSlab (l.assay l.stopslot) = some o) :
    let a := (s.commitDue n).assayAt o
    (s.commitSlots l x).widthStops l = true ↔ a.n ≥ l.nmin ∧ le64 a.halfwidth a.target = true := by
  have hat : (s.commitDue n).assayAt o = (s.commitSlots l x).assayAt o := by
    rw [State.assayAt, State.assayAt, commitDue_mem hl hx, commitSlots_eq]
  rw [hat]
  refine widthStops_slot h ?_
  rw [commitSlots_eq, (kept_putEach s _ _).localSlab, ho]

/-- What an object holds after it has taken its part of a sample: Welford's recurrence (R80 to R82, R98). -/
theorem into_fields (k : Nat) (a : Assay) :
    let x1 := (x.values.getD k 0).toNat
    let delta := sub64 x1 a.mean
    let mean := add64 a.mean (div64 delta (nat64 (a.n + 1)))
    let b := x.into l k a
    b.n = a.n + 1 ∧ b.mean = mean ∧ b.m2 = add64 a.m2 (mul64 delta (sub64 x1 mean)) ∧
      b.generation = (a.generation + 1) % 2 ^ 64 ∧ b.gmin = min a.gmin x.gmin ∧ b.gmax = max a.gmax x.gmax ∧
      b.dispatched = l.sent ∧ b.target = a.target ∧ b.confidence = a.confidence ∧ b.status = a.status ∧ b.nmin = a.nmin ∧
      b.population = a.population ∧ b.producer = a.producer ∧
      b.halfwidth = b.width (x.nans.getD k false || l.nanSlots.contains k) :=
  ⟨rfl, rfl, rfl, rfl, rfl, rfl, rfl, rfl, rfl, rfl, rfl, rfl, rfl, rfl⟩

/-- Of slots whose objects lie apart, outside owned buffers, each holds what is written to it. -/
theorem putEach_holds {slots : List (Nat × Nat)} (g : Nat → Assay → Assay) {t : State} (ht : t.mem = (s.putEach slots g).mem)
    (hn : (slots.map Prod.snd).Nodup) (ha : ∀ e ∈ slots, e.2 % 128 = 0) {e : Nat × Nat} (he : e ∈ slots)
    (hb : s.handleBars none e.2 96 = false) : Holds s t e.2 (g e.1 (s.assayAt e.2)).bytes := by
  intro hok
  rw [ht, assay_bytes_length, putEach_writes g hok hn ha e he, if_neg (by rw [hb]; exact Bool.false_ne_true)]

/-! ### Finalisation -/

/-- An object as the finalisation of a launch leaves it (R88). -/
def Launch.closing (l : Launch) (a : Assay) : Assay :=
  { a with
    status := if l.status ≠ 0 then 5 else l.stop.getD 0
    generation := (a.generation + 1) % 2 ^ 64
    dispatched := l.sent }

/-- A launch whose slots are final. -/
def Launch.closed (l : Launch) : Launch :=
  { l with
    finalised := true
    samples := []
    discarded := l.discarded + l.samples.length }

theorem exec_assayFinalisation (hl : s.launch? n = some l) : exec (.assayFinalisation n) s =
    .next (if s.mayFinalise l then (s.putEach (s.finalSlots l) (fun _ => l.closing)).onLaunch n Launch.closed else s) := by
  show execAssayFinalisation n s = _
  simp only [execAssayFinalisation, hl]
  cases s.mayFinalise l <;> rfl

theorem finalSlots_sublist (s : State) (l : Launch) : (s.finalSlots l).Sublist (s.slotsOf l) := by
  unfold State.finalSlots
  split
  · exact List.filter_sublist
  · exact List.Sublist.refl _

theorem mem_finalSlots {e : Nat × Nat} (he : e ∈ s.slotsOf l) (h : l.phase = .waiting → s.touchesHeld e.2 128 = false) :
    e ∈ s.finalSlots l := by
  unfold State.finalSlots
  split
  · rename_i hp
    exact List.mem_filter.mpr ⟨he, by rw [h hp]; rfl⟩
  · exact he

end

/-- Settles O42: the posts of an ASPUT by induction over its threads, commits and finalisations through what the unit's writes
of several objects leave in memory. -/
theorem assayUnit : Obligations.AssayUnit := by
  refine ⟨fun s f hs => ?_, fun s n l hl hn => ?_⟩
  · intro known values
    have hlane := lane_of_no_fault (d := asputDo s f) (laneFault_none hs (fun _ => rfl) (fun _ => rfl))
    obtain ⟨wgs, hframe⟩ := asputThreads_frame f (s.actors (.asput f)) (lane (.asput f) (asputDo s f) s)
    refine ⟨_, exec_asput hs, ?_, ?_, fun n w hw hn => ?_⟩
    · rw [hframe, hlane]
      refine ctxs_step (fun c _ _ => ?_)
      obtain ⟨r, hissues, hknown, hunknown⟩ := asput_regs s f c
      exact ⟨r, hissues, fun h => hknown ((slotKnown_iff s c _).mpr h),
        fun h => hunknown (fun hk => h ((slotKnown_iff s c _).mp hk))⟩
    · rw [hframe, hlane]
    · rw [hlane]
      exact asputThreads_sum hw hn
  · intro apart
    refine ⟨fun hx => ?_, fun x hx => ?_, fun hm => ?_, fun hm => ?_⟩
    · rw [Stays, exec_assayCommit, commitDue_waits hl hx]
    · obtain ⟨hmem, hvisit, hready, hlast⟩ := nextSample_some hx
      refine ⟨hmem, hvisit, hready, hlast, _, exec_assayCommit s n, (ruled_commitDue s n).aside.sameThreads, ?_, fun ha e he => ?_⟩
      · obtain ⟨l', hl', hcommitted, hcycle, hstop⟩ := commitDue_launch hl hx
        rw [afterCommit_stop] at hstop
        refine ⟨l', hl', hcommitted, hcycle, fun r hr => ?_, fun h0 htotal => ?_, fun h0 htotal hslot => ?_,
          fun o h0 htotal hslot ho => ?_⟩
        · rw [hstop, hr]
        · rw [hstop, h0]
          exact if_pos htotal
        · rw [hstop, h0, widthStops_without hslot]
          exact if_neg htotal
        · rw [hstop, h0]
          simp only [htotal, if_false, widthStops_commit hl hx hslot ho]
      · obtain ⟨hnodup, hobject⟩ := ha
        exact ⟨_, putEach_holds (x.into l) (commitDue_mem hl hx) hnodup (fun y hy => (hobject y hy).1) he (hobject e he).2,
          into_fields e.1 (s.assayAt e.2)⟩
    · rw [Stays, exec_assayFinalisation hl, hm]
      rfl
    · have hexec := exec_assayFinalisation hl
      rw [hm, if_pos rfl] at hexec
      refine ⟨_, hexec, ((aside_putEach s _ _).trans (aside_onLaunch _ n _)).sameThreads, ?_, fun ha e he hfree => ?_⟩
      · obtain ⟨m, hlm, -⟩ := (kept_putEach s (s.finalSlots l) (fun _ => l.closing)).find hl
        rw [launch?_onLaunch hlm (g := Launch.closed) (fun _ => rfl)]
        rfl
      · obtain ⟨hnodup, hobject⟩ := ha
        have hsub := finalSlots_sublist s l
        exact putEach_holds (fun _ => l.closing) rfl ((hsub.map Prod.snd).nodup hnodup)
          (fun y hy => (hobject y (hsub.subset hy)).1) (mem_finalSlots he hfree) (hobject e he).2

end Sys2Proof.Machine
end

section
/-!
PROOF. O36 fails in a state that no run reaches: two contexts share a name, and the one that the name finds is of another team and
waits to trap.
-/
namespace Sys2Proof.Machine
open Sys2Proof Sys2Proof.Machine.Tests

/-- An ASWAIT for a generation above 4 of the object at offset 0x800 of core 0's slice. -/
def waitingRead : FlightKind := .aswait (slabKey 0 0x800) 4

/-- The first thread of the team, which waits at the ASWAIT. -/
def reader : Ctx := flying waitingRead

/-- The second thread of the team, which waits there too. -/
def twin : Ctx := { reader with id := { id0 with tix := 1 } }

/-- A context of the same name and of another team, whose failed access waits to trap. -/
def ghost : Ctx := { twin with
  team := 1
  inflight := [{ flight0 (.trap causeMEMERR 0) with num := 3 }] }

/-- The queue of the launch, with a trace buffer of 64 bytes at the start of HBM. -/
def tracedQueue : HostQueue :=
  { reg := none, desc := some (List.replicate 0x38 0 ++ leBytes 8 64), doorbell := 0, head := 0, qerr := 0, trace := true }

/-- The state in which the team's ASWAIT has found generation 9 at a write of its object. -/
def hauntedRead : State :=
  { handlerStage reader with
    ctxs := [reader, ghost, twin]
    queues := [(0, tracedQueue)]
    fits := [(teamName 0 0, 7, 9)] }

/-- The team has two live threads, none of which waits to trap, and its ASWAIT has a fitting value. -/
theorem hauntedRead_fits :
    hauntedRead.liveOfTeam 0 0 = [reader, twin] ∧ hauntedRead.ctx? id0 = some reader ∧ hauntedRead.wg? 0 = some wg0 ∧
    hauntedRead.fitOf (teamName 0 0) 7 = some 9 ∧ slabKey 0 0x800 ∉ (hauntedRead.core wg0.core).newStates ∧
    (reader.inflight ++ twin.inflight).all (fun x => !x.isTrap) = true := by decide

/-- The second thread's name finds the other context, whose trap is taken and recorded in the trace buffer. -/
theorem hauntedRead_traces : hauntedRead.ctx? twin.id = some ghost ∧
    cellRead hauntedRead.mem hbmBase = 0 ∧ cellRead (hauntedRead.tryAswait 0 0).mem hbmBase = 1 := by decide

/-- Refutes O36: where an ASWAIT completes, the statement has memory stay as it is, and asks only of the team's own threads that
none waits to trap. It does not ask that a thread's name finds that thread. Here the name of the team's second thread finds
a context of another team, which takes its trap as the ASWAIT completes, and the queue's trace records it in memory. -/
theorem not_assayReads : ¬ Obligations.AssayReads := by
  intro h
  obtain ⟨hlive, hctx, hwg, hfit, hseen, hcalm⟩ := hauntedRead_fits
  obtain ⟨-, hbefore, hafter⟩ := hauntedRead_traces
  obtain ⟨-, -, -, -, hwaits⟩ := h hauntedRead (sa0 0) handled wg0 rfl
  obtain ⟨-, hone, -⟩ := hwaits 0 0 reader wg0 (flight0 waitingRead) (slabKey 0 0x800) 4 (by rw [hlive]; rfl) hctx hwg
  obtain ⟨-, -, -, hmoves⟩ := hone rfl rfl rfl
  obtain ⟨t, hexec, hmem, -⟩ := hmoves 9 ⟨hseen, .inl hfit⟩ (by
    rw [hlive]
    simpa using hcalm)
  obtain rfl : hauntedRead.tryAswait 0 0 = t := Host.Outcome.next.inj hexec
  rw [hmem, hbefore] at hafter
  exact absurd hafter (by decide)

end Sys2Proof.Machine
end

section
/-!
PROOF. One rounding (R110, R111): what it does to a magnitude that it cuts, and that it keeps every magnitude that a format has
(R103).
-/
namespace Sys2Proof.Machine

/-! ### A magnitude cut at a place -/

/-- At or above the place of rounding a magnitude is exact. -/
theorem roundAt_of_le {u e : Int} (h : u ≤ e) (mode : RMode) (neg : Bool) (m : Nat) :
    roundAt mode neg m e false u = (m * 2 ^ (e - u).toNat, false) := by
  simp [roundAt, h]

section
variable {e u : Int} {p m : Nat} {mode : RMode} {neg : Bool}

/-- A rounding is inexact where something is cut. -/
theorem roundAt_snd (h : e < u) (hp : p = 2 ^ (u - e).toNat) : (roundAt mode neg m e false u).2 = decide (m % p ≠ 0) := by
  rw [Bool.eq_iff_iff]
  simp [roundAt, not_le.mpr h, ← hp]

/-- A multiple of the place of rounding is kept. -/
theorem roundAt_exact (h : e < u) (hp : p = 2 ^ (u - e).toNat) (hm : m % p = 0) : (roundAt mode neg m e false u).1 = m / p := by
  simp [roundAt, not_le.mpr h, ← hp, hm]

/-- Another magnitude goes to one of its two neighbours, as its mode says. -/
theorem roundAt_inexact (h : e < u) (hp : p = 2 ^ (u - e).toNat) (hm : m % p ≠ 0) : (roundAt mode neg m e false u).1 =
    if roundsAway mode neg (m / p % 2 == 1) (m % p) (u - e).toNat false then m / p + 1 else m / p := by
  simp [roundAt, not_le.mpr h, ← hp, hm]

end

/-- r is the multiple of p nearest to m, the even one of two. -/
def NearestEven (m p r : Nat) : Prop :=
  2 * m ≤ (2 * r + 1) * p ∧ (2 * r - 1) * p ≤ 2 * m ∧ (2 * m = (2 * r + 1) * p ∨ 2 * m + p = 2 * r * p → r % 2 = 0)

/-- r is the multiple of p nearest to m, the higher one of two. -/
def NearestAway (m p r : Nat) : Prop := 2 * m < (2 * r + 1) * p ∧ 2 * r * p ≤ 2 * m + p

section
variable {m p : Nat}

theorem nearestEven_low (h : 2 * (m % p) ≤ p) (heven : 2 * (m % p) = p → m / p % 2 = 0) : NearestEven m p (m / p) := by
  have hm : p * (m / p) + m % p = m := Nat.div_add_mod m p
  have hlow : (2 * (m / p) - 1) * p ≤ 2 * (m / p) * p := Nat.mul_le_mul_right p (Nat.sub_le _ 1)
  have hmul : 2 * (m / p) * p = 2 * (p * (m / p)) := by ring
  rw [NearestEven, Nat.add_mul]
  omega

theorem nearestEven_high (hp : 0 < p) (h : p ≤ 2 * (m % p)) (heven : 2 * (m % p) = p → m / p % 2 = 1) : NearestEven m p (m / p + 1) := by
  have hm : p * (m / p) + m % p = m := Nat.div_add_mod m p
  have hlt : m % p < p := Nat.mod_lt m hp
  have hlow : (2 * (m / p + 1) - 1) * p = 2 * (p * (m / p)) + p := by
    rw [show 2 * (m / p + 1) - 1 = 2 * (m / p) + 1 by omega]
    ring
  have hmul : 2 * (m / p + 1) * p = 2 * (p * (m / p)) + 2 * p := by ring
  rw [NearestEven, Nat.add_mul]
  omega

theorem nearestAway_low (h : 2 * (m % p) < p) : NearestAway m p (m / p) := by
  have hm : p * (m / p) + m % p = m := Nat.div_add_mod m p
  have hmul : 2 * (m / p) * p = 2 * (p * (m / p)) := by ring
  rw [NearestAway, Nat.add_mul]
  omega

theorem nearestAway_high (hp : 0 < p) (h : p ≤ 2 * (m % p)) : NearestAway m p (m / p + 1) := by
  have hm : p * (m / p) + m % p = m := Nat.div_add_mod m p
  have hlt : m % p < p := Nat.mod_lt m hp
  have hmul : 2 * (m / p + 1) * p = 2 * (p * (m / p)) + 2 * p := by ring
  rw [NearestAway, Nat.add_mul]
  omega

end

section
variable {e u : Int} {p m : Nat} {neg : Bool}

theorem roundAt_multiple (h : e < u) (hp : p = 2 ^ (u - e).toNat) (hm : m % p = 0) (mode : RMode) :
    (roundAt mode neg m e false u).1 * p = m := by
  rw [roundAt_exact h hp hm, Nat.div_mul_cancel (Nat.dvd_of_mod_eq_zero hm)]

theorem roundAt_rtz (h : e < u) (hp : p = 2 ^ (u - e).toNat) : (roundAt .rtz neg m e false u).1 = m / p := by
  by_cases hm : m % p = 0
  · exact roundAt_exact h hp hm
  · rw [roundAt_inexact h hp hm]
    rfl

theorem roundAt_rup (h : e < u) (hp : p = 2 ^ (u - e).toNat) (hm : m % p ≠ 0) :
    (roundAt .rup neg m e false u).1 = if neg then m / p else m / p + 1 := by
  rw [roundAt_inexact h hp hm]
  cases neg <;> rfl

theorem roundAt_rdn (h : e < u) (hp : p = 2 ^ (u - e).toNat) (hm : m % p ≠ 0) :
    (roundAt .rdn neg m e false u).1 = if neg then m / p + 1 else m / p := by
  rw [roundAt_inexact h hp hm]
  rfl

theorem roundAt_sr (h : e < u) (hp : p = 2 ^ (u - e).toNat) (b q : Nat) (hm : m % p ≠ 0) :
    (roundAt (.sr b q) neg m e false u).1 = if m % p * 2 ^ b / p > q then m / p + 1 else m / p := by
  simp only [roundAt_inexact h hp hm, roundsAway, ← hp, decide_eq_true_eq]

theorem roundAt_rne (h : e < u) (hp : p = 2 ^ (u - e).toNat) : NearestEven m p (roundAt .rne neg m e false u).1 := by
  have hpos : 0 < p := hp ▸ Nat.two_pow_pos _
  by_cases hm : m % p = 0
  · rw [roundAt_exact h hp hm]
    exact nearestEven_low (by omega) (by omega)
  rw [roundAt_inexact h hp hm, roundsAway, ← hp]
  split
  · rename_i haway
    simp only [Bool.false_or, Bool.or_eq_true, Bool.and_eq_true, decide_eq_true_eq, beq_iff_eq] at haway
    exact nearestEven_high hpos (by omega) (by omega)
  · rename_i hnear
    simp only [Bool.false_or, Bool.or_eq_true, Bool.and_eq_true, decide_eq_true_eq, beq_iff_eq] at hnear
    exact nearestEven_low (by omega) (by omega)

theorem roundAt_rna (h : e < u) (hp : p = 2 ^ (u - e).toNat) : NearestAway m p (roundAt .rna neg m e false u).1 := by
  have hpos : 0 < p := hp ▸ Nat.two_pow_pos _
  by_cases hm : m % p = 0
  · rw [roundAt_exact h hp hm]
    exact nearestAway_low (by omega)
  rw [roundAt_inexact h hp hm, roundsAway, ← hp]
  split
  · rename_i haway
    exact nearestAway_high hpos (of_decide_eq_true haway)
  · rename_i hnear
    exact nearestAway_low (by simpa using hnear)

end

/-! ### A magnitude that a format has -/

@[simp] theorem roundMag_zero (f : Fmt) (env : FEnv) (neg : Bool) (e : Int) (sticky : Bool) :
    f.roundMag env neg 0 e sticky = { bits := f.signed neg 0, flags := 0, nanLost := false } := rfl

/-- The code without its sign of a normal magnitude of at most fbits + 1 bits (R101). -/
def Fmt.normalCode (f : Fmt) (m : Nat) (e : Int) : Nat :=
  (leadExp m e + f.bias).toNat * 2 ^ f.fbits + (m * 2 ^ (f.fbits - Nat.log2 m) - 2 ^ f.fbits)

/-- A magnitude of at most b + 1 bits, shifted up to b + 1 bits. -/
theorem shifted_bounds {m b : Nat} (hm : m ≠ 0) (hlog : Nat.log2 m ≤ b) :
    2 ^ b ≤ m * 2 ^ (b - Nat.log2 m) ∧ m * 2 ^ (b - Nat.log2 m) < 2 ^ (b + 1) := by
  have hlow : 2 ^ Nat.log2 m ≤ m := Nat.log2_self_le hm
  have hhigh : m < 2 ^ (Nat.log2 m + 1) := Nat.lt_log2_self
  have hb : 2 ^ b = 2 ^ Nat.log2 m * 2 ^ (b - Nat.log2 m) := by rw [← Nat.pow_add, Nat.add_sub_cancel' hlog]
  have hb' : 2 ^ (b + 1) = 2 ^ (Nat.log2 m + 1) * 2 ^ (b - Nat.log2 m) := by rw [← Nat.pow_add]; congr 1; omega
  rw [hb', hb]
  exact ⟨Nat.mul_le_mul_right _ hlow, Nat.mul_lt_mul_of_pos_right hhigh (Nat.two_pow_pos _)⟩

section
variable {f : Fmt} {m : Nat} {e : Int} (env : FEnv) (neg : Bool)

/-- A normal magnitude that the format has is kept, in every mode. -/
theorem roundMag_normal (hm : m ≠ 0) (hlog : Nat.log2 m ≤ f.fbits) (hlead : f.emin ≤ leadExp m e)
    (hmax : f.normalCode m e ≤ f.maxCode) :
    f.roundMag env neg m e false = { bits := f.signed neg (f.normalCode m e), flags := 0, nanLost := false } := by
  have hu : leadExp m e - f.fbits ≤ e := by unfold leadExp; omega
  have hplace : max (leadExp m e - f.fbits) (f.emin - f.fbits) = leadExp m e - f.fbits := by omega
  have hshift : (e - (leadExp m e - f.fbits)).toNat = f.fbits - Nat.log2 m := by unfold leadExp; omega
  obtain ⟨hlow, hhigh⟩ := shifted_bounds hm hlog
  have hcode : f.encodeMag (m * 2 ^ (f.fbits - Nat.log2 m)) (leadExp m e - f.fbits) = f.normalCode m e := by
    simp [Fmt.encodeMag, Fmt.normalCode, hhigh.ne, not_lt.mpr hlow]
  simp [Fmt.roundMag, hm, roundAt_of_le hu, hshift, hplace, hcode, not_lt.mpr hmax, not_lt.mpr hlow, flagIf]

/-- A subnormal magnitude is kept, where it is not flushed. -/
theorem roundMag_subnormal (hm : m ≠ 0) (hlt : m < 2 ^ f.fbits) (hz : env.ftzo = false) :
    f.roundMag env neg m (f.emin - f.fbits) false = { bits := f.signed neg m, flags := 0, nanLost := false } := by
  have hlog : Nat.log2 m < f.fbits := (Nat.log2_lt hm).mpr hlt
  have hlead : ¬f.emin ≤ leadExp m (f.emin - f.fbits) := by unfold leadExp; omega
  have hplace : max (leadExp m (f.emin - f.fbits) - f.fbits) (f.emin - f.fbits) = f.emin - f.fbits := by omega
  have hcode : f.encodeMag m (f.emin - f.fbits) = m := by
    have hne : m ≠ 2 ^ (f.fbits + 1) := by have := Nat.pow_succ 2 f.fbits; omega
    simp [Fmt.encodeMag, hne, hlt]
  simp [Fmt.roundMag, hm, hlead, roundAt_of_le, hplace, hcode, hz, flagIf]

end

/-! ### The codes of a format -/

/-- A format whose fields fill its width (R101). -/
def Fmt.filled (f : Fmt) : Bool := f.width == f.fbits + f.ebits + 1

theorem log2_leading {b y : Nat} (hy : y < 2 ^ b) : Nat.log2 (2 ^ b + y) = b := by
  have hpos : 0 < 2 ^ b := Nat.two_pow_pos b
  rw [Nat.log2_eq_iff (by omega), Nat.pow_succ]
  omega

section
variable {f : Fmt}

/-- The fields of a code, whose top exponent stands for a finite number in some formats only, lie at most at the largest
finite code. -/
theorem fields_le_maxCode (hf : f.filled = true) {x y : Nat} (hx : x < 2 ^ f.ebits) (hy : y < 2 ^ f.fbits)
    (h : x = 2 ^ f.ebits - 1 → f.kind ≠ .ieee ∧ (f.kind = .e4m3 → y ≠ 2 ^ f.fbits - 1)) :
    x * 2 ^ f.fbits + y ≤ f.maxCode := by
  have hwidth : f.width - 1 = f.fbits + f.ebits := by
    have := beq_iff_eq.mp hf
    omega
  have htop : (x + 1) * 2 ^ f.fbits ≤ 2 ^ (f.fbits + f.ebits) := by
    rw [Nat.pow_add, Nat.mul_comm (2 ^ f.fbits)]
    exact Nat.mul_le_mul_right _ hx
  have hbelow : x ≠ 2 ^ f.ebits - 1 → (x + 1) * 2 ^ f.fbits ≤ (2 ^ f.ebits - 1) * 2 ^ f.fbits := fun hne =>
    Nat.mul_le_mul_right _ (by omega)
  have htotal : (2 ^ f.ebits - 1) * 2 ^ f.fbits + 2 ^ f.fbits = 2 ^ (f.fbits + f.ebits) := by
    rw [← Nat.succ_mul, Nat.succ_eq_add_one, Nat.sub_add_cancel (Nat.two_pow_pos _), Nat.pow_add, Nat.mul_comm]
  rw [Nat.succ_mul] at htop hbelow
  cases hk : f.kind with
  | ieee =>
    have := hbelow fun hc => (h hc).1 hk
    simp only [Fmt.maxCode, hk]
    omega
  | e4m3 =>
    simp only [Fmt.maxCode, hk, hwidth]
    by_cases hc : x = 2 ^ f.ebits - 1
    · have := (h hc).2 hk
      omega
    · have := hbelow hc
      omega
  | plain =>
    simp only [Fmt.maxCode, hk, hwidth]
    omega

variable {n mag : Nat} {neg : Bool} {ex : Int}

/-- A code without its sign is its exponent field and its fraction. -/
theorem code_fields (f : Fmt) (n : Nat) :
    n % 2 ^ (f.fbits + f.ebits) = n / 2 ^ f.fbits % 2 ^ f.ebits * 2 ^ f.fbits + n % 2 ^ f.fbits := by
  rw [Nat.pow_add, Nat.mod_mul, Nat.mul_comm, Nat.add_comm]

/-- A code is its sign with the other bits. -/
theorem signed_code (hf : f.filled = true) (hn : n < 2 ^ f.width) :
    f.signed (n / 2 ^ (f.fbits + f.ebits) % 2 == 1) (n % 2 ^ (f.fbits + f.ebits)) = n := by
  rw [beq_iff_eq.mp hf, Nat.pow_succ] at hn
  have hsign : n / 2 ^ (f.fbits + f.ebits) < 2 := Nat.div_lt_of_lt_mul hn
  have hn' : 2 ^ (f.fbits + f.ebits) * (n / 2 ^ (f.fbits + f.ebits)) + n % 2 ^ (f.fbits + f.ebits) = n := Nat.div_add_mod _ _
  rw [Fmt.signed, beq_iff_eq.mp hf, Nat.add_sub_cancel]
  obtain h0 | h1 := Nat.le_one_iff_eq_zero_or_eq_one.mp (Nat.le_of_lt_succ hsign)
  · rw [h0] at hn' ⊢
    simpa using hn'
  · rw [h1] at hn' ⊢
    simpa using hn'

/-- The magnitude of an exponent field other than zero and a fraction rounds to them. -/
theorem roundMag_fields (env : FEnv) (neg : Bool) {x y : Nat} (hx : x ≠ 0) (hy : y < 2 ^ f.fbits)
    (hmax : x * 2 ^ f.fbits + y ≤ f.maxCode) :
    f.roundMag env neg (2 ^ f.fbits + y) ((x : Int) - f.bias - f.fbits) false =
      { bits := f.signed neg (x * 2 ^ f.fbits + y), flags := 0, nanLost := false } := by
  have hlog := log2_leading hy
  have hlead : leadExp (2 ^ f.fbits + y) ((x : Int) - f.bias - f.fbits) = x - f.bias := by
    rw [leadExp, hlog]
    omega
  have hcode : f.normalCode (2 ^ f.fbits + y) ((x : Int) - f.bias - f.fbits) = x * 2 ^ f.fbits + y := by
    rw [Fmt.normalCode, hlead, hlog, Nat.sub_self, Nat.pow_zero, Nat.mul_one, Nat.add_sub_cancel_left, Int.sub_add_cancel,
      Int.toNat_natCast]
  have hlow : 0 < 2 ^ f.fbits := Nat.two_pow_pos _
  rw [roundMag_normal env neg (by omega) hlog.le (by rw [hlead, Fmt.emin]; omega) (by rw [hcode]; exact hmax), hcode]

/-- What a code is made of, where it stands for a finite number. -/
theorem decode_fin (hf : f.filled = true) (h : f.decode n = .fin neg mag ex) :
    neg = (n / 2 ^ (f.fbits + f.ebits) % 2 == 1) ∧ n % 2 ^ (f.fbits + f.ebits) ≤ f.maxCode ∧
    (n / 2 ^ f.fbits % 2 ^ f.ebits = 0 ∧ mag = n % 2 ^ f.fbits ∧ ex = f.emin - f.fbits ∨
     n / 2 ^ f.fbits % 2 ^ f.ebits ≠ 0 ∧ mag = 2 ^ f.fbits + n % 2 ^ f.fbits ∧
      ex = ((n / 2 ^ f.fbits % 2 ^ f.ebits : Nat) : Int) - f.bias - f.fbits) := by
  unfold Fmt.decode at h
  simp only at h
  split at h
  · split at h <;> cases h
  · rename_i hspecial
    have hmax : n % 2 ^ (f.fbits + f.ebits) ≤ f.maxCode := by
      rw [code_fields]
      refine fields_le_maxCode hf (Nat.mod_lt _ (Nat.two_pow_pos _)) (Nat.mod_lt _ (Nat.two_pow_pos _)) fun hx => ?_
      simpa [hx] using hspecial
    split at h
    · rename_i hzero
      cases h
      exact ⟨rfl, hmax, .inl ⟨by simpa using hzero, rfl, rfl⟩⟩
    · rename_i hzero
      cases h
      exact ⟨rfl, hmax, .inr ⟨by simpa using hzero, rfl, rfl⟩⟩

/-- An exact result is never changed: the value of a code rounds to the code in every mode. -/
theorem finish_decode (hf : f.filled = true) {env : FEnv} (hz : env.ftzo = false) (hn : n < 2 ^ f.width)
    (h : f.decode n = .fin neg mag ex) : f.finish env (.fin neg mag ex) = { bits := n, flags := 0, nanLost := false } := by
  obtain ⟨rfl, hmax, hfields⟩ := decode_fin hf h
  have hcode := signed_code hf hn
  have hfrac : n % 2 ^ f.fbits < 2 ^ f.fbits := Nat.mod_lt _ (Nat.two_pow_pos _)
  rw [code_fields] at hmax hcode
  rw [Fmt.finish]
  rcases hfields with ⟨hexp, rfl, rfl⟩ | ⟨hexp, rfl, rfl⟩
  · rw [hexp, Nat.zero_mul, Nat.zero_add] at hcode
    by_cases hm : n % 2 ^ f.fbits = 0
    · rw [hm, roundMag_zero, ← hm, hcode]
    · rw [roundMag_subnormal env _ hm hfrac hz, hcode]
  · rw [roundMag_fields env _ hexp hfrac hmax, hcode]

end

end Sys2Proof.Machine
end

section
/-!
PROOF. The transcendental group's exact values and special cases (R387), and the whole of O9.
-/
namespace Sys2Proof.Machine

/-! ### The integer square root -/

theorem isqrtLoop_bounds (n : Nat) : ∀ k r, r * r ≤ n → n < (r + 2 ^ k) * (r + 2 ^ k) →
    isqrtLoop n k r * isqrtLoop n k r ≤ n ∧ n < (isqrtLoop n k r + 1) * (isqrtLoop n k r + 1)
  | 0, _, hlow, hhigh => ⟨hlow, hhigh⟩
  | k + 1, r, hlow, hhigh => by
    rw [isqrtLoop]
    split
    · rename_i hbit
      exact isqrtLoop_bounds n k _ hbit (by rwa [Nat.add_assoc, ← Nat.two_mul, ← Nat.pow_succ'])
    · rename_i hbit
      exact isqrtLoop_bounds n k r hlow (Nat.lt_of_not_le hbit)

theorem isqrt_eq_sqrt (n : Nat) : isqrt n = Nat.sqrt n := by
  have hn : n < 2 ^ (Nat.log2 n / 2 + 1) * 2 ^ (Nat.log2 n / 2 + 1) := by
    rw [← Nat.pow_add]
    exact Nat.lt_log2_self.trans_le (Nat.pow_le_pow_right (by decide) (by omega))
  exact Nat.eq_sqrt.mpr (isqrtLoop_bounds n _ 0 (Nat.zero_le n) (by rwa [Nat.zero_add]))

/-! ### Numbers other than zero -/

section
variable {env : FEnv} {x m : Nat} {e : Int}

/-- FSQRT rounds the square root, whose whole part in units of 2^(g/2) is r. -/
theorem transElem_sqrt (hx : fp32.operand env x = .fin false m e) (hm : m ≠ 0) {r : Nat} {g : Int}
    (hg : g = if e % 2 = 0 then e - 256 else e - 257) (hlow : r * r ≤ m * 2 ^ (e - g).toNat)
    (hhigh : m * 2 ^ (e - g).toNat < (r + 1) * (r + 1)) :
    transElem env 2 x = fp32.roundMag env false r (g / 2) (r * r != m * 2 ^ (e - g).toNat) := by
  have hroot : isqrt (m * 2 ^ (e - g).toNat) = r := by rw [isqrt_eq_sqrt, ← Nat.eq_sqrt.mpr ⟨hlow, hhigh⟩]
  simp only [transElem, hx, beq_iff_eq, hm, if_false, Bool.false_eq_true, sqrtMag, ← hg, hroot]

/-- FRSQ rounds the reciprocal of the square root, whose whole part in units of 2^((−e − k)/2) is r. -/
theorem transElem_rsqrt (hx : fp32.operand env x = .fin false m e) (hm : m ≠ 0) {r k : Nat}
    (hk : k = if e % 2 = 0 then 320 else 321) (hlow : r * r * m ≤ 2 ^ k) (hhigh : 2 ^ k < (r + 1) * (r + 1) * m) :
    transElem env 1 x = fp32.roundMag env false r ((-e - k) / 2) (r * r * m != 2 ^ k) := by
  have hpos : 0 < m := Nat.pos_of_ne_zero hm
  have hroot : isqrt (2 ^ k / m) = r := by
    rw [isqrt_eq_sqrt, ← Nat.eq_sqrt.mpr ⟨(Nat.le_div_iff_mul_le hpos).mpr hlow, (Nat.div_lt_iff_lt_mul hpos).mpr hhigh⟩]
  have hexact : (2 ^ k % m != 0 || r * r != 2 ^ k / m) = (r * r * m != 2 ^ k) := by
    rw [Bool.eq_iff_iff, Bool.or_eq_true, bne_iff_ne, bne_iff_ne, bne_iff_ne, ← not_and_or, not_iff_not]
    constructor
    · rintro ⟨hdvd, hsq⟩
      rw [hsq, Nat.div_mul_cancel (Nat.dvd_of_mod_eq_zero hdvd)]
    · intro h
      rw [← h, Nat.mul_mod_left, Nat.mul_div_cancel _ hpos]
      exact ⟨rfl, rfl⟩
  simp only [transElem, hx, beq_iff_eq, hm, if_false, Bool.false_eq_true, rsqrtMag, ← hk, hroot, hexact]

/-- FEX2 of a whole number is a power of two. -/
theorem transElem_exp2 {neg : Bool} (hx : fp32.operand env x = .fin neg m e) (hm : m ≠ 0) {k : Nat} (hk : k < 512)
    (hwhole : 0 ≤ e ∧ m * 2 ^ e.toNat = k ∨ e < 0 ∧ m = k * 2 ^ (-e).toNat) :
    transElem env 3 x = fp32.roundMag env false 1 (if neg then -(k : Int) else k) false := by
  rcases hwhole with ⟨he, rfl⟩ | ⟨he, rfl⟩
  · have hlead : ¬leadExp m e ≥ 9 := by
      have hlog : 2 ^ (Nat.log2 m + e.toNat) < 2 ^ 9 := by
        rw [Nat.pow_add]
        exact (Nat.mul_le_mul_right _ (Nat.log2_self_le hm)).trans_lt hk
      have := (Nat.pow_lt_pow_iff_right (by decide)).mp hlog
      rw [leadExp]
      omega
    simp [transElem, hx, hm, hlead, he]
  · have hlead : ¬leadExp (k * 2 ^ (-e).toNat) e ≥ 9 := by
      have hlog : Nat.log2 (k * 2 ^ (-e).toNat) < 9 + (-e).toNat := by
        rw [Nat.log2_lt hm, Nat.pow_add]
        exact Nat.mul_lt_mul_of_pos_right hk (Nat.two_pow_pos _)
      rw [leadExp]
      omega
    simp [transElem, hx, hm, hlead, he]

/-- FLG2 of a power of two is a whole number. -/
theorem transElem_log2 {i : Nat} (hx : fp32.operand env x = .fin false (2 ^ i) e) :
    transElem env 4 x = fp32.roundMag env (decide (e + i < 0)) (e + i).natAbs 0 false := by
  have hm : 2 ^ i ≠ 0 := (Nat.two_pow_pos i).ne'
  simp only [transElem, hx, beq_iff_eq, hm, if_false, Bool.false_eq_true, Nat.log2_two_pow, if_true, leadExp]

end

/-! ### Special operands -/

theorem operand_eq_decode {f : Fmt} {env : FEnv} (h : env.ftzi = false) (n : Nat) : f.operand env n = f.decode n := by
  rw [Fmt.operand]
  split
  · rename_i hn
    rw [h, hn]
    rfl
  · rfl

/-- An infinity of a sign with flags. -/
def infinityOut (neg : Bool) (flags : BitVec 5) : FOut :=
  { bits := fp32.signed neg fp32.infCode, flags := flags, nanLost := false }

theorem infOut_eq (env : FEnv) (neg : Bool) : fp32.infOut env neg = infinityOut neg 0 := rfl

theorem dzOut_eq (env : FEnv) (neg : Bool) : dzOut env neg = infinityOut neg flagDZ := by
  simp [dzOut, infOut_eq, infinityOut]

/-- The zeros, the infinities and 1. -/
theorem decode_specials : fp32.decode 0 = .fin false 0 (-149) ∧ fp32.decode (2 ^ 31) = .fin true 0 (-149) ∧
    fp32.decode fp32.infCode = .inf false ∧ fp32.decode (2 ^ 31 + fp32.infCode) = .inf true ∧
    fp32.decode 0x3F800000 = .fin false (2 ^ 23) (-23) := by decide

section
variable {env : FEnv} {x : Nat}

theorem transElem_nan {q : Bool} (hx : fp32.operand env x = .nan q) (code : Nat) : transElem env code x = fp32.nanOut q := by
  rw [transElem, hx]

/-- The functions of an infinity. -/
theorem transElem_inf {neg : Bool} (hx : fp32.operand env x = .inf neg) :
    transElem env 0 x = zeroOut neg ∧
    transElem env 1 x = (if neg then fp32.nanOut true else zeroOut false) ∧
    transElem env 2 x = (if neg then fp32.nanOut true else infinityOut false 0) ∧
    transElem env 3 x = (if neg then zeroOut false else infinityOut false 0) ∧
    transElem env 4 x = (if neg then fp32.nanOut true else infinityOut false 0) ∧
    transElem env 5 x = fp32.nanOut true ∧ transElem env 6 x = fp32.nanOut true := by
  simp only [transElem, hx, infOut_eq, and_self]

/-- The result 1. -/
def oneOut : FOut := { bits := 0x3F800000, flags := 0, nanLost := false }

theorem roundMag_one (env : FEnv) : fp32.roundMag env false 1 0 false = oneOut :=
  roundMag_normal env false (by decide) (by decide) (by decide) (by decide)

/-- The functions of a zero, 2^x apart. -/
theorem transElem_zero {neg : Bool} {e : Int} (hx : fp32.operand env x = .fin neg 0 e) :
    transElem env 0 x = infinityOut neg flagDZ ∧ transElem env 1 x = infinityOut neg flagDZ ∧ transElem env 2 x = zeroOut neg ∧
    transElem env 4 x = infinityOut true flagDZ ∧ transElem env 5 x = zeroOut neg ∧ transElem env 6 x = oneOut := by
  simp only [transElem, hx, beq_self_eq_true, if_true, roundMag_one, dzOut_eq, and_self]

/-- A negative number has no root and no logarithm. -/
theorem transElem_negative {m : Nat} {e : Int} (hx : fp32.operand env x = .fin true m e) (hm : m ≠ 0) :
    transElem env 1 x = fp32.nanOut true ∧ transElem env 2 x = fp32.nanOut true ∧ transElem env 4 x = fp32.nanOut true := by
  simp only [transElem, hx, beq_iff_eq, hm, if_true, if_false, and_self]

theorem bits_flags_of_eq {o o' : FOut} (h : o = o') : o.bits = o'.bits ∧ o.flags = o'.flags := by
  rw [h]
  exact ⟨rfl, rfl⟩

end

/-! ### The whole of O9 -/

/-- Settles O9. The special cases are those of a zero, an infinity, a negative number and a NaN; the roots are the whole parts
that the integer root finds; a code has a normal or a subnormal magnitude, and both are kept; a cut magnitude goes to one
of its two neighbours, by mode. -/
theorem roundingRules : Obligations.RoundingRules := by
  refine ⟨fun mode sat => ?_, fun env x neg m e hm hx => ⟨?_, ?_, fun k hk hw => transElem_exp2 hx hm hk hw, ?_⟩,
    fun f hf mode sat n hn neg mag ex h => finish_decode ((by decide : ∀ f ∈ [fp32, fp16, bf16, e4m3, e5m2, e3m2, e2m1],
      f.filled = true) f hf) rfl hn h, fun neg m e u h => ?_⟩
  · intro env pz nz pinf ninf is
    have hdecode := operand_eq_decode (f := fp32) (show env.ftzi = false from rfl)
    have hof {code x : Nat} {o : FOut} (h : transElem env code x = o) : is code x o.bits o.flags := bits_flags_of_eq h
    obtain ⟨hpz, hnz, hpinf, hninf, hone⟩ := decode_specials
    obtain ⟨pz0, pz1, pz2, pz4, pz5, pz6⟩ := transElem_zero ((hdecode pz).trans hpz)
    obtain ⟨nz0, nz1, nz2, nz4, nz5, nz6⟩ := transElem_zero ((hdecode nz).trans hnz)
    obtain ⟨pinf0, pinf1, pinf2, pinf3, pinf4, pinf5, pinf6⟩ := transElem_inf ((hdecode pinf).trans hpinf)
    obtain ⟨ninf0, ninf1, ninf2, ninf3, ninf4, ninf5, ninf6⟩ := transElem_inf ((hdecode ninf).trans hninf)
    have hlog := transElem_log2 (i := 23) ((hdecode _).trans hone)
    refine ⟨hof pz0, hof nz0, hof pinf0, hof ninf0, hof pz1, hof nz1, hof pinf1, hof ninf1, hof nz2, hof pz2, hof pinf2,
      hof ninf2, hof pinf3, hof ninf3, hof pz4, hof nz4, hof pinf4, hof ninf4, hof hlog, hof pz5, hof nz5, hof pinf5, hof ninf5,
      hof pinf6, hof ninf6, hof pz6, hof nz6, fun x m e hm hx => ?_, fun code _ x q hx => ?_⟩
    · obtain ⟨h1, h2, h4⟩ := transElem_negative ((hdecode x).trans hx) hm
      exact ⟨hof h1, hof h2, hof h4⟩
    · have hnan := hof (transElem_nan ((hdecode x).trans hx) code)
      cases q <;> exact hnan
  · rintro r g rfl hg hlow hhigh
    exact transElem_sqrt hx hm hg hlow hhigh
  · rintro r k rfl hk hlow hhigh
    exact transElem_rsqrt hx hm hk hlow hhigh
  · rintro i rfl rfl
    exact transElem_log2 hx
  · exact ⟨fun mode hm => roundAt_multiple h rfl hm mode, fun _ => roundAt_snd h rfl, roundAt_rtz h rfl, roundAt_rup h rfl,
      roundAt_rdn h rfl, roundAt_rne h rfl, roundAt_rna h rfl, roundAt_sr h rfl⟩

end Sys2Proof.Machine
end

section
/-!
PROOF. Dot products, quotients and draws (R384, R383, R122), and the whole of O8.
-/
namespace Sys2Proof.Machine

/-! ### From a rounding meaning to its claim -/

section
variable {s : State} {i : Instr} {d : Reg} {w : Nat} {op out : Ctx → FEnv → Nat → FOut}

/-- What a thread computes after its word's bits of %warn are recorded. -/
theorem rounded_of_op (hop : ∀ c b, op (Ctx.warned c b) = out c) (c : Ctx) :
    Rounded s i d w out c (roundInto (s.pfx i) (s.recorded i c) d w (op (c.warned (s.wordWarn i)))) := by
  rw [hop]
  exact rounded_of_roundInto c

theorem roundsAlu_of_exec (he : exec i s = laneAlu i (fun c => roundInto (s.pfx i) c.regs d w (op c)) s)
    (hop : ∀ c b, op (Ctx.warned c b) = out c) : RoundsAlu s i d w out := fun hs =>
  completes_moves he hs fun c _ h => ⟨_, rounded_of_op hop c, h⟩

theorem roundsLong_of_exec (he : exec i s = laneLong i (fun c => roundInto (s.pfx i) c.regs d 32 (op c)) s)
    (hop : ∀ c b, op (Ctx.warned c b) = out c) : RoundsLong s i d out := fun hs =>
  completes_issues he hs fun c _ h => ⟨_, rounded_of_op hop c, h⟩

end

/-- A function of the transcendental group rounds both elements. -/
theorem roundsLong_of_trans {s : State} {i : Instr} {f : LX} {code : Nat} (he : exec i s = laneLong i (transRegs (s.pfx i) code f) s) :
    RoundsLong s i f.d (fun c env j => transElem env code (c.elem 32 f.a j)) :=
  roundsLong_of_exec he fun _ _ => rfl

/-! ### Dot products -/

/-- The products of n elements of two registers from element i on. -/
theorem zipWith_elemsFrom (g : Nat → Nat → FVal) (w w' x y i n : Nat) :
    List.zipWith g (elemsFrom w x i n) (elemsFrom w' y i n) =
      (List.range n).map (fun k => g (elemAt w x (i + k)) (elemAt w' y (i + k))) := by
  refine List.ext_getElem? fun k => ?_
  by_cases hk : k < n <;> simp [List.getElem?_zipWith, elemsFrom_getElem?, hk]

/-- An accumulator of a dot product takes the exact sum of it and the products, rounded once. -/
theorem dotElem_eq (fa fb : Fmt) (n : Nat) (env : FEnv) (acc a b : Word) (j : Nat) : dotElem fa fb n env acc a b j =
    fp32.finish env (.sum env.rdn (fp32.operand env (elemAt 32 acc.toNat j) :: (List.range n).map (fun k =>
      (fa.decode (elemAt fa.width a.toNat (n * j + k))).mul (fb.decode (elemAt fb.width b.toNat (n * j + k)))))) := by
  rw [dotElem, zipWith_elemsFrom]

/-! ### Quotients -/

/-- The canonical NaN, of an invalid operation or not. -/
def notANumber (nv : Bool) : FOut := { bits := fp32.canonicalNaN, flags := if nv then flagNV else 0, nanLost := false }

theorem nanOut_eq (nv : Bool) : fp32.nanOut nv = notANumber nv := by cases nv <;> rfl

/-- The quotient of two values, rounded once (R383). -/
def FVal.quotient (env : FEnv) (a b : FVal) : FOut :=
  match a, b with
  | .nan q, y => notANumber (q || y.raises)
  | _, .nan q => notANumber q
  | .inf _, .inf _ => notANumber true
  | .inf _, _ => infinityOut (a.isNeg != b.isNeg) 0
  | .fin _ _ _, .inf _ => zeroOut (a.isNeg != b.isNeg)
  | .fin _ m e, .fin _ m' e' =>
    if m' = 0 then (if m = 0 then notANumber true else infinityOut (a.isNeg != b.isNeg) flagDZ)
    else fp32.roundMag env (a.isNeg != b.isNeg) (m * 2 ^ 256 / m') (e - e' - 256) (m * 2 ^ 256 % m' != 0)

/-- FDIV gives the quotient. -/
theorem div_eq_quotient (env : FEnv) (a b : Nat) : fp32.div env a b = (fp32.operand env a).quotient env (fp32.operand env b) := by
  unfold Fmt.div
  generalize fp32.operand env a = x
  generalize fp32.operand env b = y
  simp only [nanOut_eq, infOut_eq]
  cases x with
  | nan q => rfl
  | inf neg => cases y <;> rfl
  | fin neg m e =>
    cases y with
    | nan q => rfl
    | inf neg' => simp [FVal.isNaN, FVal.isZero, FVal.isInf, FVal.quotient, zeroOut]
    | fin neg' m' e' =>
      by_cases hm' : m' = 0
      · by_cases hm : m = 0 <;> simp [FVal.isNaN, FVal.isZero, FVal.isInf, FVal.quotient, infinityOut, hm, hm']
      · simp [FVal.isNaN, FVal.isZero, FVal.isInf, FVal.quotient, hm', divMag]

/-- FRCP gives the quotient of 1. -/
theorem rcp_eq_quotient (env : FEnv) (x : Nat) : transElem env 0 x = (FVal.fin false 1 0).quotient env (fp32.operand env x) := by
  cases hx : fp32.operand env x with
  | nan q => rw [transElem_nan hx, nanOut_eq]; rfl
  | inf neg => rw [(transElem_inf hx).1]; simp [FVal.quotient, FVal.isNeg]
  | fin neg m e =>
    by_cases hm : m = 0
    · subst hm
      rw [(transElem_zero hx).1]; simp [FVal.quotient, FVal.isNeg]
    · simp [transElem, hx, FVal.quotient, FVal.isNeg, hm, divMag]

/-! ### Draws -/

/-- A normal code of FP32 stands for its fields. -/
theorem decode_fp32_fields {x y : Nat} (h0 : x ≠ 0) (hx : x < 255) (hy : y < 2 ^ 23) :
    fp32.decode (x * 2 ^ 23 + y) = .fin false (2 ^ 23 + y) ((x : Int) - 127 - 23) := by
  have hfrac : (x * 2 ^ 23 + y) % 2 ^ 23 = y := by omega
  have hexp : (x * 2 ^ 23 + y) / 2 ^ 23 % 2 ^ 8 = x := by omega
  have hsign : (x * 2 ^ 23 + y) / 2 ^ (23 + 8) % 2 = 0 := by omega
  have hzero : (x == 0) = false := beq_false_of_ne h0
  have htop : (x == 2 ^ 8 - 1) = false := beq_false_of_ne (by omega)
  simp only [Fmt.decode, fp32, hfrac, hexp, hsign, hzero, htop, Bool.false_and, Bool.false_eq_true, if_false]
  rfl

/-- The code of n·2^−24 stands for it. -/
theorem decode_unitFloat {n : Nat} (hn : n < 2 ^ 24) : unitFloat n < 2 ^ 32 ∧ ∃ m e, fp32.decode (unitFloat n) = .fin false m e ∧
    e ≤ 0 ∧ m * 2 ^ 24 = n * 2 ^ (-e).toNat := by
  by_cases h0 : n = 0
  · subst h0
    exact ⟨by decide, 0, -149, by decide, by decide, by decide⟩
  have hlog : Nat.log2 n < 24 := (Nat.log2_lt h0).mpr hn
  obtain ⟨hlow, hhigh⟩ := shifted_bounds (b := 23) h0 (by omega)
  obtain ⟨y, hy⟩ := Nat.exists_eq_add_of_le hlow
  have hcode : fp32.normalCode n (-24) = (Nat.log2 n + 103) * 2 ^ 23 + y := by
    rw [Fmt.normalCode, show fp32.fbits = 23 from rfl, show fp32.bias = 127 from rfl, hy, leadExp]
    omega
  have hunit : unitFloat n = (Nat.log2 n + 103) * 2 ^ 23 + y := by
    rw [unitFloat, roundMag_normal FEnv.plain false h0 (Nat.le_of_lt_succ hlog), hcode, Fmt.signed, if_neg Bool.false_ne_true]
    · rw [leadExp, show fp32.emin = -126 from rfl]
      omega
    · rw [hcode, show fp32.maxCode = 255 * 2 ^ 23 - 1 from rfl]
      omega
  rw [hunit, decode_fp32_fields (by omega) (by omega) (by omega)]
  refine ⟨by omega, _, _, rfl, by omega, ?_⟩
  have hplace : 23 - Nat.log2 n + 24 = (-(((Nat.log2 n + 103 : Nat) : Int) - 127 - 23)).toNat := by omega
  rw [← hplace, ← hy, Nat.mul_assoc, ← Nat.pow_add]

/-- Each half of a draw gives the number in [0, 1) of its 24 high bits. -/
theorem decode_unitFloats (z : Word) {j : Nat} (hj : j < 2) : ∃ neg m e,
    fp32.decode (elemAt 32 (packElems 32 [unitFloat (elemAt 32 z.toNat 0 / 256), unitFloat (elemAt 32 z.toNat 1 / 256)]).toNat j) =
      .fin neg m e ∧ neg = false ∧ e ≤ 0 ∧ m * 2 ^ 24 = elemAt 32 z.toNat j / 256 * 2 ^ (-e).toNat := by
  have helem : elemAt 32 z.toNat j < 2 ^ 32 := elemAt_lt 32 z.toNat j
  obtain ⟨hlt, m, e, hdecode, he, hm⟩ := decode_unitFloat (n := elemAt 32 z.toNat j / 256) (by omega)
  refine ⟨false, m, e, ?_, rfl, he, hm⟩
  rw [elemAt_packElems hj, ← hdecode]
  match j, hj with
  | 0, _ => exact congrArg fp32.decode (Nat.mod_eq_of_lt hlt)
  | 1, _ => exact congrArg fp32.decode (Nat.mod_eq_of_lt hlt)

/-- Settles O8: the dot products by the exact sum that `dotElem` rounds, FDIV and FRCP by one quotient of values, and RNDF by the
value of the code that it makes of each half of the draw. -/
theorem floatSums : Obligations.FloatSums := by
  refine ⟨fun s f => ⟨?_, ?_⟩, fun s f => ⟨?_, ?_, roundsLong_of_trans rfl, roundsLong_of_trans rfl, roundsLong_of_trans rfl,
    roundsLong_of_trans rfl, roundsLong_of_trans rfl, roundsLong_of_trans rfl⟩, fun s f => ⟨?_, ?_⟩⟩
  · exact roundsAlu_of_exec rfl fun c b => funext₂ fun env j => dotElem_eq _ _ 4 env _ _ _ j
  · exact roundsAlu_of_exec rfl fun c b => funext₂ fun env j => dotElem_eq _ _ 8 env _ _ _ j
  · exact roundsLong_of_exec rfl fun c b => funext₂ fun env j => div_eq_quotient env _ _
  · exact roundsLong_of_exec rfl fun c b => funext₂ fun env j => rcp_eq_quotient env _
  · exact fun hs => completes_issues rfl hs fun c _ h => ⟨_, rfl, h⟩
  · exact fun hs => completes_issues rfl hs fun c _ h => ⟨_, fun j hj => decode_unitFloats _ hj, h⟩

end Sys2Proof.Machine
end

section
/-!
PROOF. O47 fails for a core that the part does not have: the keys of its accumulators are keys of another device's memory.
-/
namespace Sys2Proof.Machine
open Sys2Proof Sys2Proof.Machine.Tests

/-- A core number so high that accKey gives its accumulators keys above remoteBase. The part has cores 0 to 191. -/
def beyondCore : Nat := 2 ^ 52

/-- A DRAIN of one row to slab of device 5, with bit 0 of MODE set. -/
def zeroingDrain : List Byte := (drainRecord (farSa 0x700).toNat).set 0x1A 1

/-- Its task, before its first row. -/
def zeroingTask : Running := startOf (recOf 1 4 zeroingDrain) 0

/-- The state in which that core runs it; the first byte of its accumulator row 0 is 1. -/
def beyondDrain : State :=
  { routed (stage lone) with
    cores := [(beyondCore, { Core.init with running := [(4, zeroingTask)], tile := some tile0 })]
    mem := [(accKey beyondCore 0, 1)] }

/-- The task is a DRAIN whose row lies on device 5, on whose route nothing bars it. -/
theorem beyondDrain_drains :
    beyondDrain.loomTask beyondCore 2 = some zeroingTask ∧ (beyondDrain.core beyondCore).tile = some tile0 ∧
    beyondDrain.slabDecode (drainRow zeroingDrain 0) = some (farKey 0x700) ∧
    Table.find beyondDrain.routes (remoteDev (farKey 0x700)) = some (23, 0) ∧ loomNvalid tile0.rcd = 1 ∧
    beyondDrain.touchesHeld (farKey 0x700) (drainSize zeroingDrain) = false ∧
    beyondDrain.engineBars beyondCore zeroingTask.rcd.owner [(farKey 0x700, drainSize zeroingDrain * loomNvalid tile0.rcd)] =
      false := by decide

/-- The DRAIN zeroes the byte, whose key is one of another device. -/
theorem beyondDrain_zeroes : isRemoteKey (accKey beyondCore 0) = true ∧ cellRead beyondDrain.mem (accKey beyondCore 0) = 1 ∧
    cellRead (beyondDrain.drainStep beyondCore false).mem (accKey beyondCore 0) = 0 := by decide +kernel

/-- Refutes O47: its clause on a DRAIN to another device leaves every byte with another device's key as it is, whatever the number
of the core. From core 2^52 − 2^48 on, those are also the keys of the core's own accumulators, which the DRAIN zeroes where
MODE asks it. -/
theorem not_loomRows : ¬ Obligations.LoomRows := by
  intro h
  obtain ⟨htask, htile, hplace, hroute, hone, hfree, hbars⟩ := beyondDrain_drains
  obtain ⟨hremote, hbefore, hafter⟩ := beyondDrain_zeroes
  obtain ⟨-, -, -, -, -, -, hfar, -⟩ := h beyondDrain beyondCore zeroingTask
  obtain ⟨t, hexec, -, -, hkept, -⟩ := hfar tile0 (farKey 0x700) 23 0 htask htile (by decide) hplace rfl hroute
    (fun n hn => by
      obtain rfl : n = 0 := by omega
      exact ⟨rfl, rfl, hfree⟩) hbars
  obtain rfl : beyondDrain.drainStep beyondCore false = t := Host.Outcome.next.inj hexec
  rw [hkept _ hremote, hbefore] at hafter
  exact absurd hafter (by decide)

end Sys2Proof.Machine
end

section
/-!
PROOF. The walk of a translated address: the tables that it passes, the level at which it ends, and the place that a leaf
names (O11).
-/
namespace Sys2Proof.Machine

/-! ### Tables and their keys -/

/-- The memory that a root and all the tables below it lie in: host memory or local HBM (R137). -/
def walkBase (host : Bool) : Nat := if host then hostBase else hbmBase

/-- Keys near the start of a memory tell which of the two it is. -/
theorem isHostKey_walkBase (host : Bool) {x : Nat} (hx : x < 2 ^ 53) : isHostKey (walkBase host + x) = host := by
  cases host <;> simp [walkBase, isHostKey, hostBase, hbmBase, accBase] <;> omega

/-- The root table r bytes into its memory. -/
def walkRoot (host : Bool) (r : Nat) : Nat := walkBase host + r

/-- The table of level n on the walk from a root. -/
def State.walkTable (s : State) (host : Bool) (r addr : Nat) : Nat → Nat
  | 0 => walkRoot host r
  | n + 1 => walkBase host + bitsAt (s.memNat (entryKey addr n (s.walkTable host r addr n)) 8) 51 8 * 2 ^ 8

/-- The key of the entry of level n that an address indexes, and the entry. -/
def State.walkKey (s : State) (host : Bool) (r addr n : Nat) : Nat := entryKey addr n (s.walkTable host r addr n)
def State.walkEntry (s : State) (host : Bool) (r addr n : Nat) : Nat := s.memNat (s.walkKey host r addr n) 8

theorem walkTable_near (s : State) (host : Bool) {r : Nat} (addr : Nat) (hr : r < 2 ^ 52) (n : Nat) :
    ∃ x < 2 ^ 52, s.walkTable host r addr n = walkBase host + x := by
  cases n with
  | zero => exact ⟨r, hr, rfl⟩
  | succ n =>
    refine ⟨_, ?_, rfl⟩
    unfold bitsAt
    omega

theorem levelBits_le (n : Nat) : levelBits n ≤ 9 := by
  unfold levelBits
  split <;> omega

theorem walkKey_near (s : State) (host : Bool) {r : Nat} (addr : Nat) (hr : r < 2 ^ 52) (n : Nat) :
    ∃ x < 2 ^ 53, s.walkKey host r addr n = walkBase host + x := by
  obtain ⟨x, hx, ht⟩ := walkTable_near s host addr hr n
  have hindex : addr / 2 ^ levelLow n % 2 ^ levelBits n < 2 ^ 9 :=
    lt_of_lt_of_le (Nat.mod_lt _ (Nat.two_pow_pos _)) (Nat.pow_le_pow_right (by decide) (levelBits_le n))
  refine ⟨x + 8 * (addr / 2 ^ levelLow n % 2 ^ levelBits n), by omega, ?_⟩
  rw [State.walkKey, entryKey, ht, Nat.add_assoc]

/-! ### Where a walk ends -/

/-- A physical HBM address that lies in no stack (R139, R140). -/
abbrev OutsideStacks (pa : Nat) : Prop := 2 ^ 39 ≤ pa ∨ 48000000000 ≤ pa % 2 ^ 36

theorem hbmValid_iff (pa : Nat) : hbmValid pa = true ↔ ¬ OutsideStacks pa := by
  rw [hbmValid, Bool.and_eq_true, decide_eq_true_eq, decide_eq_true_eq, OutsideStacks, not_or, Nat.not_le, Nat.not_le]
  rfl

section
variable {s : State} {host : Bool} {r addr : Nat}

/-- An entry is lost exactly if the walk is in local HBM and the entry lies in no stack. -/
theorem entryLost_walkKey (hr : r < 2 ^ 52) (n : Nat) :
    entryLost (s.walkKey host r addr n) = true ↔
      host = false ∧ OutsideStacks (s.walkKey host r addr n - hbmBase) := by
  obtain ⟨x, hx, hkey⟩ := walkKey_near s host addr hr n
  rw [entryLost, hkey, isHostKey_walkBase host hx,
    Bool.and_eq_true, Bool.not_eq_true', Bool.not_eq_true', ← Bool.not_eq_true (hbmValid _), hbmValid_iff, not_not]

/-- A walk from its table of level n on: what the entry there makes of it. -/
theorem walkFrom_table (hr : r < 2 ^ 52) {n : Nat} (hn : n ≤ 4) :
    walkFrom s addr (5 - n) (s.walkTable host r addr n) =
      let e := s.walkEntry host r addr n
      if entryLost (s.walkKey host r addr n) then .fault reasonBADENTRY n
      else if !bitAt e 0 then .fault reasonNOTVALID n
      else if bitAt e 1 then
        if n < 2 || !leafValid e n then .fault reasonBADENTRY n else .leaf e n
      else if n == 4 then .fault reasonBADENTRY n
      else walkFrom s addr (4 - n) (s.walkTable host r addr (n + 1)) := by
  obtain ⟨x, hx, ht⟩ := walkTable_near s host addr hr n
  have hhost : isHostKey (s.walkTable host r addr n) = host := by
    rw [ht, isHostKey_walkBase host (by omega)]
  have hlevel : 4 - (4 - n) = n := by omega
  rw [show 5 - n = (4 - n) + 1 by omega, walkFrom, hhost, hlevel]
  rfl

/-- The walk goes on from a level: its entry is a valid one that names a table. -/
def WalkPasses (s : State) (host : Bool) (r addr k : Nat) : Prop :=
  entryLost (s.walkKey host r addr k) = false ∧ s.walkEntry host r addr k % 4 = 1

theorem bitAt_zero (e : Nat) : bitAt e 0 = decide (e % 2 = 1) := by
  rw [bitAt, pow_zero, Nat.div_one]
  rfl

theorem bitAt_one (e : Nat) : bitAt e 1 = decide (2 ≤ e % 4) := by
  rw [bitAt, pow_one, Bool.eq_iff_iff, beq_iff_eq, decide_eq_true_eq]
  omega

theorem walkFrom_reaches (hr : r < 2 ^ 52) : ∀ {n : Nat}, n ≤ 4 →
    (∀ k < n, WalkPasses s host r addr k) →
      walkFrom s addr 5 (walkRoot host r) = walkFrom s addr (5 - n) (s.walkTable host r addr n)
  | 0, _, _ => rfl
  | n + 1, hn, h => by
    obtain ⟨hlost, hentry⟩ := h n (Nat.lt_succ_self n)
    rw [walkFrom_reaches hr (n := n) (by omega) (fun k hk => h k (by omega)), walkFrom_table hr (by omega)]
    have hvalid : s.walkEntry host r addr n % 2 = 1 := by omega
    simp only [hlost, bitAt_zero, bitAt_one, hentry, hvalid, show (n == 4) = false from beq_eq_false_iff_ne.mpr (by omega),
      show 5 - (n + 1) = 4 - n by omega, decide_true, Bool.not_true, Bool.false_eq_true, if_false, Nat.not_ofNat_le_one,
      decide_false]

/-! #### The ends of a walk whose tables lead to level n -/

section
variable {n : Nat} (hr : r < 2 ^ 52) (hn : n ≤ 4) (hreach : ∀ k < n, WalkPasses s host r addr k)
include hr hn hreach

theorem walkFrom_lost (hlost : entryLost (s.walkKey host r addr n) = true) :
    walkFrom s addr 5 (walkRoot host r) = .fault reasonBADENTRY n := by
  rw [walkFrom_reaches hr hn hreach, walkFrom_table hr hn, hlost]
  rfl

section
variable (hlost : entryLost (s.walkKey host r addr n) = false)
include hlost

theorem walkFrom_invalid (he : s.walkEntry host r addr n % 2 = 0) :
    walkFrom s addr 5 (walkRoot host r) = .fault reasonNOTVALID n := by
  rw [walkFrom_reaches hr hn hreach, walkFrom_table hr hn]
  simp only [hlost, bitAt_zero, he, Nat.zero_ne_one, decide_false, Bool.not_false, if_true, Bool.false_eq_true, if_false]

theorem walkFrom_last (he : s.walkEntry host r addr n % 4 = 1) (h4 : n = 4) :
    walkFrom s addr 5 (walkRoot host r) = .fault reasonBADENTRY n := by
  have hvalid : s.walkEntry host r addr n % 2 = 1 := by omega
  rw [walkFrom_reaches hr hn hreach, walkFrom_table hr hn]
  simp only [hlost, bitAt_zero, bitAt_one, he, hvalid, beq_iff_eq.mpr h4, decide_true, Bool.not_true, Bool.false_eq_true,
    if_false, if_true, Nat.not_ofNat_le_one, decide_false]

theorem walkFrom_leaf (he : s.walkEntry host r addr n % 4 = 3) :
    walkFrom s addr 5 (walkRoot host r) =
      if n < 2 || !leafValid (s.walkEntry host r addr n) n then .fault reasonBADENTRY n
      else .leaf (s.walkEntry host r addr n) n := by
  have hvalid : s.walkEntry host r addr n % 2 = 1 := by omega
  rw [walkFrom_reaches hr hn hreach, walkFrom_table hr hn]
  simp only [hlost, bitAt_zero, bitAt_one, he, hvalid, decide_true, Bool.not_true, Bool.false_eq_true, if_false,
    Nat.reduceLeDiff, if_true]

end

end

/-- A leaf of a level, whose pages have so many address bits, that R138 and R139 do not allow there. -/
def BadLeaf (e n bits : Nat) : Prop :=
  let pa := e / 2 ^ 16 % 2 ^ 36 * 2 ^ 16
  n < 2 ∨ e / 2 ^ 6 % 4 = 3 ∨ e / 2 ^ 8 % 2 ^ 8 ≠ 0 ∨ pa % 2 ^ bits ≠ 0 ∨ (e / 2 ^ 6 % 4 ≠ 1 ∧ e / 2 ^ 52 % 2 ^ 12 ≠ 0) ∨
    (e / 2 ^ 6 % 4 = 0 ∧ OutsideStacks pa)

theorem badLeaf_iff (e n : Nat) : BadLeaf e n (levelLow n) ↔ (n < 2 || !leafValid e n) = true := by
  have hvalid (pa : Nat) : hbmValid pa = false ↔ OutsideStacks pa := by
    rw [← Bool.not_eq_true, hbmValid_iff, not_not]
  simp only [BadLeaf, leafValid, bitsAt, Nat.reduceAdd, Nat.reduceSub, Nat.reducePow, Bool.or_eq_true, Bool.not_eq_true',
    Bool.and_eq_false_iff, decide_eq_true_eq, bne_eq_false_iff_eq, beq_eq_false_iff_ne, Bool.or_eq_false_iff, hvalid, ne_eq]
  tauto

end

/-! ### What a leaf says of an address -/

/-- What becomes of an access at a leaf of a level, whose pages have so many address bits (R139, R140, R144). -/
def State.Serves (s : State) (addr acc e n bits : Nat) (v : Verdict) : Prop :=
  let at_ := e / 2 ^ 16 % 2 ^ 36 * 2 ^ 16 + addr % 2 ^ bits
  let mt := e / 2 ^ 6 % 4
  let dev := e / 2 ^ 52 % 2 ^ 12
  if mt = 0 ∧ OutsideStacks at_ then v = .fault reasonBADENTRY n
  else if acc ∈ [accLoad, accAtomic, accEngineRead] ∧ e / 2 ^ 2 % 2 = 0 then v = .fault reasonNOREAD n
  else if acc ∈ [accStore, accAtomic, accEngineWrite] ∧ e / 2 ^ 3 % 2 = 0 then v = .fault reasonNOWRITE n
  else if mt = 0 ∨ (mt = 1 ∧ s.devnum = some dev) then v = .key (hbmBase + at_)
  else if mt = 1 then
    v = if s.devnum.isSome ∧ (Table.find s.routes dev).isSome then .key (remoteKey dev false at_) else .fault reasonUNREACH n
  else v = .key (hostBase + at_)

/-- The byte that a leaf with the right to the access names, by its MT, its DEV and the address in its memory. -/
def State.leafPlace (s : State) (mt dev at_ n : Nat) : Verdict :=
  if mt = 0 ∨ (mt = 1 ∧ s.devnum = some dev) then .key (hbmBase + at_)
  else if mt = 1 then
    if s.devnum.isSome ∧ (Table.find s.routes dev).isSome then .key (remoteKey dev false at_) else .fault reasonUNREACH n
  else .key (hostBase + at_)

theorem lacksRight_iff (b : Bool) (e i : Nat) : (b && !bitAt e i) = true ↔ b = true ∧ e / 2 ^ i % 2 = 0 := by
  rw [bitAt]
  simp

/-- The rights of a leaf, and then its place. -/
theorem translate_leaf {s : State} {root addr e n : Nat} (h : s.leafOf root addr = .leaf e n) (acc : Nat) :
    s.translate root addr acc =
      if acc ∈ [accLoad, accAtomic, accEngineRead] ∧ e / 2 ^ 2 % 2 = 0 then .fault reasonNOREAD n
      else if acc ∈ [accStore, accAtomic, accEngineWrite] ∧ e / 2 ^ 3 % 2 = 0 then .fault reasonNOWRITE n
      else s.leafPlace (e / 2 ^ 6 % 4) (e / 2 ^ 52 % 2 ^ 12) (e / 2 ^ 16 % 2 ^ 36 * 2 ^ 16 + addr % 2 ^ levelLow n) n := by
  rw [State.translate, h]
  refine if_congr ?_ rfl (if_congr ?_ rfl ?_)
  · simp only [lacksRight_iff, Bool.or_eq_true, beq_iff_eq, List.mem_cons, List.not_mem_nil, or_false, or_assoc]
  · simp only [lacksRight_iff, Bool.or_eq_true, beq_iff_eq, List.mem_cons, List.not_mem_nil, or_false, or_assoc]
  · have hmt : bitsAt e 7 6 = e / 2 ^ 6 % 4 := rfl
    rw [State.leafPlace, ← hmt]
    split
    · rename_i h0
      rw [h0]
      rfl
    · rename_i h1
      have hreach : (!s.reaches (bitsAt e 63 52)) = true ↔
          ¬ (s.devnum.isSome ∧ (Table.find s.routes (e / 2 ^ 52 % 2 ^ 12)).isSome) := by
        rw [Bool.not_eq_true', ← Bool.not_eq_true, State.reaches, Bool.and_eq_true]
        rfl
      rw [h1, if_pos rfl]
      exact if_congr (by simp only [Nat.one_ne_zero, false_or, true_and]; rfl) rfl
        ((if_congr hreach rfl rfl).trans (ite_not _ _ _))
    · rename_i h0 h1
      rw [if_neg (by tauto), if_neg h1]
      rfl

theorem leafOf_cached {s : State} {root addr : Nat} {t : Cached} (h : s.cached root addr = some t) :
    s.leafOf root addr = leafAt t.leaf.toNat t.level addr := by
  rw [State.leafOf, h]

theorem leafOf_walked {s : State} {root addr e n : Nat} (hc : s.cached root addr = none)
    (h : walkFrom s addr 5 root = .leaf e n) : s.leafOf root addr = leafAt e n addr := by
  rw [State.leafOf, hc]
  simp only [h]

theorem translate_fault {s : State} {root addr reason n : Nat} (hc : s.cached root addr = none)
    (h : walkFrom s addr 5 root = .fault reason n) (acc : Nat) : s.translate root addr acc = .fault reason n := by
  have hleaf : s.leafOf root addr = .fault reason n := by
    rw [State.leafOf, hc]
    simp only [h]
  rw [State.translate, hleaf]

/-- A leaf that a walk has met, or that is cached, serves its addresses. -/
theorem translate_serves {s : State} {root addr e n : Nat} (h : s.leafOf root addr = leafAt e n addr) (acc : Nat) :
    s.Serves addr acc e n (levelLow n) (s.translate root addr acc) := by
  unfold State.Serves
  intro at_ mt dev
  have hleaf : s.leafOf root addr = if mt = 0 ∧ OutsideStacks at_ then .fault reasonBADENTRY n else .leaf e n := by
    rw [h, leafAt]
    refine if_congr ?_ rfl rfl
    rw [Bool.and_eq_true, beq_iff_eq, Bool.not_eq_true', ← Bool.not_eq_true, hbmValid_iff, not_not]
    rfl
  split
  · rename_i hout
    rw [if_pos hout] at hleaf
    rw [State.translate, hleaf]
  · rename_i hout
    rw [if_neg hout] at hleaf
    rw [translate_leaf hleaf, State.leafPlace]
    repeat' split
    all_goals rfl

/-! ### The obligation -/

/-- The bits of an address that each level indexes, as the claim lists them. -/
theorem levelLow_eq : ∀ n ≤ 4, [48, 39, 30, 21, 16].getD n 16 = levelLow n := by decide
theorem levelBits_eq : ∀ n ≤ 4, [8, 9, 9, 9, 5].getD n 9 = levelBits n := by decide

theorem entryKey_listed (addr table : Nat) {n : Nat} (hn : n ≤ 4) :
    table + 8 * (addr / 2 ^ [48, 39, 30, 21, 16].getD n 16 % 2 ^ [8, 9, 9, 9, 5].getD n 9) = entryKey addr n table := by
  rw [levelLow_eq n hn, levelBits_eq n hn, entryKey]

theorem walkTable_listed (s : State) (host : Bool) (r addr : Nat) : ∀ {n : Nat}, n ≤ 4 →
    (List.range n).foldl (fun t k => walkBase host + s.memNat
      (t + 8 * (addr / 2 ^ [48, 39, 30, 21, 16].getD k 16 % 2 ^ [8, 9, 9, 9, 5].getD k 9)) 8 / 2 ^ 8 % 2 ^ 44 * 2 ^ 8)
      (walkRoot host r) = s.walkTable host r addr n
  | 0, _ => rfl
  | n + 1, hn => by
    rw [List.range_succ, List.foldl_append, walkTable_listed s host r addr (by omega), List.foldl_cons, List.foldl_nil,
      entryKey_listed addr _ (by omega)]
    rfl

/-- Settles O11: the tables of the claim are those of the walk, which goes on through every level that it passes; what it meets
at the next level, or finds cached, decides its end. -/
theorem pageWalk : Obligations.PageWalk := by
  intro s host r addr acc hr haddr hacc base root low count outside place table entry lost reached bad served
  have hlow : ∀ n ≤ 4, low n = levelLow n := levelLow_eq
  have hkey : ∀ n ≤ 4, place (table n) n = s.walkKey host r addr n := by
    intro n hn
    rw [State.walkKey, ← entryKey_listed _ _ hn, ← walkTable_listed s host r addr hn]
    rfl
  have hentry : ∀ n ≤ 4, entry n = s.walkEntry host r addr n := fun n hn => congrArg (s.memNat · 8) (hkey n hn)
  have hlost : ∀ n ≤ 4, lost n ↔ entryLost (s.walkKey host r addr n) = true := by
    intro n hn
    rw [entryLost_walkKey hr n, ← hkey n hn]
  have hfound : ∀ n ≤ 4, ¬ lost n → entryLost (s.walkKey host r addr n) = false := by
    intro n hn h
    rwa [hlost n hn, Bool.not_eq_true] at h
  have hserved : ∀ e, ∀ n ≤ 4, s.leafOf root addr = leafAt e n addr → served e n (s.translate root addr acc) := by
    intro e n hn hleaf
    have hs := translate_serves hleaf acc
    rw [← hlow n hn] at hs
    exact hs
  refine ⟨fun t ht hlevel => hserved _ _ hlevel (leafOf_cached ht), fun hc n hn hreached => ?_⟩
  have hreach : ∀ k < n, WalkPasses s host r addr k := by
    intro k hk
    obtain ⟨hkept, hnext⟩ := hreached k hk
    rw [hentry k (by omega)] at hnext
    exact ⟨hfound k (by omega) hkept, hnext⟩
  have hleaf (h : ¬ lost n) (he : entry n % 4 = 3) : walkFrom s addr 5 root =
      if n < 2 || !leafValid (entry n) n then .fault reasonBADENTRY n else .leaf (entry n) n := by
    rw [hentry n hn] at he ⊢
    exact walkFrom_leaf hr hn hreach (hfound n hn h) he
  have hbad : bad (entry n) n ↔ (n < 2 || !leafValid (entry n) n) = true := by
    rw [← badLeaf_iff, ← hlow n hn]
    rfl
  refine ⟨fun h => ?lost, fun h he => ?invalid, fun h he h4 => ?last, fun h he hb => ?bad, fun h he hb => ?leaf⟩
  case lost =>
    exact translate_fault hc (walkFrom_lost hr hn hreach ((hlost n hn).mp h)) acc
  case invalid =>
    rw [hentry n hn] at he
    exact translate_fault hc (walkFrom_invalid hr hn hreach (hfound n hn h) he) acc
  case last =>
    rw [hentry n hn] at he
    exact translate_fault hc (walkFrom_last hr hn hreach (hfound n hn h) he h4) acc
  case bad =>
    exact translate_fault hc ((hleaf h he).trans (if_pos (hbad.mp hb))) acc
  case leaf =>
    exact hserved _ n hn (leafOf_walked hc ((hleaf h he).trans (if_neg (mt hbad.mpr hb))))

end Sys2Proof.Machine
end

section
/-!
PROOF. What writes at home, firings and squashed forks keep of a core: all but its queues, the records on their way into them
and the number of its next trace record. The proof of O37 rests on it.
-/
namespace Sys2Proof.Machine

/-- A core but for what a firing or a trace record changes in it. -/
def Core.steady (c : Core) : Core :=
  { c with
    queues := []
    coming := []
    lastTile := none
    traceSeq := 0 }

@[simp] theorem Core.steady_faultsOut (c : Core) : c.steady.faultsOut = c.faultsOut := rfl
@[simp] theorem Core.steady_running (c : Core) : c.steady.running = c.running := rfl

/-- A step that changes nothing else in any core. -/
def CoresSteady (s t : State) : Prop := ∀ k, (t.core k).steady = (s.core k).steady

section
variable {s t u : State}

theorem CoresSteady.refl (s : State) : CoresSteady s s := fun _ => rfl

theorem CoresSteady.trans (h1 : CoresSteady s t) (h2 : CoresSteady t u) : CoresSteady s u := fun k => (h2 k).trans (h1 k)

theorem CoresSteady.faultsOut (h : CoresSteady s t) (k : Nat) : (t.core k).faultsOut = (s.core k).faultsOut := by
  rw [← Core.steady_faultsOut, h k, Core.steady_faultsOut]

theorem CoresSteady.running (h : CoresSteady s t) (k : Nat) : (t.core k).running = (s.core k).running := by
  rw [← Core.steady_running, h k, Core.steady_running]

end

theorem steady_foldl {α : Type} {g : State → α → State} (h : ∀ s a, CoresSteady s (g s a)) (l : List α) (s : State) :
    CoresSteady s (l.foldl g s) :=
  foldl_inv (fun t => CoresSteady s t) g l (fun t a ht => ht.trans (h t a)) s (CoresSteady.refl s)

theorem steady_of_cores {s t : State} (h : t.cores = s.cores) : CoresSteady s t := fun k => by
  rw [State.core, h]
  rfl

theorem steady_onCore (s : State) (n : Nat) {g : Core → Core} (hg : ∀ c, (g c).steady = c.steady) :
    CoresSteady s (s.onCore n g) := fun k => by
  rw [core_onCore]
  split
  · rename_i hk
    rw [hg, hk]
  · rfl

/-! ### Firings -/

theorem steady_onKeystone (s : State) (ctrl num : Nat) (g : Keystone → Keystone) : CoresSteady s (s.onKeystone ctrl num g) :=
  steady_of_cores rfl

theorem steady_numbers (s : State) (num enq : Nat) : CoresSteady s { s with nextNum := num, enqueued := enq } :=
  steady_of_cores rfl

theorem steady_enqueue (s : State) (core q : Nat) (r : QRec) : CoresSteady s (s.enqueue core q r) := by
  refine CoresSteady.trans (steady_onCore s core ?_) (steady_numbers _ _ _)
  exact fun _ => rfl

theorem steady_ksAct (s : State) (ctrl num : Nat) (k : Keystone) : CoresSteady s (s.ksAct ctrl num k) := by
  unfold State.ksAct
  split
  · split <;> exact steady_of_cores rfl
  · split <;> exact steady_of_cores rfl
  · split
    · simp only
      split
      · refine CoresSteady.trans (steady_onCore s k.core ?_) (steady_onKeystone _ ctrl num _)
        exact fun _ => rfl
      · exact steady_enqueue s _ _ _
    · exact CoresSteady.refl s
  · exact steady_of_cores rfl

theorem steady_ksAction (s : State) (ctrl num : Nat) (k : Keystone) : CoresSteady s (s.ksAction ctrl num k) := by
  unfold State.ksAction
  split
  · exact steady_of_cores rfl
  · exact steady_ksAct s ctrl num k

theorem steady_ksFire (fuel : Nat) : ∀ (s : State) (ctrl num : Nat), CoresSteady s (s.ksFire ctrl num fuel) := by
  induction fuel with
  | zero => exact fun s _ _ => CoresSteady.refl s
  | succ fuel ih =>
    intro s ctrl num
    unfold State.ksFire
    simp only
    split
    · exact CoresSteady.refl s
    · split
      · exact steady_onKeystone s ctrl num _
      · split
        · exact (steady_ksAction s ctrl num _).trans ((steady_onKeystone _ ctrl num _).trans (ih _ ctrl num))
        · exact (steady_ksAction s ctrl num _).trans (steady_onKeystone _ ctrl num _)

theorem steady_ksCount (s : State) (ctrl num n : Nat) : CoresSteady s (s.ksCount ctrl num n) := by
  unfold State.ksCount
  simp only
  split
  · exact (steady_onKeystone s ctrl num _).trans (steady_ksFire _ _ ctrl num)
  · exact steady_onKeystone s ctrl num _

/-! ### Writes at home and squashed forks -/

theorem steady_homeStore (s : State) (key : Nat) (bytes : List Byte) (poisoned : Bool) :
    CoresSteady s (s.homeStore key bytes poisoned) := by
  have hfits (v : State) (k n : Nat) : CoresSteady v (v.noteFits k n) := by
    rw [noteFits_frame]
    exact steady_of_cores rfl
  have hmarks (v : State) (k n : Nat) : CoresSteady v (v.unmark k n) := by
    rw [unmark_frame]
    exact steady_of_cores rfl
  have hcount (v : State) (k n : Nat) : CoresSteady v (v.count k n) := by
    rw [State.count]
    apply steady_foldl
    intro v e
    apply steady_ksCount
  have hbytes : CoresSteady s
      { s with mem := cellsWrite s.mem key bytes, poison := poisonAfter s.poison key bytes.length poisoned } :=
    steady_of_cores rfl
  have htests (v : State) (k n : Nat) : CoresSteady v (v.testStarts k n) := steady_of_cores rfl
  exact (((hbytes.trans (hmarks _ _ _)).trans (hfits _ _ _)).trans (htests _ _ _)).trans (hcount _ _ _)

theorem steady_trace (s : State) (c : Ctx) (kind : Nat) (pc : Word) : CoresSteady s (s.trace c kind pc) := by
  unfold State.trace
  split
  · exact CoresSteady.refl s
  · simp only
    split
    · exact CoresSteady.refl s
    · split
      · exact CoresSteady.refl s
      · split
        all_goals
          refine (steady_homeStore s _ _ _).trans (CoresSteady.trans (steady_onCore _ _ ?_) (steady_homeStore _ _ _ _))
          exact fun _ => rfl

theorem steady_squashFork (s : State) (f : Fork) : CoresSteady s (s.squashFork f) := by
  unfold State.squashFork
  simp only
  split
  · exact (steady_trace s _ 6 f.ret).trans (steady_of_cores rfl)
  · exact steady_of_cores rfl

theorem steady_stopThreads (s : State) (sel : Nat → Bool) : CoresSteady s (s.stopThreads sel) := by
  have hforks : CoresSteady s ((s.forks.filter (fun f => sel f.wg)).foldl State.squashFork s) := by
    apply steady_foldl
    exact steady_squashFork
  exact hforks.trans (steady_of_cores rfl)

end Sys2Proof.Machine
end

section
/-!
PROOF. Fault records are written, answered and freed (O37).
-/
namespace Sys2Proof.Machine

/-! ### Tables that lose an entry -/

theorem find_erase {α : Type} (t : Table α) (k m : Nat) :
    Table.find (Table.erase t k) m = if m = k then none else Table.find t m := by
  induction t with
  | nil => simp [Table.erase, Table.find]
  | cons e t ih =>
    obtain ⟨a, v⟩ := e
    have hcons : Table.erase ((a, v) :: t) k = if a = k then Table.erase t k else (a, v) :: Table.erase t k := by
      by_cases ha : a = k <;> simp [Table.erase, ha]
    rw [hcons]
    by_cases ha : a = k
    · rw [if_pos ha, ih, ← ha]
      by_cases hm : m = a
      · rw [if_pos hm, if_pos hm]
      · simp only [hm, Ne.symm hm, if_false, Table.find]
    · rw [if_neg ha]
      simp only [Table.find, ih]
      by_cases hm : m = k
      · simp only [hm, ha, if_true, if_false]
      · simp only [hm, if_false]

/-! ### Records that are freed -/

theorem freeFault_faultsOut (s : State) (core i : Nat) :
    ((s.freeFault core i).core core).faultsOut = Table.erase (s.core core).faultsOut i := by
  rw [State.freeFault, core_onCore, if_pos rfl, (steady_homeStore s _ _ _).faultsOut]

/-- A record that is free names no fault, and stays free as others are freed. -/
theorem freeFaults_find {core idx : Nat} : ∀ {is : List Nat} {s : State},
    (idx ∈ is ∨ Table.find (s.core core).faultsOut idx = none) →
      Table.find ((is.foldl (fun s i => s.freeFault core i) s).core core).faultsOut idx = none
  | [], _, h => h.resolve_left List.not_mem_nil
  | i :: is, s, h => by
    refine freeFaults_find (is := is) ?_
    rw [freeFault_faultsOut, find_erase]
    by_cases hi : idx = i
    · exact Or.inr (if_pos hi)
    · rw [if_neg hi]
      exact h.imp_left (fun hm => (List.mem_cons.mp hm).resolve_left hi)

theorem cellsRead_homeStore {s : State} (h : s.memOk = true) (key : Nat) (bytes : List Byte) :
    cellsRead (s.homeStore key bytes false).mem key bytes.length = bytes := by
  rw [homeStore_mem, cellsRead_cellsWrite h]

theorem freeFault_byte {s : State} (core i : Nat) (h : s.memOk = true) :
    cellsRead (s.freeFault core i).mem (faultKey core i + 0x14) 1 = [0] :=
  cellsRead_homeStore h (faultKey core i + 0x14) [0]

/-! ### FAULT_RECORD_WRITE -/

section
variable {s : State} {core : Nat} {r : FaultReq} {rs : List FaultReq}

theorem recordWrite_idle (h : (s.core core).faultsWaiting = []) : Stays s (.faultRecordWrite core) := by
  show execFaultRecordWrite core s = _
  simp only [execFaultRecordWrite, h]

theorem recordWrite_full (h : (s.core core).faultsWaiting = r :: rs)
    (hout : (Table.find (s.core core).faultsOut (s.core core).faultNext).isSome) : Stays s (.faultRecordWrite core) := by
  show execFaultRecordWrite core s = _
  simp only [execFaultRecordWrite, h, hout, if_true]

/-- The core after the oldest waiting fault has taken the next record. -/
def Core.recorded (k : Core) (r : FaultReq) (rs : List FaultReq) (c : Core) : Core :=
  { c with
    faultsWaiting := rs
    faultsOut := Table.set c.faultsOut k.faultNext r
    faultNext := (k.faultNext + 1) % 128
    faultSeq := (k.faultSeq + 1) % 65536 }

theorem exec_recordWrite (h : (s.core core).faultsWaiting = r :: rs)
    (hfree : Table.find (s.core core).faultsOut (s.core core).faultNext = none) : exec (.faultRecordWrite core) s =
      .next ((s.homeStore (faultKey core (s.core core).faultNext) (r.bytes (s.core core).faultSeq) false).onCore core
        (Core.recorded (s.core core) r rs)) := by
  show execFaultRecordWrite core s = _
  simp only [execFaultRecordWrite, h, hfree, Option.isSome_none, Bool.false_eq_true, if_false]
  rfl

theorem recordWrite_takes (h : (s.core core).faultsWaiting = r :: rs)
    (hfree : Table.find (s.core core).faultsOut (s.core core).faultNext = none) :
    Answers s (.faultRecordWrite core) (fun t =>
      Stored s t (faultKey core (s.core core).faultNext) (r.bytes (s.core core).faultSeq) ∧
      (t.core core).faultsWaiting = rs ∧ Table.find (t.core core).faultsOut (s.core core).faultNext = some r ∧
      (t.core core).faultNext = ((s.core core).faultNext + 1) % 128 ∧
      (t.core core).faultSeq = ((s.core core).faultSeq + 1) % 65536 ∧ SameThreads s t) := by
  refine ⟨_, exec_recordWrite h hfree, stored_homeStore s _ _ _, ?_⟩
  rw [core_onCore, if_pos rfl]
  refine ⟨rfl, ?_, rfl, rfl, homeStore_sameThreads s _ _ _⟩
  show Table.find (Table.set _ (s.core core).faultNext r) _ = _
  rw [Table.find_set, if_pos rfl]

end

/-! ### Answers to a record -/

section
variable {s : State} {core idx : Nat} {r : FaultReq}

theorem answer_unheld (h : Table.find (s.core core).faultsOut idx = none) :
    Stays s (.faultResolved core idx) ∧ Stays s (.faultAbort core idx) := by
  constructor
  · show execFaultResolved core idx s = _
    simp only [execFaultResolved, h]
  · show execFaultAbort core idx s = _
    simp only [execFaultAbort, h]

theorem answered_iff : s.answered core idx r = true ↔
    r.resolved = true ∨ leNat (cellsRead s.mem (faultKey core idx + 0x14) 1) = 3 := by
  rw [State.answered, Bool.or_eq_true, beq_iff_eq]
  rfl

section
variable (h : Table.find (s.core core).faultsOut idx = some r)
include h

theorem answer_again (ha : s.answered core idx r = true) :
    Stays s (.faultResolved core idx) ∧ Stays s (.faultAbort core idx) := by
  constructor
  · show execFaultResolved core idx s = _
    simp only [execFaultResolved, h, ha, if_true]
  · show execFaultAbort core idx s = _
    simp only [execFaultAbort, h, ha, if_true]

end
end

end Sys2Proof.Machine
end

section
/-!
PROOF. Replays of parked loads, and the records that wait for them (O37).
-/
namespace Sys2Proof.Machine

/-! ### The load that completes frees its record -/

/-- A core's records wait for an instruction no longer. -/
def Core.unwaited (id : CtxId) (num : Nat) (c : Core) : Core :=
  { c with
    faultsOut := c.faultsOut.map (fun e =>
      (e.1, if e.2.resolved then { e.2 with who := e.2.who.filter (fun w => w != (id, num)) } else e.2)) }

/-- The one record of a core that waits for an instruction alone is freed as that completes (R146). -/
theorem replayDone_frees {s : State} {core idx num : Nat} {id : CtxId} {r : FaultReq}
    (hout : (s.core core).faultsOut = [(idx, r)]) (hr : r.resolved = true) (hhod : r.hod = false) (hwho : r.who = [(id, num)]) :
    s.replayDone core id num = (s.onCore core (Core.unwaited id num)).freeFault core idx := by
  have hleft : ((s.onCore core (Core.unwaited id num)).core core).faultsOut = [(idx, { r with who := [] })] := by
    rw [core_onCore, if_pos rfl, Core.unwaited, hout]
    simp only [List.map_cons, List.map_nil, hr, hwho, if_true, List.filter_cons, List.filter_nil, bne_self_eq_false,
      Bool.false_eq_true, if_false]
  show (if (s.core core).faultsOut.isEmpty = true then s else
    ((((s.onCore core (Core.unwaited id num)).core core).faultsOut.filter
      (fun e => e.2.resolved && e.2.who.isEmpty && !e.2.hod)).map Prod.fst).foldl
        (fun s i => s.freeFault core i) (s.onCore core (Core.unwaited id num))) = _
  rw [hleft, hout]
  simp only [List.isEmpty_cons, Bool.false_eq_true, if_false, List.filter_cons, List.filter_nil, hr, hhod,
    List.isEmpty_nil, Bool.not_false, Bool.and_self, if_true, List.map_cons, List.map_nil, List.foldl_cons, List.foldl_nil]

/-- What a context's read of a range leaves: it is noted, and its line enters L1. -/
def State.lineRead (s : State) (c : Ctx) (num key n : Nat) : State :=
  (s.noteRead c.id num (s.viewer c num) true key n).fillL1 (s.coreOf c) key

theorem fillL1_frame (s : State) (core key : Nat) : ∃ cores, s.fillL1 core key = { s with cores := cores } := by
  unfold State.fillL1
  simp only
  split
  · exact ⟨_, rfl⟩
  · exact ⟨s.cores, rfl⟩

theorem fillL1_faultsOut (s : State) (core key k : Nat) : ((s.fillL1 core key).core k).faultsOut = (s.core k).faultsOut := by
  unfold State.fillL1
  simp only
  split
  · rw [core_onCore]
    split
    · rename_i hk
      rw [hk]
    · rfl
  · rfl

theorem lineRead_frame (s : State) (c : Ctx) (num key n : Nat) :
    ∃ cores seen, s.lineRead c num key n = { s with cores := cores, seen := seen } := by
  unfold State.lineRead
  rw [noteRead_frame]
  obtain ⟨cores, h⟩ := fillL1_frame
    { s with seen := (s.noteRead c.id num (s.viewer c num) true key n).seen } (s.coreOf c) key
  exact ⟨cores, _, h⟩

theorem lineRead_faultsOut (s : State) (c : Ctx) (num key n k : Nat) :
    ((s.lineRead c num key n).core k).faultsOut = (s.core k).faultsOut := by
  rw [State.lineRead, fillL1_faultsOut, noteRead_frame]
  rfl

/-- A context in which an instruction has landed and changed the registers. -/
def Ctx.landedWith (num : Nat) (g : Regs → Regs) (c : Ctx) : Ctx := { c.land num with regs := g c.regs }

theorem landedWith_id (num : Nat) (g : Regs → Regs) (c : Ctx) : (c.landedWith num g).id = c.id := rfl

/-- A load of this device whose bytes nothing bars lands with what they make of its registers. -/
theorem completeLoad_lands {s : State} {c : Ctx} {f : Flight} {a : Access} (sx : Bool) (hhalf : a.half = none)
    (hnear : isRemoteKey a.key = false) (holder : c.olderOver f.num a.key a.size = false)
    (hbars : s.handleBars (some c.id.wg) a.key a.size = false) (hpoison : s.ctxPoison c f.num a.key a.size = none) :
    ∃ g : Regs → Regs, s.completeLoad c f a sx =
      (((s.lineRead c f.num a.key a.size).onCtx c.id (Ctx.landedWith f.num g)).replayDone (s.coreOf c) c.id f.num).settle
        c.id := by
  let g : Regs → Regs := loadRegs f sx a.size (a.joined ((s.lineRead c f.num a.key a.size).ctxBytes c f.num a.key a.size))
  have hcore : ((s.lineRead c f.num a.key a.size).onCtx c.id (Ctx.landedWith f.num g)).coreOf c = s.coreOf c := by
    obtain ⟨cores, seen, hread⟩ := lineRead_frame s c f.num a.key a.size
    rw [hread]
    rfl
  have hrest : a.rest = (a.key, a.size) := by rw [Access.rest, hhalf]
  have hsent : a.unsent = false := by rw [Access.unsent, hnear, Bool.false_and]
  refine ⟨g, ?_⟩
  simp only [State.completeLoad, hrest, State.readPart, holder, hsent, Bool.false_and, Bool.false_eq_true, if_false,
    State.readFault, hbars, hpoison, Option.map_none]
  exact congrArg (fun k => (State.replayDone _ k c.id f.num).settle c.id) hcore

theorem loadComplete_frees {s : State} {core idx num : Nat} {id : CtxId} {r : FaultReq} {c : Ctx} {f : Flight} {a : Access}
    {sx : Bool} (hr : r.resolved = true) (hhod : r.hod = false) (hwho : r.who = [(id, num)])
    (hout : (s.core core).faultsOut = [(idx, r)]) (hhas : s.has id num c f) (hwhat : f.what = .access a false)
    (hop : a.op = .load sx) (hhalf : a.half = none) (hcore : s.coreOf c = core) (hnear : isRemoteKey a.key = false)
    (hbars : s.handleBars (some id.wg) a.key a.size = false) (holder : c.olderOver num a.key a.size = false)
    (hpoison : s.ctxPoison c num a.key a.size = none) (hquiet : c.quiet num = true) :
    Answers s (.loadComplete id num) (fun t => Holds s t (faultKey core idx + 0x14) [0] ∧
      Table.find (t.core core).faultsOut idx = none) := by
  obtain ⟨hc, hf⟩ := hhas
  obtain rfl : c.id = id := (State.ctx?_mem hc).2
  obtain rfl : f.num = num := by simpa using List.find?_some hf
  obtain ⟨g, hload⟩ := completeLoad_lands sx hhalf hnear holder hbars hpoison
  let w := (s.lineRead c f.num a.key a.size).onCtx c.id (Ctx.landedWith f.num g)
  obtain ⟨cores, seen, hread⟩ := lineRead_frame s c f.num a.key a.size
  have hw : (w.core core).faultsOut = [(idx, r)] := (lineRead_faultsOut s c f.num a.key a.size core).trans hout
  have hfrees := replayDone_frees hw hr hhod hwho
  have hland : w.ctx? c.id = some { c.land f.num with regs := g c.regs } := by
    have hc' : (s.lineRead c f.num a.key a.size).ctx? c.id = some c := by
      rw [hread]
      exact hc
    refine (ctx?_onCtx (landedWith_id f.num g) c.id).trans ?_
    rw [if_pos rfl, hc', Option.map_some, Ctx.landedWith]
  have hsettle : (w.replayDone core c.id f.num).settle c.id = w.replayDone core c.id f.num := by
    refine settle_landed hquiet (r := g c.regs) ?_
    rw [hfrees, State.ctx?, freeFault_ctxs]
    exact hland
  refine ⟨w.replayDone core c.id f.num, ?_, fun hok => ?_, ?_⟩
  · show execLoadComplete c.id f.num s = _
    simp only [execLoadComplete, hc, hf, hwhat, hop, Bool.false_eq_true, if_false, hload, hcore]
    exact congrArg _ hsettle
  · rw [hfrees]
    refine freeFault_byte core idx ?_
    show (s.lineRead c f.num a.key a.size).memOk = true
    rw [hread]
    exact hok
  · rw [hfrees, freeFault_faultsOut, find_erase, if_pos rfl]

end Sys2Proof.Machine
end

section
/-!
PROOF. Fault records that are answered RESOLVED or ABORTED, or whose launch has stopped, and the whole of O37.
-/
namespace Sys2Proof.Machine

/-! ### What is read off a state that is kept -/

section
variable {s t : State}

theorem wg?_still (s : State) (n : Nat) : (s.wg? n).map Workgroup.still =
    (s.wgs.map Workgroup.still).find? (fun w => w.num == n) := by
  rw [List.find?_map]
  rfl

/-- A thread's launch is found again, and only the tests of its PRODUCER may have changed. -/
theorem Kept.home {c : Ctx} {l : Launch} {w : Workgroup} (h : Kept s t) (hh : s.home? c = some (l, w)) :
    ∃ l' w', t.home? c = some (l', w') ∧ l'.untested = l.untested := by
  simp only [State.home?, Option.bind_eq_some_iff, Option.map_eq_some_iff, Prod.mk.injEq] at hh
  obtain ⟨w, hw, l, hl, rfl, rfl⟩ := hh
  have hwg : (t.wg? c.id.wg).map Workgroup.still = some w.still := by
    rw [wg?_still, h.wgs, ← wg?_still, hw, Option.map_some]
  obtain ⟨w', hw', hstill⟩ := Option.map_eq_some_iff.mp hwg
  have hlaunch : w'.still.launch = w.still.launch := congrArg Workgroup.launch hstill
  obtain ⟨l', hl', huntested⟩ := h.find hl
  refine ⟨l', w', ?_, huntested⟩
  rw [State.home?, hw', Option.bind_some, show w'.launch = w.launch from hlaunch, hl', Option.map_some]

theorem Kept.failing (h : Kept s t) (n : Nat) : (t.launch? n).map Launch.failing = (s.launch? n).map Launch.failing := by
  have hfail (v : State) : (v.launch? n).map Launch.failing = ((v.launch? n).map Launch.untested).map Launch.failing := by
    rw [Option.map_map]
    rfl
  rw [hfail t, hfail s, h.launch?]

theorem kept_freeFault (s : State) (core i : Nat) : Kept s (s.freeFault core i) := by
  refine Kept.trans (kept_homeStore s _ _ _) (kept_onCore _ core ?_)
  exact fun _ => rfl

theorem freeFault_sameThreads (s : State) (core i : Nat) : SameThreads s (s.freeFault core i) :=
  homeStore_sameThreads s _ _ _

theorem freeFault_running (s : State) (core i : Nat) : ((s.freeFault core i).core core).running = (s.core core).running := by
  rw [State.freeFault, core_onCore, if_pos rfl, (steady_homeStore s _ _ _).running]

/-- A translation reads nothing of the cores. -/
theorem translate_onCore (s : State) (n : Nat) (g : Core → Core) (root addr acc : Nat) :
    (s.onCore n g).translate root addr acc = s.translate root addr acc := by
  have hwalk : walkFrom (s.onCore n g) addr 5 root = walkFrom s addr 5 root := walkFrom_congr rfl addr 5 root
  have hleaf : (s.onCore n g).leafOf root addr = s.leafOf root addr := by
    rw [State.leafOf, State.leafOf, hwalk]
    rfl
  rw [State.translate, State.translate, hleaf]
  rfl

end

/-! ### A record that is answered RESOLVED -/

section
variable {s : State} {core idx : Nat} {r : FaultReq} {id : CtxId} {num : Nat} {c : Ctx} {f : Flight} {a : Access} {u : Bool}
  {l : Launch} {w : Workgroup} {sx : Bool} {k : Nat}

theorem noteLeaf_frame (s : State) (c : Ctx) (addr : Word) : ∃ tlb, s.noteLeaf c addr = { s with tlb := tlb } :=
  noteVerdict_frame s c (addr, .key 0)

/-- The replay of a parked load whose address is now mapped sends it on its way (R147). -/
theorem replay_load (hhas : s.has id num c f) (hwhat : f.what = .parked a u) (hop : a.op = .load sx)
    (hhome : s.home? c = some (l, w)) (htr : isTranslated a.addr.toNat = true)
    (hk : s.translate (s.ptRoot l.queue) a.addr.toNat accLoad = .key k) :
    s.replay id num = ((s.noteLeaf c a.addr).setKind id num (.access { a with key := k } u), none) := by
  obtain ⟨hc, hf⟩ := hhas
  simp only [State.replay, hc, hf, hhome, hwhat, hop, htr, if_true, hk]

theorem replaysOn_access {again : List (CtxId × Nat)} (hwho : r.who = [(id, num)])
    (hf : (s.flight? id num).map Flight.what = some (.access a u)) : s.replaysOn r again = [(id, num)] := by
  obtain ⟨g, hg, hwhat⟩ := Option.map_eq_some_iff.mp hf
  simp only [State.replaysOn, hwho, List.filter_cons, hg, hwhat, Bool.or_true, if_true, List.filter_nil]

/-- A core's record is being replayed. -/
def Core.resolving (idx : Nat) (r : FaultReq) (c : Core) : Core :=
  { c with
    faultsOut := Table.set c.faultsOut idx { r with resolved := true }
    running := if r.hod then c.running.map unparkHod else c.running }

def Core.holding (idx : Nat) (r : FaultReq) (c : Core) : Core := { c with faultsOut := Table.set c.faultsOut idx r }

/-- The state in which the replays of a record that is answered RESOLVED begin. -/
def State.resolving (s : State) (core idx : Nat) (r : FaultReq) : State :=
  ((s.homeStore (faultKey core idx + 0x14) [2] false).dropLeaf r.addr.toNat).onCore core (Core.resolving idx r)

/-- What is left of a record once its parked instructions have been replayed without a further fault. -/
def State.replayed (s : State) (core idx : Nat) (r : FaultReq) (left : List (CtxId × Nat)) : State :=
  if left.isEmpty && !r.hod then s.freeFault core idx
  else s.onCore core (Core.holding idx { r with resolved := true, who := left })

theorem exec_resolved (h : Table.find (s.core core).faultsOut idx = some r) (ha : s.answered core idx r = false) {v : State}
    (hv : replayAll r.who (s.resolving core idx r) [] = (v, [])) :
    exec (.faultResolved core idx) s = .next (v.replayed core idx r (v.replaysOn r (s.retries r))) := by
  have hexec : exec (.faultResolved core idx) s = .next (
      let p := replayAll r.who (s.resolving core idx r) []
      if !p.2.isEmpty then
        (p.1.postFaults core ((groupFaults p.2 []).map (fun q => if q.agent = 1 then { q with mask := 0 } else q))).freeFault
          core idx
      else p.1.replayed core idx r (p.1.replaysOn r (s.retries r))) := by
    show execFaultResolved core idx s = _
    simp only [execFaultResolved, h, ha, Bool.false_eq_true, if_false]
    rfl
  rw [hexec, hv]
  rfl

theorem resolved_load (h : Table.find (s.core core).faultsOut idx = some r) (ha : s.answered core idx r = false)
    (hwho : r.who = [(id, num)]) (hhas : s.has id num c f) (hwhat : f.what = .parked a u)
    (hop : a.op = .load sx) (hhome : s.home? c = some (l, w)) (htr : isTranslated a.addr.toNat = true)
    (hk : let t0 := (s.homeStore (faultKey core idx + 0x14) [2] false).dropLeaf r.addr.toNat
      t0.translate (t0.ptRoot l.queue) a.addr.toNat accLoad = .key k) :
    Answers s (.faultResolved core idx) (fun t =>
      Holds s t (faultKey core idx + 0x14) [2] ∧
      Table.find (t.core core).faultsOut idx = some { r with resolved := true } ∧
      ((t.ctx? id).bind (fun c => c.flight? num)).map Flight.what = some (.access { a with key := k } u) ∧
      OnlyCtx s t id) := by
  obtain rfl : c.id = id := (State.ctx?_mem hhas.1).2
  obtain rfl : f.num = num := by simpa using List.find?_some hhas.2
  let s1 := s.resolving core idx r
  obtain ⟨l', w', hhome', hl⟩ := (kept_homeStore s (faultKey core idx + 0x14) [2] false).home hhome
  have hctxs : s1.ctxs = s.ctxs := homeStore_ctxs s _ _ _
  have hhas1 : s1.has c.id f.num c f := by
    obtain ⟨hc, hf⟩ := hhas
    refine ⟨?_, hf⟩
    rw [State.ctx?, hctxs]
    exact hc
  have hqueue : l'.untested.queue = l.untested.queue := congrArg Launch.queue hl
  have hk1 : s1.translate (s1.ptRoot l'.queue) a.addr.toNat accLoad = .key k := by
    rw [show l'.queue = l.queue from hqueue]
    exact (translate_onCore _ core _ _ _ _).trans hk
  obtain ⟨tlb, hnote⟩ := noteLeaf_frame s1 c a.addr
  let v := (s1.noteLeaf c a.addr).setKind c.id f.num (.access { a with key := k } u)
  have hreplay : s1.replay c.id f.num = (v, none) := replay_load hhas1 hwhat hop hhome' htr hk1
  have hfound : (s1.noteLeaf c a.addr).ctx? c.id = some c := by
    rw [hnote]
    exact hhas1.1
  obtain ⟨hother, hflight⟩ := onFlights_what hfound hhas.2 (toKind_num f.num (.access { a with key := k } u))
  rw [Flight.toKind, if_pos rfl] at hflight
  have hleft : v.replaysOn r (s.retries r) = [(c.id, f.num)] := replaysOn_access hwho hflight
  have hexec := exec_resolved h ha (v := v) (by rw [hwho, replayAll, hreplay, replayAll])
  rw [hleft] at hexec
  refine ⟨_, hexec, fun hok => ?_, ?_, ?_, ?_⟩
  · have hmem : v.mem = (s.homeStore (faultKey core idx + 0x14) [2] false).mem := by
      show (s1.noteLeaf c a.addr).mem = _
      rw [hnote]
      rfl
    show cellsRead v.mem _ 1 = _
    rw [hmem]
    exact cellsRead_homeStore hok _ [2]
  · show Table.find ((v.onCore core _).core core).faultsOut idx = _
    rw [core_onCore, if_pos rfl, Core.holding, Table.find_set, if_pos rfl, ← hwho]
  · exact hflight
  · intro other ho
    refine (hother other ho).trans ?_
    rw [hnote, State.ctx?, State.ctx?]
    exact congrArg _ hctxs

end

/-! ### A record that is answered ABORTED -/

section
variable {s : State} {core idx : Nat} {r : FaultReq} {l : Launch}

theorem reportFailure_failing {n : Nat} (hl : s.launch? n = some l) (hf : l.failing = none) (status : Nat) :
    ((s.reportFailure n status).launch? n).map Launch.failing = some (some (status, s.dcycle)) := by
  rw [State.reportFailure, launch?_onLaunch hl, hf]
  · rfl
  · intro l
    split <;> rfl

def Core.aborted (addr : Nat) (c : Core) : Core := { c with running := c.running.map (abortHod addr) }

/-- A core reports an aborted fault, and ends a Hod copy's attempt. -/
def State.reportAborted (s : State) (core : Nat) (r : FaultReq) : State :=
  (if r.hod then (s.onCore core (Core.aborted r.addr.toNat)).dropLost core else s).reportFailure r.launch statusABORTED

theorem reportAborted_mem (s : State) (core : Nat) (r : FaultReq) : (s.reportAborted core r).mem = s.mem := by
  unfold State.reportAborted
  cases r.hod <;> rfl

theorem reportAborted_sameThreads (s : State) (core : Nat) (r : FaultReq) : SameThreads s (s.reportAborted core r) := by
  unfold State.reportAborted
  cases r.hod <;> exact ⟨rfl, rfl⟩

theorem reportAborted_failing (hl : s.launch? r.launch = some l) (hf : l.failing = none) (core : Nat) :
    ((s.reportAborted core r).launch? r.launch).map Launch.failing = some (some (7, s.dcycle)) := by
  unfold State.reportAborted
  cases r.hod <;> exact reportFailure_failing hl hf 7

theorem reportAborted_faultsOut (s : State) (core : Nat) (r : FaultReq) :
    ((s.reportAborted core r).core core).faultsOut = (s.core core).faultsOut := by
  have hcore := core_onCore s core (Core.aborted r.addr.toNat) core
  rw [if_pos rfl] at hcore
  unfold State.reportAborted
  cases r.hod with
  | false => rfl
  | true => exact Eq.trans (congrArg Core.faultsOut hcore) rfl

theorem reportAborted_running (s : State) (core : Nat) (hhod : r.hod = true) :
    ((s.reportAborted core r).core core).running = (s.core core).running.map (abortHod r.addr.toNat) := by
  have hcore := core_onCore s core (Core.aborted r.addr.toNat) core
  rw [if_pos rfl] at hcore
  rw [State.reportAborted, hhod]
  exact congrArg Core.running hcore

/-- The state in which a core has reported an aborted fault, before the record of a Hod copy is freed. -/
def State.abortReported (s : State) (core idx : Nat) (r : FaultReq) : State :=
  (s.homeStore (faultKey core idx + 0x14) [3] false).reportAborted core r

theorem exec_abort (h : Table.find (s.core core).faultsOut idx = some r) (ha : s.answered core idx r = false) :
    exec (.faultAbort core idx) s = .next
      (if r.hod then (s.abortReported core idx r).freeFault core idx else s.abortReported core idx r) := by
  show execFaultAbort core idx s = _
  simp only [execFaultAbort, h, ha, Bool.false_eq_true, if_false]
  rfl

theorem abortReported_sameThreads (s : State) (core idx : Nat) (r : FaultReq) : SameThreads s (s.abortReported core idx r) := by
  obtain ⟨hctxs, hteams⟩ := homeStore_sameThreads s (faultKey core idx + 0x14) [3] false
  obtain ⟨hctxs', hteams'⟩ := reportAborted_sameThreads (s.homeStore (faultKey core idx + 0x14) [3] false) core r
  exact ⟨hctxs'.trans hctxs, hteams'.trans hteams⟩

theorem abortReported_failing (hl : s.launch? r.launch = some l) (hf : l.failing = none) :
    ((s.abortReported core idx r).launch? r.launch).map Launch.failing = some (some (7, s.dcycle)) := by
  have hkept := kept_homeStore s (faultKey core idx + 0x14) [3] false
  obtain ⟨l', hl', huntested⟩ := hkept.find hl
  have hf' : l'.untested.failing = l.untested.failing := congrArg Launch.failing huntested
  rw [← hkept.dcycle]
  exact reportAborted_failing hl' (hf'.trans hf) core

theorem abortReported_core (s : State) (core idx : Nat) (r : FaultReq) :
    ((s.abortReported core idx r).core core).faultsOut = (s.core core).faultsOut ∧
      (r.hod = true → ((s.abortReported core idx r).core core).running =
        (s.core core).running.map (abortHod r.addr.toNat)) := by
  have hsteady := steady_homeStore s (faultKey core idx + 0x14) [3] false
  rw [← hsteady.faultsOut, ← hsteady.running]
  exact ⟨reportAborted_faultsOut _ core r, reportAborted_running _ core⟩

/-- An aborted copy is found where it ran: it has ended with status 3, at the address whose translation was refused. -/
theorem find_abortHod (addr : Nat) {t : Table Running} {x : Running} (h : Table.find t 5 = some x) :
    ∃ y, Table.find (t.map (abortHod addr)) 5 = some y ∧ y.done = true ∧ y.status = 3 ∧ y.faddr = addr := by
  refine ⟨{ x with done := true, parked := false, status := 3, fcode := 1, faddr := addr }, ?_, rfl, rfl, rfl⟩
  refine (find_running_map 5 (fun x : Running =>
    { x with done := true, parked := false, status := 3, fcode := 1, faddr := addr }) t).trans ?_
  rw [h, Option.map_some]

theorem abort_answers (h : Table.find (s.core core).faultsOut idx = some r) (ha : s.answered core idx r = false)
    (hl : s.launch? r.launch = some l) (hf : l.failing = none) : Answers s (.faultAbort core idx) (fun t => SameThreads s t ∧
      (t.launch? r.launch).map Launch.failing = some (some (7, s.dcycle)) ∧
      Holds s t (faultKey core idx + 0x14) [if r.hod then 0 else 3] ∧
      (r.hod = true → Table.find (t.core core).faultsOut idx = none ∧
        ∀ x, Table.find (s.core core).running 5 = some x → ∃ y, Table.find (t.core core).running 5 = some y ∧
          y.done = true ∧ y.status = 3 ∧ y.faddr = r.addr.toNat) ∧
      (r.hod = false → (t.core core).faultsOut = (s.core core).faultsOut)) := by
  have hmem : (s.abortReported core idx r).mem = (s.homeStore (faultKey core idx + 0x14) [3] false).mem :=
    reportAborted_mem _ core r
  have hthreads := abortReported_sameThreads s core idx r
  have hfailing : ((s.abortReported core idx r).launch? r.launch).map Launch.failing = some (some (7, s.dcycle)) :=
    abortReported_failing hl hf
  obtain ⟨hout, hrunning⟩ := abortReported_core s core idx r
  refine ⟨_, exec_abort h ha, ?_⟩
  cases hhod : r.hod with
  | false =>
    refine ⟨hthreads, hfailing, fun hok => ?_, fun hh => absurd hh Bool.false_ne_true, fun _ => hout⟩
    show cellsRead (s.abortReported core idx r).mem _ 1 = [3]
    rw [hmem]
    exact cellsRead_homeStore hok _ [3]
  | true =>
    obtain ⟨hctxs, hteams⟩ := freeFault_sameThreads (s.abortReported core idx r) core idx
    refine ⟨⟨hctxs.trans hthreads.1, hteams.trans hthreads.2⟩, ?_, fun hok => ?_, fun _ => ⟨?_, fun x hx => ?_⟩, fun hh => absurd hh.symm Bool.false_ne_true⟩
    · exact ((kept_freeFault _ core idx).failing r.launch).trans hfailing
    · refine freeFault_byte core idx ?_
      rw [State.memOk, hmem]
      exact memOk_homeStore s _ _ _ hok
    · show Table.find (((s.abortReported core idx r).freeFault core idx).core core).faultsOut idx = none
      rw [freeFault_faultsOut, find_erase, if_pos rfl]
    · show ∃ y, Table.find (((s.abortReported core idx r).freeFault core idx).core core).running 5 = some y ∧ _
      rw [freeFault_running, hrunning hhod]
      exact find_abortHod _ hx

/-! ### A record whose launch has stopped -/

theorem dropFaults_find {dead : Nat → Bool} (h : Table.find (s.core core).faultsOut idx = some r) (hd : dead r.launch = true) :
    Table.find ((s.dropFaults core dead).core core).faultsOut idx = none :=
  freeFaults_find (Or.inl (List.mem_map.mpr ⟨(idx, r), List.mem_filter.mpr ⟨find_mem h, hd⟩, rfl⟩))

theorem meetStops_frees (h : Table.find (s.core core).faultsOut idx = some r) (hr : r.launch ∈ (s.core core).stops) :
    Table.find ((s.meetStops core).core core).faultsOut idx = none := by
  have hout : Table.find ((s.stopThreads (s.stopsHere core)).core core).faultsOut idx = some r := by
    rw [(steady_stopThreads s _).faultsOut, h]
  rw [meetStops_eq (List.ne_nil_of_mem hr), core_onCore, if_pos rfl]
  exact dropFaults_find hout (List.contains_iff_mem.mpr hr)

end

/-! ### The obligation -/

/-- Settles O37: a record is written where the next one is free; an answer writes its state and, for RESOLVED, replays what the
record parks, for ABORTED, reports its launch's failure; and what frees a record takes it out of its core's table. -/
theorem faultRecords : Obligations.FaultRecords := by
  intro s core idx r
  refine ⟨?written, recordWrite_idle, answer_unheld, ?held⟩
  case written =>
    intro rs n hw
    exact ⟨recordWrite_full hw, recordWrite_takes hw⟩
  intro h state
  have hans : s.answered core idx r = true ↔ r.resolved = true ∨ state = 3 := answered_iff
  have hopen (hr : r.resolved = false) (hs : state ≠ 3) : s.answered core idx r = false := by
    rw [← Bool.not_eq_true, hans, hr]
    simp [hs]
  refine ⟨fun ha => answer_again h (hans.mpr ha), ?frees, ?resolved, ?aborted, ?stopped⟩
  case frees =>
    intro id num c f a sx hr hhod hwho hout hhas hwhat hop hhalf hcore hnear hbars holder hpoison hquiet
    exact loadComplete_frees hr hhod hwho hout hhas hwhat hop hhalf hcore hnear hbars holder hpoison hquiet
  case resolved =>
    intro id num c f a u l w sx k t0 hr hs _ hwho hhas hwhat hop hhome htr hk
    exact resolved_load h (hopen hr hs) hwho hhas hwhat hop hhome htr hk
  case aborted =>
    intro l hl hf hr hs
    exact abort_answers h (hopen hr hs) hl hf
  case stopped =>
    intro hr t
    exact ⟨meetStops_frees h hr, meetStops_stops hr⟩

end Sys2Proof.Machine
end

section
/-!
PROOF. The mailbox's commands of O52 about images and halted threads: INVALIDATE's end, RESTORE and the debug interface.
-/
namespace Sys2Proof.Machine

section
variable {s : State}

/-- A free mailbox of a device whose firmware runs carries a command out. -/
theorem command_taken (hm : s.mailbox = none) (hr : s.running = true) (go : State → State) : s.command go = go s := by
  simp [State.command, hm, hr]

/-! ### INVALIDATE_COMPLETE (R141) -/

theorem invalidateComplete_idle (h : s.invalidating = none) : Stays s .invalidateComplete := by
  show execInvalidateComplete s = .next s
  rw [execInvalidateComplete, h]

theorem invalidateComplete_waits {a k : Nat} (h : s.invalidating = some (a, k)) (hq : s.quiescent a k = false) :
    Stays s .invalidateComplete := by
  show execInvalidateComplete s = .next s
  simp only [execInvalidateComplete, h, hq, Bool.false_eq_true, if_false]

theorem invalidateComplete_ends {a k : Nat} (h : s.invalidating = some (a, k)) (hq : s.quiescent a k = true) :
    exec .invalidateComplete s = .next { s with
      tlb := s.tlb.filter (fun t => !overlaps t.page t.size a k)
      mailbox := none
      invalidating := none
      mboxStatus := 0 } := by
  show execInvalidateComplete s = _
  simp only [execInvalidateComplete, h, hq, if_true]
  rfl

/-! ### Images (R251 to R254) -/

theorem leNat_lt : ∀ b : List Byte, leNat b < 256 ^ b.length
  | [] => Nat.one_pos
  | x :: b => by
    have hx : x.toNat < 256 := x.isLt
    have hb := leNat_lt b
    rw [leNat, List.length_cons, Nat.pow_succ]
    omega

theorem memNat_lt (s : State) (k n : Nat) : s.memNat k n < 256 ^ n := by
  have h := leNat_lt (cellsRead s.mem k n)
  rwa [cellsRead_length] at h

/-- The flag byte of an image has a reserved bit set where it is 4 or more. -/
theorem flagBits_reserved {x : Nat} (hx : x < 256) : (bitsAt x 7 2 != 0) = true ↔ x ≥ 4 := by
  simp only [bitsAt, bne_iff_ne]
  omega

/-- A reserved field of an image is set, by the offsets of R251 to R253. -/
def ReservedSet (s : State) (base : Nat) : Prop :=
  let field (off n : Nat) : Nat := s.memNat (base + off) n
  let frame (k i : Nat) : Nat := field 0x20 8 + k * field 0x1C 4 + i * (128 + 8 * (field 4 1 + 2))
  field 5 1 ≥ 4 ∨ field 0x50 48 ≠ 0 ∨ field (field 0x30 8 + 0x18) 8 ≠ 0 ∨
    ∃ k < 32 * field 3 1, ∃ i < 5, field (frame k i + 0x49) 1 ≥ 8 ∨ field (frame k i + 0x4D) 3 ≠ 0

theorem frameReserved_iff (s : State) (k : Nat) :
    s.frameReserved k = true ↔ s.memNat (k + 0x49) 1 ≥ 8 ∨ s.memNat (k + 0x4D) 3 ≠ 0 := by
  simp only [State.frameReserved, Bool.or_eq_true, decide_eq_true_eq, bne_iff_ne]

theorem imageReserved_iff (s : State) (base : Nat) : s.imageReserved base = true ↔ ReservedSet s base := by
  have hflags := flagBits_reserved (memNat_lt s (base + 5) 1)
  simp only [State.imageReserved, State.imageField, ReservedSet, Bool.or_eq_true, hflags, List.any_eq_true, List.mem_range,
    frameReserved_iff, bne_iff_ne, Nat.add_assoc, or_assoc]

/-- The launch that an image names has not finished. -/
def LaunchKnown (s : State) (base : Nat) : Prop := ∃ l, s.launch? (s.memNat (base + 8) 8) = some l ∧ l.phase ≠ .finished

theorem imageStatus_width {base : Nat} (h : s.memNat (base + 2) 1 ≠ 32) : s.imageStatus base = 4 := if_pos h

theorem imageStatus_body {base : Nat} (h : s.memNat (base + 2) 1 = 32) : s.imageStatus base =
    if s.memNat (base + 0) 2 ≠ 1 ∨ s.imageReserved base then 5
    else match s.launch? (s.memNat (base + 8) 8) with
      | some l => if l.phase = .finished then 5 else 0
      | none => 5 := if_neg (not_not.mpr h)

theorem imageStatus_bad {base : Nat} (hw : s.memNat (base + 2) 1 = 32)
    (h : s.memNat (base + 0) 2 ≠ 1 ∨ ReservedSet s base ∨ ¬ LaunchKnown s base) : s.imageStatus base = 5 := by
  rw [imageStatus_body hw]
  split
  next => rfl
  next hok =>
    rw [imageReserved_iff] at hok
    have hun : ¬ LaunchKnown s base := (h.resolve_left (fun hv => hok (.inl hv))).resolve_left (fun hr => hok (.inr hr))
    split
    next l hl =>
      rw [if_pos]
      exact not_not.mp (fun hf => hun ⟨l, hl, hf⟩)
    next => rfl

theorem imageStatus_good {base : Nat} (hw : s.memNat (base + 2) 1 = 32) (hv : s.memNat (base + 0) 2 = 1)
    (hr : ¬ ReservedSet s base) (hk : LaunchKnown s base) : s.imageStatus base = 0 := by
  obtain ⟨l, hl, hf⟩ := hk
  rw [imageStatus_body hw, if_neg (by rw [imageReserved_iff]; exact not_or.mpr ⟨not_not.mpr hv, hr⟩), hl]
  exact if_neg hf

/-- An image of status 0 names a launch. -/
theorem launch_of_imageStatus {base : Nat} (h : s.imageStatus base = 0) :
    ∃ l, s.launch? (s.imageField base 8 8) = some l := by
  by_contra hn
  have hbad : s.imageStatus base = 4 ∨ s.imageStatus base = 5 := by
    by_cases hw : s.memNat (base + 2) 1 = 32
    · exact .inr (imageStatus_bad hw (.inr (.inr (fun ⟨l, hl, _⟩ => hn ⟨l, hl⟩))))
    · exact .inl (imageStatus_width hw)
  omega

/-- Behind an image that a workgroup was saved to stands that workgroup. -/
theorem behind_saved {addr : Nat} {w : Workgroup} (h : s.imageStatus (hbmBase + addr) = 0)
    (hw : s.wgs.find? (fun w => w.place == .saved addr) = some w) : s.behind (hbmBase + addr) = some (s, w) := by
  obtain ⟨l, hl⟩ := launch_of_imageStatus h
  simp only [State.behind, hl, Nat.add_sub_cancel_left, hw]

/-! ### RESTORE (R254) -/

theorem driverRestore_of_launch {w : Workgroup} {l : Launch} (hl : s.launch? w.launch = some l) :
    s.driverRestore w = (s.restoreWg l w).getD (s.onWg w.num (fun w => { w with ousted := false, called := false })) := by
  rw [State.driverRestore, hl]

theorem restore_refused (hm : s.mailbox = none) (hr : s.running = true) {addr : Nat}
    (h : s.imageStatus (hbmBase + addr) ≠ 0) :
    exec (.restore addr) s = .next { s with mboxStatus := s.imageStatus (hbmBase + addr) } := by
  show execRestore addr s = _
  rw [execRestore, command_taken hm hr]
  split
  next h0 _ => exact absurd h0 h
  next => rfl

theorem restore_taken (hm : s.mailbox = none) (hr : s.running = true) {addr : Nat} {u : State} {w : Workgroup}
    (h : s.imageStatus (hbmBase + addr) = 0) (hb : s.behind (hbmBase + addr) = some (u, w)) :
    exec (.restore addr) s = .next ((u.driverRestore w).reply mbOK) := by
  show execRestore addr s = _
  rw [execRestore, command_taken hm hr, h, hb]
  rfl

/-! ### Debug halts (R245) -/

theorem resident_iff (s : State) (n : Nat) : s.resident n = true ↔ ∃ w, s.wg? n = some w ∧ w.place = .resident := by
  rw [State.resident]
  cases s.wg? n <;> simp

/-- A thread of a resident workgroup has no record in an image. -/
theorem savedThread_resident {id : CtxId} (h : s.resident id.wg = true) : s.savedThread id = none := by
  obtain ⟨w, hw, hp⟩ := (resident_iff s id.wg).mp h
  simp only [State.savedThread, hw, Option.map_some, hp]

theorem patchSaved_resident {id : CtxId} (h : s.resident id.wg = true) (g : Nat × Nat → Nat × Nat) :
    s.patchSaved id g = s := by
  rw [State.patchSaved, savedThread_resident h]

/-- Halt requests for threads of resident workgroups alone patch no image. -/
theorem requestHalts_resident (force : Bool) {sel : CtxId → Bool}
    (h : ∀ c ∈ s.ctxs, c.live = true → sel c.id = true → s.resident c.id.wg = true) :
    s.requestHalts force sel = s.mapCtx (fun c => if c.id.lvl = 0 ∧ sel c.id then c.request force else c) := by
  have hnone : s.ctxs.filter (fun c => c.live && sel c.id && (s.savedThread c.id).isSome) = [] := by
    refine List.filter_eq_nil_iff.mpr (fun c hc hsel => ?_)
    simp only [Bool.and_eq_true] at hsel
    obtain ⟨⟨hlive, hsel⟩, hsaved⟩ := hsel
    rw [savedThread_resident (h c hc hlive hsel)] at hsaved
    exact absurd hsaved Bool.false_ne_true
  simp only [State.requestHalts, hnone, List.foldl_nil]

theorem debugHalt_requests (hm : s.mailbox = none) (hr : s.running = true) {sel : DebugSel}
    (h : ∀ c ∈ s.ctxs, c.live = true → s.debugSel sel c.id = true → s.resident c.id.wg = true) :
    exec (.debugHalt sel) s = .next { s with
      ctxs := s.ctxs.map (fun c => if c.id.lvl = 0 ∧ s.debugSel sel c.id = true then c.request false else c)
      mboxStatus := 0 } := by
  show execDebugHalt sel s = _
  rw [execDebugHalt, command_taken hm hr, requestHalts_resident false h]
  rfl

theorem debugHaltForce_requests (hm : s.mailbox = none) (hr : s.running = true) {wg : Nat} (tix : Nat)
    (h : s.resident wg = true) :
    exec (.debugHaltForce wg tix) s = .next { s with
      ctxs := s.ctxs.map (fun c => if c.id.lvl = 0 ∧ c.id.wg = wg ∧ c.id.tix = tix then c.request true else c)
      mboxStatus := 0 } := by
  show execDebugHaltForce wg tix s = _
  rw [execDebugHaltForce, command_taken hm hr, requestHalts_resident true]
  · simp only [State.reply, State.mapCtx, Bool.and_eq_true, beq_iff_eq, mbOK]
  · intro c _ _ hsel
    simp only [Bool.and_eq_true, beq_iff_eq] at hsel
    rw [hsel.1]
    exact h

/-! ### Debug resumes and breakpoints (R245, R246) -/

/-- A halted thread as a resume leaves it. -/
def Ctx.resumed (pc : Word) (c : Ctx) : Ctx :=
  { c with
    status := .running
    pc := pc
    nested := c.haltReq && c.inHandler }

/-- A thread whose queue is not traced leaves no trace record. -/
theorem trace_off {c : Ctx} (h : ∀ l, s.launchOf? c.id.wg = some l → (s.queue l.queue).trace = false) (kind : Nat)
    (pc : Word) : s.trace c kind pc = s := by
  cases hl : s.launchOf? c.id.wg with
  | some l => exact trace_untraced hl (h l hl) kind pc
  | none => simp only [State.trace, hl]

theorem resumeThread_resident {c : Ctx} {pc : Word} (hc : c.status = .halted pc) (hres : s.resident c.id.wg = true)
    (htrace : ∀ l, s.launchOf? c.id.wg = some l → (s.queue l.queue).trace = false) :
    s.resumeThread c = s.onCtx c.id (Ctx.resumed pc) := by
  have hres' : (s.onCtx c.id (Ctx.resumed pc)).resident c.id.wg = true := hres
  simp only [State.resumeThread, hc, trace_off htrace]
  exact patchSaved_resident hres' _

theorem debugResume_resumes (hm : s.mailbox = none) (hr : s.running = true) {sel : DebugSel} {c : Ctx} {pc : Word}
    (hfound : s.ctx? c.id = some c) (hsel : s.ctxs.filter (fun d => s.debugSel sel d.id) = [c]) (hc : c.status = .halted pc)
    (hres : s.resident c.id.wg = true)
    (htrace : ∀ l, s.launchOf? c.id.wg = some l → (s.queue l.queue).trace = false) :
    Answers s (.debugResume sel) (fun t => t.mboxStatus = 0 ∧ OnlyCtx s t c.id ∧ t.mem = s.mem ∧
      t.ctx? c.id = some (c.resumed pc)) := by
  have hid : ∀ d : Ctx, (d.resumed pc).id = d.id := fun _ => rfl
  refine ⟨(s.onCtx c.id (Ctx.resumed pc)).reply mbOK, ?_, rfl, ?others, rfl, ?this⟩
  · show execDebugResume sel s = _
    rw [execDebugResume, command_taken hm hr, hsel, List.foldl_cons, List.foldl_nil, resumeThread_resident hc hres htrace]
  case others =>
    intro other ho
    exact (ctx?_onCtx hid other).trans (if_neg ho)
  case this =>
    refine (ctx?_onCtx hid c.id).trans ?_
    rw [if_pos rfl, hfound, Option.map_some]

theorem debugBreakpointEnable_unknown (hm : s.mailbox = none) (hr : s.running = true) {n : Nat} (h : s.launch? n = none) :
    exec (.debugBreakpointEnable n) s = .next { s with mboxStatus := 2 } := by
  show execDebugBreakpointEnable n s = _
  rw [execDebugBreakpointEnable, command_taken hm hr, h]
  rfl

theorem debugBreakpointEnable_enables (hm : s.mailbox = none) (hr : s.running = true) {n : Nat} {l : Launch}
    (h : s.launch? n = some l) :
    Answers s (.debugBreakpointEnable n) (fun t => t.mboxStatus = 0 ∧ SameThreads s t ∧
      (t.launch? n).map Launch.bkptHalt = some true) := by
  refine ⟨(s.onLaunch n (fun l => { l with bkptHalt := true })).reply mbOK, ?_, rfl, ⟨rfl, rfl⟩, ?_⟩
  · show execDebugBreakpointEnable n s = _
    rw [execDebugBreakpointEnable, command_taken hm hr, h]
    rfl
  · exact congrArg (Option.map Launch.bkptHalt) (launch?_onLaunch (g := fun l => { l with bkptHalt := true }) h (fun _ => rfl))

end

end Sys2Proof.Machine
end

section
/-!
PROOF. The mailbox's commands of O52 about the device itself (counts, measurement, number, routes, firmware), and the whole
of O52.
-/
namespace Sys2Proof.Machine

section
variable {s : State}

/-! ### ERRCOUNT, MEASURE and codes that are not listed (R154, R267, R273) -/

theorem errcount_counts (hm : s.mailbox = none) (hr : s.running = true) : exec .errcount s = .next { s with
    mboxStatus := 0
    mboxData := (List.range 6).flatMap (fun i => leBytes 8 (Table.get s.corrected 0 i)) } := by
  show execErrcount s = _
  rw [execErrcount, command_taken hm hr]
  rfl

theorem otherCode_refused (hm : s.mailbox = none) (hr : s.running = true) {n : Nat} (hn : n = 0 ∨ n > 15) :
    exec (.mailboxOtherCode n) s = .next { s with mboxStatus := 2 } := by
  show execMailboxOtherCode n s = _
  rw [execMailboxOtherCode, command_taken hm hr, if_neg (by omega)]
  rfl

/-- A code that another command has is not this instruction's. -/
theorem otherCode_listed (hm : s.mailbox = none) (hr : s.running = true) {n : Nat} (hlo : 1 ≤ n) (hhi : n ≤ 15) :
    Stays s (.mailboxOtherCode n) := by
  show execMailboxOtherCode n s = _
  rw [execMailboxOtherCode, command_taken hm hr, if_pos ⟨hlo, hhi⟩]

theorem measure_refused (hm : s.mailbox = none) (hr : s.running = true) {nonce : List Byte} (h : nonce.length ≠ 32) :
    exec (.measure nonce) s = .next { s with mboxStatus := 2 } := by
  show execMeasure nonce s = _
  rw [execMeasure, command_taken hm hr, if_pos h]
  rfl

theorem measure_reports (hm : s.mailbox = none) (hr : s.running = true) {nonce : List Byte} (h : nonce.length = 32) :
    let msg := nonce ++ beBytes 64 s.digest.toNat ++ leBytes 8 Config.serial.toNat
    exec (.measure nonce) s = .next { s with
      mboxStatus := 0
      mboxData := msg ++ reportTail nonce msg } := by
  show execMeasure nonce s = _
  rw [execMeasure, command_taken hm hr, if_neg (not_not.mpr h)]
  rfl

/-! ### DEVNUM (R269) -/

theorem any_unfinished_iff (s : State) :
    s.launches.any Launch.unfinished = true ↔ ∃ l ∈ s.launches, l.phase ≠ .finished := by
  simp only [List.any_eq_true, Launch.unfinished, bne_iff_ne]

theorem devnum_busy (hm : s.mailbox = none) (hr : s.running = true) (b : List Byte)
    (h : ∃ l ∈ s.launches, l.phase ≠ .finished) : exec (.devnum b) s = .next { s with mboxStatus := 1 } := by
  show execDevnum b s = _
  rw [execDevnum, command_taken hm hr, if_pos ((any_unfinished_iff s).mpr h)]
  rfl

/-- DEVNUM without an unfinished launch looks at its operand. -/
theorem devnum_idle (hm : s.mailbox = none) (hr : s.running = true) (b : List Byte)
    (h : ¬ ∃ l ∈ s.launches, l.phase ≠ .finished) : exec (.devnum b) s = .next
      (if b.length ≠ 16 ∨ fieldAt b 0 2 ≥ 0xFFF ∨ nonzero b 2 14 = true then { s with mboxStatus := 2 }
      else { s with devnum := some (fieldAt b 0 2), mboxStatus := 0 }) := by
  show execDevnum b s = _
  rw [execDevnum, command_taken hm hr, if_neg (fun hu => h ((any_unfinished_iff s).mp hu))]
  rfl

/-! ### ROUTES (R269) -/

/-- The route that an entry of ROUTES gives a device: its link and its community, or none without V. -/
def routeEntry (e : Nat) : Option (Nat × Nat) := if bitAt e 31 then some (bitsAt e 4 0, bitsAt e 11 8) else none

theorem routeOk_iff (e : Nat) :
    routeOk e = true ↔ (bitAt e 31 = true → bitsAt e 4 0 ≤ 23 ∧ bitsAt e 30 12 = 0 ∧ bitsAt e 7 5 = 0) := by
  simp only [routeOk, Bool.or_eq_true, Bool.not_eq_true', Bool.and_eq_true, decide_eq_true_eq, beq_iff_eq, and_assoc,
    ← Bool.not_eq_true, imp_iff_not_or]

theorem setRoute_frame (s : State) (dev e : Nat) : s.setRoute dev e = { s with routes := (s.setRoute dev e).routes } := by
  rw [State.setRoute]
  split <;> rfl

theorem find_setRoute (s : State) (dev e d : Nat) :
    Table.find (s.setRoute dev e).routes d = if d = dev then routeEntry e else Table.find s.routes d := by
  rw [State.setRoute, routeEntry]
  split
  · exact Table.find_set s.routes dev _ d
  · exact find_erase s.routes dev d

/-- The first n entries of a list are written for the devices from f on. -/
def State.setRoutes (s : State) (f : Nat) (entry : Nat → Nat) (n : Nat) : State :=
  (List.range n).foldl (fun s i => s.setRoute (f + i) (entry i)) s

theorem setRoutes_succ (s : State) (f : Nat) (entry : Nat → Nat) (n : Nat) :
    s.setRoutes f entry (n + 1) = (s.setRoutes f entry n).setRoute (f + n) (entry n) := by
  simp only [State.setRoutes, List.range_succ, List.foldl_append, List.foldl_cons, List.foldl_nil]

theorem setRoutes_frame (s : State) (f : Nat) (entry : Nat → Nat) (n : Nat) :
    s.setRoutes f entry n = { s with routes := (s.setRoutes f entry n).routes } := by
  induction n with
  | zero => rfl
  | succ n ih => rw [setRoutes_succ, setRoute_frame, ih]

theorem find_setRoutes (s : State) (f : Nat) (entry : Nat → Nat) (n d : Nat) :
    Table.find (s.setRoutes f entry n).routes d =
      if f ≤ d ∧ d < f + n then routeEntry (entry (d - f)) else Table.find s.routes d := by
  induction n with
  | zero => exact (if_neg (by omega)).symm
  | succ n ih =>
    rw [setRoutes_succ, find_setRoute, ih]
    by_cases hd : d = f + n
    · subst hd
      rw [if_pos rfl, if_pos (by omega), Nat.add_sub_cancel_left]
    · rw [if_neg hd]
      exact if_congr (by omega) rfl rfl

/-- Entry i of the list that the operand of ROUTES names. -/
def State.routeArg (s : State) (b : List Byte) (i : Nat) : Nat := s.memNat (hostBase + fieldAt b 8 8 + 4 * i) 4

/-- What ROUTES asks of its operand and of the entries that it reads (R269). -/
def RoutesOk (s : State) (b : List Byte) : Prop :=
  b.length = 16 ∧ fieldAt b 2 2 ≠ 0 ∧ fieldAt b 2 2 ≤ 4096 ∧ fieldAt b 0 2 + fieldAt b 2 2 ≤ 4096 ∧ nonzero b 4 4 = false ∧
    ∀ i < fieldAt b 2 2, bitAt (s.routeArg b i) 31 = true →
      bitsAt (s.routeArg b i) 4 0 ≤ 23 ∧ bitsAt (s.routeArg b i) 30 12 = 0 ∧ bitsAt (s.routeArg b i) 7 5 = 0

theorem routesBad_iff (s : State) (b : List Byte) :
    (b.length ≠ 16 ∨ fieldAt b 2 2 = 0 ∨ fieldAt b 2 2 > 4096 ∨ fieldAt b 0 2 + fieldAt b 2 2 > 4096 ∨ nonzero b 4 4 = true ∨
      (!((List.range (fieldAt b 2 2)).all (fun i => routeOk (s.routeArg b i)))) = true) ↔ ¬ RoutesOk s b := by
  have hall : (List.range (fieldAt b 2 2)).all (fun i => routeOk (s.routeArg b i)) = true ↔
      ∀ i < fieldAt b 2 2, routeOk (s.routeArg b i) = true := by
    simp only [List.all_eq_true, List.mem_range]
  simp only [RoutesOk, ← routeOk_iff, ← hall, not_and_or, not_not, Nat.not_le, Bool.not_eq_true',
    ← Bool.not_eq_true, ne_eq]

theorem routes_refused (hm : s.mailbox = none) (hr : s.running = true) {b : List Byte} (h : ¬ RoutesOk s b) :
    exec (.routes b) s = .next { s with mboxStatus := 2 } := by
  show execRoutes b s = _
  rw [execRoutes, command_taken hm hr]
  exact congrArg Host.Outcome.next (if_pos ((routesBad_iff s b).mpr h))

theorem routes_written (hm : s.mailbox = none) (hr : s.running = true) {b : List Byte} (h : RoutesOk s b) :
    exec (.routes b) s = .next ((s.setRoutes (fieldAt b 0 2) (s.routeArg b) (fieldAt b 2 2)).reply mbOK) := by
  show execRoutes b s = _
  rw [execRoutes, command_taken hm hr]
  exact congrArg Host.Outcome.next (if_neg (fun hbad => (routesBad_iff s b).mp hbad h))

/-! ### RELOAD (R269, R274) -/

theorem reload_busy (b : List Byte) (startable : Bool) (h : s.mailbox.isSome) :
    exec (.reload b startable) s = .next { s with mboxStatus := 1 } := by
  show execReload b startable s = _
  rw [execReload, if_pos h]
  rfl

theorem exec_reload (b : List Byte) (startable : Bool) (h : s.mailbox = none) : exec (.reload b startable) s =
    .next (({ s.endLaunches.clearWork with firmware := some b, running := startable } : State).reply mbOK) := by
  show execReload b startable s = _
  rw [execReload, h]
  rfl

theorem clearWork_retires (s : State) : ∀ w ∈ s.clearWork.wgs, w.place = .retired :=
  List.forall_mem_map.mpr (fun _ _ => rfl)

theorem clearWork_slab (s : State) : ∀ c ∈ s.clearWork.mem, isSlabKey c.1 = false := by
  intro c hc
  simpa using (List.mem_filter.mp hc).2

theorem reload_clears (b : List Byte) (startable : Bool) (h : s.mailbox = none) :
    Answers s (.reload b startable) (fun t =>
      t.mboxStatus = 0 ∧ t.firmware = some b ∧ t.running = startable ∧ t.devnum = none ∧ t.routes = [] ∧ t.ctxs = [] ∧
      t.teams = [] ∧ t.stores = [] ∧ t.chunks = [] ∧ t.hodSent = [] ∧ t.keystones = [] ∧
      (∀ w ∈ t.wgs, w.place = .retired) ∧ ∀ c ∈ t.mem, isSlabKey c.1 = false) :=
  ⟨_, exec_reload b startable h, rfl, rfl, rfl, rfl, rfl, rfl, rfl, rfl, rfl, rfl, rfl,
    clearWork_retires s.endLaunches, clearWork_slab s.endLaunches⟩

end

/-! ### The obligation -/

/-- Settles O52: each command's answer, clause by clause. -/
theorem mailboxDevice : Obligations.MailboxDevice := by
  refine ⟨?driver, ?device⟩
  case driver =>
    intro s addr wg tix n sel
    refine ⟨invalidateComplete_idle, fun a k h => ⟨invalidateComplete_waits h, invalidateComplete_ends h⟩, ?_⟩
    intro hm hr
    refine ⟨restore_refused hm hr, ⟨imageStatus_width, imageStatus_bad, imageStatus_good⟩, fun w => behind_saved, ?restored,
      debugHalt_requests hm hr, debugHaltForce_requests hm hr tix, ?resumed, debugBreakpointEnable_unknown hm hr,
      fun l => debugBreakpointEnable_enables hm hr, errcount_counts hm hr, otherCode_refused hm hr, otherCode_listed hm hr⟩
    case restored =>
      intro u w l h0 hb hl
      rw [restore_taken hm hr h0 hb, driverRestore_of_launch hl]
      refine ⟨fun t ht => ?_, fun ht => ?_⟩
      · rw [ht]
        rfl
      · rw [ht]
        rfl
    case resumed =>
      intro c pc hfound hsel hc hres htrace
      exact debugResume_resumes hm hr hfound hsel hc hres htrace
  case device =>
    intro s b startable
    refine ⟨fun hm hr => ⟨measure_refused hm hr, measure_reports hm hr, ⟨devnum_busy hm hr b, ?refused, ?numbered⟩, ?routes⟩,
      reload_busy b startable, reload_clears b startable⟩
    case refused =>
      intro hbusy hbad
      rw [devnum_idle hm hr b hbusy, if_pos hbad]
    case numbered =>
      intro hbusy hbad
      rw [devnum_idle hm hr b hbusy, if_neg hbad]
    case routes =>
      refine ⟨routes_refused hm hr, fun hok => ⟨_, routes_written hm hr hok, ?_, ?_, ?_⟩⟩
      · exact congrArg (State.reply · mbOK) (setRoutes_frame s _ _ _)
      · intro i hi
        refine (find_setRoutes s _ _ _ _).trans ?_
        rw [if_pos ⟨Nat.le_add_right _ i, Nat.add_lt_add_left hi _⟩, Nat.add_sub_cancel_left]
        rfl
      · intro d hd
        exact (find_setRoutes s _ _ _ d).trans (if_neg (by omega))

end Sys2Proof.Machine
end

section
/-!
PROOF. A HOD's arrival at its workgroup's copies, and which of those copies start (O33).
-/
namespace Sys2Proof.Machine

/-! ### Workgroups and queues -/

theorem wg?_onWg_same {s : State} {n : Nat} {w : Workgroup} {g : Workgroup → Workgroup} (hg : ∀ w, (g w).num = w.num)
    (hw : s.wg? n = some w) : (s.onWg n g).wg? n = some (g w) := by
  have hnum : w.num = n := by simpa using List.find?_some hw
  rw [wg?_map (g := fun w => if w.num = n then g w else w) rfl (fun w => by split <;> simp [hg]) n, hw, Option.map_some,
    if_pos hnum]

/-- The record that enters a queue, with its number and what it waits for. -/
def State.entering (s : State) (core q : Nat) (r : QRec) : QRec :=
  { r with num := s.nextNum, fence := if fieldAt r.rcd 0x28 1 == 5 then s.recsIn core (fieldAt r.rcd 0x30 1) q else [] }

/-- A core whose queue takes a record. -/
def Core.taking (q : Nat) (r : QRec) (c : Core) : Core :=
  { c with queues := Table.set c.queues q (Table.get c.queues [] q ++ [r])
           lastTile := if r.isWload then some r.desc else c.lastTile }

theorem enqueue_core (s : State) (core q : Nat) (r : QRec) :
    (s.enqueue core q r).core core = (s.core core).taking q (s.entering core q r) := by
  refine (core_onCore s core (Core.taking q (s.entering core q r)) core).trans ?_
  rw [if_pos rfl]

theorem enqueue_queueRecs (s : State) (core q : Nat) (r : QRec) :
    (s.enqueue core q r).queueRecs core q = s.queueRecs core q ++ [s.entering core q r] := by
  rw [State.queueRecs, enqueue_core, Core.taking, Table.get, Table.find_set, if_pos rfl]
  rfl

theorem enqueue_queueCount (s : State) (core q : Nat) (r : QRec) :
    (s.enqueue core q r).queueCount core q = s.queueCount core q + 1 := by
  have hrun : ((s.enqueue core q r).core core).running = (s.core core).running := by rw [enqueue_core]; rfl
  have hcome : ((s.enqueue core q r).core core).coming = (s.core core).coming := by rw [enqueue_core]; rfl
  rw [State.queueCount, enqueue_queueRecs, hrun, hcome, List.length_append, List.length_singleton, State.queueCount]
  exact (congrArg (· + _) (Nat.add_right_comm _ 1 _)).trans (Nat.add_right_comm _ 1 _)

/-! ### A HOD that passes or is refused (R172, R394) -/

section
variable {s : State} {f : SA} {d : Desk} {t : Team} {desc : List Byte}

/-- A uniform word that passes its checks and is to run does so. -/
theorem uniform_run {i : Instr} (h : s.uclear i = true) (eff : Team → Team) (warn : BitVec 9) (next : Word)
    (flight : Option FlightKind) : uniform i (.run eff warn next flight) s = teamRun i eff warn next flight s := by
  simp only [State.uclear, Bool.and_eq_true, Bool.not_eq_true'] at h
  simp [uniform, h.1, h.2]

/-- The halves of s(b): the first and the last index of a slice. -/
theorem bitsAt_low (x : Word) : bitsAt x.toNat 31 0 = x.toNat % 2 ^ 32 := by simp [bitsAt]

theorem bitsAt_high (x : Word) : bitsAt x.toNat 63 32 = x.toNat / 2 ^ 32 := by
  have hx := x.isLt
  exact Nat.mod_eq_of_lt (by omega)

/-- What an arrival notes of its team: where it names its descriptor, its slice, the status that refuses it, its ring and tag,
and whether it reads scratch. -/
def State.hodEntry (s : State) (f : SA) (d : Desk) (t : Team) (desc : List Byte) (refused : Nat) : HodEntry :=
  let b := (s.sreg f.b).toNat % 2 ^ 32
  let e := (s.sreg f.b).toNat / 2 ^ 32
  let form := s.ringForm d.viewer (fieldAt desc 0x20 8)
  { team := t.idx, addr := s.sreg f.a, first := b, last := e, refused := refused,
    ring := if s.ringChk d (fieldAt desc 0x20 8) form = .ok then form else none,
    tag := hodTag desc, lost := refused == 0 && s.hodLost d desc b e, writes := s.teamWrites }

/-- The team has answered, and its arrival stands in the list of its workgroup's copies. -/
def State.hodArrived (s : State) (f : SA) (d : Desk) (t : Team) (desc : List Byte) (n : Nat) : State :=
  ((teamRun (.hod f) (fun u => u.put f.d (BitVec.ofNat 64 n)) 0 s.after (some .result) s).onTeam t.wg t.idx (fun u =>
    { u with hodSeq := t.hodSeq + 1 })).onWg t.wg (fun w =>
      { w with copies := addEntry t.hodSeq desc (s.hodEntry f d t desc n) w.copies })

/-- What a HOD reads is asked for, where the copy's first arrival has not read it. -/
def State.hodFetched (s : State) (f : SA) (d : Desk) (t : Team) (u : State) : State :=
  s.teamFetched u (s.sreg f.a).toNat (if (d.copyDesc t.hodSeq (s.sreg f.a)).isSome then 0 else 256)

theorem exec_hod (hs : s.uclear (.hod f) = true) (hd : s.curDesk = some d) (ht : s.curTeam = some t)
    (hdesc : s.hodDesc d t.hodSeq (s.sreg f.a) = .got desc) : exec (.hod f) s = .next (
      match s.hodCheck d desc ((s.sreg f.b).toNat % 2 ^ 32) ((s.sreg f.b).toNat / 2 ^ 32) true with
      | .ok =>
        if s.queueFull d.core 5 then s
        else s.hodFetched f d t (((s.hodArrived f d t desc 0).startCopies t.wg).noteTeamLeaf (s.sreg f.a))
      | .refuse n => s.hodFetched f d t ((s.hodArrived f d t desc n).startCopies t.wg)
      | c => s.hodFetched f d t (uniform (.hod f) (c.teamDo f.d s) s)) := by
  rw [show exec (.hod f) s = execHod f s from rfl]
  simp only [execHod, hd, ht, hdesc, bitsAt_low, bitsAt_high, Chk.teamDo, longPut, uniform_run hs]
  rfl

/-- The team of a HOD's issue is found by its workgroup and index. -/
theorem curTeam_place (ht : s.curTeam = some t) : t.wg = s.cur.wg ∧ t.idx = s.cur.team := by
  simpa using List.find?_some ht

theorem put_place (u : Team) (n : Reg) (x : Word) : (u.put n x).wg = u.wg ∧ (u.put n x).idx = u.idx := by
  unfold Team.put
  split
  · exact ⟨rfl, rfl⟩
  · exact ⟨rfl, rfl⟩

theorem hodArrived_runs (ht : s.curTeam = some t) (n : Nat) :
    TeamRuns s (.hod f) (fun x => { x.put f.d (BitVec.ofNat 64 n) with hodSeq := t.hodSeq + 1 }) 0 s.nextPc (some .result)
      (s.hodArrived f d t desc n) := by
  obtain ⟨hwg, hidx⟩ := curTeam_place ht
  refine ⟨?_, rfl⟩
  simp only [State.hodArrived, teamRun, State.onWg_teams, State.onTeam_teams, State.mapCtx_teams, List.map_map, hwg, hidx]
  refine List.map_congr_left (fun u _ => ?_)
  obtain ⟨hputwg, hputidx⟩ := put_place u f.d (BitVec.ofNat 64 n)
  by_cases h : u.wg = s.cur.wg ∧ u.idx = s.cur.team
  · simp [h, hputwg, hputidx]
  · simp [h]

theorem hodArrived_frame (n : Nat) : s.hodArrived f d t desc n =
    { s with
      teams := (s.hodArrived f d t desc n).teams
      ctxs := (s.hodArrived f d t desc n).ctxs
      nextNum := s.nextNum + 1
      wgs := (s.hodArrived f d t desc n).wgs } := rfl

theorem hodArrived_wg {w : Workgroup} (hw : s.wg? t.wg = some w) (n : Nat) :
    (s.hodArrived f d t desc n).wg? t.wg =
      some { w with copies := addEntry t.hodSeq desc (s.hodEntry f d t desc n) w.copies } := by
  have hsame : (teamRun (.hod f) (fun u => u.put f.d (BitVec.ofNat 64 n)) 0 s.after (some .result) s).wg? t.wg = some w := hw
  exact wg?_onWg_same (s := State.onTeam _ _ _ _) (fun _ => rfl) hsame

/-- The arrival that the statement asks for. -/
theorem hodArrived_arrives (n : Nat) {w : Workgroup} (hw : s.wg? t.wg = some w) :
    ∃ w' x, (s.hodArrived f d t desc n).wg? t.wg = some w' ∧ w'.copies = addEntry t.hodSeq desc x w.copies ∧ x.team = t.idx ∧
      x.addr = s.sreg f.a ∧ x.first = (s.sreg f.b).toNat % 2 ^ 32 ∧ x.last = (s.sreg f.b).toNat / 2 ^ 32 ∧ x.refused = n :=
  ⟨_, s.hodEntry f d t desc n, hodArrived_wg hw n, rfl, rfl, rfl, rfl, rfl, rfl⟩

end

/-! ### The copies that start (R172) -/

section
variable {s : State} {wg : Nat} {w : Workgroup} {a : CopyAsm} {rest : List CopyAsm}

theorem copyReady_iff (s : State) (w : Workgroup) (a : CopyAsm) : s.copyReady w a = true ↔
    ∀ t < w.teams, s.liveOfTeam w.num t = [] ∨ ∃ e ∈ a.entries, e.team = t := by
  simp [State.copyReady]

/-- A live thread of a workgroup records slices that overlap. -/
def overlapWarned (wg : Nat) (c : Ctx) : Ctx := if c.live && c.id.wg == wg then c.warned warnSLICEOVL else c

/-- The first copy of a workgroup has started, the rest are left. -/
def State.copyBegun (s : State) (wg : Nat) (w : Workgroup) (a : CopyAsm) (rest : List CopyAsm) : State :=
  let r := copyRec w a
  let u := s.onWg wg (fun w => { w with copies := rest })
  (if r.fail = 0 ∧ slicesOverlap r.slices then u.mapCtx (overlapWarned wg) else u).enqueue w.core 5 r

theorem startCopiesFrom_none (hw : s.wg? wg = some w) (hc : w.copies = []) (fuel : Nat) : s.startCopiesFrom wg fuel = s := by
  cases fuel with
  | zero => rfl
  | succ fuel => simp [State.startCopiesFrom, hw, hc]

theorem startCopiesFrom_waits (hw : s.wg? wg = some w) (hc : w.copies = a :: rest)
    (h : s.copyReady w a = false ∨ s.queueFull w.core 5 = true) (fuel : Nat) : s.startCopiesFrom wg fuel = s := by
  cases fuel with
  | zero => rfl
  | succ fuel =>
    simp only [State.startCopiesFrom, hw, hc]
    rw [if_pos (by simpa using h)]

/-- No copy starts where the queue is full, or the first copy is not complete, or there is none. -/
theorem startCopiesFrom_stops {later : List CopyAsm} (hw : s.wg? wg = some w) (hc : w.copies = later)
    (h : s.queueCount w.core 5 = 64 ∨ ∀ a ∈ later.head?, s.copyReady w a = false) (fuel : Nat) :
    s.startCopiesFrom wg fuel = s := by
  cases later with
  | nil => exact startCopiesFrom_none hw hc fuel
  | cons b later =>
    refine startCopiesFrom_waits hw hc ?_ fuel
    rcases h with hfull | hnot
    · exact .inr (decide_eq_true (Nat.le_of_eq hfull.symm))
    · exact .inl (hnot b rfl)

theorem startCopiesFrom_begins (hw : s.wg? wg = some w) (hc : w.copies = a :: rest) (hr : s.copyReady w a = true)
    (hq : s.queueFull w.core 5 = false) (fuel : Nat) :
    s.startCopiesFrom wg (fuel + 1) = (s.copyBegun wg w a rest).startCopiesFrom wg fuel := by
  simp only [State.startCopiesFrom, hw, hc, hr, hq]
  rfl

theorem overlapWarned_kept (wg : Nat) (c : Ctx) :
    (overlapWarned wg c).live = c.live ∧ (overlapWarned wg c).id = c.id ∧ (overlapWarned wg c).team = c.team := by
  unfold overlapWarned
  split
  · exact ⟨rfl, rfl, rfl⟩
  · exact ⟨rfl, rfl, rfl⟩

/-- A start adds a record to the Hod queue; the threads may record a warning. -/
theorem copyBegun_parts (s : State) (wg : Nat) (w : Workgroup) (a : CopyAsm) (rest : List CopyAsm) :
    ∃ v : State, s.copyBegun wg w a rest = v.enqueue w.core 5 (copyRec w a) ∧ v.cores = s.cores ∧
      v.wgs = (s.onWg wg (fun w => { w with copies := rest })).wgs ∧ (v.ctxs = s.ctxs ∨ v.ctxs = s.ctxs.map (overlapWarned wg)) := by
  refine ⟨_, rfl, ?_⟩
  split
  · exact ⟨rfl, rfl, .inr rfl⟩
  · exact ⟨rfl, rfl, .inl rfl⟩

theorem copyBegun_wg (hw : s.wg? wg = some w) (a : CopyAsm) (rest : List CopyAsm) :
    (s.copyBegun wg w a rest).wg? wg = some { w with copies := rest } := by
  obtain ⟨v, hv, -, hwgs, -⟩ := copyBegun_parts s wg w a rest
  have hsame : (v.enqueue w.core 5 (copyRec w a)).wgs = (s.onWg wg (fun w => { w with copies := rest })).wgs := hwgs
  rw [hv, State.wg?, hsame]
  exact wg?_onWg_same (g := fun w => { w with copies := rest }) (fun _ => rfl) hw

theorem copyBegun_ready (s : State) (wg : Nat) (w : Workgroup) (a : CopyAsm) (rest : List CopyAsm) (b : CopyAsm) :
    (s.copyBegun wg w a rest).copyReady { w with copies := rest } b = s.copyReady w b := by
  obtain ⟨v, hv, -, -, hctxs⟩ := copyBegun_parts s wg w a rest
  have hlive (t : Nat) : ((v.enqueue w.core 5 (copyRec w a)).liveOfTeam w.num t).isEmpty = (s.liveOfTeam w.num t).isEmpty := by
    have hsame : (v.enqueue w.core 5 (copyRec w a)).ctxs = v.ctxs := rfl
    rw [State.liveOfTeam, hsame, State.liveOfTeam]
    rcases hctxs with h | h
    · rw [h]
    · rw [h, List.filter_map, List.isEmpty_map]
      simp only [Function.comp_def, overlapWarned_kept]
  simp only [State.copyReady, hv, hlive]

/-- A copy's record stands behind the others of the Hod queue. -/
theorem copyBegun_queue (s : State) (wg : Nat) (w : Workgroup) (a : CopyAsm) (rest : List CopyAsm) :
    (∃ x, (s.copyBegun wg w a rest).queueRecs w.core 5 = s.queueRecs w.core 5 ++ [x] ∧
      x.owner = some w.num ∧ x.desc = a.desc ∧ x.seq = some a.k) ∧
    (s.copyBegun wg w a rest).queueCount w.core 5 = s.queueCount w.core 5 + 1 := by
  obtain ⟨v, hv, hcores, -, -⟩ := copyBegun_parts s wg w a rest
  have hcore : v.core w.core = s.core w.core := by rw [State.core, hcores]; rfl
  have hrecs : v.queueRecs w.core 5 = s.queueRecs w.core 5 := by rw [State.queueRecs, hcore]; rfl
  rw [hv, enqueue_queueRecs, enqueue_queueCount, hrecs, State.queueCount, hrecs, hcore]
  exact ⟨⟨_, rfl, rfl, rfl, rfl⟩, rfl⟩

/-- The complete copies before the first that is not start in order, as many as the queue has room for. -/
theorem startCopiesFrom_begun (later : List CopyAsm) : ∀ (begun : List CopyAsm) {s : State} {w : Workgroup} {fuel : Nat},
    s.wg? wg = some w → w.num = wg → w.copies = begun ++ later → (∀ a ∈ begun, s.copyReady w a = true) →
    s.queueCount w.core 5 + begun.length ≤ 64 →
    (s.queueCount w.core 5 + begun.length = 64 ∨ ∀ a ∈ later.head?, s.copyReady w a = false) → begun.length < fuel →
    ∃ new, (s.startCopiesFrom wg fuel).queueRecs w.core 5 = s.queueRecs w.core 5 ++ new ∧
      new.map (fun x => (x.owner, x.desc, x.seq)) = begun.map (fun a => (some wg, a.desc, some a.k)) ∧
      ∃ w', (s.startCopiesFrom wg fuel).wg? wg = some w' ∧ w'.copies = later
  | [], s, w, fuel, hw, _, hc, _, _, hstop, _ => by
    rw [startCopiesFrom_stops hw hc hstop fuel]
    exact ⟨[], (List.append_nil _).symm, rfl, w, hw, hc⟩
  | a :: begun, s, w, fuel + 1, hw, hn, hc, hready, hroom, hstop, hfuel => by
    rw [List.length_cons] at hroom hstop hfuel
    have hfree : s.queueFull w.core 5 = false := decide_eq_false (by show ¬ 64 ≤ _; omega)
    rw [startCopiesFrom_begins hw hc (hready a List.mem_cons_self) hfree fuel]
    obtain ⟨⟨x, hx, howner, hdesc, hseq⟩, hcount⟩ := copyBegun_queue s wg w a (begun ++ later)
    have hkeeps := copyBegun_ready s wg w a (begun ++ later)
    obtain ⟨new, hnew, hmap, hleft⟩ := startCopiesFrom_begun later begun (fuel := fuel) (copyBegun_wg hw a (begun ++ later)) hn rfl
      (fun b hb => (hkeeps b).trans (hready b (List.mem_cons_of_mem a hb)))
      (by rw [hcount]; omega)
      (hstop.imp (fun h => by rw [hcount]; omega) (fun h b hb => (hkeeps b).trans (h b hb)))
      (Nat.lt_of_succ_lt_succ hfuel)
    refine ⟨x :: new, hnew.trans ?_, ?_, hleft⟩
    · show (s.copyBegun wg w a (begun ++ later)).queueRecs w.core 5 ++ new = _
      rw [hx, List.append_assoc]
      rfl
    · rw [List.map_cons, List.map_cons, hmap, howner, hdesc, hseq, hn]

end

/-! ### The obligation -/

/-- Settles O33: a HOD's arrival, and by induction on the copies that are complete those that start. -/
theorem hodCommands : Obligations.HodCommands := by
  refine ⟨?word, ?copies⟩
  case word =>
    intro s f d t desc i b e fetched hs hd ht hdesc arrives
    have harrives (n : Nat) : arrives n (s.hodArrived f d t desc n) :=
      ⟨hodArrived_runs ht n, hodArrived_frame n, fun w hw => hodArrived_arrives n hw⟩
    refine ⟨fun hok => ⟨fun hfull => ?_, fun hroom => ⟨_, harrives 0, ?_⟩⟩, fun n hn => ⟨_, harrives n, ?_⟩⟩
    · rw [exec_hod hs hd ht hdesc, hok]
      exact congrArg _ (if_pos hfull)
    · rw [exec_hod hs hd ht hdesc, hok]
      exact congrArg _ (if_neg (Bool.eq_false_iff.mp hroom))
    · rw [exec_hod hs hd ht hdesc, hn]
      rfl
  case copies =>
    intro s wg w begun later hw hn hc ready used hready hroom hstop
    have hstop : used = 64 ∨ ∀ a ∈ later.head?, s.copyReady w a = false :=
      hstop.imp id (fun h a ha => Bool.eq_false_iff.mpr (fun hr => h a ha ((copyReady_iff s w a).mp hr)))
    have hready : ∀ a ∈ begun, s.copyReady w a = true := fun a ha => (copyReady_iff s w a).mpr (hready a ha)
    have hfuel : s.startCopies wg = s.startCopiesFrom wg (w.copies.length + 1) := by simp [State.startCopies, hw]
    rw [hfuel]
    refine ⟨fun hnone => ?_, startCopiesFrom_begun later begun hw hn hc hready hroom hstop (by simp [hc])⟩
    subst hnone
    exact startCopiesFrom_stops hw hc hstop _
end Sys2Proof.Machine
end

section
/-!
PROOF. Collective chunks that a tier's engine sends, and those that arrive (O49).
-/
namespace Sys2Proof.Machine

/-! ### Orders and stored bytes -/

theorem firstBy_mem {α : Type} {before : α → α → Bool} : ∀ {l : List α} {x : α}, firstBy before l = some x → x ∈ l
  | [], _, h => nomatch h
  | y :: l, x, h => by
    rw [firstBy] at h
    split at h
    · exact Option.some.inj h ▸ List.mem_cons_self
    · rename_i z hz
      split at h
      · exact Option.some.inj h ▸ List.mem_cons_of_mem y (firstBy_mem hz)
      · exact Option.some.inj h ▸ List.mem_cons_self

/-- Bytes that stand in memory are read. -/
theorem Stored.holds {s t : State} {key : Nat} {bytes : List Byte} (h : Stored s t key bytes) : Holds s t key bytes := by
  intro hm
  refine List.ext_getElem (cellsRead_length _ _ _) (fun j _ hj => ?_)
  have hread := cellsRead_getD t.mem bytes.length key j hj
  rw [h hm, if_pos (by omega), show key + j - key = j by omega] at hread
  simpa [List.getD_eq_getElem?_getD, hj, cellsRead_length] using hread

/-- Two writes, the second behind the first, store their bytes one after the other. -/
theorem Stored.append {s u t : State} {key : Nat} {front back : List Byte} (hu : s.memOk = true → u.memOk = true)
    (h1 : Stored s u key front) (h2 : Stored u t (key + front.length) back) : Stored s t key (front ++ back) := by
  intro hm a
  rw [h2 (hu hm), h1 hm, List.length_append]
  by_cases hfront : a < key + front.length
  · rw [if_neg (by omega)]
    by_cases hkey : key ≤ a
    · rw [if_pos ⟨hkey, hfront⟩, if_pos (by omega), List.getD_append _ _ _ _ (by omega)]
    · rw [if_neg (by omega), if_neg (by omega)]
  · by_cases hback : a < key + front.length + back.length
    · rw [if_pos (by omega), if_pos (by omega), List.getD_append_right _ _ _ _ (by omega)]
      congr 1
      omega
    · rw [if_neg (by omega), if_neg (by omega), if_neg (by omega)]

/-! ### Results are written block by block (R195) -/

/-- Nothing bars the write of a block: it lies in slab below the system areas, in no owned buffer and no held object. -/
def State.blockFree (s : State) (key : Nat) : Prop :=
  isSlabKey key = true ∧ slabRangeFree key 256 = true ∧ s.touchesHeld key 256 = false ∧ s.handleBars none key 256 = false

/-- The first block of a result is written, with the poison of its units. -/
def State.blockWritten (s : State) (key : Nat) (bad : List Nat) (bytes : List Byte) : State :=
  (s.homeStore key (bytes.take 256) false).poisonUnits key (bad.filter (fun o => decide (o < 256)))

theorem Kept.touchesHeld {s t : State} (h : Kept s t) (k n : Nat) : t.touchesHeld k n = s.touchesHeld k n := by
  have hheld (u : State) : u.heldObjects = ((u.launches.map Launch.untested).filter (fun l =>
      l.phase == .started && !l.finalised)).flatMap (fun l => (List.range 8).filterMap (fun k =>
        if l.assay k = 0 then none else u.localSlab (l.assay k))) := by
    rw [List.filter_map, List.flatMap_map]
    rfl
  simp only [State.touchesHeld, hheld, h.launches, h.localSlab]

theorem Kept.blockFree {s t : State} {key : Nat} (h : Kept s t) (hf : s.blockFree key) : t.blockFree key := by
  rwa [State.blockFree, h.touchesHeld, h.handleBars]

theorem kept_blockWritten (s : State) (key : Nat) (bad : List Nat) (bytes : List Byte) : Kept s (s.blockWritten key bad bytes) :=
  (kept_homeStore s key _ false).trans (kept_of_same rfl rfl rfl rfl rfl rfl)

theorem blockWritten_sameThreads (s : State) (key : Nat) (bad : List Nat) (bytes : List Byte) :
    SameThreads s (s.blockWritten key bad bytes) :=
  homeStore_sameThreads s key (bytes.take 256) false

theorem stored_blockWritten (s : State) (key : Nat) (bad : List Nat) (bytes : List Byte) :
    Stored s (s.blockWritten key bad bytes) key (bytes.take 256) :=
  stored_homeStore s key (bytes.take 256) false

theorem memOk_blockWritten (s : State) (key : Nat) (bad : List Nat) (bytes : List Byte) (h : s.memOk = true) :
    (s.blockWritten key bad bytes).memOk = true :=
  memOk_homeStore s key (bytes.take 256) false h

theorem writeResult_block {s : State} {key : Nat} (h : s.blockFree key) (bad : List Nat) (fuel : Nat) (bytes : List Byte) :
    s.writeResult key bad (fuel + 1) bytes = (s.blockWritten key bad bytes).writeResult (key + 256)
      ((bad.filter (fun o => decide (256 ≤ o))).map (fun o => o - 256)) fuel (bytes.drop 256) := by
  obtain ⟨hslab, hfree, hheld, hbars⟩ := h
  simp [State.writeResult, hslab, hfree, hheld, hbars, State.blockWritten]

/-- A result whose blocks nothing bars is stored, and no thread changes. -/
theorem writeResult_stored : ∀ (fuel : Nat) {s : State} {key : Nat} {bad : List Nat} {bytes : List Byte},
    bytes.length = 256 * fuel → (∀ b < fuel, s.blockFree (key + 256 * b)) →
    Stored s (s.writeResult key bad fuel bytes) key bytes ∧ SameThreads s (s.writeResult key bad fuel bytes)
  | 0, s, key, bad, bytes, hlen, _ => by
    have hnil : bytes = [] := List.eq_nil_of_length_eq_zero hlen
    refine ⟨fun _ a => ?_, rfl, rfl⟩
    rw [hnil, if_neg (by simp)]
    rfl
  | fuel + 1, s, key, bad, bytes, hlen, hfree => by
    have hkept := kept_blockWritten s key bad bytes
    have hthreads := blockWritten_sameThreads s key bad bytes
    obtain ⟨hstored, hsame⟩ := writeResult_stored fuel (s := s.blockWritten key bad bytes) (key := key + 256)
      (bad := (bad.filter (fun o => decide (256 ≤ o))).map (fun o => o - 256)) (bytes := bytes.drop 256)
      (by rw [List.length_drop]; omega)
      (fun b hb => by
        have hnext := hkept.blockFree (hfree (b + 1) (by omega))
        rwa [show key + 256 * (b + 1) = key + 256 + 256 * b by omega] at hnext)
    have hfront : (bytes.take 256).length = 256 := List.length_take_of_le (by omega)
    rw [writeResult_block (key := key) (hfree 0 (by omega))]
    refine ⟨?_, hsame.1.trans hthreads.1, hsame.2.trans hthreads.2⟩
    have hwhole : Stored s _ key (bytes.take 256 ++ bytes.drop 256) :=
      Stored.append (memOk_blockWritten s key bad bytes) (stored_blockWritten s key bad bytes) (by rw [hfront]; exact hstored)
    rwa [List.take_append_drop] at hwhole

/-! ### Chunks combined in ascending rank (R195) -/

theorem collCombine_length (op : Nat) : ∀ (fuel : Nat) (a b : List Byte), (collCombine op fuel a b).length = fuel * collSize op
  | 0, _, _ => (Nat.zero_mul _).symm
  | fuel + 1, a, b => by
    rw [collCombine, List.length_append, leBytes_length, collCombine_length op fuel, Nat.succ_mul, Nat.add_comm]

/-- A combination of chunks of one size has that size. -/
theorem collFold_length {op size : Nat} (hsize : size % 256 = 0) {l : List CollMsg} (hl : l ≠ [])
    (hall : ∀ x ∈ l, x.bytes.length = size) : (collFold op size l).length = size := by
  have helems : size / collSize op * collSize op = size := by
    refine Nat.div_mul_cancel ?_
    unfold collSize
    split
    · omega
    · omega
  cases l with
  | nil => exact absurd rfl hl
  | cons m ms =>
    exact foldl_inv (fun bytes : List Byte => bytes.length = size) _ ms
      (fun a x _ => (collCombine_length op _ a x.bytes).trans helems) m.bytes (hall m List.mem_cons_self)

/-! ### What a tier's engine sends (R23, R194) -/

/-- What goes out on the links that a tier's engine serves, of a chunk for the members ds. -/
def linkChunks (s : State) (tier : Nat) (m : CollMsg) (ds : List Nat) : List LinkOut :=
  ds.filterMap (fun d => (Table.find s.routes d).bind (fun e =>
    if linkTier e.1 = tier then some (.chunk e.1 m.comm d s.ownDev m) else none))

/-- What is passed to the other tier's engine. -/
def passedChunks (s : State) (tier launch wg src : Nat) (m : CollMsg) (ds : List Nat) : List CollChunk :=
  ds.filterMap (fun d => (Table.find s.routes d).bind (fun e =>
    if linkTier e.1 = tier then none
    else some { hop := some (e.1, d), tier := linkTier e.1, launch := launch, wg := wg, src := src, msg := m }))

theorem sendTo_eq (s : State) (tier launch wg src : Nat) (m : CollMsg) (d : Nat) :
    s.sendTo tier launch wg src m d = { s with
      linkOut := s.linkOut ++ linkChunks s tier m [d]
      collOut := s.collOut ++ passedChunks s tier launch wg src m [d] } := by
  unfold State.sendTo
  cases hroute : Table.find s.routes d with
  | none => simp [linkChunks, passedChunks, hroute]
  | some e => by_cases htier : linkTier e.1 = tier <;> simp [linkChunks, passedChunks, hroute, htier]

/-- A chunk is sent to several members one after the other. -/
theorem sendTo_foldl (tier launch wg src : Nat) (m : CollMsg) : ∀ (ds : List Nat) (s : State),
    ds.foldl (State.sendTo tier launch wg src m) s = { s with
      linkOut := s.linkOut ++ linkChunks s tier m ds
      collOut := s.collOut ++ passedChunks s tier launch wg src m ds }
  | [], s => by simp [linkChunks, passedChunks]
  | d :: ds, s => by
    have hlink : linkChunks s tier m (d :: ds) = linkChunks s tier m [d] ++ linkChunks s tier m ds :=
      List.filterMap_append (l := [d])
    have hpass : passedChunks s tier launch wg src m (d :: ds) =
        passedChunks s tier launch wg src m [d] ++ passedChunks s tier launch wg src m ds := List.filterMap_append (l := [d])
    rw [List.foldl_cons, sendTo_eq, sendTo_foldl tier launch wg src m ds, hlink, hpass, ← List.append_assoc, ← List.append_assoc]
    rfl

section
variable {s : State} {tier launch wg src d : Nat} {m : CollMsg} {ds : List Nat} {e : Nat × Nat}

theorem mem_linkChunks (hd : d ∈ ds) (hroute : Table.find s.routes d = some e) (htier : linkTier e.1 = tier) :
    LinkOut.chunk e.1 m.comm d s.ownDev m ∈ linkChunks s tier m ds :=
  List.mem_filterMap.mpr ⟨d, hd, by simp [hroute, htier]⟩

theorem mem_passedChunks (hd : d ∈ ds) (hroute : Table.find s.routes d = some e) (htier : linkTier e.1 ≠ tier) :
    ∃ x ∈ passedChunks s tier launch wg src m ds, x.hop = some (e.1, d) :=
  ⟨_, List.mem_filterMap.mpr ⟨d, hd, by rw [hroute, Option.bind_some, if_neg htier]⟩, rfl⟩

/-- What is passed on names the link of its route, which the other engine serves. -/
theorem passedChunks_hop {x : CollChunk} (hx : x ∈ passedChunks s tier launch wg src m ds) :
    x.msg = m ∧ ∃ e, x.hop = some e ∧ x.tier = linkTier e.1 ∧ linkTier e.1 ≠ tier := by
  obtain ⟨d, -, hsome⟩ := List.mem_filterMap.mp hx
  obtain ⟨e, -, he⟩ := Option.bind_eq_some_iff.mp hsome
  split at he
  · exact nomatch he
  · rename_i htier
    obtain rfl := Option.some.inj he
    exact ⟨rfl, (e.1, d), rfl, rfl, htier⟩

end

/-! ### COLLECTIVE_CHUNK_SEND -/

section
variable {s : State} {tier : Nat} {c : CollChunk}

theorem nextChunk_tier (h : s.nextChunk tier = some c) : c.tier = tier := by
  have hmem := (List.mem_filter.mp (firstBy_mem h)).2
  simp only [Bool.and_eq_true, beq_iff_eq] at hmem
  exact hmem.1

theorem exec_send (h : s.nextChunk tier = some c) : exec (.collectiveChunkSend tier) s = .next (s.sendChunk c) := by
  show execCollectiveChunkSend tier s = _
  rw [execCollectiveChunkSend, h]

theorem send_nothing (h : s.nextChunk tier = none) : Stays s (.collectiveChunkSend tier) := by
  show execCollectiveChunkSend tier s = _
  rw [execCollectiveChunkSend, h]

/-- A chunk that the other tier's engine passed on goes out on its link. -/
theorem send_passed {link dev : Nat} (h : s.nextChunk tier = some c) (hhop : c.hop = some (link, dev)) :
    exec (.collectiveChunkSend tier) s = .next { s with
      collOut := s.collOut.erase c
      collLast := Table.set s.collLast tier c.msg.comm
      linkOut := s.linkOut ++ [.chunk link c.msg.comm dev s.ownDev c.msg] } := by
  rw [exec_send h, State.sendChunk, hhop, nextChunk_tier h]
  rfl

/-- This device's launch has one chunk less to send. -/
def State.chunkTaken (s : State) (c : CollChunk) : State := s.onLaunch c.launch (fun l => { l with chunks := l.chunks - 1 })

/-- The chunk as it is sent: with this device's rank, its bytes and its poisoned units. -/
def State.chunkMsg (s : State) (c : CollChunk) (rank : Nat) : CollMsg :=
  { c.msg with rank := rank, bytes := s.chunkBytesOf c, bad := s.chunkBad c }

theorem takeChunk_own {k : Comm} {rank : Nat} (hcomm : s.comm? c.msg.comm = some k) (hrank : s.rankIn k = some rank) :
    s.takeChunk c = ((k.members.filter (fun d => some d != s.devnum)).foldl
      (State.sendTo c.tier c.launch c.wg c.src (s.chunkMsg c rank)) (s.chunkTaken c)).chunkArrive (s.chunkMsg c rank) := by
  have hcomm' : (s.chunkTaken c).comm? c.msg.comm = some k := hcomm
  have hrank' : (s.chunkTaken c).rankIn k = some rank := hrank
  simp only [State.chunkTaken] at hcomm' hrank'
  simp only [State.takeChunk, hcomm', hrank']
  rfl

/-- The queue of its engine without a chunk that is served. -/
def State.chunkServed (s : State) (c : CollChunk) : State :=
  { s with collOut := s.collOut.erase c, collLast := Table.set s.collLast c.tier c.msg.comm }

theorem send_own {k : Comm} {rank : Nat} (h : s.nextChunk tier = some c) (hhop : c.hop = none)
    (hcomm : s.comm? c.msg.comm = some k) (hrank : s.rankIn k = some rank) : exec (.collectiveChunkSend tier) s = .next
      (((k.members.filter (fun d => some d != s.devnum)).foldl (State.sendTo tier c.launch c.wg c.src (s.chunkMsg c rank))
        ((s.chunkServed c).chunkTaken c)).chunkArrive (s.chunkMsg c rank)) := by
  have htake := takeChunk_own (s := s.chunkServed c) (c := c) hcomm hrank
  rw [exec_send h, State.sendChunk, hhop, ← nextChunk_tier h]
  exact congrArg _ htake

theorem chunkTaken_chunks {l : Launch} (h : s.launch? c.launch = some l) :
    ((s.chunkTaken c).launch? c.launch).map Launch.chunks = some (l.chunks - 1) := by
  have hnum : l.num = c.launch := by simpa using List.find?_some h
  rw [launch?_map (s := s) (g := fun l => if l.num = c.launch then { l with chunks := l.chunks - 1 } else l) rfl
    (fun l => by split <;> rfl) c.launch, h, Option.map_some, Option.map_some, if_pos hnum]

end

/-! ### COLLECTIVE_CHUNK_ARRIVAL -/

section
variable {s : State} {m : CollMsg} {c : Comm}

theorem arrive_numberless (h : s.devnum = none) : Stays s (.collectiveChunkArrival m) := by
  show execCollectiveChunkArrival m s = _
  rw [execCollectiveChunkArrival, h]
  rfl

theorem exec_arrive (h : s.devnum ≠ none) : exec (.collectiveChunkArrival m) s = .next (s.chunkArrive m) := by
  show execCollectiveChunkArrival m s = _
  rw [execCollectiveChunkArrival, if_neg (by simpa using h)]

theorem chunkArrive_refused (h : s.chunkRefused m = true) : s.chunkArrive m = s.clerkCount clerkChunk := by
  rw [State.chunkArrive, if_pos h]

/-- The result at its place, in blocks. -/
def State.resultWritten (s : State) (c : Comm) (m : CollMsg) (at_ : Nat) (bad : List Nat) (bytes : List Byte) : State :=
  s.writeResult (c.result + at_) bad (m.size / 256) bytes

/-- The waiting chunks with one more. -/
def State.chunkKept (s : State) (m : CollMsg) : State := { s with collIn := s.collIn ++ [m] }

/-- The waiting chunks without some. -/
def State.chunksDone (s : State) (l : List CollMsg) : State := { s with collIn := l.foldl (fun q x => q.erase x) s.collIn }

/-- A reduction's chunks are combined, and wait no longer. -/
def State.reduced (s : State) (c : Comm) (m : CollMsg) : State :=
  let l := s.gathered c m
  (s.chunksDone l).resultWritten c m (m.num * m.size)
    (l.flatMap CollMsg.bad).eraseDups (collFold m.op m.size l)

/-- What a chunk that suits its communicator does. -/
theorem chunkArrive_suits (h : s.chunkRefused m = false) (hc : s.comm? m.comm = some c) : s.chunkArrive m =
    if m.op = 3 then s.resultWritten c m ((m.num * c.members.length + m.rank) * m.size) m.bad m.bytes
    else if m.op = 4 then if m.rank = c.root then s.resultWritten c m (m.num * m.size) m.bad m.bytes else s
    else if ((s.chunkKept m).gathered c m).length < c.members.length then s.chunkKept m
    else (s.chunkKept m).reduced c m := by
  rw [State.chunkArrive, if_neg (by simp [h]), hc]
  simp only
  split
  · rename_i hop
    rw [if_pos hop]
    rfl
  · rename_i hop
    rw [if_neg (c := m.op = 3) (by omega), if_pos hop]
    rfl
  · rename_i hgather hbroadcast
    rw [if_neg hgather, if_neg hbroadcast]
    rfl

/-- What a chunk that suits its communicator is like. -/
theorem chunkRefused_false (h : s.chunkRefused m = false) (hc : s.comm? m.comm = some c) :
    m.rank < c.members.length ∧ m.size % 256 = 0 ∧ m.bytes.length = m.size := by
  simp only [State.chunkRefused, hc, Bool.or_eq_false_iff, decide_eq_false_iff_not, beq_eq_false_iff_ne, bne_eq_false_iff_eq] at h
  obtain ⟨⟨⟨⟨⟨⟨hrank, -⟩, hmod⟩, hlen⟩, -⟩, -⟩, -⟩ := h
  exact ⟨Nat.lt_of_not_le hrank, hmod, hlen⟩

/-- A result of the chunk's size is stored, where nothing bars any of its blocks in a state that keeps as much. -/
theorem resultWritten_stored {s u : State} {at_ : Nat} {bad : List Nat} {bytes : List Byte} (hk : Kept s u) (hmem : u.mem = s.mem)
    (hsame : SameThreads s u) (hsize : m.size % 256 = 0) (hlen : bytes.length = m.size)
    (hfree : ∀ b < m.size / 256, s.blockFree (c.result + at_ + 256 * b)) :
    Holds s (u.resultWritten c m at_ bad bytes) (c.result + at_) bytes ∧ SameThreads s (u.resultWritten c m at_ bad bytes) := by
  obtain ⟨hstored, hthreads⟩ := writeResult_stored (m.size / 256) (s := u) (key := c.result + at_) (bad := bad) (bytes := bytes)
    (by omega) (fun b hb => hk.blockFree (hfree b hb))
  refine ⟨fun hm => hstored.holds ?_, hthreads.1.trans hsame.1, hthreads.2.trans hsame.2⟩
  rwa [State.memOk, hmem]

/-- A written result leaves the waiting chunks. -/
theorem writeResult_collIn : ∀ (fuel : Nat) (s : State) (key : Nat) (bad : List Nat) (bytes : List Byte),
    (s.writeResult key bad fuel bytes).collIn = s.collIn
  | 0, _, _, _, _ => rfl
  | fuel + 1, s, key, bad, bytes => by
    rw [State.writeResult, writeResult_collIn fuel]
    split
    · obtain ⟨u, ⟨v, hu⟩, hf⟩ := homeStore_frame s key (bytes.take 256) false
      have hhome : (s.homeStore key (bytes.take 256) false).collIn = s.collIn := by rw [hf, hu]
      exact hhome
    · rfl

theorem mem_of_mem_foldl_erase {α : Type} [DecidableEq α] {x : α} : ∀ {l q : List α},
    x ∈ l.foldl (fun q y => q.erase y) q → x ∈ q
  | [], _, h => h
  | _ :: _, _, h => List.mem_of_mem_erase (mem_of_mem_foldl_erase h)

end

/-! ### The obligation -/

/-- Settles O49: what an engine sends goes over the members one after the other; a result is written by induction on its
blocks. -/
theorem collectives : Obligations.Collectives := by
  intro s tier m
  refine ⟨send_nothing, fun c link dev => send_passed, ?own, arrive_numberless, ?refused, ?arrives⟩
  case own =>
    intro c k rank h hhop hcomm hrank msg
    let ds := k.members.filter (fun d => some d != s.devnum)
    let u0 := (s.chunkServed c).chunkTaken c
    refine ⟨ds.foldl (State.sendTo tier c.launch c.wg c.src msg) u0, passedChunks u0 tier c.launch c.wg c.src msg ds,
      send_own h hhop hcomm hrank, ?_⟩
    rw [sendTo_foldl]
    refine ⟨rfl, ⟨rfl, rfl⟩, rfl, fun x hx => passedChunks_hop hx, fun d e hd hown hroute => ⟨fun htier => ?_, fun htier => ?_⟩,
      fun l hl => chunkTaken_chunks (s := s.chunkServed c) hl⟩
    · exact List.mem_append_right _ (mem_linkChunks (s := u0) (List.mem_filter.mpr ⟨hd, by simpa using hown⟩) hroute htier)
    · exact mem_passedChunks (s := u0) (List.mem_filter.mpr ⟨hd, by simpa using hown⟩) hroute htier
  case refused =>
    intro hdev href
    refine ⟨_, (exec_arrive hdev).trans (congrArg _ (chunkArrive_refused href)), rfl, clerkCount_get s clerkChunk⟩
  case arrives =>
    intro c hdev href hcomm n into
    obtain ⟨hrank, hsize, hlen⟩ := chunkRefused_false href hcomm
    have hself : SameThreads s s := ⟨rfl, rfl⟩
    have hlands {u : State} (hk : Kept s u) (hmem : u.mem = s.mem) (hsame : SameThreads s u) {at_ : Nat} (bad : List Nat)
        {bytes : List Byte} (hbytes : bytes.length = m.size) : into (c.result + at_) bytes (u.resultWritten c m at_ bad bytes) :=
      resultWritten_stored hk hmem hsame hsize hbytes
    have hexec := (exec_arrive (m := m) hdev).trans (congrArg _ (chunkArrive_suits href hcomm))
    refine ⟨fun hop => ?_, fun hop hroot => ?_, fun hop hroot => ?_, fun hop => ?_⟩
    · rw [if_pos hop] at hexec
      exact ⟨_, hexec, hlands (Kept.refl s) rfl hself _ hlen⟩
    · rw [if_neg (by omega), if_pos hop, if_pos hroot] at hexec
      exact ⟨_, hexec, hlands (Kept.refl s) rfl hself _ hlen⟩
    · rwa [if_neg (by omega), if_pos hop, if_neg hroot] at hexec
    · rw [if_neg (by omega), if_neg (by omega)] at hexec
      refine ⟨fun hfew => hexec.trans (congrArg _ (if_pos hfew)), fun hall hsizes => ?_⟩
      refine ⟨_, hexec.trans (congrArg _ (if_neg (Nat.not_lt.mpr hall))), ?_, ?_⟩
      · refine hlands (u := (s.chunkKept m).chunksDone ((s.chunkKept m).gathered c m)) (kept_of_same rfl rfl rfl rfl rfl rfl) rfl
          hself _ (collFold_length hsize ?_ hsizes)
        exact List.ne_nil_of_length_pos (Nat.lt_of_lt_of_le (Nat.zero_lt_of_lt hrank) hall)
      · intro x hx
        rw [State.reduced, State.resultWritten, writeResult_collIn] at hx
        exact mem_of_mem_foldl_erase hx

end Sys2Proof.Machine
end

section
/-!
PROOF. How the head of a foreman queue starts, waits, or is discarded (O45).
-/
namespace Sys2Proof.Machine

/-! ### Pending writes that a discarded record leaves (R162, R177) -/

/-- A state that differs from another in its pending writes, its next number and its workgroups alone. -/
structure OnlyWrites (s t : State) : Prop where
  cores : t.cores = s.cores
  devnum : t.devnum = s.devnum
  completed : t.completed = s.completed
  mem : t.mem = s.mem
  threads : SameThreads s t

theorem OnlyWrites.refl (s : State) : OnlyWrites s s := ⟨rfl, rfl, rfl, rfl, rfl, rfl⟩

theorem OnlyWrites.trans {s t u : State} (h1 : OnlyWrites s t) (h2 : OnlyWrites t u) : OnlyWrites s u :=
  ⟨h2.cores.trans h1.cores, h2.devnum.trans h1.devnum, h2.completed.trans h1.completed, h2.mem.trans h1.mem,
    h2.threads.1.trans h1.threads.1, h2.threads.2.trans h1.threads.2⟩

theorem onlyWrites_setRecTag (s : State) (r : QRec) : OnlyWrites s (s.setRecTag r) := by
  unfold State.setRecTag
  split
  · split
    · exact OnlyWrites.refl s
    · exact ⟨rfl, rfl, rfl, rfl, rfl, rfl⟩
  · exact OnlyWrites.refl s

theorem onlyWrites_reportRec (s : State) (core : Nat) (r : QRec) (status fcode bytes faddr : Nat) :
    OnlyWrites s (s.reportRec core r status fcode bytes faddr) := by
  unfold State.reportRec
  apply foldl_inv (OnlyWrites s) _ r.rings ?_ s (OnlyWrites.refl s)
  exact fun t e h => h.trans ⟨rfl, rfl, rfl, rfl, rfl, rfl⟩

theorem onlyWrites_updateSucc (s : State) (core : Nat) (r : QRec) (after : List Nat) :
    OnlyWrites s (s.updateSucc core r after) := by
  unfold State.updateSucc
  split
  · exact ⟨rfl, rfl, rfl, rfl, rfl, rfl⟩
  · exact OnlyWrites.refl s

theorem localSlab_of_devnum {s t : State} (h : t.devnum = s.devnum) (addr : Nat) : t.localSlab addr = s.localSlab addr := by
  rw [State.localSlab, State.localSlab, State.slabDecode, State.slabDecode, h]

/-- What a successor update adds to its counter. -/
def succOp (r : QRec) : HomeOp := .add 4 (if fieldAt r.rcd 0x2B 1 = 1 then 1 else 2 ^ 32 - 1)

theorem updateSucc_pushes {s : State} {r : QRec} {k : Nat} (hsucc : taskSucc r.rcd ≠ 0)
    (hk : s.localSlab (taskSucc r.rcd) = some k) (core : Nat) (after : List Nat) :
    ∃ p ∈ (s.updateSucc core r after).stores, p.key = k ∧ p.op = succOp r := by
  rw [State.updateSucc, if_neg hsucc, hk]
  exact ⟨_, List.mem_append_right _ (List.mem_singleton_self _), rfl, rfl⟩

/-! ### The head leaves its queue -/

section
variable {s : State} {core q : Nat} {r : QRec}

theorem popQueue_core (s : State) (core q : Nat) : (s.popQueue core q).core core = { s.core core with
    queues := Table.set (s.core core).queues q ((Table.get (s.core core).queues [] q).drop 1) } :=
  (core_onCore s core _ core).trans (if_pos rfl)

theorem popQueue_queueRecs (s : State) (core q : Nat) : (s.popQueue core q).queueRecs core q = (s.queueRecs core q).drop 1 := by
  rw [State.queueRecs, popQueue_core, Table.get, Table.find_set, if_pos rfl]
  rfl

/-- What is left of a record that is discarded: its queue moves up, nothing runs, it counts as completed, and its successor
counter is updated. -/
def State.recGone (s : State) (core q : Nat) (r : QRec) (t : State) : Prop :=
  t.queueRecs core q = (s.queueRecs core q).drop 1 ∧ Table.find (t.core core).running q = none ∧ t.completed = s.completed + 1 ∧
    t.mem = s.mem ∧ SameThreads s t ∧
    ∀ k, taskSucc r.rcd ≠ 0 → s.localSlab (taskSucc r.rcd) = some k → ∃ p ∈ t.stores, p.key = k ∧ p.op = succOp r

/-- What a started record leaves: its queue moves up and it runs. -/
def State.recRuns (s : State) (core q : Nat) (x : Running) (t : State) : Prop :=
  t.queueRecs core q = (s.queueRecs core q).drop 1 ∧ Table.find (t.core core).running q = some x ∧ t.completed = s.completed ∧
    t.mem = s.mem

theorem headOf_idle (h : s.headOf core q = some r) : Table.find (s.core core).running q = none := by
  unfold State.headOf at h
  split at h
  · exact nomatch h
  · rename_i hrun
    simpa using hrun

theorem discard_gone {u : State} (h : OnlyWrites s u) (hidle : Table.find (s.core core).running q = none) :
    s.recGone core q r (u.discard core q r) := by
  have hcores (n : Nat) : u.core n = s.core n := by rw [State.core, h.cores]; rfl
  have hsucc := onlyWrites_updateSucc (u.popQueue core q) core r []
  have hcore : (u.discard core q r).core core = (u.popQueue core q).core core := by
    show ((u.popQueue core q).updateSucc core r []).core core = _
    rw [State.core, hsucc.cores]
    rfl
  refine ⟨?_, ?_, ?_, ?_, ⟨?_, ?_⟩, fun k hne hk => ?_⟩
  · rw [State.queueRecs, hcore]
    refine (popQueue_queueRecs u core q).trans ?_
    rw [State.queueRecs, hcores]
    rfl
  · rw [hcore, popQueue_core, hcores]
    exact hidle
  · exact congrArg (· + 1) (hsucc.completed.trans h.completed)
  · exact hsucc.mem.trans h.mem
  · exact hsucc.threads.1.trans h.threads.1
  · exact hsucc.threads.2.trans h.threads.2
  · refine updateSucc_pushes hne (?_ : (u.popQueue core q).localSlab _ = _) core []
    exact (localSlab_of_devnum h.devnum _).trans hk

theorem refuseRec_gone {u : State} (h : OnlyWrites s u) (hidle : Table.find (s.core core).running q = none) :
    s.recGone core q r (u.refuseRec core q r) :=
  discard_gone (h.trans (onlyWrites_reportRec u core r 5 0 0 0)) hidle

theorem begin_runs (s : State) (core q : Nat) (x : Running) : s.recRuns core q x (s.begin core q x) := by
  have hcore : (s.begin core q x).core core = { (s.popQueue core q).core core with
      running := Table.set ((s.popQueue core q).core core).running q x } := (core_onCore _ core _ core).trans (if_pos rfl)
  refine ⟨?_, ?_, rfl, rfl⟩
  · rw [State.queueRecs, hcore]
    exact popQueue_queueRecs s core q
  · rw [hcore]
    exact (Table.find_set _ _ _ _).trans (if_pos rfl)

end

/-! ### Whether the head may start (R160, R390) -/

section
variable {s : State} {core q : Nat} {r : QRec}

theorem engineBars_iff {owner : Option Nat} {k n : Nat} : s.engineBars core owner [(k, n)] = true ↔
    ∃ p ∈ s.stores, engineSees core owner p = true ∧ overlaps p.key p.op.size k n = true := by
  simp [State.engineBars, State.engineAfter, List.filter_eq_nil_iff]

theorem waitHolds_iff : s.waitHolds core r = true ↔ ∃ k, taskWait r.rcd ≠ 0 ∧ s.localSlab (taskWait r.rcd) = some k ∧
    (s.memNat k 4 ≠ 0 ∨ ∃ p ∈ s.stores, engineSees core r.owner p = true ∧ overlaps p.key p.op.size k 4 = true) := by
  unfold State.waitHolds
  by_cases hzero : taskWait r.rcd = 0
  · simp [hzero]
  · cases hk : s.localSlab (taskWait r.rcd) with
    | none => simp [hzero]
    | some k => simp [hzero, engineBars_iff]

/-- What the guard of a record's owner says: it passes, it fails, or it is not resolved. -/
def State.guardSays (s : State) (r : QRec) : Option Bool :=
  match r.owner.bind s.wg? with
  | none => some true
  | some w => if taskGuard r.rcd = 0xFF then some true
    else if (w.guardWrites (taskGuard r.rcd)).any s.outstanding then none
    else Table.find w.guards (taskGuard r.rcd)

/-- What holds a record before its guard is looked at. -/
def State.recWaits (s : State) (core : Nat) (r : QRec) : Prop :=
  (∃ n ∈ r.after, s.outstanding n = true) ∨
    ∃ k, taskWait r.rcd ≠ 0 ∧ s.localSlab (taskWait r.rcd) = some k ∧
      (s.memNat k 4 ≠ 0 ∨ ∃ p ∈ s.stores, engineSees core r.owner p = true ∧ overlaps p.key p.op.size k 4 = true)

theorem mayStart_waits (h : s.recWaits core r) : s.mayStart core r = .wait := by
  unfold State.mayStart
  rcases h with hafter | hcounter
  · rw [if_pos (by simpa using hafter)]
  · rw [if_pos (c := s.waitHolds core r = true) (waitHolds_iff.mpr hcounter), ite_self]

/-- Where nothing else holds a record, its guard decides. -/
theorem mayStart_guard (h : ¬ s.recWaits core r) : s.mayStart core r =
    match s.guardSays r with
    | none => .wait
    | some true => .go
    | some false => .drop := by
  obtain ⟨hafter, hcounter⟩ := not_or.mp h
  rw [State.mayStart, if_neg (by simpa using hafter), if_neg (fun hw => hcounter (waitHolds_iff.mp hw)), State.guardSays]
  cases r.owner.bind s.wg? with
  | none => rfl
  | some w =>
    simp only
    split
    · rfl
    · split
      · rfl
      · rfl

theorem mayStart_unresolved (h : s.guardSays r = none) : s.mayStart core r = .wait := by
  by_cases hwait : s.recWaits core r
  · exact mayStart_waits hwait
  · rw [mayStart_guard hwait, h]

/-! ### FOREMAN_START -/

theorem startCoreCopies_none (h : ∀ w ∈ s.wgs, w.copies = []) : s.startCoreCopies core = s := by
  have hnil : s.wgs.filter (fun w => w.core == core && w.place == .resident && !w.copies.isEmpty) = [] :=
    List.filter_eq_nil_iff.mpr (fun w hw => by simp [h w hw])
  rw [State.startCoreCopies, hnil, List.foldl_nil]

theorem exec_foremanStart (hcopies : q = 5 → ∀ w ∈ s.wgs, w.copies = []) : exec (.foremanStart core q) s = .next (
    match s.headOf core q with
    | none => s
    | some r =>
      if r.owner.isNone && r.lostScratch then s.refuseRec core q r
      else
        match s.mayStart core r with
        | .wait => s
        | .drop => s.discard core q r
        | .go => s.startHead core q r) := by
  have hstay : (if q = 5 then s.startCoreCopies core else s) = s := by
    split
    · rename_i hq
      exact startCoreCopies_none (hcopies hq)
    · rfl
  show execForemanStart core q s = _
  rw [execForemanStart, hstay] <;> rfl

section
variable (hcopies : q = 5 → ∀ w ∈ s.wgs, w.copies = []) (hhead : s.headOf core q = some r)
include hcopies hhead

theorem start_lost (hlost : r.owner = none ∧ r.lostScratch = true) :
    exec (.foremanStart core q) s = .next (s.refuseRec core q r) := by
  rw [exec_foremanStart hcopies, hhead]
  exact congrArg _ (if_pos (by simp [hlost]))

theorem start_kept (hlost : ¬(r.owner = none ∧ r.lostScratch = true)) : exec (.foremanStart core q) s = .next (
    match s.mayStart core r with
    | .wait => s
    | .drop => s.discard core q r
    | .go => s.startHead core q r) := by
  rw [exec_foremanStart hcopies, hhead]
  exact congrArg _ (if_neg (by simpa using hlost))

end

/-! ### A team takes a TEAM record (R165) -/

theorem team_get_put (t : Team) (d n : Reg) (x : Word) (hd : d ≠ 0) (hn : n ≠ 0) :
    (t.put d x).get n = if n = d then x else t.get n := by
  simp only [Team.get, Team.put, hd, hn, if_false, Vector.getElem_set, BitVec.toNat_inj]
  simp [eq_comm]

theorem flushL1_queues (s : State) (core m : Nat) : ((s.flushL1 core).core m).queues = (s.core m).queues := by
  unfold State.flushL1
  split
  · rw [core_onCore]
    split
    · subst_vars
      rfl
    · rfl
  · rfl

theorem flushL1_running (s : State) (core m : Nat) : ((s.flushL1 core).core m).running = (s.core m).running := by
  unfold State.flushL1
  split
  · rw [core_onCore]
    split
    · subst_vars
      rfl
    · rfl
  · rfl

/-- The registers of a team that takes a record, and its serve. -/
def Team.tasked (r : QRec) (t : Team) : Team :=
  { (t.put 1 (BitVec.ofNat 64 (fieldAt r.rcd 8 8))).put 2 (BitVec.ofNat 64 (fieldAt r.rcd 0x10 8)) with
    serve := t.serve.map (fun v => { v with inTask := true }) }

/-- A thread of the team goes on at the record's entry. -/
def Ctx.tasked (u : Team) (r : QRec) (c : Ctx) : Ctx :=
  if c.live && c.id.wg == u.wg && c.team == u.idx && c.status == .serving then
    { c with
      status := .running
      regs := { c.regs with lr := (u.serve.map Serve.pc).getD 0 }
      pc := BitVec.ofNat 64 (taskEntry r.rcd) }
  else c

theorem takeTask_frame (s : State) (core q : Nat) (u : Team) (r : QRec) :
    ∃ v : State, s.takeTask core q u r = v.flushL1 core ∧
      v.cores = (s.begin core q { startOf r 0 with team := u.idx, teamWg := u.wg }).cores ∧
      v.completed = s.completed ∧ v.mem = s.mem ∧ v.ctxs = s.ctxs.map (Ctx.tasked u r) ∧
      v.teams = s.teams.map (fun t => if t.wg = u.wg ∧ t.idx = u.idx then t.tasked r else t) :=
  ⟨_, rfl, rfl, rfl, rfl, rfl, rfl⟩

theorem takeTask_runs (s : State) (core q : Nat) (u : Team) (r : QRec) :
    s.recRuns core q { startOf r 0 with team := u.idx, teamWg := u.wg } (s.takeTask core q u r) := by
  obtain ⟨v, hv, hcores, hcompleted, hmem, -, -⟩ := takeTask_frame s core q u r
  obtain ⟨hqueue, hrun, -, -⟩ := begin_runs s core q { startOf r 0 with team := u.idx, teamWg := u.wg }
  obtain ⟨cores, hflush⟩ := flushL1_frame v core
  have hcore : v.core core = (s.begin core q { startOf r 0 with team := u.idx, teamWg := u.wg }).core core := by
    rw [State.core, hcores]
    rfl
  rw [hv]
  refine ⟨?_, ?_, ?_, ?_⟩
  · rw [State.queueRecs, flushL1_queues, hcore]
    exact hqueue
  · rw [flushL1_running, hcore]
    exact hrun
  · rw [hflush]
    exact hcompleted
  · rw [hflush]
    exact hmem

theorem takeTask_ctxs (s : State) (core q : Nat) (u : Team) (r : QRec) :
    (s.takeTask core q u r).ctxs = s.ctxs.map (Ctx.tasked u r) := by
  obtain ⟨v, hv, -, -, -, hctxs, -⟩ := takeTask_frame s core q u r
  obtain ⟨cores, hflush⟩ := flushL1_frame v core
  rw [hv, hflush]
  exact hctxs

theorem takeTask_teams (s : State) (core q : Nat) (u : Team) (r : QRec) :
    (s.takeTask core q u r).teams = s.teams.map (fun t => if t.wg = u.wg ∧ t.idx = u.idx then t.tasked r else t) := by
  obtain ⟨v, hv, -, -, -, -, hteams⟩ := takeTask_frame s core q u r
  obtain ⟨cores, hflush⟩ := flushL1_frame v core
  rw [hv, hflush]
  exact hteams

theorem tasked_args (r : QRec) (t : Team) : (t.tasked r).get 1 = BitVec.ofNat 64 (fieldAt r.rcd 8 8) ∧
    (t.tasked r).get 2 = BitVec.ofNat 64 (fieldAt r.rcd 0x10 8) := by
  have hget (n : Reg) : (t.tasked r).get n =
    ((t.put 1 (BitVec.ofNat 64 (fieldAt r.rcd 8 8))).put 2 (BitVec.ofNat 64 (fieldAt r.rcd 0x10 8))).get n := rfl
  rw [hget, hget, team_get_put _ 2 1 _ (by decide) (by decide), team_get_put _ 2 2 _ (by decide) (by decide),
    team_get_put _ 1 1 _ (by decide) (by decide)]
  exact ⟨by rw [if_neg (by decide), if_pos rfl], if_pos rfl⟩

/-- The arguments of the record stand in the registers of the team that takes it. -/
theorem takeTask_args {u u' : Team} (h : (s.takeTask core q u r).team? u.wg u.idx = some u') :
    u'.get 1 = BitVec.ofNat 64 (fieldAt r.rcd 8 8) ∧ u'.get 2 = BitVec.ofNat 64 (fieldAt r.rcd 0x10 8) := by
  have hmem := List.mem_of_find?_eq_some h
  have hplace : u'.wg = u.wg ∧ u'.idx = u.idx := by simpa using List.find?_some h
  rw [takeTask_teams] at hmem
  obtain ⟨t, -, rfl⟩ := List.mem_map.mp hmem
  split
  · exact tasked_args r t
  · rename_i hother
    rw [if_neg hother] at hplace
    exact absurd hplace hother

theorem tasked_place (u : Team) (r : QRec) (c : Ctx) : (c.tasked u r).id = c.id ∧ (c.tasked u r).team = c.team ∧
    ((c.tasked u r).status ≠ .exited → c.status ≠ .exited) := by
  unfold Ctx.tasked
  split
  · rename_i h
    refine ⟨rfl, rfl, fun _ hexit => ?_⟩
    simp [hexit] at h
  · exact ⟨rfl, rfl, id⟩

/-- A team that serves stands at TASK.serve with all its live threads (R165). -/
theorem serverOf_serving {u : Team} (h : s.serverOf core q = some u) {c : Ctx} (hc : c ∈ s.ctxs) (hlive : c.live = true)
    (hwg : c.id.wg = u.wg) (hteam : c.team = u.idx) : c.status = .serving := by
  have hserves := List.find?_some h
  simp only [Bool.and_eq_true] at hserves
  obtain ⟨-, hall⟩ := hserves
  have hmem : c ∈ s.liveOfTeam u.wg u.idx := List.mem_filter.mpr ⟨hc, by simp [hlive, hwg, hteam]⟩
  exact beq_iff_eq.mp (List.all_eq_true.mp hall c hmem)

/-- Every live thread of the team that takes a record goes on at the record's entry. -/
theorem takeTask_threads {u : Team} {v : Serve} (h : s.serverOf core q = some u) (hv : u.serve = some v) {c : Ctx}
    (hc : c ∈ (s.takeTask core q u r).ctxs) (hlvl : c.id.lvl = 0) (hwg : c.id.wg = u.wg) (hteam : c.team = u.idx)
    (hstatus : c.status ≠ .exited) :
    c.status = .running ∧ c.pc = BitVec.ofNat 64 (taskEntry r.rcd) ∧ c.regs.lr = v.pc := by
  rw [takeTask_ctxs] at hc
  obtain ⟨c0, hc0, rfl⟩ := List.mem_map.mp hc
  obtain ⟨hid, hsame, hexit⟩ := tasked_place u r c0
  rw [hid] at hlvl hwg
  rw [hsame] at hteam
  have hlive : c0.live = true := by simp [Ctx.live, hlvl, hexit hstatus]
  have hserving := serverOf_serving h hc0 hlive hwg hteam
  simp [Ctx.tasked, hlive, hwg, hteam, hserving, hv]

/-! ### A head that goes starts by its kind -/

theorem startHead_team (h : taskKind r.rcd = 0) : s.startHead core q r =
    match s.serverOf core q with
    | some t => s.takeTask core q t r
    | none => s := by
  rw [State.startHead, h]
  rfl

theorem startHead_loom (h : taskKind r.rcd = 1) : s.startHead core q r =
    if loomHeadBad (s.core core).tile r then (s.setRecTag r).refuseRec core q r
    else if loomTokens (s.core core).tile r.desc = 0 ∨ s.tokensUsed + loomTokens (s.core core).tile r.desc ≤ s.pool then
      s.begin core q (startOf r (loomTokens (s.core core).tile r.desc))
    else s := by
  rw [State.startHead, h]
  rfl

theorem startHead_copy (h : taskKind r.rcd = 2) : s.startHead core q r = s.begin core q (startOf r 0) := by
  rw [State.startHead, h]
  rfl

theorem startHead_quarry {v : Nat} (h : taskKind r.rcd = 3) (hv : s.slabDecode (fieldAt r.desc 8 8) = some v) :
    s.startHead core q r = if s.engineBars core r.owner [(v, quarryVec r.desc)] then s
      else s.begin core q (if isRemoteKey v then startOf r 0 else s.vectorRead v (startOf r 0)) := by
  have hkeys : s.quarryVecKeys r = [(v, quarryVec r.desc)] := by rw [State.quarryVecKeys, hv]; rfl
  have hstart : s.quarryStart r = if isRemoteKey v then startOf r 0 else s.vectorRead v (startOf r 0) := by
    rw [State.quarryStart, hv]
    cases hremote : isRemoteKey v
    · simp [Option.filter, hremote]
    · simp [Option.filter, hremote]
  rw [State.startHead, h]
  simp only [hkeys, hstart]

end

/-! ### The obligation -/

/-- Settles O45: the head's own conditions one after the other, and a case for each kind of record. -/
theorem foremanStarts : Obligations.ForemanStarts := by
  intro s core q r
  refine ⟨fun hq hnone => ?_, fun hcopies hhead => ?_⟩
  · rw [Stays, exec_foremanStart (fun h => absurd h hq), hnone]
  have hidle := headOf_idle hhead
  have hkept (hlost) := start_kept hcopies hhead hlost
  refine ⟨?_, ?_, ?_, fun hlost => ?_, fun hlost hwait => ?_, fun hlost hdrop => ?_, fun hlost hgo => ?_⟩
  · rintro (hwait | hguard)
    · exact mayStart_waits hwait
    · exact mayStart_unresolved hguard
  · intro hwait hguard
    rw [mayStart_guard hwait, show s.guardSays r = some false from hguard]
  · intro hwait hguard
    rw [mayStart_guard hwait, show s.guardSays r = some true from hguard]
  · exact ⟨_, start_lost hcopies hhead hlost, refuseRec_gone (OnlyWrites.refl s) hidle⟩
  · rw [Stays, hkept hlost, hwait]
  · have hexec := hkept hlost
    rw [hdrop] at hexec
    exact ⟨_, hexec, discard_gone (OnlyWrites.refl s) hidle⟩
  have hexec : exec (.foremanStart core q) s = .next (s.startHead core q r) := by rw [hkept hlost, hgo]
  refine ⟨fun hkind hserver => ?_, fun u v hkind hserver hserve => ?_, fun hkind => ?_, fun hkind => ?_, fun v hkind hv => ?_⟩
  · rw [Stays, hexec, startHead_team hkind, hserver]
  · rw [startHead_team hkind, hserver] at hexec
    exact ⟨_, hexec, takeTask_runs s core q u r, fun u' hu => takeTask_args hu,
      fun c hc hlvl hwg hteam hstatus => takeTask_threads hserver hserve hc hlvl hwg hteam hstatus⟩
  · rw [startHead_loom hkind] at hexec
    refine ⟨fun hbad => ?_, fun hbad hsome hmany => ?_, fun hbad htokens => ?_⟩
    · rw [if_pos hbad] at hexec
      exact ⟨_, hexec, refuseRec_gone (onlyWrites_setRecTag s r) hidle⟩
    · rw [if_neg (Bool.eq_false_iff.mp hbad), if_neg (by omega)] at hexec
      exact hexec
    · rw [if_neg (Bool.eq_false_iff.mp hbad), if_pos htokens] at hexec
      exact ⟨_, hexec, begin_runs s core q _⟩
  · rw [startHead_copy hkind] at hexec
    exact ⟨_, hexec, begin_runs s core q _⟩
  · rw [startHead_quarry hkind hv] at hexec
    refine ⟨fun hheld => ?_, fun hheld hremote => ?_, fun hheld hremote => ?_⟩
    · rwa [if_pos hheld] at hexec
    · rw [if_neg (Bool.eq_false_iff.mp hheld), if_pos hremote] at hexec
      exact ⟨_, hexec, begin_runs s core q _⟩
    · rw [if_neg (Bool.eq_false_iff.mp hheld), if_neg (Bool.eq_false_iff.mp hremote)] at hexec
      exact ⟨_, hexec, begin_runs s core q _⟩

end Sys2Proof.Machine
end

section
/-!
PROOF. A workgroup that migrates, a core that is gated or changes its frequency, and power capping (O44).
-/
namespace Sys2Proof.Machine

/-! ### The place of a workgroup that returns (R247, R256) -/

section
variable {s t : State}

/-- A workgroup is found again where it was. -/
theorem Kept.place (h : Kept s t) (n : Nat) :
    (t.wg? n).map (fun w => (w.core, w.place)) = (s.wg? n).map (fun w => (w.core, w.place)) := by
  have hstill : (t.wg? n).map Workgroup.still = (s.wg? n).map Workgroup.still := by rw [wg?_still, wg?_still, h.wgs]
  have hplace := congrArg (Option.map (fun w : Workgroup => (w.core, w.place))) hstill
  rwa [Option.map_map, Option.map_map] at hplace

theorem kept_flushL1 (s : State) (core : Nat) : Kept s (s.flushL1 core) := by
  unfold State.flushL1
  split
  · exact kept_onCore s core (fun _ => rfl)
  · exact Kept.refl s

/-- The records of a workgroup that a queue takes back (R247). -/
def Core.takeBack (w : Workgroup) (c : Core) (q : Nat) : Core :=
  let mine := (w.savedRecs.filter (fun r => r.1 == q)).map Prod.snd
  let there := Table.get c.queues [] q
  if mine.isEmpty then c
  else { c with queues := Table.set c.queues q (mine ++ there), lastTile := lastWload mine there c.lastTile }

theorem pushBack_eq (s : State) (core : Nat) (w : Workgroup) : s.pushBack core w = s.onCore core (fun c =>
    match w.paused with
    | some x => { (List.range 7).foldl (Core.takeBack w) c with
        running := Table.set ((List.range 7).foldl (Core.takeBack w) c).running 5 x }
    | none => (List.range 7).foldl (Core.takeBack w) c) := rfl

theorem takeBack_handles (w : Workgroup) (c : Core) (q : Nat) : (c.takeBack w q).handles = c.handles := by
  simp only [Core.takeBack]
  split
  · rfl
  · rfl

theorem kept_pushBack (s : State) (core : Nat) (w : Workgroup) : Kept s (s.pushBack core w) := by
  rw [pushBack_eq]
  refine kept_onCore s core ?_
  intro c
  have hback : ((List.range 7).foldl (Core.takeBack w) c).handles = c.handles :=
    foldl_inv (fun d : Core => d.handles = c.handles) _ _ (fun d q hd => (takeBack_handles w d q).trans hd) c rfl
  split
  · exact hback
  · exact hback

/-- A workgroup but for its held firings. -/
def Workgroup.holding (l : List (Nat × Keystone)) (w : Workgroup) : Workgroup := { w with heldFirings := l }

theorem kept_drainHeldFuel (wg : Nat) : ∀ (fuel : Nat) (s : State), Kept s (s.drainHeldFuel wg fuel)
  | 0, s => Kept.refl s
  | fuel + 1, s => by
    unfold State.drainHeldFuel
    split
    · rename_i h rest _
      split
      · exact Kept.refl s
      · exact ((kept_onWg s wg (g := Workgroup.holding rest) (fun _ => rfl)).trans (kept_ksAct _ _ _ _)).trans
          (kept_drainHeldFuel wg fuel _)
    · exact Kept.refl s

theorem kept_drainHeld (s : State) (wg : Nat) : Kept s (s.drainHeld wg) := kept_drainHeldFuel wg _ s

theorem kept_freeImage (s : State) (addr : Nat) : Kept s (s.freeImage addr) := kept_homeStore s _ _ _

theorem kept_traceAll (s : State) (wg kind : Nat) : Kept s (s.traceAll wg kind) :=
  kept_foldl (fun s c => kept_trace s c kind c.nextPc) _ s

/-- A restore seats its workgroup on a core that admitted it; what else it does keeps the workgroups as they are. -/
theorem restoreOn_seats {l : Launch} {x : Workgroup} {base core : Nat} (h : s.restoreOn l x base core = some t) :
    ∃ (u : State) (g : Workgroup → Workgroup), u.wgs.map Workgroup.still = s.wgs.map Workgroup.still ∧ Kept (u.onWg x.num g) t ∧
      ∀ w, (g w).num = w.num ∧ (g w).core = core ∧ (g w).place = .resident := by
  unfold State.restoreOn at h
  split at h
  · exact nomatch h
  · obtain ⟨r, hr, rfl⟩ := Option.map_eq_some_iff.mp h
    apply Exists.intro
    apply Exists.intro
    refine ⟨?wgs, ?kept, ?seat⟩
    case kept =>
      refine Kept.trans ?_ (kept_traceAll _ x.num 5)
      refine Kept.trans ?_ (kept_drainHeld _ x.num)
      refine Kept.trans ?_ (kept_pushBack _ core x)
      refine Kept.trans ?_ (kept_flushL1 _ core)
      refine Kept.trans ?_ (kept_freeImage _ (base - hbmBase))
      exact kept_homeStore _ _ _ false
    case wgs => exact (admitTo_kept hr).wgs
    case seat =>
      intro w
      simp only [Workgroup.ofImage, and_self]

/-- A restored workgroup stands on the core that admitted it. -/
theorem restoreOn_place {l : Launch} {x : Workgroup} {base core wg : Nat} (h : s.restoreOn l x base core = some t)
    (hx : s.wg? wg = some x) : (t.wg? wg).map (fun w => (w.core, w.place)) = some (core, .resident) := by
  obtain rfl : x.num = wg := by simpa using List.find?_some hx
  obtain ⟨u, g, hwgs, hkept, hg⟩ := restoreOn_seats h
  have hstill : (u.wg? x.num).map Workgroup.still = some x.still := by rw [wg?_still, hwgs, ← wg?_still, hx, Option.map_some]
  obtain ⟨v, hv, -⟩ := Option.map_eq_some_iff.mp hstill
  obtain ⟨-, hcore, hplace⟩ := hg v
  rw [hkept.place, wg?_onWg_same (fun w => (hg w).1) hv, Option.map_some, hcore, hplace]

end

/-! ### Forks that a migration resolves (R213) -/

section
variable {s : State} {f : Fork} {wg tix : Nat}

theorem homeStore_forks (s : State) (key : Nat) (bytes : List Byte) (poisoned : Bool) :
    (s.homeStore key bytes poisoned).forks = s.forks := by
  obtain ⟨u, ⟨v, hu⟩, hf⟩ := homeStore_frame s key bytes poisoned
  rw [hf, hu]

/-- A trace record leaves the threads and the forks. -/
theorem trace_threads (s : State) (c : Ctx) (kind : Nat) (pc : Word) :
    (s.trace c kind pc).ctxs = s.ctxs ∧ (s.trace c kind pc).forks = s.forks := by
  unfold State.trace
  split
  · exact ⟨rfl, rfl⟩
  · simp only
    split
    · exact ⟨rfl, rfl⟩
    · split
      · exact ⟨rfl, rfl⟩
      · split
        · simp only [homeStore_ctxs, homeStore_forks, State.onCore_ctxs, State.onCore_forks, and_self]
        · simp only [homeStore_ctxs, homeStore_forks, State.onCore_ctxs, State.onCore_forks, and_self]

/-- A context is the continuation of a fork. -/
def Fork.continues (f : Fork) (c : Ctx) : Bool := c.id.wg == f.wg && c.id.tix == f.tix && c.id.lvl == f.depth

theorem issued_ite (f : Fork) (here : Bool) (l : List (Nat × Nat)) :
    ∃ m, (if here then { f with issued := l } else f) = { f with issued := m } := by
  cases here
  · exact ⟨f.issued, rfl⟩
  · exact ⟨l, rfl⟩

/-- Issue slots that move leave a fork its name. -/
theorem slotsMoved_forks (h : s.forks = [f]) (core part : Nat) (issued : List (Nat × Nat)) :
    ∃ l, (s.slotsMoved core part issued).forks = [{ f with issued := l }] := by
  simp only [State.slotsMoved, h, List.map_cons, List.map_nil]
  exact (issued_ite f _ _).imp (fun m hm => congrArg (fun g => [g]) hm)

theorem closeFork_moved {l : List (Nat × Nat)} (h : s.forks = [{ f with issued := l }]) : (s.closeFork f).forks = [] := by
  simp [State.closeFork, h]

/-- The only fork is squashed: its continuation goes, and no fork is left. -/
theorem squashFork_only (h : s.forks = [f]) :
    (s.squashFork f).forks = [] ∧ (s.squashFork f).ctxs = s.ctxs.filter (fun c => !f.continues c) := by
  unfold State.squashFork
  simp only
  split
  · rename_i c _
    obtain ⟨hctxs, hforks⟩ := trace_threads s c 6 f.ret
    refine ⟨?_, ?_⟩
    · obtain ⟨l, hl⟩ := slotsMoved_forks (s := (s.trace c 6 f.ret).onPart (s.coreOf c) (s.partOf c) (fun p => p.moveSlots f.issued))
        (hforks.trans h) (s.coreOf c) (s.partOf c) f.issued
      exact closeFork_moved hl
    · simp only [State.closeFork, State.slotsMoved, State.onPart_ctxs, hctxs]
      rfl
  · refine ⟨?_, rfl⟩
    simp [State.closeFork, h]

theorem collapseFuel_none (h : ∀ g ∈ s.forks, ¬(g.wg = wg ∧ g.tix = tix)) (fuel : Nat) : s.collapseFuel wg tix fuel = s := by
  have hnil : s.forks.filter (fun g => g.wg == wg && g.tix == tix) = [] :=
    List.filter_eq_nil_iff.mpr (fun g hg => by simpa using h g hg)
  cases fuel with
  | zero => rfl
  | succ fuel => rw [State.collapseFuel, firstBy_nil hnil]

theorem collapse_none (h : ∀ g ∈ s.forks, ¬(g.wg = wg ∧ g.tix = tix)) : s.collapse wg tix = s := collapseFuel_none h 4

/-- A thread's pending-return frame for a fork. -/
def Ctx.framed (f : Fork) (c : Ctx) : Ctx :=
  { c with frames := { regs := f.checkpoint, ret := f.ret, callPc := f.callPc } :: c.frames }

/-- The only fork is resolved: its continuation goes, and its thread has a frame for it. -/
theorem collapse_only (h : s.forks = [f]) : (s.collapse f.wg f.tix).forks = [] ∧
    (s.collapse f.wg f.tix).ctxs = ((s.ctxs.filter (fun c => !f.continues c)).map (fun c =>
      if c.id = { wg := f.wg, tix := f.tix, lvl := 0 } then c.framed f else c)) := by
  obtain ⟨hforks, hctxs⟩ := squashFork_only h
  have hfirst : firstBy (fun f g : Fork => decide (f.depth < g.depth))
      (s.forks.filter (fun g => g.wg == f.wg && g.tix == f.tix)) = some f := by
    rw [h]
    simp [firstBy]
  have hstep : s.collapse f.wg f.tix = (s.squashFork f).onCtx { wg := f.wg, tix := f.tix, lvl := 0 } (Ctx.framed f) := by
    rw [State.collapse, State.collapseFuel, hfirst]
    exact collapseFuel_none (by simp [hforks]) 3
  rw [hstep]
  exact ⟨hforks, congrArg (List.map _) hctxs⟩

/-- The threads of a workgroup resolve their forks one after the other. -/
def State.collapseEach (s : State) (wg : Nat) (l : List Ctx) : State := l.foldl (fun s c => s.collapse wg c.id.tix) s

theorem collapseEach_none : ∀ (l : List Ctx), (∀ g ∈ s.forks, g.wg ≠ wg) → s.collapseEach wg l = s
  | [], _ => rfl
  | c :: l, h => by
    rw [State.collapseEach, List.foldl_cons, collapse_none (fun g hg hsame => h g hg hsame.1)]
    exact collapseEach_none l h

/-- Only the thread of the only fork has one to resolve. -/
theorem collapseEach_only (h : s.forks = [f]) : ∀ (l : List Ctx), (∃ c ∈ l, c.id.tix = f.tix) →
    s.collapseEach f.wg l = s.collapse f.wg f.tix
  | [], hin => absurd hin (by simp)
  | c :: l, hin => by
    rw [State.collapseEach, List.foldl_cons]
    by_cases hc : c.id.tix = f.tix
    · rw [hc]
      exact collapseEach_none l (by simp [(collapse_only h).1])
    · rw [collapse_none (by simp [h, Ne.symm hc])]
      refine collapseEach_only h l ?_
      obtain ⟨d, hd, hdtix⟩ := hin
      exact (List.mem_cons.mp hd).elim (fun hdc => absurd (hdc ▸ hdtix) hc) (fun hdl => ⟨d, hdl, hdtix⟩)

/-- The traps that threads of a workgroup wait for are taken. -/
def State.trapsTaken (s : State) (l : List Ctx) : State :=
  l.foldl (fun s c => match c.trapNow with
    | some f => (match f.what with
      | .trap cause addr => s.takeTrap c.id cause addr f.pc f.word
      | _ => s)
    | none => s) s

theorem trapsTaken_calm : ∀ (l : List Ctx), (∀ c ∈ l, c.trapNow = none) → s.trapsTaken l = s
  | [], _ => rfl
  | c :: l, h => by
    rw [State.trapsTaken, List.foldl_cons, h c List.mem_cons_self]
    exact trapsTaken_calm l (fun d hd => h d (List.mem_cons_of_mem c hd))

theorem settleWg_eq (s : State) (wg : Nat) : s.settleWg wg =
    (s.collapseEach wg (s.threadsOf wg)).trapsTaken ((s.collapseEach wg (s.threadsOf wg)).threadsOf wg) := rfl

/-- Without forks and traps nothing is settled. -/
theorem settleWg_calm (hcalm : ∀ c ∈ s.threadsOf wg, c.trapNow = none) (hforks : ∀ f ∈ s.forks, f.wg ≠ wg) :
    s.settleWg wg = s := by
  rw [settleWg_eq, collapseEach_none _ hforks, trapsTaken_calm _ hcalm]

theorem framed_id (f : Fork) (c : Ctx) : (c.framed f).id = c.id := rfl
theorem framed_trapNow (f : Fork) (c : Ctx) : (c.framed f).trapNow = c.trapNow := rfl

/-- Where no thread waits for a trap, the only fork is all that is settled. -/
theorem settleWg_only (h : s.forks = [f]) (hcalm : ∀ c ∈ s.threadsOf f.wg, c.trapNow = none)
    (hthread : ∃ c ∈ s.threadsOf f.wg, c.id.tix = f.tix) : s.settleWg f.wg = s.collapse f.wg f.tix := by
  rw [settleWg_eq, collapseEach_only h _ hthread]
  refine trapsTaken_calm _ (fun c hc => ?_)
  obtain ⟨hmem, hplace⟩ := List.mem_filter.mp hc
  rw [(collapse_only h).2] at hmem
  obtain ⟨d, hd, rfl⟩ := List.mem_map.mp hmem
  have hthread (hp : (d.id.wg == f.wg && d.id.lvl == 0) = true) : d.trapNow = none :=
    hcalm d (List.mem_filter.mpr ⟨(List.mem_filter.mp hd).1, hp⟩)
  split
  · rename_i hid
    rw [if_pos hid] at hplace
    exact hthread hplace
  · rename_i hid
    rw [if_neg hid] at hplace
    exact hthread hplace

/-- The thread of the only fork has a frame for it. -/
theorem collapse_frames {c : Ctx} (h : s.forks = [f]) (hdepth : f.depth ≠ 0)
    (hc : s.ctx? { wg := f.wg, tix := f.tix, lvl := 0 } = some c) :
    (s.collapse f.wg f.tix).ctx? { wg := f.wg, tix := f.tix, lvl := 0 } = some (c.framed f) := by
  have hid : c.id = { wg := f.wg, tix := f.tix, lvl := 0 } := by simpa using List.find?_some hc
  rw [State.ctx?, (collapse_only h).2, List.find?_map]
  have hsame : ((fun c : Ctx => c.id == { wg := f.wg, tix := f.tix, lvl := 0 }) ∘ fun c =>
      if c.id = { wg := f.wg, tix := f.tix, lvl := 0 } then c.framed f else c) =
      fun c : Ctx => c.id == { wg := f.wg, tix := f.tix, lvl := 0 } := by
    funext d
    simp only [Function.comp]
    split
    · rfl
    · rfl
  have hkeeps : (fun d : Ctx => decide ((!f.continues d) = true ∧ (d.id == { wg := f.wg, tix := f.tix, lvl := 0 }) = true)) =
      fun d : Ctx => d.id == { wg := f.wg, tix := f.tix, lvl := 0 } := by
    funext d
    cases hd : d.id == { wg := f.wg, tix := f.tix, lvl := 0 } with
    | false => simp
    | true => simp [Fork.continues, beq_iff_eq.mp hd, Ne.symm hdepth]
  rw [hsame, List.find?_filter, hkeeps, show s.ctxs.find? _ = some c from hc, Option.map_some, if_pos hid]

end

/-! ### THERMAL_MIGRATION -/

section
variable {s : State} {wg core : Nat} {w : Workgroup}

/-- What a workgroup needs that may go to another core (R256). -/
def State.mayMigrate (s : State) (wg core : Nat) (w : Workgroup) : Prop :=
  s.movable w = true ∧ w.bound = false ∧ core < Config.cores ∧ core ≠ w.core ∧ s.oneBarrier wg = true ∧ s.hodOpen wg = false

theorem migration_stays (hw : s.wg? wg = some w) (h : ¬ s.mayMigrate wg core w) : Stays s (.thermalMigration wg core) := by
  show execThermalMigration wg core s = _
  rw [execThermalMigration, hw]
  refine congrArg _ (if_neg ?_)
  simpa [State.mayMigrate, and_assoc] using h

theorem migration_settles (hw : s.wg? wg = some w) (h : s.mayMigrate wg core w) : exec (.thermalMigration wg core) s = .next (
    if (s.settleWg wg).atBoundary wg && (s.settleWg wg).enginesQuiet w then (s.settleWg wg).migrate wg core
    else s.settleWg wg) := by
  show execThermalMigration wg core s = _
  rw [execThermalMigration, hw]
  refine congrArg _ (if_pos ?_)
  simpa [State.mayMigrate, and_assoc] using h

/-- A workgroup that is saved goes where its new core admits it. -/
theorem migrate_restores {x : Workgroup} {l : Launch} {a : Nat} {r : State} (hx : (s.save wg).wg? wg = some x)
    (hl : (s.save wg).launchOf? wg = some l) (hplace : x.place = .saved a)
    (hr : (s.save wg).restoreOn l x (hbmBase + a) core = some r) : s.migrate wg core = r := by
  simp only [State.migrate, hx, hl, hplace, hr, Option.getD_some]

end

/-! ### Frequencies, power gating and capping (R257, R198, R272) -/

section
variable {s : State} {core : Nat}

/-- What a change of a core's frequency needs (R257, R272). -/
def State.mayChange (s : State) (core mhz : Nat) : Prop := core < Config.cores ∧ 800 ≤ mhz ∧ mhz ≤ 1700 ∧ mhz % 100 = 0 ∧
  ∀ w ∈ s.wgs, w.place = .resident → w.core = core → s.atBoundary w.num = true

theorem mayChange_iff {mhz : Nat} : (decide (core < Config.cores) && frequencyOk mhz &&
    (s.wgs.filter (fun w => w.place == .resident && w.core == core)).all (fun w => s.atBoundary w.num)) = true ↔
    s.mayChange core mhz := by
  simp [State.mayChange, frequencyOk, and_assoc, imp_iff_not_or, or_assoc]

/-- One core alone changes. -/
theorem onCore_only (s : State) (core : Nat) (g : Core → Core) : s.onCore core g = { s with cores := (s.onCore core g).cores } ∧
    (s.onCore core g).core core = g (s.core core) ∧ ∀ k, k ≠ core → (s.onCore core g).core k = s.core k :=
  ⟨rfl, (core_onCore s core g core).trans (if_pos rfl), fun k hk => (core_onCore s core g k).trans (if_neg hk)⟩

/-- Two cores change, each from what it was. -/
theorem onCore_pair (s : State) {a b : Nat} (hab : a ≠ b) (f g : Core → Core) :
    (s.onCore a f).onCore b g = { s with cores := ((s.onCore a f).onCore b g).cores } ∧
    ((s.onCore a f).onCore b g).core b = g (s.core b) ∧ ((s.onCore a f).onCore b g).core a = f (s.core a) := by
  obtain ⟨-, hb, hother⟩ := onCore_only (s.onCore a f) b g
  obtain ⟨-, ha, hb'⟩ := onCore_only s a f
  exact ⟨rfl, hb.trans (congrArg g (hb' b hab.symm)), (hother a hab).trans ha⟩

theorem partnerOf_upper (h : 96 ≤ core) : partnerOf core = core - 96 := if_neg (Nat.not_lt.mpr h)

/-- What powers an upper core off (R198). -/
def State.mayGate (s : State) (core : Nat) : Prop :=
  96 ≤ core ∧ core < Config.cores ∧ (s.core core).gated = false ∧ s.roomOf core = []

theorem mayGate_iff : (upperCore core && !(s.core core).gated && (s.roomOf core).isEmpty) = true ↔ s.mayGate core := by
  simp [State.mayGate, upperCore, and_assoc]

/-- A core's read grants (R272). -/
def Core.granting (grants : Nat) (c : Core) : Core := { c with grantsG := grants }

theorem onCores_core (g : Core → Core) : ∀ (n : Nat) (s : State) (k : Nat),
    (s.onCores (List.range n) g).core k = if k < n then g (s.core k) else s.core k
  | 0, _, _ => rfl
  | n + 1, s, k => by
    have hlast : s.onCores (List.range (n + 1)) g = (s.onCores (List.range n) g).onCore n g := by
      rw [State.onCores, List.range_succ, List.foldl_append]
      rfl
    rw [hlast, core_onCore, onCores_core g n s n, onCores_core g n s k, if_neg (Nat.lt_irrefl n)]
    by_cases hk : k = n
    · rw [if_pos hk, if_pos (by omega), hk]
    · by_cases hlt : k < n
      · rw [if_neg hk, if_pos hlt, if_pos (by omega)]
      · rw [if_neg hk, if_neg hlt, if_neg (by omega)]

theorem lowest_iff : s.lowest = true ↔ s.pool = 0 ∧ ∀ k < 192, (s.core k).grantsG = 3 ∧ (s.core k).mhz = 800 := by
  simp [State.lowest, Config.cores]

/-- The token pool and the grants as a cap sets them. -/
def State.capped (s : State) (pool grants : Nat) : State :=
  { s.onCores (List.range 192) (Core.granting grants) with pool := pool, alert := s.lowest && pool == 0 && grants == 3 }

theorem capped_core (pool grants : Nat) {k : Nat} (hk : k < 192) :
    (s.capped pool grants).core k = (s.core k).granting grants := by
  have hcore := onCores_core (Core.granting grants) 192 s k
  rw [if_pos hk] at hcore
  rw [← hcore, State.core, State.core, State.capped]

theorem exec_capping (pool grants : Nat) : exec (.powerCapping pool grants) s = .next (
    if pool > 768 ∨ grants < 3 ∨ grants > 12 then s else s.capped pool grants) := rfl

end

/-! ### The obligation -/

/-- Settles O44: each event by its guard; a migration's fork by the collapse of the only one, its restore by what the later
steps keep of workgroups. -/
theorem powerAndMigration : Obligations.PowerAndMigration := by
  intro s wg core mhz pool grants
  refine ⟨?stays, ?migrates, ⟨?changes, ?changeless⟩, ⟨?gates, ?gateless⟩, ⟨?powers, ?powerless⟩, ?capless, ?caps⟩
  case stays =>
    intro w hw hbars
    refine migration_stays hw (fun ⟨hmovable, hbound, hcore, hother, hbarrier, hhod⟩ => ?_)
    have hcore : core < 192 := hcore
    simp only [hmovable, hbound, hbarrier, hhod, Bool.true_eq_false, Bool.false_eq_true, false_or, or_false] at hbars
    omega
  case migrates =>
    intro w hw hnum hmovable hbound hcore hother hbarrier hhod u calm
    have hexec := migration_settles hw ⟨hmovable, hbound, hcore, hother, hbarrier, hhod⟩
    refine ⟨fun hcalm hforks => settleWg_calm hcalm hforks, fun f c hcalm hforks hwg hdepth hc htix hctx => ?_, fun hbusy => ?_,
      fun x l a r hboundary hquiet hx hl hplace hr => ?_⟩
    · subst hwg
      have hid : c.id = { wg := f.wg, tix := f.tix, lvl := 0 } := by
        obtain ⟨-, hmine⟩ := List.mem_filter.mp hc
        simp only [Bool.and_eq_true, beq_iff_eq] at hmine
        calc c.id = ⟨c.id.wg, c.id.tix, c.id.lvl⟩ := rfl
          _ = ⟨f.wg, f.tix, 0⟩ := by rw [hmine.1, htix, hmine.2]
      have hu : u = s.collapse f.wg f.tix := settleWg_only hforks hcalm ⟨c, hc, htix⟩
      rw [hid] at hctx ⊢
      rw [hu, collapse_frames hforks hdepth hctx]
      exact ⟨(collapse_only hforks).1, rfl⟩
    · rw [hexec, if_neg]
      simpa [Decidable.imp_iff_not_or] using hbusy
    · have hmigrate : u.migrate wg core = r := migrate_restores hx hl hplace hr
      rw [if_pos (by rw [hboundary, hquiet]; rfl), hmigrate] at hexec
      exact ⟨hexec, restoreOn_place hr hx⟩
  case changes =>
    intro hmay
    exact ⟨_, congrArg Host.Outcome.next (if_pos (mayChange_iff.mpr hmay)), onCore_only s core _⟩
  case changeless => exact fun hmay => congrArg _ (if_neg (fun h => hmay (mayChange_iff.mp h)))
  case gates =>
    intro hmay
    refine ⟨_, congrArg Host.Outcome.next (if_pos (mayGate_iff.mpr hmay)), ?_⟩
    rw [partnerOf_upper hmay.1]
    exact onCore_pair s (by omega) _ _
  case gateless => exact fun hmay => congrArg _ (if_neg (fun h => hmay (mayGate_iff.mp h)))
  case powers =>
    intro hupper hgated
    refine ⟨_, congrArg Host.Outcome.next (if_pos hgated), ?_⟩
    rw [partnerOf_upper hupper]
    exact onCore_pair s (by omega) _ _
  case powerless => exact fun hgated => congrArg _ (if_neg (Bool.eq_false_iff.mp hgated))
  case capless => exact fun hbad => (exec_capping pool grants).trans (congrArg _ (if_pos hbad))
  case caps =>
    intro hpool hlow hhigh
    have hexec := (exec_capping (s := s) pool grants).trans (congrArg _ (if_neg (by omega)))
    obtain ⟨cores, hframe⟩ := onCores_frame s (List.range 192) (Core.granting grants)
    refine ⟨_, hexec, ?_, fun k hk => ?_, ?_⟩
    · rw [State.capped, hframe]
    · exact capped_core pool grants hk
    · simp only [State.capped, Bool.and_eq_true, lowest_iff, beq_iff_eq]
      tauto

end Sys2Proof.Machine
end

section
/-!
PROOF. O46 fails where an EOS record ends in the queue of a QFENCE that waits for it: the fence takes over the write of the
EOS record's word (R164), so what is left of the queue is not as it was.
-/
namespace Sys2Proof.Machine
open Sys2Proof Sys2Proof.Machine.Tests

/-- An EOS record of the Loom queue with a word to write, and behind it in that queue a QFENCE that waits for it. -/
def wordedEos : QRec := { recOf 4 4 [] with rcd := (plainRecord 0 4 4).take 0x38 ++ leBytes 8 (sa 0x900).toNat }
def fenceBehind : QRec := { recOf 5 4 [] with fence := [wordedEos.num] }
def fencedEos : State :=
  { stage lone with cores := [(0, { Core.init with queues := [(4, [wordedEos, fenceBehind])] })] }

/-- The EOS record heads its queue, may start, names no next record, and its word lies in slab. -/
theorem fencedEos_ready : fencedEos.headOf 0 4 = some wordedEos ∧ fencedEos.mayStart 0 wordedEos = .go ∧
    fencedEos.eosCheck 0 wordedEos = .nothing ∧ eosWord wordedEos.rcd ≠ 0 ∧
    fencedEos.localSlab (eosWord wordedEos.rcd) = some (slabKey 0 0x900) ∧
    ¬(wordedEos.owner = none ∧ wordedEos.lostScratch = true) := by decide

/-- The QFENCE takes over the write of the word. -/
theorem fencedEos_hands (t : State) (h : exec (.eosComplete 0 4) fencedEos = .next t) :
    (t.queueRecs 0 4).map QRec.after = [[fencedEos.nextNum]] := by
  obtain rfl := Host.Outcome.next.inj h
  decide

/-- Refutes O46: of an EOS record of an engine queue the statement has the records behind it stay exactly as they stand, and
has every record whose fence names the EOS record take over the write of its word as well. Both cannot hold of a QFENCE behind
it in the same queue, a state that a run does not reach (`State.recsIn` leaves the fence's own queue out) and that the statement
does not exclude. -/
theorem not_foremanEnds : ¬ Obligations.ForemanEnds := by
  unfold Obligations.ForemanEnds
  intro h
  obtain ⟨-, -, -, hrec, -⟩ := h fencedEos 0 4
  obtain ⟨hhead, hgo, hnext, hword, hkey, hlost⟩ := fencedEos_ready
  obtain ⟨-, heos⟩ := hrec wordedEos hhead
  obtain ⟨-, -, hwrites, -⟩ := heos rfl hgo hlost
  obtain ⟨t, ht, hqueue, -⟩ := hwrites (slabKey 0 0x900) hnext (le_refl 4) hword hkey
  have hafter := fencedEos_hands t ht
  rw [hqueue] at hafter
  exact absurd hafter (by decide)

end Sys2Proof.Machine
end

section
/-!
PROOF. O48 fails where a copy ends while a fault record of its core's Hod stands RESOLVED: the end frees that record (R146),
which writes its state byte.
-/
namespace Sys2Proof.Machine
open Sys2Proof Sys2Proof.Machine.Tests

/-- A copy that has stopped while a fault record of its core stands RESOLVED. -/
def stoppedCopy : Running := { startOf (recOf 2 5 hodBytes) 0 with done := true }
def resolvedCopy : State :=
  { running0 5 stoppedCopy with
    cores := [(0, { Core.init with
      running := [(5, stoppedCopy)]
      faultsOut := [(0, { faultReq0 with who := [], hod := true, resolved := true })] })]
    mem := cellsWrite [] (faultKey 0 0 + 0x14) [2] }

/-- The copy's end writes FREE into the record, which holds nothing else. -/
theorem resolvedCopy_frees (t : State) (h : exec (.hodCopyComplete 0) resolvedCopy = .next t) : t.mem = [] := by
  obtain rfl := Host.Outcome.next.inj h
  decide

/-- Refutes O48: a copy that ends frees the fault record that its replay has left RESOLVED (R146), and so writes 0 over the 2 of
its state byte, but the statement has memory stay as it was. A copy that is refused by a chunk of its own on its way while it is
parked, and whose fault is then resolved, ends so. -/
theorem not_engineTasks : ¬ Obligations.EngineTasks := by
  unfold Obligations.EngineTasks
  intro h
  obtain ⟨-, -, -, -, -, hcopy, -⟩ := h resolvedCopy 0 stoppedCopy
  obtain ⟨-, -, hends, -⟩ := hcopy rfl rfl
  obtain ⟨t, ht, -, hmem⟩ := hends (.inl rfl) rfl ⟨by decide, by decide⟩
  rw [resolvedCopy_frees t ht] at hmem
  exact absurd hmem (by decide)

end Sys2Proof.Machine
end

section
/-!
PROOF. Right after reset nothing is resident, and every byte of memory reads 0 (O54).
-/
namespace Sys2Proof.Machine

/-- Settles O54. Every core and every partition is as `Core.init` and `Part.init` have it, since reset lists none, and an
accumulator row holds what memory without cells reads as. -/
theorem resetState : Obligations.ResetState := by
  unfold Obligations.ResetState
  have hcore (core : Nat) : State.reset.core core = Core.init := core_absent rfl
  have hpart (core part : Nat) : State.reset.part core part = Part.init := rfl
  have hcode (key : Nat) : State.reset.memNat key 4 = 0 := rfl
  have hrow (core row : Nat) : State.reset.accCodes core row = List.replicate 128 0 := by
    simp only [State.accCodes, hcode, List.map_const', List.length_range]
  refine ⟨rfl, rfl, rfl, rfl, rfl, fun _ => rfl, fun core => ?_, hrow, fun core part => ?_, rfl, rfl, rfl, rfl⟩
  · rw [hcore core]
    exact ⟨rfl, rfl, rfl, rfl⟩
  · rw [hpart core part]
    rfl

end Sys2Proof.Machine
end

section
/-!
PROOF. O18 fails where a fork commits with a store into a buffer that another workgroup has come to hold: the store traps
HANDLE (R134) and does not enter the store path.
-/
namespace Sys2Proof.Machine
open Sys2Proof Sys2Proof.Machine.Tests

/-- A continuation's store of 8 bytes at offset 0x100 of the slice of core 0, in its fork's buffer. -/
def ownedStore : BufStore :=
  { num := 0, addr := sa 0x100, ins := (sa 0x10044, 0), key := slabKey 0 0x100, bytes := List.replicate 8 0 }

/-- The open fork with that store: its predictions are right, and nothing has touched its lines. -/
def storingFork : Fork := { fork0 [0, 0, 0, 0] false with buffer := [ownedStore] }

/-- The callee stands at its return, and workgroup 5 holds the 64 bytes from offset 0x100 on. -/
def barredCommit : State := owned { stage callee0 with ctxs := [callee0, cont0], forks := [storingFork] } 0x100

/-- The return is that of the fork's call, with v0 to v3 as predicted. -/
theorem barredCommit_commits : barredCommit.innermost callee0.id.wg callee0.id.tix = some storingFork ∧
    barredCommit.ctx? callee0.id = some callee0 ∧ barredCommit.ctx? { callee0.id with lvl := storingFork.depth } = some cont0 ∧
    [callee0.regs.get 0, callee0.regs.get 1, callee0.regs.get 2, callee0.regs.get 3] = storingFork.preds := by decide

/-- The fork commits, and its store waits to trap HANDLE at the thread. -/
theorem barredCommit_traps : (barredCommit.endCall callee0).forks = [] ∧ (barredCommit.endCall callee0).stores = [] ∧
    ((barredCommit.endCall callee0).ctx? callee0.id).map (fun c => c.inflight.map Flight.what) =
      some [.trap causeHANDLE (sa 0x100)] := by decide

/-- The launch of the callee's workgroup records no trace. -/
theorem barredCommit_untraced (l : Launch) (h : barredCommit.launchOf? callee0.id.wg = some l) :
    (barredCommit.queue l.queue).trace = false := by
  obtain rfl := Option.some.inj h
  decide

/-- Refutes O18: at a commit the statement has every store of the fork's buffer enter the store path, but a store into a buffer
that another workgroup has come to hold since it was buffered traps HANDLE instead (R134, R209; `State.commitStore`). -/
theorem not_forkedCalls : ¬ Obligations.ForkedCalls := by
  unfold Obligations.ForkedCalls
  rintro ⟨-, -, -, hend⟩
  obtain ⟨hfork, hcallee, hcont, hpreds⟩ := barredCommit_commits
  obtain ⟨-, hstores, -⟩ := barredCommit_traps
  obtain ⟨hresolve, -, -⟩ := hend barredCommit callee0 callee0 rfl hcallee barredCommit_untraced
  obtain ⟨-, -, hcommit, -⟩ := hresolve storingFork cont0 hfork (by decide) hcont rfl rfl
  obtain ⟨hwrites, -⟩ := hcommit hpreds rfl
  rw [hstores] at hwrites
  exact absurd hwrites (by decide)

end Sys2Proof.Machine
end

section
/-!
PROOF. The canonical form of memory through the operations on the state and on what is at home: objects, keystones, writes,
caches, traces, traps and lanes (O58).
-/
namespace Sys2Proof.Machine
open Sys2Proof

/-- What `State.memOk` asks of the state that an outcome leads to. -/
def OutOk : Out → Prop
  | .next t => t.memOk = true
  | _ => True

/-! ### How the states are composed -/

theorem memOk_foldl {s : State} {α : Type} {l : List α} {g : State → α → State}
    (hg : ∀ s a, s.memOk = true → (g s a).memOk = true) (h : s.memOk = true) : (l.foldl g s).memOk = true :=
  foldl_inv (fun s => s.memOk = true) g l hg s h

theorem memOk_ite {p : Prop} [Decidable p] {a b : State} (ha : a.memOk = true) (hb : b.memOk = true) :
    (if p then a else b).memOk = true := by
  split
  · exact ha
  · exact hb

theorem memOk_getD {o : Option State} {t : State} (ho : ∀ u, o = some u → u.memOk = true) (ht : t.memOk = true) :
    (o.getD t).memOk = true := by
  cases o with
  | none => exact ht
  | some u => exact ho u rfl

section
variable {s : State} {id : CtxId} {wg idx n core ctrl num key cause : Nat} {g : Ctx → Ctx} {eff : Ctx → Regs} {i : Instr}
variable {k : Keystone} {writes : List Nat} {p : PendingWrite} {addr : Word}

/-! ### Changing the parts of the state -/

theorem memOk_mapCtx (h : s.memOk = true) : (s.mapCtx g).memOk = true := h
theorem memOk_onCtx (h : s.memOk = true) : (s.onCtx id g).memOk = true := h
theorem memOk_onTeam {g : Team → Team} (h : s.memOk = true) : (s.onTeam wg idx g).memOk = true := h
theorem memOk_onWg {g : Workgroup → Workgroup} (h : s.memOk = true) : (s.onWg n g).memOk = true := h
theorem memOk_onLaunch {g : Launch → Launch} (h : s.memOk = true) : (s.onLaunch n g).memOk = true := h
theorem memOk_onCore {g : Core → Core} (h : s.memOk = true) : (s.onCore n g).memOk = true := h
theorem memOk_onPart {part : Nat} {g : Part → Part} (h : s.memOk = true) : (s.onPart core part g).memOk = true := h
theorem memOk_onKeystone {g : Keystone → Keystone} (h : s.memOk = true) : (s.onKeystone ctrl num g).memOk = true := h
theorem memOk_onQueue {q : Nat} {g : HostQueue → HostQueue} (h : s.memOk = true) : (s.onQueue q g).memOk = true := h

/-! ### Translations -/

theorem memOk_cacheLeaf {root addr : Nat} (h : s.memOk = true) : (s.cacheLeaf root addr).memOk = true := by
  unfold State.cacheLeaf
  dsimp only
  split
  · exact h
  · split <;> exact h

/-! ### The dispatcher's tests of a PRODUCER -/

theorem memOk_crossing {g : Core → Core} (h : s.memOk = true) : (s.crossing g).memOk = true :=
  memOk_foldl (fun _ _ => memOk_onCore) h

/-! ### At home controllers -/

theorem memOk_ksAct (h : s.memOk = true) : (s.ksAct ctrl num k).memOk = true := by
  unfold State.ksAct
  dsimp only
  split
  · split
    · exact memOk_onWg h
    · exact h
  · split
    · exact memOk_onWg h
    · exact h
  · split
    · exact memOk_ite (memOk_onKeystone (memOk_onCore h)) h
    · exact h
  · exact h

theorem memOk_ksAction (h : s.memOk = true) : (s.ksAction ctrl num k).memOk = true := memOk_ite (memOk_onWg h) (memOk_ksAct h)

theorem memOk_of_fires {t : State} (hf : Fires s t) (h : s.memOk = true) : t.memOk = true := by
  rw [hf]
  exact h

theorem memOk_ksFire {fuel : Nat} (h : s.memOk = true) : (s.ksFire ctrl num fuel).memOk = true :=
  memOk_of_fires (fires_ksFire fuel s ctrl num) h

theorem memOk_ksCount (h : s.memOk = true) : (s.ksCount ctrl num n).memOk = true :=
  memOk_of_fires (fires_ksCount s ctrl num n) h

theorem memOk_unmark (h : s.memOk = true) : (s.unmark key n).memOk = true := memOk_ite h h

theorem memOk_patchL1 {bytes : List Byte} (h : s.memOk = true) : (s.patchL1 core key bytes).memOk = true :=
  memOk_ite (memOk_onCore h) h

theorem memOk_noteFits (h : s.memOk = true) : (s.noteFits key n).memOk = true := memOk_ite h h

theorem memOk_spanOut {op : SpanOp} (h : s.memOk = true) : (s.spanOut key num op).memOk = true := by
  unfold State.spanOut
  refine memOk_ite ?_ h
  dsimp only
  split <;> exact h

theorem memOk_sendWrite (h : s.memOk = true) : (s.sendWrite p).memOk = true := memOk_spanOut h

theorem memOk_markBy {author : CtxId} (h : s.memOk = true) : (s.markBy author num key n).memOk = true := memOk_ite h h

theorem memOk_markWrite (h : s.memOk = true) : (s.markWrite p n).memOk = true := by
  unfold State.markWrite
  refine memOk_ite h ?_
  split
  · exact memOk_markBy h
  · exact h

theorem memOk_perform (h : s.memOk = true) : (s.perform p).memOk = true :=
  memOk_ite (memOk_patchL1 (memOk_markWrite (memOk_homeStore _ _ _ _ (memOk_ite h h))))
    (memOk_markWrite (memOk_homeStore _ _ _ _ (memOk_ite h h)))

theorem memOk_noteRead {r : Viewer} {l1 : Bool} (h : s.memOk = true) : (s.noteRead id num r l1 key n).memOk = true :=
  memOk_ite h h

theorem memOk_fillL1 (h : s.memOk = true) : (s.fillL1 core key).memOk = true := memOk_ite (memOk_onCore h) h

theorem memOk_dropL1 (h : s.memOk = true) : (s.dropL1 core key n).memOk = true := memOk_ite (memOk_onCore h) h

theorem memOk_flushL1 (h : s.memOk = true) : (s.flushL1 core).memOk = true := memOk_ite (memOk_onCore h) h

theorem memOk_takeOver {ids : List CtxId} (h : s.memOk = true) : (s.takeOver ids writes).memOk = true := memOk_ite h h

theorem memOk_noteRelease {v : ScopeSet} (h : s.memOk = true) : (s.noteRelease id v writes).memOk = true := memOk_ite h h

/-! ### Contexts, stops, traps and lanes -/

theorem memOk_trace {c : Ctx} {kind : Nat} {pc : Word} (h : s.memOk = true) : (s.trace c kind pc).memOk = true := by
  unfold State.trace
  dsimp only
  split
  · exact h
  · exact memOk_ite h (memOk_ite h (memOk_ite (memOk_homeStore _ _ _ _ (memOk_onCore (memOk_homeStore _ _ _ _ h)))
      (memOk_homeStore _ _ _ _ (memOk_onCore (memOk_homeStore _ _ _ _ h)))))

theorem memOk_squashFork {f : Fork} (h : s.memOk = true) : (s.squashFork f).memOk = true := by
  unfold State.squashFork
  dsimp only
  split
  · exact memOk_trace h
  · exact h

theorem memOk_dropForks {tix : Nat} (h : s.memOk = true) : (s.dropForks wg tix).memOk = true :=
  memOk_foldl (fun _ _ => memOk_squashFork) h

theorem memOk_exitThread (h : s.memOk = true) : (s.exitThread id).memOk = true := memOk_onCtx (memOk_dropForks h)

theorem memOk_freeFault (h : s.memOk = true) : (s.freeFault core idx).memOk = true := memOk_onCore (memOk_homeStore _ _ _ _ h)

theorem memOk_dropFaults {dead : Nat → Bool} (h : s.memOk = true) : (s.dropFaults core dead).memOk = true :=
  memOk_foldl (fun _ _ => memOk_freeFault) (memOk_onCore (memOk_foldl (fun _ _ h => h) h))

theorem memOk_stopThreads {sel : Nat → Bool} (h : s.memOk = true) : (s.stopThreads sel).memOk = true :=
  memOk_foldl (fun _ _ => memOk_squashFork) h

theorem memOk_meetStops (h : s.memOk = true) : (s.meetStops core).memOk = true :=
  memOk_ite h (memOk_onCore (memOk_dropFaults (memOk_stopThreads h)))

theorem memOk_failLaunch {status : Nat} (h : s.memOk = true) : (s.failLaunch n status).memOk = true := by
  unfold State.failLaunch
  refine memOk_foldl (fun _ _ h => h) ?_
  simpa only [State.memOk] using memOk_stopThreads h

theorem memOk_meetFailures (h : s.memOk = true) : s.meetFailures.memOk = true := by
  unfold State.meetFailures
  refine memOk_foldl (fun _ _ h => ?_) h
  split
  · exact memOk_ite (memOk_failLaunch h) h
  · exact h

theorem memOk_takeTrap {fpc : Word} {word : Code} (h : s.memOk = true) :
    (s.takeTrap id cause addr fpc word).memOk = true := by
  unfold State.takeTrap
  split
  · exact h
  · split
    · exact h
    · split
      · exact memOk_onCtx (memOk_trace h)
      · exact memOk_onLaunch (memOk_exitThread h)

theorem memOk_trapReturn (h : s.memOk = true) : (s.trapReturn id).memOk = true := by
  unfold State.trapReturn
  split
  · exact h
  · exact memOk_onCtx (memOk_trace h)

theorem memOk_settle (h : s.memOk = true) : (s.settle id).memOk = true := by
  unfold State.settle
  split
  · exact h
  · split
    · exact h
    · refine memOk_ite ?_ h
      split
      · exact memOk_takeTrap h
      · exact h

theorem memOk_raise (h : s.memOk = true) : (s.raise id cause addr).memOk = true := memOk_settle h

theorem memOk_laneTrap {e : CtxId × Nat × Word} (h : s.memOk = true) : (laneTrap i s e).memOk = true :=
  memOk_raise (memOk_ite h (memOk_onCtx h))

theorem memOk_lane {d : LaneDo} (h : s.memOk = true) : (lane i d s).memOk = true := memOk_foldl (fun _ _ => memOk_laneTrap) h

theorem outOk_laneAlu (h : s.memOk = true) : OutOk (laneAlu i eff s) := memOk_lane h

theorem outOk_laneLong (h : s.memOk = true) : OutOk (laneLong i eff s) := memOk_lane h

end

end Sys2Proof.Machine
end

section
/-!
PROOF. The canonical form of memory through accesses, their completion and replay, and through what issues (O58).
-/
namespace Sys2Proof.Machine
open Sys2Proof

section
variable {s : State} {id : CtxId} {c : Ctx} {key n core num code cause acc engine base idx wg team part : Nat} {a : Access}
variable {uniform : Bool} {f : Flight} {x : HodChunk} {i : Instr} {bytes : List Byte} {ids : List CtxId} {p : PendingWrite}
variable {pipe : Pipe} {op : SpanOp} {addr pc : Word} {ins : Word × Code} {v : Word × Verdict}

/-! ### Loads, stores and atomics -/

theorem memOk_hitForks (h : s.memOk = true) : (s.hitForks id key n).memOk = true := memOk_ite h h

theorem memOk_postFaults {l : List FaultReq} (h : s.memOk = true) : (s.postFaults core l).memOk = true :=
  memOk_ite h (memOk_onCore h)

theorem memOk_noteLeaf (h : s.memOk = true) : (s.noteLeaf c addr).memOk = true := by
  unfold State.noteLeaf
  refine memOk_ite ?_ h
  split
  · exact memOk_cacheLeaf h
  · exact h

theorem memOk_noteVerdict (h : s.memOk = true) : (s.noteVerdict c v).memOk = true := by
  unfold State.noteVerdict
  split
  · exact memOk_noteLeaf h
  · exact h

theorem memOk_noteLoad {f : LM} (h : s.memOk = true) : (noteLoad f v s c).memOk = true := by
  unfold noteLoad
  refine memOk_ite (memOk_onWg ?_) ?_
  · split
    · exact memOk_ite (memOk_noteVerdict h) (memOk_noteVerdict h)
    · exact memOk_noteVerdict h
  · split
    · exact memOk_ite (memOk_noteVerdict h) (memOk_noteVerdict h)
    · exact memOk_noteVerdict h

theorem outOk_execLd {f : LM} (h : s.memOk = true) : OutOk (execLd f s) :=
  memOk_postFaults (memOk_foldl (fun _ _ => memOk_noteLoad) (memOk_lane h))

theorem memOk_pushStore (h : s.memOk = true) : (s.pushStore core id addr ins key bytes).memOk = true := memOk_ite h h

theorem memOk_parkStore (h : s.memOk = true) : (s.parkStore core id num addr ins bytes).memOk = true := by
  unfold State.parkStore
  dsimp only
  split
  · exact h
  · simpa only [State.memOk] using memOk_pushStore h

theorem memOk_unparkStore (h : s.memOk = true) : (s.unparkStore id num key n).memOk = true := memOk_hitForks h

theorem memOk_ctxStore (h : s.memOk = true) : (s.ctxStore c num addr ins key bytes).memOk = true :=
  memOk_ite (memOk_hitForks (memOk_pushStore h)) h

theorem memOk_noteStore {f : LM} (h : s.memOk = true) : (noteStore f num v s c).memOk = true := by
  unfold noteStore
  dsimp only
  split
  · exact memOk_ctxStore (memOk_noteVerdict h)
  · exact memOk_parkStore (memOk_noteVerdict h)
  · exact memOk_noteVerdict h

theorem outOk_execSt {f : LM} (h : s.memOk = true) : OutOk (execSt f s) :=
  memOk_postFaults (memOk_foldl (fun _ _ => memOk_noteStore) (memOk_lane h))

theorem outOk_execAtomic {f : LXA} (h : s.memOk = true) : OutOk (execAtomic i f n code s) :=
  memOk_postFaults (memOk_foldl (fun _ _ => memOk_noteVerdict) (memOk_lane h))

theorem memOk_fetchFar {root addr : Nat} (h : s.memOk = true) : (s.fetchFar root addr n).memOk = true :=
  memOk_foldl (fun _ _ => memOk_spanOut) h

theorem memOk_threadFetched {addr : Nat} (h : s.memOk = true) : (s.threadFetched c num addr n).memOk = true :=
  memOk_fetchFar (memOk_foldl (fun _ _ => memOk_noteRead) h)

theorem memOk_prefetch {f : LX} (h : s.memOk = true) : (prefetch f s c).memOk = true := by
  unfold prefetch
  dsimp only
  split
  · exact h
  · split
    · exact memOk_ite h (memOk_fillL1 (memOk_ite (memOk_spanOut h) h))
    · exact h

theorem outOk_execPrfm {f : LX} (h : s.memOk = true) : OutOk (execPrfm f s) :=
  memOk_foldl (fun _ _ => memOk_prefetch) (memOk_lane h)

theorem memOk_replayDone (h : s.memOk = true) : (s.replayDone core id num).memOk = true :=
  memOk_ite h (memOk_foldl (fun _ _ => memOk_freeFault) (memOk_onCore h))

theorem memOk_reissued (h : s.memOk = true) : (s.reissued core ids).memOk = true :=
  memOk_ite h (memOk_foldl (fun _ _ => memOk_freeFault) (memOk_onCore h))

theorem memOk_hodReplayed (h : s.memOk = true) : (s.hodReplayed core).memOk = true :=
  memOk_foldl (fun _ _ => memOk_freeFault) h

theorem memOk_setKind {k : FlightKind} (h : s.memOk = true) : (s.setKind id num k).memOk = true := h

theorem memOk_failFlight (h : s.memOk = true) : (s.failFlight id num cause addr).memOk = true := memOk_setKind h

theorem memOk_loseAccess (h : s.memOk = true) : (s.loseAccess c f a uniform acc).memOk = true :=
  memOk_postFaults (memOk_foldl (fun _ _ => memOk_setKind) (memOk_foldl (fun _ _ => memOk_replayDone) h))

theorem memOk_ask (h : s.memOk = true) : (s.ask c f a uniform acc op).memOk = true :=
  memOk_ite (memOk_foldl (fun _ _ => memOk_onCtx) (memOk_spanOut h)) (memOk_ite h (memOk_loseAccess h))

theorem memOk_completeSld (h : s.memOk = true) : (s.completeSld c f a).memOk = true := by
  unfold State.completeSld
  refine memOk_ite h (memOk_ite (memOk_ask h) ?_)
  dsimp only
  split
  · exact memOk_foldl (fun _ _ h => memOk_settle (memOk_replayDone (memOk_failFlight h))) h
  · exact memOk_foldl (fun _ _ h => memOk_settle (memOk_replayDone h))
      (memOk_mapCtx (memOk_onTeam (memOk_fillL1 (memOk_foldl (fun _ _ => memOk_noteRead) h))))

theorem memOk_readPart {part : Nat × Nat} {go : List Byte → State → State} 
    (hgo : ∀ bytes s, s.memOk = true → (go bytes s).memOk = true) (h : s.memOk = true) :
    (s.readPart c f a part go).memOk = true := by
  unfold State.readPart
  dsimp only
  split
  · exact h
  · split
    · exact memOk_ask h
    · split
      · split
        · exact h
        · exact memOk_settle (memOk_replayDone h)
      · exact hgo _ _ (memOk_fillL1 (memOk_noteRead h))

theorem memOk_completeLoad {sx : Bool} (h : s.memOk = true) : (s.completeLoad c f a sx).memOk = true := by
  unfold State.completeLoad
  refine memOk_readPart ?_ h
  intro _ _ h
  exact memOk_settle (memOk_replayDone (memOk_onCtx h))

theorem outOk_execLoadComplete (h : s.memOk = true) : OutOk (execLoadComplete id num s) := by
  unfold execLoadComplete
  split
  · exact h
  · split
    · exact h
    · split
      · split
        · exact memOk_ite (memOk_completeSld h) (memOk_completeLoad h)
        · exact h
      · exact h

theorem memOk_loadHalf {high : Bool} (h : s.memOk = true) : (s.loadHalf id num high).memOk = true := by
  unfold State.loadHalf
  split
  · exact h
  · split
    · exact h
    · split
      · split
        · refine memOk_ite (memOk_readPart ?_ h) h
          intro _ _ h
          exact memOk_onCtx h
        · exact h
      · exact h

theorem memOk_setRegions {regions : List (Nat × Nat)} (h : s.memOk = true) : (s.setRegions num regions).memOk = true := h

theorem memOk_loseWrite (h : s.memOk = true) : (s.loseWrite p).memOk = true := by
  unfold State.loseWrite
  dsimp only
  split
  · split
    · exact h
    · exact memOk_postFaults h
  · exact h

theorem memOk_trapWrite (h : s.memOk = true) : (s.trapWrite p cause).memOk = true := by
  unfold State.trapWrite
  dsimp only
  split
  · exact h
  · exact memOk_mapCtx h

theorem memOk_barWrite (h : s.memOk = true) : (s.barWrite p).memOk = true := memOk_trapWrite h

theorem memOk_advanceWrite (h : s.memOk = true) : (s.advanceWrite p).memOk = true :=
  memOk_ite (memOk_barWrite h) (memOk_ite (memOk_trapWrite h)
    (memOk_ite (memOk_ite (memOk_sendWrite h) (memOk_loseWrite h)) (memOk_perform h)))

theorem memOk_countRuns {runs : List (Nat × Nat)} (h : s.memOk = true) : (s.countRuns runs).memOk = true :=
  memOk_foldl (fun _ _ => memOk_ksCount) h

theorem memOk_sendHod {e : HodSent} (h : s.memOk = true) : (s.sendHod e op).memOk = true := memOk_ite (memOk_spanOut h) h

theorem memOk_enginePut {op : HomeOp} (h : s.memOk = true) : (s.enginePut core engine base key op bytes).memOk = true :=
  memOk_ite (memOk_sendHod h) (memOk_unmark (wf_cellsWrite _ _ _ h))

theorem memOk_engineWrite {op : HomeOp} (h : s.memOk = true) : (s.engineWrite core engine base key op).memOk = true := by
  unfold State.engineWrite
  dsimp only
  split
  · exact memOk_enginePut (memOk_enginePut h)
  · exact memOk_enginePut h

theorem memOk_chunkWrite {l : List (Nat × HomeOp)} (h : s.memOk = true) : (s.chunkWrite core engine base l).memOk = true :=
  memOk_countRuns (memOk_foldl (fun _ _ => memOk_noteFits) (memOk_foldl (fun _ _ => memOk_engineWrite) h))

theorem memOk_landParts (h : s.memOk = true) : (s.landParts x).memOk = true := by
  unfold State.landParts
  split
  · exact h
  · exact memOk_chunkWrite h

theorem memOk_landChunk (h : s.memOk = true) : (s.landChunk x).memOk = true := memOk_landParts h

theorem outOk_execStoreVisible (h : s.memOk = true) : OutOk (execStoreVisible num s) := by
  unfold execStoreVisible
  split
  · exact memOk_ite (memOk_advanceWrite h) h
  · split
    · exact memOk_landChunk h
    · exact h

theorem memOk_performAtomic {y expect : Word} (h : s.memOk = true) : (s.performAtomic c f a code y expect).memOk = true := by
  unfold State.performAtomic
  dsimp only
  split
  · exact memOk_settle (memOk_replayDone (memOk_failFlight h))
  · exact memOk_settle (memOk_replayDone (memOk_onCtx
      (memOk_ite (memOk_hitForks (memOk_dropL1 (memOk_markBy (memOk_homeStore _ _ _ _ (memOk_noteRead h)))))
        (memOk_dropL1 (memOk_markBy (memOk_homeStore _ _ _ _ (memOk_noteRead h)))))))

theorem outOk_execAtomicPerform (h : s.memOk = true) : OutOk (execAtomicPerform id num s) := by
  unfold execAtomicPerform
  split
  · exact h
  · split
    · exact h
    · split
      · split
        · exact memOk_ite h (memOk_ite (memOk_ask h) (memOk_performAtomic h))
        · exact h
      · exact h

theorem outOk_execFaultRecordWrite (h : s.memOk = true) : OutOk (execFaultRecordWrite core s) := by
  unfold execFaultRecordWrite
  dsimp only
  split
  · exact h
  · exact memOk_ite h (memOk_onCore (memOk_homeStore _ _ _ _ h))

theorem memOk_replay (h : s.memOk = true) : (s.replay id num).1.memOk = true := by
  unfold State.replay
  dsimp only
  split
  · exact h
  · split
    · split
      · exact memOk_onCtx h
      · exact memOk_setKind h
      · split
        · split
          · split
            · exact memOk_setKind (memOk_setRegions (memOk_unparkStore (memOk_noteLeaf h)))
            · exact memOk_settle (memOk_onCtx (memOk_unparkStore (memOk_noteLeaf h)))
          · exact memOk_setKind (memOk_noteLeaf h)
        · exact h
        · exact memOk_settle (memOk_failFlight h)
      · exact h
    · exact h

theorem memOk_replayAll {ws : List (CtxId × Nat)} {acc : List FaultReq} (h : s.memOk = true) :
    (replayAll ws s acc).1.memOk = true := by
  induction ws generalizing s acc with
  | nil => exact h
  | cons w ws ih => exact ih (memOk_replay h)

theorem outOk_execFaultResolved (h : s.memOk = true) : OutOk (execFaultResolved core idx s) := by
  unfold execFaultResolved
  dsimp only
  split
  · exact h
  · exact memOk_ite h (memOk_ite (memOk_freeFault
      (memOk_postFaults (memOk_replayAll (memOk_onCore (memOk_homeStore _ _ _ _ h)))))
        (memOk_ite (memOk_freeFault (memOk_replayAll (memOk_onCore (memOk_homeStore _ _ _ _ h))))
          (memOk_onCore (memOk_replayAll (memOk_onCore (memOk_homeStore _ _ _ _ h))))))

theorem outOk_execFaultAbort (h : s.memOk = true) : OutOk (execFaultAbort core idx s) := by
  unfold execFaultAbort
  split
  · exact h
  · extract_lets told aborted reported
    have htold : told.memOk = true := memOk_homeStore _ _ _ _ h
    clear_value told
    have hreported : reported.memOk = true := memOk_onLaunch (memOk_ite htold htold)
    clear_value reported
    exact memOk_ite h (memOk_ite (memOk_freeFault hreported) hreported)

/-! ### Team rendezvous -/

theorem memOk_releaseGroup {group : List Ctx} (h : s.memOk = true) : (s.releaseGroup group).memOk = true := by
  unfold State.releaseGroup
  dsimp only
  split
  · exact h
  · split
    · exact memOk_lane h
    · exact h

theorem memOk_releaseGroups {fuel : Nat} (h : s.memOk = true) : (s.releaseGroups wg team fuel ids).memOk = true := by
  induction fuel generalizing s ids with
  | zero => exact h
  | succ fuel ih =>
    unfold State.releaseGroups
    dsimp only
    split
    · exact h
    · exact ih (memOk_releaseGroup h)

theorem memOk_releaseTeam (h : s.memOk = true) : (s.releaseTeam wg team).memOk = true := memOk_ite (memOk_releaseGroups h) h

theorem outOk_arrive (h : s.memOk = true) : OutOk (arrive i s) :=
  memOk_foldl (fun _ _ => memOk_releaseTeam) (memOk_foldl (fun _ _ => memOk_laneTrap) (memOk_mapCtx h))

/-! ### What tends and issues -/

theorem memOk_raiseFetch (h : s.memOk = true) : (s.raiseFetch id cause addr pc).memOk = true := by
  unfold State.raiseFetch
  dsimp only
  split
  · exact h
  · exact memOk_settle (memOk_reissued h)

theorem memOk_parkFetch {reason level : Nat} (h : s.memOk = true) : (s.parkFetch c pc reason level).memOk = true :=
  memOk_onCore (memOk_reissued h)

theorem memOk_tendHalting (h : s.memOk = true) : (s.tendHalting c).memOk = true := by
  unfold State.tendHalting
  split
  · split
    · exact memOk_takeTrap h
    · exact h
  · exact h

theorem memOk_tend (h : s.memOk = true) : (s.tend id).memOk = true := by
  have hwarned {p : Prop} [Decidable p] {g : Ctx → Ctx} : (if p then s.onCtx id g else s).memOk = true := memOk_ite
    (memOk_onCtx h) h
  unfold State.tend
  dsimp only
  split
  · exact h
  · refine memOk_ite h (memOk_ite (memOk_tendHalting h) (memOk_ite hwarned ?_))
    split
    · refine memOk_ite ?_ hwarned
      split
      · exact memOk_takeTrap hwarned
      · exact hwarned
    · split
      · exact hwarned
      · exact hwarned
      · exact memOk_ite (memOk_raiseFetch hwarned) hwarned
      · exact memOk_ite (memOk_parkFetch hwarned) hwarned

theorem memOk_noteIssue {f : Fetched} {ready : List CtxId} (h : s.memOk = true) :
    (s.noteIssue core part pipe f ready ids).memOk = true :=
  memOk_reissued h

theorem memOk_tendAll (h : s.memOk = true) : (s.tendAll core part).memOk = true := memOk_foldl (fun _ _ => memOk_tend) h

theorem memOk_pickIssue {defer : Bool} (h : s.memOk = true) : (s.pickIssue core part pipe defer).1.memOk = true := by
  unfold State.pickIssue
  split
  · exact h
  · split
    · exact h
    · dsimp only
      split
      · simpa only [State.memOk] using memOk_noteIssue h
      · refine memOk_foldl (fun _ _ => memOk_raise) ?_
        simpa only [State.memOk] using memOk_noteIssue h

end

end Sys2Proof.Machine
end

section
/-!
PROOF. The canonical form of memory through calls, traps, halts, waits, fences and FIFOs (O58).
-/
namespace Sys2Proof.Machine
open Sys2Proof

section
variable {s : State} {id : CtxId} {c callee : Ctx} {num wg tix core team : Nat} {a : Access} {i : Instr} {f : LX} {x : Word}

/-! ### Forked calls -/

theorem memOk_trainReturn (h : s.memOk = true) : (s.trainReturn c).memOk = true := by
  unfold State.trainReturn
  dsimp only
  split
  · exact h
  · exact memOk_ite (memOk_onPart (memOk_onCtx h)) h

theorem memOk_fork {before : Ctx} {slot : Nat} {preds : List Word} {target : Word} (h : s.memOk = true) :
    (s.fork before slot preds target).memOk = true := by
  unfold State.fork
  dsimp only
  split <;> exact h

theorem memOk_commitStore {b : BufStore} (h : s.memOk = true) : (s.commitStore callee num b).memOk = true :=
  memOk_ite (memOk_onCtx h) (memOk_ctxStore h)

theorem memOk_commitFork {f : Fork} {cont : Ctx} (h : s.memOk = true) : (s.commitFork f callee cont).memOk = true :=
  memOk_foldl (fun _ _ => memOk_onPart) (memOk_foldl (fun _ _ => memOk_commitStore) (memOk_onCtx h))

theorem memOk_resolve {f : Fork} (h : s.memOk = true) : (s.resolve f callee).memOk = true := by
  unfold State.resolve
  dsimp only
  split
  · exact h
  · exact memOk_ite (memOk_commitFork h) (memOk_onCtx (memOk_squashFork h))

theorem memOk_collapseFuel {fuel : Nat} (h : s.memOk = true) : (s.collapseFuel wg tix fuel).memOk = true := by
  induction fuel generalizing s with
  | zero => exact h
  | succ fuel ih =>
    unfold State.collapseFuel
    split
    · exact h
    · exact ih (memOk_squashFork h)

theorem memOk_collapse (h : s.memOk = true) : (s.collapse wg tix).memOk = true := memOk_collapseFuel h

theorem memOk_endCall (h : s.memOk = true) : (s.endCall c).memOk = true := by
  unfold State.endCall
  refine memOk_ite h ?_
  dsimp only
  split
  · exact memOk_ite (memOk_resolve h) h
  · split
    · exact h
    · exact memOk_ite (memOk_onCtx h) h

/-! ### Calls, returns, halts -/

theorem memOk_callfThread {p : Pfx} {f : LB} (h : s.memOk = true) : (callfThread p f s c).memOk = true := by
  unfold callfThread
  refine memOk_ite (memOk_onCtx (memOk_onCtx h)) ?_
  dsimp only
  split
  · exact memOk_fork (memOk_onCtx h)
  · exact memOk_onCtx (memOk_onCtx h)

theorem outOk_execCallf {f : LB} (h : s.memOk = true) : OutOk (execCallf f s) :=
  memOk_foldl (fun _ _ => memOk_callfThread) (memOk_lane h)

theorem memOk_retThread (h : s.memOk = true) : (retThread s c).memOk = true := memOk_endCall (memOk_trainReturn h)

theorem outOk_execRet (h : s.memOk = true) : OutOk (execRet f s) := memOk_foldl (fun _ _ => memOk_retThread) (memOk_lane h)

theorem outOk_execTret (h : s.memOk = true) : OutOk (execTret f s) := memOk_foldl (fun _ _ => memOk_trapReturn) (memOk_lane h)

theorem memOk_haltThread {at_ resume : Word} (h : s.memOk = true) : (s.haltThread wg tix at_ resume).memOk = true := by
  unfold State.haltThread
  dsimp only
  split
  · exact memOk_collapse h
  · exact memOk_onCtx (memOk_trace (memOk_reissued (memOk_collapse h)))

theorem memOk_bkptThread (h : s.memOk = true) : (bkptThread s c).memOk = true :=
  memOk_ite (memOk_onCtx h) (memOk_haltThread h)

theorem outOk_execBkpt (h : s.memOk = true) : OutOk (execBkpt f s) := memOk_foldl (fun _ _ => memOk_bkptThread) (memOk_lane h)

theorem memOk_patchSaved {g : Nat × Nat → Nat × Nat} (h : s.memOk = true) : (s.patchSaved id g).memOk = true := by
  unfold State.patchSaved
  dsimp only
  split
  · exact memOk_homeStore _ _ _ _ h
  · exact h

theorem memOk_requestHalts {force : Bool} {sel : CtxId → Bool} (h : s.memOk = true) :
    (s.requestHalts force sel).memOk = true :=
  memOk_foldl (fun _ _ => memOk_patchSaved) (memOk_mapCtx h)

theorem outOk_execHalt (h : s.memOk = true) : OutOk (execHalt f s) :=
  memOk_foldl (fun _ _ => memOk_requestHalts) (memOk_lane h)

theorem outOk_execThreadHalt (h : s.memOk = true) : OutOk (execThreadHalt wg tix s) := by
  unfold execThreadHalt
  dsimp only
  split
  · exact h
  · exact memOk_ite (memOk_haltThread h) h

theorem outOk_execPickerPassoverLimit {part : Nat} {pipe : Pipe} (h : s.memOk = true) :
    OutOk (execPickerPassoverLimit core part pipe s) := by
  unfold execPickerPassoverLimit
  refine memOk_ite h ?_
  split
  · exact h
  · exact memOk_ite h (memOk_onPart h)

/-! ### Waits, barriers, fences and FIFOs -/

theorem memOk_landWith (h : s.memOk = true) : (s.landWith id num x).memOk = true := memOk_settle (memOk_onCtx h)

theorem memOk_landPlain (h : s.memOk = true) : (s.landPlain id num).memOk = true := memOk_settle (memOk_onCtx h)

theorem memOk_tryAll {defer : Bool} {ids : List CtxId} {attempt : State → CtxId → Nat → State} 
    (ha : ∀ s id, s.memOk = true → (attempt s id num).memOk = true) (h : s.memOk = true) :
    (s.tryAll defer ids num attempt).memOk = true := by
  unfold State.tryAll
  split
  · exact h
  · exact memOk_foldl ha h

theorem memOk_dropRanges {l : List (Nat × Nat)} (h : s.memOk = true) : (s.dropRanges core l).memOk = true :=
  memOk_foldl (fun _ _ => memOk_dropL1) h

theorem memOk_completeAcq (h : s.memOk = true) : (s.completeAcq c num a x).memOk = true :=
  memOk_landWith (memOk_noteRead (memOk_replayDone (memOk_dropL1 (memOk_dropRanges h))))

theorem memOk_completeWaita (h : s.memOk = true) : (s.completeWaita c num a x).memOk = true :=
  memOk_landWith (memOk_replayDone (memOk_ite (memOk_flushL1 (memOk_noteRead h)) (memOk_noteRead h)))

theorem memOk_tryWord (h : s.memOk = true) : (s.tryWord id num).memOk = true := by
  unfold State.tryWord
  dsimp only
  split
  · exact h
  · split
    · exact h
    · split
      · refine memOk_ite h (memOk_ite (memOk_ask h) (memOk_ite (memOk_settle (memOk_replayDone (memOk_failFlight h))) ?_))
        split
        · split
          · exact memOk_completeAcq h
          · split
            · exact memOk_settle (memOk_replayDone (memOk_failFlight h))
            · exact memOk_ite (memOk_replayDone h) (memOk_completeAcq h)
        · split
          · exact memOk_settle (memOk_replayDone (memOk_failFlight h))
          · exact memOk_ite (memOk_replayDone h) (memOk_completeWaita h)
        · exact h
      · exact h

theorem outOk_execWordWait {op : Ctx → AccessOp} (h : s.memOk = true) : OutOk (execWordWait i f op s) := by
  unfold execWordWait
  refine memOk_tryAll ?_ (memOk_postFaults (memOk_foldl (fun _ _ => memOk_noteVerdict) (memOk_lane h)))
  intro _ _ h
  exact memOk_tryWord h

theorem outOk_execAcqComplete (h : s.memOk = true) : OutOk (execAcqComplete id num s) := by
  unfold execAcqComplete
  split
  · split
    · split
      · exact memOk_tryWord h
      · exact h
    · exact h
  · exact h

theorem outOk_execWaitaComplete (h : s.memOk = true) : OutOk (execWaitaComplete id num s) := by
  unfold execWaitaComplete
  split
  · split
    · split
      · exact memOk_tryWord h
      · exact h
    · exact h
  · exact h

theorem memOk_relThread {v : Word × Verdict} (h : s.memOk = true) : (relThread f num v s c).memOk = true := by
  unfold relThread
  dsimp only
  split
  · exact memOk_setKind (memOk_hitForks (memOk_setRegions (memOk_pushStore (memOk_noteVerdict h))))
  · exact memOk_setRegions (memOk_parkStore (memOk_noteVerdict h))
  · exact memOk_noteVerdict h

theorem outOk_execRel (h : s.memOk = true) : OutOk (execRel f s) :=
  memOk_postFaults (memOk_foldl (fun _ _ => memOk_relThread) (memOk_lane h))

theorem memOk_tryTags (h : s.memOk = true) : (s.tryTags id num).memOk = true := by
  unfold State.tryTags
  split
  · exact h
  · split
    · exact h
    · split
      · exact memOk_ite (memOk_landPlain (memOk_ite h (memOk_flushL1 h))) h
      · exact h

theorem outOk_execWaitt (h : s.memOk = true) : OutOk (execWaitt f s) := by
  unfold execWaitt
  refine memOk_tryAll ?_ (memOk_lane h)
  intro _ _ h
  exact memOk_tryTags h

theorem outOk_execFfrt (h : s.memOk = true) : OutOk (execFfrt f s) := memOk_ite (memOk_lane h) (memOk_flushL1 (memOk_lane h))

theorem memOk_tryPhase {n : Nat} (h : s.memOk = true) : (s.tryPhase wg n).memOk = true := by
  unfold State.tryPhase
  refine memOk_ite h (memOk_foldl (fun _ _ h => ?_)
    (memOk_takeOver (memOk_ite (memOk_onWg h) (memOk_flushL1 (memOk_onWg h)))))
  split
  · exact memOk_landPlain h
  · exact h

theorem outOk_execBar (h : s.memOk = true) : OutOk (execBar f s) :=
  memOk_ite (memOk_foldl (fun _ _ => memOk_onWg) (memOk_lane h))
    (memOk_foldl (fun _ _ => memOk_tryPhase) (memOk_foldl (fun _ _ => memOk_onWg) (memOk_lane h)))

theorem memOk_tryFence (h : s.memOk = true) : (s.tryFence id num).memOk = true := by
  unfold State.tryFence
  split
  · exact h
  · split
    · exact h
    · split
      · extract_lets released flushed taken
        have hreleased : released.memOk = true := by
          unfold released
          split
          · exact memOk_noteRelease h
          · exact h
        clear_value released
        exact memOk_ite h (memOk_landPlain (memOk_ite (memOk_takeOver (memOk_ite (memOk_flushL1 hreleased) hreleased))
          (memOk_ite (memOk_flushL1 hreleased) hreleased)))
      · exact memOk_ite (memOk_landPlain (memOk_takeOver (memOk_flushL1 h))) h
      · exact h

theorem outOk_execFence {kind scope : Nat} (h : s.memOk = true) : OutOk (execFence i kind scope s) := by
  unfold execFence
  refine memOk_tryAll ?_ (memOk_lane h)
  intro _ _ h
  exact memOk_tryFence h

theorem outOk_execFenceHv (h : s.memOk = true) : OutOk (execFenceHv f s) := by
  unfold execFenceHv
  refine memOk_tryAll ?_ (memOk_lane h)
  intro _ _ h
  exact memOk_tryFence h

theorem memOk_drainCore (h : s.memOk = true) : (s.drainCore core).memOk = true :=
  memOk_foldl (fun _ _ h => memOk_ite (memOk_advanceWrite h) h) h

theorem outOk_execFenceHvRequest (h : s.memOk = true) : OutOk (execFenceHvRequest id num core s) := by
  unfold execFenceHvRequest
  dsimp only
  split
  · exact h
  · split
    · exact h
    · split
      · exact memOk_ite (memOk_ite (memOk_setKind (memOk_flushL1 (memOk_drainCore h))) (memOk_flushL1 (memOk_drainCore h))) h
      · exact h

theorem memOk_tryVqput (h : s.memOk = true) : (s.tryVqput wg team).memOk = true := by
  unfold State.tryVqput
  dsimp only
  split
  · refine memOk_ite h (memOk_foldl (fun _ _ h => ?_) (memOk_onTeam (memOk_onCore h)))
    split
    · exact memOk_landPlain h
    · exact h
  · exact h

theorem memOk_tryVqget (h : s.memOk = true) : (s.tryVqget wg team).memOk = true := by
  unfold State.tryVqget
  dsimp only
  split
  · split
    · exact h
    · refine memOk_ite h (memOk_foldl (fun _ _ h => ?_) (memOk_onTeam (memOk_takeOver (memOk_flushL1 (memOk_onCore h)))))
      split
      · exact memOk_landWith h
      · exact h
  · exact h

theorem memOk_vqArrive {d : LaneDo} {put : Bool} (h : s.memOk = true) : (vqArrive i d put s).memOk = true :=
  memOk_ite (memOk_lane h) (memOk_foldl (fun _ _ h => memOk_ite (memOk_tryVqput h) (memOk_tryVqget h)) (memOk_lane h))

end

end Sys2Proof.Machine
end

section
/-!
PROOF. The canonical form of memory through uniform words, assays and engine commands (O58).
-/
namespace Sys2Proof.Machine
open Sys2Proof

section
variable {s : State} {n key wg team : Nat} {pinned : Bool} {d : Desk} {i : Instr} {l : Launch} {bytes : List Byte} {f : SA}
variable {r : State} {addr : Word}

/-! ### Uniform words -/

theorem memOk_teamTrap {cause : Nat} (h : s.memOk = true) : (teamTrap i cause addr s).memOk = true :=
  memOk_foldl (fun _ _ => memOk_laneTrap) h

theorem memOk_teamPark {acc : Nat} {reason level : Nat} (h : s.memOk = true) :
    (teamPark acc addr reason level s).memOk = true :=
  memOk_postFaults h

theorem memOk_uniform {d : TeamDo} (h : s.memOk = true) : (uniform i d s).memOk = true := by
  unfold uniform
  refine memOk_ite (memOk_teamTrap h) (memOk_ite (memOk_teamTrap h) ?_)
  split
  · exact memOk_teamTrap h
  · exact memOk_teamPark h
  · exact h

theorem outOk_uniPut {d : Reg} {x : Word} (h : s.memOk = true) : OutOk (uniPut i d x s) := memOk_uniform h

theorem memOk_noteTeamLeaf (h : s.memOk = true) : (s.noteTeamLeaf addr).memOk = true := by
  unfold State.noteTeamLeaf
  split
  · exact memOk_noteLeaf h
  · exact h

theorem outOk_execSld {f : SI} (h : s.memOk = true) : OutOk (execSld f s) := by
  unfold execSld
  dsimp only
  split
  · exact memOk_postFaults (memOk_uniform h)
  · exact memOk_noteTeamLeaf (memOk_uniform h)
  · exact memOk_uniform h

theorem outOk_execSst {f : SI} (h : s.memOk = true) : OutOk (execSst f s) := by
  unfold execSst
  dsimp only
  split
  · exact memOk_foldl (fun _ _ => memOk_hitForks) (memOk_pushStore (memOk_noteTeamLeaf (memOk_uniform h)))
  · exact memOk_postFaults (memOk_parkStore (memOk_uniform h))
  · exact memOk_uniform h

theorem outOk_execSwr {f : SI} (h : s.memOk = true) : OutOk (execSwr f s) := by
  unfold execSwr
  dsimp only
  split
  · exact memOk_onWg (memOk_uniform h)
  · exact memOk_uniform h

theorem memOk_teamFetched {addr : Nat} (h : s.memOk = true) : (r.teamFetched s addr n).memOk = true :=
  memOk_fetchFar (memOk_foldl (fun _ _ => memOk_noteRead) h)

theorem outOk_execNetld (h : s.memOk = true) : OutOk (execNetld f s) := by
  unfold execNetld
  dsimp only
  split
  · exact memOk_uniform h
  · exact memOk_uniform h
  · exact memOk_teamFetched (memOk_noteTeamLeaf (memOk_onPart (memOk_uniform h)))

theorem outOk_execBinding {r : Nat × List Binding} (h : s.memOk = true) : OutOk (execBinding i f r s) := by
  unfold execBinding
  dsimp only
  split <;> exact memOk_uniform h

theorem outOk_execGset (h : s.memOk = true) : OutOk (execGset f s) :=
  memOk_ite (memOk_uniform h) (memOk_ite (memOk_uniform h) (memOk_onWg (memOk_onWg (memOk_uniform h))))

/-! ### Assays -/

theorem memOk_asputThread {f : LA} {c : Ctx} (h : s.memOk = true) : (asputThread f s c).memOk = true :=
  memOk_ite (memOk_onWg h) h

theorem outOk_execAsput {f : LA} (h : s.memOk = true) : OutOk (execAsput f s) :=
  memOk_foldl (fun _ _ => memOk_asputThread) (memOk_lane h)

theorem memOk_putAssay {a : Assay} (h : s.memOk = true) : (s.putAssay key a).memOk = true := putAssay_memOk s key a h

theorem memOk_openSlots (h : s.memOk = true) : (s.openSlots l).memOk = true := memOk_foldl (fun _ _ => memOk_putAssay) h

theorem memOk_commitSlots {x : Sample} (h : s.memOk = true) : (s.commitSlots l x).memOk = true :=
  memOk_foldl (fun _ _ => memOk_putAssay) h

theorem memOk_commitDue (h : s.memOk = true) : (s.commitDue n).memOk = true := by
  unfold State.commitDue
  dsimp only
  split
  · exact h
  · split
    · exact h
    · exact memOk_onLaunch (memOk_commitSlots h)

theorem outOk_execAssayFinalisation (h : s.memOk = true) : OutOk (execAssayFinalisation n s) := by
  unfold execAssayFinalisation
  dsimp only
  split
  · exact h
  · exact memOk_ite h (memOk_onLaunch (memOk_foldl (fun _ _ => memOk_putAssay) h))

theorem memOk_foldGen {gen : Nat} (h : s.memOk = true) : (s.foldGen l key gen).memOk = true := memOk_ite (memOk_onWg h) h

theorem memOk_assayCopy {at_ : Nat} (h : s.memOk = true) : (assayCopy i f l key at_ pinned s).memOk = true :=
  memOk_flushL1 (memOk_foldl (fun _ _ => memOk_hitForks) (memOk_foldGen (memOk_pushStore (memOk_uniform h))))

theorem memOk_execAssayRead (h : s.memOk = true) : (execAssayRead i f pinned s).memOk = true := by
  unfold execAssayRead
  dsimp only
  split
  · exact h
  · refine memOk_ite (memOk_uniform h) (memOk_ite (memOk_uniform h) (memOk_ite (memOk_uniform h) ?_))
    split
    · exact memOk_uniform h
    · exact h
    · split
      · exact memOk_uniform h
      · exact memOk_uniform h
      · exact h
      · split
        · exact memOk_uniform h
        · exact memOk_ite h (memOk_noteTeamLeaf (memOk_assayCopy h))

theorem memOk_tryAswaitOf {f : Flight} {threshold : Word} (h : s.memOk = true) :
    (s.tryAswaitOf wg team f key threshold).memOk = true := by
  unfold State.tryAswaitOf
  dsimp only
  split
  · exact h
  · exact memOk_foldl (fun _ _ h => memOk_settle h) h
  · refine memOk_foldl (fun _ _ => memOk_landPlain) ?_
    refine memOk_flushL1 ?_
    split
    · exact memOk_ite (memOk_onWg (memOk_onTeam h)) (memOk_onTeam h)
    · exact memOk_onTeam h

theorem memOk_tryAswait (h : s.memOk = true) : (s.tryAswait wg team).memOk = true := by
  unfold State.tryAswait
  split
  · refine memOk_ite h (memOk_foldl (fun _ _ h => ?_) h)
    split
    · exact memOk_ite h (memOk_tryAswaitOf h)
    · exact h
  · exact h

theorem outOk_execAswait (h : s.memOk = true) : OutOk (execAswait f s) := by
  unfold execAswait
  dsimp only
  split
  · exact h
  · refine memOk_ite (memOk_uniform h) (memOk_ite (memOk_uniform h) ?_)
    split
    · exact memOk_uniform h
    · exact h
    · exact memOk_ite (memOk_noteFits (memOk_uniform h)) (memOk_tryAswait (memOk_noteFits (memOk_uniform h)))

/-! ### Engine commands -/

theorem memOk_withRecord {align : Nat} {k : List Byte → State} 
    (hk : ∀ bytes, (k bytes).memOk = true) (h : s.memOk = true) : (withRecord i d addr n align k s).memOk = true := by
  unfold withRecord
  split
  · exact memOk_uniform h
  · exact memOk_uniform h
  · exact hk _

theorem memOk_taskFetched {addr : Nat} (h : s.memOk = true) : (r.taskFetched d addr bytes s).memOk = true :=
  memOk_teamFetched (memOk_teamFetched h)

theorem outOk_execTask (h : s.memOk = true) : OutOk (execTask f s) := by
  unfold execTask
  split
  · exact h
  · refine memOk_withRecord (fun bytes => ?_) h
    split
    · exact memOk_taskFetched (memOk_uniform h)
    · exact memOk_ite h (memOk_taskFetched (memOk_noteTeamLeaf (memOk_uniform h)))

theorem outOk_execLoom (h : s.memOk = true) : OutOk (execLoom f s) := by
  unfold execLoom
  dsimp only
  split
  · exact h
  · split
    · split
      · exact memOk_ite h (memOk_teamFetched (memOk_noteTeamLeaf (memOk_onWg (memOk_uniform h))))
      · exact memOk_teamFetched (memOk_onWg (memOk_uniform h))
    · exact memOk_onWg (memOk_uniform h)
    · exact memOk_onWg (memOk_uniform h)

theorem memOk_startCopiesFrom {fuel : Nat} (h : s.memOk = true) : (s.startCopiesFrom wg fuel).memOk = true := by
  induction fuel generalizing s with
  | zero => exact h
  | succ fuel ih =>
    unfold State.startCopiesFrom
    dsimp only
    split
    · exact h
    · split
      · exact h
      · split
        · exact h
        · split <;> exact ih h

theorem memOk_startCopies (h : s.memOk = true) : (s.startCopies wg).memOk = true := memOk_startCopiesFrom h

theorem memOk_hodArrive {k : Nat} {desc : List Byte} {e : HodEntry} (h : s.memOk = true) :
    (s.hodArrive wg team k desc e).memOk = true :=
  memOk_startCopies (memOk_onWg (memOk_onTeam h))

theorem outOk_execHod (h : s.memOk = true) : OutOk (execHod f s) := by
  unfold execHod
  dsimp only
  split
  · split
    · exact memOk_uniform h
    · exact memOk_uniform h
    · split
      · exact memOk_ite h (memOk_teamFetched (memOk_noteTeamLeaf (memOk_hodArrive (memOk_uniform h))))
      · exact memOk_teamFetched (memOk_hodArrive (memOk_uniform h))
      · exact memOk_teamFetched (memOk_uniform h)
  · exact h

theorem memOk_ksFetched {addr : Nat} (h : s.memOk = true) : (r.ksFetched d addr bytes s).memOk = true := by
  unfold State.ksFetched
  refine memOk_ite ?_ (memOk_teamFetched h)
  split
  · exact memOk_taskFetched (memOk_teamFetched h)
  · exact memOk_teamFetched h

theorem outOk_execKsarm (h : s.memOk = true) : OutOk (execKsarm f s) := by
  unfold execKsarm
  dsimp only
  split
  · exact memOk_uniform h
  · split
    · exact h
    · refine memOk_withRecord (fun bytes => ?_) h
      split
      · exact memOk_ksFetched (memOk_uniform h)
      · split
        · split
          · exact memOk_ksFetched (memOk_uniform h)
          · exact memOk_ite h (memOk_ksFetched (memOk_noteTeamLeaf (memOk_noteTeamLeaf (memOk_onKeystone (memOk_uniform h)))))
        · exact memOk_ksFetched (memOk_uniform h)
      · exact memOk_ksFetched (memOk_uniform h)

theorem outOk_execKsdis (h : s.memOk = true) : OutOk (execKsdis f s) := by
  unfold execKsdis
  dsimp only
  split
  · exact memOk_uniform h
  · split
    · exact memOk_ite (memOk_onKeystone (memOk_uniform h)) (memOk_uniform h)
    · exact memOk_uniform h

theorem outOk_execKsrd (h : s.memOk = true) : OutOk (execKsrd f s) := by
  unfold execKsrd
  dsimp only
  split <;> exact memOk_uniform h

theorem outOk_execQfence (h : s.memOk = true) : OutOk (execQfence f s) := by
  unfold execQfence
  dsimp only
  split
  · exact h
  · exact memOk_ite (memOk_uniform h) (memOk_ite (memOk_uniform h) (memOk_ite h (memOk_uniform h)))

end

end Sys2Proof.Machine
end

section
/-!
PROOF. The canonical form of memory through the foreman, the Hod, the Loom and owned buffers (O58).
-/
namespace Sys2Proof.Machine
open Sys2Proof

section
variable {s : State} {core q num ctrl wg addr engine base : Nat} {hold : Bool} {k : Keystone} {f : LX}
variable {l : List (Nat × HomeOp)} {after : List Nat} {r : QRec} {x : Running} {t : Team}

/-! ### The foreman -/

theorem memOk_updateSucc (h : s.memOk = true) : (s.updateSucc core r after).memOk = true := by
  unfold State.updateSucc
  split <;> exact h

theorem memOk_setRecTag (h : s.memOk = true) : (s.setRecTag r).memOk = true := by
  unfold State.setRecTag
  split
  · exact memOk_ite h (memOk_onWg h)
  · exact h

theorem memOk_reportRec {status fcode bytes faddr : Nat} (h : s.memOk = true) :
    (s.reportRec core r status fcode bytes faddr).memOk = true :=
  memOk_foldl (fun _ _ h => h) h

theorem memOk_discard (h : s.memOk = true) : (s.discard core q r).memOk = true := memOk_updateSucc (memOk_onCore h)

theorem memOk_refuseRec (h : s.memOk = true) : (s.refuseRec core q r).memOk = true := memOk_discard (memOk_reportRec h)

theorem memOk_fenceAfter (h : s.memOk = true) : (s.fenceAfter num after).memOk = true := memOk_ite h h

theorem memOk_endTask (h : s.memOk = true) : (s.endTask core q r after).memOk = true :=
  memOk_updateSucc (memOk_fenceAfter (memOk_onCore h))

theorem memOk_takeTask (h : s.memOk = true) : (s.takeTask core q t r).memOk = true :=
  memOk_flushL1 (memOk_mapCtx (memOk_onTeam (memOk_onCore (memOk_onCore h))))

theorem memOk_endServe {value : Nat} (h : s.memOk = true) : (s.endServe t core value).memOk = true :=
  memOk_flushL1 (memOk_mapCtx (memOk_onTeam h))

theorem memOk_startHead (h : s.memOk = true) : (s.startHead core q r).memOk = true := by
  unfold State.startHead
  dsimp only
  split
  · split
    · exact memOk_takeTask h
    · exact h
  · exact memOk_ite (memOk_refuseRec (memOk_setRecTag h)) (memOk_ite (memOk_onCore (memOk_onCore h)) h)
  · exact memOk_onCore (memOk_onCore h)
  · exact memOk_ite h (memOk_onCore (memOk_onCore h))
  · exact h

theorem memOk_startCoreCopies (h : s.memOk = true) : (s.startCoreCopies core).memOk = true :=
  memOk_foldl (fun _ _ => memOk_startCopies) h

theorem outOk_execForemanStart (h : s.memOk = true) : OutOk (execForemanStart core q s) := by
  unfold execForemanStart
  dsimp only
  split
  · exact memOk_ite (memOk_startCoreCopies h) h
  · refine memOk_ite (memOk_refuseRec (memOk_ite (memOk_startCoreCopies h) h)) ?_
    split
    · exact memOk_ite (memOk_startCoreCopies h) h
    · exact memOk_discard (memOk_ite (memOk_startCoreCopies h) h)
    · exact memOk_startHead (memOk_ite (memOk_startCoreCopies h) h)

theorem memOk_tryTeamTask (h : s.memOk = true) : (s.tryTeamTask core q).memOk = true := by
  unfold State.tryTeamTask
  split
  · exact h
  · exact memOk_ite (memOk_endTask h) h

theorem outOk_execQfenceComplete (h : s.memOk = true) : OutOk (execQfenceComplete core q s) := by
  unfold execQfenceComplete
  split
  · exact h
  · exact memOk_ite (memOk_discard h) h

theorem memOk_endEos {next : EosNext} (h : s.memOk = true) : (s.endEos core q r next).memOk = true := by
  unfold State.endEos
  dsimp only
  split
  · refine memOk_updateSucc (memOk_fenceAfter ?_)
    split <;> exact h
  · refine memOk_updateSucc ?_
    split
    · exact h
    · exact h
    · exact memOk_onCore h

theorem memOk_eosFetch (h : s.memOk = true) : (s.eosFetch core r).memOk = true := by
  unfold State.eosFetch
  dsimp only
  split
  · exact memOk_fetchFar h
  · exact h

theorem outOk_execEosComplete (h : s.memOk = true) : OutOk (execEosComplete core q s) := by
  unfold execEosComplete
  dsimp only
  split
  · exact h
  · refine memOk_ite h (memOk_ite h (memOk_ite (memOk_endEos (memOk_eosFetch h)) ?_))
    split
    · exact memOk_endServe (memOk_endEos (memOk_eosFetch h))
    · exact h

theorem memOk_lateAction (h : s.memOk = true) : (s.lateAction ctrl num).memOk = true := memOk_ite (memOk_onKeystone h) h

theorem memOk_enterQueue {idx : Nat} (h : s.memOk = true) : (s.enterQueue core idx).memOk = true := by
  unfold State.enterQueue
  split <;> exact h

theorem memOk_ksAfter (h : s.memOk = true) : (s.ksAfter ctrl num k).memOk = true :=
  memOk_ite (memOk_onKeystone h) (memOk_ksFire (memOk_onKeystone h))

theorem memOk_drainHeldFuel {fuel : Nat} (h : s.memOk = true) : (s.drainHeldFuel wg fuel).memOk = true := by
  induction fuel generalizing s with
  | zero => exact h
  | succ fuel ih =>
    unfold State.drainHeldFuel
    split
    · split
      · exact h
      · exact ih (memOk_ksAct h)
    · exact h

theorem memOk_drainHeld (h : s.memOk = true) : (s.drainHeld wg).memOk = true := memOk_drainHeldFuel h

theorem memOk_drainOwner (h : s.memOk = true) : (s.drainOwner k).memOk = true := by
  unfold State.drainOwner
  split
  · exact memOk_ite (memOk_drainHeld h) h
  · exact h

theorem outOk_execKeystonePendingEnqueue (h : s.memOk = true) : OutOk (execKeystonePendingEnqueue ctrl num s) :=
  memOk_ite (memOk_ksAfter (memOk_ksAction (memOk_drainOwner h))) (memOk_drainOwner h)

theorem memOk_endServes (h : s.memOk = true) : (s.endServes core).memOk = true := memOk_foldl (fun _ _ => memOk_endServe) h

theorem outOk_execIdleTreeSample (h : s.memOk = true) : OutOk (execIdleTreeSample s) := by
  unfold execIdleTreeSample
  refine memOk_ite h ?_
  split
  · exact h
  · exact memOk_ite h (memOk_ite (memOk_foldl (fun _ _ => memOk_onTeam) h) h)

/-! ### The Hod -/

theorem memOk_hodFault {acc reason level : Nat} (h : s.memOk = true) :
    (s.hodFault core x addr acc reason level).memOk = true :=
  memOk_postFaults (memOk_onCore h)

theorem memOk_askFar {l : List (Nat × Nat × Nat)} (h : s.memOk = true) : (s.askFar core engine l).memOk = true :=
  memOk_foldl (fun _ _ h => memOk_onCore (memOk_spanOut h)) h

theorem memOk_resend (h : s.memOk = true) : (s.resend core engine).memOk = true := memOk_foldl (fun _ _ => memOk_sendHod) h

theorem memOk_resendHod (h : s.memOk = true) : (s.resendHod core x).memOk = true := by
  unfold State.resendHod
  dsimp only
  split
  · exact memOk_hodReplayed (memOk_resend h)
  · exact memOk_hodFault (memOk_hodReplayed (memOk_resend h))

theorem memOk_putChunk (h : s.memOk = true) : (s.putChunk core base l hold).memOk = true := memOk_ite h (memOk_landParts h)

theorem memOk_moveChunk {m : Nat} (h : s.memOk = true) : (s.moveChunk core x m base hold).memOk = true := by
  unfold State.moveChunk
  refine memOk_ite h ?_
  split
  · exact memOk_hodFault (memOk_onCore (memOk_hodReplayed h))
  · exact memOk_onCore (memOk_hodReplayed h)
  · refine memOk_ite (memOk_askFar h) ?_
    split
    · exact memOk_hodFault (memOk_onCore (memOk_hodReplayed h))
    · exact h
    · exact memOk_ite h (memOk_putChunk (memOk_onCore (memOk_hodReplayed h)))

theorem memOk_stepChunk (h : s.memOk = true) : (s.stepChunk core hold).memOk = true := by
  unfold State.stepChunk
  dsimp only
  split
  · exact h
  · refine memOk_ite h (memOk_ite (memOk_ite h (memOk_resendHod h)) (memOk_ite h ?_))
    split
    · exact memOk_moveChunk h
    · exact memOk_onCore h

theorem memOk_holdChunk (h : s.memOk = true) : (s.holdChunk core).memOk = true := memOk_stepChunk h

theorem outOk_execHodCopyComplete (h : s.memOk = true) : OutOk (execHodCopyComplete core s) := by
  unfold execHodCopyComplete
  dsimp only
  split
  · exact h
  · exact memOk_ite h (memOk_endTask (memOk_ite
      (memOk_reportRec (memOk_ite (memOk_setRecTag (memOk_hodReplayed h)) (memOk_hodReplayed h)))
        (memOk_ite (memOk_setRecTag (memOk_hodReplayed h)) (memOk_hodReplayed h))))

/-! ### The Loom and the Quarry -/

theorem memOk_poison {p : List Nat} (h : s.memOk = true) : ({ s with poison := p } : State).memOk = true := h

theorem memOk_setAccRow {row : Nat} {codes : List Nat} {bad : Nat → Bool} (h : s.memOk = true) :
    (s.setAccRow core row codes bad).memOk = true :=
  memOk_foldl (fun _ _ h => memOk_ite (memOk_poison h) h) (wf_cellsWrite _ _ _ h)

theorem memOk_farFirst {l : List (Nat × Nat)} {t : State} 
    (ht : s.farFirst core engine x l = some t) (h : s.memOk = true) : t.memOk = true := by
  unfold State.farFirst at ht
  dsimp only at ht
  split at ht
  · cases ht
  · split at ht
    · cases ht
      exact memOk_askFar h
    · cases ht
      exact h

theorem outOk_execLoomWload (h : s.memOk = true) : OutOk (execLoomWload core s) := by
  unfold execLoomWload
  split
  · exact h
  · refine memOk_ite h ?_
    split
    · next hfar => exact memOk_farFirst hfar h
    · exact h

theorem outOk_execLoomMmul (h : s.memOk = true) : OutOk (execLoomMmul core s) := by
  unfold execLoomMmul
  split
  · refine memOk_ite h ?_
    split
    · next hfar => exact memOk_farFirst hfar h
    · exact memOk_setAccRow h
  · exact h

theorem memOk_putRow (h : s.memOk = true) : (s.putRow core engine addr l hold).memOk = true := memOk_ite h (memOk_landParts h)

theorem memOk_drainStep (h : s.memOk = true) : (s.drainStep core hold).memOk = true := by
  unfold State.drainStep
  split
  · extract_lets r row n size codes bad firstBad bytes addr place cleared moved
    have hcleared : cleared.memOk = true := memOk_ite (memOk_setAccRow h) h
    have hmoved : moved.memOk = true := hcleared
    clear_value place moved
    refine memOk_ite h ?_
    split
    · exact memOk_putRow hmoved
    · exact hmoved
    · exact hmoved
  · exact h

theorem memOk_holdRow (h : s.memOk = true) : (s.holdRow core).memOk = true := memOk_drainStep h

theorem outOk_execLoomZero (h : s.memOk = true) : OutOk (execLoomZero core s) := by
  unfold execLoomZero
  split
  · exact h
  · simpa only [OutOk, State.onRunning, State.onCore, State.memOk] using memOk_setAccRow h

theorem outOk_execLoomTaskComplete (h : s.memOk = true) : OutOk (execLoomTaskComplete core s) := by
  unfold execLoomTaskComplete
  split
  · exact h
  · exact memOk_ite h (memOk_ite (memOk_resend h) (memOk_endTask (memOk_reportRec (memOk_setRecTag h))))

theorem memOk_quarryWrite {chunk : Nat} (h : s.memOk = true) : (s.quarryWrite core chunk).memOk = true := by
  unfold State.quarryWrite
  dsimp only
  split
  · exact h
  · refine memOk_ite h ?_
    split
    · exact h
    · exact memOk_ite h (memOk_putRow (memOk_onCore h))

theorem memOk_quarryFetch (h : s.memOk = true) : (s.quarryFetch core x).memOk = true := by
  unfold State.quarryFetch
  split
  · split
    · exact h
    · exact memOk_getD (fun _ ht => memOk_farFirst ht h) h
  · exact h

theorem outOk_execQuarryTaskComplete (h : s.memOk = true) : OutOk (execQuarryTaskComplete core s) := by
  unfold execQuarryTaskComplete
  dsimp only
  split
  · exact h
  · refine memOk_ite h (memOk_ite (memOk_quarryFetch h) ?_)
    split
    · exact memOk_foldl (fun _ _ => memOk_quarryWrite) h
    · exact memOk_ite (memOk_foldl (fun _ _ => memOk_quarryWrite) h)
        (memOk_ite (memOk_resend (memOk_foldl (fun _ _ => memOk_quarryWrite) h))
          (memOk_endTask (memOk_reportRec (memOk_setRecTag (memOk_foldl (fun _ _ => memOk_quarryWrite) h)))))

/-! ### Owned buffers -/

theorem memOk_tryHgive {id : CtxId} (h : s.memOk = true) : (s.tryHgive id num).memOk = true := by
  unfold State.tryHgive
  dsimp only
  split
  · exact h
  · split
    · exact memOk_ite h (memOk_ite (memOk_landWith h) (memOk_ite h (memOk_landWith (memOk_onCore h))))
    · exact h

theorem outOk_execHgive (h : s.memOk = true) : OutOk (execHgive f s) := by
  unfold execHgive
  refine memOk_tryAll ?_ (memOk_lane h)
  intro _ _ h
  exact memOk_tryHgive h

theorem memOk_htakeThread {c : Ctx} (h : s.memOk = true) : (htakeThread f s c).memOk = true := by
  unfold htakeThread
  refine memOk_onCtx ?_
  split
  · exact memOk_flushL1 (memOk_onCore h)
  · exact h

theorem outOk_execHtake (h : s.memOk = true) : OutOk (execHtake f s) :=
  memOk_foldl (fun _ _ => memOk_htakeThread) (memOk_lane h)

end

end Sys2Proof.Machine
end

section
/-!
PROOF. The canonical form of memory through the lives of workgroups and grids: retirement, completion, start, placement,
pre-emption and restore (O58).
-/
namespace Sys2Proof.Machine
open Sys2Proof

section
variable {s : State} {id : CtxId} {n wg num q core base : Nat} {f : LX} {l : Launch} {rcd : List Byte} {t : State}
variable {w : Workgroup}

/-! ### EXIT and retirement -/

theorem memOk_contribute (h : s.memOk = true) : (s.contribute l w).memOk = true := by
  unfold State.contribute
  refine memOk_ite h ?_
  dsimp only
  split
  · exact memOk_onLaunch (memOk_fetchFar h)
  · exact h

theorem memOk_freeImage {addr : Nat} (h : s.memOk = true) : (s.freeImage addr).memOk = true := memOk_homeStore _ _ _ _ h

theorem memOk_letReturn {launch : Nat} (h : s.memOk = true) : (s.letReturn launch).memOk = true := by
  unfold State.letReturn
  split
  · exact memOk_onWg h
  · exact h

theorem memOk_retireWg (h : s.memOk = true) : (s.retireWg n).memOk = true := by
  unfold State.retireWg
  split
  · extract_lets lost dropped given freed left out
    have hgiven : given.memOk = true := memOk_contribute h
    have hfreed : freed.memOk = true := by
      unfold freed
      split
      · exact memOk_freeImage hgiven
      · exact hgiven
    clear_value freed
    exact memOk_letReturn hfreed
  · exact h

theorem memOk_tryRetire (h : s.memOk = true) : (s.tryRetire n).memOk = true := by
  unfold State.tryRetire
  dsimp only
  split
  · exact memOk_ite h (memOk_ite (memOk_retireWg (memOk_drainHeld (memOk_startCopies h)))
      (memOk_drainHeld (memOk_startCopies h)))
  · exact h

theorem memOk_afterExit {team : Nat} (h : s.memOk = true) : (s.afterExit wg team).memOk = true := by
  unfold State.afterExit
  refine memOk_tryRetire (memOk_foldl (fun _ _ => memOk_tryTeamTask) (memOk_startCopies ?_))
  exact memOk_foldl (fun _ _ => memOk_tryPhase) (memOk_releaseTeam h)

theorem outOk_execExit (h : s.memOk = true) : OutOk (execExit f s) :=
  memOk_foldl (fun _ _ => memOk_afterExit) (memOk_foldl (fun _ _ => memOk_exitThread) (memOk_lane h))

/-! ### Launches and packets -/

theorem memOk_writeCompletion (h : s.memOk = true) : (s.writeCompletion l rcd).memOk = true := by
  unfold State.writeCompletion
  refine memOk_ite h ?_
  dsimp only
  split
  · exact memOk_homeStore _ _ _ _ (memOk_spanOut h)
  · exact h

theorem memOk_refuseLaunch {status : Nat} (h : s.memOk = true) : (s.refuseLaunch l status).memOk = true :=
  memOk_writeCompletion h

theorem memOk_fetchHeader (h : s.memOk = true) : (s.fetchHeader l).memOk = true := memOk_ite h (memOk_fetchFar h)

theorem memOk_launchChild {c : Ctx} {p : Launch} {addr : Word} {upto : Nat} (h : s.memOk = true) :
    (s.launchChild c p addr rcd upto).2.memOk = true := by
  unfold State.launchChild
  dsimp only
  split
  · exact memOk_writeCompletion h
  · split
    · exact memOk_fetchHeader h
    · exact memOk_writeCompletion (memOk_fetchHeader h)

theorem memOk_tryLaunch (h : s.memOk = true) : (s.tryLaunch id num).memOk = true := by
  unfold State.tryLaunch
  dsimp only
  split
  · exact h
  · split
    · split
      · exact memOk_ite h (memOk_landWith h)
      · refine memOk_ite h ?_
        split
        · exact memOk_settle (memOk_replayDone (memOk_failFlight h))
        · exact memOk_replayDone (memOk_postFaults (memOk_setKind h))
        · exact memOk_setKind (memOk_replayDone (memOk_threadFetched (memOk_noteLeaf (memOk_launchChild h))))
      · exact h
    · exact h

theorem outOk_execLongLatencyComplete (h : s.memOk = true) : OutOk (execLongLatencyComplete id num s) := by
  unfold execLongLatencyComplete
  split
  · split
    · exact memOk_landPlain h
    · exact memOk_tryLaunch h
    · exact memOk_tryLaunch h
    · exact memOk_ite h (memOk_landPlain h)
    · exact memOk_tryFence h
    · exact memOk_tryFence h
    · exact h
  · exact h

theorem memOk_tryCwait (h : s.memOk = true) : (s.tryCwait id num).memOk = true := by
  unfold State.tryCwait
  split
  · exact h
  · split
    · exact h
    · split
      · split
        · exact memOk_ite (memOk_landWith (memOk_flushL1 h)) h
        · exact h
      · exact h

theorem outOk_execCwait (h : s.memOk = true) : OutOk (execCwait f s) := by
  unfold execCwait
  refine memOk_tryAll ?_ (memOk_lane h)
  intro _ _ h
  exact memOk_tryCwait h

theorem wf_foldl {α : Type} {l : List α} {g : List Host.Cell → α → List Host.Cell} {m : List Host.Cell}
    (hg : ∀ m a, Memory.wf m = true → Memory.wf (g m a) = true) (hm : Memory.wf m = true) : Memory.wf (l.foldl g m) = true :=
  foldl_inv (fun m => Memory.wf m = true) g l hg m hm

theorem memOk_onHead {g : HostQueue → HostQueue} (h : s.memOk = true) : (s.onHead q g).memOk = true :=
  wf_foldl (fun _ _ => wf_cellsWrite _ _ _) h

theorem outOk_execDoorbell {count : Nat} (h : s.memOk = true) : OutOk (execDoorbell q count s) :=
  memOk_ite h (memOk_ite (memOk_onHead h) (memOk_ite (memOk_onHead h) (memOk_onQueue h)))

theorem memOk_consume {p : List Byte} (h : s.memOk = true) : (s.consume q p).memOk = true := by
  unfold State.consume
  simpa only [State.memOk] using memOk_onHead h

theorem outOk_execPacketNop (h : s.memOk = true) : OutOk (execPacketNop q s) := by
  unfold execPacketNop
  split
  · exact memOk_ite (memOk_consume h) h
  · exact h

theorem outOk_execPacketOtherKind (h : s.memOk = true) : OutOk (execPacketOtherKind q s) := by
  unfold execPacketOtherKind
  split
  · exact memOk_ite (memOk_onHead (memOk_consume h)) h
  · exact h

theorem outOk_execPacketLaunch (h : s.memOk = true) : OutOk (execPacketLaunch q s) := by
  unfold execPacketLaunch
  dsimp only
  split
  · exact h
  · refine memOk_ite h (memOk_ite (memOk_onHead (memOk_consume h)) ?_)
    split
    · exact memOk_ite (memOk_fetchHeader (memOk_fetchFar (memOk_consume h)))
        (memOk_refuseLaunch (memOk_fetchHeader (memOk_fetchFar (memOk_consume h))))
    · exact memOk_onHead (memOk_consume h)

/-! ### The life of a grid -/

theorem memOk_startLaunch (h : s.memOk = true) : (s.startLaunch n).memOk = true := by
  unfold State.startLaunch
  dsimp only
  split
  · exact h
  · exact memOk_ite h (memOk_ite (memOk_openSlots h) (memOk_onLaunch (memOk_openSlots h)))

theorem memOk_collapseCore (h : s.memOk = true) : (s.collapseCore core).memOk = true :=
  memOk_foldl (fun _ _ => memOk_collapse) h

theorem memOk_admitTo {r : List (Nat × Nat) × Nat × State} (hr : s.admitTo core l = some r) (h : s.memOk = true) :
    r.2.2.memOk = true := by
  unfold State.admitTo at hr
  split at hr
  · cases hr
    exact h
  · split at hr
    · obtain ⟨_, -, rfl⟩ := Option.map_eq_some_iff.mp hr
      exact memOk_collapseCore h
    · cases hr

theorem memOk_sendOut (ht : s.sendOut l = some t) (h : s.memOk = true) : t.memOk = true := by
  obtain ⟨core, -, hcore⟩ := List.exists_of_findSome?_eq_some ht
  obtain ⟨r, hr, rfl⟩ := Option.map_eq_some_iff.mp hcore
  exact memOk_flushL1 (memOk_admitTo hr h)

theorem outOk_execWorkgroupDispatch (h : s.memOk = true) : OutOk (execWorkgroupDispatch n s) := by
  unfold execWorkgroupDispatch
  split
  · exact memOk_ite (memOk_getD (fun _ ht => memOk_sendOut ht h) h) h
  · exact h

theorem memOk_sendAll {k : Nat} (ht : State.sendAll n k s = some t) (h : s.memOk = true) : t.memOk = true := by
  induction k generalizing s with
  | zero =>
    cases ht
    exact h
  | succ k ih =>
    unfold State.sendAll at ht
    split at ht
    · obtain ⟨u, hu, hrest⟩ := Option.bind_eq_some_iff.mp ht
      exact ih hrest (memOk_sendOut hu h)
    · cases ht

theorem outOk_execCoresidentPlacement (h : s.memOk = true) : OutOk (execCoresidentPlacement n s) := by
  unfold execCoresidentPlacement
  split
  · exact memOk_ite (memOk_getD (fun _ ht => memOk_sendAll ht h) h) h
  · exact h

theorem memOk_noteDigest (h : s.memOk = true) : (s.noteDigest n).memOk = true := by
  unfold State.noteDigest
  split
  · exact memOk_ite h h
  · exact h

theorem memOk_finishGrid (h : s.memOk = true) : (s.finishGrid l).memOk = true :=
  memOk_ite (memOk_crossing (memOk_noteDigest (memOk_onLaunch (memOk_writeCompletion h))))
    (memOk_crossing (memOk_noteDigest (memOk_onLaunch (memOk_writeCompletion h))))

theorem memOk_retireAll {sel : Workgroup → Bool} (h : s.memOk = true) : (s.retireAll sel).memOk = true :=
  memOk_foldl (fun _ _ => memOk_tryRetire) h

theorem outOk_execGridFinish (h : s.memOk = true) : OutOk (execGridFinish n s) := by
  unfold execGridFinish
  dsimp only
  split
  · exact h
  · split
    · exact memOk_retireAll h
    · exact memOk_ite (memOk_retireAll (memOk_finishGrid (memOk_retireAll h))) (memOk_retireAll h)

theorem memOk_ruleStops {reason : Nat} (h : s.memOk = true) : (s.ruleStops n reason).memOk = true :=
  memOk_onLaunch (memOk_commitDue h)

theorem memOk_checkDeadline (h : s.memOk = true) : (s.checkDeadline n).memOk = true := by
  unfold State.checkDeadline
  split
  · exact memOk_ite (memOk_ruleStops h) h
  · exact h

theorem memOk_checkEnergy (h : s.memOk = true) : (s.checkEnergy n).memOk = true := by
  unfold State.checkEnergy
  split
  · exact memOk_ite (memOk_ruleStops (memOk_checkDeadline h)) h
  · exact h

theorem memOk_measure {energies : List Nat} (h : s.memOk = true) : (s.measure energies).memOk = true :=
  memOk_foldl (fun _ _ => memOk_checkEnergy) h

theorem memOk_measureDue (h : s.memOk = true) : s.measureDue.memOk = true := memOk_ite h (memOk_measure h)

/-! ### Pre-emption and restore -/

theorem memOk_traceAll {kind : Nat} (h : s.memOk = true) : (s.traceAll wg kind).memOk = true :=
  memOk_foldl (fun _ _ => memOk_trace) h

theorem memOk_saveAt {at_ : Nat × Nat × Nat × Bool} (h : s.memOk = true) : (s.saveAt l wg at_).memOk = true := by
  unfold State.saveAt
  dsimp only
  split
  · exact h
  · exact memOk_ite (memOk_homeStore _ _ _ _
      (memOk_ite (memOk_homeStore _ _ _ _ h) (memOk_homeStore _ _ _ _ (memOk_homeStore _ _ _ _ h))))
        (memOk_ite (memOk_homeStore _ _ _ _ h) (memOk_homeStore _ _ _ _ (memOk_homeStore _ _ _ _ h)))

theorem memOk_passIfGone (h : s.memOk = true) : (s.passIfGone q).memOk = true := memOk_ite h h

theorem memOk_save (h : s.memOk = true) : (s.save wg).memOk = true := by
  unfold State.save
  split
  · split
    · exact memOk_onHead (memOk_onWg h)
    · exact memOk_passIfGone (memOk_saveAt (memOk_traceAll (memOk_onWg (memOk_onCore h))))
  · exact h

theorem memOk_settleWg (h : s.memOk = true) : (s.settleWg wg).memOk = true := by
  unfold State.settleWg
  refine memOk_foldl (fun _ _ h => ?_) (memOk_foldl (fun _ _ => memOk_collapse) h)
  split
  · split
    · exact memOk_takeTrap h
    · exact h
  · exact h

theorem memOk_preempt (h : s.memOk = true) : (s.preempt wg).memOk = true := by
  unfold State.preempt
  dsimp only
  split
  · exact memOk_settleWg h
  · exact memOk_ite (memOk_save (memOk_settleWg h)) (memOk_settleWg h)

theorem outOk_execWorkgroupPreempt (h : s.memOk = true) : OutOk (execWorkgroupPreempt wg s) := by
  unfold execWorkgroupPreempt
  split
  · exact memOk_ite (memOk_onWg h) (memOk_ite (memOk_ite (memOk_preempt h) (memOk_onWg h)) h)
  · exact h

theorem memOk_pushBack (h : s.memOk = true) : (s.pushBack core w).memOk = true := h

theorem memOk_restoreOn (ht : s.restoreOn l w base core = some t) (h : s.memOk = true) : t.memOk = true := by
  unfold State.restoreOn at ht
  split at ht
  · cases ht
  · obtain ⟨r, hr, rfl⟩ := Option.map_eq_some_iff.mp ht
    exact memOk_traceAll (memOk_drainHeld (memOk_pushBack (memOk_flushL1 (memOk_freeImage (memOk_homeStore _ _ _ _
      (memOk_admitTo hr h))))))

theorem memOk_restoreWg (ht : s.restoreWg l w = some t) (h : s.memOk = true) : t.memOk = true := by
  unfold State.restoreWg at ht
  split at ht
  · split at ht
    · cases ht
    · obtain ⟨_, -, hcore⟩ := List.exists_of_findSome?_eq_some ht
      exact memOk_restoreOn hcore h
  · cases ht

theorem memOk_behind {r : State × Workgroup} (hr : s.behind base = some r) (h : s.memOk = true) : r.1.memOk = true := by
  unfold State.behind at hr
  dsimp only at hr
  split at hr
  · cases hr
  · split at hr
    · cases hr
      exact h
    · split at hr
      · cases hr
        split
        · exact memOk_homeStore _ _ _ _ h
        · exact h
      · cases hr
        exact h

theorem outOk_execWorkgroupRestore (h : s.memOk = true) : OutOk (execWorkgroupRestore wg s) := by
  unfold execWorkgroupRestore
  split
  · exact memOk_ite h (memOk_getD (fun _ ht => memOk_restoreWg ht h) h)
  · exact h

theorem outOk_execGridStall (h : s.memOk = true) : OutOk (execGridStall n s) := by
  unfold execGridStall
  dsimp only
  split
  · exact h
  · refine memOk_ite h (memOk_ite (memOk_failLaunch h) ?_)
    split
    · exact memOk_failLaunch (memOk_ite (memOk_onHead h) h)
    · exact memOk_onWg (memOk_onWg (memOk_onLaunch (memOk_ite (memOk_onHead h) h)))

theorem memOk_mapQueues {l : List (Nat × Nat)} {full : Bool} (h : s.memOk = true) : (s.mapQueues l full).memOk = true :=
  memOk_foldl (fun _ _ h => memOk_onQueue (wf_cellsWrite _ _ _ h)) h

theorem outOk_execQueueRotation (h : s.memOk = true) : OutOk (execQueueRotation s) :=
  memOk_ite (memOk_ite (memOk_mapQueues h) (memOk_foldl (fun _ _ => memOk_onWg) h)) (memOk_mapQueues h)

theorem memOk_migrate (h : s.memOk = true) : (s.migrate wg core).memOk = true := by
  unfold State.migrate
  dsimp only
  split
  · split
    · exact memOk_getD (fun _ ht => memOk_restoreOn ht (memOk_save h)) h
    · exact memOk_save h
  · exact h

theorem outOk_execThermalMigration (h : s.memOk = true) : OutOk (execThermalMigration wg core s) := by
  unfold execThermalMigration
  dsimp only
  split
  · exact h
  · exact memOk_ite (memOk_ite (memOk_migrate (memOk_settleWg h)) (memOk_settleWg h)) h

end

end Sys2Proof.Machine
end

section
/-!
PROOF. The canonical form of memory through collectives, Span traffic, the mailbox, power and the clocks (O58).
-/
namespace Sys2Proof.Machine
open Sys2Proof

section
variable {s : State} {c : Ctx} {key tier launch wg dev cause k core addr pool grants part i : Nat} {bad uniform fresh : Bool}
variable {m : CollMsg} {sel : DebugSel} {f : Flight} {e : HodSent} {bytes arg : List Byte} {x : Nat × Nat × Word}
variable {p : SpanPkt}

/-! ### Collectives and Span traffic -/

theorem memOk_writeResult {fuel : Nat} {bad : List Nat} (h : s.memOk = true) :
    (s.writeResult key bad fuel bytes).memOk = true := by
  induction fuel generalizing s key bad bytes with
  | zero => exact h
  | succ fuel ih =>
    unfold State.writeResult
    dsimp only
    split
    · exact ih (memOk_homeStore _ _ _ _ h)
    · exact ih h

theorem memOk_chunkArrive (h : s.memOk = true) : (s.chunkArrive m).memOk = true := by
  unfold State.chunkArrive
  refine memOk_ite h ?_
  dsimp only
  split
  · exact h
  · split
    · exact memOk_writeResult h
    · exact memOk_ite (memOk_writeResult h) h
    · exact memOk_ite h (memOk_writeResult h)

theorem memOk_sendTo {src : Nat} (h : s.memOk = true) : (State.sendTo tier launch wg src m s dev).memOk = true := by
  unfold State.sendTo
  split
  · exact h
  · exact memOk_ite h h

theorem memOk_takeChunk {c : CollChunk} (h : s.memOk = true) : (s.takeChunk c).memOk = true := by
  unfold State.takeChunk
  dsimp only
  split
  · exact h
  · split
    · exact h
    · exact memOk_chunkArrive (memOk_foldl (fun _ _ => memOk_sendTo) (memOk_onLaunch h))

theorem memOk_sendChunk {c : CollChunk} (h : s.memOk = true) : (s.sendChunk c).memOk = true := by
  unfold State.sendChunk
  dsimp only
  split
  · exact h
  · exact memOk_takeChunk h

theorem outOk_execCollectiveChunkSend (h : s.memOk = true) : OutOk (execCollectiveChunkSend tier s) := by
  unfold execCollectiveChunkSend
  split
  · exact memOk_sendChunk h
  · exact h

theorem memOk_answerTo (h : s.memOk = true) : (s.answerTo p bytes bad).memOk = true := by
  unfold State.answerTo
  split <;> exact h

theorem memOk_refuseTo (h : s.memOk = true) : (s.refuseTo p cause).memOk = true := by
  unfold State.refuseTo
  split <;> exact h

theorem memOk_serve {op : SpanOp} (h : s.memOk = true) : (s.serve k op).memOk = true := by
  unfold State.serve
  split
  · exact memOk_homeStore _ _ _ _ h
  · exact h
  · exact memOk_ite h (memOk_homeStore _ _ _ _ h)
  · exact memOk_homeStore _ _ _ _ h

theorem outOk_execSpanOneSidedArrival (h : s.memOk = true) : OutOk (execSpanOneSidedArrival p s) := by
  unfold execSpanOneSidedArrival
  refine memOk_ite h ?_
  dsimp only
  split
  · exact memOk_answerTo h
  · split
    · exact memOk_answerTo (memOk_serve h)
    · exact memOk_refuseTo h
    · exact memOk_answerTo h

theorem outOk_execSpanForward {p : SpanTraffic} (h : s.memOk = true) : OutOk (execSpanForward p s) := by
  unfold execSpanForward
  extract_lets go
  have hgo {q : SpanTraffic} {t : State} (ht : go q = some t) : t.memOk = true := by
    obtain ⟨_, -, rfl⟩ := Option.map_eq_some_iff.mp ht
    exact h
  refine memOk_ite h (memOk_getD (fun t ht => ?_) h)
  rcases (Option.orElse_eq_some _ _ _).mp ht with hp | ⟨-, hback⟩
  · exact hgo hp
  · obtain ⟨q, -, hq⟩ := Option.bind_eq_some_iff.mp hback
    exact hgo hq

theorem memOk_unreached {p : PendingWrite} (h : s.memOk = true) : (s.unreached p).memOk = true := by
  unfold State.unreached
  dsimp only
  split
  · exact h
  · exact memOk_postFaults h

theorem memOk_unask (h : s.memOk = true) : (s.unask c f uniform).memOk = true := memOk_foldl (fun _ _ => memOk_onCtx) h

theorem memOk_lostWrite (h : s.memOk = true) : (s.lostWrite e).memOk = true := by
  unfold State.lostWrite
  dsimp only
  split
  · exact memOk_hodFault h
  · exact h

theorem memOk_lostRead {engine : Nat} {x : Running} (h : s.memOk = true) : (s.lostRead core engine x addr).memOk = true :=
  memOk_ite (memOk_hodFault (memOk_onCore h)) (memOk_onCore h)

theorem outOk_execSpanReturnUnreach (h : s.memOk = true) : OutOk (execSpanReturnUnreach p s) := by
  unfold execSpanReturnUnreach
  refine memOk_ite h ?_
  split
  · exact memOk_loseWrite h
  · exact memOk_ite (memOk_unask h) (memOk_loseAccess h)
  · exact memOk_lostWrite h
  · exact memOk_lostRead h
  · exact memOk_unreached h
  · exact h

theorem memOk_hodStands (h : s.memOk = true) : (s.hodStands e).memOk = true := memOk_unmark (wf_cellsWrite _ _ _ h)

theorem outOk_execSpanAcknowledgement {num : Nat} (h : s.memOk = true) : OutOk (execSpanAcknowledgement num s) := by
  unfold execSpanAcknowledgement
  split
  · exact memOk_hodStands h
  · exact h

theorem memOk_trapAccess {a : Access} (h : s.memOk = true) : (s.trapAccess c f a uniform cause).memOk = true :=
  memOk_ite (memOk_unask h) (memOk_foldl (fun _ _ h => memOk_settle (memOk_replayDone (memOk_failFlight h))) h)

theorem memOk_refuseRemote {tag : Nat} {handle : Bool} (h : s.memOk = true) : (s.refuseRemote tag handle).memOk = true := by
  unfold State.refuseRemote
  dsimp only
  split
  · exact memOk_trapWrite h
  · exact memOk_trapAccess h
  · exact memOk_onCore h
  · exact memOk_onCore h
  · exact h
  · exact h

theorem outOk_execHostMemWrite {poisoned : Bool} (h : s.memOk = true) : OutOk (execHostMemWrite addr bytes poisoned s) :=
  memOk_ite h (memOk_ite (memOk_foldl (fun _ _ h => memOk_hostPut h _) h) (memOk_foldl (fun _ _ h => memOk_hostPut h _) h))

/-! ### The mailbox -/

theorem memOk_command {go : State → State} (hgo : (go s).memOk = true) (h : s.memOk = true) :
    (s.command go).memOk = true := by
  unfold State.command
  split
  · exact h
  · split
    · exact h
    · exact hgo

theorem memOk_abortAll {l : List Launch} (h : s.memOk = true) : (s.abortAll l).memOk = true :=
  memOk_foldl (fun _ _ => memOk_failLaunch) h

theorem memOk_reply {status : Nat} (h : s.memOk = true) : (s.reply status).memOk = true := h

theorem outOk_execQabort {q : Nat} (h : s.memOk = true) : OutOk (execQabort q s) :=
  memOk_command (memOk_ite h (memOk_reply (memOk_onHead (memOk_abortAll h)))) h

theorem outOk_execInvalidateComplete (h : s.memOk = true) : OutOk (execInvalidateComplete s) := by
  unfold execInvalidateComplete
  split
  · exact h
  · exact memOk_ite (memOk_reply h) h

theorem outOk_execSetbudget {cores : List Nat} {budget : Nat} (h : s.memOk = true) : OutOk (execSetbudget cores budget s) :=
  memOk_command (memOk_ite (memOk_reply h) (memOk_reply (memOk_foldl (fun _ _ => memOk_onCore) h))) h

theorem outOk_execSetpool {n : Nat} (h : s.memOk = true) : OutOk (execSetpool n s) :=
  memOk_command (memOk_ite (memOk_reply h) (memOk_reply h)) h

theorem outOk_execSetcap {watts : Nat} (h : s.memOk = true) : OutOk (execSetcap watts s) :=
  memOk_command (memOk_ite (memOk_reply h) (memOk_reply h)) h

theorem outOk_execCommcfg {rcd : List Byte} (h : s.memOk = true) : OutOk (execCommcfg k rcd s) :=
  memOk_command (memOk_ite (memOk_reply h) (memOk_ite (memOk_reply h) (memOk_reply h))) h

theorem memOk_driverRestore {w : Workgroup} (h : s.memOk = true) : (s.driverRestore w).memOk = true := by
  unfold State.driverRestore
  split
  · exact h
  · exact memOk_getD (fun _ ht => memOk_restoreWg ht h) h

theorem outOk_execRestore (h : s.memOk = true) : OutOk (execRestore addr s) := by
  refine memOk_command ?_ h
  split
  · next hr => exact memOk_driverRestore (memOk_behind hr h)
  · exact h

theorem outOk_execDebugHalt (h : s.memOk = true) : OutOk (execDebugHalt sel s) :=
  memOk_command (memOk_reply (memOk_requestHalts h)) h

theorem memOk_resumeThread (h : s.memOk = true) : (s.resumeThread c).memOk = true := by
  unfold State.resumeThread
  split
  · exact memOk_patchSaved (memOk_onCtx (memOk_trace h))
  · exact h

theorem outOk_execDebugResume (h : s.memOk = true) : OutOk (execDebugResume sel s) :=
  memOk_command (memOk_reply (memOk_foldl (fun _ _ => memOk_resumeThread) h)) h

theorem outOk_execDebugBreakpointEnable (h : s.memOk = true) : OutOk (execDebugBreakpointEnable launch s) :=
  memOk_command (memOk_ite (memOk_reply h) (memOk_reply (memOk_onLaunch h))) h

theorem outOk_execDebugHaltForce {tix : Nat} (h : s.memOk = true) : OutOk (execDebugHaltForce wg tix s) :=
  memOk_command (memOk_reply (memOk_requestHalts h)) h

theorem memOk_freeImages (h : s.memOk = true) : s.freeImages.memOk = true := by
  unfold State.freeImages
  refine memOk_foldl (fun _ _ h => ?_) h
  split
  · exact memOk_freeImage h
  · exact h

theorem memOk_finishWrite {p : PendingWrite} (h : s.memOk = true) : (s.finishWrite p).memOk = true :=
  memOk_ite h (memOk_ite (memOk_ite (memOk_perform (memOk_sendWrite h)) h) (memOk_perform h))

theorem memOk_endLaunches (h : s.memOk = true) : s.endLaunches.memOk = true :=
  memOk_freeImages (memOk_foldl (fun _ _ => memOk_finishGrid)
    (memOk_abortAll (memOk_foldl (fun _ _ => memOk_landParts) (memOk_foldl (fun _ _ => memOk_finishWrite) h))))

theorem memOk_clearWork (h : s.memOk = true) : s.clearWork.memOk = true := wf_filter _ _ h

theorem outOk_execReload {image : List Byte} {startable : Bool} (h : s.memOk = true) :
    OutOk (execReload image startable s) := by
  refine memOk_ite h ?_
  simpa only [State.reply, State.memOk] using memOk_clearWork (memOk_endLaunches h)

theorem outOk_execDevnum (h : s.memOk = true) : OutOk (execDevnum arg s) :=
  memOk_command (memOk_ite (memOk_reply h) (memOk_ite (memOk_reply h) (memOk_reply h))) h

theorem memOk_setRoute {e : Nat} (h : s.memOk = true) : (s.setRoute dev e).memOk = true := memOk_ite h h

theorem outOk_execRoutes (h : s.memOk = true) : OutOk (execRoutes arg s) :=
  memOk_command (memOk_ite (memOk_reply h) (memOk_reply (memOk_foldl (fun _ _ => memOk_setRoute) h))) h

/-! ### Reset, power and storage errors -/

theorem outOk_execReset (h : s.memOk = true) : OutOk (execReset s) := wf_filter _ _ h

theorem memOk_capped (h : s.memOk = true) : (s.capped pool grants).memOk = true := by
  obtain ⟨_, hcores⟩ := onCores_frame s (List.range 192) (Core.granting grants)
  unfold State.capped
  rw [hcores]
  exact h

theorem outOk_execPowerCapping (h : s.memOk = true) : OutOk (execPowerCapping pool grants s) := by
  rw [show execPowerCapping pool grants s = _ from exec_capping pool grants]
  exact memOk_ite h (memOk_capped h)

theorem memOk_poisonOne (h : s.memOk = true) : (s.poisonOne k).memOk = true := memOk_ite h h

theorem memOk_hardError {e : ErrSite} (h : s.memOk = true) : (s.hardError e).memOk = true := by
  unfold State.hardError
  dsimp only
  split
  · exact memOk_onCtx h
  · exact memOk_ite (memOk_poisonOne h) h
  · exact memOk_ite (memOk_poisonOne h) h
  · exact memOk_ite (memOk_poisonOne h) h
  · exact memOk_dropL1 h
  · exact memOk_onPart h

theorem memOk_fillWord (h : s.memOk = true) : (s.fillWord core part addr fresh c).memOk = true := by
  unfold State.fillWord
  dsimp only
  split
  · exact memOk_ite h (memOk_fetchFar (memOk_onPart h))
  · exact h

theorem memOk_fillCache (h : s.memOk = true) : (s.fillCache core part addr fresh).memOk = true :=
  memOk_foldl (fun _ _ => memOk_fillWord) h

theorem memOk_restoreRegions {at_ : Nat} {l : List (Nat × Nat)} (h : s.memOk = true) :
    (s.restoreRegions at_ l).memOk = true := by
  induction l generalizing s at_ with
  | nil => exact h
  | cons r rs ih => exact ih (memOk_homeStore _ _ _ _ h)

theorem memOk_endReplay {r : Option Nat} (h : s.memOk = true) : (s.endReplay r).memOk = true := h

theorem memOk_resubmit (h : s.memOk = true) : (s.resubmit i x).memOk = true := by
  unfold State.resubmit
  dsimp only
  split
  · split
    · exact memOk_fetchHeader (memOk_fetchFar h)
    · exact memOk_endReplay (memOk_writeCompletion (memOk_fetchHeader (memOk_fetchFar h)))
  · exact h

theorem memOk_compareDigest {c : Capture} (h : s.memOk = true) : (s.compareDigest c i x).memOk = true :=
  memOk_ite (memOk_ite h (memOk_endReplay h)) (memOk_endReplay h)

theorem outOk_execCaptureReplay (h : s.memOk = true) : OutOk (execCaptureReplay s) := by
  unfold execCaptureReplay
  dsimp only
  split
  · exact h
  · split
    · exact memOk_ite h (memOk_ite (memOk_endReplay (memOk_restoreRegions h)) (memOk_restoreRegions h))
    · split
      · exact memOk_resubmit h
      · exact memOk_endReplay h
    · split
      · exact memOk_ite h (memOk_compareDigest h)
      · exact memOk_endReplay h

/-! ### The clocks -/

theorem memOk_partCycle (h : s.memOk = true) : (s.partCycle core part).memOk = true := memOk_onPart h

theorem memOk_coreCycle (h : s.memOk = true) : (s.coreCycle core).memOk = true := by
  unfold State.coreCycle
  exact memOk_ite h (memOk_mapCtx (memOk_foldl (fun _ _ => memOk_partCycle)
    (memOk_endServes (memOk_onCore (memOk_meetStops h)))))

theorem memOk_startDue (h : s.memOk = true) : s.startDue.memOk = true := memOk_foldl (fun _ _ => memOk_startLaunch) h

theorem memOk_dispCycle (h : s.memOk = true) : s.dispCycle.memOk = true :=
  memOk_measureDue (memOk_foldl (fun _ _ => memOk_checkDeadline) (memOk_startDue (memOk_meetFailures h)))

/-! ### Moves of the part's own -/

theorem memOk_evict {m : Move} (h : s.memOk = true) : (s.evict m).memOk = true := by
  unfold State.evict
  split
  · exact memOk_dropL1 h
  · exact h
  · exact memOk_onPart h
  · exact h

theorem memOk_outerStore (h : s.memOk = true) : (s.outerStore key bytes bad).memOk = true :=
  memOk_noteFits (memOk_unmark (wf_cellsWrite _ _ _ h))

theorem memOk_sample {id : CtxId} (h : s.memOk = true) : (s.sample id).memOk = true := by
  unfold State.sample
  split
  · exact memOk_ite (memOk_trace h) h
  · exact h

end

end Sys2Proof.Machine
end

section
/-!
PROOF. The canonical form of memory through every instruction, every move and every step: the whole of O58.
-/
namespace Sys2Proof.Machine
open Sys2Proof

section
variable {s : State} (h : s.memOk = true)
include h

/-- Each instruction and each event keeps the form: one arm for each row of the table, by the lemma about its meaning. -/
theorem outOk_exec (i : Instr) : OutOk (exec i s) := by
  cases i with
  | nop | add | sub | mul | mulh | mad | min | max | and | or | xor | shl | shr | sar | rot | clz | popc | brev | abs | neg
  | not | cmp | sel | bfx | bfi | bsrd | mov | movs | addi | andi | ori | xori | shli | shri | sari | roti | cmpi | movi
  | fadd | fsub | fmul | ffma | fmin | fmax | fcmp | fcvt | frnd | fscl | idp8 | idp4 | fdp8 | fdp4 => exact outOk_laneAlu h
  | acq | waita => exact outOk_execWordWait h
  | rel => exact outOk_execRel h
  | fdiv | frcp | frsq | fsqrt | fex2 | flg2 | fsin | fcos | rnd | rndf => exact outOk_laneLong h
  | ld => exact outOk_execLd h
  | st => exact outOk_execSt h
  | atomw | atomd | acas => exact outOk_execAtomic h
  | asput => exact outOk_execAsput h
  | shfl | netmv | voteAll | voteAny | voteBallot | lred | brx => exact outOk_arrive h
  | bra | call | jmpr | trap | mfs | mts => exact memOk_lane h
  | callf => exact outOk_execCallf h
  | ret => exact outOk_execRet h
  | exit => exact outOk_execExit h
  | tret => exact outOk_execTret h
  | yield => exact memOk_mapCtx (memOk_lane h)
  | bkpt => exact outOk_execBkpt h
  | bar => exact outOk_execBar h
  | waitt => exact outOk_execWaitt h
  | ffrt => exact outOk_execFfrt h
  | fenceRel | fenceAcq | fenceFull | fenceLt => exact outOk_execFence h
  | fenceHv => exact outOk_execFenceHv h
  | hgive => exact outOk_execHgive h
  | htake => exact outOk_execHtake h
  | prfm => exact outOk_execPrfm h
  | vqput | vqget => exact memOk_vqArrive h
  | launch => exact memOk_postFaults (memOk_lane h)
  | cwait => exact outOk_execCwait h
  | halt => exact outOk_execHalt h
  | snop | sbz | sbnz => exact memOk_uniform h
  | sadd | ssub | smul | sand | sor | sxor | sshl | sshr | ssar | smin | smax | scmp | saddi | sandi | sori | sshli | sshri
  | ssari | smovi | smovh | srd | vtos => exact outOk_uniPut h
  | sld => exact outOk_execSld h
  | sst => exact outOk_execSst h
  | swr => exact outOk_execSwr h
  | bind | unbind => exact outOk_execBinding h
  | hod => exact outOk_execHod h
  | loom => exact outOk_execLoom h
  | task => exact outOk_execTask h
  | taskServe => exact memOk_mapCtx (memOk_uniform h)
  | gset => exact outOk_execGset h
  | ksarm => exact outOk_execKsarm h
  | ksdis => exact outOk_execKsdis h
  | ksrd => exact outOk_execKsrd h
  | qfence => exact outOk_execQfence h
  | asrd | asrdp => exact memOk_execAssayRead h
  | aswait => exact outOk_execAswait h
  | netld => exact outOk_execNetld h
  | loadComplete => exact outOk_execLoadComplete h
  | longLatencyComplete => exact outOk_execLongLatencyComplete h
  | storeVisible => exact outOk_execStoreVisible h
  | atomicPerform => exact outOk_execAtomicPerform h
  | faultRecordWrite => exact outOk_execFaultRecordWrite h
  | faultResolved => exact outOk_execFaultResolved h
  | faultAbort => exact outOk_execFaultAbort h
  | rendezvousRelease => exact memOk_ite (memOk_releaseTeam h) h
  | barrierPhaseComplete => exact memOk_tryPhase h
  | acqComplete => exact outOk_execAcqComplete h
  | waitaComplete => exact outOk_execWaitaComplete h
  | waittComplete => exact memOk_tryTags h
  | aswaitComplete => exact memOk_tryAswait h
  | cwaitComplete => exact memOk_tryCwait h
  | vqputComplete => exact memOk_tryVqput h
  | vqgetComplete => exact memOk_tryVqget h
  | hgiveComplete => exact memOk_tryHgive h
  | fenceHvRequest => exact outOk_execFenceHvRequest h
  | threadHalt => exact outOk_execThreadHalt h
  | pickerPassoverLimit => exact outOk_execPickerPassoverLimit h
  | yieldExpiry => exact memOk_onCtx h
  | doorbell => exact outOk_execDoorbell h
  | packetNop => exact outOk_execPacketNop h
  | packetLaunch => exact outOk_execPacketLaunch h
  | packetOtherKind => exact outOk_execPacketOtherKind h
  | launchStart => exact memOk_startLaunch h
  | workgroupDispatch => exact outOk_execWorkgroupDispatch h
  | coresidentPlacement => exact outOk_execCoresidentPlacement h
  | gridFinish => exact outOk_execGridFinish h
  | assayCommit => exact memOk_commitDue h
  | assayFinalisation => exact outOk_execAssayFinalisation h
  | deadlineRule => exact memOk_checkDeadline h
  | energyMeasurement => exact memOk_ite h (memOk_measure h)
  | gridStall => exact outOk_execGridStall h
  | workgroupPreempt => exact outOk_execWorkgroupPreempt h
  | workgroupRestore => exact outOk_execWorkgroupRestore h
  | queueRotation => exact outOk_execQueueRotation h
  | foremanStart => exact outOk_execForemanStart h
  | loomWload => exact outOk_execLoomWload h
  | loomMmul => exact outOk_execLoomMmul h
  | loomDrain => exact memOk_drainStep h
  | loomZero => exact outOk_execLoomZero h
  | loomTaskComplete => exact outOk_execLoomTaskComplete h
  | hodChunk => exact memOk_stepChunk h
  | hodCopyComplete => exact outOk_execHodCopyComplete h
  | quarryTaskComplete => exact outOk_execQuarryTaskComplete h
  | eosComplete => exact outOk_execEosComplete h
  | qfenceComplete => exact outOk_execQfenceComplete h
  | teamTaskComplete => exact memOk_tryTeamTask h
  | keystonePendingEnqueue => exact outOk_execKeystonePendingEnqueue h
  | idleTreeSample => exact outOk_execIdleTreeSample h
  | collectiveChunkSend => exact outOk_execCollectiveChunkSend h
  | collectiveChunkArrival => exact memOk_ite h (memOk_chunkArrive h)
  | spanOneSidedArrival => exact outOk_execSpanOneSidedArrival h
  | spanForward => exact outOk_execSpanForward h
  | spanReturnUnreach => exact outOk_execSpanReturnUnreach h
  | hostMemRead => exact memOk_ite h (memOk_ite h h)
  | hostMemWrite => exact outOk_execHostMemWrite h
  | qreg => exact memOk_command (memOk_ite h (memOk_ite h h)) h
  | qabort => exact outOk_execQabort h
  | invalidate | errcount => exact memOk_command h h
  | invalidateComplete => exact outOk_execInvalidateComplete h
  | clearbind => exact memOk_command (memOk_reply h) h
  | setbudget => exact outOk_execSetbudget h
  | setpool => exact outOk_execSetpool h
  | setcap => exact outOk_execSetcap h
  | commcfg => exact outOk_execCommcfg h
  | restore => exact outOk_execRestore h
  | debugHalt => exact outOk_execDebugHalt h
  | debugResume => exact outOk_execDebugResume h
  | debugBreakpointEnable => exact outOk_execDebugBreakpointEnable h
  | debugHaltForce => exact outOk_execDebugHaltForce h
  | measure => exact memOk_command (memOk_ite (memOk_reply h) h) h
  | reload => exact outOk_execReload h
  | devnum => exact outOk_execDevnum h
  | routes => exact outOk_execRoutes h
  | mailboxOtherCode => exact memOk_command (memOk_ite h (memOk_reply h)) h
  | reset => exact outOk_execReset h
  | powerGate | powerUp => exact memOk_ite (memOk_onCore (memOk_onCore h)) h
  | frequencyChange => exact memOk_ite (memOk_onCore h) h
  | thermalMigration => exact outOk_execThermalMigration h
  | captureSessionStart => exact memOk_ite h (memOk_homeStore _ _ _ _ h)
  | captureReplay => exact outOk_execCaptureReplay h
  | softError => exact memOk_ite h (memOk_hardError h)
  | powerCapping => exact outOk_execPowerCapping h
  | instructionCacheFill => exact memOk_fillCache h
  | spanAcknowledgement => exact outOk_execSpanAcknowledgement h

theorem outOk_issue (core part : Nat) (pipe : Pipe) (defer : Bool) : OutOk (s.issue core part pipe defer) := by
  have htended : (s.tendAll core part).memOk = true := memOk_tendAll h
  have hpicked : (s.prepare core part pipe defer).1.memOk = true := memOk_pickIssue htended
  unfold State.issue
  split
  next t hprep =>
    rw [hprep] at hpicked
    exact hpicked
  next t i hprep =>
    rw [hprep] at hpicked
    have hrun : OutOk (exec i t) := outOk_exec hpicked i
    split
    next u hu =>
      rw [hu] at hrun
      exact memOk_ite (memOk_onPart htended) hrun
    next => exact hrun

theorem outOk_move (m : Move) : OutOk (s.move m) := by
  cases m with
  | event i => exact outOk_exec (s := { s with cur := Issue.idle }) h i
  | issue core part pipe defer => exact outOk_issue h core part pipe defer
  | coreCycle core => exact memOk_coreCycle h
  | dispCycle => exact memOk_dispCycle h
  | freshWord core part addr => exact memOk_fillCache h
  | quarryChunk core chunk => exact memOk_quarryWrite h
  | hostStore addr bytes => exact memOk_outerStore h
  | remoteStore dev slab addr bytes bad => exact memOk_outerStore h
  | loadHalf id num high => exact memOk_loadHalf h
  | holdChunk core => exact memOk_holdChunk h
  | holdRow core => exact memOk_holdRow h
  | refuseRemote tag handle => exact memOk_refuseRemote h
  | lateAction ctrl num => exact memOk_lateAction h
  | enterQueue core idx => exact memOk_enterQueue h
  | holdCommit n => exact memOk_onLaunch h
  | sample id => exact memOk_sample h
  | evictLine core key => exact memOk_evict h
  | evictTranslation root page => exact memOk_evict h
  | evictWord core part addr => exact memOk_evict h

theorem outOk_step : OutOk (step s) := by
  unfold step State.advance
  split
  next m ms _ => exact outOk_move (s := { s with agenda := ms }) h m
  next => exact outOk_move h s.autoMove

end

/-- Settles O58: every function that a step is made of changes memory through `homeStore`, `cellsWrite` and `hostPut` alone,
which keep the canonical form. -/
theorem memoryInvariant : Obligations.MemoryInvariant := by
  unfold Obligations.MemoryInvariant
  intro s t h hstep
  have hout : OutOk (step s) := outOk_step h
  rw [hstep] at hout
  exact hout

end Sys2Proof.Machine
end

section
/-!
PROOF. A lane word that waits, at its issue: what FENCE.rel, FENCE.acq, FENCE.full, FENCE.lt and FENCE.HV leave outstanding
(O24).
-/
namespace Sys2Proof.Machine
open Sys2Proof

/-- A clear word that raises no trap of its own issues for every thread that it acts for, and each is tried then. -/
theorem waits_of_exec {s : State} {i : Instr} {k : Ctx → FlightKind} {attempt : State → CtxId → Nat → State}
    (he : exec i s = .next ((lane i (waitDo k) s).tryAll s.cur.defer ((acting s i (waitDo k)).map Ctx.id) s.nextNum attempt))
    (hs : s.clear i = true) :
    Waits s i (fun c => Issues s i (s.recorded i c) (k c) c) (fun t => t = { s with ctxs := t.ctxs, nextNum := s.nextNum + 1 })
      (fun t id => attempt t id s.nextNum) := by
  have hnone := laneFault_none (d := waitDo k) hs (fun _ => rfl) (fun _ => rfl)
  rw [acting_eq_actors hnone] at he
  refine ⟨lane i (waitDo k) s, he, ?_, ?_⟩
  · rw [lane_of_no_fault hnone]
    exact ctxs_step (fun c _ _ => waitDo_acts c)
  · rw [lane_of_no_fault hnone]

end Sys2Proof.Machine
end

section
/-!
PROOF. When a fence may complete, and what its completion does to the releases that stand, to its core's L1 and to what its
thread has acquired (O24).
-/
namespace Sys2Proof.Machine
open Sys2Proof

section
variable {s : State} {id : CtxId} {c : Ctx} {num core : Nat} {f : Flight} {v : ScopeSet}
variable {kind scope : Nat} {writes acks cores : List Nat}

/-! ### When a fence may complete -/

/-- Every access of a thread from before a number has completed. -/
def Ctx.accessed (c : Ctx) (num : Nat) : Prop := ∀ g ∈ c.inflight, g.num < num → g.accesses = false

theorem accessesDone_iff : c.accessesDone num = true ↔ c.accessed num := by
  simp only [Ctx.accessesDone, Ctx.accessed, List.all_eq_true, Bool.or_eq_true, decide_eq_true_eq, Bool.not_eq_true', ge_iff_le,
    ← not_lt, imp_iff_not_or]

/-- What a fence waits for is over (R230, R231, R385): a release's writes as its scope asks, and an acquire's accesses. -/
def State.FenceFree (s : State) (c : Ctx) (num kind scope : Nat) (writes acks : List Nat) : Prop :=
  (kind ∈ [0, 2] ∧ scope = 0 ∨ kind = 3 → ∀ n ∈ writes, s.parkedStore n = false) ∧
  (kind ∈ [0, 2] → 1 ≤ scope → scope ≤ 4 → ∀ n ∈ writes, s.stuck n = false) ∧
  (kind ∈ [0, 2] → scope ≥ 5 → ∀ n ∈ writes, s.outstanding n = false) ∧
  (kind ∈ [0, 2] → scope = 6 → ∀ e ∈ s.acks, e.num ∉ acks ∧ e.num ∉ writes) ∧
  (kind = 2 ∨ (kind = 1 ∧ scope ≠ 0) → c.accessed num)

theorem flight?_num (hf : c.flight? num = some f) : f.num = num := by
  simpa using List.find?_some hf

/-- The test of a release's writes and, at scope .sys, of the acknowledgements (R230). -/
def State.releaseReady (s : State) (scope : Nat) (writes acks : List Nat) : Bool :=
  if scope == 0 then writes.all (fun n => !s.parkedStore n)
  else if scope ≤ 4 then writes.all (fun n => !s.stuck n)
  else writes.all (fun n => !s.outstanding n) &&
    (scope == 5 || s.acks.all (fun e => !acks.contains e.num && !writes.contains e.num))

theorem releaseReady_iff (hscope : scope ≤ 6) : s.releaseReady scope writes acks = true ↔
    (scope = 0 → ∀ n ∈ writes, s.parkedStore n = false) ∧
    (1 ≤ scope → scope ≤ 4 → ∀ n ∈ writes, s.stuck n = false) ∧
    (scope ≥ 5 → ∀ n ∈ writes, s.outstanding n = false) ∧
    (scope = 6 → ∀ e ∈ s.acks, e.num ∉ acks ∧ e.num ∉ writes) := by
  have hcases : scope = 0 ∨ (1 ≤ scope ∧ scope ≤ 4) ∨ scope = 5 ∨ scope = 6 := by omega
  unfold State.releaseReady
  rcases hcases with rfl | ⟨h1, h4⟩ | rfl | rfl
  · simp
  · have h0 : scope ≠ 0 := by omega
    have h5 : ¬ scope ≥ 5 := by omega
    have h6 : scope ≠ 6 := by omega
    simp [h0, h1, h4, h5, h6]
  · simp
  · simp

theorem fenceReady_iff (hk : kind ≤ 3) (hscope : scope ≤ 6) :
    s.fenceReady c f kind scope writes acks = true ↔ s.FenceFree c f.num kind scope writes acks := by
  have hcases : kind = fenceREL ∨ kind = fenceACQ ∨ kind = fenceFULL ∨ kind = fenceLT := by
    simp only [fenceREL, fenceACQ, fenceFULL, fenceLT]
    omega
  unfold State.FenceFree
  rcases hcases with rfl | rfl | rfl | rfl
  · have hrel : s.fenceReady c f fenceREL scope writes acks = (s.releaseReady scope writes acks && true) := rfl
    rw [hrel, Bool.and_true, releaseReady_iff hscope]
    simp [fenceREL]
  · have hacq : s.fenceReady c f fenceACQ scope writes acks = (scope == 0 && true || c.accessesDone f.num) := rfl
    rw [hacq, Bool.and_true, Bool.or_eq_true, accessesDone_iff]
    simp [fenceACQ, imp_iff_not_or]
  · have hfull : s.fenceReady c f fenceFULL scope writes acks =
        (s.releaseReady scope writes acks && (scope == 0 && false || c.accessesDone f.num)) := rfl
    rw [hfull, Bool.and_false, Bool.false_or, Bool.and_eq_true, accessesDone_iff, releaseReady_iff hscope]
    simp [fenceFULL, and_assoc]
  · have hlt : s.fenceReady c f fenceLT scope writes acks = (writes.all (fun n => !s.parkedStore n) && true) := rfl
    rw [hlt, Bool.and_true]
    simp [fenceLT]

theorem hvStepOne_iff : s.hvStepOne c f writes = true ↔
    (∀ n ∈ writes, s.outstanding n = false) ∧ c.accessed f.num := by
  simp [State.hvStepOne, State.fenceReady, fenceFULL, fenceREL, fenceACQ, accessesDone_iff]

/-! ### What a release shows -/

theorem pends_showWrites (n : Nat) : (s.showWrites writes v).pends n = s.pends n := by
  simp only [State.pends, State.showWrites, List.any_map]
  congr 1
  funext p
  simp only [Function.comp_apply]
  split <;> rfl

theorem showWrites_vis {p : PendingWrite} (hp : p ∈ (s.showWrites writes v).stores) (hw : p.num ∈ writes) : v ∈ p.vis := by
  obtain ⟨q, -, rfl⟩ := List.mem_map.mp hp
  by_cases hq : writes.contains q.num ∧ !q.vis.contains v
  · rw [if_pos hq]
    exact List.mem_append_right _ (List.mem_singleton_self v)
  · rw [if_neg hq] at hw ⊢
    simpa [hw] using hq

/-- A release at a narrow scope stands, with those of its writes that are pending. -/
theorem noteRelease_stands (h : writes.filter s.pends ≠ []) :
    { author := id, since := s.nextNum, scope := v, writes := writes.filter s.pends } ∈ (s.noteRelease id v writes).releases := by
  unfold State.noteRelease
  dsimp only
  rw [if_neg (by simpa using h)]
  exact List.mem_append_right _ (List.mem_singleton_self _)

/-- The release half of a fence: its writes become visible inside a narrow scope, where it stands (R230). -/
def State.released (s : State) (c : Ctx) (id : CtxId) (kind scope : Nat) (writes : List Nat) : State :=
  match (if kind = fenceREL ∨ kind = fenceFULL then s.scopeOf c scope else none) with
  | some v => (s.showWrites writes v).noteRelease id v writes
  | none => s

/-- The release half of a fence that is no release, or whose scope is not narrow, does nothing. -/
theorem released_wide (h : kind ∉ [0, 2] ∨ s.scopeOf c scope = none) : s.released c id kind scope writes = s := by
  have hnone : (if kind = fenceREL ∨ kind = fenceFULL then s.scopeOf c scope else none) = none := by
    rcases h with hk | hnone
    · exact if_neg (by simpa [fenceREL, fenceFULL] using hk)
    · rw [hnone, ite_self]
  unfold State.released
  rw [hnone]

theorem released_narrow (hk : kind ∈ [0, 2]) (hv : s.scopeOf c scope = some v) :
    s.released c id kind scope writes = (s.showWrites writes v).noteRelease id v writes := by
  have hsome : (if kind = fenceREL ∨ kind = fenceFULL then s.scopeOf c scope else none) = some v := by
    rw [if_pos (by simpa [fenceREL, fenceFULL] using hk), hv]
  unfold State.released
  rw [hsome]

/-- The release half changes what stands released and to whom writes show, and no write's number. -/
theorem released_frame (s : State) (c : Ctx) (id : CtxId) (kind scope : Nat) (writes : List Nat) : ∃ stores releases seen,
    s.released c id kind scope writes = { s with stores := stores, releases := releases, seen := seen } ∧
    ∀ n, (s.released c id kind scope writes).pends n = s.pends n := by
  unfold State.released
  split
  next v _ =>
    obtain ⟨releases, seen, hnote⟩ := noteRelease_frame (s.showWrites writes v) id v writes
    rw [hnote]
    exact ⟨_, releases, seen, rfl, pends_showWrites⟩
  next => exact ⟨s.stores, s.releases, s.seen, rfl, fun _ => rfl⟩

theorem released_stands (hk : kind ∈ [0, 2]) (hv : s.scopeOf c scope = some v) (h : writes.filter s.pends ≠ []) :
    { author := id, since := s.nextNum, scope := v, writes := writes.filter s.pends } ∈
      (s.released c id kind scope writes).releases := by
  have hpends : writes.filter (s.showWrites writes v).pends = writes.filter s.pends := by
    congr 1
    funext n
    exact pends_showWrites n
  rw [released_narrow hk hv, ← hpends]
  exact noteRelease_stands (by rwa [hpends])

theorem released_vis (hk : kind ∈ [0, 2]) (hv : s.scopeOf c scope = some v) {p : PendingWrite}
    (hp : p ∈ (s.released c id kind scope writes).stores) (hw : p.num ∈ writes) : v ∈ p.vis := by
  obtain ⟨releases, seen, hnote⟩ := noteRelease_frame (s.showWrites writes v) id v writes
  rw [released_narrow hk hv, hnote] at hp
  exact showWrites_vis hp hw

/-! ### What an acquire takes over -/

/-- A core's L1 is empty after it is discarded, and nothing else of any core changes. -/
theorem core_flushL1 (s : State) (core k : Nat) :
    (s.flushL1 core).core k = if k = core then { s.core k with l1 := [] } else s.core k := by
  unfold State.flushL1
  split
  next =>
    rw [core_onCore]
    split
    next hk => rw [hk]
    next => rfl
  next habsent =>
    split
    next hk =>
      rw [hk, core_absent (by simpa using habsent)]
      rfl
    next => rfl

/-- The first effect of an acquire: at .pair and wider it discards its core's L1 (R230). -/
def State.refreshed (s : State) (c : Ctx) (kind scope : Nat) : State :=
  if (kind = fenceACQ ∨ kind = fenceFULL) ∧ scope ≥ 4 then s.flushL1 (s.coreOf c) else s

/-- The second: at .team and wider its thread takes over what the releases paired with it have shown (R230). -/
def State.gained (s : State) (c : Ctx) (id : CtxId) (num kind scope : Nat) : State :=
  if (kind = fenceACQ ∨ kind = fenceFULL) ∧ scope ≥ 1 then s.takeOver [id] (s.fenceGets id num (s.scopeOf c scope)) else s

theorem acquires_iff : kind = fenceACQ ∨ kind = fenceFULL ↔ kind ∈ [1, 2] := by simp [fenceACQ, fenceFULL]

theorem refreshed_frame (s : State) (c : Ctx) (kind scope : Nat) :
    ∃ cores, s.refreshed c kind scope = { s with cores := cores } := by
  unfold State.refreshed
  split
  · exact flushL1_frame s (s.coreOf c)
  · exact ⟨s.cores, rfl⟩

theorem refreshed_l1 (hk : kind ∈ [1, 2]) (hscope : scope ≥ 4) :
    ((s.refreshed c kind scope).core (s.coreOf c)).l1 = [] := by
  unfold State.refreshed
  rw [if_pos ⟨acquires_iff.mpr hk, hscope⟩]
  exact flushL1_l1 s (s.coreOf c)

theorem gained_frame (s : State) (c : Ctx) (id : CtxId) (num kind scope : Nat) :
    ∃ got, s.gained c id num kind scope = { s with got := got } := by
  unfold State.gained
  split
  · exact ⟨_, takeOver_frame s [id] _⟩
  · exact ⟨s.got, rfl⟩

theorem gained_acquired (hk : kind ∈ [1, 2]) (hscope : scope ≥ 1) :
    Acquired s (s.gained c id num kind scope) [id] (s.fenceGets id num (s.scopeOf c scope)) := by
  unfold State.gained
  rw [if_pos ⟨acquires_iff.mpr hk, hscope⟩]
  exact takeOver_acquired s [id] _

theorem gained_none (h : ¬ (kind ∈ [1, 2] ∧ scope ≥ 1)) : s.gained c id num kind scope = s := by
  unfold State.gained
  rw [if_neg (by rwa [acquires_iff])]

/-- What is acquired depends on the state's pending writes and what was acquired before alone. -/
theorem acquired_congr {s' t t' : State} {ids : List CtxId} {gets : List Nat} (h : Acquired s' t' ids gets)
    (hpends : ∀ n, s'.pends n = s.pends n) (hfrom : s'.got = s.got) (hto : t'.got = t.got) : Acquired s t ids gets := by
  unfold Acquired at h ⊢
  simpa only [hpends, hfrom, hto] using h

end

end Sys2Proof.Machine
end

section
/-!
PROOF. The completion of a fence and of a FENCE.HV, the requests to masked cores, and the whole of O24.
-/
namespace Sys2Proof.Machine
open Sys2Proof

section
variable {s : State} {id : CtxId} {c : Ctx} {num core : Nat} {f : Flight}
variable {kind scope : Nat} {writes acks cores : List Nat}

/-! ### LONG_LATENCY_COMPLETE of a fence -/

theorem exec_complete_fence (h : s.has id num c f) (hwhat : f.what = .fence kind scope writes acks) :
    exec (.longLatencyComplete id num) s = .next (s.tryFence id num) := by
  have hflight : s.flight? id num = some f := by rw [State.flight?, h.1, Option.bind_some, h.2]
  change execLongLatencyComplete id num s = _
  simp only [execLongLatencyComplete, hflight, hwhat]

theorem tryFence_waits (h : s.has id num c f) (hwhat : f.what = .fence kind scope writes acks)
    (hready : s.fenceReady c f kind scope writes acks = false) : s.tryFence id num = s := by
  obtain ⟨hc, hf⟩ := h
  simp [State.tryFence, hc, hf, hwhat, hready]

theorem tryFence_ready (h : s.has id num c f) (hwhat : f.what = .fence kind scope writes acks)
    (hready : s.fenceReady c f kind scope writes acks = true) : s.tryFence id num =
      (((s.released c id kind scope writes).refreshed c kind scope).gained c id num kind scope).landPlain id num := by
  obtain ⟨hc, hf⟩ := h
  simp only [State.tryFence, hc, hf, hwhat, hready, Bool.not_true, Bool.false_eq_true, if_false]
  rfl

/-- A landing in a state that has the threads of another, as seen from that one. -/
theorem landPlain_after {x : State} (hctxs : x.ctxs = s.ctxs) (hc : s.ctx? id = some c) (hquiet : c.quiet num = true) :
    ∃ ctxs, x.landPlain id num = { x with ctxs := ctxs } ∧ Landed s { x with ctxs := ctxs } id num c.regs := by
  have hsame (k : CtxId) : x.ctx? k = s.ctx? k := by rw [State.ctx?, hctxs, State.ctx?]
  obtain ⟨hframe, hlanded⟩ := landPlain_landed (num := num) ((hsame id).trans hc) hquiet
  refine ⟨_, hframe, ?_⟩
  rw [← hframe]
  simpa only [Landed, OnlyCtx, hsame] using hlanded

/-- The completion of a fence: the release half, the acquire half, and the landing. -/
theorem fence_completes (h : s.has id num c f) (hquiet : c.quiet num = true) (hwhat : f.what = .fence kind scope writes acks)
    (hready : s.fenceReady c f kind scope writes acks = true) : ∃ t, s.tryFence id num = t ∧
      t = { s with ctxs := t.ctxs, stores := t.stores, cores := t.cores, got := t.got, releases := t.releases, seen := t.seen } ∧
      Landed s t id num c.regs ∧
      (if kind ∈ [1, 2] ∧ scope ≥ 1 then Acquired s t [id] (t.fenceGets id num (s.scopeOf c scope)) else t.got = s.got) ∧
      t.stores = (s.released c id kind scope writes).stores ∧ t.releases = (s.released c id kind scope writes).releases ∧
      t.seen = (s.released c id kind scope writes).seen ∧
      (kind ∈ [1, 2] → scope ≥ 4 → (t.core (s.coreOf c)).l1 = []) := by
  rw [tryFence_ready h hwhat hready]
  obtain ⟨stores, releases, seen, hreleased, hpends⟩ := released_frame s c id kind scope writes
  generalize s.released c id kind scope writes = u at hreleased hpends ⊢
  obtain ⟨cores, hrefreshed⟩ := refreshed_frame u c kind scope
  have hl1 := refreshed_l1 (s := u) (c := c) (kind := kind) (scope := scope)
  generalize u.refreshed c kind scope = w at hrefreshed hl1 ⊢
  obtain ⟨got, hgained⟩ := gained_frame w c id num kind scope
  have hacquired := gained_acquired (s := w) (c := c) (id := id) (num := num) (kind := kind) (scope := scope)
  have hnone := gained_none (s := w) (c := c) (id := id) (num := num) (kind := kind) (scope := scope)
  generalize w.gained c id num kind scope = x at hgained hacquired hnone ⊢
  have hctxs : x.ctxs = s.ctxs := by rw [hgained, hrefreshed, hreleased]
  obtain ⟨ctxs, hland, hlanded⟩ := landPlain_after hctxs h.1 hquiet
  rw [hland]
  subst hreleased hrefreshed
  refine ⟨_, rfl, ?_, hlanded, ?_, ?_, ?_, ?_, fun hk hscope => ?_⟩
  · rw [hgained]
  · split
    next hacq =>
      have htaken := hacquired hacq.1 hacq.2
      subst hgained
      exact acquired_congr htaken hpends rfl rfl
    next hacq => rw [hnone hacq]
  · rw [hgained]
  · rw [hgained]
  · rw [hgained]
  · rw [hgained]
    exact hl1 hk hscope

/-! ### FENCE.HV -/

theorem exec_complete_hv (h : s.has id num c f) (hwhat : f.what = .hv writes cores) :
    exec (.longLatencyComplete id num) s = .next (if cores.isEmpty && s.hvStepOne c f writes then
      ((s.flushL1 (s.coreOf c)).takeOver [id] (s.fenceGets id num none)).landPlain id num else s) := by
  obtain ⟨hc, hf⟩ := h
  have hflight : s.flight? id num = some f := by rw [State.flight?, hc, Option.bind_some, hf]
  change execLongLatencyComplete id num s = _
  simp only [execLongLatencyComplete, hflight, hwhat, State.tryFence, hc, hf]

theorem exec_request (h : s.has id num c f) (hwhat : f.what = .hv writes cores) :
    exec (.fenceHvRequest id num core) s = .next (if cores.contains core && s.hvStepOne c f writes then
      (if ((((s.drainCore core).flushL1 core).pathOf core).isEmpty) then
        ((s.drainCore core).flushL1 core).setKind id num (.hv writes (cores.filter (fun k => k != core)))
      else (s.drainCore core).flushL1 core) else s) := by
  obtain ⟨hc, hf⟩ := h
  change execFenceHvRequest id num core s = _
  simp only [execFenceHvRequest, hc, hf, hwhat]

/-- A core whose store path is empty has nothing to drain. -/
theorem drainCore_empty (h : s.pathOf core = []) : s.drainCore core = s := by
  unfold State.drainCore
  rw [h, List.foldl_nil]

theorem onFlights_id (g : Flight → Flight) (c : Ctx) : (c.onFlights g).id = c.id := rfl

theorem setKind_flight (h : s.has id num c f) (k : FlightKind) :
    ∃ c', (s.setKind id num k).ctx? id = some c' ∧ (c'.flight? num).map Flight.what = some k := by
  obtain ⟨hc, hf⟩ := h
  refine ⟨c.onFlights (Flight.toKind num k), ?_, ?_⟩
  · rw [setKind_eq, ctx?_onCtx (onFlights_id _), if_pos rfl, hc, Option.map_some]
  · rw [flight?_onFlights hf (toKind_num num k), Option.map_some, Flight.toKind, if_pos (flight?_num hf)]

theorem setKind_onlyCtx (s : State) (id : CtxId) (num : Nat) (k : FlightKind) : OnlyCtx s (s.setKind id num k) id := by
  intro other hother
  rw [setKind_eq, ctx?_onCtx (onFlights_id _), if_neg hother]

/-- A masked core whose store path is empty empties its L1 and acknowledges. -/
theorem request_acknowledges (h : s.has id num c f) (hwhat : f.what = .hv writes cores) (hcore : core ∈ cores)
    (hfirst : s.hvStepOne c f writes = true) (hpath : s.pathOf core = []) :
    exec (.fenceHvRequest id num core) s =
      .next ((s.flushL1 core).setKind id num (.hv writes (cores.filter (fun k => k != core)))) := by
  obtain ⟨flushed, hflush⟩ := flushL1_frame s core
  have hstill : (s.flushL1 core).pathOf core = [] := by
    rw [hflush]
    exact hpath
  rw [exec_request h hwhat, drainCore_empty hpath, hstill, hfirst, List.contains_iff_mem.mpr hcore]
  rfl

theorem acknowledged_state (h : s.has id num c f) (k : FlightKind) :
    let t := (s.flushL1 core).setKind id num k
    t = { s with ctxs := t.ctxs, cores := t.cores } ∧ OnlyCtx s t id ∧
      (∀ n, t.core n = if n = core then { s.core n with l1 := [] } else s.core n) ∧
      ∃ c', t.ctx? id = some c' ∧ (c'.flight? num).map Flight.what = some k := by
  intro t
  obtain ⟨flushed, hflush⟩ := flushL1_frame s core
  have hcores (n : Nat) : t.core n = (s.flushL1 core).core n := rfl
  refine ⟨?_, ?_, fun n => ?_, ?_⟩
  · rw [show t = (s.flushL1 core).setKind id num k from rfl, hflush]
    rfl
  · have honly := setKind_onlyCtx (s.flushL1 core) id num k
    rw [OnlyCtx, hflush] at honly
    rw [show t = (s.flushL1 core).setKind id num k from rfl, hflush]
    exact honly
  · rw [hcores, core_flushL1]
  · have hhas : (s.flushL1 core).has id num c f := by
      rw [hflush]
      exact h
    exact setKind_flight hhas k

/-- A FENCE.HV that every masked core has acknowledged completes as a FENCE.full of its scope would. -/
theorem hv_completes (h : s.has id num c f) (hquiet : c.quiet num = true) :
    let t := ((s.flushL1 (s.coreOf c)).takeOver [id] (s.fenceGets id num none)).landPlain id num
    t = { s with ctxs := t.ctxs, cores := t.cores, got := t.got } ∧ Acquired s t [id] (s.fenceGets id num none) ∧
      Landed s t id num c.regs ∧ (t.core (s.coreOf c)).l1 = [] := by
  obtain ⟨flushed, hflush⟩ := flushL1_frame s (s.coreOf c)
  have hl1 := flushL1_l1 s (s.coreOf c)
  have htaken := takeOver_acquired (s.flushL1 (s.coreOf c)) [id] (s.fenceGets id num none)
  have htook := takeOver_frame (s.flushL1 (s.coreOf c)) [id] (s.fenceGets id num none)
  generalize (s.flushL1 (s.coreOf c)).takeOver [id] (s.fenceGets id num none) = x at htaken htook ⊢
  rw [hflush] at hl1 htaken htook
  have hctxs : x.ctxs = s.ctxs := by rw [htook]
  obtain ⟨ctxs, hland, hlanded⟩ := landPlain_after hctxs h.1 hquiet
  rw [hland]
  refine ⟨?_, acquired_congr htaken (fun _ => rfl) rfl rfl, hlanded, ?_⟩
  · rw [htook]
  · rw [htook]
    exact hl1

end

/-- Settles O24: a fence that issues leaves outstanding what it orders; its completion is the release half, the acquire half
and the landing, in turn, and before what it waits for is over nothing changes. -/
theorem fences : Obligations.Fences := by
  unfold Obligations.Fences
  refine ⟨fun s f => ?_, fun s id num c f h hquiet => ?_⟩
  · intro scope go
    have hgo {i : Instr} {kind scope : Nat} (he : exec i s = execFence i kind scope s) : go i kind scope :=
      waits_of_exec he
    exact ⟨hgo rfl, hgo rfl, hgo rfl, hgo rfl, waits_of_exec rfl⟩
  · intro accessed
    obtain rfl : f.num = num := flight?_num h.2
    refine ⟨fun kind scope writes acks hwhat hkind hscope => ?_, fun writes cores hwhat => ?_⟩
    · intro rel ready
      have hready : s.fenceReady c f kind scope writes acks = true ↔ ready := fenceReady_iff hkind hscope
      refine ⟨fun hwaits => ?_, fun hmay => ?_⟩
      · rw [Stays, exec_complete_fence h hwhat, tryFence_waits h hwhat (by simpa [← hready] using hwaits)]
      · obtain ⟨t, ht, hframe, hlanded, hgot, hstores, hreleases, hseen, hl1⟩ :=
          fence_completes h hquiet hwhat (hready.mpr hmay)
        refine ⟨t, ?_, hframe, hlanded, hgot, fun hwide => ?_, fun v hrel hv hleft => ?_, fun v hrel hv p hp hw => ?_, hl1⟩
        · rw [exec_complete_fence h hwhat, ht]
        · rw [hreleases, hseen, released_wide hwide]
          exact ⟨rfl, rfl⟩
        · rw [hreleases]
          exact released_stands hrel hv hleft
        · rw [hstores] at hp
          exact released_vis hrel hv hp hw
    · intro first
      have hfirst : s.hvStepOne c f writes = true ↔ first := hvStepOne_iff
      refine ⟨fun core hcore hmay hpath => ?_, fun core hnot => ?_, fun hnot => ?_, fun hnone hmay => ?_⟩
      · obtain ⟨hframe, honly, hcores, hkind⟩ := acknowledged_state h (.hv writes (cores.filter (fun k => k != core)))
        exact ⟨_, request_acknowledges h hwhat hcore (hfirst.mpr hmay) hpath, hframe, honly, hcores, hkind⟩
      · rw [Stays, exec_request h hwhat, if_neg (by simpa [hfirst, imp_iff_not_or] using hnot)]
      · rw [Stays, exec_complete_hv h hwhat, if_neg (by simpa [hfirst, imp_iff_not_or] using hnot)]
      · refine ⟨_, ?_, hv_completes h hquiet⟩
        rw [exec_complete_hv h hwhat, hnone, hfirst.mpr hmay]
        rfl

end Sys2Proof.Machine
end

section
/-!
PROOF. O19 fails at every TRAP that is taken: a trap at the word that issues counts the word as an instruction of its thread
(R148), and the statement has the thread keep its count.
-/
namespace Sys2Proof.Machine
open Sys2Proof Sys2Proof.Machine.Tests

/-- A trap at the word that issues counts that word as an instruction of its thread (R148). -/
theorem raise_counts {s : State} {c : Ctx} {h : Word} (hc : s.ctx? c.id = some c) (ht : c.trappable = true)
    (hh : s.handles c h) (cause : Nat) (addr : Word) :
    ((s.raise c.id cause addr).ctx? c.id).map Ctx.count = some (c.count + 1) := by
  obtain ⟨-, -, -, hctx, -⟩ := raise_frame hc ht hh cause addr
  rw [hctx]
  rfl

/-- The one thread of a launch with a handler at TRAPH stands at a TRAP. -/
def atTrap : State := handlerStage lone

/-- That thread, with the bits of %warn that its TRAP records. -/
def trapWarned : Ctx := lone.warned (atTrap.wordWarn (.trap (fx 0)))

/-- The state in which the TRAP raises its trap: its number is given, and its bits of %warn are recorded. -/
def trapIssued : State := { atTrap with ctxs := [trapWarned], nextNum := atTrap.nextNum + 1 }

theorem atTrap_raises : exec (.trap (fx 0)) atTrap = .next (trapIssued.raise trapWarned.id causeTRAP 0) := rfl

/-- The TRAP acts for the thread, which is in no handler and has nothing outstanding. -/
theorem atTrap_ready : atTrap.clear (.trap (fx 0)) = true ∧ atTrap.ctx? id0 = some lone ∧ lone.trappable = true ∧
    fate (atTrap.shp (.trap (fx 0))) (atTrap.pfx (.trap (fx 0))) lone.regs = .acts := by decide

theorem atTrap_handles : atTrap.handles lone (sa 0x400) := ⟨handled, rfl, by decide, by decide⟩

theorem trapIssued_handles : trapIssued.handles trapWarned (sa 0x400) := atTrap_handles

/-- Refutes O19: a thread whose count of instructions (R148) is 0 takes the trap of a TRAP and then has the count 1, but the
statement has the whole context after the trap be `Ctx.trapped`, which keeps the count. -/
theorem not_traps : ¬ Obligations.Traps := by
  unfold Obligations.Traps
  rintro ⟨hentry, -⟩
  obtain ⟨hclear, hctx, htrappable, hacts⟩ := atTrap_ready
  obtain ⟨htrap, -⟩ := hentry atTrap (fx 0) (sa 0x400)
  have hall : atTrap.allAct (.trap (fx 0)) (fun c => c.trappable = true ∧ atTrap.handles c (sa 0x400)) := by
    intro c hc _
    obtain rfl : c = lone := List.mem_singleton.mp hc
    exact ⟨htrappable, atTrap_handles⟩
  obtain ⟨t, ht, -, hactors, -⟩ := htrap hclear (List.nodup_singleton _) hall
  obtain rfl := Host.Outcome.next.inj (atTrap_raises.symm.trans ht)
  have hcounts : ((trapIssued.raise trapWarned.id causeTRAP 0).ctx? id0).map Ctx.count = some 1 :=
    raise_counts (c := trapWarned) rfl htrappable trapIssued_handles causeTRAP 0
  rw [hactors id0 (List.mem_singleton.mpr rfl) lone hctx hacts] at hcounts
  exact absurd hcounts (by simp [Ctx.trapped, lone, freshCtx])

end Sys2Proof.Machine
end

section
/-!
PROOF. QABORT (O51): a launch that fails with ABORTED leaves every other launch in its phase, with its status or with ABORTED,
and no queue changes; so each launch that QABORT names has ended ABORTED when the last one has failed.
-/
namespace Sys2Proof.Machine

section
variable {s : State} {l : Launch} {m n : Nat}

/-! ### What a failing launch does to the others (R60) -/

theorem failLaunch_queues (s : State) (n status : Nat) : (s.failLaunch n status).queues = s.queues := by
  obtain ⟨cores, hcores⟩ := onCores_frame (s.failing n status) (s.failing n status).coresInUse (Core.stopping (s.dyingNums n))
  rw [failLaunch_eq, hcores]
  exact (kept_stopThreads s (s.dyingAway n)).queues

theorem failLaunch_launch? (s : State) (n status m : Nat) : (s.failLaunch n status).launch? m =
    ((s.stopThreads (s.dyingAway n)).launch? m).map (Launch.died (s.dyingNums n) n status) := by
  obtain ⟨cores, hcores⟩ := onCores_frame (s.failing n status) (s.failing n status).coresInUse (Core.stopping (s.dyingNums n))
  rw [failLaunch_eq, hcores]
  exact launch?_map rfl (died_num _ n status) m

theorem died_phase (gone : List Nat) (n status : Nat) (l : Launch) : (l.died gone n status).phase = l.phase := by
  unfold Launch.died
  split <;> rfl

/-- Where a launch fails with ABORTED, its descendants take the same status. -/
theorem died_aborted (gone : List Nat) (n : Nat) (l : Launch) :
    (l.died gone n statusABORTED).status = l.status ∨ (l.died gone n statusABORTED).status = statusABORTED := by
  unfold Launch.died
  split
  · exact Or.inr (ite_self _)
  · exact Or.inl rfl

theorem failLaunch_others (hl : s.launch? m = some l) (n : Nat) : ∃ l', (s.failLaunch n statusABORTED).launch? m = some l' ∧
    l'.phase = l.phase ∧ (l'.status = l.status ∨ l'.status = statusABORTED) := by
  obtain ⟨k, hk, huntested⟩ := (kept_stopThreads s (s.dyingAway n)).find hl
  have hphase : k.phase = l.phase := (congrArg Launch.phase huntested :)
  have hstatus : k.status = l.status := (congrArg Launch.status huntested :)
  refine ⟨k.died (s.dyingNums n) n statusABORTED, ?_, (died_phase _ n _ k).trans hphase, ?_⟩
  · rw [failLaunch_launch?, hk, Option.map_some]
  · rw [← hstatus]
    exact died_aborted _ n k

/-! ### Launches that fail one after another -/

/-- A launch has ended ABORTED. -/
def State.aborted (s : State) (m : Nat) : Prop := ∃ l, s.launch? m = some l ∧ l.status = statusABORTED

/-- A launch is unfinished, and it either still runs or has ended ABORTED. -/
def State.abortable (s : State) (m : Nat) : Prop :=
  ∃ l, s.launch? m = some l ∧ l.phase ≠ .finished ∧ (l.status = 0 ∨ l.status = statusABORTED)

theorem aborted_failLaunch (n : Nat) (h : s.aborted m) : (s.failLaunch n statusABORTED).aborted m := by
  obtain ⟨l, hl, hs⟩ := h
  obtain ⟨l', hl', -, hs'⟩ := failLaunch_others hl n
  exact ⟨l', hl', hs'.elim (fun he => he.trans hs) id⟩

theorem abortable_failLaunch (n : Nat) (h : s.abortable m) : (s.failLaunch n statusABORTED).abortable m := by
  obtain ⟨l, hl, hp, hs⟩ := h
  obtain ⟨l', hl', hp', hs'⟩ := failLaunch_others hl n
  refine ⟨l', hl', fun hf => hp (hp'.symm.trans hf), ?_⟩
  rcases hs' with he | ha
  · rwa [he]
  · exact Or.inr ha

/-- An abortable launch that fails itself has ended ABORTED. -/
theorem failLaunch_aborts (h : s.abortable m) : (s.failLaunch m statusABORTED).aborted m := by
  obtain ⟨l, hl, hp, hrunning | haborted⟩ := h
  · obtain ⟨hstatus, -, -⟩ := failLaunch_fails hl hp hrunning statusABORTED
    exact Option.map_eq_some_iff.mp hstatus
  · exact aborted_failLaunch m ⟨l, hl, haborted⟩

theorem abortAll_queues (s : State) (ls : List Launch) : (s.abortAll ls).queues = s.queues :=
  foldl_inv (fun t => t.queues = s.queues) _ ls (fun t l h => (failLaunch_queues t l.num _).trans h) s rfl

/-- Every abortable launch of the list has ended ABORTED: it stays abortable up to its own turn, and ABORTED after it. -/
theorem abortAll_aborts {ls : List Launch} (hl : l ∈ ls) (h : s.abortable l.num) : (s.abortAll ls).aborted l.num := by
  obtain ⟨pre, post, rfl⟩ := List.append_of_mem hl
  rw [State.abortAll, List.foldl_append, List.foldl_cons]
  have hbefore : (s.abortAll pre).abortable l.num :=
    foldl_inv (fun t : State => t.abortable l.num) _ pre (fun _ k ht => abortable_failLaunch k.num ht) s h
  exact foldl_inv (fun t : State => t.aborted l.num) _ post (fun _ k ht => aborted_failLaunch k.num ht) _
    (failLaunch_aborts hbefore)

/-! ### QABORT (R60, R267) -/

/-- The launches that QABORT ends: the queue's own that still run. -/
def State.abortList (s : State) (q : Nat) : List Launch :=
  s.launches.filter (fun l => l.queue == q && l.depth == 1 && l.unfinished && l.status == 0)

/-- A queue that has nothing left to read. -/
def HostQueue.skipped (h : HostQueue) : HostQueue := { h with head := max h.head h.doorbell }

theorem qabort_refused (hm : s.mailbox = none) (hr : s.running = true) {q : Nat} (hq : q ≥ 4096) :
    exec (.qabort q) s = .next { s with mboxStatus := 2 } := by
  show execQabort q s = _
  rw [execQabort, command_taken hm hr, Config.hostQueues, if_pos hq]
  rfl

theorem qabort_taken (hm : s.mailbox = none) (hr : s.running = true) {q : Nat} (hq : q < 4096) :
    exec (.qabort q) s = .next (((s.abortAll (s.abortList q)).onHead q HostQueue.skipped).reply mbOK) := by
  show execQabort q s = _
  rw [execQabort, command_taken hm hr, Config.hostQueues, if_neg (Nat.not_le.mpr hq)]
  rfl

theorem qabort_aborts (hm : s.mailbox = none) (hr : s.running = true) {q : Nat} (hq : q < 4096) :
    Answers s (.qabort q) (fun t => t.mboxStatus = 0 ∧ (t.queue q).head = max (s.queue q).head (s.queue q).doorbell ∧
      ∀ l ∈ s.launches, s.launch? l.num = some l → l.queue = q → l.depth = 1 → l.phase ≠ .finished → l.status = 0 →
        ∃ l', t.launch? l.num = some l' ∧ l'.status = 7) := by
  refine ⟨_, qabort_taken hm hr hq, rfl, ?head, ?ended⟩
  case head =>
    obtain ⟨hskipped, -⟩ := onHead_becomes (s.abortAll (s.abortList q)) q HostQueue.skipped
    have hqueue : (s.abortAll (s.abortList q)).queue q = s.queue q := by
      rw [State.queue, abortAll_queues]
      rfl
    rw [hqueue] at hskipped
    exact congrArg HostQueue.head hskipped
  case ended =>
    intro l hl hfound hqueue hdepth hphase hstatus
    have hlisted : l ∈ s.abortList q := List.mem_filter.mpr ⟨hl, by simp [Launch.unfinished, hqueue, hdepth, hphase, hstatus]⟩
    exact abortAll_aborts hlisted ⟨l, hfound, hphase, Or.inl hstatus⟩

end

end Sys2Proof.Machine
end

section
/-!
PROOF. The mailbox's other commands of O51 (its answers while it is busy or denied, QREG, INVALIDATE, the settings and
COMMCFG), and the whole of O51.
-/
namespace Sys2Proof.Machine

section
variable {s : State}

/-! ### A mailbox that is busy, or whose device runs no firmware (R267, R274) -/

/-- An event that reaches the mailbox as a command. -/
def IsCommand (i : Instr) : Prop := ∃ go : State → State, ∀ s, exec i s = .next (s.command go)

theorem IsCommand.busy {i : Instr} (h : IsCommand i) (hm : s.mailbox.isSome) : exec i s = .next { s with mboxStatus := 1 } := by
  obtain ⟨go, hgo⟩ := h
  rw [hgo, State.command, if_pos hm]
  rfl

theorem IsCommand.denied {i : Instr} (h : IsCommand i) (hm : s.mailbox = none) (hr : s.running = false) :
    exec i s = .next { s with mboxStatus := 3 } := by
  obtain ⟨go, hgo⟩ := h
  rw [hgo, State.command, if_neg (by simp [hm]), if_pos (by simp [hr])]
  rfl

/-- Every command of R267 but RELOAD. -/
theorem isCommand_of_mem {i : Instr} {q n addr : Nat} {l : List Nat} {b : List Byte} {sel : DebugSel}
    (hi : i ∈ [Instr.qreg q b, .qabort q, .invalidate addr n, .clearbind, .setbudget l n, .setpool n, .setcap n, .commcfg n b,
      .restore addr, .debugHalt sel, .debugResume sel, .debugBreakpointEnable n, .debugHaltForce q n, .errcount, .measure b,
      .devnum b, .routes b, .mailboxOtherCode n]) : IsCommand i := by
  fin_cases hi <;> exact ⟨_, fun _ => rfl⟩

/-! ### QREG (R263, R267) -/

/-- The launches are searched for an unfinished one of a queue, or of a communicator. -/
theorem any_unfinished_with (s : State) (f : Launch → Nat) (n : Nat) :
    s.launches.any (fun l => f l == n && l.unfinished) = true ↔ ∃ l ∈ s.launches, f l = n ∧ l.phase ≠ .finished := by
  simp only [List.any_eq_true, Bool.and_eq_true, beq_iff_eq, Launch.unfinished, bne_iff_ne]

theorem queueBusy_iff (s : State) (q : Nat) :
    s.queueBusy q = true ↔ s.mapped q = true ∧ ∃ l ∈ s.launches, l.queue = q ∧ l.phase ≠ .finished := by
  rw [State.queueBusy, Bool.and_eq_true, any_unfinished_with s Launch.queue]

/-- A queue with a new descriptor, whose HEAD and QERR it takes. -/
def HostQueue.registered (desc : List Byte) (h : HostQueue) : HostQueue :=
  { h with
    reg := some desc
    head := fieldAt desc 0x40 8
    doorbell := fieldAt desc 0x40 8
    qerr := fieldAt desc 0x48 4 }

/-- A queue holds no slot. -/
def State.unslotted (s : State) (q : Nat) : State := { s with slots := s.slots.filter (fun e => e.2.queue != q) }

theorem unslotted_slots (s : State) (q : Nat) : ∀ e ∈ (s.unslotted q).slots, e.2.queue ≠ q := by
  intro e he
  simpa using (List.mem_filter.mp he).2

section
variable {q : Nat} {desc : List Byte}

theorem qreg_busy (hm : s.mailbox = none) (hr : s.running = true) (h : s.queueBusy q = true) :
    exec (.qreg q desc) s = .next { s with mboxStatus := 1 } := by
  show execQreg q desc s = _
  rw [execQreg, command_taken hm hr, if_pos h]
  rfl

theorem qreg_refused (hm : s.mailbox = none) (hr : s.running = true) (h : ¬ s.queueBusy q = true)
    (hbad : q ≥ 4096 ∨ descBad desc = true) :
    exec (.qreg q desc) s = .next { s with mboxStatus := 2 } := by
  show execQreg q desc s = _
  rw [execQreg, command_taken hm hr, Config.hostQueues, if_neg h, if_pos hbad]
  rfl

theorem qreg_taken (hm : s.mailbox = none) (hr : s.running = true) (h : ¬ s.queueBusy q = true)
    (hgood : ¬ (q ≥ 4096 ∨ descBad desc = true)) :
    exec (.qreg q desc) s = .next (((s.unslotted q).onQueue q (HostQueue.registered desc)).reply mbOK) := by
  show execQreg q desc s = _
  rw [execQreg, command_taken hm hr, Config.hostQueues, if_neg h, if_neg hgood]
  rfl

theorem qreg_registers (hm : s.mailbox = none) (hr : s.running = true) (h : ¬ s.queueBusy q = true)
    (hgood : ¬ (q ≥ 4096 ∨ descBad desc = true)) :
    Answers s (.qreg q desc) (fun t => t.mboxStatus = 0 ∧ SameThreads s t ∧ t.mem = s.mem ∧
      (∀ e ∈ t.slots, e.2.queue ≠ q) ∧ (t.queue q).reg = some desc ∧ (t.queue q).head = fieldAt desc 0x40 8 ∧
      (t.queue q).qerr = fieldAt desc 0x48 4 ∧ ∀ k, k ≠ q → t.queue k = s.queue k) := by
  have hthis := (queue_onQueue (s.unslotted q) q (HostQueue.registered desc) q).trans (if_pos rfl)
  refine ⟨_, qreg_taken hm hr h hgood, rfl, ⟨rfl, rfl⟩, rfl, unslotted_slots s q, congrArg HostQueue.reg hthis,
    congrArg HostQueue.head hthis, congrArg HostQueue.qerr hthis, fun k hk => ?_⟩
  exact (queue_onQueue (s.unslotted q) q (HostQueue.registered desc) k).trans (if_neg hk)

end

/-! ### INVALIDATE and CLEARBIND (R141) -/

theorem invalidate_begins (hm : s.mailbox = none) (hr : s.running = true) (addr size : Nat) :
    exec (.invalidate addr size) s = .next { s with
      mailbox := some 3
      invalidating := some (addr, size) } := by
  show execInvalidate addr size s = _
  rw [execInvalidate, command_taken hm hr]

theorem clearbind_clears (hm : s.mailbox = none) (hr : s.running = true) : exec .clearbind s = .next { s with
    bindings := []
    mboxStatus := 0 } := by
  show execClearbind s = _
  rw [execClearbind, command_taken hm hr]
  rfl

/-! ### SETBUDGET, SETPOOL and SETCAP (R26, R49, R272) -/

/-- A change that is the same made twice reaches each core of a list, a core that the list names twice too. -/
theorem core_onCores {g : Core → Core} (hg : ∀ c, g (g c) = g c) (k : Nat) : ∀ (ks : List Nat) (s : State),
    (s.onCores ks g).core k = if k ∈ ks then g (s.core k) else s.core k
  | [], _ => (if_neg List.not_mem_nil).symm
  | a :: ks, s => by
    refine (core_onCores hg k ks (s.onCore a g)).trans ?_
    rw [core_onCore]
    by_cases ha : k = a
    · subst ha
      rw [if_pos rfl, hg, ite_self, if_pos List.mem_cons_self]
    · rw [if_neg ha]
      exact if_congr (by rw [List.mem_cons, or_iff_right ha]) rfl rfl

/-- A core with a new budget (R49). -/
def Core.budgeted (n : Nat) (c : Core) : Core := { c with budget := n }

section
variable {cores : List Nat} {n : Nat}

/-- A budget outside its range, or one for a core that the part does not have. -/
def BudgetBad (cores : List Nat) (n : Nat) : Prop := n < 16 ∨ n > 255 ∨ ∃ k ∈ cores, k ≥ 192

theorem budgetBad_iff (cores : List Nat) (n : Nat) :
    (n < 16 ∨ n > 255 ∨ cores.any (fun k => decide (k ≥ Config.cores)) = true) ↔ BudgetBad cores n := by
  simp only [List.any_eq_true, decide_eq_true_eq]
  rfl

theorem setbudget_refused (hm : s.mailbox = none) (hr : s.running = true) (h : BudgetBad cores n) :
    exec (.setbudget cores n) s = .next { s with mboxStatus := 2 } := by
  show execSetbudget cores n s = _
  rw [execSetbudget, command_taken hm hr, if_pos ((budgetBad_iff cores n).mpr h)]
  rfl

theorem setbudget_taken (hm : s.mailbox = none) (hr : s.running = true) (h : ¬ BudgetBad cores n) :
    exec (.setbudget cores n) s = .next ((s.onCores cores (Core.budgeted n)).reply mbOK) := by
  show execSetbudget cores n s = _
  rw [execSetbudget, command_taken hm hr, if_neg (mt (budgetBad_iff cores n).mp h)]
  rfl

theorem setbudget_sets (hm : s.mailbox = none) (hr : s.running = true) (h : ¬ BudgetBad cores n) :
    Answers s (.setbudget cores n) (fun t => t.mboxStatus = 0 ∧ ∀ k,
      t.core k = if k ∈ cores then { s.core k with budget := n } else s.core k) :=
  ⟨_, setbudget_taken hm hr h, rfl, fun k => core_onCores (g := Core.budgeted n) (fun _ => rfl) k cores s⟩

theorem setpool_refused (hm : s.mailbox = none) (hr : s.running = true) (h : n > 768) :
    exec (.setpool n) s = .next { s with mboxStatus := 2 } := by
  show execSetpool n s = _
  rw [execSetpool, command_taken hm hr, Config.tokens, if_pos h]
  rfl

theorem setpool_sets (hm : s.mailbox = none) (hr : s.running = true) (h : n ≤ 768) :
    exec (.setpool n) s = .next { s with
      pool := n
      mboxStatus := 0 } := by
  show execSetpool n s = _
  rw [execSetpool, command_taken hm hr, Config.tokens, if_neg (Nat.not_lt.mpr h)]
  rfl

theorem setcap_refused (hm : s.mailbox = none) (hr : s.running = true) (h : n < 600 ∨ n > 2800) :
    exec (.setcap n) s = .next { s with mboxStatus := 2 } := by
  show execSetcap n s = _
  rw [execSetcap, command_taken hm hr, if_pos h]
  rfl

theorem setcap_sets (hm : s.mailbox = none) (hr : s.running = true) (hlo : 600 ≤ n) (hhi : n ≤ 2800) :
    exec (.setcap n) s = .next { s with
      cap := n
      mboxStatus := 0 } := by
  show execSetcap n s = _
  rw [execSetcap, command_taken hm hr, if_neg (by omega)]
  rfl

end

/-! ### COMMCFG (R267, R271) -/

/-- The communicator that a record of R271 configures. -/
def State.commOf (s : State) (rcd : List Byte) : Comm :=
  { members := s.memberList (fieldAt rcd 8 8) (fieldAt rcd 0 2), priority := fieldAt rcd 2 1, root := fieldAt rcd 4 2,
    buffer := fieldAt rcd 16 8, result := (s.localSlab (fieldAt rcd 24 8)).getD 0, resultLen := fieldAt rcd 32 8 }

section
variable {n : Nat} {rcd : List Byte}

theorem commBad_number (rcd : List Byte) (h : n > 15) : s.commBad n rcd = true := by
  simp only [State.commBad, decide_eq_true h, Bool.true_or]

/-- A record that breaks nothing names a result in this device's slab. -/
theorem localSlab_of_commGood (h : s.commBad n rcd = false) :
    s.localSlab (fieldAt rcd 24 8) = some (s.commOf rcd).result := by
  simp only [State.commBad, Bool.or_eq_false_iff] at h
  obtain ⟨⟨⟨⟨⟨-, hslab⟩, -⟩, -⟩, -⟩, -⟩ := h
  obtain ⟨k, hk⟩ := Option.isSome_iff_exists.mp (Option.isNone_eq_false_iff.mp hslab)
  rw [State.commOf, hk]
  rfl

/-- An unfinished launch uses the communicator. -/
def State.CommBusy (s : State) (n : Nat) : Prop := n ≤ 15 ∧ ∃ l ∈ s.launches, l.communicator = n ∧ l.phase ≠ .finished

theorem commBusy_iff (s : State) (n : Nat) :
    (n ≤ 15 ∧ s.launches.any (fun l => l.communicator == n && l.unfinished) = true) ↔ s.CommBusy n :=
  and_congr_right (fun _ => any_unfinished_with s Launch.communicator n)

theorem commcfg_busy (hm : s.mailbox = none) (hr : s.running = true) (h : s.CommBusy n) :
    exec (.commcfg n rcd) s = .next { s with mboxStatus := 1 } := by
  show execCommcfg n rcd s = _
  rw [execCommcfg, command_taken hm hr, if_pos ((commBusy_iff s n).mpr h)]
  rfl

theorem commcfg_refused (hm : s.mailbox = none) (hr : s.running = true) (h : ¬ s.CommBusy n)
    (hbad : s.commBad n rcd = true) :
    exec (.commcfg n rcd) s = .next { s with mboxStatus := 2 } := by
  show execCommcfg n rcd s = _
  rw [execCommcfg, command_taken hm hr, if_neg (mt (commBusy_iff s n).mp h), if_pos hbad]
  rfl

theorem commcfg_taken (hm : s.mailbox = none) (hr : s.running = true) (h : ¬ s.CommBusy n)
    (hgood : s.commBad n rcd = false) :
    exec (.commcfg n rcd) s = .next { s with
      comms := Table.set s.comms n (s.commOf rcd)
      mboxStatus := 0 } := by
  show execCommcfg n rcd s = _
  rw [execCommcfg, command_taken hm hr, if_neg (mt (commBusy_iff s n).mp h), if_neg (Bool.eq_false_iff.mp hgood)]
  rfl

theorem commcfg_configures (hm : s.mailbox = none) (hr : s.running = true) (h : ¬ s.CommBusy n)
    (hgood : s.commBad n rcd = false) :
    Answers s (.commcfg n rcd) (fun t => t.mboxStatus = 0 ∧
      ∃ c, s.localSlab (fieldAt rcd 24 8) = some c.result ∧ Table.find t.comms n = some c ∧
        c.members = s.memberList (fieldAt rcd 8 8) (fieldAt rcd 0 2) ∧ c.priority = fieldAt rcd 2 1 ∧
        c.root = fieldAt rcd 4 2 ∧ c.resultLen = fieldAt rcd 32 8) :=
  ⟨_, commcfg_taken hm hr h hgood, rfl, s.commOf rcd, localSlab_of_commGood hgood,
    (Table.find_set s.comms n _ n).trans (if_pos rfl), rfl, rfl, rfl, rfl⟩

end

end

/-! ### The obligation -/

/-- Settles O51: what a mailbox answers that takes no command, and each command's answer where it takes one. -/
theorem mailbox : Obligations.Mailbox := by
  refine ⟨?untaken, ?taken⟩
  case untaken =>
    intro s i q n addr l b sel hi
    have hcommand : IsCommand i := isCommand_of_mem hi
    exact ⟨hcommand.busy, hcommand.denied⟩
  case taken =>
    intro s q addr size n desc cores hm hr
    refine ⟨?queues, qabort_refused hm hr, qabort_aborts hm hr,
      invalidate_begins hm hr addr size, clearbind_clears hm hr, ⟨setbudget_refused hm hr, setbudget_sets hm hr⟩,
      setpool_refused hm hr, setpool_sets hm hr, setcap_refused hm hr, setcap_sets hm hr,
      commBad_number desc, commcfg_busy hm hr, commcfg_refused hm hr, commcfg_configures hm hr⟩
    case queues =>
      exact ⟨fun h => qreg_busy hm hr ((queueBusy_iff s q).mpr h),
        fun h => qreg_refused hm hr (mt (queueBusy_iff s q).mp h),
        fun h => qreg_registers hm hr (mt (queueBusy_iff s q).mp h)⟩

end Sys2Proof.Machine
end

section
/-!
PROOF. Decoding and encoding in both directions, O57, and the example words of O55. A word's instruction gives the word back
because the fields of its format stand side by side in it, from bit 31 down to bit 0.
-/
namespace Sys2Proof.Laws.Encoding

/-! ### From an instruction to its word and back -/

/-- The word of every well-formed instruction decodes to it; an event has no word. -/
theorem statement_holds (i : Instr) : Statement i := by
  cases i with
  | nop f => exact nop f
  | add f => exact add f
  | sub f => exact sub f
  | mul f => exact mul f
  | mulh f => exact mulh f
  | mad f => exact mad f
  | min f => exact min f
  | max f => exact max f
  | and f => exact and f
  | or f => exact or f
  | xor f => exact xor f
  | shl f => exact shl f
  | shr f => exact shr f
  | sar f => exact sar f
  | rot f => exact rot f
  | clz f => exact clz f
  | popc f => exact popc f
  | brev f => exact brev f
  | abs f => exact abs f
  | neg f => exact neg f
  | not f => exact not f
  | cmp f => exact cmp f
  | sel f => exact sel f
  | bfx f => exact bfx f
  | bfi f => exact bfi f
  | bsrd f => exact bsrd f
  | mov f => exact mov f
  | movs f => exact movs f
  | addi f => exact addi f
  | andi f => exact andi f
  | ori f => exact ori f
  | xori f => exact xori f
  | shli f => exact shli f
  | shri f => exact shri f
  | sari f => exact sari f
  | roti f => exact roti f
  | acq f => exact acq f
  | rel f => exact rel f
  | cmpi f => exact cmpi f
  | movi f => exact movi f
  | fadd f => exact fadd f
  | fsub f => exact fsub f
  | fmul f => exact fmul f
  | ffma f => exact ffma f
  | fmin f => exact fmin f
  | fmax f => exact fmax f
  | fcmp f => exact fcmp f
  | fcvt f => exact fcvt f
  | frnd f => exact frnd f
  | fscl f => exact fscl f
  | idp8 f => exact idp8 f
  | idp4 f => exact idp4 f
  | fdp8 f => exact fdp8 f
  | fdp4 f => exact fdp4 f
  | fdiv f => exact fdiv f
  | frcp f => exact frcp f
  | frsq f => exact frsq f
  | fsqrt f => exact fsqrt f
  | fex2 f => exact fex2 f
  | flg2 f => exact flg2 f
  | fsin f => exact fsin f
  | fcos f => exact fcos f
  | rnd f => exact rnd f
  | rndf f => exact rndf f
  | ld f => exact ld f
  | st f => exact st f
  | atomw f => exact atomw f
  | atomd f => exact atomd f
  | acas f => exact acas f
  | asput f => exact asput f
  | shfl f => exact shfl f
  | netmv f => exact netmv f
  | voteAll f => exact voteAll f
  | voteAny f => exact voteAny f
  | voteBallot f => exact voteBallot f
  | lred f => exact lred f
  | bra f => exact bra f
  | brx f => exact brx f
  | call f => exact call f
  | callf f => exact callf f
  | ret f => exact ret f
  | jmpr f => exact jmpr f
  | exit f => exact exit f
  | trap f => exact trap f
  | tret f => exact tret f
  | yield f => exact yield f
  | bkpt f => exact bkpt f
  | bar f => exact bar f
  | waitt f => exact waitt f
  | ffrt f => exact ffrt f
  | waita f => exact waita f
  | fenceRel f => exact fenceRel f
  | fenceAcq f => exact fenceAcq f
  | fenceFull f => exact fenceFull f
  | fenceLt f => exact fenceLt f
  | fenceHv f => exact fenceHv f
  | hgive f => exact hgive f
  | htake f => exact htake f
  | prfm f => exact prfm f
  | vqput f => exact vqput f
  | vqget f => exact vqget f
  | launch f => exact launch f
  | cwait f => exact cwait f
  | halt f => exact halt f
  | mfs f => exact mfs f
  | mts f => exact mts f
  | snop f => exact snop f
  | sadd f => exact sadd f
  | ssub f => exact ssub f
  | smul f => exact smul f
  | sand f => exact sand f
  | sor f => exact sor f
  | sxor f => exact sxor f
  | sshl f => exact sshl f
  | sshr f => exact sshr f
  | ssar f => exact ssar f
  | smin f => exact smin f
  | smax f => exact smax f
  | scmp f => exact scmp f
  | saddi f => exact saddi f
  | sandi f => exact sandi f
  | sori f => exact sori f
  | sshli f => exact sshli f
  | sshri f => exact sshri f
  | ssari f => exact ssari f
  | smovi f => exact smovi f
  | smovh f => exact smovh f
  | sld f => exact sld f
  | sst f => exact sst f
  | sbz f => exact sbz f
  | sbnz f => exact sbnz f
  | srd f => exact srd f
  | swr f => exact swr f
  | vtos f => exact vtos f
  | bind f => exact bind f
  | unbind f => exact unbind f
  | hod f => exact hod f
  | loom f => exact loom f
  | task f => exact task f
  | taskServe f => exact taskServe f
  | gset f => exact gset f
  | ksarm f => exact ksarm f
  | ksdis f => exact ksdis f
  | ksrd f => exact ksrd f
  | qfence f => exact qfence f
  | asrd f => exact asrd f
  | asrdp f => exact asrdp f
  | aswait f => exact aswait f
  | netld f => exact netld f
  | _ => exact fun _ _ hword => nomatch hword

/-! ### The fields of a word make up the word (R276, R278, R296) -/

/-- A field and the m bits below it, from bit lo on, are one field. -/
theorem append_field {w : Code} {n : Nat} {x : BitVec n} (lo m : Nat) (hx : x = field w (lo + m) n) :
    x ++ field w lo m = field w lo (n + m) := by
  subst hx
  exact BitVec.extractLsb'_append_extractLsb'_eq_extractLsb' rfl

/-- The word w has the SET bit s and the major n (R276). -/
structure Heads (s : BitVec 1) (n : Nat) (w : Code) : Prop where
  set : setOf w = s
  major : (opcOf w).toNat = n

section
variable {s : BitVec 1} {n : Nat} {w : Code}

theorem Heads.headBits_eq (h : Heads s n w) : headBits s (BitVec.ofNat 6 n) = field w 25 7 := by
  obtain ⟨rfl, rfl⟩ := h
  rw [BitVec.ofNat_toNat, BitVec.setWidth_eq]
  exact append_field 25 6 rfl

theorem packLA_laOf (h : Heads 0 n w) : packLA (BitVec.ofNat 6 n) (laOf w) = w :=
  (append_field 0 3 <| append_field 3 1 <| append_field 4 3 <| append_field 7 6 <|
    append_field 13 6 <| append_field 19 6 h.headBits_eq).trans
    BitVec.extractLsb'_eq_self

theorem packLI_liOf (h : Heads 0 n w) : packLI (BitVec.ofNat 6 n) (liOf w) = w :=
  (append_field 0 3 <| append_field 3 1 <| append_field 4 9 <|
    append_field 13 6 <| append_field 19 6 h.headBits_eq).trans
    BitVec.extractLsb'_eq_self

theorem packLX_lxOf (h : Heads 0 n w) : packLX (BitVec.ofNat 6 n) (lxOf w) = w :=
  (append_field 0 3 <| append_field 3 4 <| append_field 7 6 <|
    append_field 13 6 <| append_field 19 6 h.headBits_eq).trans
    BitVec.extractLsb'_eq_self

theorem packLXA_lxaOf (h : Heads 0 n w) : packLXA (BitVec.ofNat 6 n) (lxaOf w) = w :=
  (append_field 0 3 <| append_field 3 4 <| append_field 7 6 <|
    append_field 13 6 <| append_field 19 6 h.headBits_eq).trans
    BitVec.extractLsb'_eq_self

theorem packLM_lmOf (h : Heads 0 n w) : packLM (BitVec.ofNat 6 n) (lmOf w) = w :=
  (append_field 0 3 <| append_field 3 1 <| append_field 4 2 <| append_field 6 3 <| append_field 9 4 <|
    append_field 13 6 <| append_field 19 6 h.headBits_eq).trans
    BitVec.extractLsb'_eq_self

theorem packLB_lbOf (h : Heads 0 n w) : packLB (BitVec.ofNat 6 n) (lbOf w) = w :=
  (append_field 0 3 <| append_field 3 22 h.headBits_eq).trans
    BitVec.extractLsb'_eq_self

theorem packSA_saOf (h : Heads 1 n w) : packSA (BitVec.ofNat 6 n) (saOf w) = w :=
  (append_field 0 4 <| append_field 4 3 <| append_field 7 6 <|
    append_field 13 6 <| append_field 19 6 h.headBits_eq).trans
    BitVec.extractLsb'_eq_self

theorem packSI_siOf (h : Heads 1 n w) : packSI (BitVec.ofNat 6 n) (siOf w) = w :=
  (append_field 0 13 <| append_field 13 6 <| append_field 19 6 h.headBits_eq).trans
    BitVec.extractLsb'_eq_self

theorem packSW_swOf (h : Heads 1 n w) : packSW (BitVec.ofNat 6 n) (swOf w) = w :=
  (append_field 0 19 <| append_field 19 6 h.headBits_eq).trans
    BitVec.extractLsb'_eq_self

theorem packSB_sbOf (h : Heads 1 n w) : packSB (BitVec.ofNat 6 n) (sbOf w) = w :=
  (append_field 0 19 <| append_field 19 6 h.headBits_eq).trans
    BitVec.extractLsb'_eq_self

end

/-! ### From a word to its instruction and back -/

/-- What is read in the word w: if it is an instruction, that one is well formed, and w is its word. -/
def Reads (w : Code) : Decoded → Prop
  | .instr i => WellFormed i = true ∧ encode i = some w
  | .pfx _ => True
  | .illegal _ => True

section
variable {w v : Code}

theorem reads_instr {i : Instr} (hwf : WellFormed i = true) (hv : encode i = some v) (hw : v = w) : Reads w (.instr i) :=
  ⟨hwf, hw ▸ hv⟩

/-- A selector field that reads as the number k holds the code of k. -/
theorem beq_ofNat {n k : Nat} {x : BitVec n} (h : x.toNat = k) : (x == BitVec.ofNat n k) = true := by
  subst h
  simp

theorem bne_ofNat {n k : Nat} {x : BitVec n} (hk : k < 2 ^ n) (h : x.toNat ≠ k) : (x != BitVec.ofNat n k) = true := by
  refine bne_iff_ne.mpr fun hx => h ?_
  rw [hx, BitVec.toNat_ofNat, Nat.mod_eq_of_lt hk]

theorem reads_ite {p : Prop} [Decidable p] {x y : Decoded} (hx : p → Reads w x) (hy : ¬p → Reads w y) :
    Reads w (if p then x else y) := by
  split
  · exact hx ‹p›
  · exact hy ‹¬p›

theorem decodeUnary_reads {f : LA} (hw : packLA 0xe f = w) : Reads w (decodeUnary f) := by
  unfold decodeUnary
  split
  case h_7 => trivial
  all_goals exact reads_instr (beq_ofNat ‹_›) rfl hw

theorem decodeTrans_reads {f : LX} (hw : packLX 0x2e f = w) : Reads w (decodeTrans f) := by
  unfold decodeTrans
  split
  case h_8 => trivial
  all_goals exact reads_instr (beq_ofNat ‹_›) rfl hw

theorem decodeShift_reads {f : LI} (hw : packLI 0x1a f = w) : Reads w (decodeShift f) := by
  unfold decodeShift
  have hlt := (shiftKind f).isLt
  generalize hk : (shiftKind f).toNat = k at hlt ⊢
  match k with
  | 0 | 1 | 2 | 3 => exact reads_instr (beq_ofNat hk) rfl hw
  | k + 4 => omega

/-- Kinds 2 and 5 to 7 are FULL (R229, R300). -/
theorem decodeFence_reads {f : LX} (hb : (f.b == 11) = true) (hw : packLX 0x3e f = w) : Reads w (decodeFence f) := by
  unfold decodeFence
  split
  case h_5 h0 h1 h3 h4 =>
    refine reads_instr ?_ rfl hw
    simp only [WellFormed, Bool.and_eq_true]
    exact ⟨⟨⟨⟨hb, bne_ofNat (by decide) h0⟩, bne_ofNat (by decide) h1⟩,
      bne_ofNat (by decide) h3⟩, bne_ofNat (by decide) h4⟩
  all_goals exact reads_instr (Bool.and_eq_true_iff.mpr ⟨hb, beq_ofNat ‹_›⟩) rfl hw

theorem decodeControl_reads {f : LX} (hw : packLX 0x3e f = w) : Reads w (decodeControl f) := by
  unfold decodeControl
  generalize hk : f.b.toNat = k
  match k with
  | 11 => exact decodeFence_reads (beq_ofNat hk) hw
  | 20 | 21 =>
    exact reads_ite (fun ha => reads_instr (Bool.and_eq_true_iff.mpr ⟨beq_ofNat hk, ha⟩) rfl hw) (fun _ => trivial)
  | 0 | 1 | 2 | 3 | 4 | 5 | 6 | 7 | 8 | 9 | 10 | 12 | 13 | 14 | 15 | 16 | 17 | 18 | 19 =>
    exact reads_instr (beq_ofNat hk) rfl hw
  | k + 22 => trivial

/-- A lane word, by its major: the majors of one format each, then those whose words a further field tells apart. -/
theorem decodeLane_reads {n : Nat} (h : Heads 0 n w) : Reads w (decodeLane w) := by
  rw [decodeLane, h.major]
  match n with
  | 0x0 | 0x1 | 0x2 | 0x3 | 0x4 | 0x5 | 0x6 | 0x7 | 0x8 | 0x9 | 0xa | 0xb | 0xc | 0xd | 0xf | 0x10 | 0x11 | 0x12 | 0x13
  | 0x14 | 0x1f | 0x20 | 0x21 | 0x22 | 0x23 | 0x24 | 0x25 | 0x26 | 0x27 | 0x28 | 0x29 | 0x2a | 0x2b | 0x2c | 0x35 =>
    exact reads_instr rfl rfl (packLA_laOf h)
  | 0x16 | 0x17 | 0x18 | 0x19 | 0x1d | 0x1e => exact reads_instr rfl rfl (packLI_liOf h)
  | 0x1b | 0x1c | 0x2d | 0x36 | 0x37 | 0x39 => exact reads_instr rfl rfl (packLX_lxOf h)
  | 0x32 | 0x33 => exact reads_instr rfl rfl (packLXA_lxaOf h)
  | 0x3a | 0x3b | 0x3c | 0x3d => exact reads_instr rfl rfl (packLB_lbOf h)
  | 0xe => exact decodeUnary_reads (packLA_laOf h)
  | 0x1a => exact decodeShift_reads (packLI_liOf h)
  | 0x2e => exact decodeTrans_reads (packLX_lxOf h)
  | 0x3e => exact decodeControl_reads (packLX_lxOf h)
  | 0x15 =>
    exact reads_ite (fun ht => reads_instr (beq_iff_eq.mpr ht) rfl (packLA_laOf h))
      (fun ht => reads_instr (bne_iff_ne.mpr ht) rfl (packLA_laOf h))
  | 0x2f =>
    exact reads_ite (fun hb => reads_instr (beq_iff_eq.mpr hb) rfl (packLX_lxOf h)) (fun _ =>
      reads_ite (fun hb => reads_instr (beq_iff_eq.mpr hb) rfl (packLX_lxOf h)) (fun _ => trivial))
  | 0x30 | 0x31 => exact reads_ite (fun hwidth => reads_instr hwidth rfl (packLM_lmOf h)) (fun _ => trivial)
  | 0x34 => exact reads_ite (fun hop => reads_instr hop rfl (packLXA_lxaOf h)) (fun _ => trivial)
  | 0x38 =>
    exact reads_ite (fun ht => reads_instr (beq_iff_eq.mpr ht) rfl (packLA_laOf h)) (fun hany =>
      reads_ite (fun ht => reads_instr (beq_iff_eq.mpr ht) rfl (packLA_laOf h)) (fun hballot =>
        reads_instr (Bool.and_eq_true_iff.mpr ⟨bne_iff_ne.mpr hany, bne_iff_ne.mpr hballot⟩) rfl (packLA_laOf h)))
  | n + 63 => trivial

/-- A uniform word, by its major: the majors of one format each, then those whose words a further field tells apart. -/
theorem decodeUniform_reads {n : Nat} (h : Heads 1 n w) : Reads w (decodeUniform w) := by
  rw [decodeUniform, h.major]
  match n with
  | 0x0 | 0x1 | 0x2 | 0x3 | 0x4 | 0x5 | 0x6 | 0x7 | 0x8 | 0x9 | 0xa | 0xb | 0xc | 0x19 | 0x1b | 0x1c | 0x1e | 0x1f | 0x20
  | 0x21 | 0x22 | 0x23 | 0x24 | 0x25 | 0x26 => exact reads_instr rfl rfl (packSA_saOf h)
  | 0xd | 0xe | 0xf | 0x13 | 0x14 => exact reads_instr rfl rfl (packSI_siOf h)
  | 0x11 | 0x12 => exact reads_instr rfl rfl (packSW_swOf h)
  | 0x15 | 0x16 => exact reads_instr rfl rfl (packSB_sbOf h)
  | 0x10 =>
    exact reads_ite (fun hk => reads_instr (beq_iff_eq.mpr hk) rfl (packSI_siOf h)) (fun _ =>
      reads_ite (fun hk => reads_instr (beq_iff_eq.mpr hk) rfl (packSI_siOf h)) (fun _ =>
        reads_ite (fun hk => reads_instr (beq_iff_eq.mpr hk) rfl (packSI_siOf h)) (fun _ => trivial)))
  | 0x17 | 0x18 => exact reads_ite (fun hnum => reads_instr hnum rfl (packSI_siOf h)) (fun _ => trivial)
  | 0x1a | 0x1d =>
    exact reads_ite (fun hfn => reads_instr (beq_iff_eq.mpr hfn) rfl (packSA_saOf h)) (fun _ =>
      reads_ite (fun hfn => reads_instr (beq_iff_eq.mpr hfn) rfl (packSA_saOf h)) (fun _ => trivial))
  | n + 39 => trivial

end

theorem setOf_eq_zero {w : Code} (hset : setOf w ≠ 1) : setOf w = 0 :=
  (BitVec.eq_zero_or_eq_one (setOf w)).resolve_right hset

theorem decodeWord_reads (w : Code) : Reads w (decodeWord w) :=
  reads_ite (fun hset => decodeUniform_reads ⟨hset, rfl⟩) (fun hset => decodeLane_reads ⟨setOf_eq_zero hset, rfl⟩)

/-! ### The obligations -/

/-- Settles O57: an instruction's word decodes to it, case by case over the instructions, and a word that decodes to an
instruction is its word, case by case over the majors and the fields that tell instructions of one major apart. -/
theorem encodingRoundTrip : Obligations.EncodingRoundTrip := by
  refine ⟨?decodes, ?encodes⟩
  case decodes => exact fun i w hwf hword => statement_holds i hwf w hword
  case encodes =>
    intro w i hi
    have hreads := decodeWord_reads w
    rwa [hi] at hreads

/-- Major 0x3F widens the next word in the lane set only; in the uniform set it is unassigned (R283, R298). -/
theorem decodeWord_uniform_major3F : decodeWord 0xFE000000 = .illegal "uniform major" := by decide

/-- Settles O55: each instruction's word is the example word, so the word decodes to it. -/
theorem decodedWords : Obligations.DecodedWords := by
  have hword {i : Instr} {w : Code} (hwf : WellFormed i = true) (hw : encode i = some w) : decodeWord w = .instr i :=
    statement_holds i hwf w hw
  refine ⟨hword rfl (by decide), hword rfl (by decide), hword rfl (by decide), by decide, hword rfl (by decide),
    hword rfl (by decide), hword rfl (by decide), hword rfl (by decide), hword rfl (by decide), hword rfl (by decide),
    fun i hi => ?_⟩
  rw [decodeWord_uniform_major3F] at hi
  cases hi

end Sys2Proof.Laws.Encoding
end

section
/-!
PROOF. The integer instructions of the lane ALU pipe (R351, R355, R356, R363, R369, R372, R396, R410, R412, R413,
R418, R427, R430): from the elements and bits of a result to O1 to O5.
-/
namespace Sys2Proof.Machine

/-! ### Integers as elements -/

theorem fit_lt (w : Nat) (sat : Bool) (z : Int) : fit w sat z < 2 ^ w := by
  have h := wrapTo_lt w (if sat then max (-(2 ^ (w - 1))) (min z (2 ^ (w - 1) - 1)) else z)
  simpa only [fit, wrapTo] using h

theorem wrapTo_eq_fit (w : Nat) (z : Int) : wrapTo w z = fit w false z := rfl

theorem clampTo_eq_fit (w : Nat) (z : Int) : clampTo w z = fit w true z := by
  have hpos : (0 : Int) < 2 ^ (w - 1) := by positivity
  unfold clampTo fit wrapTo
  generalize (2 : Int) ^ (w - 1) = h at *
  simp only [if_true]
  split
  · rw [max_eq_left (by omega)]
  · split
    · rw [min_eq_right (by omega), max_eq_right (by omega)]
    · rw [min_eq_left (by omega), max_eq_right (by omega)]

/-- Integers that agree modulo 2^w are the same element. -/
theorem fit_congr {w : Nat} {x y : Int} (h : x % 2 ^ w = y % 2 ^ w) : fit w false x = fit w false y := by
  simp only [fit, Bool.false_eq_true, if_false, h]

theorem fit_natCast (w n : Nat) : fit w false (n : Int) = n % 2 ^ w := by
  have h : (n : Int) % 2 ^ w = ((n % 2 ^ w : Nat) : Int) := by push_cast; rfl
  simp only [fit, Bool.false_eq_true, if_false, h, Int.toNat_natCast]

/-- An element read as two's complement is the element modulo 2^w. -/
theorem signedOf_emod (w n : Nat) : signedOf w n % 2 ^ w = (n : Int) % 2 ^ w := by
  unfold signedOf
  split
  · rfl
  · exact Int.sub_emod_right _ _

theorem signedOf_inj {w a b : Nat} (ha : a < 2 ^ w) (hb : b < 2 ^ w) : signedOf w a = signedOf w b ↔ a = b := by
  unfold signedOf
  have hm : ((2 ^ w : Nat) : Int) = 2 ^ w := by norm_cast
  rw [← hm]
  generalize 2 ^ w = m at *
  split <;> split <;> omega

theorem signedOf_toNat {w : Nat} (x : BitVec w) : signedOf w x.toNat = x.toInt := by
  rw [signedOf, BitVec.toInt]
  norm_cast

/-! ### From an element-wise meaning to its claim -/

section
variable {s : State} {f : LA} {i : Instr}

/-- An instruction whose meaning gives each element from those of v(a) and v(b). -/
theorem completes_elementwise {w : Nat} {g h : Nat → Nat → Nat} (he : exec i s = laneAlu i (put2 f (zipElems w g)) s)
    (hg : ∀ a b, a < 2 ^ w → b < 2 ^ w → g a b = h a b ∧ h a b < 2 ^ w) (hs : s.clear i = true) :
    Completes s i (Writes s i f.d (Elementwise w f.a f.b h)) := by
  refine completes_writes he hs (fun _ _ => rfl) fun c j hj => ?_
  obtain ⟨h1, h2⟩ := hg _ _ (elemAt_lt w (c.regs.get f.a).toNat j) (elemAt_lt w (c.regs.get f.b).toNat j)
  rw [elemAt_zipElems hj, h1, Nat.mod_eq_of_lt h2]
  rfl

/-- An instruction whose meaning gives each element from that of v(a). -/
theorem completes_elementwise1 {w : Nat} {g h : Nat → Nat} (he : exec i s = laneAlu i (put1 f (mapElems w g)) s)
    (hg : ∀ a, a < 2 ^ w → g a = h a ∧ h a < 2 ^ w) (hs : s.clear i = true) :
    Completes s i (Writes s i f.d (Elementwise1 w f.a h)) := by
  refine completes_writes he hs (fun _ _ => rfl) fun c j hj => ?_
  obtain ⟨h1, h2⟩ := hg _ (elemAt_lt w (c.regs.get f.a).toNat j)
  rw [elemAt_mapElems hj, h1, Nat.mod_eq_of_lt h2]
  rfl

/-- An element-wise claim said as a property of each element. -/
theorem completes_elements {w : Nat} {g : Nat → Nat → Nat} {r : Nat → Nat → Nat → Prop}
    (he : exec i s = laneAlu i (put2 f (zipElems w g)) s)
    (hg : ∀ a b, a < 2 ^ w → b < 2 ^ w → g a b < 2 ^ w ∧ r a b (g a b)) (hs : s.clear i = true) :
    Completes s i (Writes s i f.d (fun c x => ∀ j < 64 / w, r (c.elem w f.a j) (c.elem w f.b j) (elemAt w x.toNat j))) := by
  refine completes_writes he hs (fun _ _ => rfl) fun c j hj => ?_
  obtain ⟨h1, h2⟩ := hg _ _ (elemAt_lt w (c.regs.get f.a).toNat j) (elemAt_lt w (c.regs.get f.b).toNat j)
  rw [elemAt_zipElems hj, Nat.mod_eq_of_lt h1]
  exact h2

/-- The same of one operand. -/
theorem completes_elements1 {w : Nat} {g : Nat → Nat} {r : Nat → Nat → Prop}
    (he : exec i s = laneAlu i (put1 f (mapElems w g)) s)
    (hg : ∀ a, a < 2 ^ w → g a < 2 ^ w ∧ r a (g a)) (hs : s.clear i = true) :
    Completes s i (Writes s i f.d (fun c x => ∀ j < 64 / w, r (c.elem w f.a j) (elemAt w x.toNat j))) := by
  refine completes_writes he hs (fun _ _ => rfl) fun c j hj => ?_
  obtain ⟨h1, h2⟩ := hg _ (elemAt_lt w (c.regs.get f.a).toNat j)
  rw [elemAt_mapElems hj, Nat.mod_eq_of_lt h1]
  exact h2

end

/-! ### Integer arithmetic (R355, R410) -/

theorem addElem_eq_fit (w : Nat) (sat : Bool) (a b : Nat) : addElem w sat a b = fit w sat (signedOf w a + signedOf w b) := by
  cases sat with
  | true => exact clampTo_eq_fit w _
  | false =>
    have h : (signedOf w a + signedOf w b) % 2 ^ w = ((a + b : Nat) : Int) % 2 ^ w := by
      rw [Int.add_emod, signedOf_emod, signedOf_emod, ← Int.add_emod, Nat.cast_add]
    rw [fit_congr h, fit_natCast]
    rfl

theorem subElem_eq_fit (w : Nat) (sat : Bool) (a b : Nat) : subElem w sat a b = fit w sat (signedOf w a - signedOf w b) := by
  cases sat with
  | true => exact clampTo_eq_fit w _
  | false =>
    have h : (signedOf w a - signedOf w b) % 2 ^ w = ((a : Int) - b) % 2 ^ w := by
      rw [Int.sub_emod, signedOf_emod, signedOf_emod, ← Int.sub_emod]
    rw [fit_congr h]
    rfl

theorem mulhElem_eq (w : Nat) (uns : Bool) (a b : Nat) :
    mulhElem w uns a b = if uns then a * b / 2 ^ w else fit w false (signedOf w a * signedOf w b / 2 ^ w) := rfl

theorem mulhElem_lt {w a b : Nat} (uns : Bool) (ha : a < 2 ^ w) (hb : b < 2 ^ w) : mulhElem w uns a b < 2 ^ w := by
  rw [mulhElem_eq]
  split
  · exact Nat.div_lt_of_lt_mul (Nat.mul_lt_mul'' ha hb)
  · exact fit_lt ..

theorem absElem_eq_fit (w : Nat) (sat : Bool) (a : Nat) : absElem w sat a = fit w sat (signedOf w a).natAbs := by
  cases sat with
  | true => exact clampTo_eq_fit w _
  | false => rfl

theorem negElem_eq_fit (w : Nat) (sat : Bool) (a : Nat) : negElem w sat a = fit w sat (-signedOf w a) := by
  cases sat with
  | true => exact clampTo_eq_fit w _
  | false => rfl

/-- An element of MAD's result (R410). -/
theorem elemAt_madElems {w j : Nat} (hj : j < 64 / w) (a b c : Word) : elemAt w (madElems w a b c).toNat j =
    (elemAt w a.toNat j * elemAt w b.toNat j + elemAt w c.toNat j) % 2 ^ w := by
  rw [madElems, elemAt_zipElems hj, elemAt_zipElems hj, addElem, mulElem, if_neg Bool.false_ne_true, Nat.mod_mod, Nat.mod_mod,
    Nat.mod_add_mod]

theorem addend_eq (p : Pfx) (d : Reg) (c : Ctx) : addend p d c.regs = c.regs.get (if p.e = 0 then d else p.e) := by
  unfold addend
  split <;> rfl

/-- How MIN, MAX and CMP read an element: signed, or unsigned (R286). -/
def readElem (w : Nat) (uns : Bool) (n : Nat) : Int := if uns then n else signedOf w n

theorem leElem_iff (w : Nat) (uns : Bool) (a b : Nat) : leElem w uns a b = true ↔ readElem w uns a ≤ readElem w uns b := by
  cases uns <;> simp [leElem, readElem]

theorem minElem_spec (w : Nat) (uns : Bool) (a b : Nat) : (minElem w uns a b = a ∨ minElem w uns a b = b) ∧
    readElem w uns (minElem w uns a b) = min (readElem w uns a) (readElem w uns b) := by
  unfold minElem
  split
  case isTrue h => exact ⟨.inl rfl, (min_eq_left ((leElem_iff w uns a b).mp h)).symm⟩
  case isFalse h => exact ⟨.inr rfl, (min_eq_right (not_le.mp (mt (leElem_iff w uns a b).mpr h)).le).symm⟩

theorem maxElem_spec (w : Nat) (uns : Bool) (a b : Nat) : (maxElem w uns a b = a ∨ maxElem w uns a b = b) ∧
    readElem w uns (maxElem w uns a b) = max (readElem w uns a) (readElem w uns b) := by
  unfold maxElem
  split
  case isTrue h => exact ⟨.inr rfl, (max_eq_right ((leElem_iff w uns a b).mp h)).symm⟩
  case isFalse h => exact ⟨.inl rfl, (max_eq_left (not_le.mp (mt (leElem_iff w uns a b).mpr h)).le).symm⟩

/-! ### Bits of elements -/

theorem viewWidth_dvd (t : BitVec 3) : viewWidth t ∣ 64 := by
  unfold viewWidth
  split <;> decide

/-- A bit of a register is a bit of the element that it lies in. -/
theorem getLsbD_eq_elemAt {w : Nat} (hw : 0 < w) (x : Word) (n : Nat) :
    x.getLsbD n = (elemAt w x.toNat (n / w)).testBit (n % w) := by
  rw [elemAt, Nat.testBit_mod_two_pow, Nat.testBit_div_two_pow, decide_eq_true (Nat.mod_lt n hw), Bool.true_and,
    Nat.mul_comm, Nat.mod_add_div]
  rfl

theorem testBit_notElem {w a n : Nat} (hn : n < w) : (notElem w a).testBit n = !a.testBit n := by
  rw [notElem, Nat.sub_sub, Nat.add_comm 1, Nat.testBit_two_pow_sub_succ (Nat.mod_lt _ (Nat.two_pow_pos w)),
    Nat.testBit_mod_two_pow, decide_eq_true hn, Bool.true_and, Bool.true_and]

theorem getLsbD_mapElems_not {w n : Nat} (hw : 0 < w) (hdvd : w ∣ 64) (hn : n < 64) (a : Word) :
    (mapElems w (notElem w) a).getLsbD n = !a.getLsbD n := by
  have hj : n / w < 64 / w := Nat.div_lt_div_of_lt_of_dvd hdvd hn
  rw [getLsbD_eq_elemAt hw, elemAt_mapElems hj, Nat.testBit_mod_two_pow, decide_eq_true (Nat.mod_lt n hw), Bool.true_and,
    testBit_notElem (Nat.mod_lt n hw), ← getLsbD_eq_elemAt hw]

/-! ### Compares (R288, R372) -/

/-- The conditions on elements of width w are those of R288 on integers. -/
theorem intCond_iff {w a b : Nat} (c : BitVec 3) (uns : Bool) (ha : a < 2 ^ w) (hb : b < 2 ^ w) :
    intCond c w uns a b = true ↔ holdsInt c (readElem w uns a) (readElem w uns b) a b := by
  have heq : readElem w uns a = readElem w uns b ↔ a = b := by
    cases uns with
    | true => exact Int.ofNat_inj
    | false => exact signedOf_inj ha hb
  unfold intCond holdsInt
  generalize c.toNat = k
  match k with
  | 0 => exact beq_iff_eq.trans heq.symm
  | 1 => exact bne_iff_ne.trans heq.symm.not
  | 2 | 3 | 4 | 5 => exact decide_eq_true_iff
  | 6 => exact bne_iff_ne
  | _ + 7 => exact beq_iff_eq

/-- A compare writes its condition to a predicate and to no register. -/
theorem completes_compares {s : State} {i : Instr} {p : BitVec 3} {g : Ctx → Bool} {cond : Ctx → Prop}
    (he : exec i s = laneAlu i (fun c => c.regs.putPred p (g c)) s) (hg : ∀ c w, g (c.warned w) = g c)
    (hc : ∀ c, g c = true ↔ cond c) (hs : s.clear i = true) :
    Completes s i (fun c c' => ∃ b : Bool, (b = true ↔ cond c) ∧ Moves s c c' ((s.recorded i c).putPred p b)) :=
  completes_moves he hs fun c _ h => ⟨g c, hc c, by rw [hg] at h; exact h⟩

theorem sext_eq_ofInt {n : Nat} (x : BitVec n) : (sext x : Word) = BitVec.ofInt 64 x.toInt := rfl

theorem toInt_sext {n : Nat} (hn : n ≤ 64) (x : BitVec n) : (sext x : Word).toInt = x.toInt :=
  BitVec.toInt_signExtend_of_le hn

/-- Settles O1: each instruction's meaning, element by element, is the exact integer of the claim fitted to the element, or
one of the operands; CMP and CMPI by the conditions of R288. -/
theorem integerOperations : Obligations.IntegerOperations := by
  refine ⟨fun s f => ⟨?_, ?_, ?_, ?_, ?_⟩, fun s f => ⟨?_, ?_, ?_, ?_, ?_, ?_, ?_, ?_⟩, fun s f g => ⟨?_, ?_⟩⟩
  · exact completes_elementwise rfl fun a b _ _ => ⟨addElem_eq_fit _ _ a b, fit_lt ..⟩
  · exact completes_elementwise rfl fun a b _ _ => ⟨subElem_eq_fit _ _ a b, fit_lt ..⟩
  · exact completes_elementwise rfl fun a b _ _ => ⟨rfl, Nat.mod_lt _ (Nat.two_pow_pos _)⟩
  · exact completes_elementwise rfl fun a b ha hb => ⟨rfl, mulhElem_lt (tmod f) ha hb⟩
  · refine fun hs => completes_writes rfl hs (fun _ _ => rfl) fun c j hj => ?_
    rw [elemAt_madElems hj, addend_eq]
    rfl
  · refine completes_elements (g := minElem (viewWidth f.t) (tmod f)) (r := fun a b e => (e = a ∨ e = b) ∧ _ = min _ _) rfl
      fun a b ha hb => ⟨?_, minElem_spec _ (tmod f) a b⟩
    rcases (minElem_spec (viewWidth f.t) (tmod f) a b).1 with h | h <;> omega
  · refine completes_elements (g := maxElem (viewWidth f.t) (tmod f)) (r := fun a b e => (e = a ∨ e = b) ∧ _ = max _ _) rfl
      fun a b ha hb => ⟨?_, maxElem_spec _ (tmod f) a b⟩
    rcases (maxElem_spec (viewWidth f.t) (tmod f) a b).1 with h | h <;> omega
  · exact fun hs => completes_writes rfl hs (fun _ _ => rfl) fun c n => BitVec.getLsbD_and
  · exact fun hs => completes_writes rfl hs (fun _ _ => rfl) fun c n => BitVec.getLsbD_or
  · exact fun hs => completes_writes rfl hs (fun _ _ => rfl) fun c n => BitVec.getLsbD_xor
  · exact fun hs => completes_writes rfl hs (fun _ _ => rfl) fun c n hn =>
      getLsbD_mapElems_not (viewWidth_pos _) (viewWidth_dvd _) hn _
  · exact completes_elementwise1 rfl fun a _ => ⟨absElem_eq_fit _ _ a, fit_lt ..⟩
  · exact completes_elementwise1 rfl fun a _ => ⟨negElem_eq_fit _ _ a, fit_lt ..⟩
  · exact completes_compares rfl (fun _ _ => rfl) fun c => intCond_iff _ _ (elemAt_lt ..) (elemAt_lt ..)
  · refine completes_compares rfl (fun _ _ => rfl) fun c => ?_
    have h := intCond_iff (w := 64) (condField g.d) false (c.regs.get g.a).isLt (sext g.imm : Word).isLt
    simp only [readElem, Bool.false_eq_true, if_false, signedOf_toNat, toInt_sext (show 9 ≤ 64 by decide)] at h
    exact h

end Sys2Proof.Machine
end

section
/-!
PROOF. Shifts, bit counts, bit fields and the bit stream (R351, R355, R363, R369): bits of the elements of a result, for O2
and O3.
-/
namespace Sys2Proof.Machine

/-! ### Shifts (R355) -/

theorem shrElem_lt {w a : Nat} (ha : a < 2 ^ w) (b : Nat) : shrElem w a b < 2 ^ w :=
  Nat.lt_of_le_of_lt (Nat.div_le_self ..) ha

/-- A rotation moves bit n to bit (n + b) mod w. -/
theorem testBit_rotElem {w a b n : Nat} (hw : 0 < w) (ha : a < 2 ^ w) (hn : n < w) :
    (rotElem w a b).testBit ((n + b) % w) = a.testBit n := by
  have hk : b % w < w := Nat.mod_lt b hw
  rw [Nat.add_mod, Nat.mod_eq_of_lt hn, rotElem]
  generalize b % w = k at *
  have hlow : a / 2 ^ (w - k) < 2 ^ k := by
    rw [Nat.div_lt_iff_lt_mul (Nat.two_pow_pos _), ← Nat.pow_add, Nat.add_sub_cancel' hk.le]
    exact ha
  rw [Nat.testBit_mod_two_pow, decide_eq_true (Nat.mod_lt _ hw), Bool.true_and, Nat.mul_comm,
    Nat.testBit_two_pow_mul_add a hlow]
  by_cases hwrap : n + k < w
  · rw [Nat.mod_eq_of_lt hwrap, if_neg (by omega), Nat.add_sub_cancel]
  · have hmod : (n + k) % w = n + k - w := by
      rw [Nat.mod_eq_sub_mod (by omega), Nat.mod_eq_of_lt (by omega)]
    rw [hmod, if_pos (by omega), Nat.testBit_div_two_pow]
    congr 1
    omega

/-! ### Bit counts and reversal (R351) -/

theorem clzElem_spec {w a : Nat} (ha : a < 2 ^ w) : if a = 0 then clzElem w a = w
    else clzElem w a < w ∧ 2 ^ (w - 1 - clzElem w a) ≤ a ∧ a < 2 ^ (w - clzElem w a) := by
  split
  case isTrue h => rw [clzElem, if_pos h]
  case isFalse h =>
    have hlog : Nat.log2 a < w := (Nat.log2_lt h).mpr ha
    rw [clzElem, if_neg h, show w - 1 - (w - 1 - Nat.log2 a) = Nat.log2 a by omega,
      show w - (w - 1 - Nat.log2 a) = Nat.log2 a + 1 by omega]
    exact ⟨by omega, Nat.log2_self_le h, Nat.lt_log2_self⟩

theorem clzElem_le (w a : Nat) : clzElem w a ≤ w := by
  unfold clzElem
  split <;> omega

/-- The one bits among the lowest n, counted by their places. -/
theorem popCount_eq_length (n x : Nat) : popCount n x = ((List.range n).filter (fun k => x.testBit k)).length := by
  induction n generalizing x with
  | zero => rfl
  | succ n ih =>
    have hshift : (fun k => x.testBit k) ∘ Nat.succ = fun k => (x / 2).testBit k := by
      funext k
      exact Nat.testBit_succ x k
    rw [popCount, ih, List.range_succ_eq_map, List.filter_cons, List.filter_map, hshift, Nat.testBit_zero]
    rcases Nat.mod_two_eq_zero_or_one x with h | h <;> simp [h, Nat.add_comm]

theorem popCount_le (n x : Nat) : popCount n x ≤ n := by
  rw [popCount_eq_length]
  exact Nat.le_trans (List.length_filter_le ..) (List.length_range ..).le

theorem revBits_lt (n x : Nat) : revBits n x < 2 ^ n := by
  induction n generalizing x with
  | zero => exact Nat.one_pos
  | succ n ih =>
    have h := ih (x / 2)
    have hbit : x % 2 * 2 ^ n ≤ 1 * 2 ^ n := Nat.mul_le_mul_right _ (by omega)
    rw [revBits, Nat.pow_succ]
    omega

/-- Reversal moves bit n - 1 - k to bit k. -/
theorem testBit_revBits {n k : Nat} (hk : k < n) (x : Nat) : (revBits n x).testBit k = x.testBit (n - 1 - k) := by
  induction n generalizing x with
  | zero => omega
  | succ n ih =>
    rw [revBits, Nat.mul_comm, Nat.testBit_two_pow_mul_add _ (revBits_lt n (x / 2))]
    split
    case isTrue h =>
      rw [ih h, show n + 1 - 1 - k = (n - 1 - k) + 1 by omega, Nat.testBit_succ]
    case isFalse h =>
      obtain rfl : k = n := by omega
      simp

/-- The widths of views leave room for a count of their bits. -/
theorem count_lt_view {t : BitVec 3} {n : Nat} (h : n ≤ viewWidth t) : n < 2 ^ viewWidth t :=
  Nat.lt_of_le_of_lt h Nat.lt_two_pow_self

/-! ### The bit stream (R369) -/

/-- What BSRD leaves of the registers, by whether the cursor passes bit 63. -/
theorem bsrdRegs_eq (f : LA) (r : Regs) :
    let n := (r.get f.a).toNat % 64
    let hi := r.getN (f.b.toNat + 1)
    let x : Word := BitVec.ofNat 64 ((hi.toNat * 2 ^ 64 + (r.get f.b).toNat) / 2 ^ r.bcur.toNat % 2 ^ n)
    let cur := r.bcur.toNat + n
    bsrdRegs f r =
      if cur < 64 then { (r.put f.d x).putPred 7 false with bcur := BitVec.ofNat 6 cur }
      else { (((r.put f.d x).put f.b hi).putN (f.b.toNat + 1) 0).putPred 7 true with bcur := BitVec.ofNat 6 (cur - 64) } := by
  intro n hi x cur
  rw [bsrdRegs, Nat.add_comm (r.get f.b).toNat]
  by_cases h : cur < 64
  · rw [if_pos h]
    exact if_neg (Nat.not_le.mpr h)
  · rw [if_neg h]
    exact if_pos (Nat.not_lt.mp h)

/-- Settles O2: shifts, counts and reversal bit by bit, and BSRD by whether its cursor passes bit 63. -/
theorem shiftsAndStream : Obligations.ShiftsAndStream := by
  refine ⟨fun s f => ⟨?_, ?_, ?_, ?_, ?_, ?_, ?_⟩, fun s f hs => ?_⟩
  · exact completes_elementwise rfl fun a b _ _ => ⟨rfl, Nat.mod_lt _ (Nat.two_pow_pos _)⟩
  · exact completes_elementwise rfl fun a b ha _ => ⟨rfl, shrElem_lt ha b⟩
  · exact completes_elementwise rfl fun a b _ _ => ⟨rfl, fit_lt ..⟩
  · exact completes_elements (r := fun a b e => ∀ n < viewWidth f.t, e.testBit ((n + b) % viewWidth f.t) = a.testBit n) rfl
      fun a b ha _ => ⟨Nat.mod_lt _ (Nat.two_pow_pos _), fun n hn => testBit_rotElem (viewWidth_pos _) ha hn⟩
  · exact completes_elements1 (w := viewWidth f.t) (r := fun a e => if a = 0 then e = viewWidth f.t
      else e < viewWidth f.t ∧ 2 ^ (viewWidth f.t - 1 - e) ≤ a ∧ a < 2 ^ (viewWidth f.t - e)) rfl
      fun a ha => ⟨count_lt_view (clzElem_le _ a), clzElem_spec ha⟩
  · exact completes_elementwise1 rfl fun a _ =>
      ⟨popCount_eq_length _ a, count_lt_view (Nat.le_trans (List.length_filter_le ..) (List.length_range ..).le)⟩
  · exact completes_elements1 (r := fun a e => ∀ n < viewWidth f.t, e.testBit n = a.testBit (viewWidth f.t - 1 - n)) rfl
      fun a _ => ⟨revBits_lt _ a, fun n hn => testBit_revBits hn a⟩
  · refine completes_moves rfl hs fun c c' h => ?_
    rw [bsrdRegs_eq] at h
    exact h

/-! ### Bit fields (R363) -/

/-- A field of a register sign-extended. -/
theorem getLsbD_sextNat {w : Nat} (hw : w ≤ 64) (x : Nat) {n : Nat} (hn : n < 64) :
    (sextNat w x).getLsbD n = if n < w then x.testBit n else decide (0 < w) && x.testBit (w - 1) := by
  have hext : sextNat w x = (BitVec.ofNat w x).signExtend 64 := by
    rw [sextNat, BitVec.signExtend, ← BitVec.toNat_ofNat, signedOf_toNat]
  rw [hext, BitVec.getLsbD_signExtend, decide_eq_true hn, Bool.true_and, BitVec.getLsbD_ofNat, BitVec.msb_eq_getLsbD_last,
    BitVec.getLsbD_ofNat]
  split
  case isTrue h => simp [h]
  case isFalse h => cases w <;> simp

/-- The field that v(b) describes: its place and its width, cut at bit 63. -/
theorem fieldWidth_eq (b : Word) : fieldWidth b = min (b.toNat / 256 % 128) (64 - b.toNat % 64) := by
  simp [fieldWidth, BitVec.extractLsb'_toNat, Nat.shiftRight_eq_div_pow]

theorem fieldPos_eq (b : Word) : (b.extractLsb' 0 6).toNat = b.toNat % 64 := by
  simp [BitVec.extractLsb'_toNat]

theorem getLsbD_bfxWord (a b : Word) {n : Nat} (hn : n < 64) :
    let pos := b.toNat % 64
    let wid := min (b.toNat / 256 % 128) (64 - pos)
    (bfxWord a b).getLsbD n = if n < wid then a.getLsbD (pos + n)
      else b.getLsbD 16 && decide (wid > 0) && a.getLsbD (pos + wid - 1) := by
  intro pos wid
  have hbit : ∀ k < wid, (a.toNat / 2 ^ pos % 2 ^ wid).testBit k = a.getLsbD (pos + k) := by
    intro k hk
    rw [Nat.testBit_mod_two_pow, Nat.testBit_div_two_pow, decide_eq_true hk, Bool.true_and, Nat.add_comm]
    rfl
  simp only [bfxWord, fieldWidth_eq, fieldPos_eq]
  change ((if b.getLsbD 16 && decide (wid > 0) then sextNat wid (a.toNat / 2 ^ pos % 2 ^ wid)
    else BitVec.ofNat 64 (a.toNat / 2 ^ pos % 2 ^ wid) : Word)).getLsbD n = _
  by_cases hsx : (b.getLsbD 16 && decide (wid > 0)) = true
  · have hwid : 0 < wid := of_decide_eq_true (Bool.and_eq_true_iff.mp hsx).2
    rw [if_pos hsx, hsx, Bool.true_and, getLsbD_sextNat (by omega) _ hn, decide_eq_true hwid, Bool.true_and]
    split
    case isTrue h => exact hbit n h
    case isFalse h => rw [hbit _ (by omega)]; congr 1; omega
  · rw [if_neg hsx, Bool.eq_false_iff.mpr hsx, Bool.false_and, BitVec.getLsbD_ofNat, decide_eq_true hn, Bool.true_and]
    split
    case isTrue h => exact hbit n h
    case isFalse h => rw [Nat.testBit_mod_two_pow, decide_eq_false h, Bool.false_and]

theorem getLsbD_bfiWord (d a b : Word) {n : Nat} (hn : n < 64) :
    let pos := b.toNat % 64
    let wid := min (b.toNat / 256 % 128) (64 - pos)
    (bfiWord d a b).getLsbD n = if pos ≤ n ∧ n < pos + wid then a.getLsbD (n - pos) else d.getLsbD n := by
  intro pos wid
  simp only [bfiWord, fieldWidth_eq, fieldPos_eq]
  change ((d &&& ~~~BitVec.ofNat 64 ((2 ^ wid - 1) * 2 ^ pos)) |||
    ((a <<< pos) &&& BitVec.ofNat 64 ((2 ^ wid - 1) * 2 ^ pos)) : Word).getLsbD n = _
  have hmask : (BitVec.ofNat 64 ((2 ^ wid - 1) * 2 ^ pos) : Word).getLsbD n = decide (pos ≤ n ∧ n < pos + wid) := by
    rw [BitVec.getLsbD_ofNat, decide_eq_true hn, Bool.true_and, Nat.testBit_mul_two_pow, Nat.testBit_two_pow_sub_one,
      ← Bool.decide_and]
    congr 1
    exact propext ⟨fun h => ⟨h.1, by omega⟩, fun h => ⟨h.1, by omega⟩⟩
  simp only [BitVec.getLsbD_or, BitVec.getLsbD_and, BitVec.getLsbD_not, BitVec.getLsbD_shiftLeft, hmask, decide_eq_true hn]
  split
  case isTrue h => simp [h]
  case isFalse h => simp [h]

/-- Settles O3: BFX and BFI bit by bit. -/
theorem bitFields : Obligations.BitFields := by
  refine fun s f => ⟨fun hs => ?_, fun hs => ?_⟩
  · exact completes_writes rfl hs (fun _ _ => rfl) fun c n hn => getLsbD_bfxWord _ _ hn
  · exact completes_writes rfl hs (fun _ _ => rfl) fun c n hn => getLsbD_bfiWord _ _ _ hn

/-! ### Moves and immediates (R356, R412, R413, R427, R430) -/

theorem sregOf_eq (s : State) (c : Ctx) (n : Reg) :
    s.sregOf c n = if n = 0 then 0 else ((s.team? c.id.wg c.team).map (fun t => t.get n)).getD 0 := by
  unfold State.sregOf
  cases s.team? c.id.wg c.team with
  | none => exact (ite_self _).symm
  | some t =>
    by_cases h : n = 0
    · rw [if_pos h, h]
      rfl
    · rw [if_neg h]
      rfl

theorem toInt_moviValue (f : LI) : (moviValue f).toInt = signedOf 15 (f.a.toNat * 512 + f.imm.toNat) := by
  rw [moviValue, toInt_sext (by decide), ← signedOf_toNat, BitVec.toNat_append, Nat.shiftLeft_eq, Nat.mul_comm,
    ← Nat.two_pow_add_eq_or_of_lt f.imm.isLt, Nat.mul_comm]

/-- What an immediate operation on the whole register does. -/
theorem completes_immediate {s : State} {f : LI} {i : Instr} {g : Word → Word}
    (he : exec i s = laneAlu i (fun c => c.regs.put f.d (g (c.regs.get f.a))) s) (hs : s.clear i = true) :
    Completes s i (Writes s i f.d (fun c x => x = g (c.regs.get f.a))) :=
  completes_writes he hs (fun _ _ => rfl) fun _ => rfl

theorem shiftAmount_eq (f : LI) : (f.imm.extractLsb' 0 6).toNat = f.imm.toNat % 64 := by
  simp [BitVec.extractLsb'_toNat]

/-- A shift by an immediate amount. -/
theorem completes_shift {s : State} {f : LI} {i : Instr} {g : Word → Nat → Word} {h : Word → Word}
    (he : exec i s = laneAlu i (putShift f g) s) (hg : ∀ a, g a (f.imm.toNat % 64) = h a) (hs : s.clear i = true) :
    Completes s i (Writes s i f.d (fun c x => x = h (c.regs.get f.a))) :=
  completes_writes he hs (fun _ _ => rfl) fun c => by rw [shiftAmount_eq, hg]

theorem sshiftRight_eq_div (a : Word) (n : Nat) : a.sshiftRight n = BitVec.ofInt 64 (a.toInt / 2 ^ n) := by
  rw [BitVec.sshiftRight, Int.shiftRight_eq_div_pow]
  norm_cast

theorem rotateLeft_eq_or (a : Word) {n : Nat} (hn : n < 64) : a.rotateLeft n = (a <<< n) ||| (a >>> (64 - n)) := by
  rw [BitVec.rotateLeft_def, Nat.mod_eq_of_lt hn]

/-- Settles O4: each move and each immediate operation writes the value of its meaning. -/
theorem movesAndImmediates : Obligations.MovesAndImmediates := by
  refine ⟨fun s f g => ⟨?_, ?_, ?_, ?_, ?_⟩, fun s f => ⟨?_, ?_, ?_, ?_, ?_, ?_, ?_, ?_⟩⟩
  · exact fun hs => completes_moves rfl hs fun _ _ h => h
  · exact fun hs => completes_writes rfl hs (fun _ _ => rfl) fun _ => rfl
  · exact fun hs => completes_writes rfl hs (fun _ _ => rfl) fun c => sregOf_eq s c f.a
  · exact fun hs => completes_writes rfl hs (fun _ _ => rfl) fun _ => toInt_moviValue g
  · exact fun hs => completes_writes rfl hs (fun _ _ => rfl) fun c => by simp [Regs.pred]
  · exact completes_immediate (g := fun a => a + sext f.imm) rfl
  · exact completes_immediate (g := fun a => a &&& sext f.imm) rfl
  · exact completes_immediate (g := fun a => a ||| sext f.imm) rfl
  · exact completes_immediate (g := fun a => a ^^^ sext f.imm) rfl
  · exact completes_shift rfl fun _ => rfl
  · exact completes_shift rfl fun _ => rfl
  · exact completes_shift rfl fun a => sshiftRight_eq_div a _
  · exact completes_shift rfl fun a => rotateLeft_eq_or a (Nat.mod_lt _ (by decide))

/-! ### Dot products (R396) -/

theorem zipWith_elemsFrom_int (g : Nat → Nat → Int) (w x y i n : Nat) :
    List.zipWith g (elemsFrom w x i n) (elemsFrom w y i n) =
      (List.range n).map (fun k => g (elemAt w x (i + k)) (elemAt w y (i + k))) := by
  refine List.ext_getElem? fun k => ?_
  by_cases hk : k < n <;> simp [List.getElem?_zipWith, elemsFrom_getElem?, hk]

theorem foldl_add_int (z : Int) (l : List Int) : l.foldl (· + ·) z = z + l.sum := by
  rw [← List.sum_cons, List.sum_eq_foldl, List.foldl_cons, Int.zero_add]

theorem idpElem_eq (w n j : Nat) (sat : Bool) (acc a b : Word) : idpElem w n j sat acc a b =
    fit 32 sat (signedOf 32 (elemAt 32 acc.toNat j) + ((List.range n).map (fun k =>
      signedOf w (elemAt w a.toNat (n * j + k)) * signedOf w (elemAt w b.toNat (n * j + k)))).sum) := by
  rw [idpElem, zipWith_elemsFrom_int, ← foldl_add_int]
  cases sat with
  | true => exact clampTo_eq_fit 32 _
  | false => rfl

theorem elemAt_idpWord {j : Nat} (hj : j < 2) (w n : Nat) (sat : Bool) (acc a b : Word) :
    elemAt 32 (idpWord w n sat acc a b).toNat j = idpElem w n j sat acc a b := by
  have hlt : ∀ k, idpElem w n k sat acc a b < 2 ^ 32 := fun k => by rw [idpElem_eq]; exact fit_lt ..
  rw [idpWord, elemAt_packElems hj]
  match j, hj with
  | 0, _ => exact Nat.mod_eq_of_lt (hlt 0)
  | 1, _ => exact Nat.mod_eq_of_lt (hlt 1)

/-- Settles O5: each accumulator is the exact sum fitted to 32 bits. -/
theorem integerDots : Obligations.IntegerDots := by
  refine fun s f => ⟨fun hs => ?_, fun hs => ?_⟩
  · exact completes_writes rfl hs (fun _ _ => rfl) fun c j hj => (elemAt_idpWord hj 8 4 _ _ _ _).trans (idpElem_eq ..)
  · exact completes_writes rfl hs (fun _ _ => rfl) fun c j hj => (elemAt_idpWord hj 4 8 _ _ _ _).trans (idpElem_eq ..)

end Sys2Proof.Machine
end

section
/-!
PROOF. Floating arithmetic, minima and compares (R377 to R380): the codes that FMIN and FMAX pass on, the conditions of FCMP,
and the whole of O6.
-/
namespace Sys2Proof.Machine

/-! ### The floating views (R286) -/

/-- What the floating views have in common: IEEE formats whose fields fill their width and whose subnormals are flushed. -/
def Fmt.viewed (f : Fmt) : Bool := f.filled && f.kind == .ieee && f.ebits != 0 && f.flushes &&
  !subnormalCode f f.canonicalNaN && decide (f.canonicalNaN < 2 ^ f.width)

theorem floatView_viewed (t : BitVec 3) : (floatView t).viewed = true := by
  unfold floatView
  split <;> decide

section
variable {f : Fmt}

theorem viewed_iff : f.viewed = true ↔ f.filled = true ∧ f.kind = .ieee ∧ f.ebits ≠ 0 ∧ f.flushes = true ∧
    subnormalCode f f.canonicalNaN = false ∧ f.canonicalNaN < 2 ^ f.width := by
  simp [Fmt.viewed, and_assoc]

/-- A code is subnormal where its value is a number below the least normal magnitude, and no zero. -/
theorem subnormalCode_eq (hf : f.filled = true) (he : f.ebits ≠ 0) (n : Nat) :
    subnormalCode f n = match f.decode n with
      | .fin _ m _ => m != 0 && decide (m < 2 ^ f.fbits)
      | _ => false := by
  have hwidth : f.width - 1 = f.fbits + f.ebits := by
    have := beq_iff_eq.mp hf
    omega
  have hfields := code_fields f n
  have htop : 2 ≤ 2 ^ f.ebits := Nat.le_self_pow he 2
  have hlarge : n / 2 ^ f.fbits % 2 ^ f.ebits ≠ 0 → 2 ^ f.fbits ≤ n % 2 ^ (f.fbits + f.ebits) := fun h => by
    rw [hfields]
    exact Nat.le_add_right_of_le (Nat.le_mul_of_pos_left _ (Nat.pos_of_ne_zero h))
  have hspecial : (∀ neg m e, f.decode n ≠ .fin neg m e) → n / 2 ^ f.fbits % 2 ^ f.ebits ≠ 0 := fun h h0 => by
    have hne : (0 == 2 ^ f.ebits - 1) = false := beq_false_of_ne (by omega)
    simp only [Fmt.decode, h0, hne, Bool.false_and, Bool.false_eq_true, if_false, beq_self_eq_true, if_true] at h
    exact h _ _ _ rfl
  rw [subnormalCode, hwidth]
  cases hd : f.decode n with
  | nan q =>
    have := hlarge (hspecial fun neg m e h => by rw [hd] at h; cases h)
    simp only [decide_eq_false (Nat.not_lt.mpr this), Bool.and_false]
  | inf neg =>
    have := hlarge (hspecial fun neg m e h => by rw [hd] at h; cases h)
    simp only [decide_eq_false (Nat.not_lt.mpr this), Bool.and_false]
  | fin neg m e =>
    obtain ⟨_, _, ⟨h0, rfl, _⟩ | ⟨h0, rfl, _⟩⟩ := decode_fin hf hd
    · rw [hfields, h0, Nat.zero_mul, Nat.zero_add]
    · simp only [decide_eq_false (Nat.not_lt.mpr (hlarge h0)),
        decide_eq_false (Nat.not_lt.mpr (Nat.le_add_right (2 ^ f.fbits) _)), Bool.and_false]

/-- The zero of a code's sign. -/
theorem signed_zero_eq (hf : f.filled = true) {n : Nat} (hn : n < 2 ^ f.width) :
    f.signed (n / 2 ^ (f.width - 1) % 2 == 1) 0 = n / 2 ^ (f.width - 1) * 2 ^ (f.width - 1) := by
  have hwidth : f.width = f.width - 1 + 1 := by
    have := beq_iff_eq.mp hf
    omega
  rw [hwidth, Nat.pow_succ] at hn
  have hsign : n / 2 ^ (f.width - 1) < 2 := Nat.div_lt_of_lt_mul hn
  rw [Fmt.signed]
  obtain h | h := Nat.le_one_iff_eq_zero_or_eq_one.mp (Nat.le_of_lt_succ hsign) <;> simp [h]

/-! ### FMIN and FMAX (R379) -/

/-- A code that FMIN or FMAX chooses is passed on after the flush flags (R114). -/
theorem pass_eq_passedOn (hf : f.viewed = true) (env : FEnv) (nv : Bool) {n : Nat} (hn : n < 2 ^ f.width) :
    f.pass env n (flagIf nv flagNV) = passedOn f env nv n := by
  obtain ⟨hfill, _, he, hflush, _, _⟩ := viewed_iff.mp hf
  have hpass : f.pass env n (flagIf nv flagNV) =
      if subnormalCode f n && env.ftzi then ⟨f.signed (n / 2 ^ (f.width - 1) % 2 == 1) 0, flagIf nv flagNV, false⟩
      else if subnormalCode f n && env.ftzo then
        ⟨f.signed (n / 2 ^ (f.width - 1) % 2 == 1) 0, flagIf nv flagNV ||| flagUF ||| flagNX, false⟩
      else ⟨n, flagIf nv flagNV, false⟩ := by
    rw [Fmt.pass, hflush, subnormalCode_eq hfill he]
    rfl
  have hflag : (if nv then flagNV else 0) = flagIf nv flagNV := rfl
  rw [hpass, passedOn, signed_zero_eq hfill hn, hflag, BitVec.or_assoc]
  cases subnormalCode f n <;> cases env.ftzi <;> cases env.ftzo <;> simp

/-- The code that FMIN or FMAX chooses. -/
def Fmt.chosen (f : Fmt) (max : Bool) (x y : FVal) (a b : Nat) : Nat :=
  if x.isNaN && y.isNaN then f.canonicalNaN
  else if x.isNaN then b
  else if y.isNaN then a
  else if max then (if lowerThan x y then b else a)
  else if lowerThan y x then b else a

theorem chosen_lt (hf : f.viewed = true) (max : Bool) (x y : FVal) {a b : Nat} (ha : a < 2 ^ f.width) (hb : b < 2 ^ f.width) :
    f.chosen max x y a b < 2 ^ f.width := by
  obtain ⟨_, _, _, _, _, hnan⟩ := viewed_iff.mp hf
  unfold Fmt.chosen
  split_ifs <;> assumption

/-- FMIN and FMAX pass on the code that they choose. -/
theorem minMax_eq_passedOn (hf : f.viewed = true) (env : FEnv) (max : Bool) {a b : Nat} (ha : a < 2 ^ f.width)
    (hb : b < 2 ^ f.width) : f.minMax env max a b =
      passedOn f env ((f.operand env a).raises || (f.operand env b).raises)
        (f.chosen max (f.operand env a) (f.operand env b) a b) := by
  obtain ⟨_, _, _, _, hsub, _⟩ := viewed_iff.mp hf
  have hnan : ∀ nv, passedOn f env nv f.canonicalNaN = { bits := f.canonicalNaN, flags := flagIf nv flagNV, nanLost := false } := by
    intro nv
    cases nv <;> simp only [passedOn, hsub, Bool.false_and, Bool.false_eq_true, if_false] <;> rfl
  simp only [Fmt.minMax, Fmt.chosen, pass_eq_passedOn hf _ _ ha, pass_eq_passedOn hf _ _ hb, ← hnan, FVal.below, lowerThan]
  split_ifs <;> rfl

theorem passedOn_bits_lt {env : FEnv} {nv : Bool} {n : Nat} (hn : n < 2 ^ f.width) : (passedOn f env nv n).bits < 2 ^ f.width := by
  simp only [passedOn]
  split
  · exact Nat.lt_of_le_of_lt (Nat.div_mul_le_self ..) hn
  · exact hn

end

theorem outLost_map_false {l : List Nat} {o : Nat → FOut} (h : ∀ j ∈ l, (o j).nanLost = false) :
    outLost (l.map o) = false := by
  simpa [outLost] using h

/-- The rounding environment of instructions that do not round: only the flush flags act. -/
def flushEnv (r : Regs) : FEnv := { FEnv.plain with ftzi := r.mode.getLsbD 3, ftzo := r.mode.getLsbD 4 }

/-- What FMIN or FMAX gives at one place. -/
def minMaxOut (max : Bool) (f : LA) (c : Ctx) (j : Nat) : FOut :=
  let v := floatView f.t
  let a := c.elem v.width f.a j
  let b := c.elem v.width f.b j
  let x := v.operand (flushEnv c.regs) a
  let y := v.operand (flushEnv c.regs) b
  passedOn v (flushEnv c.regs) (x.raises || y.raises) (v.chosen max x y a b)

theorem minMaxRegs_eq (max : Bool) (f : LA) (c : Ctx) :
    let w := (floatView f.t).width
    let r' := minMaxRegs max f c
    (∀ j < 64 / w, elemAt w (r'.get f.d).toNat j = (minMaxOut max f c j).bits) ∧
    r' = { c.regs.put f.d (r'.get f.d) with
      fflags := c.regs.fflags ||| outFlags ((List.range (64 / w)).map (minMaxOut max f c)) } := by
  intro w r'
  have hout : (fun i => (floatView f.t).minMax (fenv Pfx.none c.regs 0 1 0) max (felem (floatView f.t) (c.regs.get f.a) i)
      (felem (floatView f.t) (c.regs.get f.b) i)) = minMaxOut max f c := funext fun j =>
    minMax_eq_passedOn (floatView_viewed f.t) (flushEnv c.regs) max (elemAt_lt ..) (elemAt_lt ..)
  have hr' : r' = putOuts c.regs f.d w ((List.range (64 / w)).map (minMaxOut max f c)) := by
    rw [← hout]
    rfl
  have hget : r'.get f.d = packElems w (((List.range (64 / w)).map (minMaxOut max f c)).map FOut.bits) := by
    rw [hr']
    exact (get_put c.regs f.d f.d _).trans (if_pos rfl)
  have hlost : outLost ((List.range (64 / w)).map (minMaxOut max f c)) = false := outLost_map_false fun _ _ => rfl
  refine ⟨fun j hj => ?_, ?_⟩
  · have hlt : (minMaxOut max f c j).bits < 2 ^ w :=
      passedOn_bits_lt (chosen_lt (floatView_viewed f.t) max _ _ (elemAt_lt ..) (elemAt_lt ..))
    rw [hget, elemAt_packElems hj]
    simp [List.getD_eq_getElem?_getD, hj, Nat.mod_eq_of_lt hlt]
  · have hwarn : c.regs.warn ||| warnIf false warnNANLOST = c.regs.warn := BitVec.or_zero
    rw [hget, hr', putOuts, hlost, hwarn]
    rfl

/-! ### FCMP (R380) -/

theorem isNaN_of_raises {x : FVal} (h : x.raises = true) : x.isNaN = true := by
  cases x with
  | nan q => rfl
  | inf neg => cases h
  | fin neg m e => cases h

/-- A compare raises NV for a signalling NaN, and for any NaN under the ordering conditions (R380). -/
def comparesLoud (k : Nat) (x y : FVal) : Bool :=
  x.raises || y.raises || (decide (2 ≤ k) && decide (k ≤ 5) && (x.isNaN || y.isNaN))

theorem floatCond_flags (c : BitVec 3) (x y : FVal) : (floatCond c x y).2 = flagIf (comparesLoud c.toNat x y) flagNV := by
  have hk : c.toNat < 8 := c.isLt
  have hx := @isNaN_of_raises x
  have hy := @isNaN_of_raises y
  unfold floatCond comparesLoud
  generalize c.toNat = k at *
  cases hxr : x.raises <;> cases hyr : y.raises <;> interval_cases k <;> simp_all

theorem floatCond_of_nan (c : BitVec 3) {x y : FVal} (h : x.isNaN = true ∨ y.isNaN = true) :
    (floatCond c x y).1 = (c.toNat = 1 || c.toNat = 6) := by
  have hk : c.toNat < 8 := c.isLt
  have hun : (x.isNaN || y.isNaN) = true := by simpa using h
  unfold floatCond
  generalize c.toNat = k at *
  interval_cases k <;> simp [hun]

theorem floatCond_of_numbers (c : BitVec 3) {x y : FVal} (hx : x.isNaN = false) (hy : y.isNaN = false) :
    (floatCond c x y).1 = true ↔ match c.toNat with
      | 0 => x.le y ∧ y.le x
      | 1 => ¬(x.le y ∧ y.le x)
      | 2 => ¬y.le x
      | 3 => x.le y
      | 4 => ¬x.le y
      | 5 => y.le x
      | 6 => False
      | _ => True := by
  unfold floatCond
  generalize c.toNat = k
  match k with
  | 0 | 2 | 3 | 4 | 5 | 6 | _ + 7 => simp [hx, hy]
  | 1 => simp [hx, hy, imp_iff_not_or]

theorem or_flagIf (x : BitVec 5) (b : Bool) : x ||| flagIf b flagNV = if b then x ||| 1 else x := by
  cases b with
  | true => rfl
  | false => exact BitVec.or_zero

/-- An instruction that rounds one function of the elements of v(a) and v(b). -/
theorem roundsAlu_of_float2 {s : State} {i : Instr} {f : LA} {op : Fmt → FEnv → Nat → Nat → FOut}
    {out : Ctx → FEnv → Nat → FOut} (he : exec i s = laneAlu i (float2 (s.pfx i) f op) s)
    (hout : ∀ c env j, op (floatView f.t) env (c.elem (floatView f.t).width f.a j) (c.elem (floatView f.t).width f.b j) =
      out c env j) :
    RoundsAlu s i f.d (floatView f.t).width out :=
  roundsAlu_of_exec (op := fun c env i => op (floatView f.t) env (felem (floatView f.t) (c.regs.get f.a) i)
    (felem (floatView f.t) (c.regs.get f.b) i)) he fun c _ => funext₂ (hout c)

/-- Settles O6: the four rounding instructions by their exact operation, FMIN and FMAX by the code that they pass on, FCMP by
the conditions on its operands. -/
theorem floatArithmetic : Obligations.FloatArithmetic := by
  refine ⟨fun s f => ⟨?_, ?_, ?_, ?_⟩, fun s f => ⟨?_, ?_, ?_⟩⟩
  · exact roundsAlu_of_float2 (op := Fmt.add) rfl fun _ _ _ => rfl
  · exact roundsAlu_of_float2 (op := Fmt.sub) rfl fun _ _ _ => rfl
  · exact roundsAlu_of_float2 (op := Fmt.mul) rfl fun _ _ _ => rfl
  · refine roundsAlu_of_exec (op := fun c env i => (floatView f.t).fma env (felem (floatView f.t) (c.regs.get f.a) i)
      (felem (floatView f.t) (c.regs.get f.b) i) (felem (floatView f.t) (addend (s.pfx (.ffma f)) f.d c.regs) i)) rfl fun c b => ?_
    funext env j
    rw [addend_eq]
    rfl
  · exact fun hs => completes_moves rfl hs fun c _ h =>
      have hregs := minMaxRegs_eq false f (c.warned (s.wordWarn (.fmin f)))
      ⟨_, hregs.1, hregs.2, h⟩
  · exact fun hs => completes_moves rfl hs fun c _ h =>
      have hregs := minMaxRegs_eq true f (c.warned (s.wordWarn (.fmax f)))
      ⟨_, hregs.1, hregs.2, h⟩
  · refine fun hs => completes_moves rfl hs fun c c' h => ?_
    let x := (floatView f.t).operand (flushEnv c.regs) (c.elem (floatView f.t).width f.a 0)
    let y := (floatView f.t).operand (flushEnv c.regs) (c.elem (floatView f.t).width f.b 0)
    refine ⟨_, comparesLoud (f.d.extractLsb' 3 3).toNat x y, floatCond_of_nan _, floatCond_of_numbers _, ?_, ?_⟩
    · simp only [comparesLoud, Bool.or_eq_true, Bool.and_eq_true, decide_eq_true_eq, or_assoc, and_assoc]
      rfl
    · rw [← or_flagIf, ← floatCond_flags]
      exact h

end Sys2Proof.Machine
end

section
/-!
PROOF. O7, O17, O20 and O25 to O29 fail. A copying FCVT records more than O7 allows. The others fail wherever a word raises a
trap of its own: the trap counts the word as an instruction of its thread (R148), and each statement has the thread keep its
count.
-/
namespace Sys2Proof.Machine
open Sys2Proof Sys2Proof.Machine.Tests

section
variable {s : State} {i : Instr} {d : LaneDo} {c : Ctx}

/-- A word that is clear meets, for a thread that it acts for, only a trap of its own. -/
theorem laneFault_eq_fault (hs : s.clear i = true) (hw : d.word c = true) (hc : c ∈ s.ctxs) (ha : s.acts i c = true) :
    laneFault s i d c = d.fault c := by
  simp only [State.acts, Bool.and_eq_true, beq_iff_eq] at ha
  obtain ⟨hcourse, hfate⟩ := ha
  have h := List.all_eq_true.mp hs c hc
  simp only [hcourse, hfate, Bool.not_true, Bool.false_or, Bool.and_eq_true, bne_self_eq_false, Bool.not_eq_true'] at h
  obtain ⟨hregs, hpoison⟩ := h
  simp only [laneFault, hregs, hw, hfate, hpoison, Bool.and_self, Bool.not_true, Bool.false_eq_true, if_false, if_true]

/-- A trap that is taken at a word counts the word, whose bits of %warn are recorded first. -/
theorem laneTrap_counts {h : Word} {cause : Nat} (hc : s.ctx? c.id = some c) (ht : c.trappable = true) (hh : s.handles c h)
    (hcause : cause ≠ causeILLEGAL) (addr : Word) :
    ((laneTrap i s (c.id, cause, addr)).ctx? c.id).map Ctx.count = some (c.count + 1) := by
  have hctx : (s.onCtx c.id (fun c => c.warned (s.wordWarn i))).ctx? c.id = some (c.warned (s.wordWarn i)) := by
    rw [ctx?_onCtx (g := fun c => c.warned (s.wordWarn i)) (fun _ => rfl), if_pos rfl, hc]
    rfl
  rw [laneTrap, if_neg hcause]
  exact raise_counts (c := c.warned (s.wordWarn i)) hctx ht hh cause addr

end

/-- The launch of the stage with a handler, in sampled order. -/
def sampledHandled : Launch := { handled with rcd := handled.rcd.take 0x15 ++ [1] ++ handled.rcd.drop 0x16 }

/-- Its one thread issues, and what the word waits for is left to its event. -/
def trapStage : State := { handlerStage lone with launches := [sampledHandled], cur := { issue0 with defer := true } }

theorem trapStage_handles : trapStage.handles lone (sa 0x400) := ⟨sampledHandled, rfl, by decide, by decide⟩

theorem trapStage_sampled : trapStage.launchOf? lone.id.wg = some sampledHandled ∧ sampledHandled.sampled = true :=
  ⟨rfl, by decide⟩

theorem trapStage_thread : lone.trappable = true ∧ trapStage.ctx? id0 = some lone := ⟨by decide, rfl⟩

section
variable {i : Instr} {d : LaneDo} {cause : Nat} {addr : Word}

/-- What a statement about the thread of the stage asks of it. -/
theorem trapStage_allAct {p : Ctx → Prop} (h : p lone) : trapStage.allAct i p := by
  intro c hc _
  obtain rfl : c = lone := List.mem_singleton.mp hc
  exact h

/-- A word that traps at its issue counts 1 for the thread. -/
theorem trapStage_counts (hi : trapStage.clear i = true ∧ trapStage.acts i lone = true) (hw : d.word lone = true)
    (hf : d.fault lone = some (cause, addr)) (hcause : cause ≠ causeILLEGAL) :
    ((lane i d trapStage).ctx? id0).map Ctx.count = some 1 := by
  have hfault : laneFault trapStage i d lone = some (cause, addr) :=
    (laneFault_eq_fault hi.1 hw (List.mem_singleton.mpr rfl) hi.2).trans hf
  have hfaults : laneFaults trapStage i d = [(id0, cause, addr)] := by
    have hctx : trapStage.ctx? id0 = some lone := trapStage_thread.2
    rw [laneFaults, show trapStage.cur.course = [id0] from rfl]
    simp only [List.filterMap_cons, List.filterMap_nil, hctx, Option.bind_some, hfault, Option.map_some]
  have hctxs : (laneMap trapStage i d).ctxs = [lone] := by
    simp only [laneMap, show trapStage.ctxs = [lone] from rfl, List.map_cons, List.map_nil, hfault, Option.isNone_some, Bool.and_false,
      Bool.false_eq_true, if_false]
  have hctx : (laneMap trapStage i d).ctx? lone.id = some lone := by
    rw [State.ctx?, hctxs]
    rfl
  rw [lane, hfaults, List.foldl_cons, List.foldl_nil]
  exact laneTrap_counts (c := lone) hctx trapStage_thread.1 trapStage_handles hcause addr

/-- No state whose thread has counted its word is one in which the thread has kept its count. -/
theorem not_actorsAre {t : State} {after : Ctx → Ctx} (ha : trapStage.acts i lone = true)
    (ht : (t.ctx? id0).map Ctx.count = some 1) (hafter : (after lone).count = lone.count) : ¬ ActorsAre trapStage t i after := by
  rintro ⟨hacts, -⟩
  have hfate : fate (trapStage.shp i) (trapStage.pfx i) lone.regs = .acts := by
    simp only [State.acts, Bool.and_eq_true, beq_iff_eq] at ha
    exact ha.2
  rw [hacts id0 (List.mem_singleton.mpr rfl) lone trapStage_thread.2 hfate, Option.map_some, hafter] at ht
  cases ht

end

/-- The target of the BRA lies in no grant. -/
theorem farBranch_faults : (trapStage.branchFault lone (trapStage.nextPc + BitVec.ofInt 64 (4 * farBranch.off.toInt))).map Prod.fst =
    some causeSLAB := by decide

/-- Refutes O17: a BRA whose target fails a check raises its thread's count of instructions (R148) from 0 to 1, but the
statement has the whole context after the trap be `Ctx.trapped`, which keeps the count. -/
theorem not_branches : ¬ Obligations.Branches := by
  unfold Obligations.Branches
  rintro ⟨-, -, htraps⟩
  obtain ⟨⟨cause, addr⟩, hfault, rfl⟩ := Option.map_eq_some_iff.mp farBranch_faults
  have hword : trapStage.clear (.bra farBranch) = true ∧ trapStage.acts (.bra farBranch) lone = true := by decide
  obtain ⟨hbra, -⟩ := htraps trapStage farBranch (fx 0) (sa 0x400) (fun _ => causeSLAB) (fun _ => addr)
  obtain ⟨t, ht, -, hactors⟩ := hbra hword.1 (List.nodup_singleton _)
    (trapStage_allAct ⟨trapStage_thread.1, trapStage_handles, hfault⟩)
  obtain rfl := Host.Outcome.next.inj (Eq.trans (Eq.symm rfl) ht)
  exact not_actorsAre hword.2 (trapStage_counts hword rfl hfault (by decide)) rfl hactors

/-- Refutes O20: a HALT.force raises its thread's count of instructions (R148) from 0 to 1 as it traps PRIVILEGED, but the
statement has the whole context after the trap be `Ctx.trapped`, which keeps the count. -/
theorem not_halts : ¬ Obligations.Halts := by
  unfold Obligations.Halts
  rintro ⟨hhalt, -⟩
  have hword : trapStage.clear (.halt (fx 0)) = true ∧ trapStage.acts (.halt (fx 0)) lone = true := by decide
  obtain ⟨-, hforce, -⟩ := hhalt trapStage (fx 0)
  obtain ⟨t, ht, -, hactors⟩ := hforce (sa 0x400) hword.1 rfl (List.nodup_singleton _)
    (trapStage_allAct ⟨trapStage_thread.1, trapStage_handles⟩)
  obtain rfl := Host.Outcome.next.inj (Eq.trans (Eq.symm rfl) ht)
  exact not_actorsAre hword.2 (trapStage_counts hword rfl rfl (by decide)) rfl hactors

/-- Refutes O25: an HGIVE of a sampled launch raises its thread's count of instructions (R148) from 0 to 1 as it traps WINDOW,
but the statement has the whole context after the trap be `Ctx.trapped`, which keeps the count. -/
theorem not_handles : ¬ Obligations.Handles := by
  unfold Obligations.Handles
  rintro ⟨hgive, -⟩
  have hword : trapStage.clear (.hgive (fx 0)) = true ∧ trapStage.acts (.hgive (fx 0)) lone = true := by decide
  obtain ⟨-, hwindow, -⟩ := hgive trapStage (fx 0)
  obtain ⟨t, ht, hactors⟩ := hwindow (sa 0x400) hword.1 (List.nodup_singleton _)
    (trapStage_allAct ⟨trapStage_thread.1, trapStage_handles, _, trapStage_sampled⟩)
  obtain rfl := Host.Outcome.next.inj (Eq.trans (Eq.symm rfl) ht)
  exact not_actorsAre hword.2 (trapStage_counts (d := hgiveDo trapStage (fx 0)) hword rfl rfl (by decide)) rfl hactors

/-- Refutes O26: a VQPUT of a sampled launch raises its thread's count of instructions (R148) from 0 to 1 as it traps WINDOW,
but the statement has the whole context after the trap be `Ctx.trapped`, which keeps the count. -/
theorem not_verticalFifos : ¬ Obligations.VerticalFifos := by
  unfold Obligations.VerticalFifos
  rintro ⟨harrive, -⟩
  have hword : trapStage.clear (.vqput (fx 0)) = true ∧ trapStage.acts (.vqput (fx 0)) lone = true := by decide
  have hsampled : ((trapStage.launchOf? lone.id.wg).map Launch.sampled).getD false = true := by decide
  obtain ⟨-, -, hwindow⟩ := harrive trapStage (fx 0)
  obtain ⟨u, hu, -, hactors⟩ := hwindow (sa 0x400) hword.1 (List.nodup_singleton _)
    (trapStage_allAct ⟨trapStage_thread.1, trapStage_handles, hsampled⟩) (fun id hid c hc => by
      obtain rfl := List.mem_singleton.mp hid
      obtain rfl := Option.some.inj (trapStage_thread.2.symm.trans hc)
      exact hsampled)
  obtain rfl := Host.Outcome.next.inj (Eq.trans (Eq.symm rfl) hu)
  exact not_actorsAre hword.2 (trapStage_counts (d := { waitDo (fun c => .vqput (c.regs.get (fx 0).a)) with
    fault := fun c => trapStage.sampledFault c 0 }) hword rfl rfl (by decide)) rfl hactors

/-- Refutes O27: a LAUNCH of a sampled launch raises its thread's count of instructions (R148) from 0 to 1 as it traps WINDOW,
but the statement has the whole context after the trap be `Ctx.trapped`, which keeps the count. -/
theorem not_childGrids : ¬ Obligations.ChildGrids := by
  unfold Obligations.ChildGrids
  rintro ⟨hlaunch, -⟩
  have hword : trapStage.clear (.launch (fx 0)) = true ∧ trapStage.acts (.launch (fx 0)) lone = true := by decide
  obtain ⟨-, hwindow⟩ := (hlaunch trapStage).1 (fx 0)
  obtain ⟨t, ht, hactors⟩ := hwindow (sa 0x400) hword.1 (List.nodup_singleton _)
    (trapStage_allAct ⟨trapStage_thread.1, trapStage_handles, _, trapStage_sampled⟩)
  obtain rfl := Host.Outcome.next.inj (Eq.trans (Eq.symm rfl) ht)
  exact not_actorsAre hword.2 (trapStage_counts (d := launchDo trapStage (fx 0)) hword rfl rfl (by decide)) rfl hactors

/-- Refutes O28: an MTS of a read-only special raises its thread's count of instructions (R148) from 0 to 1 as it traps
PRIVILEGED, but the statement has the whole context after the trap be `Ctx.trapped`, which keeps the count. -/
theorem not_laneSpecials : ¬ Obligations.LaneSpecials := by
  unfold Obligations.LaneSpecials
  intro hspecials
  have hword : trapStage.clear (.mts (fx 0)) = true ∧ trapStage.acts (.mts (fx 0)) lone = true := by decide
  obtain ⟨-, -, hprivileged⟩ := hspecials trapStage (fx 0)
  obtain ⟨t, ht, -, hactors⟩ := hprivileged (sa 0x400) hword.1 (by decide) (List.nodup_singleton _)
    (trapStage_allAct ⟨trapStage_thread.1, trapStage_handles⟩)
  obtain rfl := Host.Outcome.next.inj (Eq.trans (Eq.symm rfl) ht)
  exact not_actorsAre hword.2 (trapStage_counts (d := mtsDo (fx 0)) hword rfl rfl (by decide)) rfl hactors

/-- Refutes O29: a uniform word that traps raises the count of instructions (R148) of its team's thread from 0 to 1, but the
statement has the whole context after the trap be `Ctx.trapped`, which keeps the count. -/
theorem not_uniformOperations : ¬ Obligations.UniformOperations := by
  unfold Obligations.UniformOperations
  rintro ⟨-, -, -, -, htraps⟩
  let i : Instr := .snop { d := 0, a := 0, b := 0, fn := 0, l := 0 }
  obtain ⟨-, -, hcourse⟩ := htraps trapStage i causePRIVILEGED 0 (sa 0x400) (List.nodup_singleton _) fun id hid =>
    ⟨lone, (List.mem_singleton.mp hid).symm ▸ trapStage_thread.2, trapStage_thread.1, trapStage_handles⟩
  have hthread := hcourse id0 (List.mem_singleton.mpr rfl) lone trapStage_thread.2
  have hcount : ((teamTrap i causePRIVILEGED 0 trapStage).ctx? id0).map Ctx.count = some 1 :=
    laneTrap_counts (i := i) (c := lone) (cause := causePRIVILEGED) trapStage_thread.2 trapStage_thread.1 trapStage_handles (by decide) 0
  rw [hthread] at hcount
  cases hcount

/-- A context for which a lane word acts does what the word says. -/
theorem threadStep_acts {s : State} {i : Instr} {does : Ctx → Ctx → Prop} {c c' : Ctx} (h : ThreadStep s i does c c')
    (ha : s.acts i c = true) : does c c' := by
  simp only [State.acts, Bool.and_eq_true, beq_iff_eq] at ha
  obtain ⟨hcourse, hfate⟩ := ha
  simpa only [ThreadStep, hcourse, hfate, if_true] using h

/-- A thread with a reserved rounding mode in %mode. -/
def reservedLone : Ctx := { lone with regs := { lone.regs with mode := 6 } }

/-- A signed to an unsigned integer, which copies (log entry 15). -/
def copyingFcvt : LA := { fa 0 with b := 55 }

/-- A copying FCVT records RNDRES beside what its word records. -/
theorem copyingFcvt_records : ∃ t c, exec (.fcvt copyingFcvt) (stage reservedLone) = .next t ∧ t.ctxs = [c] ∧
    c.regs.warn = warnBADTYPE ||| warnRNDRES :=
  ⟨_, _, rfl, rfl, by decide⟩

/-- Refutes O7: an FCVT that copies records RNDRES in %warn where %mode names a reserved rounding mode (R110), but the
statement has the thread record no more than its word does. -/
theorem not_floatConversions : ¬ Obligations.FloatConversions := by
  unfold Obligations.FloatConversions
  intro hconversions
  obtain ⟨hcopies, -⟩ := hconversions (stage reservedLone) copyingFcvt
  obtain ⟨t, ht, -, hsteps⟩ := hcopies (.inr (by decide)) (by decide)
  obtain ⟨u, c, hu, hctxs, hwarn⟩ := copyingFcvt_records
  obtain rfl := Host.Outcome.next.inj (hu.symm.trans ht)
  rw [hctxs] at hsteps
  obtain ⟨x, -, hc⟩ := threadStep_acts hsteps.1 (by decide)
  have hkept : c.regs.warn = ((stage reservedLone).recorded (.fcvt copyingFcvt) reservedLone).warn := by
    rw [hc]
    rfl
  exact absurd (hwarn.symm.trans hkept) (by decide)

end Sys2Proof.Machine
end

section
/-!
PROOF. WAITT and FFRT (R386, R443): which tags a mask names, when a wait is over, and the least tag that is set (O22).
-/
namespace Sys2Proof.Machine
open Sys2Proof

/-! ### Masks of tags -/

/-- A mask names the tags of its bits that lie below TAGS. -/
theorem getLsbD_tagMask (n i : Nat) : (BitVec.ofNat 64 (2 ^ n - 1)).getLsbD i = decide (i < 64 ∧ i < n) := by
  rw [BitVec.getLsbD_ofNat, Nat.testBit_two_pow_sub_one, Bool.decide_and]

theorem word_eq_iff {x y : Word} : x = y ↔ ∀ i < 64, x.getLsbD i = y.getLsbD i :=
  ⟨fun h _ _ => h ▸ rfl, fun h => BitVec.eq_of_getLsbD_eq h⟩

section
variable {mask tags : Word} {n : Nat}

/-- The tags of a mask below TAGS. -/
def wantedTag (mask : Word) (n i : Nat) : Prop := i < 64 ∧ mask.getLsbD i = true ∧ i < n

theorem getLsbD_wanted (mask : Word) (n : Nat) {i : Nat} (hi : i < 64) :
    (mask &&& BitVec.ofNat 64 (2 ^ n - 1)).getLsbD i = true ↔ wantedTag mask n i := by
  rw [BitVec.getLsbD_and, getLsbD_tagMask, Bool.and_eq_true, decide_eq_true_iff]
  exact ⟨fun ⟨hm, _, hn⟩ => ⟨hi, hm, hn⟩, fun ⟨_, hm, hn⟩ => ⟨hm, hi, hn⟩⟩

theorem wanted_eq_zero_iff : mask &&& BitVec.ofNat 64 (2 ^ n - 1) = 0 ↔ ∀ i, ¬ wantedTag mask n i := by
  rw [word_eq_iff]
  constructor
  · intro h i hw
    have hbit := (getLsbD_wanted mask n hw.1).mpr hw
    rw [h i hw.1] at hbit
    simp at hbit
  · intro h i hi
    rw [Bool.eq_false_iff.mpr fun hbit => h i ((getLsbD_wanted mask n hi).mp hbit)]
    simp

theorem anyTag_iff : (tags &&& (mask &&& BitVec.ofNat 64 (2 ^ n - 1)) != 0) = true ↔
    ∃ i, wantedTag mask n i ∧ tags.getLsbD i = true := by
  rw [bne_iff_ne, Ne, word_eq_iff]
  push Not
  constructor
  · rintro ⟨i, hi, hbit⟩
    have hset : (tags &&& (mask &&& BitVec.ofNat 64 (2 ^ n - 1))).getLsbD i = true := by simpa using hbit
    rw [BitVec.getLsbD_and, Bool.and_eq_true] at hset
    exact ⟨i, (getLsbD_wanted mask n hi).mp hset.2, hset.1⟩
  · rintro ⟨i, hw, hset⟩
    refine ⟨i, hw.1, ?_⟩
    rw [BitVec.getLsbD_and, hset, (getLsbD_wanted mask n hw.1).mpr hw]
    simp

theorem allTags_iff : (tags &&& (mask &&& BitVec.ofNat 64 (2 ^ n - 1)) == mask &&& BitVec.ofNat 64 (2 ^ n - 1)) = true ↔
    ∀ i, wantedTag mask n i → tags.getLsbD i = true := by
  rw [beq_iff_eq, word_eq_iff]
  constructor
  · intro h i hw
    have hbit := (getLsbD_wanted mask n hw.1).mpr hw
    rw [← h i hw.1, BitVec.getLsbD_and, Bool.and_eq_true] at hbit
    exact hbit.1
  · intro h i hi
    rw [BitVec.getLsbD_and]
    cases hbit : (mask &&& BitVec.ofNat 64 (2 ^ n - 1)).getLsbD i with
    | false => exact Bool.and_false _
    | true => rw [h i ((getLsbD_wanted mask n hi).mp hbit), Bool.and_true]

end

/-! ### WAITT -/

section
variable {s : State} {id : CtxId} {num : Nat} {c : Ctx} {g : Flight} {mask : Word} {any : Bool} {w : Workgroup} {l : Launch}

theorem tagsOf_eq {wg : Nat} (hw : s.wg? wg = some w) (hl : s.launchOf? wg = some l) :
    s.tagsOf wg = (w.tags, BitVec.ofNat 64 (2 ^ l.tags - 1)) := by
  rw [State.tagsOf, hw, hl]

theorem resident_of_wg {wg : Nat} (hw : s.wg? wg = some w) : s.resident wg = true ↔ w.place = .resident := by
  rw [State.resident, hw]
  exact beq_iff_eq

/-- A wait is over where the mask names no tag, or the tags that it names, or one of them, are set. -/
def tagsSet (mask : Word) (any : Bool) (w : Workgroup) (l : Launch) : Prop :=
  (∀ i, ¬ wantedTag mask l.tags i) ∨ (if any then ∃ i, wantedTag mask l.tags i ∧ w.tags.getLsbD i = true
    else ∀ i, wantedTag mask l.tags i → w.tags.getLsbD i = true)

theorem tagsReady_iff {wg : Nat} (hw : s.wg? wg = some w) (hl : s.launchOf? wg = some l) :
    s.tagsReady wg mask any = true ↔ tagsSet mask any w l := by
  rw [State.tagsReady, tagsOf_eq hw hl, Bool.or_eq_true, beq_iff_eq, wanted_eq_zero_iff, tagsSet]
  cases any with
  | true => exact or_congr Iff.rfl anyTag_iff
  | false => exact or_congr Iff.rfl allTags_iff

theorem tryTags_eq (h : s.has id num c g) (hwhat : g.what = .waitt mask any) :
    s.tryTags id num = if s.resident id.wg && s.tagsReady id.wg mask any then
      (if mask &&& (s.tagsOf id.wg).2 = 0 then s else s.flushL1 (s.coreOf c)).landPlain id num else s := by
  obtain ⟨hc, hg⟩ := h
  simp only [State.tryTags, hc, hg, hwhat]

/-- A wait that is over lands, and a mask that names a tag empties the L1 of the thread's core (log entry 24). -/
theorem tryTags_lands (h : s.has id num c g) (hwhat : g.what = .waitt mask any) (hquiet : c.quiet num = true)
    (hw : s.wg? id.wg = some w) (hl : s.launchOf? id.wg = some l) (hready : tagsSet mask any w l) (hplace : w.place = .resident) :
    let t := s.tryTags id num
    t = { s with ctxs := t.ctxs, cores := t.cores } ∧ Landed s t id num c.regs ∧
      ((∃ i, wantedTag mask l.tags i) → (t.core (s.coreOf c)).l1 = []) ∧
      ((∀ i, ¬ wantedTag mask l.tags i) → t.cores = s.cores) := by
  have hgo : (s.resident id.wg && s.tagsReady id.wg mask any) = true := by
    rw [(resident_of_wg hw).mpr hplace, (tagsReady_iff hw hl).mpr hready, Bool.and_self]
  rw [tryTags_eq h hwhat, if_pos hgo, tagsOf_eq hw hl]
  by_cases hnone : ∀ i, ¬ wantedTag mask l.tags i
  · obtain ⟨hframe, hlands⟩ := landPlain_landed h.1 hquiet
    rw [if_pos (wanted_eq_zero_iff.mpr hnone)]
    exact ⟨by rw [hframe], hlands, fun ⟨i, hi⟩ => absurd hi (hnone i), fun _ => by rw [hframe]⟩
  · obtain ⟨cs, hflush⟩ := flushL1_frame s (s.coreOf c)
    have hempty : ((s.flushL1 (s.coreOf c)).core (s.coreOf c)).l1 = [] := flushL1_l1 s (s.coreOf c)
    rw [if_neg (mt wanted_eq_zero_iff.mp hnone)]
    rw [hflush] at hempty ⊢
    obtain ⟨hframe, hlands⟩ := landPlain_landed (s := { s with cores := cs }) h.1 hquiet
    rw [hframe]
    exact ⟨rfl, hframe ▸ hlands, fun _ => hempty, fun hall => absurd hall hnone⟩

theorem tryTags_stays (h : s.has id num c g) (hwhat : g.what = .waitt mask any)
    (hw : s.wg? id.wg = some w) (hl : s.launchOf? id.wg = some l) (hnot : ¬ tagsSet mask any w l ∨ w.place ≠ .resident) :
    s.tryTags id num = s := by
  rw [tryTags_eq h hwhat, if_neg]
  rw [Bool.and_eq_true, resident_of_wg hw, tagsReady_iff hw hl]
  rintro ⟨hplace, hready⟩
  exact hnot.elim (· hready) (· hplace)

end

/-! ### FFRT -/

/-- The lowest set bit of a word, or 64 where none is set. -/
theorem lowestBit_spec (x : Word) : (lowestBit x < 64 ∧ x.getLsbD (lowestBit x) = true ∧
    ∀ i, x.getLsbD i = true → lowestBit x ≤ i) ∨
    (lowestBit x = 64 ∧ ∀ i < 64, x.getLsbD i = false) := by
  cases hfind : (List.range 64).find? (fun i => x.getLsbD i) with
  | none =>
    refine .inr ⟨by rw [lowestBit, hfind]; rfl, fun i hi => ?_⟩
    simpa using List.find?_eq_none.mp hfind i (List.mem_range.mpr hi)
  | some n =>
    have hn : lowestBit x = n := by rw [lowestBit, hfind]; rfl
    obtain ⟨hbit, hmem, hleast⟩ := List.find?_range_eq_some.mp hfind
    rw [hn]
    refine .inl ⟨List.mem_range.mp hmem, hbit, fun i hi => Nat.le_of_not_lt fun hlt => ?_⟩
    simpa [hi] using hleast i hlt

/-- What FFRT gives: the number of the least tag of v(a) that is set, or 64. -/
theorem firstReady_spec {s : State} {c : Ctx} {w : Workgroup} {l : Launch} (x : Word) (hw : s.wg? c.id.wg = some w)
    (hl : s.launchOf? c.id.wg = some l) :
    let ready (i : Nat) : Prop := i < 64 ∧ x.getLsbD i = true ∧ i < l.tags ∧ w.tags.getLsbD i = true
    let n : Word := BitVec.ofNat 64 (s.firstReady c x)
    (ready n.toNat ∧ ∀ i, ready i → n.toNat ≤ i) ∨ (n = 64 ∧ ∀ i, ¬ ready i) := by
  intro ready n
  let y : Word := x &&& w.tags &&& BitVec.ofNat 64 (2 ^ l.tags - 1)
  have hfirst : s.firstReady c x = lowestBit y := by rw [State.firstReady, tagsOf_eq hw hl]
  have hbit : ∀ i < 64, y.getLsbD i = true ↔ ready i := fun i hi => by
    simp only [y, ready, BitVec.getLsbD_and, getLsbD_tagMask, Bool.and_eq_true, decide_eq_true_iff]
    tauto
  rcases lowestBit_spec y with ⟨hlt, hset, hleast⟩ | ⟨h64, hnone⟩
  · have hn : n.toNat = lowestBit y := by
      rw [BitVec.toNat_ofNat, hfirst]
      exact Nat.mod_eq_of_lt (Nat.lt_trans hlt (by decide))
    rw [hn]
    exact .inl ⟨(hbit _ hlt).mp hset, fun i hi => hleast i ((hbit i hi.1).mpr hi)⟩
  · refine .inr ⟨by simp only [n, hfirst, h64]; rfl, fun i hi => ?_⟩
    have hset := (hbit i hi.1).mpr hi
    rw [hnone i hi.1] at hset
    cases hset

/-- FFRT gives every acting thread its value, and empties at most the L1 of the core that issues (log entry 24). -/
theorem ffrt_completes {s : State} {f : LX} {does : Ctx → Ctx → Prop} (hs : s.clear (.ffrt f) = true)
    (hdoes : ∀ c c', Issues s (.ffrt f) ((s.recorded (.ffrt f) c).put f.d (BitVec.ofNat 64 (s.firstReady c (c.regs.get f.a))))
      .result c c' → does c c') :
    CompletesWith s (.ffrt f) does (fun t => t = { s with ctxs := t.ctxs, nextNum := s.nextNum + 1, cores := t.cores } ∧
      ∀ k, k ≠ s.cur.core → t.core k = s.core k) := by
  let d : LaneDo := { LaneDo.regs (fun c => c.regs.put f.d (BitVec.ofNat 64 (s.firstReady c (c.regs.get f.a)))) with
    flight := fun _ => some .result }
  have hnone := laneFault_none (d := d) hs (fun _ => rfl) (fun _ => rfl)
  have hsteps : Each (ThreadStep s (.ffrt f) does) s.ctxs (lane (.ffrt f) d s).ctxs := by
    rw [lane_of_no_fault hnone]
    exact ctxs_step fun c _ _ => hdoes c _ rfl
  have hlane : lane (.ffrt f) d s = { s with ctxs := (lane (.ffrt f) d s).ctxs, nextNum := s.nextNum + 1 } := by
    rw [lane_of_no_fault hnone]
  by_cases hseen : ((acting s (.ffrt f) d).filter (fun c => s.firstReady c (c.regs.get f.a) != 64)).isEmpty = true
  · exact ⟨lane (.ffrt f) d s, congrArg Host.Outcome.next (if_pos hseen), hsteps, by rw [hlane], fun k _ => by rw [hlane]; rfl⟩
  · obtain ⟨cs, hflush⟩ := flushL1_frame (lane (.ffrt f) d s) s.cur.core
    refine ⟨(lane (.ffrt f) d s).flushL1 s.cur.core, congrArg Host.Outcome.next (if_neg hseen), ?_, ?_, fun k hk => ?_⟩
    · rw [hflush]
      exact hsteps
    · rw [hflush, hlane]
    · rw [core_flushL1, if_neg hk, hlane]
      rfl

/-- Settles O22: a wait by whether the tags that its mask names are set, FFRT by the lowest set bit. -/
theorem tags : Obligations.Tags := by
  intro s f
  refine ⟨fun hs => waits_of_exec rfl hs, ?_, fun hs => ?_⟩
  · intro id num c g mask any w l h hwhat hquiet hw hl
    exact ⟨fun hready hplace => ⟨_, rfl, tryTags_lands h hwhat hquiet hw hl hready hplace⟩,
      fun hnot => congrArg Host.Outcome.next (tryTags_stays h hwhat hw hl hnot)⟩
  · exact ffrt_completes hs fun c c' h => ⟨_, fun w l hw hl => firstReady_spec (c.regs.get f.a) hw hl, h⟩

end Sys2Proof.Machine
end

section
/-!
PROOF. BAR and the completion of a phase (R234, R292, R362): the arrivals that a word adds, and the waits that land (O23).
-/
namespace Sys2Proof.Machine
open Sys2Proof

/-! ### Arrivals -/

theorem bar_onBar (w : Workgroup) (n : Nat) (g : Barrier → Barrier) (k : Nat) :
    (w.onBar n g).bar k = if k = n then g (w.bar n) else w.bar k := by
  unfold Workgroup.bar Workgroup.onBar Table.get
  rw [Table.find_set]
  split <;> rfl

/-- A workgroup after one more thread of its own has arrived at a barrier. -/
def Workgroup.arrives (n : Nat) (w : Workgroup) (c : Ctx) : Workgroup :=
  if w.num = c.id.wg then w.onBar n (fun b => { b with arrived := b.arrived ++ [c.id.tix] }) else w

/-- Threads that arrive add their names to the barrier of their workgroup, and change nothing else of it. -/
theorem arrives_foldl (n : Nat) (cs : List Ctx) (w : Workgroup) :
    let w' := cs.foldl (Workgroup.arrives n) w
    w' = { w with bars := w'.bars } ∧ ∀ k, w'.bar k =
      if k = n then { w.bar n with arrived := (w.bar n).arrived ++
        (cs.filter (fun c => c.id.wg == w.num)).map (fun c => c.id.tix) }
      else w.bar k := by
  induction cs generalizing w with
  | nil =>
    refine ⟨rfl, fun k => ?_⟩
    simp only [List.foldl_nil, List.filter_nil, List.map_nil, List.append_nil]
    split
    next hk => rw [hk]
    next => rfl
  | cons c cs ih =>
    obtain ⟨hframe, hbar⟩ := ih (w.arrives n c)
    by_cases hw : w.num = c.id.wg
    · have hstep : w.arrives n c = w.onBar n (fun b => { b with arrived := b.arrived ++ [c.id.tix] }) := if_pos hw
      rw [hstep] at hframe hbar
      rw [List.foldl_cons, hstep, List.filter_cons_of_pos (by rw [hw, beq_self_eq_true])]
      refine ⟨hframe, fun k => ?_⟩
      rw [hbar k, bar_onBar, bar_onBar, if_pos rfl, List.map_cons]
      split
      · rw [List.append_assoc]
        rfl
      · rfl
    · have hstep : w.arrives n c = w := if_neg hw
      rw [hstep] at hframe hbar
      rw [List.foldl_cons, hstep, List.filter_cons_of_neg (by simpa using Ne.symm hw)]
      exact ⟨hframe, hbar⟩

/-- The arrivals that a BAR counts. -/
theorem arrivals_eq (n : Nat) (cs : List Ctx) (s : State) :
    cs.foldl (fun t c => t.onWg c.id.wg (fun w => w.onBar n (fun b => { b with arrived := b.arrived ++ [c.id.tix] }))) s =
      { s with wgs := s.wgs.map (fun w => cs.foldl (Workgroup.arrives n) w) } := by
  induction cs generalizing s with
  | nil => simp only [List.foldl_nil, List.map_id']
  | cons c cs ih =>
    rw [List.foldl_cons, ih, State.onWg]
    simp only [List.map_map]
    rfl

/-- A clear word whose barrier exists for every thread of the course meets no trap. -/
theorem laneFault_none_of_word {s : State} {i : Instr} {d : LaneDo} (hs : s.clear i = true)
    (hw : ∀ c ∈ s.ctxs, s.cur.course.contains c.id = true → d.word c = true) (hf : ∀ c, d.fault c = none)
    (c : Ctx) (hc : c ∈ s.ctxs)
    (hq : s.cur.course.contains c.id = true) : laneFault s i d c = none := by
  have h := laneFault_none (d := { d with word := fun _ => true }) hs (fun _ => rfl) hf c hc hq
  rw [← h, laneFault, laneFault, hw c hc hq]

/-- A BAR counts its arrivals and leaves its wait outstanding (R292, R362). -/
theorem bar_arrives {s : State} {f : LX} (hs : s.clear (.bar f) = true)
    (hbarrier : ∀ c ∈ s.ctxs, s.cur.course.contains c.id = true → f.d.toNat < s.barriersOf c.id.wg) :
    ∃ u : State, u = { s with ctxs := u.ctxs, nextNum := s.nextNum + 1, wgs := u.wgs } ∧
      exec (.bar f) s = .next (if s.cur.defer then u
        else (((s.actors (.bar f)).map (fun c => c.id.wg)).eraseDups).foldl (fun t w => t.tryPhase w f.d.toNat) u) ∧
      Each (ThreadStep s (.bar f) (fun c => Issues s (.bar f) (s.recorded (.bar f) c) (.bar f.d.toNat (s.acquired c.id)) c))
        s.ctxs u.ctxs ∧
      u.wgs = s.wgs.map (fun w => (s.actors (.bar f)).foldl (Workgroup.arrives f.d.toNat) w) := by
  have hnone := laneFault_none_of_word (d := barDo s f) hs (fun c hc hq => decide_eq_true (hbarrier c hc hq)) (fun _ => rfl)
  refine ⟨{ lane (.bar f) (barDo s f) s with
    wgs := s.wgs.map (fun w => (s.actors (.bar f)).foldl (Workgroup.arrives f.d.toNat) w) }, ?_, ?_, ?_, rfl⟩
  · rw [lane_of_no_fault hnone]
  · have hwgs : (lane (.bar f) (barDo s f) s).wgs = s.wgs := by rw [lane_of_no_fault hnone]
    rw [← hwgs, ← arrivals_eq, ← acting_eq_actors hnone]
    rfl
  · rw [lane_of_no_fault hnone]
    exact ctxs_step fun c _ _ => rfl

/-! ### Waits that land together -/

/-- A thread that runs waits for no trap, so that settling it changes nothing. -/
def Ctx.trapless (c : Ctx) : Prop := c.status = .running → c.inflight.all (fun f => !f.isTrap) = true

theorem settle_trapless {s : State} {id : CtxId} (h : ∀ c, s.ctx? id = some c → c.trapless) : s.settle id = s := by
  unfold State.settle
  split
  next => rfl
  next c hc =>
    split
    next => rfl
    next f hf =>
      split
      next hrun =>
        simp only [Bool.and_eq_true, decide_eq_true_iff] at hrun
        have hall := h c hc hrun.1.1
        unfold Ctx.trapNow at hf
        split at hf
        next => cases hf
        next g gs hg =>
          rw [hg] at hall
          split at hf
          next hwhat => simp [Flight.isTrap, hwhat] at hall
          next => cases hf
      next => rfl

/-- Some outstanding instructions of threads have completed, and nothing else has changed. -/
def Thinned (s t : State) : Prop := t = { s with ctxs := t.ctxs } ∧
  ∀ id c, s.ctx? id = some c → ∃ l, l.Sublist c.inflight ∧ t.ctx? id = some { c with inflight := l }

theorem Thinned.refl (s : State) : Thinned s s := ⟨rfl, fun _ c hc => ⟨c.inflight, .refl _, hc⟩⟩

theorem Thinned.trans {s t u : State} (h : Thinned s t) (h' : Thinned t u) : Thinned s u := by
  refine ⟨h'.1.trans (by rw [h.1]), fun id c hc => ?_⟩
  obtain ⟨l, hl, ht⟩ := h.2 id c hc
  obtain ⟨l', hl', hu⟩ := h'.2 id _ ht
  exact ⟨l', hl'.trans hl, hu⟩

theorem Ctx.trapless_sublist {c : Ctx} {l : List Flight} (h : c.trapless) (hl : l.Sublist c.inflight) :
    Ctx.trapless { c with inflight := l } := fun hrun =>
  List.all_eq_true.mpr fun f hf => List.all_eq_true.mp (h hrun) f (hl.subset hf)

theorem flight?_sublist {c : Ctx} {l : List Flight} {num : Nat} (h : c.flight? num = none) (hl : l.Sublist c.inflight) :
    Ctx.flight? { c with inflight := l } num = none := by
  simp only [Ctx.flight?, List.find?_eq_none] at h ⊢
  exact fun f hf => h f (hl.subset hf)

theorem landPlain_thinned {s : State} {id : CtxId} (num : Nat) (h : ∀ c, s.ctx? id = some c → c.trapless) :
    Thinned s (s.landPlain id num) ∧ ∀ c, s.ctx? id = some c → (s.landPlain id num).ctx? id = some (c.land num) := by
  have hctx (other : CtxId) : (s.onCtx id (fun c => c.land num)).ctx? other =
      if other = id then (s.ctx? id).map (fun c => c.land num) else s.ctx? other :=
    ctx?_onCtx (g := fun c => c.land num) (fun _ => rfl) other
  have hself : ∀ c, s.ctx? id = some c → (s.onCtx id (fun c => c.land num)).ctx? id = some (c.land num) := fun c hc => by
    rw [hctx, if_pos rfl, hc]
    rfl
  have hsettle : s.landPlain id num = s.onCtx id (fun c => c.land num) := settle_trapless fun c hc => by
    rw [hctx, if_pos rfl] at hc
    obtain ⟨b, hb, rfl⟩ := Option.map_eq_some_iff.mp hc
    exact Ctx.trapless_sublist (h b hb) List.filter_sublist
  rw [hsettle]
  refine ⟨⟨rfl, fun other c hc => ?_⟩, hself⟩
  by_cases ho : other = id
  · subst ho
    exact ⟨_, List.filter_sublist, hself c hc⟩
  · exact ⟨c.inflight, .refl _, by rw [hctx, if_neg ho, hc]⟩

/-- The oldest waits of threads at a barrier land. -/
def State.landBars (s : State) (n : Nat) (cs : List Ctx) : State := cs.foldl (fun s c => match c.barFlight n with
  | some f => s.landPlain c.id f.num
  | none => s) s

theorem landBars_thinned (n : Nat) (cs : List Ctx) (s : State) (h : ∀ c ∈ cs, ∃ b, s.ctx? c.id = some b ∧ b.trapless) :
    Thinned s (s.landBars n cs) ∧ ∀ c ∈ cs, ∀ f, c.barFlight n = some f → ∀ b, s.ctx? c.id = some b →
      ∃ c', (s.landBars n cs).ctx? c.id = some c' ∧ c'.flight? f.num = none := by
  induction cs generalizing s with
  | nil => exact ⟨.refl s, fun c hc => absurd hc (List.not_mem_nil)⟩
  | cons c cs ih =>
    cases hbar : c.barFlight n with
    | none =>
      have hstep : s.landBars n (c :: cs) = s.landBars n cs := by simp only [State.landBars, List.foldl_cons, hbar]
      obtain ⟨hthin, hnone⟩ := ih s fun d hd => h d (List.mem_cons_of_mem _ hd)
      rw [hstep]
      refine ⟨hthin, fun d hd f hf => ?_⟩
      rcases List.mem_cons.mp hd with rfl | hd
      · rw [hbar] at hf
        cases hf
      · exact hnone d hd f hf
    | some g =>
      have hstep : s.landBars n (c :: cs) = (s.landPlain c.id g.num).landBars n cs := by
        simp only [State.landBars, List.foldl_cons, hbar]
      obtain ⟨b, hb, htrapless⟩ := h c List.mem_cons_self
      obtain ⟨hfirst, hland⟩ := landPlain_thinned (s := s) g.num fun c' hc' => Option.some.inj (hb.symm.trans hc') ▸ htrapless
      obtain ⟨hrest, hnone⟩ := ih (s.landPlain c.id g.num) fun d hd => by
        obtain ⟨b', hb', htrapless'⟩ := h d (List.mem_cons_of_mem _ hd)
        obtain ⟨l, hl, ht⟩ := hfirst.2 d.id b' hb'
        exact ⟨_, ht, Ctx.trapless_sublist htrapless' hl⟩
      rw [hstep]
      refine ⟨hfirst.trans hrest, fun d hd f hf b' hb' => ?_⟩
      rcases List.mem_cons.mp hd with rfl | hd
      · obtain rfl : g = f := Option.some.inj (hbar.symm.trans hf)
        obtain ⟨l, hl, ht⟩ := hrest.2 d.id _ (hland b' hb')
        exact ⟨_, ht, flight?_sublist (flight?_land b' g.num) hl⟩
      · obtain ⟨l, -, ht⟩ := hfirst.2 d.id b' hb'
        exact hnone d hd f hf _ ht

/-! ### A phase -/

section
variable {s : State} {wg n : Nat} {w : Workgroup}

/-- What lets a phase complete (R362). -/
def State.phaseDue (s : State) (wg n : Nat) (w : Workgroup) : Prop :=
  w.place = .resident ∧ s.liveOfWg wg ≠ [] ∧
    (∀ c ∈ s.liveOfWg wg, c.id.tix ∈ (w.bar n).arrived ∧ s.arrivalDone c n = true) ∧ s.karrOf wg n ≤ (w.bar n).firings

theorem phaseReady_iff (hw : s.wg? wg = some w) : s.phaseReady wg n = true ↔ s.phaseDue wg n w := by
  simp only [State.phaseReady, hw, State.phaseDue, Bool.and_eq_true, beq_iff_eq, Bool.not_eq_true', List.isEmpty_eq_false_iff,
    List.all_eq_true, List.contains_iff_mem, decide_eq_true_iff, ge_iff_le, and_assoc]

/-- A barrier after a phase: its arrivals and firings are used up, and its phase count goes up (R362). -/
def Barrier.next (live : List Ctx) (karr : Nat) (b : Barrier) : Barrier :=
  { arrived := (removeEach (live.map (fun c => c.id.tix)) b.arrived).filter (fun t => live.any (fun c => c.id.tix == t)),
    firings := b.firings - karr, phase := (b.phase + 1) % 2 ^ 32 }

/-- What the arrivals of a phase release. -/
def State.phaseWrites (s : State) (wg n : Nat) : List Nat := (s.liveOfWg wg).flatMap (fun c => s.barWrites c n)

/-- The state in which the arrivals have released their writes, and the barrier has gone on to its next phase. -/
def State.phased (s : State) (wg n : Nat) : State :=
  (s.showWrites (s.phaseWrites wg n) (.wg wg)).onWg wg (fun w => w.onBar n (Barrier.next (s.liveOfWg wg) (s.karrOf wg n)))

/-- That state, after the threads' core has given up what its L1 held before a keystone's firings. -/
def State.phaseFlushed (s : State) (wg n : Nat) : State :=
  if s.karrOf wg n = 0 then s.phased wg n
  else (s.phased wg n).flushL1 ((((s.phased wg n).wg? wg).map Workgroup.core).getD 0)

theorem tryPhase_eq (h : s.phaseReady wg n = true) : s.tryPhase wg n =
    ((s.phaseFlushed wg n).takeOver ((s.liveOfWg wg).map Ctx.id) (s.phaseWrites wg n)).landBars n (s.liveOfWg wg) := by
  rw [State.tryPhase, h]
  rfl

theorem phaseFlushed_frame (s : State) (wg n : Nat) : ∃ cs, s.phaseFlushed wg n = { s.phased wg n with cores := cs } ∧
    (s.karrOf wg n = 0 → cs = s.cores) := by
  unfold State.phaseFlushed
  split
  next => exact ⟨s.cores, rfl, fun _ => rfl⟩
  next hkarr =>
    obtain ⟨cs, hflush⟩ := flushL1_frame (s.phased wg n) ((((s.phased wg n).wg? wg).map Workgroup.core).getD 0)
    exact ⟨cs, hflush, fun h0 => absurd h0 hkarr⟩

/-- Each live thread is found under its name as one that settling leaves alone. -/
theorem live_trapless (h : ∀ c ∈ s.liveOfWg wg, c.inflight.all (fun f => !f.isTrap) = true) :
    ∀ c ∈ s.liveOfWg wg, ∃ b, s.ctx? c.id = some b ∧ b.trapless := by
  intro c hc
  obtain ⟨hmem, hlive⟩ := List.mem_filter.mp hc
  have hfound : (s.ctx? c.id).isSome = true := List.find?_isSome.mpr ⟨c, hmem, beq_self_eq_true _⟩
  obtain ⟨b, hb⟩ := Option.isSome_iff_exists.mp hfound
  obtain ⟨hbmem, hid⟩ := State.ctx?_mem hb
  refine ⟨b, hb, fun hrun => h b (List.mem_filter.mpr ⟨hbmem, ?_⟩)⟩
  simp only [Ctx.live, Bool.and_eq_true, bne_iff_ne] at hlive ⊢
  rw [hid, hrun]
  exact ⟨⟨hlive.1.1, by decide⟩, hlive.2⟩

/-- A phase that is due completes: its arrivals release, its departures acquire, and its waits land (R234, R362). -/
theorem phase_completes (hw : s.wg? wg = some w) (hdue : s.phaseDue wg n w)
    (hquiet : ∀ c ∈ s.liveOfWg wg, c.inflight.all (fun f => !f.isTrap) = true) :
    let t := s.tryPhase wg n
    t = { s with ctxs := t.ctxs, wgs := t.wgs, stores := t.stores, cores := t.cores, got := t.got } ∧
    Acquired s t ((s.liveOfWg wg).map Ctx.id) (s.phaseWrites wg n) ∧
    (∀ p ∈ t.stores, p.num ∈ s.phaseWrites wg n → ScopeSet.wg wg ∈ p.vis) ∧
    (s.karrOf wg n = 0 → t.cores = s.cores) ∧
    (∃ w', t.wg? wg = some w' ∧ (w'.bar n).phase = ((w.bar n).phase + 1) % 2 ^ 32 ∧
      (w'.bar n).firings = (w.bar n).firings - s.karrOf wg n) ∧
    ∀ id c f, s.ctx? id = some c → c ∈ s.liveOfWg wg → c.barFlight n = some f →
      ∃ c', t.ctx? id = some c' ∧ c'.flight? f.num = none ∧ c'.pc = c.pc ∧ c'.regs = c.regs := by
  intro t
  obtain ⟨cs, hflushed, hcores⟩ := phaseFlushed_frame s wg n
  have htook := takeOver_frame (s.phaseFlushed wg n) ((s.liveOfWg wg).map Ctx.id) (s.phaseWrites wg n)
  have hacquired := takeOver_acquired (s.phaseFlushed wg n) ((s.liveOfWg wg).map Ctx.id) (s.phaseWrites wg n)
  have ht : t = _ := tryPhase_eq ((phaseReady_iff hw).mpr hdue)
  generalize (s.phaseFlushed wg n).takeOver ((s.liveOfWg wg).map Ctx.id) (s.phaseWrites wg n) = x at htook hacquired ht
  have hctx (id : CtxId) : x.ctx? id = s.ctx? id := by rw [htook, hflushed]; rfl
  obtain ⟨hthin, hlanded⟩ := landBars_thinned n (s.liveOfWg wg) x fun c hc => by
    rw [hctx]
    exact live_trapless hquiet c hc
  rw [← ht] at hthin hlanded
  have hstores : t.stores = (s.showWrites (s.phaseWrites wg n) (.wg wg)).stores := by rw [hthin.1, htook, hflushed]; rfl
  have hwgs : t.wg? wg = some (w.onBar n (Barrier.next (s.liveOfWg wg) (s.karrOf wg n))) := by
    have hsame : t.wg? wg = (s.phased wg n).wg? wg := by rw [hthin.1, htook, hflushed]; rfl
    rw [hsame]
    exact wg?_onWg_same (s := s.showWrites (s.phaseWrites wg n) (.wg wg)) (fun _ => rfl) hw
  refine ⟨?_, ?_, fun p hp hnum => ?_, fun hkarr => ?_, ⟨_, hwgs, ?_, ?_⟩, fun id c f hc hlive hbar => ?_⟩
  · rw [hthin.1, htook, hflushed]
    rfl
  · refine acquired_congr hacquired (fun m => ?_) ?_ ?_
    · rw [hflushed]
      exact pends_showWrites m
    · rw [hflushed]
      rfl
    · rw [hthin.1]
  · rw [hstores] at hp
    exact showWrites_vis hp hnum
  · rw [hthin.1, htook, hflushed]
    exact hcores hkarr
  · rw [bar_onBar, if_pos rfl]
    rfl
  · rw [bar_onBar, if_pos rfl]
    rfl
  · obtain rfl := (State.ctx?_mem hc).2
    obtain ⟨c', hc', hnone⟩ := hlanded c hlive f hbar c (by rw [hctx, hc])
    obtain ⟨l, -, hl⟩ := hthin.2 c.id c (by rw [hctx, hc])
    obtain rfl := Option.some.inj (hl.symm.trans hc')
    exact ⟨_, hc', hnone, rfl, rfl⟩

end

/-- Settles O23: the arrivals of a BAR by the threads that it acts for; a phase by what it needs, and by the waits that land. -/
theorem barriers : Obligations.Barriers := by
  refine ⟨fun s f hs hbarrier => ?_, fun s wg n w hw => ⟨fun hnot => ?_, fun hdue hquiet => ?_⟩⟩
  · obtain ⟨u, hframe, hexec, hsteps, hwgs⟩ := bar_arrives hs hbarrier
    refine ⟨u, hframe, hexec, hsteps, ?_⟩
    rw [hwgs]
    exact each_map fun w _ => arrives_foldl f.d.toNat (s.actors (.bar f)) w
  · have hnone : s.phaseReady wg n = false := Bool.eq_false_iff.mpr (mt (phaseReady_iff hw).mp hnot)
    show Host.Outcome.next (s.tryPhase wg n) = _
    rw [State.tryPhase, hnone]
    rfl
  · exact ⟨_, rfl, phase_completes hw hdue hquiet⟩

end Sys2Proof.Machine
end

section
/-!
PROOF. Uniform words that run: what the team and its threads keep, and what reads ask for (R33, R425); TASK.serve and QFENCE
(O34).
-/
namespace Sys2Proof.Machine
open Sys2Proof

/-! ### A uniform word that runs -/

/-- A team that goes on has its new registers, and its threads go on together. -/
theorem teamRun_runs (i : Instr) (eff : Team → Team) (warn : BitVec 9) (next : Word) (flight : Option FlightKind) (s : State) :
    TeamRuns s i eff warn next flight (teamRun i eff warn next flight s) := by
  cases flight <;> exact ⟨rfl, rfl⟩

/-- A run whose teams and threads are those of another is a run too. -/
theorem TeamRuns.congr {s t u : State} {i : Instr} {regs : Team → Team} {warn : BitVec 9} {pc : Word} {out : Option FlightKind}
    (h : TeamRuns s i regs warn pc out t) (hteams : u.teams = t.teams) (hctxs : u.ctxs = t.ctxs) :
    TeamRuns s i regs warn pc out u := by
  unfold TeamRuns at h ⊢
  rw [hteams, hctxs]
  exact h

/-- A long uniform word that writes one register answers, whatever else it does besides to what is no team and no thread. -/
theorem teamAnswers_of_exec {s t : State} {i : Instr} {d : Reg} {x : Word} {warn : BitVec 9} {rest : State → Prop}
    (hs : s.uclear i = true) (he : exec i s = .next t) (hteams : t.teams = (uniform i (longPut d x warn s) s).teams)
    (hctxs : t.ctxs = (uniform i (longPut d x warn s) s).ctxs) (hrest : rest t) : TeamAnswers s i d x warn rest := by
  have hrun : uniform i (longPut d x warn s) s = teamRun i (fun u => u.put d x) warn s.after (some .result) s := uniform_run hs ..
  rw [hrun] at hteams hctxs
  exact ⟨t, he, (teamRun_runs i _ warn s.after (some .result) s).congr hteams hctxs, hrest⟩

theorem uniform_frame {s : State} {i : Instr} {d : Reg} {x : Word} {warn : BitVec 9} (hs : s.uclear i = true) :
    ∃ teams ctxs, uniform i (longPut d x warn s) s = { s with teams := teams, ctxs := ctxs, nextNum := s.nextNum + 1 } :=
  ⟨_, _, uniform_run hs ..⟩

/-- Reads have been noted, asked for of other devices, and found cached: nothing that a program sees has changed. -/
def Noted (t u : State) : Prop :=
  ∃ seen links num tlb, u = { t with seen := seen, linkOut := links, nextNum := num, tlb := tlb }

theorem Noted.refl (t : State) : Noted t t := ⟨t.seen, t.linkOut, t.nextNum, t.tlb, rfl⟩

theorem Noted.trans {t u v : State} (h : Noted t u) (h' : Noted u v) : Noted t v := by
  obtain ⟨_, _, _, _, rfl⟩ := h
  obtain ⟨seen, links, num, tlb, rfl⟩ := h'
  exact ⟨seen, links, num, tlb, rfl⟩

/-- What a team reads is noted and asked for. -/
theorem teamFetched_noted (s t : State) (addr n : Nat) : Noted t (s.teamFetched t addr n) := by
  unfold State.teamFetched
  have hread : Noted t (((s.enginePieces s.curRoot addr n accNone).ranges.flatMap (fun r => s.cur.course.map (fun id => (id, r)))).foldl
      (fun u e => u.noteRead e.1 s.nextNum s.teamViewer true e.2.1 e.2.2) t) :=
    foldl_inv (Noted t) _ _ (fun u e hu => hu.trans ⟨_, u.linkOut, u.nextNum, u.tlb, noteRead_frame ..⟩) t (Noted.refl t)
  refine hread.trans ?_
  obtain ⟨links, num, hfar⟩ := fetchFar_frame (((s.enginePieces s.curRoot addr n accNone).ranges.flatMap
    (fun r => s.cur.course.map (fun id => (id, r)))).foldl
      (fun u e => u.noteRead e.1 s.nextNum s.teamViewer true e.2.1 e.2.2) t) s.curRoot addr n
  exact ⟨_, links, num, _, hfar⟩

theorem noteTeamLeaf_noted (t : State) (addr : Word) : Noted t (t.noteTeamLeaf addr) := by
  unfold State.noteTeamLeaf
  split
  next c _ _ =>
    obtain ⟨tlb, h⟩ := noteLeaf_frame t c addr
    exact ⟨t.seen, t.linkOut, t.nextNum, tlb, h⟩
  next => exact Noted.refl t

/-! ### TASK.serve and QFENCE -/

section
variable {s : State} {f : SA} {d : Desk}

theorem serve_stands (hs : s.uclear (.taskServe f) = true) :
    let serve : Serve :=
      { queue := (s.sreg f.a).toNat / 2 % 4, idle := (s.sreg f.a).getLsbD 0, d := f.d, pc := s.cur.pc, inTask := false }
    ∃ u t, exec (.taskServe f) s = .next t ∧
      TeamRuns s (.taskServe f) (fun x => { x with serve := some serve })
        (warnIf (decide ((s.sreg f.a).toNat ≥ 8)) warnFIELDRES) s.nextPc none u ∧
      u = { s with teams := u.teams, ctxs := u.ctxs, nextNum := s.nextNum + 1 } ∧
      t = { u with ctxs := u.ctxs.map (fun c => if s.cur.course.contains c.id then { c with status := .serving } else c) } := by
  intro serve
  have hidle : bitAt (s.sreg f.a).toNat 0 = (s.sreg f.a).getLsbD 0 := by
    simp only [bitAt, BitVec.getLsbD, Nat.testBit_eq_decide_div_mod_eq]
    rfl
  have hserve : serve = ⟨bitsAt (s.sreg f.a).toNat 2 1, bitAt (s.sreg f.a).toNat 0, f.d, s.cur.pc, false, false⟩ := by
    rw [hidle]
    rfl
  refine ⟨teamRun (.taskServe f) (fun x => { x with serve := some serve }) (warnIf (decide ((s.sreg f.a).toNat ≥ 8)) warnFIELDRES)
    s.after none s, _, ?_, teamRun_runs .., rfl, rfl⟩
  rw [hserve]
  exact congrArg (fun u => Host.Outcome.next (State.mapCtx u _)) (uniform_run hs ..)

theorem taskKind_qfenceRecord (q mask : Nat) : taskKind (qfenceRecord q mask) = 5 := rfl

theorem fieldAt_qfenceRecord_mask (q mask : Nat) : fieldAt (qfenceRecord q mask) 0x30 1 = mask % 256 := by
  show (BitVec.ofNat 8 mask).toNat + 256 * 0 = mask % 256
  simp

/-- The record of a QFENCE waits for the records that the queues of its mask hold (R421). -/
theorem entering_qfence (hmask : (s.sreg f.a).toNat < 128) {t : State} (ht : t.cores = s.cores) (q : Nat) :
    (t.entering d.core q (s.queueRec d false (qfenceRecord q (s.sreg f.a).toNat) [] s.teamWrites)).fence =
      s.recsIn d.core (s.sreg f.a).toNat q := by
  have hfield : fieldAt (qfenceRecord q (s.sreg f.a).toNat) 0x30 1 = (s.sreg f.a).toNat :=
    (fieldAt_qfenceRecord_mask q _).trans (Nat.mod_eq_of_lt (by omega))
  have hrecs : ∀ mask, t.recsIn d.core mask q = s.recsIn d.core mask q := fun mask => by
    simp only [State.recsIn, State.queueRecs, State.core, ht]
  rw [← hrecs]
  conv_rhs => rw [← hfield]
  rfl

theorem exec_qfence (hd : s.curDesk = some d) : exec (.qfence f) s = .next (
    if (s.sreg f.b).toNat > 6 then uniform (.qfence f) (longPut f.d 2 0 s) s
    else if (s.sreg f.a).toNat ≥ 128 then uniform (.qfence f) (longPut f.d 3 0 s) s
    else if s.queueFull d.core (s.sreg f.b).toNat then s
    else (uniform (.qfence f) (longPut f.d 0 0 s) s).enqueue d.core (s.sreg f.b).toNat
      (s.queueRec d false (qfenceRecord (s.sreg f.b).toNat (s.sreg f.a).toNat) [] s.teamWrites)) := by
  show execQfence f s = _
  unfold execQfence
  rw [hd]
  rfl

/-- Settles O34: TASK.serve by the run of its team, QFENCE by its checks in turn and by the record that enters its queue. -/
theorem serveAndFence : Obligations.ServeAndFence := by
  intro s f
  refine ⟨serve_stands, fun d hs hd => ⟨fun hq => ?_, fun hq hmask => ?_, fun hq hmask hfull => ?_, fun hq hmask hfull => ?_⟩⟩
  · obtain ⟨teams, ctxs, hframe⟩ := uniform_frame (d := f.d) (x := 2) (warn := 0) hs
    refine teamAnswers_of_exec hs ((exec_qfence hd).trans (congrArg _ (if_pos hq))) rfl rfl ?_
    rw [hframe]
  · obtain ⟨teams, ctxs, hframe⟩ := uniform_frame (d := f.d) (x := 3) (warn := 0) hs
    have he := (exec_qfence (f := f) hd).trans (congrArg _ ((if_neg (Nat.not_lt.mpr hq)).trans (if_pos hmask)))
    refine teamAnswers_of_exec hs he rfl rfl ?_
    rw [hframe]
  · rw [exec_qfence hd, if_neg (Nat.not_lt.mpr hq), if_neg (Nat.not_le.mpr hmask), if_pos hfull]
  · obtain ⟨teams, ctxs, hframe⟩ := uniform_frame (d := f.d) (x := 0) (warn := 0) hs
    have he := (exec_qfence (f := f) hd).trans (congrArg _ ((if_neg (Nat.not_lt.mpr hq)).trans
      ((if_neg (Nat.not_le.mpr hmask)).trans (if_neg (Bool.eq_false_iff.mp hfull)))))
    have hrecs : (uniform (.qfence f) (longPut f.d 0 0 s) s).queueRecs d.core (s.sreg f.b).toNat =
        s.queueRecs d.core (s.sreg f.b).toNat := by
      rw [hframe]
      rfl
    refine teamAnswers_of_exec hs he rfl rfl ⟨?_, _, (enqueue_queueRecs ..).trans (congrArg (· ++ _) hrecs), ?_, ?_, ?_⟩
    · rw [hframe]
      rfl
    · exact taskKind_qfenceRecord ..
    · exact entering_qfence hmask (by rw [hframe]) _
    · rfl

end

end Sys2Proof.Machine
end

section
/-!
PROOF. KSARM, KSDIS, KSRD and the action that waits for its queue (R186 to R190, R247, R398 to R401): O35.
-/
namespace Sys2Proof.Machine
open Sys2Proof

section
variable {s : State} {f : SA} {d : Desk} {r : List Byte} {ctrl n key : Nat}

theorem keystone_onKeystone (s : State) (ctrl n : Nat) (g : Keystone → Keystone) :
    (s.onKeystone ctrl n g).keystone ctrl n = g (s.keystone ctrl n) := by
  unfold State.keystone State.onKeystone Table.get
  rw [Table.find_set, if_pos rfl]
  rfl

/-! ### KSARM -/

/-- What a KSARM reads is noted and asked for. -/
theorem ksFetched_noted (s : State) (d : Desk) (addr : Nat) (r : List Byte) (t : State) : Noted t (s.ksFetched d addr r t) := by
  have hdesc := teamFetched_noted s t addr 32
  unfold State.ksFetched
  simp only
  split
  · split
    · exact (hdesc.trans (teamFetched_noted ..)).trans (teamFetched_noted ..)
    · exact hdesc
  · exact hdesc

/-- The lowest counter that is not armed is the one that a KSARM takes. -/
theorem freeCounter_eq (hn : n < ksCounters ctrl) (hfree : (s.keystone ctrl n).armed = false)
    (harmed : ∀ m < n, (s.keystone ctrl m).armed = true) : s.freeCounter ctrl = some n := by
  refine List.find?_range_eq_some.mpr ⟨?_, List.mem_range.mpr hn, fun m hm => ?_⟩
  · rw [hfree]
    rfl
  · rw [harmed m hm]
    rfl

/-- A KSARM that passes its checks has answered, and its counter is armed. -/
def State.ksAnswered (s : State) (f : SA) (d : Desk) (r : List Byte) (ctrl key n : Nat) : State :=
  (uniform (.ksarm f) (longPut f.d (BitVec.ofNat 64 (ksHandle ctrl n)) 0 s) s).onKeystone ctrl n
    (fun _ => s.ksArmed d (s.sreg f.a) r key)

/-- That state, with what the KSARM has read noted. -/
def State.ksTaken (s : State) (f : SA) (d : Desk) (r : List Byte) (ctrl key n : Nat) : State :=
  s.ksFetched d (s.sreg f.a).toNat r (((s.ksAnswered f d r ctrl key n).noteTeamLeaf (s.sreg f.a)).noteTeamLeaf
    (BitVec.ofNat 64 (fieldAt r 0 8)))

theorem ksTaken_noted (s : State) (f : SA) (d : Desk) (r : List Byte) (ctrl key n : Nat) :
    Noted (s.ksAnswered f d r ctrl key n) (s.ksTaken f d r ctrl key n) :=
  ((noteTeamLeaf_noted ..).trans (noteTeamLeaf_noted ..)).trans (ksFetched_noted ..)

theorem exec_ksarm (hsampled : s.curSampled = false) (hd : s.curDesk = some d)
    (hread : s.deskRead d (s.sreg f.a).toNat 32 32 = .got r) (hchk : s.ksCheck d r = .ok)
    (hplace : s.ksPlace (s.ptRoot d.launch.queue) (fieldAt r 0 8) (fieldAt r 8 4) = .at_ ctrl key)
    (hfree : s.freeCounter ctrl = some n) :
    exec (.ksarm f) s = .next (if s.teamWrites.any s.outstanding then s else s.ksTaken f d r ctrl key n) := by
  show execKsarm f s = _
  simp only [execKsarm, withRecord, hsampled, hd, hread, hchk, hplace, hfree, Bool.false_eq_true, if_false]
  rfl

theorem exec_ksarm_refused (hsampled : s.curSampled = false) (hd : s.curDesk = some d)
    (hread : s.deskRead d (s.sreg f.a).toNat 32 32 = .got r) (hchk : s.ksCheck d r = .refuse n) :
    exec (.ksarm f) s = .next (s.ksFetched d (s.sreg f.a).toNat r
      (uniform (.ksarm f) (longPut f.d (BitVec.ofNat 64 (2 ^ 63 + n)) 0 s) s)) := by
  show execKsarm f s = _
  simp only [execKsarm, withRecord, hsampled, hd, hread, hchk, Bool.false_eq_true, if_false]

theorem ksarm_arms (hs : s.uclear (.ksarm f) = true) (hsampled : s.curSampled = false) (hd : s.curDesk = some d)
    (hread : s.deskRead d (s.sreg f.a).toNat 32 32 = .got r) (hchk : s.ksCheck d r = .ok)
    (hplace : s.ksPlace (s.ptRoot d.launch.queue) (fieldAt r 0 8) (fieldAt r 8 4) = .at_ ctrl key)
    (hfree : s.freeCounter ctrl = some n) (hvisible : s.teamWrites.any s.outstanding = false) :
    TeamAnswers s (.ksarm f) f.d (BitVec.ofNat 64 (ctrl * 2 ^ 16 + n)) 0 (fun t =>
      t.mem = s.mem ∧ (t.keystone ctrl n).armed = true ∧ (t.keystone ctrl n).count = 0 ∧
      (t.keystone ctrl n).base = key ∧ (t.keystone ctrl n).len = fieldAt r 8 4 ∧
      (t.keystone ctrl n).total = fieldAt r 0x10 8) := by
  have he := (exec_ksarm hsampled hd hread hchk hplace hfree).trans (congrArg _ (if_neg (Bool.eq_false_iff.mp hvisible)))
  obtain ⟨teams, ctxs, hrun⟩ := uniform_frame (d := f.d) (x := BitVec.ofNat 64 (ksHandle ctrl n)) (warn := 0) hs
  obtain ⟨seen, links, num, tlb, hnoted⟩ := ksTaken_noted s f d r ctrl key n
  have hkey : (s.ksTaken f d r ctrl key n).keystone ctrl n = s.ksArmed d (s.sreg f.a) r key := by
    rw [hnoted]
    show (s.ksAnswered f d r ctrl key n).keystone ctrl n = _
    rw [State.ksAnswered, keystone_onKeystone]
  refine teamAnswers_of_exec hs he ?_ ?_ ⟨?_, ?_⟩
  · rw [hnoted]
    rfl
  · rw [hnoted]
    rfl
  · rw [hnoted, State.ksAnswered, hrun]
    rfl
  · rw [hkey]
    exact ⟨rfl, rfl, rfl, rfl, rfl⟩

theorem ksarm_refuses (hs : s.uclear (.ksarm f) = true) (hsampled : s.curSampled = false) (hd : s.curDesk = some d)
    (hread : s.deskRead d (s.sreg f.a).toNat 32 32 = .got r) (hchk : s.ksCheck d r = .refuse n) :
    TeamAnswers s (.ksarm f) f.d (BitVec.ofNat 64 (2 ^ 63 + n)) 0 (fun t => t.keystones = s.keystones ∧ t.mem = s.mem) := by
  obtain ⟨teams, ctxs, hrun⟩ := uniform_frame (d := f.d) (x := BitVec.ofNat 64 (2 ^ 63 + n)) (warn := 0) hs
  obtain ⟨seen, links, num, tlb, hfetch⟩ := ksFetched_noted s d (s.sreg f.a).toNat r
    (uniform (.ksarm f) (longPut f.d (BitVec.ofNat 64 (2 ^ 63 + n)) 0 s) s)
  refine teamAnswers_of_exec hs (exec_ksarm_refused hsampled hd hread hchk) ?_ ?_ ?_
  · rw [hfetch]
  · rw [hfetch]
  · rw [hfetch, hrun]
    exact ⟨rfl, rfl⟩

/-! ### KSDIS and KSRD -/

theorem exec_ksdis (hsampled : s.curSampled = false) : exec (.ksdis f) s = .next (
    let t := uniform (.ksdis f) (longPut f.d (BitVec.ofNat 64 (s.ksdisStatus s.cur.wg (s.sreg f.a))) 0 s) s
    match ksNamed (s.sreg f.a) with
    | some (ctrl, n) => if s.ksdisStatus s.cur.wg (s.sreg f.a) = 0 then t.onKeystone ctrl n Keystone.disarm else t
    | none => t) := by
  show execKsdis f s = _
  rw [execKsdis, hsampled]
  rfl

/-- A KSDIS that is refused answers its status, and changes no counter. -/
theorem ksdis_refuses {x : Nat} (hs : s.uclear (.ksdis f) = true) (hsampled : s.curSampled = false)
    (hstatus : s.ksdisStatus s.cur.wg (s.sreg f.a) = x) (hx : x ≠ 0) :
    TeamAnswers s (.ksdis f) f.d (BitVec.ofNat 64 x) 0 (fun t => t.keystones = s.keystones) := by
  obtain ⟨teams, ctxs, hrun⟩ := uniform_frame (d := f.d) (x := BitVec.ofNat 64 x) (warn := 0) hs
  have he : exec (.ksdis f) s = .next (uniform (.ksdis f) (longPut f.d (BitVec.ofNat 64 x) 0 s) s) := by
    rw [exec_ksdis hsampled, hstatus]
    split
    · rw [if_neg hx]
    · rfl
  refine teamAnswers_of_exec hs he rfl rfl ?_
  rw [hrun]

/-- A KSDIS that may free its counter does. -/
theorem ksdis_frees (hs : s.uclear (.ksdis f) = true) (hsampled : s.curSampled = false)
    (hnamed : ksNamed (s.sreg f.a) = some (ctrl, n)) (hstatus : s.ksdisStatus s.cur.wg (s.sreg f.a) = 0) :
    TeamAnswers s (.ksdis f) f.d 0 0 (fun t => t.keystone ctrl n = (s.keystone ctrl n).disarm) := by
  obtain ⟨teams, ctxs, hrun⟩ := uniform_frame (d := f.d) (x := 0) (warn := 0) hs
  have he : exec (.ksdis f) s = .next ((uniform (.ksdis f) (longPut f.d 0 0 s) s).onKeystone ctrl n Keystone.disarm) := by
    rw [exec_ksdis hsampled, hstatus, hnamed]
    rfl
  refine teamAnswers_of_exec hs he rfl rfl ?_
  rw [keystone_onKeystone, hrun]
  rfl

theorem ksrd_reads (hs : s.uclear (.ksrd f) = true) (hnamed : ksNamed (s.sreg f.a) = some (ctrl, n)) :
    TeamAnswers s (.ksrd f) f.d (s.keystone ctrl n).word (warnIf (s.keystone ctrl n).overshot warnOVERSHOOT)
      (fun t => t.keystones = s.keystones) := by
  obtain ⟨teams, ctxs, hrun⟩ := uniform_frame (d := f.d) (x := (s.keystone ctrl n).word)
    (warn := warnIf (s.keystone ctrl n).overshot warnOVERSHOOT) hs
  have he : exec (.ksrd f) s = .next (uniform (.ksrd f) (longPut f.d (s.keystone ctrl n).word
      (warnIf (s.keystone ctrl n).overshot warnOVERSHOOT) s) s) := by
    show execKsrd f s = _
    rw [execKsrd, hnamed]
  refine teamAnswers_of_exec hs he rfl rfl ?_
  rw [hrun]

theorem ksrd_unnamed (hs : s.uclear (.ksrd f) = true) (hnamed : ksNamed (s.sreg f.a) = none) :
    TeamAnswers s (.ksrd f) f.d 0 warnFIELDRES (fun t => t.keystones = s.keystones) := by
  obtain ⟨teams, ctxs, hrun⟩ := uniform_frame (d := f.d) (x := 0) (warn := warnFIELDRES) hs
  have he : exec (.ksrd f) s = .next (uniform (.ksrd f) (longPut f.d 0 warnFIELDRES s) s) := by
    show execKsrd f s = _
    rw [execKsrd, hnamed]
  refine teamAnswers_of_exec hs he rfl rfl ?_
  rw [hrun]

end

/-! ### An action that waits -/

section
variable {s : State} {ctrl n : Nat} {r : QRec}

/-- The workgroup that armed a counter, where there is one, has a property. -/
def State.ownerHas (s : State) (k : Keystone) (p : Workgroup → Prop) : Prop :=
  ∀ g w, k.owner = some g → s.wg? g = some w → p w

/-- Nothing that is held acts before the action of a workgroup that has nothing held. -/
theorem drainOwner_none {k : Keystone} (h : s.ownerHas k (fun w => w.heldFirings = [])) : s.drainOwner k = s := by
  unfold State.drainOwner
  split
  next g hg =>
    split
    next =>
      unfold State.drainHeld
      cases hw : s.wg? g with
      | none => rfl
      | some w =>
        simp only [Option.map_some, Option.getD_some, h g w hg hw]
        rfl
    next => rfl
  next => rfl

/-- Nothing that is held acts while its workgroup is on no core. -/
theorem drainOwner_away {k : Keystone} {g : Nat} (hg : k.owner = some g) (h : s.resident g = false) : s.drainOwner k = s := by
  unfold State.drainOwner
  rw [hg]
  simp only [h, Bool.false_eq_true, if_false]

theorem ksBlocked_iff {k : Keystone} (hkind : k.kind = 2) (hrcd : k.rcd = some r) :
    s.ksBlocked k = decide (s.queueCount k.core (fieldAt r.rcd 0x2A 1) ≥ 64) := by
  rw [State.ksBlocked, hkind, hrcd]
  rfl

theorem exec_pending {k : Keystone} (hk : s.keystone ctrl n = k) (hdrain : s.drainOwner k = s) (hpending : k.pending = true) :
    exec (.keystonePendingEnqueue ctrl n) s =
      .next (if s.ksBlocked k then s else (s.ksAction ctrl n k).ksAfter ctrl n k) := by
  show execKeystonePendingEnqueue ctrl n s = _
  rw [execKeystonePendingEnqueue, hk, hdrain]
  simp only [hk, hpending, Bool.true_and]
  cases s.ksBlocked k <;> rfl

theorem ksHolds_of_place {k : Keystone} (h : s.ownerHas k (fun w => w.heldFirings = [] ∧ ∀ a, w.place ≠ .saved a)) :
    s.ksHolds k = false := by
  unfold State.ksHolds
  split
  next w hw =>
    obtain ⟨g, hg, hw⟩ := Option.bind_eq_some_iff.mp hw
    obtain ⟨hheld, hplace⟩ := h g w hg hw
    split
    next a ha => exact absurd ha (hplace a)
    next => rw [hheld]; rfl
  next => rfl

/-- An ENQUEUE action that is not held puts its record into its queue. -/
theorem ksAction_enqueues {k : Keystone} (hkind : k.kind = 2) (hrcd : k.rcd = some r) (hlate : k.late = false)
    (hholds : s.ksHolds k = false) : s.ksAction ctrl n k =
      s.enqueue k.core (fieldAt r.rcd 0x2A 1) { r with owner := s.ksOwner k, fired := true } := by
  simp only [State.ksAction, hholds, State.ksAct, hkind, hrcd, hlate, Bool.false_eq_true, if_false]
  rfl

/-- An action of a saved workgroup joins the firings that are held for it. -/
theorem ksAction_holds {k : Keystone} {g a : Nat} {w : Workgroup} (hg : k.owner = some g) (hw : s.wg? g = some w)
    (hplace : w.place = .saved a) : s.ksAction ctrl n k =
      s.onWg g (fun w => { w with heldFirings := w.heldFirings ++ [(ctrl * 2 ^ 16 + n, k)] }) := by
  have hholds : s.ksHolds k = true := by
    rw [State.ksHolds, hg, Option.bind_some, hw]
    simp only [hplace]
  rw [State.ksAction, if_pos hholds, hg]
  rfl

/-- A counter whose waiting action has been taken, and that fires no more, is free. -/
theorem ksAfter_fired {k : Keystone} (hfired : k.fired = true) : s.ksAfter ctrl n k =
    s.onKeystone ctrl n (fun k => { k with armed := false, pending := false, fired := false }) := by
  rw [State.ksAfter, if_pos hfired]

/-- Settles O35: KSARM by its checks and the lowest free counter, KSDIS by its status, KSRD by the counter that it names; a
waiting action by whether its queue has room and whether its workgroup is saved. -/
theorem keystones : Obligations.Keystones := by
  intro s f
  refine ⟨?_, ?_, fun hs hsampled => ⟨fun hnamed => ?_, fun ctrl n hnamed => ⟨fun harmed => ?_, fun harmed hkind howner => ?_,
    fun harmed howner => ?_⟩⟩, fun hs => ⟨ksrd_unnamed hs, fun ctrl n hnamed => ksrd_reads hs hnamed⟩, ?_⟩
  · intro d r ctrl key n hs hsampled hd hread hchk hplace hn hfree harmed
    have hcounter := freeCounter_eq hn hfree harmed
    refine ⟨fun hwaits => ?_, ksarm_arms hs hsampled hd hread hchk hplace hcounter⟩
    rw [exec_ksarm hsampled hd hread hchk hplace hcounter, if_pos hwaits]
  · intro d r n hs hsampled hd hread hchk
    exact ksarm_refuses hs hsampled hd hread hchk
  · exact ksdis_refuses hs hsampled (by rw [State.ksdisStatus, hnamed]; rfl) (by decide)
  · exact ksdis_refuses hs hsampled (by rw [State.ksdisStatus, hnamed]; simp only [harmed]; rfl) (by decide)
  · refine ksdis_refuses hs hsampled (x := 10) ?_ (by decide)
    rw [State.ksdisStatus, hnamed]
    simp only [harmed, hkind, howner, Bool.not_true, Bool.false_eq_true, if_false, ne_eq, not_false_eq_true, and_self, if_true]
  · refine ksdis_frees hs hsampled hnamed ?_
    rw [State.ksdisStatus, hnamed]
    simp only [harmed, Bool.not_true, Bool.false_eq_true, if_false]
    exact if_neg fun ⟨hkind, hne⟩ => hne (howner hkind)
  · intro ctrl n r k q hpending hkind hrcd hlate owners
    have hblocked := ksBlocked_iff (s := s) hkind hrcd
    refine ⟨fun hheld hfull => ?_, fun hroom hfired hheld => ?_, fun g w a hroom hfired hg hw hplace => ?_⟩
    · rw [exec_pending rfl (drainOwner_none hheld) hpending, hblocked, if_pos (decide_eq_true hfull)]
    · have hdrain := drainOwner_none (s := s) (k := k) fun g w hg hw => (hheld g w hg hw).1
      have he := (exec_pending rfl hdrain hpending).trans (congrArg _ (if_neg (show ¬ s.ksBlocked k = true by
        rw [hblocked, decide_eq_true_iff]
        exact Nat.not_le.mpr hroom)))
      rw [ksAfter_fired hfired, ksAction_enqueues hkind hrcd hlate (ksHolds_of_place hheld)] at he
      refine ⟨_, _, he, enqueue_queueRecs .., rfl, ?_, ?_⟩
      · rw [keystone_onKeystone]
      · rw [keystone_onKeystone]
    · have hdrain : s.drainOwner k = s := drainOwner_away hg (by
        rw [State.resident, hw, Option.map_some, hplace]
        rfl)
      have he := (exec_pending rfl hdrain hpending).trans (congrArg _ (if_neg (show ¬ s.ksBlocked k = true by
        rw [hblocked, decide_eq_true_iff]
        exact Nat.not_le.mpr hroom)))
      rw [ksAfter_fired hfired, ksAction_holds hg hw hplace] at he
      refine ⟨_, _, he, rfl, wg?_onWg_same (fun _ => rfl) hw, rfl, ?_, ?_⟩
      · rw [keystone_onKeystone]
      · rw [keystone_onKeystone]

end

end Sys2Proof.Machine
end

section
/-!
PROOF. O31 fails: a NETLD caches the translation of its address before it asks other devices for what it reads, so that a
translation cached for one byte of the range alone decides differently before and after.
-/
namespace Sys2Proof.Machine
open Sys2Proof Sys2Proof.Machine.Tests

def farNetld : SA := { d := 0, a := 1, b := 0, fn := 0, l := 0 }

/-- A stage whose page table maps 2^30 to device 1, while a translation that faults is cached for the one address 2^30 + 31. -/
def farStage : State :=
  { stage lone with
    teams := [team0.put 1 0x40000000]
    mem := cellsWrite [] hostBase (leBytes 8 1 ++ leBytes 8 0x0010000000000047)
    tlb := [{ root := hostBase, page := 0x4000001F, size := 1, leaf := 0x0008000000000000, level := 2 }]
    devnum := some 0
    routes := [(1, 23, 0)] }

/-- The configuration word can be read, and the 32 bytes name no other device while the faulting translation is in the way. -/
theorem farStage_reads : farStage.uclear (.netld farNetld) = true ∧
    farStage.teamRead (farStage.sreg farNetld.a) 32 32 = .got (List.replicate 32 0) ∧
    (farStage.enginePieces farStage.curRoot (farStage.sreg farNetld.a).toNat 32 accNone).ranges = [] := by decide +kernel

/-- The NETLD takes a number of its own, and one for the packet that it sends to device 1. -/
theorem farStage_sends : (match exec (.netld farNetld) farStage with
    | .next t => t.nextNum == farStage.nextNum + 2
    | _ => false) = true := by decide +kernel

/-- Refutes O31: before the NETLD its 32 bytes name no place, since a translation that faults is cached for the last of them;
once it has cached the translation of its address they name device 1, and a packet is sent, whose number the statement does not
allow. -/
theorem not_teamConfiguration : ¬ Obligations.TeamConfiguration := by
  unfold Obligations.TeamConfiguration
  rintro ⟨hnetld, -⟩
  obtain ⟨hclear, hread, hnone⟩ := farStage_reads
  obtain ⟨t, ht, -, -, hsends, -⟩ := (hnetld farStage farNetld).1 _ hclear hread
  obtain ⟨-, hone⟩ := hsends (by rw [hnone]; rfl)
  have htwo := farStage_sends
  rw [ht] at htwo
  simp only [beq_iff_eq] at htwo
  omega

end Sys2Proof.Machine
end

section
/-!
PROOF. What a trap leaves of the word that issues; TASK and LOOM (R159, R236, R249, R406, R435): O32.
-/
namespace Sys2Proof.Machine
open Sys2Proof

/-! ### What issues stays the same through a trap -/

section
variable {s : State} {id : CtxId}

theorem cur_homeStore (s : State) (key : Nat) (bytes : List Byte) (poisoned : Bool) :
    (s.homeStore key bytes poisoned).cur = s.cur := by
  obtain ⟨u, ⟨v, hu⟩, hfires⟩ := homeStore_frame s key bytes poisoned
  rw [hfires, hu]

theorem cur_trace (s : State) (c : Ctx) (kind : Nat) (pc : Word) : (s.trace c kind pc).cur = s.cur := by
  unfold State.trace
  split
  · rfl
  · split
    · rfl
    · simp only
      split
      · rfl
      · split <;> simp only [cur_homeStore, State.onCore_cur]

theorem cur_squashFork (s : State) (f : Fork) : (s.squashFork f).cur = s.cur := by
  have hclose (t : State) : (t.closeFork f).cur = t.cur := rfl
  simp only [State.squashFork, hclose]
  split
  · exact cur_trace ..
  · rfl

theorem cur_exitThread (s : State) (id : CtxId) : (s.exitThread id).cur = s.cur :=
  foldl_inv (fun t => t.cur = s.cur) State.squashFork _ (fun t f ht => (cur_squashFork t f).trans ht) s rfl

theorem cur_takeTrap (s : State) (id : CtxId) (cause : Nat) (addr fpc : Word) (word : Code) :
    (s.takeTrap id cause addr fpc word).cur = s.cur := by
  unfold State.takeTrap
  split
  · rfl
  · split
    · rfl
    · split
      · exact cur_trace ..
      · exact cur_exitThread ..

theorem cur_settle (s : State) (id : CtxId) : (s.settle id).cur = s.cur := by
  unfold State.settle
  repeat' split
  all_goals first | rfl | exact cur_takeTrap ..

theorem cur_laneTrap (i : Instr) (s : State) (e : CtxId × Nat × Word) : (laneTrap i s e).cur = s.cur := by
  unfold laneTrap
  rw [raise_eq, cur_settle]
  split <;> rfl

theorem cur_teamTrap (i : Instr) (cause : Nat) (addr : Word) (s : State) : (teamTrap i cause addr s).cur = s.cur :=
  foldl_inv (fun t => t.cur = s.cur) _ _ (fun t id ht => (cur_laneTrap i t (id, cause, addr)).trans ht) s rfl

theorem uniform_trap {i : Instr} (h : s.uclear i = true) (cause : Nat) (addr : Word) :
    uniform i (.trap cause addr) s = teamTrap i cause addr s := by
  simp only [State.uclear, Bool.and_eq_true, Bool.not_eq_true'] at h
  obtain ⟨hword, hpoison⟩ := h
  simp only [uniform, hword, hpoison, Bool.false_eq_true, if_false]

end

/-! ### TASK -/

section
variable {s : State} {f : SA} {d : Desk} {r : List Byte} {q : QRec} {n : Nat}

theorem taskFetched_noted (s : State) (d : Desk) (addr : Nat) (r : List Byte) (t : State) : Noted t (s.taskFetched d addr r t) :=
  (teamFetched_noted ..).trans (teamFetched_noted ..)

theorem exec_task (hd : s.curDesk = some d) (hread : s.deskRead d (s.sreg f.a).toNat 64 64 = .got r) : exec (.task f) s = .next (
    match s.taskCheck d false true s.teamWrites r with
    | .bad c => s.taskFetched d (s.sreg f.a).toNat r (uniform (.task f) (c.teamDo f.d s) s)
    | .good q =>
      if s.queueFull d.core (taskQueue r) then s
      else s.taskFetched d (s.sreg f.a).toNat r
        (((uniform (.task f) (longPut f.d 0 0 s) s).enqueue d.core (taskQueue r) q).noteTeamLeaf (s.sreg f.a))) := by
  show execTask f s = _
  simp only [execTask, withRecord, hd, hread] <;> rfl

/-- A record that has entered its queue stands behind the others. -/
theorem enqueued_queueRecs {u v : State} (core queue : Nat) (q : QRec) (hv : v.cores = s.cores)
    (hu : u.cores = (v.enqueue core queue q).cores) :
    u.queueRecs core queue = s.queueRecs core queue ++ [v.entering core queue q] := by
  have hbefore : v.queueRecs core queue = s.queueRecs core queue := by simp only [State.queueRecs, State.core, hv]
  have hafter : u.queueRecs core queue = (v.enqueue core queue q).queueRecs core queue := by
    simp only [State.queueRecs, State.core, hu]
  rw [hafter, enqueue_queueRecs, hbefore]

/-- A TASK whose record passes its checks puts it behind the others of its queue, unless that is full. -/
theorem task_enters (hs : s.uclear (.task f) = true) (hd : s.curDesk = some d)
    (hread : s.deskRead d (s.sreg f.a).toNat 64 64 = .got r) (hchk : s.taskCheck d false true s.teamWrites r = .good q)
    (hroom : s.queueFull d.core (taskQueue r) = false) : TeamAnswers s (.task f) f.d 0 0 (fun t =>
      t.enqueued = s.enqueued + 1 ∧ t.mem = s.mem ∧ t.stores = s.stores ∧ ∃ x,
        t.queueRecs d.core (taskQueue r) = s.queueRecs d.core (taskQueue r) ++ [x] ∧
        x.rcd = q.rcd ∧ x.desc = q.desc ∧ x.owner = q.owner ∧ x.after = q.after) := by
  have he := exec_task hd hread
  simp only [hchk, hroom, Bool.false_eq_true, if_false] at he
  obtain ⟨teams, ctxs, hrun⟩ := uniform_frame (d := f.d) (x := 0) (warn := 0) hs
  obtain ⟨seen, links, num, tlb, hnoted⟩ := (noteTeamLeaf_noted _ (s.sreg f.a)).trans
    (taskFetched_noted s d (s.sreg f.a).toNat r (((uniform (.task f) (longPut f.d 0 0 s) s).enqueue d.core (taskQueue r) q).noteTeamLeaf
      (s.sreg f.a)))
  refine teamAnswers_of_exec hs he ?_ ?_ ⟨?_, ?_, ?_, _, enqueued_queueRecs (v := uniform (.task f) (longPut f.d 0 0 s) s)
      d.core (taskQueue r) q (by rw [hrun]) ?_, rfl, rfl, rfl, rfl⟩
  · rw [hnoted]
    rfl
  · rw [hnoted]
    rfl
  · rw [hnoted, hrun]
    rfl
  · rw [hnoted, hrun]
    rfl
  · rw [hnoted, hrun]
    rfl
  · rw [hnoted]

theorem task_refuses (hs : s.uclear (.task f) = true) (hd : s.curDesk = some d)
    (hread : s.deskRead d (s.sreg f.a).toNat 64 64 = .got r)
    (hchk : s.taskCheck d false true s.teamWrites r = .bad (.refuse n)) :
    TeamAnswers s (.task f) f.d (BitVec.ofNat 64 n) 0 (fun t => t.cores = s.cores ∧ t.mem = s.mem) := by
  have he := exec_task hd hread
  simp only [hchk, Chk.teamDo] at he
  obtain ⟨teams, ctxs, hrun⟩ := uniform_frame (d := f.d) (x := BitVec.ofNat 64 n) (warn := 0) hs
  obtain ⟨seen, links, num, tlb, hnoted⟩ := taskFetched_noted s d (s.sreg f.a).toNat r
    (uniform (.task f) (longPut f.d (BitVec.ofNat 64 n) 0 s) s)
  refine teamAnswers_of_exec hs he ?_ ?_ ⟨?_, ?_⟩
  · rw [hnoted]
  · rw [hnoted]
  · rw [hnoted, hrun]
  · rw [hnoted, hrun]

/-! ### LOOM -/

theorem loomHolding_holdLoom {t : State} {w : Workgroup} (hw : t.holdLoom.wg? t.cur.wg = some w) : w.loomHolding = true := by
  have hnum : w.num = t.cur.wg := by simpa using List.find?_some hw
  obtain ⟨v, -, rfl⟩ := List.mem_map.mp (List.mem_of_find?_eq_some hw)
  by_cases hv : v.num = t.cur.wg
  · rw [if_pos hv]
  · rw [if_neg hv] at hnum
    exact absurd hnum hv

theorem exec_loom (hd : s.curDesk = some d) : exec (.loom f) s = .next (
    match s.deskRead d (s.sreg f.a).toNat 64 64 with
    | .got r =>
      (match s.loomCheck d false true r with
        | .ok =>
          if s.queueFull d.core 4 then s
          else s.teamFetched (((uniform (.loom f) (longPut f.d 0 0 s) s).enqueue d.core 4
            (s.queueRec d false (plainRecord (s.sreg f.a).toNat kindLOOM 4) r s.teamWrites)).holdLoom.noteTeamLeaf (s.sreg f.a))
              (s.sreg f.a).toNat 64
        | c => s.teamFetched (uniform (.loom f) (c.teamDo f.d s) s).holdLoom (s.sreg f.a).toNat 64)
    | .trap cause a => (uniform (.loom f) (.trap cause a) s).holdLoom
    | .park a reason level => (uniform (.loom f) (.park accLoad a reason level) s).holdLoom) := by
  show execLoom f s = _
  rw [execLoom, hd] <;> rfl

/-- A LOOM that passes its checks puts a record of its bytes behind the others of the Loom's queue. -/
theorem loom_enters (hs : s.uclear (.loom f) = true) (hd : s.curDesk = some d)
    (hread : s.deskRead d (s.sreg f.a).toNat 64 64 = .got r) (hchk : s.loomCheck d false true r = .ok)
    (hroom : s.queueFull d.core 4 = false) : TeamAnswers s (.loom f) f.d 0 0 (fun t =>
      t.enqueued = s.enqueued + 1 ∧ t.mem = s.mem ∧ (∃ x, t.queueRecs d.core 4 = s.queueRecs d.core 4 ++ [x] ∧
        x.desc = r ∧ x.after = s.teamWrites ∧ taskKind x.rcd = 1) ∧
      ∀ w, t.wg? s.cur.wg = some w → w.loomHolding = true) := by
  have he := exec_loom (f := f) hd
  simp only [hread, hchk, hroom, Bool.false_eq_true, if_false] at he
  obtain ⟨teams, ctxs, hrun⟩ := uniform_frame (d := f.d) (x := 0) (warn := 0) hs
  let q := s.queueRec d false (plainRecord (s.sreg f.a).toNat kindLOOM 4) r s.teamWrites
  let u := (uniform (.loom f) (longPut f.d 0 0 s) s).enqueue d.core 4 q
  have hcur : u.cur = s.cur := by
    simp only [u]
    rw [hrun]
    rfl
  obtain ⟨seen, links, num, tlb, hnoted⟩ := (noteTeamLeaf_noted u.holdLoom (s.sreg f.a)).trans
    (teamFetched_noted s (u.holdLoom.noteTeamLeaf (s.sreg f.a)) (s.sreg f.a).toNat 64)
  refine teamAnswers_of_exec hs he ?_ ?_
    ⟨?_, ?_, ⟨_, enqueued_queueRecs (v := uniform (.loom f) (longPut f.d 0 0 s) s) d.core 4 q (by rw [hrun]) ?_,
      rfl, rfl, rfl⟩, fun w hw => ?_⟩
  · rw [hnoted]
    rfl
  · rw [hnoted]
    rfl
  · rw [hnoted]
    simp only [u]
    rw [hrun]
    rfl
  · rw [hnoted]
    simp only [u]
    rw [hrun]
    rfl
  · rw [hnoted]
    rfl
  · rw [hnoted, ← hcur] at hw
    exact loomHolding_holdLoom (t := u) hw

/-- A LOOM that a check refuses answers its status, and its workgroup holds the Loom all the same. -/
theorem loom_refuses (hs : s.uclear (.loom f) = true) (hd : s.curDesk = some d)
    (hread : s.deskRead d (s.sreg f.a).toNat 64 64 = .got r) (hchk : s.loomCheck d false true r = .refuse n) :
    TeamAnswers s (.loom f) f.d (BitVec.ofNat 64 n) 0 (fun t => t.cores = s.cores ∧ t.mem = s.mem ∧
      ∀ w, t.wg? s.cur.wg = some w → w.loomHolding = true) := by
  have he := exec_loom (f := f) hd
  simp only [hread, hchk, Chk.teamDo] at he
  obtain ⟨teams, ctxs, hrun⟩ := uniform_frame (d := f.d) (x := BitVec.ofNat 64 n) (warn := 0) hs
  let u := uniform (.loom f) (longPut f.d (BitVec.ofNat 64 n) 0 s) s
  have hcur : u.cur = s.cur := by
    simp only [u]
    rw [hrun]
  obtain ⟨seen, links, num, tlb, hnoted⟩ := teamFetched_noted s u.holdLoom (s.sreg f.a).toNat 64
  refine teamAnswers_of_exec hs he ?_ ?_ ⟨?_, ?_, fun w hw => ?_⟩
  · rw [hnoted]
    rfl
  · rw [hnoted]
    rfl
  · rw [hnoted]
    simp only [u]
    rw [hrun]
    rfl
  · rw [hnoted]
    simp only [u]
    rw [hrun]
    rfl
  · rw [hnoted, ← hcur] at hw
    exact loomHolding_holdLoom (t := u) hw

/-- Settles O32: TASK and LOOM by what their checks say, and by the room of their queues. -/
theorem queueCommands : Obligations.QueueCommands := by
  intro s f d r hd
  refine ⟨fun cause a hs hread => ?_, fun hread => ⟨fun q hs hchk => ⟨fun hfull => ?_, task_enters hs hd hread hchk⟩,
    fun n hs hchk => task_refuses hs hd hread hchk, fun hs hchk => ⟨fun hfull => ?_, loom_enters hs hd hread hchk⟩,
    fun n hs hchk => loom_refuses hs hd hread hchk⟩⟩
  · have htrap : exec (.loom f) s = .next (teamTrap (.loom f) cause a s).holdLoom := by
      rw [exec_loom hd, hread, ← uniform_trap hs]
    rw [htrap, State.holdLoom, cur_teamTrap]
    rfl
  · rw [exec_task hd hread, hchk]
    exact congrArg Host.Outcome.next (if_pos hfull)
  · have he := exec_loom (f := f) hd
    simp only [hread, hchk, hfull, if_true] at he
    exact he

end

end Sys2Proof.Machine
end

section
/-!
PROOF. O30 fails: the completion of an SLD settles each live thread of the team by its number, and a state may hold two
contexts of one number, the first of which is of another team and waits to trap.
-/
namespace Sys2Proof.Machine
open Sys2Proof Sys2Proof.Machine.Tests

/-- A context of thread 1 in team 1, whose failed access traps as soon as it is settled. -/
def trapping : Ctx :=
  { freshCtx 0 1 placedPc 0 0 with team := 1, inflight := [{ flight0 (.trap 1 0) with num := 3 }] }

/-- Another context of the same number, in the team whose SLD is outstanding. -/
def namesake : Ctx := freshCtx 0 1 placedPc 0 0

/-- The team's SLD is outstanding, and thread 1 stands twice among the contexts; the launch has no handler. -/
def doubledStage : State := { stage (loading []) with ctxs := [loading [], trapping, namesake] }

def sldAccess : Access := acc0 8 (.load false)

def sldFlight : Flight := { flight0 (.access sldAccess true) with sdst := [1], vdst := [] }

def sldViewer : Viewer := { wg := 0, tix := none, team := 0, core := 0, upto := 7 }

/-- Nothing holds the SLD back, and no live thread of its team waits to trap. -/
theorem doubledStage_completes : doubledStage.ctx? id0 = some (loading []) ∧ (loading []).flight? 7 = some sldFlight ∧
    doubledStage.recordless (loading []) = true ∧ isRemoteKey sldAccess.key = false ∧
    (doubledStage.stores.any (fun p => sldViewer.sees p && overlaps p.key p.op.size sldAccess.key sldAccess.size) ||
      (doubledStage.liveOfTeam 0 0).any (fun k => k.olderOver 7 sldAccess.key sldAccess.size)) = false ∧
    doubledStage.handleBars (some 0) sldAccess.key sldAccess.size = false ∧
    doubledStage.readPoison sldViewer sldAccess.key sldAccess.size = none ∧
    (∀ k ∈ doubledStage.liveOfTeam 0 0, k.quiet 7 = true) ∧ doubledStage.coreOf (loading []) = 0 := by decide +kernel

theorem doubledStage_home : doubledStage.curHome = some (placedLaunch, wg0) := by rfl

/-- The context of the other team takes its trap, and without a handler it exits. -/
theorem doubledStage_exits : (match exec (.loadComplete id0 7) doubledStage with
    | .next t => t.ctxs.any (fun c => c.status == .exited)
    | _ => false) = true := by decide +kernel

/-- Landing an instruction ends no thread, and no context of the stage has exited. -/
theorem doubledStage_lands_running :
    (doubledStage.ctxs.map (fun k => k.land 7)).any (fun c => c.status == .exited) = false := by decide +kernel

/-- Refutes O30: when the SLD completes, settling thread 1 finds the context of that number which stands first, of
another team, and that one takes the trap that it waits for; the statement has every context as it was but for the SLD's
own outstanding instruction. -/
theorem not_uniformAccesses : ¬ Obligations.UniformAccesses := by
  unfold Obligations.UniformAccesses
  intro h
  obtain ⟨hctx, hflight, hrecord, hnear, hwaits, hbarred, hpoison, hquiet, hcore⟩ := doubledStage_completes
  obtain ⟨-, -, -, -, hsld⟩ := h doubledStage { d := 1, a := 1, imm := 0 } placedLaunch wg0 doubledStage_home
  obtain ⟨-, hdone, -⟩ := hsld id0 7 (loading []) sldFlight sldAccess false ⟨hctx, hflight⟩ rfl rfl hrecord hnear
  rw [hcore] at hdone
  obtain ⟨t, ht, -, hctxs, -⟩ := hdone hwaits hbarred hpoison hquiet
  have hexits := doubledStage_exits
  rw [ht] at hexits
  simp only [hctxs, doubledStage_lands_running] at hexits
  contradiction

end Sys2Proof.Machine
end

section
/-!
PROOF. What an outstanding access does as it goes on: it fails and traps, it lands, or it asks another device; and which fault
records its completion frees.
-/
namespace Sys2Proof.Machine

section
variable {s : State} {c : Ctx} {f : Flight} {num : Nat}

/-! ### Fault records that a completion frees -/

/-- What a completion leaves of the records that wait for it. -/
theorem replayDone_eq (s : State) (core : Nat) (id : CtxId) (num : Nat) : s.replayDone core id num =
    if (s.core core).faultsOut.isEmpty then s
    else (((((s.onCore core (Core.unwaited id num)).core core).faultsOut.filter
      (fun e => e.2.resolved && e.2.who.isEmpty && !e.2.hod)).map Prod.fst).foldl (fun s i => s.freeFault core i)
        (s.onCore core (Core.unwaited id num))) := rfl

theorem replayDone_ctxs (s : State) (core : Nat) (id : CtxId) (num : Nat) : (s.replayDone core id num).ctxs = s.ctxs := by
  rw [replayDone_eq]
  split
  · rfl
  · exact foldl_inv (fun t : State => t.ctxs = s.ctxs) _ _ (fun t i h => (freeFault_ctxs t core i).trans h) _ rfl

/-- A record is among those that a completion leaves only in its place. -/
theorem mem_unwaited {core : Nat} {id : CtxId} {e : Nat × FaultReq}
    (h : e ∈ ((s.onCore core (Core.unwaited id num)).core core).faultsOut) :
    ∃ r, (e.1, r) ∈ (s.core core).faultsOut ∧
      e.2 = if r.resolved then { r with who := r.who.filter (fun w => w != (id, num)) } else r := by
  rw [core_onCore, if_pos rfl] at h
  obtain ⟨e', he', rfl⟩ := List.mem_map.mp h
  exact ⟨e'.2, he', rfl⟩

/-- A completion that frees no record changes at most who the records wait for. -/
theorem replayDone_freesNone (h : s.freesNone c num = true) :
    ∃ cores, s.replayDone (s.coreOf c) c.id num = { s with cores := cores } := by
  rw [replayDone_eq]
  split
  · exact ⟨s.cores, rfl⟩
  have hnone : ((s.onCore (s.coreOf c) (Core.unwaited c.id num)).core (s.coreOf c)).faultsOut.filter
      (fun e => e.2.resolved && e.2.who.isEmpty && !e.2.hod) = [] := by
    refine List.filter_eq_nil_iff.mpr fun e he => ?_
    obtain ⟨r, hr, hleft⟩ := mem_unwaited he
    have hkeeps := List.all_eq_true.mp h _ hr
    cases hres : r.resolved with
    | false => simp only [hleft, hres, Bool.false_eq_true, if_false, Bool.false_and, not_false_eq_true]
    | true =>
      simp only [hres, Bool.not_true, Bool.false_or, Bool.and_eq_true, Bool.not_eq_true',
        Bool.or_eq_true] at hkeeps
      obtain ⟨hother, hbusy⟩ := hkeeps
      have hwho : r.who.filter (fun w => w != (c.id, num)) = r.who := List.filter_eq_self.mpr fun w hw => by
        rw [bne_iff_ne]
        rintro rfl
        exact absurd (List.contains_iff_mem.mpr hw) (by rw [hother]; exact Bool.false_ne_true)
      simp only [hleft, hres, if_true, hwho]
      rcases hbusy with hbusy | hbusy <;> simp [hbusy]
  rw [hnone]
  exact ⟨_, rfl⟩

theorem freesNone_of_recordless (h : s.recordless c = true) : s.freesNone c num = true := by
  rw [State.freesNone, List.isEmpty_iff.mp h]
  rfl

/-- Freeing records writes their state bytes, and nothing else of memory. -/
theorem freeFaults_cells {core : Nat} {k : Nat} : ∀ {l : List Nat} {s : State}, s.memOk = true →
    (∀ i ∈ l, k ≠ faultKey core i + 0x14) →
    cellRead (l.foldl (fun s i => s.freeFault core i) s).mem k = cellRead s.mem k
  | [], _, _, _ => rfl
  | i :: l, s, hok, hk => by
    rw [List.foldl_cons, freeFaults_cells (memOk_freeFault hok) fun j hj => hk j (List.mem_cons_of_mem i hj)]
    refine (stored_homeStore s _ _ _ hok k).trans (if_neg ?_)
    have := hk i List.mem_cons_self
    simp only [List.length_singleton]
    omega

/-- A completion writes only the state bytes of records that were answered. -/
theorem replayDone_freesOnly (core : Nat) (id : CtxId) : FreesOnly s (s.replayDone core id num) core := by
  intro hok k hk
  rw [replayDone_eq]
  split
  · rfl
  refine freeFaults_cells (s := s.onCore core (Core.unwaited id num)) hok fun i hi => ?_
  obtain ⟨e, he, rfl⟩ := List.mem_map.mp hi
  obtain ⟨hmem, hfree⟩ := List.mem_filter.mp he
  obtain ⟨r, hr, hleft⟩ := mem_unwaited hmem
  refine hk (e.1, r) hr ?_
  cases hres : r.resolved with
  | true => rfl
  | false => simp [hleft, hres] at hfree

/-! ### A failed access -/

theorem unitAddr_eq {a : Access} {u : Nat} (h : a.key - u ≤ a.addr.toNat) : unitAddr a u = a.unitAt u := by
  apply BitVec.eq_of_toNat_eq
  have haddr := a.addr.isLt
  simp only [unitAddr, Access.unitAt, BitVec.toNat_ofNat, BitVec.toNat_add, BitVec.toNat_ofInt]
  split <;> omega

/-- An exposed thread's access fails: the thread is in its handler. -/
theorem fails_settle {h : Word} (hc : s.ctx? c.id = some c) (hx : c.exposed f = true) (hfree : s.freesNone c f.num = true)
    (hh : s.handles c h) (cause : Nat) (addr : Word) :
    Fails s (((s.failFlight c.id f.num cause addr).replayDone (s.coreOf c) c.id f.num).settle c.id) c f h cause addr := by
  simp only [Ctx.exposed, Bool.and_eq_true, beq_iff_eq, Bool.not_eq_true', decide_eq_true_eq] at hx
  obtain ⟨⟨⟨⟨hi, hrun⟩, hout⟩, hlvl⟩, hdue⟩ := hx
  let d : Ctx := { c with inflight := [{ f with what := .trap cause addr }] }
  have hfree' : (s.failFlight c.id f.num cause addr).freesNone c f.num = true := hfree
  obtain ⟨cores, hdone⟩ := replayDone_freesNone hfree'
  have hdone' : (s.failFlight c.id f.num cause addr).replayDone (s.coreOf c) c.id f.num =
      { s.failFlight c.id f.num cause addr with cores := cores } := hdone
  have hd : ({ s.failFlight c.id f.num cause addr with cores := cores } : State).ctx? c.id = some d := by
    refine (ctx?_onCtx (s := s) (g := Ctx.onFlights (Flight.toKind f.num (.trap cause addr))) (fun _ => rfl) c.id).trans ?_
    rw [if_pos rfl, hc, Option.map_some, Ctx.onFlights, hi]
    simp only [List.map_cons, List.map_nil, Flight.toKind, if_true, d]
  rw [hdone', settle_takes hd rfl hrun hlvl hdue rfl, takeTrap_enters hd hout hh]
  have hx (other : CtxId) := ctx?_onCtx (id := c.id) (g := fun c => c.enter h cause addr f.pc f.word)
    (s := ({ s.failFlight c.id f.num cause addr with cores := cores } : State).dropParked (fun e => e == c.id)) (fun _ => rfl) other
  refine ⟨(hx c.id).trans ?_, fun other ho => (hx other).trans ?_, rfl, rfl⟩
  · rw [if_pos rfl]
    exact congrArg (Option.map _) hd
  · rw [if_neg ho]
    exact (setKind_onlyCtx s c.id f.num (.trap cause addr)) other ho

/-! ### An access that lands -/

/-- A context's instruction lands with new registers in a state whose contexts are those of another, and its records are
freed. -/
theorem landed_settles {u : State} {g : Regs → Regs} (hctxs : u.ctxs = s.ctxs) (hc : s.ctx? c.id = some c)
    (hquiet : c.quiet num = true) (core : Nat) :
    let t := (u.onCtx c.id (Ctx.landedWith num g)).replayDone core c.id num
    t.settle c.id = t ∧ Landed s t c.id num (g c.regs) := by
  have hx (other : CtxId) : ((u.onCtx c.id (Ctx.landedWith num g)).replayDone core c.id num).ctx? other =
      if other = c.id then (s.ctx? c.id).map (Ctx.landedWith num g) else s.ctx? other := by
    rw [State.ctx?, replayDone_ctxs]
    refine (ctx?_onCtx (landedWith_id num g) other).trans ?_
    simp only [State.ctx?, hctxs]
  have hland := hx c.id
  rw [if_pos rfl, hc, Option.map_some] at hland
  exact ⟨settle_landed hquiet hland, ⟨c, hc, hland⟩, fun other ho => by rw [hx, if_neg ho]⟩

/-! ### An access that asks another device -/

theorem onFlights_onlyCtx (s : State) (id : CtxId) (g : Flight → Flight) : OnlyCtx s (s.onCtx id (Ctx.onFlights g)) id :=
  fun other ho => (ctx?_onCtx (g := Ctx.onFlights g) (fun _ => rfl) other).trans (if_neg ho)

/-- The packet of an access goes out on its route, and the access remembers it. -/
theorem ask_sends {a : Access} {acc link comm : Nat} {op : SpanOp} (hfar : isRemoteKey a.key = true) (hdev : s.devnum.isSome)
    (hroute : Table.find s.routes (remoteDev a.key) = some (link, comm)) : s.ask c f a false acc op =
      ({ s with linkOut := s.linkOut ++ [packetTo s a.key s.nextNum op link comm], nextNum := s.nextNum + 1 } : State).onCtx
        c.id (Ctx.onFlights (Flight.onAccess f.num (fun a => { a with asked := some s.nextNum }))) := by
  have hreach : s.reaches (remoteDev a.key) = true := by rw [State.reaches, hdev, hroute]; rfl
  have hspan : s.spanOut a.key s.nextNum op = { s with linkOut := s.linkOut ++ [packetTo s a.key s.nextNum op link comm] } := by
    simp only [State.spanOut, hfar, hdev, Bool.and_self, if_true, hroute]
    rfl
  simp only [State.ask, hreach, if_true, hspan]
  rfl

end

end Sys2Proof.Machine
end

section
/-!
PROOF. Atomics: their issue, and what their home makes of the word; the whole of O14.
-/
namespace Sys2Proof.Machine

/-! ### The issue of a word whose accesses pass their checks -/

/-- A clear word that raises no trap of its own acts for its actors, and its course moves on. -/
theorem lane_clear {s : State} {i : Instr} {d : LaneDo} (hs : s.clear i = true) (hw : ∀ c, d.word c = true)
    (hf : ∀ c, d.fault c = none) : acting s i d = s.actors i ∧
      lane i d s = { s with
        ctxs := s.ctxs.map (fun c => if s.cur.course.contains c.id then laneCtx s i d c else c)
        nextNum := s.nextNum + 1 } :=
  ⟨acting_eq_actors (laneFault_none hs hw hf), lane_of_no_fault (laneFault_none hs hw hf)⟩

/-- An atomic whose accesses pass their checks is outstanding for each acting thread. -/
theorem atomic_issues {s : State} {i : Instr} {f : LXA} {n code : Nat} (he : exec i s = execAtomic i f n code s)
    (hs : s.clear i = true) (hp : s.passes i (s.lxaCheck f n) = true) : CompletesWith s i
      (fun c => Issues s i (s.recorded i c) (accessOf (s.lxaCheck f n c) n
        (.atomic code (BitVec.ofNat 64 ((c.regs.get f.b).toNat % 2 ^ (8 * n)))
          (BitVec.ofNat 64 ((c.regs.get f.d).toNat % 2 ^ (8 * n))))) c)
      (fun t => t = { s with ctxs := t.ctxs, nextNum := s.nextNum + 1, tlb := t.tlb }) := by
  obtain ⟨hact, hlane⟩ := lane_clear (d := atomDo s f n code) hs (fun _ => rfl) (fun _ => rfl)
  obtain ⟨tlb, hnote⟩ := noteAll_frame (lane i (atomDo s f n code) s) (s.actors i) (s.lxaCheck f n)
  refine ⟨{ lane i (atomDo s f n code) s with tlb := tlb }, ?_, ?_, ?_⟩
  · simp only [he, execAtomic, hact, no_fault_reqs hp, hnote, postFaults_nil]
  · rw [hlane]
    refine ctxs_step fun c hc ha => ?_
    rw [← accessOf_eq hp hc ha]
    rfl
  · rw [hlane]

/-! ### At its home -/

section
variable {s : State} {id : CtxId} {num : Nat} {c : Ctx} {f : Flight} {a : Access} {code : Nat} {y e : Word}

/-- ATOMIC_PERFORM of an outstanding atomic: it waits, asks another device, or is performed. -/
theorem exec_atomicPerform (h : s.has id num c f) (hwhat : f.what = .access a false) (hop : a.op = .atomic code y e) :
    exec (.atomicPerform id num) s = .next (
      if s.homeReadWaits c num a.key a.size then s
      else if a.unsent then s.ask c f a false accAtomic (.atomic code a.size y e)
      else s.performAtomic c f a code y e) := by
  obtain ⟨hc, hf⟩ := h
  show execAtomicPerform id num s = _
  simp only [execAtomicPerform, hc, hf, hwhat, hop]

/-- The state of an atomic's home once the word is replaced. -/
def State.replaced (s : State) (c : Ctx) (num : Nat) (a : Access) (new : Nat × Bool) : State :=
  let t := (((s.noteRead c.id num (s.viewer c num) false a.key a.size).homeStore a.key (leBytes a.size new.1) false).markBy
    c.id num a.key a.size).dropL1 (s.coreOf c) a.key a.size
  if new.2 then t.hitForks c.id a.key a.size else t

theorem markBy_frame (s : State) (author : CtxId) (num key n : Nat) :
    ∃ marks, s.markBy author num key n = { s with marks := marks } := by
  unfold State.markBy
  split
  · exact ⟨_, rfl⟩
  · exact ⟨s.marks, rfl⟩

theorem hitForks_frame (s : State) (id : CtxId) (key n : Nat) : ∃ forks, s.hitForks id key n = { s with forks := forks } := by
  unfold State.hitForks
  split
  · exact ⟨s.forks, rfl⟩
  · exact ⟨_, rfl⟩

theorem replaced_frame (s : State) (c : Ctx) (num : Nat) (a : Access) (new : Nat × Bool) :
    ∃ seen marks cores forks, s.replaced c num a new =
      { ({ s with seen := seen } : State).homeStore a.key (leBytes a.size new.1) false with
        marks := marks, cores := cores, forks := forks } := by
  have hread := noteRead_frame s c.id num (s.viewer c num) false a.key a.size
  generalize (s.noteRead c.id num (s.viewer c num) false a.key a.size).seen = seen at hread
  let v := ({ s with seen := seen } : State).homeStore a.key (leBytes a.size new.1) false
  obtain ⟨marks, hmarks⟩ := markBy_frame v c.id num a.key a.size
  obtain ⟨cores, hcores⟩ := dropL1_frame { v with marks := marks } (s.coreOf c) a.key a.size
  simp only [State.replaced, hread, v] at hmarks hcores ⊢
  rw [hmarks, hcores]
  split
  · obtain ⟨forks, hforks⟩ := hitForks_frame { v with marks := marks, cores := cores } c.id a.key a.size
    exact ⟨seen, marks, cores, forks, hforks⟩
  · exact ⟨seen, marks, cores, _, rfl⟩

theorem replaced_faultsOut (s : State) (c : Ctx) (num : Nat) (a : Access) (new : Nat × Bool) (k : Nat) :
    ((s.replaced c num a new).core k).faultsOut = (s.core k).faultsOut := by
  have hread := noteRead_frame s c.id num (s.viewer c num) false a.key a.size
  generalize (s.noteRead c.id num (s.viewer c num) false a.key a.size).seen = seen at hread
  let v := ({ s with seen := seen } : State).homeStore a.key (leBytes a.size new.1) false
  obtain ⟨marks, hmarks⟩ := markBy_frame v c.id num a.key a.size
  have hdrop : ((({ v with marks := marks } : State).dropL1 (s.coreOf c) a.key a.size).core k).faultsOut =
      (s.core k).faultsOut :=
    faultsOut_onCore_l1.trans ((steady_homeStore { s with seen := seen } a.key (leBytes a.size new.1) false).faultsOut k)
  simp only [State.replaced, hread, v] at hmarks hdrop ⊢
  rw [hmarks]
  split
  · obtain ⟨forks, hforks⟩ := hitForks_frame
      (({ v with marks := marks } : State).dropL1 (s.coreOf c) a.key a.size) c.id a.key a.size
    rw [hforks]
    exact hdrop
  · exact hdrop

/-- At its home an atomic replaces the word; threads, teams and the dispatcher's clock are as they were. -/
theorem replaced_frames (s : State) (c : Ctx) (num : Nat) (a : Access) (new : Nat × Bool) :
    let u := s.replaced c num a new
    u.ctxs = s.ctxs ∧ u.teams = s.teams ∧ u.dcycle = s.dcycle ∧ Stored s u a.key (leBytes a.size new.1) := by
  obtain ⟨seen, marks, cores, forks, hu⟩ := replaced_frame s c num a new
  simp only [hu]
  obtain ⟨w, ⟨_, hw⟩, hfires⟩ := homeStore_frame ({ s with seen := seen } : State) a.key (leBytes a.size new.1) false
  refine ⟨homeStore_ctxs _ _ _ _, homeStore_teams _ _ _ _, ?_, stored_homeStore { s with seen := seen } _ _ _⟩
  rw [hfires, hw]

/-- What stands against an atomic at its home: a held object, a buffer of another workgroup, or poison. -/
def State.atomicFault (s : State) (wg : Nat) (a : Access) : Option (Nat × Word) :=
  if s.touchesHeld a.key a.size then some (causeSLAB, a.addr)
  else if s.handleBars (some wg) a.key a.size then some (causeHANDLE, a.addr)
  else (firstPoison s.poison a.key a.size).map (fun u => (causeMEMERR, unitAddr a u))

theorem atomicFault_owned {wg : Nat} (hheld : s.touchesHeld a.key a.size = false)
    (hbars : s.handleBars (some wg) a.key a.size = true) : s.atomicFault wg a = some (causeHANDLE, a.addr) := by
  simp only [State.atomicFault, hheld, hbars, Bool.false_eq_true, if_false, if_true]

theorem atomicFault_free {wg : Nat} (hheld : s.touchesHeld a.key a.size = false)
    (hbars : s.handleBars (some wg) a.key a.size = false) : s.atomicFault wg a =
      (firstPoison s.poison a.key a.size).map (fun u => (causeMEMERR, unitAddr a u)) := by
  simp only [State.atomicFault, hheld, hbars, Bool.false_eq_true, if_false]

theorem performAtomic_eq (s : State) (c : Ctx) (f : Flight) (a : Access) (code : Nat) (y e : Word) :
    s.performAtomic c f a code y e = (match s.atomicFault c.id.wg a with
      | some x => ((s.failFlight c.id f.num x.1 x.2).replayDone (s.coreOf c) c.id f.num).settle c.id
      | none => (((s.replaced c f.num a (atomicNew code a.size (s.memNat a.key a.size) y e)).onCtx c.id
          (Ctx.landedWith f.num (fun r => f.vdst.foldl (fun g d => g.put d (BitVec.ofNat 64 (s.memNat a.key a.size))) r))).replayDone
            (s.coreOf c) c.id f.num).settle c.id) := rfl

/-- An atomic that nothing stands against lands: its word is replaced, and its destination has the old one. -/
theorem performAtomic_lands (hc : s.ctx? c.id = some c) (hr : s.recordless c = true) (hquiet : c.quiet f.num = true)
    (hfault : s.atomicFault c.id.wg a = none) :
    let t := s.performAtomic c f a code y e
    Stored s t a.key (leBytes a.size (atomicFn code a.size (s.memNat a.key a.size) y.toNat e.toNat)) ∧
      Landed s t c.id f.num (f.vdst.foldl (fun r d => r.put d (BitVec.ofNat 64 (s.memNat a.key a.size))) c.regs) ∧
      t.teams = s.teams ∧ t.dcycle = s.dcycle := by
  let new := atomicNew code a.size (s.memNat a.key a.size) y e
  obtain ⟨hctxs, hteams, hcycle, hstored⟩ := replaced_frames s c f.num a new
  let g (r : Regs) : Regs := f.vdst.foldl (fun g d => g.put d (BitVec.ofNat 64 (s.memNat a.key a.size))) r
  obtain ⟨hsettle, hlanded⟩ := landed_settles (num := f.num) (g := g) hctxs hc hquiet (s.coreOf c)
  have hnone : (((s.replaced c f.num a new).onCtx c.id (Ctx.landedWith f.num g)).core (s.coreOf c)).faultsOut.isEmpty = true :=
    (congrArg List.isEmpty (replaced_faultsOut s c f.num a new (s.coreOf c))).trans hr
  rw [replayDone_none hnone] at hsettle hlanded
  have ht : s.performAtomic c f a code y e = (s.replaced c f.num a new).onCtx c.id (Ctx.landedWith f.num g) := by
    rw [performAtomic_eq, hfault]
    exact (congrArg (fun u => State.settle u c.id) (replayDone_none hnone)).trans hsettle
  rw [ht]
  exact ⟨hstored, hlanded, hteams, hcycle⟩

theorem performAtomic_fails {h : Word} {x : Nat × Word} (hc : s.ctx? c.id = some c) (hr : s.recordless c = true)
    (hx : c.exposed f = true) (hh : s.handles c h) (hfault : s.atomicFault c.id.wg a = some x) :
    Fails s (s.performAtomic c f a code y e) c f h x.1 x.2 := by
  rw [performAtomic_eq, hfault]
  exact fails_settle hc hx (freesNone_of_recordless hr) hh x.1 x.2

end

/-- Settles O14: an atomic's issue leaves it outstanding, and at its home it waits, asks another device, fails, or replaces the
word, with the function of its code. -/
theorem atomics : Obligations.Atomics := by
  refine ⟨fun s f => ⟨atomic_issues rfl, atomic_issues rfl, fun h0 => atomic_issues ?_, fun h1 => atomic_issues ?_⟩, ?_⟩
  · show execAtomic (.acas f) f (if f.op = 0 then 4 else 8) 8 s = _
    rw [if_pos h0]
  · show execAtomic (.acas f) f (if f.op = 0 then 4 else 8) 8 s = _
    rw [if_neg (by rw [h1]; decide)]
  intro s id num c f a code y e hhas hwhat hop hr _ _ hcode w old new waits far owned
  have hexec := exec_atomicPerform hhas hwhat hop
  obtain ⟨hc, hf⟩ := hhas
  obtain rfl : c.id = id := (State.ctx?_mem hc).2
  obtain rfl : f.num = num := by simpa using List.find?_some hf
  have hnew : atomicFn code a.size old y.toNat e.toNat = new := by
    simp only [new]
    interval_cases code <;> rfl
  rw [show s.homeReadWaits c f.num a.key a.size = waits from rfl, show a.unsent = far from rfl] at hexec
  have hperforms (hw : waits = false) (hfar : far = false) :
      exec (.atomicPerform c.id f.num) s = .next (s.performAtomic c f a code y e) := by
    simp only [hexec, hw, hfar, Bool.false_eq_true, if_false]
  refine ⟨fun hw => ?_, fun hw hfar hdev link comm hroute => ?_, fun hw hfar h hx hh => ?_, ?_⟩
  · exact hexec.trans (congrArg _ (if_pos hw))
  · have hkey : isRemoteKey a.key = true := (Bool.and_eq_true_iff.mp hfar).1
    refine ⟨s.ask c f a false accAtomic (.atomic code a.size y e), ?_, ?_⟩
    · simp only [hexec, hw, hfar, Bool.false_eq_true, if_false, if_true]
    · rw [ask_sends hkey hdev hroute]
      exact ⟨rfl, fun other ho => onFlights_onlyCtx _ c.id _ other ho, rfl⟩
  · refine ⟨fun hheld => ⟨_, hperforms hw hfar, ?_⟩, fun hheld hbars => ⟨_, hperforms hw hfar, ?_⟩,
      fun u hheld hbars hpoison hlow => ⟨_, hperforms hw hfar, ?_⟩⟩
    · exact performAtomic_fails hc hr hx hh (x := (causeSLAB, a.addr)) (by rw [State.atomicFault, if_pos hheld])
    · exact performAtomic_fails hc hr hx hh (x := (causeHANDLE, a.addr)) (atomicFault_owned hheld hbars)
    · refine performAtomic_fails hc hr hx hh (x := (causeMEMERR, a.unitAt u)) ?_
      rw [atomicFault_free hheld hbars, hpoison, Option.map_some, unitAddr_eq hlow]
  · intro hw hfar hheld hbars hpoison hquiet
    have hfault : s.atomicFault c.id.wg a = none := by rw [atomicFault_free hheld hbars, hpoison, Option.map_none]
    rw [← hnew]
    exact ⟨_, hperforms hw hfar, performAtomic_lands hc hr hquiet hfault⟩

end Sys2Proof.Machine
end

section
/-!
PROOF. Loads: their issue, and what they make of the bytes that the thread sees; the whole of O12.
-/
namespace Sys2Proof.Machine

/-! ### The issue -/

/-- A workgroup after loads of the accumulator space by some threads (R249). -/
def Workgroup.loomed (l : List Ctx) (w : Workgroup) : Workgroup :=
  if l.any (fun c => c.id.wg == w.num) then { w with loomHolding := true } else w

theorem loomed_num (l : List Ctx) (w : Workgroup) : (w.loomed l).num = w.num := by
  unfold Workgroup.loomed
  split <;> rfl

theorem loomed_cons (c : Ctx) (l : List Ctx) (w : Workgroup) : (w.loomed [c]).loomed l = w.loomed (c :: l) := by
  unfold Workgroup.loomed
  by_cases hc : c.id.wg = w.num <;> by_cases hl : l.any (fun c => c.id.wg == w.num) = true <;> simp_all

theorem onWg_loomed (s : State) (c : Ctx) : s.onWg c.id.wg (fun w => { w with loomHolding := true }) =
    { s with wgs := s.wgs.map (Workgroup.loomed [c]) } := by
  have h : (fun w : Workgroup => if w.num = c.id.wg then { w with loomHolding := true } else w) = Workgroup.loomed [c] := by
    funext w
    simp only [Workgroup.loomed, List.any_cons, List.any_nil, Bool.or_false, beq_iff_eq, @eq_comm _ c.id.wg]
  rw [State.onWg, h]

/-- Loads of the accumulator space make their threads' workgroups Loom-holding. -/
theorem loomed_holding {l : List Ctx} {c : Ctx} {w : Workgroup} (hc : c ∈ l) (hw : c.id.wg = w.num) :
    (w.loomed l).loomHolding = true := by
  have hany : l.any (fun c => c.id.wg == w.num) = true := List.any_eq_true.mpr ⟨c, hc, beq_iff_eq.mpr hw⟩
  rw [Workgroup.loomed, if_pos hany]

/-- The workgroups after the loads of some threads. -/
def loomedBy (f : LM) (l : List Ctx) (wgs : List Workgroup) : List Workgroup :=
  if f.sp = 3 then wgs.map (Workgroup.loomed l) else wgs

theorem loomedBy_holding {f : LM} {l : List Ctx} {c : Ctx} {wgs : List Workgroup} {w : Workgroup} (hsp : f.sp = 3) (hc : c ∈ l)
    (hw : (loomedBy f l wgs).find? (fun w => w.num == c.id.wg) = some w) : w.loomHolding = true := by
  rw [loomedBy, if_pos hsp] at hw
  obtain ⟨v, -, rfl⟩ := List.mem_map.mp (List.mem_of_find?_eq_some hw)
  have hnum := List.find?_some hw
  rw [beq_iff_eq, loomed_num] at hnum
  exact loomed_holding hc hnum.symm

/-- The lines of a continuation's load are tracked (R205). -/
def trackedLoad (f : LM) (v : Verdict) (s : State) (c : Ctx) : State :=
  match v with
  | .key k => if c.id.lvl = 0 then s else s.trackLines c.id k (lmSize f)
  | _ => s

theorem trackedLoad_frame (f : LM) (v : Verdict) (s : State) (c : Ctx) :
    ∃ forks, trackedLoad f v s c = { s with forks := forks } ∧ (c.id.lvl = 0 → forks = s.forks) := by
  cases v with
  | key k =>
    by_cases hl : c.id.lvl = 0
    · exact ⟨s.forks, if_pos hl, fun _ => rfl⟩
    · exact ⟨_, if_neg hl, fun h => absurd h hl⟩
  | trap cause => exact ⟨s.forks, rfl, fun _ => rfl⟩
  | fault reason level => exact ⟨s.forks, rfl, fun _ => rfl⟩

theorem noteLoad_eq (f : LM) (v : Word × Verdict) (s : State) (c : Ctx) : noteLoad f v s c =
    if f.sp = 3 then (trackedLoad f v.2 (s.noteVerdict c v) c).onWg c.id.wg (fun w => { w with loomHolding := true })
    else trackedLoad f v.2 (s.noteVerdict c v) c := rfl

theorem noteLoad_frame (f : LM) (v : Word × Verdict) (s : State) (c : Ctx) :
    ∃ tlb forks, noteLoad f v s c = { s with tlb := tlb, forks := forks, wgs := loomedBy f [c] s.wgs } ∧
      (c.id.lvl = 0 → forks = s.forks) := by
  obtain ⟨tlb, hnote⟩ := noteVerdict_frame s c v
  obtain ⟨forks, hforks, hsame⟩ := trackedLoad_frame f v.2 { s with tlb := tlb } c
  refine ⟨tlb, forks, ?_, hsame⟩
  rw [noteLoad_eq, hnote, hforks, loomedBy]
  split
  · exact onWg_loomed _ c
  · rfl

/-- What the loads of a course leave besides their threads. -/
theorem noteLoads_frame (f : LM) (check : Ctx → Word × Verdict) : ∀ (l : List Ctx) (s : State),
    ∃ tlb forks, l.foldl (fun t c => noteLoad f (check c) t c) s =
      { s with tlb := tlb, forks := forks, wgs := loomedBy f l s.wgs } ∧ ((∀ c ∈ l, c.id.lvl = 0) → forks = s.forks)
  | [], s => ⟨s.tlb, s.forks, by
      have : loomedBy f [] s.wgs = s.wgs := by
        unfold loomedBy
        split
        · exact List.map_id'' (fun _ => rfl) _
        · rfl
      rw [this]; rfl, fun _ => rfl⟩
  | c :: l, s => by
    obtain ⟨tlb, forks, hnote, hsame⟩ := noteLoad_frame f (check c) s c
    obtain ⟨tlb', forks', hrest, hsame'⟩ := noteLoads_frame f check l (noteLoad f (check c) s c)
    refine ⟨tlb', forks', ?_, fun h => ?_⟩
    · rw [List.foldl_cons, hrest, hnote]
      have : loomedBy f l (loomedBy f [c] s.wgs) = loomedBy f (c :: l) s.wgs := by
        unfold loomedBy
        split
        · rw [List.map_map]
          exact List.map_congr_left fun w _ => loomed_cons c l w
        · rfl
      rw [this]
    · rw [hsame' fun d hd => h d (List.mem_cons_of_mem c hd), hnote]
      exact hsame (h c List.mem_cons_self)

theorem postFaults_frame (s : State) (core : Nat) (l : List FaultReq) :
    ∃ cores, s.postFaults core l = { s with cores := cores } := by
  unfold State.postFaults
  simp only
  split
  · exact ⟨s.cores, rfl⟩
  · exact ⟨_, rfl⟩

/-- The state that an LD leaves. -/
theorem exec_ld {s : State} {f : LM} (hs : s.clear (.ld f) = true) :
    let check (c : Ctx) : Word × Verdict := s.lmCheck (s.pfx (.ld f)) f accLoad c
    ∃ tlb forks cores,
      exec (.ld f) s = .next { lane (.ld f) (ldDo s f) s with
        tlb := tlb, forks := forks, cores := cores, wgs := loomedBy f (s.actors (.ld f)) s.wgs } ∧
      ((∀ c ∈ s.actors (.ld f), c.id.lvl = 0) → forks = s.forks) ∧
      (s.passes (.ld f) check = true → cores = s.cores) := by
  intro check
  obtain ⟨hact, hlane⟩ := lane_clear (d := ldDo s f) hs (fun _ => rfl) (fun _ => rfl)
  obtain ⟨tlb, forks, hnote, hforks⟩ := noteLoads_frame f check (s.actors (.ld f)) (lane (.ld f) (ldDo s f) s)
  obtain ⟨cores, hpost⟩ := postFaults_frame ((s.actors (.ld f)).foldl (fun t c => noteLoad f (check c) t c)
    (lane (.ld f) (ldDo s f) s)) s.cur.core (groupFaults ((s.actors (.ld f)).filterMap
      (fun c => s.laneFaultReq c s.nextNum accLoad (check c))) [])
  refine ⟨tlb, forks, cores, ?_, fun h => ?_, fun h => ?_⟩
  · show execLd f s = _
    simp only [execLd, hact]
    rw [hpost, hnote, hlane]
  · rw [hforks h, hlane]
  · rw [no_fault_reqs h, postFaults_nil, hnote, hlane] at hpost
    exact (congrArg State.cores hpost).symm

/-! ### The completion -/

section
variable {s : State} {id : CtxId} {num : Nat} {c : Ctx} {f : Flight} {a : Access} {sx : Bool}

theorem exec_loadComplete (h : s.has id num c f) (hwhat : f.what = .access a false) (hop : a.op = .load sx) :
    exec (.loadComplete id num) s = .next (s.completeLoad c f a sx) := by
  obtain ⟨hc, hf⟩ := h
  show execLoadComplete id num s = _
  simp only [execLoadComplete, hc, hf, hwhat, hop, Bool.false_eq_true, if_false]

/-- A load that reads a byte from the home of another device has not asked that device yet. -/
def State.loadAsks (s : State) (c : Ctx) (num : Nat) (a : Access) : Bool :=
  a.unsent && (List.range a.rest.2).any (fun i => s.fromHome (s.viewer c num) (a.rest.1 + i))

/-- The state in which a load has read the rest of its range and landed. -/
def State.loadLanded (s : State) (c : Ctx) (f : Flight) (a : Access) (sx : Bool) : State :=
  let u := s.lineRead c f.num a.rest.1 a.rest.2
  u.onCtx c.id (Ctx.landedWith f.num (loadRegs f sx a.size (a.joined (u.ctxBytes c f.num a.rest.1 a.rest.2))))

theorem loadLanded_frame (s : State) (c : Ctx) (f : Flight) (a : Access) (sx : Bool) :
    ∃ ctxs cores seen, s.loadLanded c f a sx = { s with ctxs := ctxs, cores := cores, seen := seen } := by
  obtain ⟨cores, seen, hread⟩ := lineRead_frame s c f.num a.rest.1 a.rest.2
  refine ⟨(s.loadLanded c f a sx).ctxs, cores, seen, ?_⟩
  rw [State.loadLanded, hread]
  rfl

theorem loadLanded_faultsOut (s : State) (c : Ctx) (f : Flight) (a : Access) (sx : Bool) (k : Nat) :
    ((s.loadLanded c f a sx).core k).faultsOut = (s.core k).faultsOut := lineRead_faultsOut s c f.num a.rest.1 a.rest.2 k

theorem loadLanded_coreOf (s : State) (c : Ctx) (f : Flight) (a : Access) (sx : Bool) :
    (s.loadLanded c f a sx).coreOf c = s.coreOf c := by
  obtain ⟨ctxs, cores, seen, h⟩ := loadLanded_frame s c f a sx
  rw [h]
  rfl

/-- LOAD_COMPLETE: the load waits, asks another device, fails, or lands. -/
theorem completeLoad_eq (s : State) (c : Ctx) (f : Flight) (a : Access) (sx : Bool) : s.completeLoad c f a sx =
    if c.olderOver f.num a.rest.1 a.rest.2 then s
    else if s.loadAsks c f.num a then s.ask c f a false accLoad (.load a.size)
    else match s.readFault c.id.wg a a.rest (s.ctxPoison c f.num a.rest.1 a.rest.2) with
      | some e =>
        if c.id.lvl ≠ 0 then s
        else ((s.failFlight c.id f.num e.1 e.2).replayDone (s.coreOf c) c.id f.num).settle c.id
      | none => ((s.loadLanded c f a sx).replayDone (s.coreOf c) c.id f.num).settle c.id := by
  have h := congrArg (fun core => State.settle (State.replayDone (s.loadLanded c f a sx) core c.id f.num) c.id)
    (loadLanded_coreOf s c f a sx)
  rw [← h]
  rfl

theorem fillL1_seen (s : State) (core key : Nat) (seen : List Seen) :
    ({ s with seen := seen } : State).fillL1 core key = { s.fillL1 core key with seen := seen } := by
  have hbars : ({ s with seen := seen } : State).fillBars core (key / 64 * 64) = s.fillBars core (key / 64 * 64) := rfl
  simp only [State.fillL1, hbars]
  cases l1Cacheable core key && !s.fillBars core (key / 64 * 64) <;> rfl

theorem viewBytes_seen (s : State) (seen : List Seen) (r : Viewer) (l1 : Bool) : ∀ key n,
    ({ s with seen := seen } : State).viewBytes r l1 key n = s.viewBytes r l1 key n
  | _, 0 => rfl
  | key, n + 1 => by
    rw [State.viewBytes, State.viewBytes, viewBytes_seen s seen r l1 (key + 1) n]
    rfl

/-- A line that enters L1 is all that a load's reading changes of what the thread sees. -/
theorem lineRead_bytes (s : State) (c : Ctx) (num key n : Nat) :
    (s.lineRead c num key n).ctxBytes c num key n = (s.fillL1 (s.coreOf c) key).ctxBytes c num key n := by
  rw [State.lineRead, noteRead_frame, fillL1_seen]
  simp only [State.ctxBytes, viewBytes_seen]
  rfl

/-- What a load that lands makes of its thread's registers, by its destinations. -/
theorem loadRegs_one {d : Reg} (hd : f.vdst = [d]) (n : Nat) (bytes : List Byte) (r : Regs) : loadRegs f sx n bytes r =
    r.put d (if sx = true ∧ n ≤ 4 then BitVec.ofInt 64 (signedOf (8 * n) (leNat bytes % 2 ^ (8 * n)))
      else BitVec.ofNat 64 (leNat bytes)) := by
  simp only [loadRegs, hd, loadValue, Bool.and_eq_true, decide_eq_true_eq]
  rfl

theorem loadRegs_two {d e : Reg} (hd : f.vdst = [d, e]) (n : Nat) (bytes : List Byte) (r : Regs) : loadRegs f sx n bytes r =
    (r.put d (BitVec.ofNat 64 (leNat (bytes.take 8)))).put e (BitVec.ofNat 64 (leNat (bytes.drop 8))) := by
  simp only [loadRegs, hd]

/-- A load that nothing holds back or bars lands. -/
theorem completeLoad_landed (hc : s.ctx? c.id = some c) (hquiet : c.quiet f.num = true)
    (holder : c.olderOver f.num a.rest.1 a.rest.2 = false) (hasks : s.loadAsks c f.num a = false)
    (hfault : s.readFault c.id.wg a a.rest (s.ctxPoison c f.num a.rest.1 a.rest.2) = none) :
    let t := s.completeLoad c f a sx
    let bytes := a.joined ((s.fillL1 (s.coreOf c) a.rest.1).ctxBytes c f.num a.rest.1 a.rest.2)
    (s.freesNone c f.num = true → t = { s with ctxs := t.ctxs, cores := t.cores, seen := t.seen }) ∧
      FreesOnly s t (s.coreOf c) ∧ Landed s t c.id f.num (loadRegs f sx a.size bytes c.regs) := by
  intro t bytes
  let u := s.loadLanded c f a sx
  obtain ⟨cores, seen, hread⟩ := lineRead_frame s c f.num a.rest.1 a.rest.2
  obtain ⟨hsettle, hlanded⟩ := landed_settles (u := s.lineRead c f.num a.rest.1 a.rest.2) (num := f.num)
    (g := loadRegs f sx a.size (a.joined ((s.lineRead c f.num a.rest.1 a.rest.2).ctxBytes c f.num a.rest.1 a.rest.2)))
    (by rw [hread]) hc hquiet (s.coreOf c)
  obtain ⟨uctxs, ucores, useen, hu⟩ := loadLanded_frame s c f a sx
  have ht : t = u.replayDone (s.coreOf c) c.id f.num := by
    refine (completeLoad_eq s c f a sx).trans ?_
    rw [holder, hasks, hfault]
    exact hsettle
  refine ⟨fun hfree => ?_, fun hok k hk => ?_, ?_⟩
  · have hfree' : u.freesNone c f.num = true := by
      rw [State.freesNone, loadLanded_coreOf, loadLanded_faultsOut]
      exact hfree
    obtain ⟨tcores, hdone⟩ := replayDone_freesNone hfree'
    rw [loadLanded_coreOf] at hdone
    rw [ht, hdone, show u = _ from hu]
  · rw [ht]
    refine (replayDone_freesOnly (s := u) (num := f.num) (s.coreOf c) c.id ?_ k fun e he hres => ?_).trans ?_
    · show (s.loadLanded c f a sx).memOk = true
      rw [hu]
      exact hok
    · exact hk e (loadLanded_faultsOut s c f a sx (s.coreOf c) ▸ he) hres
    · show cellRead (s.loadLanded c f a sx).mem k = _
      rw [hu]
  · simp only [ht, bytes]
    rw [← lineRead_bytes]
    exact hlanded

/-- A load that may not have its bytes fails, where its thread is exposed. -/
theorem completeLoad_fails {h : Word} {x : Nat × Word} (hc : s.ctx? c.id = some c) (hx : c.exposed f = true)
    (hfree : s.freesNone c f.num = true) (hh : s.handles c h)
    (holder : c.olderOver f.num a.rest.1 a.rest.2 = false) (hasks : s.loadAsks c f.num a = false)
    (hfault : s.readFault c.id.wg a a.rest (s.ctxPoison c f.num a.rest.1 a.rest.2) = some x) :
    Fails s (s.completeLoad c f a sx) c f h x.1 x.2 := by
  have hlvl : c.id.lvl = 0 := by
    simp only [Ctx.exposed, Bool.and_eq_true, beq_iff_eq] at hx
    exact hx.1.2
  rw [completeLoad_eq, holder, hasks, hfault]
  simp only [Bool.false_eq_true, if_false, hlvl, ne_eq, not_true_eq_false]
  exact fails_settle hc hx hfree hh x.1 x.2

/-- A load asks another device just where the statement says that it is far. -/
theorem loadAsks_iff : s.loadAsks c num a = true ↔ isRemoteKey a.key = true ∧ a.asked = none ∧
    ∃ j < a.rest.2, s.fromHome (s.viewer c num) (a.rest.1 + j) = true := by
  simp only [State.loadAsks, Access.unsent, Bool.and_eq_true, Option.isNone_iff_eq_none, List.any_eq_true,
    List.mem_range, and_assoc]

end

/-- Settles O12: an LD's issue leaves its loads outstanding, and LOAD_COMPLETE waits, asks another device, fails, or lands with
the bytes that the thread sees. -/
theorem loads : Obligations.Loads := by
  refine ⟨?_, ?_⟩
  · intro s f check load kind hs
    obtain ⟨tlb, forks, cores, hexec, hforks, hcores⟩ := exec_ld hs
    obtain ⟨-, hlane⟩ := lane_clear (d := ldDo s f) hs (fun _ => rfl) (fun _ => rfl)
    have hkind (c : Ctx) : accessFlight (.load (f.sx == 1)) (lmSize f) (check c) = kind c := by
      simp only [accessFlight, kind, load]
      cases (check c).2 <;> rfl
    refine ⟨_, hexec, ?_, ?_, hcores, fun hsp => if_neg hsp, hforks, fun hsp c hc w hw => ?_⟩
    · rw [hlane]
      refine ctxs_step fun c _ _ => ?_
      rw [← hkind]
      rfl
    · rw [hlane]
    · exact loomedBy_holding hsp hc hw
  · intro s id num c f a sx hhas hwhat hop part wholly far bytes x barred
    have hexec := exec_loadComplete hhas hwhat hop
    obtain ⟨hc, hf⟩ := hhas
    obtain rfl : c.id = id := (State.ctx?_mem hc).2
    obtain rfl : f.num = num := by simpa using List.find?_some hf
    have hpart : a.rest = part := rfl
    have hbytes (l : List Byte) : a.joined l = wholly l := rfl
    have hfar : s.loadAsks c f.num a = true ↔ far := by rw [loadAsks_iff, hpart]
    have hnear (h : ¬far) : s.loadAsks c f.num a = false := Bool.eq_false_iff.mpr (mt hfar.mp h)
    have hbarred (h : barred = true) : s.readFault c.id.wg a part (s.ctxPoison c f.num part.1 part.2) =
        some (causeHANDLE, a.addr) := if_pos h
    have hclear (h : barred = false) : s.readFault c.id.wg a part (s.ctxPoison c f.num part.1 part.2) =
        (s.ctxPoison c f.num part.1 part.2).map (fun u => (causeMEMERR, unitAddr a u)) :=
      if_neg (by rw [show s.handleBars (some c.id.wg) part.1 part.2 = barred from rfl, h]; exact Bool.false_ne_true)
    refine ⟨fun holder => ?_, fun holder hf link comm hdev hroute => ?_,
      fun holder hn hx hfree h hh => ⟨fun hb => ?_, fun u hb hp hlow => ?_⟩,
      fun holder hn hlvl hbad => ?_, fun holder hn hb hp hquiet => ?_⟩
    · refine hexec.trans (congrArg _ ?_)
      rw [completeLoad_eq, hpart, if_pos holder]
    · refine ⟨s.ask c f a false accLoad (.load a.size), ?_, ?_⟩
      · simp only [hexec, completeLoad_eq, hpart, holder, hfar.mpr hf, Bool.false_eq_true, if_false, if_true]
      · rw [ask_sends hf.1 hdev hroute]
        refine ⟨rfl, rfl, fun other ho => onFlights_onlyCtx _ c.id _ other ho, ?_⟩
        refine (ctx?_onCtx (g := Ctx.onFlights _) (fun _ => rfl) c.id).trans ?_
        rw [if_pos rfl]
        exact congrArg _ hc
    · exact ⟨_, hexec, completeLoad_fails (x := (causeHANDLE, a.addr)) hc hx hfree hh holder (hnear hn)
        (hbarred hb)⟩
    · refine ⟨_, hexec, completeLoad_fails (x := (causeMEMERR, a.unitAt u)) hc hx hfree hh holder (hnear hn) ?_⟩
      rw [hpart, hclear hb, hp, Option.map_some, unitAddr_eq hlow]
    · have hfault : ∃ e, s.readFault c.id.wg a part (s.ctxPoison c f.num part.1 part.2) = some e := by
        cases hb : barred with
        | true => exact ⟨_, hbarred hb⟩
        | false =>
          obtain ⟨u, hu⟩ := Option.isSome_iff_exists.mp (hbad.resolve_left (by rw [hb]; exact Bool.false_ne_true))
          exact ⟨_, by rw [hclear hb, hu, Option.map_some]⟩
      obtain ⟨e, he⟩ := hfault
      show exec _ s = _
      rw [hexec, completeLoad_eq, hpart, holder, hnear hn, he]
      simp only [Bool.false_eq_true, if_false, if_pos hlvl]
    · have hfault : s.readFault c.id.wg a part (s.ctxPoison c f.num part.1 part.2) = none := by
        rw [hclear hb, hp, Option.map_none]
      obtain ⟨hframe, hmem, hlanded⟩ := completeLoad_landed (sx := sx) hc hquiet holder (hnear hn) hfault
      rw [hpart, hbytes] at hlanded
      exact ⟨_, hexec, hframe, hmem, fun d hd => loadRegs_one hd a.size bytes c.regs ▸ hlanded,
        fun d e hd => loadRegs_two hd a.size bytes c.regs ▸ hlanded⟩

end Sys2Proof.Machine
end

section
/-!
PROOF. The issue of stores: what enters a core's store path, and a continuation's fork buffer.
-/
namespace Sys2Proof.Machine

/-! ### The store path -/

/-- What a store path keeps of a write, whatever its name. -/
def PendingWrite.plain (p : PendingWrite) : Option CtxId × Nat × HomeOp := (p.src, p.key, p.op)

/-- A store adds the writes of its parts to the store path. -/
theorem pushStore_frame (s : State) (core : Nat) (id : CtxId) (addr : Word) (ins : Word × Code) (key : Nat) (bytes : List Byte) :
    ∃ ps n, s.pushStore core id addr ins key bytes = { s with stores := s.stores ++ ps, nextNum := n } ∧
      ps.map PendingWrite.plain = (storeParts key bytes).map (fun e => (some id, e)) := by
  unfold State.pushStore storeParts
  split
  · refine ⟨_, _, rfl, ?_⟩
    simp [State.pushWrite, nameStore, PendingWrite.plain]
  · refine ⟨_, _, rfl, ?_⟩
    simp [State.pushWrite, nameStore, PendingWrite.plain]

/-! ### The fork buffer -/

/-- A fork is the one behind which a continuation runs. -/
def Fork.behind (g : Fork) (id : CtxId) : Prop := g.wg = id.wg ∧ g.tix = id.tix ∧ g.depth = id.lvl

/-- A store of a continuation enters the buffer of the fork behind which it runs (R206). -/
def Fork.buffered (b : BufStore) (id : CtxId) (g : Fork) : Fork :=
  if g.wg = id.wg ∧ g.tix = id.tix ∧ g.depth = id.lvl then { g with buffer := g.buffer ++ [b] } else g

theorem buffered_behind {b : BufStore} {id : CtxId} {g : Fork} (h : g.behind id) :
    g.buffered b id = { g with buffer := g.buffer ++ [b] } := if_pos h

theorem buffered_other {b : BufStore} {id other : CtxId} {g : Fork} (h : g.behind other) (hne : other ≠ id) :
    g.buffered b id = g := if_neg fun ⟨hwg, htix, hlvl⟩ => hne (by
  obtain ⟨hwg', htix', hlvl'⟩ := h
  cases other; cases id
  simp_all)

theorem buffered_keeps (b : BufStore) (id : CtxId) (g : Fork) :
    (g.buffered b id).wg = g.wg ∧ (g.buffered b id).tix = g.tix ∧ (g.buffered b id).depth = g.depth := by
  unfold Fork.buffered
  split <;> exact ⟨rfl, rfl, rfl⟩

/-- The stores of some continuations, each with its own name, enter the buffers of their forks. -/
def Fork.bufferedAll (b : Ctx → BufStore) (l : List Ctx) (g : Fork) : Fork := l.foldl (fun g c => g.buffered (b c) c.id) g

theorem bufferedAll_keeps (b : Ctx → BufStore) : ∀ (l : List Ctx) (g : Fork),
    (g.bufferedAll b l).wg = g.wg ∧ (g.bufferedAll b l).tix = g.tix ∧ (g.bufferedAll b l).depth = g.depth
  | [], _ => ⟨rfl, rfl, rfl⟩
  | c :: l, g => by
    obtain ⟨hwg, htix, hdepth⟩ := bufferedAll_keeps b l (g.buffered (b c) c.id)
    obtain ⟨hwg', htix', hdepth'⟩ := buffered_keeps (b c) c.id g
    exact ⟨hwg.trans hwg', htix.trans htix', hdepth.trans hdepth'⟩

theorem bufferedAll_absent {b : Ctx → BufStore} {id : CtxId} : ∀ {l : List Ctx} {g : Fork}, g.behind id →
    (∀ c ∈ l, c.id ≠ id) → g.bufferedAll b l = g
  | [], _, _, _ => rfl
  | c :: l, g, h, hl => by
    rw [Fork.bufferedAll, List.foldl_cons, buffered_other h (hl c List.mem_cons_self).symm]
    exact bufferedAll_absent h fun d hd => hl d (List.mem_cons_of_mem c hd)

/-- Among continuations of different names, each adds its one store to the buffer of its fork. -/
theorem bufferedAll_one {b : Ctx → BufStore} {c : Ctx} : ∀ {l : List Ctx} {g : Fork}, (l.map Ctx.id).Nodup → c ∈ l →
    g.behind c.id → g.bufferedAll b l = { g with buffer := g.buffer ++ [b c] }
  | d :: l, g, hn, hc, h => by
    obtain ⟨hd, hn⟩ := List.nodup_cons.mp hn
    rw [Fork.bufferedAll, List.foldl_cons]
    rcases List.mem_cons.mp hc with rfl | hc
    · rw [buffered_behind h]
      exact bufferedAll_absent (g := { g with buffer := g.buffer ++ [b c] }) h
        fun e he heq => hd (heq ▸ List.mem_map_of_mem he)
    · have hne : c.id ≠ d.id := fun heq => hd (heq ▸ List.mem_map_of_mem hc)
      rw [buffered_other h hne]
      exact bufferedAll_one hn hc h

/-- The buffer of the fork behind which a continuation runs takes its one store. -/
theorem forkOf_bufferedAll {s t : State} {b : Ctx → BufStore} {l : List Ctx} {c : Ctx}
    (ht : t.forks = s.forks.map (Fork.bufferedAll b l)) (hn : (l.map Ctx.id).Nodup) (hc : c ∈ l) :
    (t.forkOf c.id).map Fork.buffer = (s.forkOf c.id).map (fun g => g.buffer ++ [b c]) := by
  have hkey : (fun g : Fork => g.wg == c.id.wg && g.tix == c.id.tix && g.depth == c.id.lvl) ∘ Fork.bufferedAll b l =
      (fun g : Fork => g.wg == c.id.wg && g.tix == c.id.tix && g.depth == c.id.lvl) := by
    funext g
    obtain ⟨hwg, htix, hdepth⟩ := bufferedAll_keeps b l g
    simp only [Function.comp, hwg, htix, hdepth]
  rw [State.forkOf, ht, List.find?_map, hkey, Option.map_map]
  cases hg : s.forks.find? (fun g => g.wg == c.id.wg && g.tix == c.id.tix && g.depth == c.id.lvl) with
  | none => rw [State.forkOf, hg]; rfl
  | some g =>
    have hbehind : g.behind c.id := by
      have := List.find?_some hg
      simpa only [Fork.behind, Bool.and_eq_true, beq_iff_eq, and_assoc] using this
    rw [State.forkOf, hg, Option.map_some, Option.map_some]
    show some (g.bufferedAll b l).buffer = _
    rw [bufferedAll_one hn hc hbehind]

/-! ### The issue of a course's stores -/

/-- A store whose access has a key, beside its thread. -/
theorem noteStore_key {f : LM} {num : Nat} {v : Word × Verdict} {s : State} {c : Ctx} {k : Nat} (h : v.2 = .key k) :
    noteStore f num v s c = (s.noteVerdict c v).ctxStore c num v.1 (s.noteVerdict c v).ins k (stData f c.regs) := by
  simp only [noteStore, h]

theorem noteStore_thread (f : LM) (num : Nat) {v : Word × Verdict} {s : State} {c : Ctx} {k : Nat} (h : v.2 = .key k)
    (hl : c.id.lvl = 0) : ∃ tlb forks ps n, noteStore f num v s c = { s with
      tlb := tlb, forks := forks, stores := s.stores ++ ps, nextNum := n } ∧
      ps.map PendingWrite.plain = (storeParts k (stData f c.regs)).map (fun e => (some c.id, e)) := by
  obtain ⟨tlb, hnote⟩ := noteVerdict_frame s c v
  have hid : ({ c.id with lvl := 0 } : CtxId) = c.id := by rw [← hl]
  obtain ⟨ps, n, hpush, hps⟩ := pushStore_frame { s with tlb := tlb } (s.coreOf c) c.id v.1 s.ins k (stData f c.regs)
  obtain ⟨forks, hhit⟩ := hitForks_frame ({ s with tlb := tlb, stores := s.stores ++ ps, nextNum := n } : State) c.id k
    (stData f c.regs).length
  refine ⟨tlb, forks, ps, n, ?_, hps⟩
  rw [noteStore_key h, hnote, State.ctxStore, if_pos hl, hid]
  exact (congrArg (fun u => State.hitForks u c.id k (stData f c.regs).length) hpush).trans hhit

/-- What a continuation's store puts into the buffer of its fork. -/
def State.bufStore (s : State) (f : LM) (num : Nat) (check : Ctx → Word × Verdict) (c : Ctx) : BufStore :=
  { num := num, addr := (check c).1, ins := s.ins, key := (check c).2.place, bytes := stData f c.regs,
    count := ((s.ctx? c.id).map Ctx.count).getD 0 }

theorem noteStore_continuation (f : LM) (num : Nat) {check : Ctx → Word × Verdict} {s : State} {c : Ctx}
    (h : (check c).2 = .key (check c).2.place) (hl : c.id.lvl ≠ 0) : ∃ tlb, noteStore f num (check c) s c = { s with
      tlb := tlb, forks := s.forks.map (Fork.buffered (s.bufStore f num check c) c.id) } := by
  obtain ⟨tlb, hnote⟩ := noteVerdict_frame s c (check c)
  refine ⟨tlb, ?_⟩
  rw [noteStore_key h, hnote, State.ctxStore, if_neg hl]
  rfl

/-- The stores of a course change nothing but translations, forks, store paths and the numbers given. -/
def StoresOnly (s t : State) : Prop :=
  t = { s with nextNum := t.nextNum, tlb := t.tlb, forks := t.forks, stores := t.stores }

theorem StoresOnly.trans {s t u : State} (h1 : StoresOnly s t) (h2 : StoresOnly t u) : StoresOnly s u := by
  unfold StoresOnly at *
  rw [h2, h1]

theorem StoresOnly.ctx? {s t : State} (h : StoresOnly s t) (id : CtxId) : t.ctx? id = s.ctx? id := by
  rw [h]
  rfl

theorem noteStore_only (f : LM) (num : Nat) {v : Word × Verdict} {s : State} {c : Ctx} {k : Nat} (h : v.2 = .key k) :
    StoresOnly s (noteStore f num v s c) := by
  by_cases hl : c.id.lvl = 0
  · obtain ⟨tlb, forks, ps, n, hnote, -⟩ := noteStore_thread f num (s := s) h hl
    rw [hnote]
    rfl
  · obtain ⟨tlb, hnote⟩ := noteStore_continuation f num (check := fun _ => v) (s := s) (by rw [h]; rfl) hl
    rw [hnote]
    rfl

section
variable (f : LM) (num : Nat) {check : Ctx → Word × Verdict}

theorem noteStores_only : ∀ {l : List Ctx} {s : State}, (∀ c ∈ l, (check c).2 = .key (check c).2.place) →
    StoresOnly s (l.foldl (fun t c => noteStore f num (check c) t c) s)
  | [], _, _ => rfl
  | c :: _, s, h => StoresOnly.trans (noteStore_only f num (s := s) (h c List.mem_cons_self))
      (noteStores_only fun d hd => h d (List.mem_cons_of_mem c hd))

/-- The stores of threads enter the store path in the order of the course. -/
theorem noteStores_threads : ∀ {l : List Ctx} {s : State}, (∀ c ∈ l, (check c).2 = .key (check c).2.place) →
    (∀ c ∈ l, c.id.lvl = 0) → (l.foldl (fun t c => noteStore f num (check c) t c) s).stores.map PendingWrite.plain =
      s.stores.map PendingWrite.plain ++
        l.flatMap (fun c => (storeParts (check c).2.place (stData f c.regs)).map (fun e => (some c.id, e)))
  | [], s, _, _ => (List.append_nil _).symm
  | c :: l, s, h, hl => by
    obtain ⟨tlb, forks, ps, n, hnote, hps⟩ := noteStore_thread f num (s := s) (h c List.mem_cons_self) (hl c List.mem_cons_self)
    rw [List.foldl_cons, noteStores_threads (fun d hd => h d (List.mem_cons_of_mem c hd))
      (fun d hd => hl d (List.mem_cons_of_mem c hd)), hnote, List.flatMap_cons, ← hps, List.map_append, List.append_assoc]

/-- The stores of continuations enter the buffers of their forks. -/
theorem noteStores_continuations : ∀ {l : List Ctx} {s : State}, (∀ c ∈ l, (check c).2 = .key (check c).2.place) →
    (∀ c ∈ l, c.id.lvl ≠ 0) → let t := l.foldl (fun t c => noteStore f num (check c) t c) s
      t.stores = s.stores ∧ t.forks = s.forks.map (Fork.bufferedAll (s.bufStore f num check) l)
  | [], s, _, _ => ⟨rfl, (List.map_id'' (fun _ => rfl) _).symm⟩
  | c :: l, s, h, hl => by
    obtain ⟨tlb, hnote⟩ := noteStore_continuation f num (s := s) (h c List.mem_cons_self) (hl c List.mem_cons_self)
    obtain ⟨hstores, hforks⟩ := noteStores_continuations (s := noteStore f num (check c) s c)
      (fun d hd => h d (List.mem_cons_of_mem c hd)) (fun d hd => hl d (List.mem_cons_of_mem c hd))
    refine ⟨?_, ?_⟩
    · rw [List.foldl_cons, hstores, hnote]
    · have hbuf : (noteStore f num (check c) s c).bufStore f num check = s.bufStore f num check := by
        rw [hnote]
        rfl
      rw [List.foldl_cons, hforks, hbuf, hnote, List.map_map]
      rfl

end

/-- The actors of a course of different names have different names. -/
theorem actors_nodup {s : State} {i : Instr} (h : s.cur.course.Nodup) : ((s.actors i).map Ctx.id).Nodup := by
  refine List.Nodup.sublist ?_ h
  unfold State.actors
  induction s.cur.course with
  | nil => exact List.Sublist.refl _
  | cons id ids ih =>
    rw [List.filterMap_cons]
    cases hc : (s.ctx? id).filter (fun c => fate (s.shp i) (s.pfx i) c.regs == .acts) with
    | none => exact ih.cons id
    | some c =>
      have hid : c.id = id := by
        obtain ⟨hfound, -⟩ := Option.filter_eq_some_iff.mp hc
        exact (State.ctx?_mem hfound).2
      rw [List.map_cons, hid]
      exact ih.cons_cons id

end Sys2Proof.Machine
end

section
/-!
PROOF. Stores: STORE_VISIBLE of a pending write, and the whole of O13.
-/
namespace Sys2Proof.Machine

/-! ### The issue -/

/-- The state that an ST leaves whose accesses pass their checks. -/
theorem exec_st {s : State} {f : LM} (hs : s.clear (.st f) = true)
    (hp : s.passes (.st f) (s.lmCheck (s.pfx (.st f)) f accStore) = true) : exec (.st f) s = .next
      ((s.actors (.st f)).foldl (fun t c => noteStore f s.nextNum (s.lmCheck (s.pfx (.st f)) f accStore c) t c)
        (lane (.st f) (stDo s f) s)) := by
  obtain ⟨hact, -⟩ := lane_clear (d := stDo s f) hs (fun _ => rfl) (fun _ => rfl)
  show execSt f s = _
  simp only [execSt, hact]
  rw [no_fault_reqs (check := fun c => s.lmCheck (s.pfx (.st f)) f accStore c) hp, postFaults_nil]

/-- Nothing of a store whose access passes its checks stays outstanding. -/
theorem st_moves {s : State} {f : LM} {c : Ctx} {k : Nat} (h : (s.lmCheck (s.pfx (.st f)) f accStore c).2 = .key k) :
    Moves s c (laneActs s (.st f) (stDo s f) c) (s.recorded (.st f) c) := by
  have hflight : (stDo s f).flight c = none := by simp only [stDo, h]
  simp only [Moves, laneActs, hflight, List.append_nil]
  rfl

/-! ### STORE_VISIBLE -/

section
variable {s : State} {p : PendingWrite}

theorem exec_storeVisible (h : s.stores.find? (fun q => q.num == p.num) = some p) :
    exec (.storeVisible p.num) s = .next (if s.writeReady p then s.advanceWrite p else s) := by
  show execStoreVisible p.num s = _
  simp only [execStoreVisible, h]

/-- A write that may not be performed at its home is dropped, and its threads wait to trap. -/
theorem trapWrite_eq {src : CtxId} (hsrc : p.src = some src) (cause : Nat) : s.trapWrite p cause =
    { s with ctxs := s.ctxs.map (p.holdIn src (.trap cause p.addr)), stores := s.stores.filter (fun q => q.num != p.num) } := by
  simp only [State.trapWrite, hsrc, holdStore_eq]
  rfl

theorem handleHolds_iff : s.handleHolds p = true ↔
    ∃ src, p.src = some src ∧ s.handleBars (some src.wg) p.key p.op.size = true := by
  simp only [State.handleHolds]
  cases p.src <;> simp

theorem patchL1_frame (s : State) (core key : Nat) (bytes : List Byte) :
    ∃ cores, s.patchL1 core key bytes = { s with cores := cores } := by
  unfold State.patchL1
  split
  · exact ⟨_, rfl⟩
  · exact ⟨s.cores, rfl⟩

theorem markWrite_frame (s : State) (p : PendingWrite) (n : Nat) : ∃ marks, s.markWrite p n = { s with marks := marks } := by
  unfold State.markWrite
  split
  · exact ⟨_, rfl⟩
  · split
    · exact markBy_frame _ _ _ _ _
    · exact ⟨s.marks, rfl⟩

/-- A write that is performed: its home is written, and one to another device waits for its acknowledgement. -/
theorem perform_frame (s : State) (p : PendingWrite) : ∃ marks cores, s.perform p =
    { ({ s with
        stores := s.stores.filter (fun q => q.num != p.num)
        acks := s.acks ++ (if isRemoteKey p.key then [p] else []) } : State).homeStore p.key (homeBytes s.mem p.key p.op)
          p.op.poisoned with marks := marks, cores := cores } := by
  have hacks : (if isRemoteKey p.key then
      ({ s with stores := s.stores.filter (fun q => q.num != p.num), acks := s.acks ++ [p] } : State)
      else { s with stores := s.stores.filter (fun q => q.num != p.num) }) =
      { s with
        stores := s.stores.filter (fun q => q.num != p.num)
        acks := s.acks ++ (if isRemoteKey p.key then [p] else []) } := by
    cases isRemoteKey p.key with
    | true => rfl
    | false => simp only [Bool.false_eq_true, if_false, List.append_nil]
  simp only [State.perform]
  rw [hacks]
  generalize ({ s with
    stores := s.stores.filter (fun q => q.num != p.num)
    acks := s.acks ++ (if isRemoteKey p.key then [p] else []) } : State).homeStore p.key (homeBytes s.mem p.key p.op)
      p.op.poisoned = v
  obtain ⟨marks, hmarks⟩ := markWrite_frame v p (homeBytes s.mem p.key p.op).length
  rw [hmarks]
  split
  · obtain ⟨cores, hcores⟩ := patchL1_frame ({ v with marks := marks } : State) p.core p.key (homeBytes s.mem p.key p.op)
    exact ⟨marks, cores, hcores⟩
  · exact ⟨marks, v.cores, rfl⟩

/-- A write that is performed stores its bytes, and leaves threads, teams, forks and the dispatcher's clock. -/
theorem perform_stores (s : State) (p : PendingWrite) : let t := s.perform p
    Stored s t p.key (homeBytes s.mem p.key p.op) ∧ t.ctxs = s.ctxs ∧ t.teams = s.teams ∧ t.forks = s.forks ∧
      t.undue = s.undue ∧
      t.dcycle = s.dcycle ∧ t.poison = poisonAfter s.poison p.key (homeBytes s.mem p.key p.op).length p.op.poisoned ∧
      t.acks = s.acks ++ (if isRemoteKey p.key then [p] else []) := by
  obtain ⟨marks, cores, ht⟩ := perform_frame s p
  simp only [ht]
  let u : State := { s with
    stores := s.stores.filter (fun q => q.num != p.num)
    acks := s.acks ++ (if isRemoteKey p.key then [p] else []) }
  obtain ⟨w, ⟨_, hw⟩, hfires⟩ := homeStore_frame u p.key (homeBytes s.mem p.key p.op) p.op.poisoned
  refine ⟨stored_homeStore u _ _ _, homeStore_ctxs u _ _ _, homeStore_teams u _ _ _, homeStore_forks u _ _ _, ?_, ?_,
    homeStore_poison u _ _ _, ?_⟩
  · exact homeStore_launches u _ _ _
  · rw [hfires, hw]
  · rw [hfires, hw]

/-- A write to another device goes out on its route. -/
theorem sendWrite_eq {link comm : Nat} (hfar : isRemoteKey p.key = true) (hdev : s.devnum.isSome)
    (hroute : Table.find s.routes (remoteDev p.key) = some (link, comm)) : s.sendWrite p = { s with
      stores := s.stores.map (fun q => if q.num = p.num then { q with sent := true } else q)
      linkOut := s.linkOut ++ [packetTo s p.key p.num (p.op.span s.mem p.key) link comm] } := by
  simp only [State.sendWrite, State.spanOut, hfar, hdev, Bool.and_self, if_true, hroute]
  rfl

/-- The kind of wait of a store that found no route. -/
def PendingWrite.unreached (p : PendingWrite) (src : CtxId) (bytes : List Byte) : FlightKind :=
  .parked { addr := p.addr, key := p.key, size := bytes.length, op := .store bytes } (decide (src.lvl = 1))

theorem loseWrite_dropped {src : CtxId} {bytes : List Byte} {bad : Bool} (hsrc : p.src = some src) (hop : p.op = .put bytes bad)
    (hst : s.storers src = []) : s.loseWrite p = { s with stores := s.stores.filter (fun q => q.num != p.num) } := by
  simp only [State.loseWrite, hsrc, hop, hst]

/-- A store that finds no route waits for its replay at the threads that issued it, and its fault is to be recorded. -/
theorem loseWrite_parks {src : CtxId} {bytes : List Byte} {bad : Bool} {c : Ctx} {cs : List Ctx} (hsrc : p.src = some src)
    (hop : p.op = .put bytes bad) (hst : s.storers src = c :: cs) (hc : s.ctx? c.id = some c) :
    ∃ r : FaultReq, s.loseWrite p =
      ({ s with ctxs := s.ctxs.map (p.holdIn src (p.unreached src bytes)), stores := s.stores.map (p.lostAt c) } : State).onCore
        (s.coreOf c) (fun k => { k with faultsWaiting := k.faultsWaiting ++ [r] }) ∧
      r.addr = p.addr ∧ r.pc = p.ins.1 ∧ r.reason = 4 ∧ r.access = 1 ∧ r.agent = (if src.lvl = 1 then 1 else 0) ∧
      r.level = s.levelOf src.wg p.addr.toNat ∧ r.who = (s.storers src).map (fun k => (k.id, p.num)) := by
  have hm : c ∈ s.storers src := hst ▸ List.mem_cons_self
  have hd : (s.mapCtx (p.holdIn src (p.unreached src bytes))).ctx? c.id = some (p.holdIn src (p.unreached src bytes) c) := by
    rw [ctx?_mapCtx (holdIn_id p src _), hc, Option.map_some]
  simp only [State.loseWrite, hsrc, hop, hst, holdStore_eq]
  refine ⟨_, postFaults_posts _ (.inr ⟨(c.id, p.num), List.mem_cons_self, ?_⟩), rfl, rfl, rfl, rfl, ?_, rfl, rfl⟩
  · exact holds_of_mem (c := p.holdIn src (p.unreached src bytes) c) hd (flight_mem_holdIn _ hm) rfl
  · simp only [decide_eq_true_eq]

end

/-- Settles O13: an ST's issue puts its bytes into the store path, or into a fork buffer, and STORE_VISIBLE waits, performs the
write, sends it, parks it, or makes its threads trap. -/
theorem stores : Obligations.Stores := by
  refine ⟨?_, ?_⟩
  · intro s f i check data hs hp _
    obtain ⟨-, hlane⟩ := lane_clear (d := stDo s f) hs (fun _ => rfl) (fun _ => rfl)
    have hkeys : ∀ c ∈ s.actors i, (check c).2 = .key (check c).2.place := fun c hc =>
      passes_key hp (mem_actors hc).1 (mem_actors hc).2
    have honly := noteStores_only f s.nextNum (check := check) (s := lane i (stDo s f) s) hkeys
    have hthreads := noteStores_threads f s.nextNum (check := check) (s := lane i (stDo s f) s) hkeys
    have hforked := noteStores_continuations f s.nextNum (check := check) (s := lane i (stDo s f) s) hkeys
    refine ⟨_, exec_st hs hp, ?_, ?_, fun hl => ?_, fun hl hn => ?_⟩
    · rw [honly, hlane]
      exact ctxs_step fun c hc ha => st_moves (passes_key hp hc ha)
    · rw [honly, hlane]
    · rw [hlane] at hthreads ⊢
      exact hthreads hl
    · obtain ⟨hstores, hforks⟩ := hforked hl
      refine ⟨hstores.trans (by rw [hlane]), fun c hc => ?_⟩
      rw [forkOf_bufferedAll hforks (actors_nodup hn) hc, honly.ctx?, hlane]
      rfl
  · intro s p hfind far owned goes fault waiting traps
    have hexec := exec_storeVisible hfind
    have hgoes (hg : goes) : exec (.storeVisible p.num) s = .next (
        if far then (if s.reaches (remoteDev p.key) then s.sendWrite p else s.loseWrite p) else s.perform p) := by
      obtain ⟨hready, hheld, howned⟩ := hg
      have hholds : s.handleHolds p = false := Bool.eq_false_iff.mpr (mt handleHolds_iff.mp howned)
      simp only [hexec, hready, State.advanceWrite, hheld, hholds, Bool.false_eq_true, if_false, if_true]
      rfl
    have hwaiting (src : CtxId) (what : FlightKind) : p.holdIn src what = waiting src what := rfl
    have htraps (src : CtxId) (cause : Nat) (hsrc : p.src = some src)
        (h : exec (.storeVisible p.num) s = .next (s.trapWrite p cause)) : traps src cause := by
      refine ⟨_, h, ?_⟩
      rw [trapWrite_eq hsrc]
      exact ⟨rfl, rfl, rfl⟩
    refine ⟨fun hw => ?_, fun hg hf => ?_, fun hg hf hdev link comm hroute => ?_, fun src bytes bad hg hf hnone hsrc hop => ?_,
      fun src hsrc hready hheld => ?_, fun src hsrc hready hheld hown => ?_⟩
    · refine hexec.trans (congrArg _ ?_)
      rw [hw, if_neg Bool.false_ne_true]
    · refine ⟨s.perform p, ?_, perform_stores s p⟩
      rw [hgoes hg, hf, if_neg Bool.false_ne_true]
    · have hkey : isRemoteKey p.key = true := (Bool.and_eq_true_iff.mp hf).1
      have hreach : s.reaches (remoteDev p.key) = true := by rw [State.reaches, hdev, hroute]; rfl
      refine ⟨s.sendWrite p, ?_, ?_⟩
      · rw [hgoes hg, hf, if_pos rfl, if_pos hreach]
      · rw [sendWrite_eq hkey hdev hroute]
        refine ⟨rfl, rfl, ?_⟩
        cases hop : p.op <;> rfl
    · have hreach : s.reaches (remoteDev p.key) = false := by
        rw [State.reaches]
        rcases hnone with h | h <;> simp [h]
      have hlost : exec (.storeVisible p.num) s = .next (s.loseWrite p) := by
        rw [hgoes hg, hf, if_pos rfl, hreach, if_neg Bool.false_ne_true]
      refine ⟨fun hnobody => ?_, fun c cs hst hc => ?_⟩
      · rw [hlost, loseWrite_dropped hsrc hop hnobody]
      · obtain ⟨r, hlose, hr⟩ := loseWrite_parks hsrc hop hst hc
        refine ⟨_, hlost, ?_⟩
        rw [hlose]
        refine ⟨rfl, rfl, rfl, r, faultsWaiting_onCore _ _ r, ?_⟩
        exact hr
    · apply htraps src causeSLAB hsrc
      simp only [hexec, hready, State.advanceWrite, hheld, if_true]
      rfl
    · have hholds : s.handleHolds p = true := handleHolds_iff.mpr hown
      apply htraps src causeHANDLE hsrc
      simp only [hexec, hready, State.advanceWrite, hheld, hholds, Bool.false_eq_true, if_false, if_true]

end Sys2Proof.Machine
end
